-- ==== Sys2Proof/Word.lean ====
section
/-! DEFINITION. The machine's word, byte and logical-time types (R5, R7, R297). -/
namespace Sys2Proof

/-- A 64-bit scalar register or pointer (R12). -/
abbrev Word := BitVec 64
/-- A 32-bit word of code, a vector slot, an FP32 accumulator (R7, R12, R77). -/
abbrev Word32 := BitVec 32
/-- One byte (R7). -/
abbrev Byte := BitVec 8
/-- A logical time, counted modulo 2^62 (R9, R297). -/
abbrev Time := BitVec 62

end Sys2Proof
end

