-- ==== Sys2Proof/Machine/Flags.lean ====
section
/-! DEFINITION. Exception flags (R70 to R73): their bits in FFLAGS, how they gather, which an exception mask selects. Each arithmetic
operation of Numbers and Vector gives its own. -/
namespace Sys2Proof.Machine

/-- The exception bits of FFLAGS (R70). -/
abbrev Flags := BitVec 6
def fNV : Flags := 1
def fDZ : Flags := 2
def fOF : Flags := 4
def fUF : Flags := 8
def fNX : Flags := 16
def fSAT : Flags := 32
/-- The flags of the elements that contribute (R71); a null element contributes none. -/
def gatherFlags (l : List (Option Flags)) : Flags := l.foldl (fun a e => a ||| e.getD 0) 0
/-- FFLAGS after a commit (R72): the value a CSRW of the block writes is placed first, the block's flags are ORed in. -/
def fflagsAfter (old : Flags) (written : Option Flags) (block : Flags) : Flags := written.getD old ||| block
/-- XSEL selects one of an element's exceptions (R73): bit 0 NV, 1 DZ, 2 OF, 3 UF. -/
def xselHits (xsel : BitVec 4) (f : Flags) : Bool := (f &&& xsel.setWidth 6) != 0

end Sys2Proof.Machine
end

