-- ==== Sys2Proof/Syntax.lean ====
section
/-! DEFINITION. The machine's steps as syntax: one constructor per row of spec/opcode_table.json (R74 to R91 for the
encoded ones, 95_what_each_step_holds.md for the events). A field whose illegal codes the decoder refuses is a type of its
own; what remains to check is in WellFormed. -/
namespace Sys2Proof

/-- PR (R78): unpredicated, fires on true, fires on false. -/
inductive Pred where
  | always | onTrue | onFalse
  deriving DecidableEq, Repr
/-- The operand a target names (R79): A, B, C, P. -/
inductive Opnd where
  | a | b | c | p
  deriving DecidableEq, Repr
/-- A target with V = 1 (R79). -/
structure TargetRef where
  opnd : Opnd
  slot : BitVec 7
  deriving DecidableEq, Repr
/-- A target field; none is V = 0 (R79). -/
abbrev Target := Option TargetRef
/-- Word 0 in the B layout, beside LEN and OP (R78). -/
structure BForm where
  pr : Pred
  t0 : Target
  t1 : Target
  deriving DecidableEq, Repr
/-- The third and fourth targets of general word 1 (R82). -/
structure Ext where
  t2 : Target
  t3 : Target
  deriving DecidableEq, Repr
/-- The three immediate forms of R86: LEN 01 with word 2, LEN 10 with the literal, LEN 11 with both words. -/
inductive Imm where
  | word (x : Ext) (v : BitVec 32)
  | lit (v : Word)
  | litX (x : Ext) (v : Word)
  deriving DecidableEq, Repr
/-- R layout of a register read (R80). -/
structure RRead where
  pr : Pred
  reg : BitVec 6
  t0 : Target
  deriving DecidableEq, Repr
/-- R layout of a register write (R80). -/
structure RWrite where
  pr : Pred
  reg : BitVec 6
  deriving DecidableEq, Repr
/-- J layout (R81). -/
structure JForm where
  pr : Pred
  offset : BitVec 20
  deriving DecidableEq, Repr
/-- The RM field (R59); `dyn` is 000, taken from FRM. -/
inductive RoundMode where
  | dyn | rne | rtz | rdn | rup | rna
  deriving DecidableEq, Repr
/-- General word 1 of a vector instruction (R82). -/
structure VWord where
  t2 : Target
  t3 : Target
  xsel : BitVec 4
  rm : RoundMode
  sat : Bool
  xm : Bool
  deriving DecidableEq, Repr
/-- The SP field (R83). -/
inductive Space where
  | generic | global | priv | scratch | shared
  deriving DecidableEq, Repr
/-- Memory word 1 and word 2 (R83). -/
structure MWord where
  t2 : Target
  lsid : BitVec 5
  sz : BitVec 2
  sp : Space
  wi : Bool
  rw : Bool
  fr : Bool
  sx : Bool
  ord : Bool
  ff : Bool
  off : BitVec 32
  deriving DecidableEq, Repr
/-- A matrix-class instruction's predicate and MSID (R78, R84). -/
structure KForm where
  pr : Pred
  msid : BitVec 4
  deriving DecidableEq, Repr
/-- The targets of a matrix-class instruction with a result (R199). -/
structure KRes where
  t0 : Target
  t1 : Target
  t2 : Target
  deriving DecidableEq, Repr
/-- MMUL's ACC field (R84). -/
inductive AccMode where
  | overwrite | accumulate | decay
  deriving DecidableEq, Repr
/-- The unit of MSPILL and MFILL (R200). -/
inductive MxUnit where
  | bank (b : BitVec 2)
  | front
  | back
  deriving DecidableEq, Repr
/-- A peer message as it arrives: the offset in the message window, the payload of the write, and whether it is a UIO
write arriving at a port (R413, R414). -/
structure Msg where
  offset : BitVec 20
  payload : List Byte
  uio : Bool
  deriving DecidableEq, Repr
/-- A firmware image as supplied: its 256-byte header, its body, the public key after it (R450). -/
structure Image where
  header : List Byte
  body : List Byte
  key : List Byte
  deriving DecidableEq, Repr
/-- What a unit failure has failed (R441). -/
inductive FailedUnit where
  | tile (t : Nat)
  | fieldController (c : Nat)
  | rowSequencer (c p : Nat)
  | bank (b : Nat)
  | cluster (c : Nat)
  | device
  deriving DecidableEq, Repr

/-- One constructor per row of the table of operations and events. -/
inductive Instr where
  /-- BLOCK_FETCH (R373). A control core picks a thread for a fetch slot and fetches its next block. -/
  | blockFetch (tid : Nat) (guess : Option Word)
  /-- BLOCK_DECODE (R90). Once a block's lines arrive the core decodes and checks it. -/
  | blockDecode (tid : Nat)
  /-- BLOCK_COMMIT (R32). A complete oldest block commits its effects and moves the commit pointer. -/
  | blockCommit (tid : Nat)
  /-- DEFERRED_RESULT_WRITE (R30). A deferred result arrives and is written to its pending register or save place. -/
  | deferredResultWrite (gid : Nat)
  /-- TRAP_ENTRY (R387). After a fault the thread records the trap and enters the handler at TVEC. -/
  | trapEntry (tid : Nat)
  /-- MATRIX_CLAIM_GRANT (R197). The claim queue grants the claim, resets the state and writes the result. -/
  | matrixClaimGrant (tile : Nat)
  /-- FILL_ACCEPT (R229). A committed WLOAD is accepted once the back plane is not FILLING. -/
  | fillAccept (tid : Nat)
  /-- WLOADA_ACCEPT (R213). A committed WLOADA is accepted once any earlier fill has ended. -/
  | wloadaAccept (tid : Nat)
  /-- FILL_END (R212). A fill ends and the back plane becomes IDLE or FAILED. -/
  | fillEnd (tile : Nat)
  /-- PREEMPT (R391). A PREEMPT or BUDGET event or firmware stops fetching for a thread. -/
  | preempt (tid : Nat)
  /-- PREEMPT_GRACE_EXPIRY (R391). After 2,048 cycles uncommitted blocks are aborted and the save begins. -/
  | preemptGraceExpiry (tid : Nat)
  /-- CONTEXT_SAVE_END (R393). The save completes and the thread's groups, place and claim are released. -/
  | contextSaveEnd (tid : Nat)
  /-- RESUME (R397). A saved thread resumes once its tile has a place, groups and the claim. -/
  | resume (tid : Nat)
  /-- LANE_RESIDUE_FAILURE (R400). A lane fails its residue check, aborting the block and starting a self-test. -/
  | laneResidueFailure (tid : Nat) (slot : Nat) (elem : Nat) (lane : Nat)
  /-- LANE_SELF_TEST_END (R400). The 2,048-cycle self-test ends and the block re-executes or the lane is replaced. -/
  | laneSelfTestEnd (tile : Nat) (group : Nat) (pass : Bool)
  /-- HOME_LOAD (R281). A home serves a load at its bound, raising rts or its clock. -/
  | homeLoad (req : Nat)
  /-- HOME_STORE (R281). A home performs a store as a new version timed above its inputs. -/
  | homeStore (req : Nat)
  /-- HOME_ATOMIC (R186). A home performs an atomic as one indivisible step. -/
  | homeAtomic (req : Nat)
  /-- CLAIMEL_AT_HOME (R194). A home grants elements from a counter pair indivisibly. -/
  | claimelAtHome (req : Nat)
  /-- MWAIT_WAKE (R191). An armed monitor wakes at a write creating a version and returns the value. -/
  | mwaitWake (req : Nat)
  /-- MWAIT_EXPIRY (R191). An MWAIT's cycle limit expires and it returns the newest value. -/
  | mwaitExpiry (req : Nat)
  /-- L1_RENEWAL (R284). A renewal answer arrives and the L1 installs the lease and data. -/
  | l1Renewal (req : Nat)
  /-- RDC_RENEWAL (R286). The RDC renews from the home, stores the answer and passes it on. -/
  | rdcRenewal (req : Nat)
  /-- LEASE_SWEEP (R303). The sweep re-times or drops entries more than 2^58 behind their reference. -/
  | leaseSweep
  /-- CEILING_ADVANCE (R300). The device ceiling advances by 2^17 each microsecond. -/
  | ceilingAdvance
  /-- CLUSTER_TIME_BROADCAST (R302). A cluster sends its homes' maximum clock to its tiles every 4,096 cycles. -/
  | clusterTimeBroadcast (cluster : Nat)
  /-- PAGE_WALK_END (R381). A page walk finishes, installing its leaf or faulting. -/
  | pageWalkEnd (walk : Nat)
  /-- PLOCK_GRANT (R244). The home grants a row lock after conflicts clear, flushing and scrubbing the rows. -/
  | plockGrant (req : Nat)
  /-- LOCKED_TIMEOUT (R390). A load waiting 2^24 cycles on another thread's lock aborts with LOCKED. -/
  | lockedTimeout (req : Nat)
  /-- FIELD_OP_START (R320). The field controller starts a queued op once its sequencers are free. -/
  | fieldOpStart (cluster : Nat) (seq : Nat)
  /-- REFRESH_INTERVAL_END (R324). A bank's 80-step refresh interval ends, raising DEBT or using a credit. -/
  | refreshIntervalEnd (bank : Nat)
  /-- REFRESH (R425). A bank refreshes row RP of each subarray in 6 steps. -/
  | refresh (bank : Nat)
  /-- REFRESH_MANAGEMENT (R428). A bank restores the neighbours of an aggressor row in 8 steps. -/
  | refreshManagement (bank : Nat)
  /-- DRAM_REQUEST (R426). A non-computing bank serves its oldest queued request in one step. -/
  | dramRequest (bank : Nat)
  /-- INSERTION (R323). A computing bank inserts a queued request between op steps. -/
  | insertion (bank : Nat)
  /-- PATROL_READ (R432). Patrol scrub reads and corrects the next data row of a bank. -/
  | patrolRead (bank : Nat)
  /-- COPY_STRIP (R267). The copy engine starts a strip, checking addresses and owner tags. -/
  | copyStrip (tile : Nat) (queue : Nat)
  /-- COPY_STRIP_END (R329). A strip's writes are acknowledged and its slot frees. -/
  | copyStripEnd (tile : Nat) (queue : Nat)
  /-- COPY_STAMP_WRITE (R270). After the last strip the transfer writes its stamp or error witness. -/
  | copyStampWrite (tile : Nat) (queue : Nat)
  /-- COPY_FENCE_RELEASE (R269). A queue fence entry ends once the masked queues' entries have ended. -/
  | copyFenceRelease (tile : Nat) (queue : Nat)
  /-- TRAIN_ELEMENT (R338). A destination performs an arriving train element at its home. -/
  | trainElement (train : Nat)
  /-- TRAIN_TAIL (R338). A train tail arrives and the destination sends its acknowledgement. -/
  | trainTail (train : Nat)
  /-- TRAIN_ACK (R339). A train acknowledgement arrives at the sender. -/
  | trainAck (train : Nat)
  /-- TRAIN_ACK_TIMEOUT (R339). No acknowledgement within 2^24 cycles gives a PARTNER error witness. -/
  | trainAckTimeout (train : Nat)
  /-- QUEUE_DOORBELL (R354). A host write to a queue's doorbell wakes the queue. -/
  | queueDoorbell (queue : Nat) (value : Word)
  /-- QUEUE_HEAD_WAKE (R354). A write to the armed head slot line wakes the queue. -/
  | queueHeadWake (queue : Nat)
  /-- PACKET_FETCH (R356). The front end reads the head slot and takes a packet when PH matches. -/
  | packetFetch (queue : Nat)
  /-- START (R361). START packet naming a team to start. -/
  | start (queue : Nat)
  /-- START_PLACEMENT (R362). A waiting START starts on a tile that can now hold it. -/
  | startPlacement (queue : Nat)
  /-- START_WAIT_TIMEOUT (R372). A START waiting 2^20 cycles pre-empts lower-priority teams. -/
  | startWaitTimeout (queue : Nat)
  /-- REGION_ATTACH (R367). REGION packet attaching an RCB below its parent. -/
  | regionAttach (queue : Nat)
  /-- REGION_RELOAD (R367). REGION packet re-reading an RCB's settings and writing USED back. -/
  | regionReload (queue : Nat)
  /-- REGION_DETACH (R367). REGION packet detaching a node once its teams end. -/
  | regionDetach (queue : Nat)
  /-- CISTERN_ALLOCATE (R367). REGION packet creating a cistern allocation. -/
  | cisternAllocate (queue : Nat)
  /-- CISTERN_FREE (R367). REGION packet freeing a cistern allocation. -/
  | cisternFree (queue : Nat)
  /-- WAIT (R363). WAIT packet starting when a watched address holds a non-satisfied witness. -/
  | wait (queue : Nat)
  /-- STAMP (R364). STAMP packet completing once every earlier packet has completed. -/
  | stamp (queue : Nat)
  /-- COPY (R365). COPY packet running a transfer from a shadow image. -/
  | copy (queue : Nat)
  /-- PLANE (R366). PLANE packet locking rows and launching a furrow op. -/
  | plane (queue : Nat)
  /-- KILL (R368). KILL packet killing a region subtree or one team. -/
  | kill (queue : Nat)
  /-- NOP (R368). NOP packet that completes at once. -/
  | nop (queue : Nat)
  /-- PACKET_COMPLETE (R359). A packet completes and the front end stores its CSTAMP. -/
  | packetComplete (queue : Nat) (seq : Nat)
  /-- BUDGET_CHARGE (R370). Charges are added to USED, and an exhausted budget raises BUDGET. -/
  | budgetCharge (asid : BitVec 12) (rcb : Word) (budget : Nat) (amount : Nat)
  /-- HOST_MEMRD (R311). A host CXL.mem read served at the home at the newest version. -/
  | hostMemrd (pa : Nat) (size : Nat)
  /-- HOST_MEMRD_OWNERSHIP (R412). A host read asking for ownership is served and recorded in the snoop filter. -/
  | hostMemrdOwnership (pa : Nat) (exclusive : Bool)
  /-- HOST_MEMWR (R311). A host CXL.mem write timed at the home as a store. -/
  | hostMemwr (pa : Nat) (bytes : List (BitVec 8))
  /-- BIRSP (R412). The host's back-invalidation response lets the home serve the device access. -/
  | birsp (line : Nat) (bytes : Option (List (BitVec 8)))
  /-- MSG_TRAIN_BEATS (R413). TYPE 1 peer message carrying train beats. -/
  | msgTrainBeats (m : Msg)
  /-- MSG_TRAIN_ACK (R413). TYPE 2 peer message carrying a train acknowledgement. -/
  | msgTrainAck (m : Msg)
  /-- MSG_READ_REQUEST (R416). TYPE 3 peer read request served at the home. -/
  | msgReadRequest (m : Msg)
  /-- MSG_READ_RESPONSE (R416). TYPE 4 peer read response delivering the line. -/
  | msgReadResponse (m : Msg)
  /-- MSG_ATOMIC_REQUEST (R416). TYPE 5 peer atomic request performed at the home. -/
  | msgAtomicRequest (m : Msg)
  /-- MSG_ATOMIC_RESPONSE (R416). TYPE 6 peer atomic response. -/
  | msgAtomicResponse (m : Msg)
  /-- MSG_TIME (R418). TYPE 7 peer time message raising the receiver's clock. -/
  | msgTime (m : Msg)
  /-- MSG_RETRANSMIT (R415). After 2^20 cycles without acknowledgement the sender resends the stream. -/
  | msgRetransmit (tile : Nat) (dev : Nat)
  /-- MSG_UNREACHABLE (R415). After 2^24 cycles without acknowledgement the destination is unreachable. -/
  | msgUnreachable (tile : Nat) (dev : Nat)
  /-- IDLE_TIME_SEND (R418). A port idle for 65,536 cycles sends a time message. -/
  | idleTimeSend (port : Nat)
  /-- ILA_WRITE (R294). A write of ILA validates the interleave region or sets REJECT. -/
  | ilaWrite (tid : Nat) (v : Word)
  /-- PTROOT_WRITE (R376). A write of PTROOT sets the ASID table entry and invalidates that ASID's TLB entries. -/
  | ptrootWrite (tid : Nat) (v : Word)
  /-- MTH_WRITE (R434). A write of MTH within range sets the activation threshold. -/
  | mthWrite (tid : Nat) (v : Word)
  /-- REFCTL_WRITE (R434). A write of REFCTL pauses patrol or sets its pace. -/
  | refctlWrite (tid : Nat) (v : Word)
  /-- FWSHARE_WRITE (R374). A write of FWSHARE sets the firmware fetch share. -/
  | fwshareWrite (tid : Nat) (v : Word)
  /-- FRM_WRITE (R60). A write of FRM sets the rounding mode, ignoring illegal values. -/
  | frmWrite (tid : Nat) (v : Word)
  /-- LEASE_WRITE (R384). A write of LEASE sets the lease length, ignoring zero. -/
  | leaseWrite (tid : Nat) (v : Word)
  /-- CSR_REGISTER_WRITE (R118). A write of a CSR without behaviour of its own. -/
  | csrRegisterWrite (tid : Nat) (csr : BitVec 12) (v : Word)
  /-- START_WARM (R449). STARTCTL.WARM requests a device warm start. -/
  | startWarm
  /-- START_WARM_ZERO (R449). STARTCTL.WARM with ZERO requests a warm start with DRAM zeroing. -/
  | startWarmZero
  /-- START_COLD (R449). STARTCTL.COLD requests a cold start. -/
  | startCold
  /-- DEVICE_START (R448). The start sequence trains, tests, loads firmware and sets READY. -/
  | deviceStart (failStep : Option Nat)
  /-- BAR_REGISTER_WRITE (R410). A write to a BAR offset with no register of its own is ignored. -/
  | barRegisterWrite (off : Nat) (v : Word)
  /-- ROW_SPARE (R437). Firmware copies a failing row to its subarray's spare row. -/
  | rowSpare (bank : Nat) (row : Nat)
  /-- BANK_RETIRE_MOVE (R438). Firmware moves one superblock of a retiring bank to its reserve bank. -/
  | bankRetireMove (cluster : Nat) (entry : Nat)
  /-- TILE_RETIRE (R439). Firmware retires a tile, moving its allocations and pre-empting its threads. -/
  | tileRetire (tile : Nat)
  /-- LINK_RETRAIN (R440). A failing lane triggers a retrain with a spare or a narrowing. -/
  | linkRetrain (link : Nat) (lanes : Nat)
  /-- UNIT_FAILURE (R441). Firmware kills affected teams and those of their fault domain. -/
  | unitFailure (unit : FailedUnit)
  /-- CLUSTER_WARM_RESTART (R442). A cluster restarts keeping DRAM through self-refresh. -/
  | clusterWarmRestart (cluster : Nat)
  /-- MCTP_CONTROL (R454). MCTP control message served by Sollosor. -/
  | mctpControl (body : List (BitVec 8))
  /-- GET_VERSION (R453). SPDM GET_VERSION request. -/
  | getVersion (body : List (BitVec 8))
  /-- GET_CAPABILITIES (R453). SPDM GET_CAPABILITIES request. -/
  | getCapabilities (body : List (BitVec 8))
  /-- NEGOTIATE_ALGORITHMS (R453). SPDM NEGOTIATE_ALGORITHMS request. -/
  | negotiateAlgorithms (body : List (BitVec 8))
  /-- GET_DIGESTS (R453). SPDM GET_DIGESTS request. -/
  | getDigests (body : List (BitVec 8))
  /-- GET_CERTIFICATE (R453). SPDM GET_CERTIFICATE request. -/
  | getCertificate (body : List (BitVec 8))
  /-- CHALLENGE (R453). SPDM CHALLENGE request. -/
  | challenge (body : List (BitVec 8))
  /-- GET_MEASUREMENTS (R453). SPDM GET_MEASUREMENTS request answered from one snapshot. -/
  | getMeasurements (body : List (BitVec 8))
  /-- KEY_EXCHANGE (R453). SPDM KEY_EXCHANGE request. -/
  | keyExchange (body : List (BitVec 8))
  /-- FINISH (R453). SPDM FINISH request. -/
  | finish (body : List (BitVec 8))
  /-- END_SESSION (R453). SPDM END_SESSION request. -/
  | endSession (body : List (BitVec 8))
  /-- READ_LOG (R454). Vendor command returning the error log. -/
  | readLog (cluster : Nat)
  /-- READ_STATUS (R454). Vendor command returning the status block. -/
  | readStatus
  /-- SET_PLIMIT (R454). Vendor command setting the power limit. -/
  | setPlimit (watts : Nat)
  /-- RESTART (R454). Vendor command requesting a warm or cold start. -/
  | restart (warm : Bool) (zero : Bool) (cold : Bool)
  /-- COMMIT_SVN (R450). Vendor command raising the fused minimum SVN. -/
  | commitSvn (kind : Nat)
  /-- FIRMWARE_UPDATE (R451). A supplied device-firmware image is verified and activated. -/
  | firmwareUpdate (img : Image)
  /-- THROTTLE_TICK (R455). Every 1 ms Sollosor chooses the throttle level. -/
  | throttleTick (power : Nat) (temps : List Nat)
  /-- STATUS_BLOCK_WRITE (R457). Every 1 ms Sollosor stores the status block. -/
  | statusBlockWrite
  /-- THERMAL_TRIP (R456). A sensor at 120 C causes a unit failure of every cluster and self-refresh. -/
  | thermalTrip (sensor : Nat)
  /-- THERMAL_RECOVERY (R456). Sensors below 95 C lead to a device warm start. -/
  | thermalRecovery (temps : List Nat)
  /-- HOST_SNOOP (R411). A CXL.cache snoop from the host arrives and the device answers it with a miss. -/
  | hostSnoop (pa : Nat)
  /-- HOST_COMPLETION (R411). The host's completion or data for a RdCurr or WrCur arrives, completing a HOST-page load, store, copy line or host-ring read. -/
  | hostCompletion (req : Nat) (bytes : List (BitVec 8))
  /-- PEER_TABLE_WRITE (R407). Firmware writes an entry of the peer table on behalf of the fabric manager. -/
  | peerTableWrite (k : Nat) (v : Word)
  /-- FABRIC_ENUMERATION (R407). The fabric manager assigns the device's port-based routing ID, which CSR DEVICE and all ports then use. -/
  | fabricEnumeration (id : BitVec 12)
  /-- ENCODE_PASS_END (R250). A furrow op's encode pass ends: its rows are timed, its witness becomes available, its sequencers free and deferred unlocks take effect. -/
  | encodePassEnd (cluster : Nat) (seq : Nat)
  /-- QCOPY (R255). Furrow step D := S. -/
  | qcopy (s : BitVec 10) (d : BitVec 10)
  /-- QNOT (R255). Furrow step storing the negation of S in N0 or N1. -/
  | qnot (s : BitVec 10) (d : BitVec 10)
  /-- QMAJ (R256). Furrow step setting every row of a triple to the majority. -/
  | qmaj (t : BitVec 2)
  /-- QSHL (R255). Furrow step shifting S up one lane into D. -/
  | qshl (s : BitVec 10) (d : BitVec 10)
  /-- QSHR (R255). Furrow step shifting S down one lane into D. -/
  | qshr (s : BitVec 10) (d : BitVec 10)
  /-- QSET (R255). Furrow step setting every lane of D to a parameter bit. -/
  | qset (i : Bool) (d : BitVec 10) (par : BitVec 3) (bit : BitVec 5)
  /-- QVMC (R255). Culvert multicast of S from a source layer to partners' D. -/
  | qvmc (s : BitVec 10) (d : BitVec 10) (lay : BitVec 4)
  /-- QLOOP (R255). Begins a loop of an immediate count. -/
  | qloop (n : BitVec 8)
  /-- QLOOP_PAR (R255). Begins a loop of a parameter-word count. -/
  | qloopPar (par : BitVec 3)
  /-- QEND (R255). Ends the innermost loop body. -/
  | qend
  /-- QSKIP (R255). Skips the next c words when a parameter bit equals v. -/
  | qskip (cnt : BitVec 5) (i : Bool) (v : Bool) (par : BitVec 3) (bit : BitVec 5)
  /-- QSAFE (R255). Refresh-safe point where due refreshes execute. -/
  | qsafe
  /-- QRET (R255). Ends the op in the subarray. -/
  | qret
  /-- RDS (R104). Delivers scalar register sN as it stands at block start as a scalar token. -/
  | rds (f : RRead)
  /-- RDV (R104). Delivers vector register vN with its slots, none marks and tag, with tail elements null. -/
  | rdv (f : RRead)
  /-- RDM (R104). Delivers bits 0 to VL-1 of mask register mN as a mask token. -/
  | rdm (f : RRead)
  /-- WRS (R104). Writes operand A to scalar register sN at commit. -/
  | wrs (f : RWrite)
  /-- WRV (R105). Writes the non-null elements, tag and marks of A to vN at commit. -/
  | wrv (f : RWrite)
  /-- WRM (R104). Writes the non-null bits of mask A to mN at commit. -/
  | wrm (f : RWrite)
  /-- MOV (R107). Copies operand A unchanged to up to two targets. -/
  | mov (b : BForm)
  /-- MOV_EXT (R107). Copies operand A unchanged to up to four targets, in the extended form. -/
  | movExt (b : BForm) (x : Ext)
  /-- NULL (R107). Delivers a scalar null token. -/
  | null (b : BForm)
  /-- NULL_EXT (R107). Delivers a scalar null token to up to four targets. -/
  | nullExt (b : BForm) (x : Ext)
  /-- LIT (R107). Delivers a scalar constant from word 2 or the 64-bit literal. -/
  | lit (b : BForm) (m : Imm)
  /-- PCB (R107). Delivers the block address as a scalar. -/
  | pcb (b : BForm)
  /-- PCB_EXT (R107). Delivers the block address plus a displacement from word 2 or the literal. -/
  | pcbExt (b : BForm) (m : Imm)
  /-- BR (R108). Exit to the block at the current block address plus OFFSET times 64. -/
  | br (j : JForm)
  /-- BRI (R109). Exit to the block address in A after canonical and alignment checks. -/
  | bri (p : Pred)
  /-- CALL (R110). Exit to a relative block, writing the link to s63 at commit. -/
  | call (j : JForm)
  /-- CALLI (R110). Exit to the block address in A, writing the link to s63 at commit. -/
  | calli (p : Pred)
  /-- YIELD (R111). Exit to a relative block and offer fetch slots to the core's other threads, a lane renegotiation point. -/
  | yield (j : JForm)
  /-- HALT (R112). Exit that ends the thread at commit, releasing its registers, lanes and claim. -/
  | halt (p : Pred)
  /-- SYSC (R113). Exit to a relative block that takes the SYSCALL trap at commit. -/
  | sysc (j : JForm)
  /-- TRAP (R115). Faults with TRAPI carrying the trap code from word 2. -/
  | trap (p : Pred) (code : BitVec 16)
  /-- ERET (R116). At commit returns to the mode in TCAUSE.PREV and resumes at TBLOCK. -/
  | eret (p : Pred)
  /-- CSRR (R117). Reads a CSR and delivers its value as a scalar. -/
  | csrr (b : BForm) (x : Ext) (csr : BitVec 12)
  /-- CSRW (R118). Writes operand A to a CSR at commit. -/
  | csrw (p : Pred) (csr : BitVec 12)
  /-- ICINV (R122). At commit discards younger blocks and invalidates every block cache of the tile. -/
  | icinv (p : Pred)
  /-- TLBINV (R123). At commit drains stores, removes matching TLB entries device-wide and waits for walks. -/
  | tlbinv (p : Pred)
  /-- SETVL (R124). At commit sets VL to the requested count capped by the grant and ceiling, as a deferred result. -/
  | setvl (b : BForm)
  /-- LCLAIM (R125). At commit renegotiates the thread's lane grant to the wanted number of groups. -/
  | lclaim (b : BForm)
  /-- ADD (R128). Scalar A + B with token B. -/
  | add (b : BForm)
  /-- ADD_IMM (R128). Scalar A + B with B from word 2 or the literal. -/
  | addImm (b : BForm) (m : Imm)
  /-- SUB (R128). Scalar A - B with token B. -/
  | sub (b : BForm)
  /-- SUB_IMM (R128). Scalar A - B with B from word 2 or the literal. -/
  | subImm (b : BForm) (m : Imm)
  /-- MUL (R128). Low 64 bits of A times B with token B. -/
  | mul (b : BForm)
  /-- MUL_IMM (R128). Low 64 bits of A times an immediate B. -/
  | mulImm (b : BForm) (m : Imm)
  /-- MULH (R128). High 64 bits of the signed product, token B. -/
  | mulh (b : BForm)
  /-- MULH_IMM (R128). High 64 bits of the signed product, immediate B. -/
  | mulhImm (b : BForm) (m : Imm)
  /-- MULHN (R128). High 64 bits of the unsigned product, token B. -/
  | mulhn (b : BForm)
  /-- MULHN_IMM (R128). High 64 bits of the unsigned product, immediate B. -/
  | mulhnImm (b : BForm) (m : Imm)
  /-- DIV (R128). Signed quotient toward zero, token B. -/
  | div (b : BForm)
  /-- DIV_IMM (R128). Signed quotient toward zero, immediate B. -/
  | divImm (b : BForm) (m : Imm)
  /-- DIVN (R128). Unsigned quotient, token B. -/
  | divn (b : BForm)
  /-- DIVN_IMM (R128). Unsigned quotient, immediate B. -/
  | divnImm (b : BForm) (m : Imm)
  /-- REM (R128). Signed remainder, token B. -/
  | rem (b : BForm)
  /-- REM_IMM (R128). Signed remainder, immediate B. -/
  | remImm (b : BForm) (m : Imm)
  /-- REMN (R128). Unsigned remainder, token B. -/
  | remn (b : BForm)
  /-- REMN_IMM (R128). Unsigned remainder, immediate B. -/
  | remnImm (b : BForm) (m : Imm)
  /-- AND (R128). Bitwise and, token B. -/
  | and (b : BForm)
  /-- AND_IMM (R128). Bitwise and, immediate B. -/
  | andImm (b : BForm) (m : Imm)
  /-- OR (R128). Bitwise or, token B. -/
  | or (b : BForm)
  /-- OR_IMM (R128). Bitwise or, immediate B. -/
  | orImm (b : BForm) (m : Imm)
  /-- XOR (R128). Bitwise exclusive or, token B. -/
  | xor (b : BForm)
  /-- XOR_IMM (R128). Bitwise exclusive or, immediate B. -/
  | xorImm (b : BForm) (m : Imm)
  /-- ANDN (R128). A and not B, token B. -/
  | andn (b : BForm)
  /-- ANDN_IMM (R128). A and not B, immediate B. -/
  | andnImm (b : BForm) (m : Imm)
  /-- SHL (R128). Shift left by B[5:0], token B. -/
  | shl (b : BForm)
  /-- SHL_IMM (R128). Shift left by an immediate count. -/
  | shlImm (b : BForm) (m : Imm)
  /-- SHR (R128). Logical shift right, token B. -/
  | shr (b : BForm)
  /-- SHR_IMM (R128). Logical shift right by an immediate count. -/
  | shrImm (b : BForm) (m : Imm)
  /-- SRA (R128). Arithmetic shift right, token B. -/
  | sra (b : BForm)
  /-- SRA_IMM (R128). Arithmetic shift right by an immediate count. -/
  | sraImm (b : BForm) (m : Imm)
  /-- ROTL (R128). Rotate left, token B. -/
  | rotl (b : BForm)
  /-- ROTL_IMM (R128). Rotate left by an immediate count. -/
  | rotlImm (b : BForm) (m : Imm)
  /-- MIN (R128). Signed minimum, token B. -/
  | min (b : BForm)
  /-- MIN_IMM (R128). Signed minimum, immediate B. -/
  | minImm (b : BForm) (m : Imm)
  /-- MAX (R128). Signed maximum, token B. -/
  | max (b : BForm)
  /-- MAX_IMM (R128). Signed maximum, immediate B. -/
  | maxImm (b : BForm) (m : Imm)
  /-- MINN (R128). Unsigned minimum, token B. -/
  | minn (b : BForm)
  /-- MINN_IMM (R128). Unsigned minimum, immediate B. -/
  | minnImm (b : BForm) (m : Imm)
  /-- MAXN (R128). Unsigned maximum, token B. -/
  | maxn (b : BForm)
  /-- MAXN_IMM (R128). Unsigned maximum, immediate B. -/
  | maxnImm (b : BForm) (m : Imm)
  /-- CLZ (R128). Count of leading zero bits of A. -/
  | clz (b : BForm)
  /-- CLZ_EXT (R128). Count of leading zero bits of A, up to four targets. -/
  | clzExt (b : BForm) (x : Ext)
  /-- CTZ (R128). Count of trailing zero bits of A. -/
  | ctz (b : BForm)
  /-- CTZ_EXT (R128). Count of trailing zero bits of A, up to four targets. -/
  | ctzExt (b : BForm) (x : Ext)
  /-- POPC (R128). Count of one bits of A. -/
  | popc (b : BForm)
  /-- POPC_EXT (R128). Count of one bits of A, up to four targets. -/
  | popcExt (b : BForm) (x : Ext)
  /-- BSWAP (R128). Bytes of A in reverse order. -/
  | bswap (b : BForm)
  /-- BSWAP_EXT (R128). Bytes of A in reverse order, up to four targets. -/
  | bswapExt (b : BForm) (x : Ext)
  /-- SEXT (R128). Sign-extends A from B[6:0] bits, token B. -/
  | sext (b : BForm)
  /-- SEXT_IMM (R128). Sign-extends A from an immediate width. -/
  | sextImm (b : BForm) (m : Imm)
  /-- ZEXT (R128). Zero-extends A from B[6:0] bits, token B. -/
  | zext (b : BForm)
  /-- ZEXT_IMM (R128). Zero-extends A from an immediate width. -/
  | zextImm (b : BForm) (m : Imm)
  /-- BFX (R128). Extracts a bit field of A, token B. -/
  | bfx (b : BForm)
  /-- BFX_IMM (R128). Extracts a bit field of A, immediate B. -/
  | bfxImm (b : BForm) (m : Imm)
  /-- BFI (R128). Inserts the low bits of C into a bit field of A, token B. -/
  | bfi (b : BForm)
  /-- BFI_IMM (R128). Inserts the low bits of C into a bit field of A, immediate B. -/
  | bfiImm (b : BForm) (m : Imm)
  /-- SEL (R128). A if C[0] is 1, else B, token B. -/
  | sel (b : BForm)
  /-- SEL_IMM (R128). A if C[0] is 1, else an immediate B. -/
  | selImm (b : BForm) (m : Imm)
  /-- TEQ (R129). Boolean A = B, token B. -/
  | teq (b : BForm)
  /-- TEQ_IMM (R129). Boolean A = immediate B. -/
  | teqImm (b : BForm) (m : Imm)
  /-- TNE (R129). Boolean A != B, token B. -/
  | tne (b : BForm)
  /-- TNE_IMM (R129). Boolean A != immediate B. -/
  | tneImm (b : BForm) (m : Imm)
  /-- TLT (R129). Boolean signed A < B, token B. -/
  | tlt (b : BForm)
  /-- TLT_IMM (R129). Boolean signed A < immediate B. -/
  | tltImm (b : BForm) (m : Imm)
  /-- TLE (R129). Boolean signed A <= B, token B. -/
  | tle (b : BForm)
  /-- TLE_IMM (R129). Boolean signed A <= immediate B. -/
  | tleImm (b : BForm) (m : Imm)
  /-- TLTN (R129). Boolean unsigned A < B, token B. -/
  | tltn (b : BForm)
  /-- TLTN_IMM (R129). Boolean unsigned A < immediate B. -/
  | tltnImm (b : BForm) (m : Imm)
  /-- TLEN (R129). Boolean unsigned A <= B, token B. -/
  | tlen (b : BForm)
  /-- TLEN_IMM (R129). Boolean unsigned A <= immediate B. -/
  | tlenImm (b : BForm) (m : Imm)
  /-- TBIT (R129). Boolean bit B[5:0] of A, token B. -/
  | tbit (b : BForm)
  /-- TBIT_IMM (R129). Boolean bit of A selected by an immediate. -/
  | tbitImm (b : BForm) (m : Imm)
  /-- SPTEST (R132). Delivers the space code of pointer A, or 7 when invalid. -/
  | sptest (b : BForm)
  /-- SPTEST_EXT (R132). Delivers the space code of pointer A to up to four targets. -/
  | sptestExt (b : BForm) (x : Ext)
  /-- SPCAST (R133). Converts between an offset and a generic pointer, token control B. -/
  | spcast (b : BForm)
  /-- SPCAST_IMM (R133). Converts between an offset and a generic pointer, immediate control. -/
  | spcastImm (b : BForm) (m : Imm)
  /-- PADD (R134). Adds B to the offset field of pointer A with window checks, token B. -/
  | padd (b : BForm)
  /-- PADD_IMM (R134). Adds an immediate to the offset field of pointer A. -/
  | paddImm (b : BForm) (m : Imm)
  /-- VADD (R145). Elementwise A + B. -/
  | vadd (b : BForm)
  /-- VADD_EXT (R145). Elementwise A + B with RM, SAT, XM fields. -/
  | vaddExt (b : BForm) (v : VWord)
  /-- VSUB (R145). Elementwise A - B. -/
  | vsub (b : BForm)
  /-- VSUB_EXT (R145). Elementwise A - B, extended form. -/
  | vsubExt (b : BForm) (v : VWord)
  /-- VMUL (R145). Elementwise A times B. -/
  | vmul (b : BForm)
  /-- VMUL_EXT (R145). Elementwise A times B, extended form. -/
  | vmulExt (b : BForm) (v : VWord)
  /-- VMULW (R146). Multiplies even source elements into double-width results. -/
  | vmulw (b : BForm)
  /-- VMULW_EXT (R146). Widening multiply of even or odd source elements, extended form. -/
  | vmulwExt (b : BForm) (v : VWord) (odd : Bool)
  /-- VFMA (R145). Elementwise A times B plus C with one rounding. -/
  | vfma (b : BForm)
  /-- VFMA_EXT (R145). Fused multiply-add, extended form. -/
  | vfmaExt (b : BForm) (v : VWord)
  /-- VFMS (R145). Elementwise A times B minus C with one rounding. -/
  | vfms (b : BForm)
  /-- VFMS_EXT (R145). Fused multiply-subtract, extended form. -/
  | vfmsExt (b : BForm) (v : VWord)
  /-- VDIV (R145). Elementwise A divided by B. -/
  | vdiv (b : BForm)
  /-- VDIV_EXT (R145). Elementwise division, extended form. -/
  | vdivExt (b : BForm) (v : VWord)
  /-- VSQRT (R147). Elementwise square root. -/
  | vsqrt (b : BForm)
  /-- VSQRT_EXT (R147). Elementwise square root, extended form. -/
  | vsqrtExt (b : BForm) (v : VWord)
  /-- VRCP (R147). Elementwise reciprocal. -/
  | vrcp (b : BForm)
  /-- VRCP_EXT (R147). Elementwise reciprocal, extended form. -/
  | vrcpExt (b : BForm) (v : VWord)
  /-- VRSQ (R147). Elementwise reciprocal square root. -/
  | vrsq (b : BForm)
  /-- VRSQ_EXT (R147). Elementwise reciprocal square root, extended form. -/
  | vrsqExt (b : BForm) (v : VWord)
  /-- VEXP2 (R147). Elementwise 2 to the power A. -/
  | vexp2 (b : BForm)
  /-- VEXP2_EXT (R147). Elementwise 2 to the power A, extended form. -/
  | vexp2Ext (b : BForm) (v : VWord)
  /-- VLOG2 (R147). Elementwise base-2 logarithm. -/
  | vlog2 (b : BForm)
  /-- VLOG2_EXT (R147). Elementwise base-2 logarithm, extended form. -/
  | vlog2Ext (b : BForm) (v : VWord)
  /-- VMIN (R148). Elementwise lesser of A and B. -/
  | vmin (b : BForm)
  /-- VMIN_EXT (R148). Elementwise minimum, extended form. -/
  | vminExt (b : BForm) (v : VWord)
  /-- VMAX (R148). Elementwise greater of A and B. -/
  | vmax (b : BForm)
  /-- VMAX_EXT (R148). Elementwise maximum, extended form. -/
  | vmaxExt (b : BForm) (v : VWord)
  /-- VABS (R148). Elementwise absolute value. -/
  | vabs (b : BForm)
  /-- VABS_EXT (R148). Elementwise absolute value, extended form. -/
  | vabsExt (b : BForm) (v : VWord)
  /-- VNEG (R148). Elementwise negation. -/
  | vneg (b : BForm)
  /-- VNEG_EXT (R148). Elementwise negation, extended form. -/
  | vnegExt (b : BForm) (v : VWord)
  /-- VAND (R149). Elementwise bitwise and. -/
  | vand (b : BForm)
  /-- VAND_EXT (R149). Elementwise bitwise and, extended form. -/
  | vandExt (b : BForm) (v : VWord)
  /-- VOR (R149). Elementwise bitwise or. -/
  | vor (b : BForm)
  /-- VOR_EXT (R149). Elementwise bitwise or, extended form. -/
  | vorExt (b : BForm) (v : VWord)
  /-- VXOR (R149). Elementwise bitwise exclusive or. -/
  | vxor (b : BForm)
  /-- VXOR_EXT (R149). Elementwise bitwise exclusive or, extended form. -/
  | vxorExt (b : BForm) (v : VWord)
  /-- VNOT (R149). Elementwise bitwise not. -/
  | vnot (b : BForm)
  /-- VNOT_EXT (R149). Elementwise bitwise not, extended form. -/
  | vnotExt (b : BForm) (v : VWord)
  /-- VSHL (R149). Elementwise shift left by a token count. -/
  | vshl (b : BForm)
  /-- VSHL_EXT (R149). Elementwise shift left, extended form or immediate count. -/
  | vshlExt (b : BForm) (v : VWord) (n : Option (BitVec 8))
  /-- VSHR (R149). Elementwise logical shift right by a token count. -/
  | vshr (b : BForm)
  /-- VSHR_EXT (R149). Elementwise logical shift right, extended form or immediate count. -/
  | vshrExt (b : BForm) (v : VWord) (n : Option (BitVec 8))
  /-- VSRA (R149). Elementwise arithmetic shift right by a token count. -/
  | vsra (b : BForm)
  /-- VSRA_EXT (R149). Elementwise arithmetic shift right, extended form or immediate count. -/
  | vsraExt (b : BForm) (v : VWord) (n : Option (BitVec 8))
  /-- VCEQ (R150). Mask of elements where A = B. -/
  | vceq (b : BForm)
  /-- VCEQ_EXT (R150). Equality compare, extended form. -/
  | vceqExt (b : BForm) (v : VWord)
  /-- VCNE (R150). Mask of elements where A != B. -/
  | vcne (b : BForm)
  /-- VCNE_EXT (R150). Inequality compare, extended form. -/
  | vcneExt (b : BForm) (v : VWord)
  /-- VCLT (R150). Mask of elements where A < B. -/
  | vclt (b : BForm)
  /-- VCLT_EXT (R150). Less-than compare, extended form. -/
  | vcltExt (b : BForm) (v : VWord)
  /-- VCLE (R150). Mask of elements where A <= B. -/
  | vcle (b : BForm)
  /-- VCLE_EXT (R150). Less-or-equal compare, extended form. -/
  | vcleExt (b : BForm) (v : VWord)
  /-- VCUN (R150). Mask of elements where either operand is a NaN. -/
  | vcun (b : BForm)
  /-- VCUN_EXT (R150). Unordered compare, extended form. -/
  | vcunExt (b : BForm) (v : VWord)
  /-- VCLASS (R151). Mask of elements whose class is in an empty class set. -/
  | vclass (b : BForm)
  /-- VCLASS_EXT (R151). Mask of elements whose class is in the CLASSES set. -/
  | vclassExt (b : BForm) (v : VWord) (cls : BitVec 10)
  /-- VSEL (R152). Elementwise A where mask C is 1, else B. -/
  | vsel (b : BForm)
  /-- VSEL_EXT (R152). Elementwise select, extended form. -/
  | vselExt (b : BForm) (v : VWord)
  /-- VFILL (R153). Builds a vector repeating a 64-bit pattern across elements. -/
  | vfill (b : BForm) (v : VWord) (tag : BitVec 16) (l : Option Word)
  /-- VBCAST (R153). Builds a vector with every element the low bits of a value. -/
  | vbcast (b : BForm) (v : VWord) (tag : BitVec 16) (l : Option Word)
  /-- VID (R154). Delivers each element's index in an integer format. -/
  | vid (b : BForm) (v : VWord) (tag : BitVec 16)
  /-- VCVT (R155). Converts each element to the TAG format. -/
  | vcvt (b : BForm) (v : VWord) (tag : BitVec 16)
  /-- VSCALE (R156). Rewrites the SCALE of an E4M3, E5M2 or BF16 vector to 0. -/
  | vscale (b : BForm)
  /-- VSCALE_EXT (R156). Rewrites the SCALE of a vector to word 2 [7:0]. -/
  | vscaleExt (b : BForm) (v : VWord) (sc : BitVec 8)
  /-- VTAG (R157). Reinterprets the bits of A under the TAG format. -/
  | vtag (b : BForm) (v : VWord) (tag : BitVec 16)
  /-- VSUM (R158). Sums the elements of A along the fixed tree to a scalar. -/
  | vsum (b : BForm)
  /-- VSUM_EXT (R158). Tree sum, extended form. -/
  | vsumExt (b : BForm) (v : VWord)
  /-- VRMAX (R158). Reduces A to its maximum element. -/
  | vrmax (b : BForm)
  /-- VRMAX_EXT (R158). Maximum reduction, extended form. -/
  | vrmaxExt (b : BForm) (v : VWord)
  /-- VRMIN (R158). Reduces A to its minimum element. -/
  | vrmin (b : BForm)
  /-- VRMIN_EXT (R158). Minimum reduction, extended form. -/
  | vrminExt (b : BForm) (v : VWord)
  /-- VDOT (R159). Grid dot products over groups of 128 elements without accumulator term. -/
  | vdot (b : BForm)
  /-- VDOT_EXT (R159). Grid dot products, with an FP32 accumulator term when ACC = 1. -/
  | vdotExt (b : BForm) (v : VWord) (acc : Bool)
  /-- VPERM (R161). Permutes A by the index vector B. -/
  | vperm (b : BForm)
  /-- VPERM_EXT (R161). Permute, extended form. -/
  | vpermExt (b : BForm) (v : VWord)
  /-- VROT (R161). Rotates A by a scalar count. -/
  | vrot (b : BForm)
  /-- VROT_EXT (R161). Rotate, extended form or immediate index. -/
  | vrotExt (b : BForm) (v : VWord) (n : Option (BitVec 14))
  /-- VSLIDE (R161). Slides A toward higher indices by a scalar count. -/
  | vslide (b : BForm)
  /-- VSLIDE_EXT (R161). Slide up or down, extended form or immediate amount. -/
  | vslideExt (b : BForm) (v : VWord) (n : Option (BitVec 14)) (down : Bool)
  /-- VCOMP (R161). Compresses the elements of A selected by mask B. -/
  | vcomp (b : BForm)
  /-- VCOMP_EXT (R161). Compress, extended form. -/
  | vcompExt (b : BForm) (v : VWord)
  /-- VEXPD (R161). Expands A into the positions of mask B. -/
  | vexpd (b : BForm)
  /-- VEXPD_EXT (R161). Expand, extended form. -/
  | vexpdExt (b : BForm) (v : VWord)
  /-- VEXT (R162). Delivers element i of A as a scalar, token index. -/
  | vext (b : BForm)
  /-- VEXT_EXT (R162). Element extraction, extended form or immediate index. -/
  | vextExt (b : BForm) (v : VWord) (n : Option (BitVec 14))
  /-- VINS (R162). Replaces element i of A by scalar C, token index. -/
  | vins (b : BForm)
  /-- VINS_EXT (R162). Element insertion, extended form or immediate index. -/
  | vinsExt (b : BForm) (v : VWord) (n : Option (BitVec 14))
  /-- MAND (R163). Bitwise and of two masks. -/
  | mand (b : BForm)
  /-- MAND_EXT (R163). Mask and, extended form. -/
  | mandExt (b : BForm) (x : Ext)
  /-- MOR (R163). Bitwise or of two masks. -/
  | mor (b : BForm)
  /-- MOR_EXT (R163). Mask or, extended form. -/
  | morExt (b : BForm) (x : Ext)
  /-- MXOR (R163). Bitwise exclusive or of two masks. -/
  | mxor (b : BForm)
  /-- MXOR_EXT (R163). Mask exclusive or, extended form. -/
  | mxorExt (b : BForm) (x : Ext)
  /-- MNOT (R163). Bitwise not of a mask. -/
  | mnot (b : BForm)
  /-- MNOT_EXT (R163). Mask not, extended form. -/
  | mnotExt (b : BForm) (x : Ext)
  /-- MPOP (R163). Counts the non-null one bits of a mask below VL. -/
  | mpop (b : BForm)
  /-- MPOP_EXT (R163). Mask population count, extended form. -/
  | mpopExt (b : BForm) (x : Ext)
  /-- MFIRST (R163). Index of the lowest non-null one bit of a mask. -/
  | mfirst (b : BForm)
  /-- MFIRST_EXT (R163). Mask first-one, extended form. -/
  | mfirstExt (b : BForm) (x : Ext)
  /-- LD (R177). Scalar load of 1 to 8 bytes bounded by FLOOR and an optional witness. -/
  | ld (b : BForm) (m : MWord)
  /-- ST (R178). Scalar store performed at commit, delivering its witness as a deferred result. -/
  | st (b : BForm) (m : MWord) (l : Option Word)
  /-- VLD (R179). Contiguous vector load. -/
  | vld (b : BForm) (m : MWord) (tag : BitVec 16)
  /-- VLDS (R179). Strided vector load. -/
  | vlds (b : BForm) (m : MWord) (tag : BitVec 16)
  /-- VLDX (R179). Indexed vector load. -/
  | vldx (b : BForm) (m : MWord) (tag : BitVec 16)
  /-- VLDFF (R180). Contiguous first-fault vector load delivering the count of elements loaded. -/
  | vldff (b : BForm) (m : MWord) (tag : BitVec 16)
  /-- VST (R182). Contiguous vector store at commit. -/
  | vst (b : BForm) (m : MWord)
  /-- VSTS (R182). Strided vector store at commit. -/
  | vsts (b : BForm) (m : MWord)
  /-- VSTX (R182). Indexed scatter at commit, ordered under ORD. -/
  | vstx (b : BForm) (m : MWord)
  /-- VSADD (R185). Combines addends by address and adds them into memory at commit. -/
  | vsadd (b : BForm) (m : MWord)
  /-- AADD (R186). Atomic add at the home at commit. -/
  | aadd (b : BForm) (m : MWord) (l : Option Word)
  /-- ASWAP (R186). Atomic swap at the home at commit. -/
  | aswap (b : BForm) (m : MWord) (l : Option Word)
  /-- ACAS (R186). Atomic compare-and-swap at the home at commit. -/
  | acas (b : BForm) (m : MWord) (l : Option Word)
  /-- AMIN (R186). Atomic minimum at the home at commit. -/
  | amin (b : BForm) (m : MWord) (l : Option Word)
  /-- AMAX (R186). Atomic maximum at the home at commit. -/
  | amax (b : BForm) (m : MWord) (l : Option Word)
  /-- AAND (R186). Atomic and at the home at commit. -/
  | aand (b : BForm) (m : MWord) (l : Option Word)
  /-- AOR (R186). Atomic or at the home at commit. -/
  | aor (b : BForm) (m : MWord) (l : Option Word)
  /-- AXOR (R186). Atomic exclusive or at the home at commit. -/
  | axor (b : BForm) (m : MWord) (l : Option Word)
  /-- WJOIN (R187). Joins two witnesses into one, token B. -/
  | wjoin (b : BForm)
  /-- WJOIN_IMM (R187). Joins witness A with an immediate witness B. -/
  | wjoinImm (b : BForm) (m : Imm)
  /-- WFLOOR (R188). At commit raises FLOOR to the witness A. -/
  | wfloor (p : Pred)
  /-- WFLOOR_EXT (R188). Raises FLOOR to witness A, extended form. -/
  | wfloorExt (p : Pred)
  /-- WNOW (R189). Delivers a time witness carrying the tile's HORIZON. -/
  | wnow (b : BForm)
  /-- WNOW_EXT (R189). Delivers HORIZON as a witness, extended form. -/
  | wnowExt (b : BForm) (x : Ext)
  /-- WTEST (R190). Tests whether witness A is an error (test 0). -/
  | wtest (b : BForm)
  /-- WTEST_EXT (R190). Tests witness A against error, FLOOR or HORIZON by word 2. -/
  | wtestExt (b : BForm) (x : Ext) (test : BitVec 2)
  /-- MWAIT (R191). Waits at the line's home for a newer version or a cycle limit, then reads it. -/
  | mwait (b : BForm) (m : MWord) (l : Option Word)
  /-- BAR (R192). Arrives at barrier 0 with count 32 at commit. -/
  | bar (b : BForm)
  /-- BAR_EXT (R192). Arrives at a named barrier with the count and NA of word 2. -/
  | barExt (b : BForm) (x : Ext) (id : BitVec 4) (count : BitVec 6) (na : Bool)
  /-- CLAIMEL (R194). At commit claims a run of iterations from a counter pair and sets VL. -/
  | claimel (b : BForm) (m : MWord) (l : Option Word)
  /-- PREF (R195). Asks the home for an L1 lease covering FLOOR. -/
  | pref (b : BForm) (m : MWord)
  /-- MCLAIM (R197). At commit takes, tries or queues for the tile's matrix claim. -/
  | mclaim (b : BForm)
  /-- MREL (R198). At commit releases the matrix claim, abandoning any fill. -/
  | mrel (p : Pred)
  /-- MMUL (R204). Multiplies an activation slice by the front plane into an accumulator row. -/
  | mmul (k : KForm) (arow : BitVec 9) (acc : AccMode) (slice : BitVec 6) (dual : Bool)
  /-- MRD (R206). Reads accumulator rows into an FP32 vector. -/
  | mrd (k : KForm) (b : KRes) (arow : BitVec 9) (nrow : BitVec 4) (pos : BitVec 6)
  /-- MWR (R207). Writes accumulator rows from a vector. -/
  | mwr (k : KForm) (arow : BitVec 9) (nrow : BitVec 4) (pos : BitVec 6)
  /-- MZERO (R208). Writes +0 to accumulator rows. -/
  | mzero (k : KForm) (arow : BitVec 9) (nrow : BitVec 4)
  /-- MDECAY (R208). Sets the decay factor d. -/
  | mdecay (k : KForm)
  /-- MSPILL (R210). Writes an accumulator bank or plane to memory at commit. -/
  | mspill (k : KForm) (u : MxUnit)
  /-- MFILL (R211). Reads an accumulator bank or plane from memory. -/
  | mfill (k : KForm) (u : MxUnit) (wi : Bool)
  /-- WCFG (R216). Sets the weight configuration and flume pointer. -/
  | wcfg (k : KForm)
  /-- WTABLE (R218). Loads a 32-symbol frequency table and derives C and SYM. -/
  | wtable (k : KForm)
  /-- WLOAD (R229). Requests a fill of the back plane from a weight stream, accepted at commit. -/
  | wload (k : KForm) (ff : Bool)
  /-- WLOADA (R213). Requests a fill of the back plane from 128 accumulator rows. -/
  | wloada (k : KForm) (arow : BitVec 9)
  /-- WSWAP (R214). Exchanges front and back planes, or reports or retries a failed fill. -/
  | wswap (k : KForm)
  /-- WEXP (R236). Decodes and expands VL codes into a BF16 vector. -/
  | wexp (k : KForm) (b : KRes)
  /-- WSTAT (R235). Delivers the weight-path status, optionally waiting for the fill. -/
  | wstat (k : KForm) (b : KRes) (wait : Bool)
  /-- PLOCK (R244). Requests a row lock of a plane range, granted at the home after commit. -/
  | plock (b : BForm)
  /-- PLOCK_EXT (R244). Row lock request with WR and TRY from word 2. -/
  | plockExt (b : BForm) (x : Ext) (wr : Bool) (tries : Bool)
  /-- PUNLOCK (R246). At commit releases the thread's locks on a row range. -/
  | punlock (p : Pred)
  /-- PLAUNCH (R248). Checks a furrow launch and queues it at the field controller at commit. -/
  | plaunch (b : BForm)
  /-- PLAUNCH_EXT (R248). Furrow launch, extended form. -/
  | plaunchExt (b : BForm) (x : Ext)
  /-- PFENCE (R251). Delivers an op's witness once its encode pass has ended. -/
  | pfence (b : BForm)
  /-- PFENCE_EXT (R251). Op fence, extended form. -/
  | pfenceExt (b : BForm) (x : Ext)
  /-- PSTAT (R252). Delivers an op's status word. -/
  | pstat (b : BForm)
  /-- PSTAT_EXT (R252). Delivers an op status or, with BANK, a bank status word. -/
  | pstatExt (b : BForm) (x : Ext) (bank : Bool)
  /-- VLDP (R262). Loads a plane tensor from bank rows into a vector. -/
  | vldp (b : BForm) (m : MWord) (tag : BitVec 16)
  /-- VSTP (R263). Writes a vector into plane rows at commit. -/
  | vstp (b : BForm) (m : MWord)
  /-- CPSET (R264). At commit writes A to copy shadow register 0. -/
  | cpset (p : Pred)
  /-- CPSET_EXT (R264). At commit writes A to the copy shadow register named by INDEX. -/
  | cpsetExt (p : Pred) (index : BitVec 5)
  /-- CPGO (R266). Checks the shadow view and queues it as a transfer at commit. -/
  | cpgo (b : BForm)
  /-- CPGO_EXT (R266). Copy launch, extended form. -/
  | cpgoExt (b : BForm) (x : Ext)
  /-- CPQF (R269). At commit places a fence entry in queue Q0 with empty mask. -/
  | cpqf (p : Pred)
  /-- CPQF_EXT (R269). At commit places a fence entry in a queue waiting on masked queues. -/
  | cpqfExt (p : Pred) (queue : BitVec 3) (mask : BitVec 8)
  /-- CPSTAT (R271). Delivers a transfer's status word. -/
  | cpstat (b : BForm)
  /-- CPSTAT_EXT (R271). Transfer status, extended form. -/
  | cpstatExt (b : BForm) (x : Ext)
  /-- CPABORT (R272). At commit stops a queued or running transfer of the same ASID. -/
  | cpabort (p : Pred)
  deriving DecidableEq, Repr

end Sys2Proof
end

