-- ==== Sys2Proof/Machine/Numbers.lean ====
section
/-! DEFINITION. Numbers and arithmetic: formats, exact values, rounding, special values, conversions, the exact dot product
(R46 to R69). Everything is exact integer arithmetic; an inexact function carries a sticky bit. -/
namespace Sys2Proof.Machine

/-- An element format by its code (R46, R50): width, whether it is a float, whether an integer is signed, fraction bits,
bias, the encoding of the largest finite value, of +infinity (0 where there is none) and of the canonical NaN. -/
structure Fmt where
  code : Nat
  width : Nat
  float : Bool
  signed : Bool
  mbits : Nat
  bias : Nat
  largest : Nat
  inf : Nat
  nan : Nat
  deriving DecidableEq, Repr
def intFmt (code w : Nat) (sg : Bool) : Fmt := ⟨code, w, false, sg, 0, 0, 0, 0, 0⟩
def fpFmt (code w mb bias largest inf nan : Nat) : Fmt := ⟨code, w, true, true, mb, bias, largest, inf, nan⟩
/-- The format a tag code names; code 0 is NONE, whose elements are 32-bit slots (R14). -/
def fmtOf (code : Nat) : Fmt :=
  match code with
  | 1 => intFmt 1 8 true | 2 => intFmt 2 16 true | 3 => intFmt 3 32 true | 4 => intFmt 4 64 true
  | 5 => intFmt 5 8 false | 6 => intFmt 6 16 false | 7 => intFmt 7 32 false | 8 => intFmt 8 64 false
  | 9 => fpFmt 9 8 3 7 0x7E 0 0x7F | 10 => fpFmt 10 8 2 15 0x7B 0x7C 0x7E
  | 11 => fpFmt 11 16 7 127 0x7F7F 0x7F80 0x7FC0 | 12 => fpFmt 12 16 10 15 0x7BFF 0x7C00 0x7E00
  | 13 => fpFmt 13 32 23 127 0x7F7FFFFF 0x7F800000 0x7FC00000
  | 14 => fpFmt 14 64 52 1023 0x7FEFFFFFFFFFFFFF 0x7FF0000000000000 0x7FF8000000000000
  | _ => intFmt 0 32 false
/-- The exponent of the smallest normal number (R50). -/
def Fmt.emin (f : Fmt) : Int := 1 - (f.bias : Int)
def fp32 : Fmt := fmtOf 13
def bf16 : Fmt := fmtOf 11

/-- The two's-complement or natural value of the low w bits (R46). -/
def intVal (f : Fmt) (x : Nat) : Int :=
  let v := x % 2 ^ f.width
  if f.signed && 2 ^ (f.width - 1) ≤ v then (v : Int) - (2 ^ f.width : Nat) else v
def Fmt.minInt (f : Fmt) : Int := if f.signed then -((2 ^ (f.width - 1) : Nat) : Int) else 0
def Fmt.maxInt (f : Fmt) : Int := if f.signed then (2 ^ (f.width - 1) : Nat) - 1 else (2 ^ f.width : Nat) - 1
/-- The encoding of an integer modulo 2^w. -/
def wrapInt (w : Nat) (v : Int) : Nat := (v % ((2 ^ w : Nat) : Int)).toNat
/-- Reduction of an exact integer to a format: modulo 2^w, or clamped with the SAT flag (R47). -/
def reduceInt (f : Fmt) (sat : Bool) (v : Int) : Nat × Flags :=
  if sat && v < f.minInt then (wrapInt f.width f.minInt, fSAT)
  else if sat && f.maxInt < v then (wrapInt f.width f.maxInt, fSAT)
  else (wrapInt f.width v, 0)

/-- An exact real: (-1)^neg * m * 2^e, plus, where `st`, something above 0 and below 2^e in magnitude. -/
structure Ex where
  neg : Bool
  m : Nat
  e : Int
  st : Bool
  deriving DecidableEq, Repr
/-- A decoded float (R50). -/
inductive FVal where
  | nan (signalling : Bool)
  | inf (neg : Bool)
  | fin (neg : Bool) (m : Nat) (e : Int)
  deriving DecidableEq, Repr

/-- Decodes an encoding of a float format (R50, R51: the one E4M3 NaN is quiet). -/
def decodeFloat (f : Fmt) (x : Nat) : FVal :=
  let v := x % 2 ^ f.width
  let neg := v / 2 ^ (f.width - 1) == 1
  let mag := v % 2 ^ (f.width - 1)
  let frac := mag % 2 ^ f.mbits
  let ex := mag / 2 ^ f.mbits
  if f.code == 9 then
    if mag == 0x7F then .nan false
    else if ex == 0 then .fin neg frac (f.emin - f.mbits) else .fin neg (2 ^ f.mbits + frac) (f.emin - f.mbits + (ex - 1 : Nat))
  else if f.inf < mag then .nan (frac / 2 ^ (f.mbits - 1) == 0)
  else if mag == f.inf then .inf neg
  else if ex == 0 then .fin neg frac (f.emin - f.mbits)
  else .fin neg (2 ^ f.mbits + frac) (f.emin - f.mbits + (ex - 1 : Nat))

def signBit (f : Fmt) (neg : Bool) : Nat := if neg then 2 ^ (f.width - 1) else 0
def encZero (f : Fmt) (neg : Bool) : Nat := signBit f neg
/-- An infinity, or the canonical NaN in a format that has none (R61). -/
def encInf (f : Fmt) (neg : Bool) : Nat := if f.inf = 0 then f.nan else signBit f neg + f.inf
def encLargest (f : Fmt) (neg : Bool) : Nat := signBit f neg + f.largest

/-- pick_integer of R61: |x| / 2^q as an integer under a mode, and whether that was inexact. -/
def pickMag (x : Ex) (q : Int) (rm : RoundMode) : Nat × Bool :=
  let sh := q - x.e
  let parts : Nat × Nat × Bool :=   -- whole part, comparison with a half (0 below, 1 equal, 2 above), inexact
    if sh ≤ 0 then (x.m * 2 ^ (-sh).toNat, 0, x.st)
    else if (Nat.log2 x.m : Int) + 2 < sh then (0, 0, x.m != 0 || x.st)
    else
      let k := sh.toNat
      let r := x.m % 2 ^ k
      let h := 2 ^ (k - 1)
      (x.m / 2 ^ k, if r < h then 0 else if r = h && !x.st then 1 else 2, r != 0 || x.st)
  let n := parts.1; let half := parts.2.1; let inex := parts.2.2
  let up := match rm with
    | .rtz => false
    | .rdn => x.neg && inex
    | .rup => !x.neg && inex
    | .rna => half != 0
    | _ => half == 2 || (half == 1 && n % 2 == 1)
  (if up then n + 1 else n, inex)

/-- Where overflow gives an infinity (R61). -/
def overflowInf (rm : RoundMode) (neg : Bool) : Bool :=
  match rm with
  | .rtz => false | .rdn => neg | .rup => !neg | _ => true

/-- round(f, x, rm) with its flags, x nonzero (R61). -/
def roundEx (f : Fmt) (x : Ex) (rm : RoundMode) : Nat × Flags :=
  let e0 := x.e + (Nat.log2 x.m : Int)
  let e := if e0 < f.emin then f.emin else e0
  let q := e - f.mbits
  let p := pickMag x q rm
  let mag := (q - (f.emin - f.mbits)).toNat * 2 ^ f.mbits + p.1
  if f.largest < mag then
    (if overflowInf rm x.neg then encInf f x.neg else encLargest f x.neg, fOF ||| fNX)
  else
    let u := pickMag x (e0 - f.mbits) rm
    let tiny := e0 < f.emin && !(e0 + 1 == f.emin && u.1 == 2 ^ (f.mbits + 1))
    (signBit f x.neg + mag, (if p.2 then fNX else 0) ||| (if p.2 && tiny then fUF else 0))

/-- The rounded value of a possibly zero exact result; an exact zero has the sign given. -/
def roundOrZero (f : Fmt) (x : Ex) (rm : RoundMode) (zeroNeg : Bool) : Nat × Flags :=
  if x.m = 0 then (encZero f zeroNeg, 0) else roundEx f x rm

def exOf (neg : Bool) (m : Nat) (e : Int) : Ex := ⟨neg, m, e, false⟩
/-- The exact sum of two signed dyadics. -/
def addEx (a b : Ex) : Ex :=
  let e := if a.e < b.e then a.e else b.e
  let x : Int := (a.m * 2 ^ (a.e - e).toNat : Nat); let y : Int := (b.m * 2 ^ (b.e - e).toNat : Nat)
  let s := (if a.neg then -x else x) + (if b.neg then -y else y)
  ⟨decide (s < 0), s.natAbs, e, false⟩
def mulEx (a b : Ex) : Ex := ⟨a.neg != b.neg, a.m * b.m, a.e + b.e, false⟩

def isSnan : FVal → Bool
  | .nan true => true | _ => false
def isNan : FVal → Bool
  | .nan _ => true | _ => false
def FVal.negate : FVal → FVal
  | .nan s => .nan s | .inf n => .inf (!n) | .fin n m e => .fin (!n) m e
/-- A NaN result: NV where an operand signals or the case is invalid (R51, R62). -/
def nanRes (f : Fmt) (nv : Bool) : Nat × Flags := (f.nan, if nv then fNV else 0)
/-- The sign of an exact zero sum (R61). -/
def sumZeroNeg (an bn : Bool) (rm : RoundMode) : Bool := if an == bn then an else rm == .rdn

/-- The exact sum of two values, rounded (R61, R62). -/
def fAdd (f : Fmt) (rm : RoundMode) (a b : FVal) : Nat × Flags :=
  match a, b with
  | .fin an am ae, .fin bn bm be =>
    let s := addEx (exOf an am ae) (exOf bn bm be)
    roundOrZero f s rm (if am = 0 && bm = 0 then sumZeroNeg an bn rm else rm == .rdn)
  | .inf an, .inf bn => if an == bn then (encInf f an, 0) else nanRes f true
  | .inf an, .fin .. => (encInf f an, 0)
  | .fin .., .inf bn => (encInf f bn, 0)
  | _, _ => nanRes f (isSnan a || isSnan b)

/-- The exact product as a value; none where it is invalid (0 times infinity) or a NaN goes in. -/
def fProd (a b : FVal) : Option FVal :=
  match a, b with
  | .fin an am ae, .fin bn bm be => some (.fin (an != bn) (am * bm) (ae + be))
  | .inf an, .inf bn => some (.inf (an != bn))
  | .inf an, .fin bn bm _ => if bm = 0 then none else some (.inf (an != bn))
  | .fin an am _, .inf bn => if am = 0 then none else some (.inf (an != bn))
  | _, _ => none

/-- A value delivered in a format, rounded. -/
def fDeliver (f : Fmt) (rm : RoundMode) : FVal → Nat × Flags
  | .nan s => nanRes f s
  | .inf n => (encInf f n, 0)
  | .fin n m e => roundOrZero f (exOf n m e) rm n

def fMul (f : Fmt) (rm : RoundMode) (a b : FVal) : Nat × Flags :=
  match fProd a b with
  | some p => fDeliver f rm p
  | none => nanRes f (isSnan a || isSnan b || !(isNan a || isNan b))

/-- a * b + c with one rounding (R62, R64). -/
def fFma (f : Fmt) (rm : RoundMode) (a b c : FVal) : Nat × Flags :=
  match fProd a b with
  | some p => if isNan c then nanRes f (isSnan c) else fAdd f rm p c
  | none => nanRes f (isSnan a || isSnan b || isSnan c || !(isNan a || isNan b))

/-- m / n with `k` more bits than needed, the rest sticky. -/
def divEx (neg : Bool) (am : Nat) (ae : Int) (bm : Nat) (be : Int) : Ex :=
  let k := 130 + Nat.log2 bm
  ⟨neg, am * 2 ^ k / bm, ae - be - k, am * 2 ^ k % bm != 0⟩

def fDiv (f : Fmt) (rm : RoundMode) (a b : FVal) : Nat × Flags :=
  match a, b with
  | .fin an am ae, .fin bn bm be =>
    if bm = 0 then (if am = 0 then nanRes f true else (encInf f (an != bn), fDZ))
    else if am = 0 then (encZero f (an != bn), 0)
    else roundEx f (divEx (an != bn) am ae bm be) rm
  | .inf _, .inf _ => nanRes f true
  | .inf an, .fin bn .. => (encInf f (an != bn), 0)
  | .fin an .., .inf bn => (encZero f (an != bn), 0)
  | _, _ => nanRes f (isSnan a || isSnan b)

/-- The integer square root, bit by bit from bit `k`. -/
def isqrt (n : Nat) : Nat → Nat → Nat
  | 0, r => r
  | k + 1, r => if (r + 2 ^ k) * (r + 2 ^ k) ≤ n then isqrt n k (r + 2 ^ k) else isqrt n k r
def isqrtOf (n : Nat) : Nat := isqrt n (Nat.log2 n / 2 + 1) 0
/-- The square root of m * 2^e, 80 bits or more, the rest sticky. -/
def sqrtEx (m : Nat) (e : Int) : Ex :=
  let k : Nat := if e % 2 = 0 then 160 else 161
  let n := m * 2 ^ k
  let r := isqrtOf n
  ⟨false, r, (e - k) / 2, r * r != n⟩

def fSqrt (f : Fmt) (rm : RoundMode) : FVal → Nat × Flags
  | .nan s => nanRes f s
  | .inf true => nanRes f true
  | .inf false => (encInf f false, 0)
  | .fin n m e => if m = 0 then (encZero f n, 0) else if n then nanRes f true else roundEx f (sqrtEx m e) rm
def fRcp (f : Fmt) (rm : RoundMode) : FVal → Nat × Flags
  | .nan s => nanRes f s
  | .inf n => (encZero f n, 0)
  | .fin n m e => if m = 0 then (encInf f n, fDZ) else roundEx f (divEx n 1 0 m e) rm
def fRsq (f : Fmt) (rm : RoundMode) : FVal → Nat × Flags
  | .nan s => nanRes f s
  | .inf true => nanRes f true
  | .inf false => (encZero f false, 0)
  | .fin n m e =>
    if m = 0 then (encInf f n, fDZ) else if n then nanRes f true
    else
      let d := divEx false 1 0 m e
      let r := sqrtEx d.m d.e
      roundEx f { r with st := r.st || d.st } rm

/-- Fixed point with 256 fraction bits, for the logarithm and the power of two (log entry 10). -/
def fixBits : Nat := 256
/-- Sum over k below n of (term by term) u^(2k+1) / (2k+1) in fixed point: the inverse hyperbolic tangent. -/
def atanhSum (u2 : Nat) : Nat → Nat → Nat → Nat
  | 0, _, _ => 0
  | n + 1, p, d => p / d + atanhSum u2 n (p * u2 / 2 ^ fixBits) (d + 2)
def atanhFix (u : Nat) : Nat := atanhSum (u * u / 2 ^ fixBits) 90 u 1
/-- ln 2 = 2 atanh(1/3). -/
def ln2Fix : Nat := 2 * atanhFix (2 ^ fixBits / 3)
/-- The exponential series to `n` terms. -/
def expSum (y : Nat) : Nat → Nat → Nat → Nat
  | 0, t, _ => t
  | n + 1, t, d => t + expSum y n (t * y / 2 ^ fixBits / d) (d + 1)
def expFix (y : Nat) : Nat := expSum y 70 (2 ^ fixBits) 1

/-- 2^x for a nonzero finite x (R63). -/
def fExp2 (f : Fmt) (rm : RoundMode) : FVal → Nat × Flags
  | .nan s => nanRes f s
  | .inf n => if n then (encZero f false, 0) else (encInf f false, 0)
  | .fin n m e =>
    if m = 0 then roundEx f (exOf false 1 0) rm
    else if 0 ≤ e then
      let k : Int := if (40 : Int) < e then 2 ^ 40 else m * 2 ^ e.toNat
      roundEx f (exOf false 1 (if n then -k else k)) rm
    else
      let d := (-e).toNat
      let v : Int := if n then -(m : Int) else m
      let k := v / ((2 ^ d : Nat) : Int)
      let r := (v % ((2 ^ d : Nat) : Int)).toNat
      if r = 0 then roundEx f (exOf false 1 k) rm
      else
        let y := r * 2 ^ fixBits / 2 ^ d * ln2Fix / 2 ^ fixBits
        roundEx f ⟨false, expFix y, k - fixBits, true⟩ rm
/-- log2 x (R63). -/
def fLog2 (f : Fmt) (rm : RoundMode) : FVal → Nat × Flags
  | .nan s => nanRes f s
  | .inf true => nanRes f true
  | .inf false => (encInf f false, 0)
  | .fin n m e =>
    if m = 0 then (encInf f true, fDZ) else if n then nanRes f true
    else
      let l := Nat.log2 m
      let k : Int := e + l
      let z := m * 2 ^ fixBits / 2 ^ l      -- 1 ≤ z < 2 in fixed point, exact
      if m = 2 ^ l then
        (if k = 0 then (encZero f false, 0) else roundEx f (exOf (decide (k < 0)) k.natAbs 0) rm)
      else
        let u := (z - 2 ^ fixBits) * 2 ^ fixBits / (z + 2 ^ fixBits)
        let lg := 2 * atanhFix u * 2 ^ fixBits / ln2Fix
        let v := k * ((2 ^ fixBits : Nat) : Int) + (lg : Int)
        roundEx f ⟨decide (v < 0), v.natAbs, -(fixBits : Int), true⟩ rm

/-- The order of two finite or infinite values: -1, 0, 1; zeros of either sign are equal. -/
def fCmp (a b : FVal) : Int :=
  match a, b with
  | .fin an am ae, .fin bn bm be =>
    let s := addEx (exOf an am ae) (exOf (!bn) bm be)
    if s.m = 0 then 0 else if s.neg then -1 else 1
  | .inf an, .inf bn => if an == bn then 0 else if an then -1 else 1
  | .inf an, _ => if an then -1 else 1
  | _, .inf bn => if bn then 1 else -1
  | _, _ => 0
def FVal.isNeg : FVal → Bool
  | .fin n .. => n | .inf n => n | .nan _ => false
/-- Minimum and maximum of IEEE 754-2019: a NaN gives the canonical NaN, -0 orders below +0 (R62). -/
def fMinMax (f : Fmt) (max : Bool) (x y : Nat) : Nat × Flags :=
  let a := decodeFloat f x; let b := decodeFloat f y
  if isNan a || isNan b then nanRes f (isSnan a || isSnan b)
  else
    let c := fCmp a b
    let aLess := decide (c < 0) || (c == 0 && a.isNeg)
    (if aLess != max then x % 2 ^ f.width else y % 2 ^ f.width, 0)

/-- pick_integer of a signed exact value (R61, R65). -/
def pickInt (x : Ex) (rm : RoundMode) : Int × Bool :=
  let p := pickMag x 0 rm
  (if x.neg then -(p.1 : Int) else p.1, p.2)

/-- VCVT of one element: source format and scale, target format and scale (R57, R65). -/
def convert (sf : Fmt) (sscale : Nat) (df : Fmt) (dscale : Nat) (rm : RoundMode) (sat : Bool) (x : Nat) : Nat × Flags :=
  let shift : Int := if sf.float then (sscale : Int) - 127 else 0
  let dshift : Int := if df.float then 127 - (dscale : Int) else 0
  let v : FVal := if sf.float then decodeFloat sf x
    else (let i := intVal sf x; .fin (decide (i < 0)) i.natAbs 0)
  if !sf.float && !df.float then reduceInt df sat (intVal sf x)
  else if df.float then
    match v with
    | .nan s => nanRes df s
    | .inf n => if sat then (encLargest df n, fSAT) else if df.inf = 0 then nanRes df true else (encInf df n, 0)
    | .fin n m e =>
      let r := roundOrZero df (exOf n m (e + shift + dshift)) rm n
      if sat && (r.2 &&& fOF) != 0 then (encLargest df n, fSAT ||| fNX) else r
  else
    match v with
    | .nan _ => (0, fNV)
    | .inf n => (wrapInt df.width (if n then df.minInt else df.maxInt), if sat then fSAT else fNV)
    | .fin n m e =>
      let p := pickInt (exOf n m (e + shift)) rm
      if p.1 < df.minInt then (wrapInt df.width df.minInt, if sat then fSAT else fNV)
      else if df.maxInt < p.1 then (wrapInt df.width df.maxInt, if sat then fSAT else fNV)
      else (wrapInt df.width p.1, if p.2 then fNX else 0)

/-- Integer division of R48: quotient and flags under `.sat`. -/
def intDiv (f : Fmt) (sat : Bool) (a b : Int) : Nat × Flags :=
  if b = 0 then (wrapInt f.width (if f.signed then -1 else f.maxInt), fDZ)
  else if f.signed && a == f.minInt && b == -1 then
    (if sat then (wrapInt f.width f.maxInt, fSAT) else (wrapInt f.width f.minInt, 0))
  else (wrapInt f.width (a.tdiv b), 0)

/-- The grid dot product of R66 and R67: the pairs of activation and weight that are not null, and the accumulator or
decay term. Result FP32 encoding and flags. -/
structure DotIn where
  pairs : List (FVal × FVal)
  acc : Option FVal
  accInputs : List FVal      -- the inputs behind the accumulator term, for the quiet-NaN rule
  deriving Repr

def isQnan : FVal → Bool
  | .nan false => true | _ => false
def isInf (neg : Bool) : FVal → Bool
  | .inf n => n == neg | _ => false
/-- A dyadic truncated toward zero to the grid 2^g, in units of 2^g. -/
def gridInt (g : Int) : FVal → Int
  | .fin n m e =>
    let k := if g ≤ e then m * 2 ^ (e - g).toNat else if (Nat.log2 m : Int) < g - e then 0 else m / 2 ^ (g - e).toNat
    if n then -(k : Int) else k
  | _ => 0
def magExp : FVal → Option Int
  | .fin _ m e => if m = 0 then none else some (e + (Nat.log2 m : Int))
  | _ => none

def gridDot (d : DotIn) : Nat × Flags :=
  let prods := d.pairs.map (fun p => (isNan p.1 || isNan p.2, fProd p.1 p.2))
  let nanProd := prods.any (·.1)
  let badProd := prods.any (fun p => !p.1 && p.2.isNone)
  let accNan := match d.acc with | some v => isNan v | none => false
  let inputs := d.pairs.flatMap (fun p => [p.1, p.2]) ++ d.accInputs
  let nv : Flags := if inputs.any isQnan then 0 else fNV
  let terms := prods.filterMap (·.2) ++ d.acc.toList
  if nanProd || accNan || badProd then (fp32.nan, nv)
  else if terms.any (isInf false) && terms.any (isInf true) then (fp32.nan, nv)
  else if terms.any (isInf false) then (encInf fp32 false, 0)
  else if terms.any (isInf true) then (encInf fp32 true, 0)
  else
    match terms.filterMap magExp with
    | [] => (if !terms.isEmpty && terms.all FVal.isNeg then encZero fp32 true else 0, 0)
    | e :: es =>
      let top := es.foldl (fun a b => if a < b then b else a) e
      let g := top - 48
      let s := terms.foldl (fun a t => a + gridInt g t) (0 : Int)
      if s = 0 then (0, 0)
      else
        let r := roundEx fp32 ⟨decide (s < 0), s.natAbs, g, false⟩ .rne
        (r.1, r.2 &&& fOF)

/-- The decay term round(FP32, c * d, RNE), a NaN term where c * d is one (R66); it raises nothing itself. -/
def decayTerm (c d : FVal) : FVal :=
  match fProd c d with
  | some p => decodeFloat fp32 (fDeliver fp32 .rne p).1
  | none => .nan false

/-- The value of an element of a scaled format (R57). -/
def scaled (f : Fmt) (scale x : Nat) : FVal :=
  match decodeFloat f x with
  | .fin n m e => .fin n m (e + ((scale : Int) - 127))
  | v => v

/-- A weight code q times a BF16 scale (R54). For q other than 0 and a scale of zero, where R54 rounds a zero and R61 defines rounding for nonzero x
alone, the zero's sign is the exclusive-or of the signs of q and the scale (DESIGN CHOICE, log entry 63). -/
def scaleCode (q : Int) (s : Nat) : Nat :=
  if q = 0 then 0
  else match decodeFloat bf16 s with
    | .nan _ => 0x7FC0
    | .inf n => encInf bf16 (n != decide (q < 0))
    | .fin n m e => (roundOrZero bf16 (exOf (n != decide (q < 0)) (m * q.natAbs) e) .rne (n != decide (q < 0))).1

/-- The least power of two not below n (R69). -/
def powerAbove (n : Nat) : Nat := if n ≤ 1 then 1 else 2 ^ (Nat.log2 (n - 1) + 1)
/-- One level of the reduction tree: neighbours combine, a lone present node passes (R69). -/
def treeLevel (f : Nat → Nat → Nat × Flags) : List (Option Nat) → List (Option Nat) × Flags
  | a :: b :: r =>
    let t := treeLevel f r
    match a, b with
    | some x, some y => let c := f x y; (some c.1 :: t.1, c.2 ||| t.2)
    | some x, none => (some x :: t.1, t.2)
    | none, some y => (some y :: t.1, t.2)
    | none, none => (none :: t.1, t.2)
  | [a] => ([a], 0)
  | [] => ([], 0)
/-- The tree by `fuel` levels. -/
def treeReduce (f : Nat → Nat → Nat × Flags) : Nat → List (Option Nat) → Option Nat × Flags
  | 0, l => (l.head?.getD none, 0)
  | k + 1, l =>
    let t := treeLevel f l
    let r := treeReduce f k t.1
    (r.1, t.2 ||| r.2)

end Sys2Proof.Machine
end

