-- ==== Sys2Proof/Config.lean ====
section
/-! DEFINITION. What is fixed for the device, and the free values the manual leaves open (opaque: no proof can see them). -/
namespace Sys2Proof.Config

/-- Clusters, tiles, control cores, user threads (R1, R3). -/
def clusters : Nat := 8
def tiles : Nat := 64
def cores : Nat := 512
def threads : Nat := 2048
/-- Bytes of device DRAM: 768 GiB (R1, R293). -/
def dramBytes : Nat := 768 * 2 ^ 30
/-- Host queues (R353). -/
def queues : Nat := 4096

/-- FREE VALUE (log entry 3): an element of the rows of a failing fill segment holds its former value or the weight
this fill expanded, "which of the two each element holds is not defined" (R229). `true` takes the new one. -/
opaque fillElementNew : Nat → Nat → Bool
/-- FREE VALUE (log entry 3): which element of an unordered scatter remains among those with the same bytes (R183). -/
opaque scatterWinner : Nat → Nat
/-- FREE VALUE (log entry 3): the order in which the strip partials of an unordered scalar fold combine (R268). -/
opaque foldOrder : Nat → Nat
/-- FREE VALUE (log entry 4): SHAKE256 with a 64-byte output (R450, R452, R453): named by the spec, defined elsewhere. -/
opaque shake256 : List Byte → List Byte
/-- FREE VALUE (log entry 4): the Ed448 signature check (R450): key, message, signature. -/
opaque ed448Verify : List Byte → List Byte → List Byte → Bool
/-- FREE VALUE (log entry 4): the Ed448 signature Sollosor makes (R452, R453): key, message. -/
opaque ed448Sign : List Byte → List Byte → List Byte
/-- FREE VALUE (log entry 4): the fused secret (R452) and the fused public-key digest of each key slot (R450). -/
opaque fusedSecret : List Byte
opaque keyDigest : Nat → List Byte
/-- FREE VALUE (log entry 4): the body of an SPDM or MCTP control answer, which SPDM 1.2 and MCTP lay out (R453, R454). -/
opaque spdmBody : Nat → List Byte → List Byte
/-- FREE VALUE (log entry 4): the images in Sollosor's flash (R450), their header, body and public key: kind, slot. -/
opaque flashHeader : Nat → Nat → List Byte
opaque flashBody : Nat → Nat → List Byte
opaque flashKey : Nat → Nat → List Byte
/-- FREE VALUE (log entry 4): SHA3-512; an Ed448 public key of a private one; the secp384r1 share Sollosor sends and the secret it comes to with the
requester's message; AES-256-GCM under a key (R453): named by the spec, defined elsewhere. -/
opaque sha3_512 : List Byte → List Byte
opaque ed448Public : List Byte → List Byte
opaque secp384r1Share : Nat → List Byte
opaque secp384r1Secret : Nat → List Byte → List Byte
opaque aes256gcm : List Byte → List Byte → List Byte
/-- FREE VALUE (log entry 4): the certificate of Gweveren's root, and the device certificate of an identity key (R452). -/
opaque rootCertificate : List Byte
opaque deviceCertificate : List Byte → List Byte
/-- FREE VALUE (log entry 4): the fused minimum SVN, and the revoked key slots at power-on (R450). -/
opaque fusedMinSvn : Nat → Nat
opaque keyRevoked : Nat → Bool

/-- FREE VALUE (log entry 3): what PSTAT with BANK delivers for an address of a HOST page or of a peer, whose row lies in no bank of
this device (R252). -/
opaque farBank : Nat → Word

/-- FREE VALUE (log entry 1): whether the firmware context of a core has a block ready to fetch in a cycle (R373). -/
opaque firmwareReady : Nat → Nat → Bool

/-- FREE VALUE (log entry 71): what a cold start's training of a stack's DRAM finds (R4, R448 step 2). -/
opaque trained : Nat → Nat
/-- FREE VALUE (log entry 72): the SEC-DED code of a 64-bit word (R430), of which the spec gives no matrix, and the syndrome a log record gives of an
error in a line of DRAM (R435): line, cycle. -/
opaque secDed : BitVec 64 → BitVec 8
opaque syndrome : Nat → Nat → Nat
/-- FREE VALUE (log entry 72): the lane groups of a tile out of service that pass the test of a start (R436). -/
opaque retested : Nat → BitVec 16
/-- FREE VALUE (log entry 3): the cycles the expander stalls on the flume in one segment of a fill (R228, R234); the model keeps no cycles of
fills. Also the stall of a WEXP that reads a line for which the spec gives no latency (R349). -/
opaque fillStall : Nat → Nat

/-- DESIGN CHOICE (log entry 6): firmware "places the QCB table in device memory at a physical address of its choosing"
(R353), reserves the save areas (R394) and the status block (R457); these are the addresses this model's firmware takes. -/
def qcbTable : Nat := 0x2F_8000_0000
def saveBase : Nat := 0xB0_0000_0000
def statusBlock : Nat := 0x2F_7000_0000

end Sys2Proof.Config
end

