-- ==== Sys2Proof/Machine/Map.lean ====
section
/-! DEFINITION. Sparse maps as plain lists of (key, value) with strictly rising keys: the form memory, register files and
every other numbered collection of the state takes. -/
namespace Sys2Proof.Machine

/-- A sparse map. -/
abbrev NMap (α : Type) := List (Nat × α)

/-- The value at k, d where no entry has that key. -/
def mget {α : Type} (d : α) : NMap α → Nat → α
  | [], _ => d
  | (a, v) :: r, k => if a = k then v else mget d r k

/-- Removes every entry of key k. -/
def mdel {α : Type} (m : NMap α) (k : Nat) : NMap α := m.filter (fun e => e.1 != k)

/-- Inserts before the first greater key. -/
def mins {α : Type} (k : Nat) (v : α) : NMap α → NMap α
  | [] => [(k, v)]
  | (a, x) :: r => if k < a then (k, v) :: (a, x) :: r else (a, x) :: mins k v r

/-- Sets the entry of key k. -/
def mput {α : Type} (m : NMap α) (k : Nat) (v : α) : NMap α := mins k v (mdel m k)

/-- Sets key k in a map whose unlisted keys read d: an entry equal to d is not listed. -/
def mset {α : Type} [DecidableEq α] (d : α) (m : NMap α) (k : Nat) (v : α) : NMap α :=
  if v = d then mdel m k else mput m k v

/-- The canonical form: keys strictly rising, no entry equal to d. -/
def mwf {α : Type} [DecidableEq α] (d : α) : NMap α → Bool
  | [] => true
  | (a, v) :: r => (v != d) && r.all (fun e => decide (a < e.1)) && mwf d r

end Sys2Proof.Machine
end

