-- ==== Sys2Proof/Machine/State.lean ====
section
/-! DEFINITION. The whole device as plain data: every piece of state the spec gives it (INVENTORY.md lists each with its
rule), and State.reset. -/
namespace Sys2Proof.Machine

/-- Bytes of device DRAM, scratchpads and cisterns. Keys: a physical address below 2^52; 2^52 + tile * 2^22 + x for byte x
of a scratchpad; 2^53 + cluster * 2^26 + x for byte x of a cistern (R273). An unlisted byte reads 0 (R448 step 5, R275, R279). -/
abbrev Memory := List Host.Cell

/-- The errors of a line of DRAM (R430, R431). Correctable ones name bits, at most one of each of the line's words: 72 * k + i is bit i of word k, its check
byte from i = 64 on; they read inverted until they are corrected (R327). -/
inductive ErrMark where
  | ok | correctable (bits : List Nat) | uncorrectable | poisoned
  deriving DecidableEq, Repr

/-- The code of a row's activation counter (R429). -/
inductive CodeErr where
  | ok | correctable | uncorrectable
  deriving DecidableEq, Repr

/-- What a home keeps of a line (R281, R290): whether the slice holds it, dirty, an uncorrectable error in what it holds (R292), its segments, wts and rts. -/
structure LineT where
  held : Bool
  dirty : Bool
  bad : Bool
  segs : Nat
  wts : Time
  rts : Time
  deriving DecidableEq, Repr
def LineT.none : LineT := ⟨false, false, false, 0, 0, 0⟩

/-- A copy of a line in an L1 or an RDC, with the lease granted (R283, R286), and an uncorrectable error in it (R287). -/
structure Copy where
  line : Nat
  data : List Byte
  wts : Time
  rts : Time
  bad : Bool
  deriving DecidableEq, Repr

/-- A TLB entry: ASID, page number at its size (level 1, 2 or 3), physical base, leaf bits (R378, R381). -/
structure TlbEntry where
  asid : BitVec 12
  level : Nat
  vpage : Nat
  pa : Nat
  attrs : BitVec 64
  deriving DecidableEq, Repr

/-- A vector register: tag, slots, and the slots whose none mark is clear (R12 to R14). -/
structure VReg where
  tag : BitVec 16
  slots : NMap Word32
  clear : NMap Bool
  deriving DecidableEq, Repr
/-- A vector register at thread start (R12). -/
def VReg.start : VReg := ⟨0x0FE0, [], []⟩

/-- A token (R21): null; a scalar or boolean; a vector with its tag, its elements below VL under that tag (none is null),
its none-marked slots and the slots read from cells with an uncorrectable error (R143); a mask below VL; a promise of a deferred result: the producing slot and which result (R29). -/
inductive Token where
  | null
  | scalar (v : Word)
  | vector (tag : BitVec 16) (elems : List (Option Word)) (marked bad : List Nat)
  | mask (bits : List (Option Bool))
  | deferred (slot : Nat) (which : Nat)
  deriving DecidableEq, Repr

/-- A token waiting at an operand of a slot. -/
structure TokAt where
  slot : Nat
  opnd : Opnd
  tok : Token
  deriving DecidableEq, Repr

/-- The record of a fault (R33, R388). -/
structure FaultRec where
  cause : Nat
  slot : Word
  addr : Word
  elem : Nat
  info : Word
  deriving DecidableEq, Repr

/-- A fired exit (R108). -/
inductive ExitKind where
  | goto (target : Word)
  | call (target link : Word)
  | yield (target : Word)
  | halt
  | sysc (target : Word)
  deriving DecidableEq, Repr

/-- How an access travels (R284, R288, R406). -/
inductive Route where
  | cached | stream | nocache | space | host | peer
  deriving DecidableEq, Repr

/-- One element's bytes to be written; `seg` says whether the line comes through a COMPRESS page (R291). -/
structure StoreEl where
  elem : Nat
  key : Nat
  bytes : List Byte
  route : Route
  compress : Bool
  deriving DecidableEq, Repr

/-- The home's read-modify-write of one element (R185, R268): format code, operation (0 add, 1 min, 2 max, 3 and, 4 or,
5 xor), key, operand; `compress` as in StoreEl. -/
structure FoldEl where
  fmt : Nat
  fop : Nat
  key : Nat
  val : Word
  route : Route
  compress : Bool
  deriving DecidableEq, Repr

/-- The atomic operations of R186. -/
inductive AtomicOp where
  | add | swap | cas | min | max | and | or | xor
  deriving DecidableEq, Repr

/-- A weight fill (R229): A, snapshot of configuration, frequency table and FP, `.ff`, bound, translation context; or a
WLOADA with its first accumulator row and the rows as converted (R213); the witness C it was given, satisfied where none (R395), and where its segment
1 starts, once its index entry has been read (R225). -/
structure Fill where
  addr : Word
  cfg : BitVec 16
  ftab : List Nat
  base : Word
  ff : Bool
  bound : Time
  asid : BitVec 12
  supervisor : Bool
  wla : Bool
  arow : Nat
  plane : List (BitVec 16)
  wit : Word := 0x8000000000000000
  start1 : Option Word := none
  deriving DecidableEq, Repr

/-- An effect on the claim's view (R202). -/
inductive MxEffect where
  | cells (rows : List (Nat × Word32))
  | zeroRows (first n : Nat)
  | decay (d : Word32)
  | config (cfg : BitVec 16) (fp : Word)
  | table (f : List Nat)
  | fp (v : Word)
  | stalled (cycles fin : Nat)
  | swap
  | bank (b : Nat) (cells : List (Nat × Word32))
  | plane (front : Bool) (cells : List (Nat × BitVec 16))
  | wload (f : Fill)
  | wloada (f : Fill)
  | spill (els : List StoreEl) (backPlane : Bool)
  deriving DecidableEq, Repr

/-- A run of rows of one subarray: subarray number bank * 32 + a, first data row, count, the physical address of its data row 0 (R243, R317). -/
structure RowRun where
  sub : Nat
  row : Nat
  count : Nat
  base : Nat
  deriving DecidableEq, Repr

/-- One bit row of one subarray to be merged: the key of its first byte, subarray, data row, mask of written lanes, their bits (R263). -/
structure RowWrite where
  key : Nat
  sub : Nat
  row : Nat
  lanes : BitVec 8192
  bits : BitVec 8192
  deriving DecidableEq, Repr

/-- A furrow launch as its checks leave it (R247, R248), with the address space and region it runs for: cluster, image address and words, operand bases, parameters, KEEP,
launched subarrays in set order with the physical address of data row 0 of each, the data rows it can read and write in each of
them (R253), the greatest wts of its image's lines (R248), and the FLOOR its writes stand above (R174). -/
structure Launch where
  asid : BitVec 12
  region : Word
  cluster : Nat
  image : Nat
  words : List Word32
  bases : List Nat
  pars : List Word32
  keep : Bool
  subs : List (Nat × Nat)
  reads : List Nat
  writes : List Nat
  wts : Option Time
  floor : Time
  deriving DecidableEq, Repr

/-- What a fired instruction will do at its block's commit (R29, R32). `entered` is an engine's entry that has been made ahead of the rest of its block's
commit, which waits for room (R249, R266), with the result it gives. -/
inductive Effect where
  | store (lsid : Nat) (els : List StoreEl) (w : Option Time)
  | adds (lsid : Nat) (els : List FoldEl)
  | atomic (lsid : Nat) (op : AtomicOp) (key size : Nat) (b c : Word) (sx : Bool) (w : Option Time) (route : Route) (compress : Bool)
  | claimel (lsid : Nat) (key width : Nat) (count : Word) (route : Route) (compress : Bool)
  | planes (lsid : Nat) (rows : List RowWrite) (w : Option Time)
  | setvl (n : Nat) (width : Nat)
  | lclaim (n : Nat)
  | mclaim (tries : Bool)
  | mrel
  | csrw (csr : BitVec 12) (v : Word)
  | wfloor (t : Time)
  | bar (id count : Nat) (w : Word)
  | icinv
  | tlbinv (va ctl : Word)
  | eret
  | cpset (i : Nat) (v : Word)
  | cpgo (view : NMap Word)
  | cpqf (queue : Nat) (mask : BitVec 8)
  | cpabort (id : Word)
  | plock (runs : List RowRun) (write tries : Bool) (cluster : Nat) (desc range : Word)
  | punlock (runs : List RowRun)
  | plaunch (l : Launch)
  | entered (v : Option Word)
  | mx (msid : Nat) (e : MxEffect)
  deriving DecidableEq, Repr

/-- An effect with the slot that formed it. -/
structure EffAt where
  slot : Nat
  eff : Effect
  deriving DecidableEq, Repr

/-- A block in flight (R15, R16, R20): its address, image words, each slot's word offset once decoded, tokens, fired slots,
slots whose P declined them (R22), fired slots still waiting for a result (R26), effects, flags, fired exit, held fault (R17), and the
versions its loads returned: LSID, line, wts (R308); whether a fill of it has been accepted (R229); the CSRs its CSRRs name as they stood at its start
(R117); the slots that have all operands and wait for an instruction of the block that lacks one (R27, R170, R202); how often in a row a lane's failed
check has aborted it (R400). -/
structure BlockExec where
  serial : Nat
  addr : Word
  words : List Word32
  offs : List Nat
  decoded : Bool
  toks : List TokAt
  fired : List Nat
  declined : List Nat
  awaiting : List Nat
  effects : List EffAt
  flags : BitVec 6
  exit : Option (Nat × ExitKind)
  held : Option FaultRec
  reads : List (Nat × Nat × Time)
  accepted : Bool
  csrs : List (Nat × Word)
  stuck : List Nat
  strikes : Nat
  deriving DecidableEq, Repr

/-- Where a thread place stands (R112, R193, R391 to R398). -/
inductive ThreadStatus where
  | absent | running | stopping | saved | ended
  deriving DecidableEq, Repr

/-- What a YIELD makes a thread's next fetch wait for: the threads of the core already offered a slot (R111). -/
inductive FetchHold where
  | free | yielded (served : List Nat)
  deriving DecidableEq, Repr

/-- The four states of the back plane (R212). -/
inductive BackState where
  | idle | filling | failed | stopped
  deriving DecidableEq, Repr

/-- The claim's state (R196, R232, R234); `expander` is the cycle in which the expander finished its last block of a WEXP (R349). -/
structure MxState where
  acc : NMap Word32
  front : NMap (BitVec 16)
  back : NMap (BitVec 16)
  backSt : BackState
  decay : Word32
  cfg : BitVec 16
  fp : Word
  ftab : Option (List Nat)
  done : Nat
  active : Bool
  fill : Option Fill
  progFF : Bool
  progWla : Bool
  progAddr : BitVec 56
  stall : Nat
  rows : Nat
  failRec : Option FaultRec
  expander : Nat
  deriving DecidableEq, Repr
/-- The claim's state at grant (R196). -/
def MxState.grant : MxState :=
  { acc := [], front := [], back := [], backSt := .idle, decay := 0x3F800000, cfg := 0, fp := 0, ftab := none, done := 0,
    active := false, fill := none, progFF := false, progWla := false, progAddr := 0, stall := 0, rows := 0, failRec := none, expander := 0 }

/-- Where a queue entry came from: a thread, by its party number (R340), or a COPY packet of a host queue, by its number there (R365). -/
inductive CopyOwner where
  | thread (party : Nat)
  | packet (queue no : Nat)
  deriving DecidableEq, Repr

/-- An entry of a copy queue (R266, R267, R269, R340): a transfer with its shadow view, or a fence with its mask; `stamping` is the stamp on
its way to another cluster, a peer or the host (R336). -/
structure CopyEntry where
  seq : Nat
  owner : CopyOwner
  asid : BitVec 12
  supervisor : Bool
  region : Word
  fence : Option (BitVec 8)
  watch : List (Nat × Nat)
  view : NMap Word
  floor : Time
  bound : Option Time
  entryBound : Option Time
  predError : Bool
  tags : List (Nat × Nat)
  strip : Nat
  inFlight : Bool
  begun : Bool
  partials : List Word
  last : Option Time
  failWit : Option Word
  abort : Option Word
  stamping : Option Word
  waitFor : Option (Nat × Nat × Nat)
  /-- The tile and number under which the entry was saved, where its team has moved since (R341, R439). -/
  was : Option (Nat × Nat) := none
  deriving DecidableEq, Repr

/-- The status CPSTAT keeps of a transfer (R271). -/
structure CopyStatus where
  seq : Nat
  asid : BitVec 12
  err : Bool
  cls : Nat
  strips : Nat
  stamp : Word
  deriving DecidableEq, Repr

/-- A copy queue (R266, R269, R332); `since` is the cycle from which its first entry has waited for a strip (R329). -/
structure CopyQueue where
  entries : List CopyEntry
  kept : List CopyStatus
  nextSeq : Nat
  horizon : Option Time
  lastStamp : Option Word
  since : Nat
  deriving DecidableEq, Repr
def CopyQueue.empty : CopyQueue := ⟨[], [], 0, none, none, 0⟩

/-- A user thread's context (R12, R119, R384, R394, R395). -/
structure Thread where
  status : ThreadStatus
  team : Nat
  tile : Nat
  core : Nat
  supervisor : Bool
  pc : Word
  sregs : NMap Word
  vregs : NMap VReg
  mregs : NMap (BitVec 16384)
  vl : Nat
  ceil : Nat
  lanes : BitVec 16
  region : Word
  alloc : BitVec 16
  gen : BitVec 16
  floor : Time
  fflags : BitVec 6
  frm : BitVec 3
  blocks : Word
  tcause : Word
  tblock : Word
  tslot : Word
  taddr : Word
  telem : Word
  tvec : Word
  tsave : Word
  tinfo : Word
  savea : Word
  asid : BitVec 12
  lease : BitVec 16
  shadow : NMap Word
  pending : NMap Nat
  vlOut : Nat
  mclaimOut : Bool
  flight : List BlockExec
  hold : FetchHold
  barred : List Nat
  served : Nat
  unserved : Nat
  cellErr : List (Nat × Nat)
  maxWrite : Option Time
  spill : Option Time
  walkFaults : List (Nat × Nat × Nat)
  seen : List (Nat × Time)
  savedCopies : List (Nat × Nat)
  savedEntries : List (Nat × CopyEntry)
  savedMx : Option MxState
  mat : Bool
  mcw : Option Nat
  /-- A fatal trap has ended the thread: once it is saved, its team is killed with this witness (R389). -/
  dying : Option Word
  deriving DecidableEq, Repr

/-- No thread. -/
def Thread.absent : Thread :=
  { status := .absent, team := 0, tile := 0, core := 0, supervisor := true, pc := 0, sregs := [], vregs := [], mregs := [],
    vl := 0, ceil := 0, lanes := 0, region := 0, alloc := 0, gen := 0, floor := 0, fflags := 0, frm := 1, blocks := 0,
    tcause := 0, tblock := 0, tslot := 0, taddr := 0, telem := 0, tvec := 0, tsave := 0, tinfo := 0, savea := 0, asid := 0,
    lease := 64, shadow := [], pending := [], vlOut := 0, mclaimOut := false, flight := [], hold := .free, barred := [], served := 0,
    unserved := 0, cellErr := [], maxWrite := none, spill := none, walkFaults := [], seen := [], savedCopies := [], savedEntries := [], savedMx := none,
    mat := false, mcw := none, dying := none }

/-- A lane group's self-test under way (R400): the group, the lane in it, the thread, its block, the slot and element that failed. -/
structure LaneTest where
  group : Nat
  lane : Nat
  tid : Nat
  serial : Nat
  slot : Nat
  elem : Nat
  deriving DecidableEq, Repr

/-- A tile (R1, R35, R119, R197, R283, R381, R401, R402, R439); `held` gives for each granted lane group, and `claimSince` for the claim, the cycle
of its grant or of its last charge (R370). -/
structure Tile where
  horizon : Time
  free : BitVec 16
  spares : BitVec 16
  doubled : BitVec 16
  lost : BitVec 16
  testing : List LaneTest
  claimant : Option Nat
  claimQ : List (Nat × Nat)
  mx : MxState
  queues : NMap CopyQueue
  l1 : List Copy
  tlb : List TlbEntry
  icache : List (Nat × Nat × List Byte)
  trainNo : Nat
  retired : Bool
  held : NMap Nat
  claimSince : Nat
  deriving DecidableEq, Repr
def Tile.start : Tile :=
  { horizon := 0, free := 0xFFFF, spares := 0xFFFF, doubled := 0, lost := 0, testing := [], claimant := none,
    claimQ := [], mx := MxState.grant, queues := [], l1 := [], tlb := [], icache := [], trainNo := 0,
    retired := false, held := [], claimSince := 0 }

/-- A scratchpad allocation (R275, R276): id, generation, hosting tile, first unit, units, ASID, size in bytes. -/
structure Alloc where
  id : Nat
  gen : Nat
  tile : Nat
  unit : Nat
  units : Nat
  asid : BitVec 12
  deriving DecidableEq, Repr

/-- A cistern allocation (R279), in 64 KiB units, with its owner tag and its region. -/
structure Cistern where
  cluster : Nat
  base : Nat
  size : Nat
  asid : BitVec 12
  rw : Bool
  id : Nat
  gen : Nat
  region : Word
  deriving DecidableEq, Repr

/-- What a delivered load's bytes become (R177, R179, R180, R191). -/
inductive LoadForm where
  | scalar (size : Nat) (sx rw : Bool)
  | vector (tag : BitVec 16) (n : Nat) (rw : Bool) (count : Option Nat)
  | wait (size : Nat) (sx rw : Bool) (limit : Nat)
  deriving DecidableEq, Repr

/-- One element of a load under way: its key, size, the pointer it was made at, the bytes forwarded from the thread's own stores (R170, R171), its
route, the DRAM access made for it, the answer on its way back, and the bytes taken. -/
structure LoadPart where
  elem : Nat
  key : Nat
  size : Nat
  va : Word
  fwd : List (Nat × Byte)
  route : Route
  compress : Bool
  got : Option (List Byte × Option Time)
  deriving DecidableEq, Repr

/-- Where a line request of a load stands: to be served, waiting for its DRAM access, on its way through the RDC or to the L1, a monitor armed
at the home; a VLDP that waits on a row lock (R390); or its bytes taken, while other lines of the load are awaited. -/
inductive LoadStage where
  | atHome | inDram | dramDone | toRdc | toL1 | armed | lockWait | arrived
  deriving DecidableEq, Repr

/-- A load on its way (R172, R173, R284). `answer` is the home's answer in transit; `armedAt` the version an
armed MWAIT saw, none once a write has created a newer one (R191); `home` the home it was routed to (R294); `toL1` and `toRdc` whether its
answer may be installed there (R285). -/
structure LoadReq where
  id : Nat
  tid : Nat
  serial : Nat
  slot : Nat
  form : LoadForm
  parts : List LoadPart
  bound : Time
  fresh : Bool
  stage : LoadStage
  answer : Option Copy
  armedAt : Option Time
  home : Option Nat
  toL1 : Bool
  toRdc : Bool
  deriving DecidableEq, Repr

/-- What a store-class request does at its home. -/
inductive ReqKind where
  | write (cells : List Host.Cell)
  | folds (els : List FoldEl)
  | atomic (op : AtomicOp) (key size : Nat) (b c : Word) (sx : Bool)
  | claimel (key width : Nat) (count : Word) (cap : Nat)
  | row (r : RowWrite)
  deriving DecidableEq, Repr

/-- A committed store-class request for one line (R174, R281, R304): the thread whose program order it stands in, the party whose row
locks let it through (R245), the home it was routed to (R294). -/
structure StoreReq where
  id : Nat
  tid : Option Nat
  who : Option Nat
  team : Nat
  tile : Nat
  gid : Option Nat
  kind : ReqKind
  route : Route
  compress : Bool
  w : Option Time
  floor : Option Time
  dram : Bool
  spill : Bool
  copy : Option (Nat × Nat)
  home : Option Nat
  /-- The first two encoding words of the instruction, of an atomic or CLAIMEL that leaves for another device (R416). -/
  enc : List Word32 := []
  deriving DecidableEq, Repr

/-- A deferred result under way (R29, R30): the thread, the registers that take result 0 and result 1, how many requests
are still to answer, the values, an error, and whether it ends a SETVL, LCLAIM or CLAIMEL, an MCLAIM, or is the handle of a PLAUNCH (R249). -/
structure Group where
  gid : Nat
  tid : Nat
  team : Nat
  dests : List (Nat × Nat)
  left : Nat
  time : Option Time
  value : Option Word
  second : Option Word
  error : Option Word
  ready : Bool
  vl : Bool
  claim : Bool
  launch : Bool
  setVl : Option Nat
  deriving DecidableEq, Repr

/-- An element of a train (R337): an address at the destination and the operation on it; `tag` is the owner tag of the allocation there as the train
left or the element arrived, 0 for none (R339). -/
structure TrainEl where
  key : Nat
  bytes : List Byte
  fold : Option FoldEl
  route : Route
  compress : Bool
  tag : Nat
  deriving DecidableEq, Repr

/-- An element train (R336 to R339). `dest` is a cluster of this device, or 8 + a device number; `inbound` is the sending device of
a train that came from a peer (its kind is 0 once it has been refused), `who` the party whose row locks let it through, `strip` a copy's strip index; `performed` counts the elements dealt
with, `done` those performed; `whole` says that the last element has arrived; `spill` is the thread whose MSPILL
it carries (R210). -/
structure Train where
  id : Nat
  no : BitVec 32
  dest : Nat
  kind : Nat
  els : List TrainEl
  w : Option Time
  floor : Option Time
  tile : Nat
  team : Nat
  asid : BitVec 12
  gid : Option Nat
  copy : Option (Nat × Nat)
  count : Nat
  performed : Nat
  time : Option Time
  error : Option Word
  inbound : Option Nat
  who : Option Nat
  strip : Nat
  tailed : Bool
  done : Nat
  whole : Bool
  spill : Option Nat
  deriving DecidableEq, Repr

/-- A page walk in flight, or waiting for one of its cluster's walkers (R381): ASID, virtual address, the tiles whose L1 TLBs take the leaf, the threads
to be told. -/
structure Walk where
  id : Nat
  cluster : Nat
  asid : BitVec 12
  va : Nat
  tiles : List Nat
  waiters : List Nat
  engines : List Nat
  deriving DecidableEq, Repr

/-- A request in a bank's queue (R323, R426): the bank row, what it serves: a load, a store, the access of an engine, the front end or the host to a
line, a patrol read, a write-back. -/
inductive DramWhat where
  | load (req : Nat) | store (req : Nat) | engine | patrol | other
  deriving DecidableEq, Repr
structure DramReq where
  row : Nat
  line : Nat
  what : DramWhat
  deriving DecidableEq, Repr

/-- A DRAM bank (R322 to R326, R425 to R432). -/
structure Bank where
  debt : Nat
  credit : Nat
  alerts : List Nat
  rp : Nat
  queue : List DramReq
  inserted : Bool
  patrol : Nat
  retired : Bool
  /-- The cycle since which refresh management runs (R428). -/
  managing : Option Nat
  deriving DecidableEq, Repr
def Bank.start : Bank := ⟨0, 0, [], 0, [], false, 0, false, none⟩
/-- BACKOFF: refresh management is running or due (R252, R428). -/
def Bank.backoff (b : Bank) : Bool := b.managing.isSome || !b.alerts.isEmpty

/-- A held lock range (R243 to R246): owner (a thread's party number, or 4096 + a host queue), mode, rows, the PLOCK's operands; `leaving` are rows
whose release waits for the owner's ops. -/
structure Lock where
  owner : Nat
  write : Bool
  runs : List RowRun
  desc : Word
  range : Word
  leaving : List RowRun
  deriving DecidableEq, Repr

/-- A lock request waiting at the home (R244); `launch` is the op that the last of a PLANE packet's requests launches, with the packet (R366). -/
structure LockReq where
  id : Nat
  lock : Lock
  tries : Bool
  cluster : Nat
  gid : Option Nat
  launch : Option (Launch × Nat × Nat)
  deriving DecidableEq, Repr

/-- A furrow op (R249 to R252, R320, R321); `safe` says that it stands at a safe point (R322); `encoded` counts the row groups its encode pass has
performed, `encTime` is the greatest of their times (R250). -/
inductive OpState where
  | queued | running | encoding | done
  deriving DecidableEq, Repr
structure FieldOp where
  seq : Nat
  owner : Nat
  launch : Launch
  state : OpState
  pass : Nat
  safe : Bool
  pc : Nat
  loops : List (Nat × Nat × Nat)
  steps : Nat
  witness : Option Word
  abandoned : Bool
  packet : Option (Nat × Nat)
  encoded : Nat
  encTime : Option Time
  deriving DecidableEq, Repr

/-- A cluster's management registers, field controller, L2 TLB, RDC, snoop filter and log (R249, R286, R319, R381, R412, R433 to R438). -/
structure Cluster where
  mts : Time
  lru : List Nat
  rdc : List Copy
  tlb : List TlbEntry
  il : NMap (Word × Word)
  ilsel : Nat
  brsel : Nat
  remap : NMap Word
  mth : Nat
  poff : Bool
  patrol : Nat
  log : List (List Word)
  logged : Nat
  dropped : Nat
  rowsSpared : Nat
  banksRetired : Nat
  tilesRetired : Nat
  groupsOut : Nat
  linksDegraded : Nat
  ops : List FieldOp
  opSeq : Nat
  planeHorizon : Option Time
  locks : List Lock
  lockReqs : List LockReq
  snoop : List (Nat × Bool)
  bisnp : List (Nat × Bool)
  deriving DecidableEq, Repr
def Cluster.start : Cluster :=
  { mts := 0, lru := [], rdc := [], tlb := [], il := [], ilsel := 0, brsel := 0, remap := [], mth := 1024, poff := false,
    patrol := 12, log := [], logged := 0, dropped := 0, rowsSpared := 0, banksRetired := 0, tilesRetired := 0,
    groupsOut := 0, linksDegraded := 0, ops := [], opSeq := 0, planeHorizon := none, locks := [], lockReqs := [], snoop := [],
    bisnp := [] }

/-- A control core: FWSHARE (R374) and the thread last served (R373). -/
structure Core where
  fwshare : Nat
  last : Nat
  deriving DecidableEq, Repr
def Core.start : Core := ⟨2, 3⟩

/-- A named barrier (R193): arrivals of this generation with their witnesses and deferred groups, the count fixed by the first. -/
structure Barrier where
  gen : Nat
  count : Nat
  arrivals : List (Nat × Word × Nat)
  deriving DecidableEq, Repr
def Barrier.empty : Barrier := ⟨0, 0, []⟩

/-- A team (R275, R362); `packet` is the number of its START in its queue. -/
structure Team where
  id : Nat
  tile : Nat
  alloc : Nat
  asid : BitVec 12
  region : Word
  members : List Nat
  queue : Nat
  packet : Nat
  started : Nat
  barriers : NMap Barrier
  ending : Option Word
  maxWrite : Option Time
  done : Bool
  deriving DecidableEq, Repr

/-- An attached region (R369 to R371). -/
structure Region where
  asid : BitVec 12
  addr : Word
  parent : Word
  mask : BitVec 16
  prio : Nat
  fdom : Nat
  limit : List Word
  used : List Word
  event : Word
  killed : Bool
  /-- The USED fields have yet to be written back: a page walk is under way (R370). -/
  owes : Bool := false
  deriving DecidableEq, Repr

/-- A queue control block as the front end has read it (R353, R354). -/
structure Qcb where
  ring : Word
  log2n : Nat
  state : Nat
  phase : Nat
  asid : BitVec 12
  seq : Nat
  head : Nat
  root : Word
  deriving DecidableEq, Repr
def Qcb.start : Qcb := ⟨0, 0, 0, 0, 0, 0, 0, 0⟩

/-- A packet in progress (R357, R359): its SEQ, and `no`, which tells it from every other packet of its queue. -/
structure PacketRec where
  seq : Nat
  no : Nat
  bytes : List Byte
  started : Bool
  waited : Bool
  done : Bool
  completed : Bool
  time : Option Time
  error : Option Word
  deriving DecidableEq, Repr

/-- The front end's view of a host queue (R353 to R360): the QCB as last read, its ASID and ROOT, whether it read as running; `armed` is the
head slot's line its monitor watches; `count` numbers its packets. -/
structure HostQueue where
  asid : BitVec 12
  root : Word
  running : Bool
  awake : Bool
  armed : Option Nat
  bound : Option Time
  head : Option PacketRec
  active : List PacketRec
  stamp : Option Time
  view : Qcb
  count : Nat
  deriving DecidableEq, Repr
def HostQueue.start : HostQueue := ⟨0, 0, false, false, none, none, none, [], none, Qcb.start, 0⟩

/-- What leaves the device: answers to the host, peer messages, snoop answers, out-of-band answers (R311, R411 to R418, R453, R454). -/
inductive Output where
  | hostData (pa : Nat) (bytes : List Byte) (poisoned : Bool)
  | hostDone (pa : Nat)
  | backInvalidate (line : Nat) (cur : Bool)
  | snoopMiss (pa : Nat)
  | hostRead (req : Nat) (pa : Nat)
  | hostWrite (req : Nat) (cells : List Host.Cell)
  | message (dev : Nat) (type : Nat) (offset : BitVec 20) (payload : List Byte)
  | spdm (code : Nat) (body : List Byte)
  | mctp (body : List Byte)
  | vendor (code : Nat) (ok : Bool) (body : List Word)
  deriving DecidableEq, Repr

/-- A message sent and not yet acknowledged (R415). -/
structure SentMsg where
  tile : Nat
  dev : Nat
  seq : Nat
  tag : Nat
  type : Nat
  payload : List Byte
  deriving DecidableEq, Repr

/-- A receiving stream (R415): sending device, sending tile, expected SEQ, held messages, the beats of a train that are still to be read and the train
(R338). -/
structure Stream where
  dev : Nat
  tile : Nat
  expected : BitVec 32
  held : List Msg
  rx : List (List Byte)
  train : Option Nat
  deriving DecidableEq, Repr

/-- A line of a HOST page or of a peer as an engine's read has brought it: for an ASID, with the bound it was read under (R331, R416), and the
error the peer answered with. -/
structure FarLine where
  line : Nat
  asid : Nat
  bound : Time
  bytes : List Byte
  bad : Option Word
  deriving DecidableEq, Repr
/-- A HOST-page access under way (R411): load of a thread, store of a line, a line read for an engine. -/
inductive HostWhat where
  | load (req : Nat) | store (req : Nat) | line (line asid : Nat) (bound : Time)
  deriving DecidableEq, Repr
structure HostReq where
  id : Nat
  what : HostWhat
  deriving DecidableEq, Repr

/-- A start request (R449). -/
inductive StartKind where
  | warm (zero : Bool) | cold
  deriving DecidableEq, Repr

/-- Sollosor's state and function 0's registers (R448 to R457). -/
structure Manager where
  ready : Bool
  restarting : Bool
  failStep : Nat
  pending : Option StartKind
  next : Option StartKind
  /-- That request has come out of band (R449). -/
  nextOob : Bool
  statusPa : Nat
  qcbtPa : Nat
  minSvn : NMap Nat
  activeSvn : NMap Nat
  activeDigest : NMap (List Byte)
  /-- The image of a live replacement under way, digest and SVN, and the control cores whose firmware context has changed to it (R451). -/
  switching : Option (List Byte × Nat)
  changed : List Nat
  identity : List Byte
  aliasKey : List Byte
  session : Bool
  /-- The secret of a KEY_EXCHANGE that no FINISH has followed; the key of the session; the IDE keys of the CXL ports, by port (R453). -/
  handshake : Option (List Byte)
  sessionKey : List Byte
  ideKeys : NMap (List Byte)
  version : Bool
  negotiated : Bool
  plimit : Nat
  level : Nat
  power : Nat
  powers : List Nat
  temps : List Nat
  statusSeq : Nat
  trip : Bool
  /-- The HDM decoder is committed (R448 step 8). -/
  hdm : Bool
  deriving DecidableEq, Repr
/-- Sollosor at power-on: a cold start is pending (R448, R449, R455). -/
def Manager.start : Manager :=
  { ready := false, restarting := false, failStep := 0, pending := some .cold, next := none, nextOob := false, statusPa := 0, qcbtPa := 0, minSvn := [],
    activeSvn := [], activeDigest := [], switching := none, changed := [], identity := [], aliasKey := [], session := false, handshake := none,
    sessionKey := [], ideKeys := [], version := false, negotiated := false, plimit := 1600, level := 0, power := 0, powers := [], temps := [],
    statusSeq := 0, trip := false, hdm := false }

/-- What the executing step is about: a slot of a thread's in-flight block, or an op of a cluster (MODEL's own). -/
inductive Focus where
  | none
  | slot (tid serial slot : Nat)
  | op (cluster seq : Nat)
  deriving DecidableEq, Repr

/-- The device. -/
structure State where
  agenda : List Instr
  focus : Focus
  turn : Nat
  fresh : Nat
  cycle : Nat
  mem : Memory
  err : NMap ErrMark
  lines : NMap LineT
  clocks : NMap Time
  ceiling : Time
  tiles : NMap Tile
  clusters : NMap Cluster
  cores : NMap Core
  threads : NMap Thread
  saved : List (Nat × Thread)
  loads : List LoadReq
  stores : List StoreReq
  groups : List Group
  trains : List Train
  hostReqs : List HostReq
  farLines : List FarLine
  walks : List Walk
  /-- Pages for which a walk has ended that engines of a tile wait for: tile, ASID, page (R381). -/
  walkEnds : List (Nat × Nat × Nat)
  asidTab : NMap (Option Nat)
  peers : NMap Word
  deviceNo : BitVec 12
  allocs : List Alloc
  gens : NMap Nat
  nextAlloc : Nat
  cisterns : List Cistern
  banks : NMap Bank
  counters : NMap Nat
  counterErr : NMap CodeErr
  opened : List Nat
  specials : NMap (BitVec 8192)
  keepOwner : NMap Nat
  stale : NMap Bool
  spared : NMap Bool
  teams : List Team
  regions : List Region
  hostQ : NMap HostQueue
  waiting : List Nat
  sent : List SentMsg
  txSeq : NMap Nat
  streams : List Stream
  idleTurn : NMap Nat
  refused : List (BitVec 12)
  hostHeld : List Instr
  links : NMap Nat
  /-- Spare lanes in use, by link direction (R440). -/
  linkSpares : NMap Nat
  training : NMap Nat
  freeing : List Nat
  hostLast : Option Time
  out : List Output
  mgr : Manager
  deriving DecidableEq, Repr

/-- Memory's canonical form: addresses strictly rising, no byte equal to the 0 an unlisted address reads as. -/
def Memory.wf (m : Memory) : Bool := mwf (0 : Byte) m

/-- The machine at power-on: every register at its Reset value, nothing listed, a cold start pending (R448, R449). The values
the spec does not give are in log entries 5 to 9. -/
def State.reset : State :=
  { agenda := [], focus := .none, turn := 0, fresh := 0, cycle := 0, mem := [], err := [], lines := [], clocks := [], ceiling := 0, tiles := [],
    clusters := [], cores := [], threads := [], saved := [], loads := [], stores := [], groups := [], trains := [], hostReqs := [], farLines := [], walks := [], walkEnds := [], asidTab := [],
    peers := [], deviceNo := 0, allocs := [], gens := [], nextAlloc := 0, cisterns := [], banks := [], counters := [], counterErr := [], opened := [],
    specials := [], keepOwner := [], stale := [], spared := [], teams := [], regions := [], hostQ := [], waiting := [], sent := [],
    txSeq := [], streams := [], idleTurn := [], refused := [], hostHeld := [], links := [], linkSpares := [], training := [], freeing := [], hostLast := none, out := [], mgr := Manager.start }

/-- Why a run stops with a fault. -/
inductive Fault where
  /-- Raised by `step` when the focused slot's words do not decode, which BLOCK_DECODE excludes (R90). Safe: it stops. -/
  | undecodable
  deriving DecidableEq, Repr

/-- Why a run stops without a meaning. -/
inductive Refusal where
  /-- Raised by an arm of exec whose instruction has no meaning in this model yet. Safe: it stops. -/
  | notModelled (mnemonic : String)
  deriving DecidableEq, Repr

end Sys2Proof.Machine
end

