-- ==== Sys2Proof/Machine/Ops.lean ====
section
/-! DEFINITION. The named operations over the state: parts by number, logical time and witnesses (R9, R297 to R303), the
memory of newest bytes, homes with their clocks and lines (R281, R282, R290, R304), the interleave map (R293 to R296) and
row locks as they hold accesses back (R245). -/
namespace Sys2Proof.Machine

/-! Parts by number (R3). -/
def State.thread (s : State) (tid : Nat) : Thread := mget Thread.absent s.threads tid
def State.setThread (s : State) (tid : Nat) (t : Thread) : State := { s with threads := mset Thread.absent s.threads tid t }
def State.tile (s : State) (n : Nat) : Tile := mget Tile.start s.tiles n
def State.setTile (s : State) (n : Nat) (t : Tile) : State := { s with tiles := mset Tile.start s.tiles n t }
def State.cluster (s : State) (n : Nat) : Cluster := mget Cluster.start s.clusters n
def State.setCluster (s : State) (n : Nat) (c : Cluster) : State := { s with clusters := mset Cluster.start s.clusters n c }
def State.core (s : State) (n : Nat) : Core := mget Core.start s.cores n
def State.setCore (s : State) (n : Nat) (c : Core) : State := { s with cores := mset Core.start s.cores n c }
def State.bank (s : State) (n : Nat) : Bank := mget Bank.start s.banks n
def State.setBank (s : State) (n : Nat) (b : Bank) : State := { s with banks := mset Bank.start s.banks n b }
def State.queue (s : State) (n : Nat) : HostQueue := mget HostQueue.start s.hostQ n
def State.setQueue (s : State) (n : Nat) (q : HostQueue) : State := { s with hostQ := mset HostQueue.start s.hostQ n q }
def State.line (s : State) (l : Nat) : LineT := mget LineT.none s.lines l
def State.setLine (s : State) (l : Nat) (x : LineT) : State := { s with lines := mset LineT.none s.lines l x }
def State.clock (s : State) (h : Nat) : Time := mget 0 s.clocks h
def clusterOfTile (t : Nat) : Nat := t / 8
def tileOfThread (tid : Nat) : Nat := tid / 32
def coreOfThread (tid : Nat) : Nat := tid / 4
def State.tileOf (s : State) (tid : Nat) : Nat := (s.thread tid).tile
/-- The party a thread is in row locks, launches and copy queues (R245, R247, R340): its number and its team, since a number passes to another
thread once its thread has ended or is saved. Numbers 4096 to 8191 are the host queues. -/
def partyOf (tid team : Nat) : Nat := tid + 8192 * team
def State.party (s : State) (tid : Nat) : Nat := partyOf tid (s.thread tid).team
/-- The device thread index of a party, or the number 4096 + q of a queue. -/
def partyTid (p : Nat) : Nat := p % 8192
def isThreadParty (p : Nat) : Bool := partyTid p < 4096
/-- The next value of the state's counter: an identity for a request, an argument for a free value (log entry 3). -/
def State.tick (s : State) : Nat × State := (s.fresh, { s with fresh := s.fresh + 1 })

/-! Bits. -/
def bitsAt (w : Word) (lo n : Nat) : Nat := w.toNat / 2 ^ lo % 2 ^ n
def maskBits (n : Nat) : Nat := 2 ^ n - 1
/-- sext of R9: the low n bits of x, sign-extended to 64. -/
def sextW (x : Word) (n : Nat) : Word :=
  if n = 0 then 0 else if 64 ≤ n then x
  else if (x.toNat / 2 ^ (n - 1)) % 2 = 1 then BitVec.ofNat 64 (x.toNat % 2 ^ n + (2 ^ 64 - 2 ^ n)) else BitVec.ofNat 64 (x.toNat % 2 ^ n)
def zextW (x : Word) (n : Nat) : Word := if 64 ≤ n then x else BitVec.ofNat 64 (x.toNat % 2 ^ n)
/-- Little-endian bytes of a number (R6). -/
def leBytes : Nat → Nat → List Byte
  | 0, _ => []
  | n + 1, v => BitVec.ofNat 8 (v % 256) :: leBytes n (v / 256)
def leNat : List Byte → Nat
  | [] => 0
  | b :: r => b.toNat + 256 * leNat r

/-! Logical time (R9, R299). -/
/-- serial_le(a, b): (b - a) mod 2^62 < 2^61. -/
def serialLe (a b : Time) : Bool := (b - a).toNat < 2 ^ 61
def serialMax (a b : Time) : Time := if serialLe a b then b else a
def serialMaxL (l : List Time) (d : Time) : Time := l.foldl serialMax d
/-- a is serially greater than b. -/
def serialGt (a b : Time) : Bool := !serialLe a b
/-- The satisfied witness (R297). -/
def satisfied : Word := 0x8000000000000000
/-- The kind of a witness: 0 time, 1 error, 2 satisfied, 3 reserved. -/
def wKind (w : Word) : Nat := bitsAt w 62 2
def wTime (w : Word) : Time := w.setWidth 62
def timeWitness (t : Time) : Word := t.setWidth 64
def errWitness (cls detail : Nat) : Word := BitVec.ofNat 64 (2 ^ 62 + cls % 64 * 2 ^ 56 + detail % 2 ^ 56)
def optWitness (t : Option Time) : Word := match t with | some x => timeWitness x | none => satisfied
/-- How far a time stands behind HORIZON, mod 2^62 (R299). -/
def behind (h : Time) (w : Word) : Nat := (h - wTime w).toNat
def expired (h : Time) (w : Word) : Bool := 2 ^ 60 < behind h w && behind h w < 2 ^ 61
def implausible (h : Time) (w : Word) : Bool := 2 ^ 61 ≤ behind h w && behind h w < 2 ^ 62 - 2 ^ 41
/-- The time a witness contributes; none for satisfied and expired ones (R172). -/
def contributes (h : Time) (w : Word) : Option Time :=
  if wKind w = 0 && !expired h w then some (wTime w) else none
/-- As WJOIN and WTEST take it: an implausible time contributes none either (R187, R299). -/
def contributesJoin (h : Time) (w : Word) : Option Time :=
  if wKind w = 0 && !expired h w && !implausible h w then some (wTime w) else none
/-- WJOIN of two witnesses neither of which is reserved (R187). -/
def joinWitness (h : Time) (a b : Word) : Word :=
  if wKind a = 1 && wKind b = 1 then (if (bitsAt a 0 62) ≤ (bitsAt b 0 62) then a else b)
  else if wKind a = 1 then a else if wKind b = 1 then b
  else match contributesJoin h a, contributesJoin h b with
    | none, _ => b
    | _, none => a
    | some x, some y => if serialLe x y then b else a

/-- HORIZON rises to at least a time (R302). -/
def State.raiseHorizon (s : State) (tile : Nat) (t : Time) : State :=
  let x := s.tile tile
  s.setTile tile { x with horizon := serialMax x.horizon t }
def State.raiseHorizonW (s : State) (tile : Nat) (w : Word) : State :=
  match contributes (s.tile tile).horizon w with
  | some t => s.raiseHorizon tile t
  | none => s
/-- A home's clock rises to a time (R300). -/
def State.raiseClock (s : State) (h : Nat) (t : Time) : State := { s with clocks := mset 0 s.clocks h (serialMax (s.clock h) t) }
/-- A time is within the device's ceiling (R300). -/
def State.underCeiling (s : State) (t : Time) : Bool := serialLe t s.ceiling

/-! Memory of newest bytes. -/
def readByte (m : Memory) (k : Nat) : Byte := mget 0 m k
def writeByte (m : Memory) (k : Nat) (b : Byte) : Memory := mset 0 m k b
def readBytes (m : Memory) (k : Nat) : Nat → List Byte
  | 0 => []
  | n + 1 => readByte m k :: readBytes m (k + 1) n
def writeBytes (m : Memory) (k : Nat) : List Byte → Memory
  | [] => m
  | b :: r => writeBytes (writeByte m k b) (k + 1) r
def writeCells (m : Memory) (l : List Host.Cell) : Memory := l.foldl (fun m c => writeByte m c.1 c.2) m
def readNat (m : Memory) (k n : Nat) : Nat := leNat (readBytes m k n)
def readWord (m : Memory) (k : Nat) : Word := BitVec.ofNat 64 (readNat m k 8)
def writeWord (m : Memory) (k : Nat) (w : Word) : Memory := writeBytes m k (leBytes 8 w.toNat)
def cellsOf (k : Nat) : List Byte → List Host.Cell
  | [] => []
  | b :: r => (k, b) :: cellsOf (k + 1) r
/-- Clears the listed bytes of a range. -/
def eraseRange (m : Memory) (lo n : Nat) : Memory := m.filter (fun e => e.1 < lo || lo + n ≤ e.1)

/-! Keys: where a byte of each backing lies in the memory, and its line. -/
def scratchKey (tile off : Nat) : Nat := 2 ^ 52 + tile * 2 ^ 22 + off
def cisternKey (cluster off : Nat) : Nat := 2 ^ 53 + cluster * 2 ^ 26 + off
def lineOf (key : Nat) : Nat := key / 128

/-- A row of DRAM (R295): cluster, pseudo-channel, bank, row, byte column. -/
structure Place where
  cluster : Nat
  pc : Nat
  bank : Nat
  row : Nat
  col : Nat
  deriving DecidableEq, Repr
def bankNo (c p b : Nat) : Nat := (c * 384 + p) * 16 + b
def Place.bankId (p : Place) : Nat := bankNo p.cluster p.pc p.bank
/-- The subarray a row lies in, numbered bank * 32 + a, and the data row within it (R1). -/
def Place.sub (p : Place) : Nat := p.bankId * 32 + p.row / 512
def Place.dataRow (p : Place) : Nat := p.row % 512
def fold3 : Nat → Nat → Nat
  | 0, _ => 0
  | n + 1, x => Nat.xor (x % 8) (fold3 n (x / 8))
/-- An interleave region's fields (R293). -/
structure Region' where
  mode : Nat
  base : Nat
  size : Nat
  cluster : Nat
  pcFirst : Nat
  off : Nat
  psz : Nat
  deriving DecidableEq, Repr
def regionOf (r : Word × Word) : Option Region' :=
  if bitsAt r.1 0 1 = 1 then
    some ⟨bitsAt r.1 1 3, bitsAt r.1 8 19, bitsAt r.1 28 19, bitsAt r.2 0 3, bitsAt r.2 8 9, bitsAt r.2 17 7, bitsAt r.2 24 8⟩
  else none
/-- Where an offset o of a region lies (R295). -/
def Region'.place (r : Region') (o : Nat) : Place :=
  let P := r.psz * 2 ^ 21
  if r.mode = 0 then
    let w := r.off * 2 ^ 21 + o % P
    ⟨r.cluster, r.pcFirst + o / P, w / 2 ^ 24 % 16, w / 2 ^ 10 % 2 ^ 14, w % 1024⟩
  else
    let g := o / 512; let Q := P / 512
    let hashed := r.mode = 2 || r.mode = 4
    let c := if hashed then Nat.xor (g % 8) (fold3 22 (g / 8)) else r.cluster
    let g := if hashed then g / 8 else g
    let lin := r.mode = 1 || r.mode = 2
    let q := if lin then g % Q else g / 384
    let p := if lin then g / Q else (g % 384 + q % 384) % 384
    let sb := r.off * 4096 + q
    ⟨c, p, Nat.xor (sb % 16) (sb / 32 % 16), sb / 32 % 2 ^ 14, sb / 16 % 2 * 512 + o % 512⟩
def findRegion (pa : Nat) : NMap (Word × Word) → Option (Region' × Nat)
  | [] => none
  | (_, w) :: rest =>
    match regionOf w with
    | some r => if r.base * 2 ^ 21 ≤ pa && pa < (r.base + r.size) * 2 ^ 21 then some (r, pa - r.base * 2 ^ 21) else findRegion pa rest
    | none => findRegion pa rest
/-- A bank remap entry (R438): STATE, the retired bank, its reserve, how many superblocks have moved. -/
def brState (w : Word) : Nat := bitsAt w 0 2
def brFrom (w : Word) : Nat := bitsAt w 2 9 * 16 + bitsAt w 11 4
def brMoved (w : Word) : Nat := bitsAt w 32 16
/-- The superblocks of a bank, in ascending order. -/
def Place.superblock (p : Place) : Nat := p.row * 2 + p.col / 512
/-- The bank remap of a cluster applied to a place: a superblock already moved lies in the reserve bank (R438). -/
def remapPlace (c : Cluster) (p : Place) : Place :=
  match c.remap.find? (fun e => brState e.2 != 0 && brFrom e.2 == p.pc * 16 + p.bank) with
  | some e => if brState e.2 = 2 || p.superblock < brMoved e.2 then { p with pc := bitsAt e.2 15 9, bank := bitsAt e.2 24 4 } else p
  | none => p
/-- The place of a DRAM address by the map of the cluster where the request is issued (R294, R295). -/
def State.placeBy (s : State) (cluster pa : Nat) : Option Place :=
  if Config.dramBytes ≤ pa then none
  else (findRegion pa (s.cluster cluster).il).map (fun r =>
    let p := r.1.place r.2
    remapPlace (s.cluster p.cluster) p)

/-! Memory, error marks and lines are kept by DRAM place: under the physical address that cluster 0's map gives the place, or, where that map does not
cover it, under a number of its own below the host's window (log entry 15). -/
/-- The offset of a region that lies at a place: `Region'.place` read backwards (R295). -/
def Region'.offsetAt (r : Region') (p : Place) : Option Nat :=
  let P := r.psz * 2 ^ 21
  if r.mode = 0 then
    let w := p.bank * 2 ^ 24 + p.row * 1024 + p.col
    let o := (p.pc - r.pcFirst) * P + (w - r.off * 2 ^ 21)
    if p.cluster = r.cluster && r.pcFirst ≤ p.pc && r.off * 2 ^ 21 ≤ w && w < r.off * 2 ^ 21 + P && o < r.size * 2 ^ 21 then some o else none
  else
    let Q := P / 512
    let sb := p.row * 32 + p.col / 512 * 16 + Nat.xor p.bank (p.row % 16)
    let q := sb - r.off * 4096
    let g := if r.mode = 1 || r.mode = 2 then p.pc * Q + q else q * 384 + (p.pc + 384 - q % 384) % 384
    let hashed := r.mode = 2 || r.mode = 4
    let o := (if hashed then g * 8 + Nat.xor p.cluster (fold3 22 g) else g) * 512 + p.col % 512
    if (hashed || p.cluster = r.cluster) && r.off * 4096 ≤ sb && q < Q && o < r.size * 2 ^ 21 then some o else none
/-- The address that a map gives a place. -/
def addressAt (p : Place) : NMap (Word × Word) → Option Nat
  | [] => none
  | (_, w) :: rest =>
    match (regionOf w).bind (fun r => (r.offsetAt p).map (r.base * 2 ^ 21 + ·)) with
    | some a => some a
    | none => addressAt p rest
/-- The number of a place outside the map, and the place it stands for. -/
def unmappedKey (p : Place) : Nat := 2 ^ 49 + p.bankId * 2 ^ 24 + p.row * 1024 + p.col
def unmappedPlace (k : Nat) : Place :=
  let b := (k - 2 ^ 49) / 2 ^ 24
  ⟨b / 6144, b / 16 % 384, b % 16, k / 1024 % 2 ^ 14, k % 1024⟩
/-- The key of a place. -/
def State.placeKey (s : State) (p : Place) : Nat := (addressAt p (s.cluster 0).il).getD (unmappedKey p)
/-- The key of the byte that a cluster's map gives an address; none in no valid region (R296). -/
def State.keyOf (s : State) (cluster pa : Nat) : Option Nat :=
  if Config.dramBytes ≤ pa then none
  else (findRegion pa (s.cluster cluster).il).map (fun r =>
    if (s.cluster cluster).il = (s.cluster 0).il then pa else s.placeKey (r.1.place r.2))
/-- The place of a key. -/
def State.place (s : State) (key : Nat) : Option Place :=
  if 2 ^ 49 ≤ key && key < 2 ^ 50 then some (remapPlace (s.cluster (unmappedPlace key).cluster) (unmappedPlace key)) else s.placeBy 0 key

/-! Homes: 0 to 7 the slices, 8 to 71 the scratchpads, 72 to 79 the cisterns (R300). -/
def homeOf (s : State) (key : Nat) : Option Nat :=
  if 2 ^ 53 ≤ key then some (72 + (key - 2 ^ 53) / 2 ^ 26)
  else if 2 ^ 52 ≤ key then some (8 + (key - 2 ^ 52) / 2 ^ 22)
  else (s.place key).map (·.cluster)
def isSlice (h : Nat) : Bool := h < 8
def homeCluster (h : Nat) : Nat := if h < 8 then h else if h < 72 then (h - 8) / 8 else h - 72

/-- 2^58 behind a reference, and what the lease sweep re-times (R303). -/
def sweepSpan : Time := BitVec.ofNat 62 (2 ^ 58)
def lagging (r t : Time) : Bool := 2 ^ 58 < (r - t).toNat && (r - t).toNat < 2 ^ 61
/-- The version's wts as the home keeps it (R281): a line a slice does not hold is timed by mts; a line of a home with one clock, written or
not, as the sweep keeps it (R303). -/
def State.wts (s : State) (h l : Nat) : Time :=
  let x := s.line l
  if isSlice h then (if x.held then x.wts else (s.cluster h).mts)
  else if lagging (s.clock h) x.wts then s.clock h - sweepSpan else x.wts
/-- The rts a store must pass (R281). -/
def State.rts (s : State) (h l : Nat) : Time :=
  let x := s.line l
  if isSlice h then (if x.held then x.rts else (s.cluster h).mts) else s.clock h

/-- The superblock of a line; its set in the slice is its number mod 16,384 (DESIGN CHOICE, log entry 11; R290). -/
def superblock (l : Nat) : Nat := l / 4
/-- 1,500 cycles are a microsecond (R300, R370). -/
def microsecond : Nat := 1500

/-! The error log (R435). -/
/-- A log record (R435): CYCLE; CLASS, ACTION, UNIT and WHERE; ADDR; INFO. -/
def logWords (cycle cls action unit whereW addr info : Nat) : List Word :=
  [BitVec.ofNat 64 cycle, BitVec.ofNat 64 (cls + action * 256 + unit % 65536 * 65536 + whereW % 2 ^ 32 * 2 ^ 32), BitVec.ofNat 64 addr,
   BitVec.ofNat 64 info]
def recordClass (r : List Word) : Nat := bitsAt (r[1]?.getD 0) 0 8
/-- The first record of class 1, 4 or 9 goes. -/
def dropRecord : List (List Word) → List (List Word)
  | [] => []
  | r :: l => if recordClass r = 1 || recordClass r = 4 || recordClass r = 9 then l else r :: dropRecord l
/-- Appends a record to a cluster's log, which holds 4,096; a full one drops its oldest record of class 1, 4 or 9 (R435). -/
def Cluster.addRecord (k : Cluster) (r : List Word) : Cluster :=
  if k.log.length < 4096 then { k with log := k.log ++ [r], logged := k.logged + 1 }
  else
    let l := dropRecord k.log
    { k with log := if l.length < 4096 then l ++ [r] else l, logged := k.logged + 1, dropped := k.dropped + 1 }
def State.logRecord (s : State) (c : Nat) (cls action unit whereW addr info : Nat) : State :=
  s.setCluster c ((s.cluster c).addRecord (logWords s.cycle cls action (c * 8192 + unit % 8192) whereW addr info))
/-- WHERE of a bank row. -/
def logWhere (p : Place) : Nat := p.bank + p.row / 512 * 16 + p.row % 512 * 512
/-- UNIT below its cluster bits: a tile, or a pseudo-channel. -/
def logTile (tile : Nat) : Nat := tile * 128
/-- The bank of a scratchpad that a byte lies in (R278); an error mark is a line's and counts for the bank of its first word (log entry 72). -/
def scratchBank (off : Nat) : Nat := (bitsAt (BitVec.ofNat 64 off) 8 6 + bitsAt (BitVec.ofNat 64 off) 2 6) % 64
/-- UNIT of a line of a scratchpad or a cistern: the tile and 1 + the bank, or the cluster alone (log entry 72). -/
def logSram (key : Nat) : Nat := if key < 2 ^ 53 then logTile ((key - 2 ^ 52) / 2 ^ 22) + scratchBank ((key - 2 ^ 52) % 2 ^ 22) + 1 else 0
def logPc (pc : Nat) : Nat := pc / 8 % 64 * 128 + pc % 8

/-! Activation counters (R427, R428). -/
def State.counter (s : State) (bank row : Nat) : Nat := mget 0 s.counters (bank * 16384 + row)
def State.setCounter (s : State) (bank row n : Nat) : State := { s with counters := mset 0 s.counters (bank * 16384 + row) n }
def clusterOfBank (b : Nat) : Nat := b / 6144
/-- An alert of a row, where none of it waits. -/
def State.alert (s : State) (bank row : Nat) : State :=
  let b := s.bank bank
  if b.alerts.contains row then s else s.setBank bank { b with alerts := b.alerts ++ [row] }
/-- The code of a row's counter (R429). -/
def State.codeOf (s : State) (bank row : Nat) : CodeErr := mget CodeErr.ok s.counterErr (bank * 16384 + row)
def State.setCode (s : State) (bank row : Nat) (c : CodeErr) : State := { s with counterErr := mset CodeErr.ok s.counterErr (bank * 16384 + row) c }
/-- The log record of an error in a counter's code: class 8, INFO 1 where it cannot be corrected (R429, R435; log entry 72). -/
def State.logCode (s : State) (bank row : Nat) : State :=
  s.logRecord (clusterOfBank bank) 8 0 (logPc (bank / 16 % 384)) (bank % 16 + row / 512 * 16 + row % 512 * 512) 0
    (if s.codeOf bank row = .uncorrectable then 1 else 0)
/-- One activation of a data row counts, with an alert where that reaches MTH (R428). -/
def State.count (s : State) (bank row : Nat) : State :=
  let n := Nat.min 65535 (s.counter bank row + 1)
  let s := s.setCounter bank row n
  if (s.cluster (clusterOfBank bank)).mth ≤ n then s.alert bank row else s
/-- One activation of a data row, with what it finds in the counter's code: a correctable error is corrected, an uncorrectable one sets the counter to
MTH and raises an alert (R429). -/
def State.activate (s : State) (bank row : Nat) : State :=
  match s.codeOf bank row with
  | .ok => s.count bank row
  | .correctable => ((s.logCode bank row).setCode bank row .ok).count bank row
  | .uncorrectable =>
    (((s.logCode bank row).setCode bank row .ok).setCounter bank row (s.cluster (clusterOfBank bank)).mth).alert bank row
/-- The activation of the row a line of DRAM lies in. -/
def State.activateLine (s : State) (l : Nat) : State :=
  match s.place (l * 128) with
  | some p => s.activate p.bankId p.row
  | none => s

/-- The check byte of word k of a line as its row holds it: the code of the word; under poison that xor 0xE7; with a correctable error of one of its bits,
that bit inverted (R430). -/
def checkByte (m : ErrMark) (k : Nat) (w : BitVec 64) : BitVec 8 :=
  match m with
  | .poisoned => Config.secDed w ^^^ 0xE7
  | .correctable bits => bits.foldl (fun c i => if 72 * k + 64 ≤ i && i < 72 * k + 72 then c ^^^ BitVec.ofNat 8 (2 ^ (i % 72 - 64)) else c) (Config.secDed w)
  | _ => Config.secDed w
def State.errOf (s : State) (l : Nat) : ErrMark := mget ErrMark.ok s.err l
def State.setErr (s : State) (l : Nat) (m : ErrMark) : State := { s with err := mset ErrMark.ok s.err l m }
/-- A home's clock rises to a time its device may give out already, else as far as the ceiling (R300). -/
def State.raiseClockTo (s : State) (h : Nat) (t : Time) : State := s.raiseClock h (if s.underCeiling t then t else s.ceiling)
/-! Packets (R302): between clusters, a packet raises the receiving home's clock to the sending tile's HORIZON, and its answer raises
the tile's HORIZON to the home's clock. -/
def State.packetTo (s : State) (tile h : Nat) : State :=
  if clusterOfTile tile = homeCluster h then s else s.raiseClockTo h (s.tile tile).horizon
def State.packetBack (s : State) (tile h : Nat) : State :=
  if clusterOfTile tile = homeCluster h then s else s.raiseHorizon tile (s.clock h)
/-- An op computes in a bank (R252, R322). -/
def State.computing (s : State) (bank : Nat) : Bool :=
  (s.cluster (clusterOfBank bank)).ops.any (fun o => (o.state == .running || o.state == .encoding) && o.launch.subs.any (fun a => a.1 / 32 == bank))
/-- A bank that does not serve a request as it comes: it computes, owes refreshes, has an alert pending, or has older requests waiting
(R323 to R325, R426). -/
def State.bankEngaged (s : State) (bank : Nat) : Bool :=
  let b := s.bank bank
  s.computing bank || b.debt != 0 || b.backoff || !b.queue.isEmpty
/-- Queues a request at a line's bank, once. -/
def State.askDram (s : State) (l : Nat) (what : DramWhat) : State :=
  match s.place (l * 128) with
  | none => s
  | some p =>
    let b := s.bank p.bankId
    if b.queue.any (fun q => q.what == what && q.line == l) then s else s.setBank p.bankId { b with queue := b.queue ++ [⟨p.row, l, what⟩] }
/-- The write-back of a line: at once, or as a request of an engaged bank (R323). -/
def State.writeBack (s : State) (l : Nat) : State :=
  if (s.place (l * 128)).any (fun p => s.bankEngaged p.bankId) then s.askDram l .other else s.activateLine l
/-- Logs an error of a line of DRAM: INFO is its syndrome (R435). -/
def State.logLine (s : State) (cls line : Nat) : State :=
  match s.place (line * 128) with
  | some p => s.logRecord p.cluster cls 0 (logPc p.pc) (logWhere p) (line * 128) (if cls = 3 then 0 else Config.syndrome line s.cycle)
  | none => s
/-- The slice finds an uncorrectable error in its copy of a line (R292): a record of class 5; a dirty line goes back to DRAM poisoned, one of class 3. -/
def State.sliceError (s : State) (c l : Nat) (dirty : Bool) : State :=
  let s := s.logRecord c 5 0 0 0 (l * 128) 0
  if dirty then (s.setErr l .poisoned).logLine 3 l else s
/-- The lines of a superblock leave the slice: mts takes each rts (R282) and the clock with it (R300); a dirty line is written back, poisoned
where the slice's copy has an uncorrectable error (R292). -/
def State.evictLines (s : State) (c : Nat) : List Nat → State
  | [] => s
  | l :: r =>
    let x := s.line l
    let k := s.cluster c
    if x.held then
      let m := serialMax k.mts x.rts
      let s := ((s.setCluster c { k with mts := m }).raiseClockTo c m).setLine l LineT.none
      let s := if x.bad then s.sliceError c l x.dirty else s
      (if x.dirty then s.writeBack l else s).evictLines c r
    else s.evictLines c r
def State.evict (s : State) (c sb : Nat) : State :=
  let t := s.evictLines c [4 * sb, 4 * sb + 1, 4 * sb + 2, 4 * sb + 3]
  let k := t.cluster c
  t.setCluster c { k with lru := k.lru.filter (· != sb) }
/-- A superblock becomes the most recently used; its set keeps at most 12 (R290). -/
def State.touch (s : State) (c sb : Nat) : State :=
  let k := s.cluster c
  let lru := k.lru.filter (· != sb)
  let set := lru.filter (fun x => x % 16384 == sb % 16384)
  let s := if 12 ≤ set.length then (match set with | v :: _ => s.evict c v | [] => s) else s
  let k := s.cluster c
  s.setCluster c { k with lru := k.lru.filter (· != sb) ++ [sb] }

/-- The code of R291 for one word: prefix and payload bits; the shortest, a tie to the lower prefix. -/
def wordCodeBits (w : Nat) : Nat :=
  let s := fun n => (w < 2 ^ (n - 1)) || (2 ^ 32 - 2 ^ (n - 1) ≤ w)
  if s 4 then 7 else if s 8 then 11
  else if w = (w % 256) * 0x01010101 then 11
  else if s 16 || w % 65536 = 0 then 19
  else
    let b := w % 65536
    let h := w / 65536
    let sb := fun x => x < 128 || 65536 - 128 ≤ x
    if sb h && b = (if b % 256 < 128 then b % 256 else 65536 - 256 + b % 256) then 19 else 35
def lineCodeBits : Nat → List Nat → Nat
  | _, [] => 0
  | z, w :: r =>
    if w = 0 then (if z = 0 then 6 + lineCodeBits 7 r else lineCodeBits (z - 1) r)
    else wordCodeBits w + lineCodeBits 0 r
/-- The segments a compressed line takes (R291). -/
def lineSegs (m : Memory) (l : Nat) : Nat :=
  let words := (List.range 32).map (fun i => readNat m (l * 128 + 4 * i) 4)
  let bits := lineCodeBits 0 words
  if 1024 < bits then 8 else (bits + 127) / 128
/-- Data segments in use in a slice (R290: 48 MiB of 16-byte segments). -/
def State.segsUsed (s : State) (c : Nat) : Nat :=
  (s.cluster c).lru.foldl (fun a sb => [0, 1, 2, 3].foldl (fun a i => let x := s.line (4 * sb + i); if x.held then a + x.segs else a) a) 0
def sliceSegs : Nat := 3145728
/-- Evicts least recently used superblocks until the segments fit (R290). -/
def State.fitSegs (s : State) (c keep : Nat) : Nat → State
  | 0 => s
  | n + 1 =>
    if s.segsUsed c ≤ sliceSegs then s
    else match (s.cluster c).lru.find? (· != keep) with
      | some v => (s.evict c v).fitSegs c keep n
      | none => s
/-- The slice comes to hold a line, from DRAM when it did not: wts = rts = mts (R281 step 3). -/
def State.fillLine (s : State) (c l : Nat) (compress : Bool) : State :=
  let s := s.touch c (superblock l)
  let x := s.line l
  if x.held then s
  else
    let m := (s.cluster c).mts
    (s.setLine l ⟨true, false, false, if compress then lineSegs s.mem l else 8, m, m⟩).fitSegs c (superblock l) ((s.cluster c).lru.length + 1)
/-- A NOCACHE access drops the held line, folding its rts into mts (R289); a superblock of which nothing is left gives its tag back. -/
def State.dropLine (s : State) (c l : Nat) : State :=
  let s := s.evictLines c [l]
  let k := s.cluster c
  if [0, 1, 2, 3].any (fun i => (s.line (4 * superblock l + i)).held) then s
  else s.setCluster c { k with lru := k.lru.filter (· != superblock l) }
/-- An access meets an error of a line of a scratchpad or a cistern: a correctable one is corrected; both are logged (R435). -/
def State.scrubSram (s : State) (l : Nat) : State :=
  let c := homeCluster ((homeOf s (l * 128)).getD 0)
  match s.errOf l with
  | .correctable _ => (s.setErr l .ok).logRecord c 4 0 (logSram (l * 128)) 0 0 0
  | .uncorrectable => s.logRecord c 5 0 (logSram (l * 128)) 0 0 0
  | _ => s
/-- An access meets an error in what its home keeps of a line in SRAM: an uncorrectable one in the slice (R292) drops a clean line, to be filled again
from DRAM, and sends a dirty one back to DRAM poisoned. -/
def State.scrubHeld (s : State) (h l : Nat) : State :=
  if isSlice h then (if (s.line l).held && (s.line l).bad then s.dropLine h l else s) else s.scrubSram l

/-- What serving a load gives (R281 step 1): the state, the wts of the newest version, and the lease end. -/
structure Served where
  st : State
  wts : Time
  rts : Time
/-- Serves a load of a line with bound b at its home; `lease` is the Δ taken, none without one. -/
def State.serveLoad (s : State) (h l : Nat) (b : Time) (lease : Option Nat) (nocache compress : Bool) : Served :=
  let upTo : Time := match lease with | some d => b + BitVec.ofNat 62 d | none => b
  if isSlice h then
    if nocache then
      let s := s.dropLine h l
      let k := s.cluster h
      let w := k.mts
      let s := s.setCluster h { k with mts := serialMax k.mts b }
      ⟨s.raiseClockTo h (s.cluster h).mts, w, serialMax k.mts b⟩
    else
      let s := s.fillLine h l compress
      let x := s.line l
      let r := serialMax x.rts upTo
      ⟨(s.setLine l { x with rts := r }).raiseClockTo h (serialMax b x.wts), x.wts, r⟩
  else ⟨s.raiseClockTo h b, s.wts h l, serialMax (s.clock h) b⟩
/-- The rts a NOCACHE write must pass: mts, with a held line's rts folded into it (R281, R289). -/
def State.rtsVia (s : State) (h l : Nat) (nocache : Bool) : Time :=
  if nocache && isSlice h then serialMax (s.cluster h).mts (s.rts h l) else s.rts h l
/-- The time a write takes (R281 step 2). -/
def State.storeTime (s : State) (h l : Nat) (w floor : Option Time) (nocache : Bool := false) : Time :=
  let m := match floor with | some f => serialMax (s.rtsVia h l nocache) f | none => s.rtsVia h l nocache
  1 + (match w with | some x => serialMax m x | none => m)
/-- A new version of a line wakes the host queues whose monitors watch it (R354). -/
def State.wakeQueues (s : State) (l : Nat) : State :=
  { s with agenda := s.agenda ++ (s.hostQ.filter (fun e => e.2.armed == some l)).map (fun e => Instr.queueHeadWake e.1),
           hostQ := s.hostQ.map (fun e => if e.2.armed = some l then (e.1, { e.2 with armed := none }) else e) }
/-- It wakes the MWAITs armed on the line too: none is left of the version they saw (R191). -/
def State.wakeLoads (s : State) (l : Nat) : State :=
  { s with loads := s.loads.map (fun x => if x.stage == .armed && x.parts.any (fun p => lineOf p.key == l) then { x with armedAt := none } else x) }
/-- Performs a write of bytes within one line at time t as one version (R281, R304). A write leaves the line's error mark as a
correctable one leaves it: gone (R292, R430). -/
def State.perform (s : State) (h l : Nat) (cells : List Host.Cell) (t : Time) (nocache compress : Bool) : State :=
  let s := if isSlice h then (if nocache then s.dropLine h l else s.fillLine h l compress) else s
  let s := { s with mem := writeCells s.mem cells }
  let s := if isSlice h then
      (if nocache then (let k := s.cluster h; s.setCluster h { k with mts := serialMax k.mts t })
       else (s.setLine l ⟨true, true, false, if compress then lineSegs s.mem l else 8, t, t⟩).fitSegs h (superblock l) ((s.cluster h).lru.length + 1))
    else s.setLine l { s.line l with wts := t, rts := t }
  ((s.raiseClock h t).wakeQueues l).wakeLoads l

/-! Copies in L1 and RDC (R283 to R287, R308). -/
def findCopy (l : Nat) (cs : List Copy) : Option Copy := cs.find? (·.line == l)
def dropCopy (l : Nat) (cs : List Copy) : List Copy := cs.filter (·.line != l)
/-- Installs a copy as the most recently used; its set keeps `ways` (set = line mod sets: DESIGN CHOICE, log entry 11). -/
def putCopy (sets ways : Nat) (c : Copy) (cs : List Copy) : List Copy :=
  let cs := dropCopy c.line cs
  let set := cs.filter (fun x => x.line % sets == c.line % sets)
  let cs := if ways ≤ set.length then (match set with | v :: _ => dropCopy v.line cs | [] => cs) else cs
  cs ++ [c]
def putL1 : Copy → List Copy → List Copy := putCopy 1024 8
def putRdc : Copy → List Copy → List Copy := putCopy 8192 16
/-- Drops a copy with a wts serially older than a version returned to the tile (R308). -/
def dropOlder (l : Nat) (w : Time) (cs : List Copy) : List Copy := cs.filter (fun c => c.line != l || serialLe w c.wts)
/-- An answer on its way to the tile that a version already returned has overtaken: the request goes to its home again (R308). -/
def LoadReq.overtaken (x : LoadReq) (l : Nat) (w : Time) : LoadReq :=
  match x.answer with
  | some c => if c.line = l && serialGt w c.wts && (x.stage == .toL1 || x.stage == .toRdc) then { x with answer := none, stage := .atHome } else x
  | none => x
/-- A version reaches a tile: older copies go from its L1 and its cluster's RDC (R308), older answers on their way to it count for nothing, and those on
their way to other tiles of the cluster are not kept there. -/
def State.dropOlderAt (s : State) (tile l : Nat) (w : Time) : State :=
  let t := s.tile tile
  let s := s.setTile tile { t with l1 := dropOlder l w t.l1 }
  let k := s.cluster (clusterOfTile tile)
  let s := s.setCluster (clusterOfTile tile) { k with rdc := dropOlder l w k.rdc }
  { s with loads := s.loads.map (fun x =>
      if s.tileOf x.tid = tile then x.overtaken l w
      else if clusterOfTile (s.tileOf x.tid) = clusterOfTile tile && x.answer.any (fun c => c.line == l && serialGt w c.wts) then { x with toRdc := false } else x) }
/-- A store from a tile drops the tile's copy and, on its way to another cluster, the RDC's; the answers of requests for the line now on
their way install nothing there (R285). -/
def State.storeDrops (s : State) (tile l : Nat) : State :=
  let t := s.tile tile
  let s := s.setTile tile { t with l1 := dropCopy l t.l1 }
  let k := s.cluster (clusterOfTile tile)
  let s := s.setCluster (clusterOfTile tile) { k with rdc := dropCopy l k.rdc }
  { s with loads := s.loads.map (fun x =>
      if x.parts.any (fun p => lineOf p.key == l) then
        { x with toL1 := x.toL1 && s.tileOf x.tid != tile, toRdc := x.toRdc && clusterOfTile (s.tileOf x.tid) != clusterOfTile tile }
      else x) }

/-! Row locks (R243 to R246, R310). -/
def RowRun.has (r : RowRun) (sub row : Nat) : Bool := r.sub == sub && r.row ≤ row && row < r.row + r.count
def Lock.covers (l : Lock) (sub row : Nat) : Bool := l.runs.any (fun r => r.has sub row)
/-- An op of an owner that has been accepted and whose encode pass has not ended reaches a row (R245, R310). -/
def FieldOp.reaches (o : FieldOp) (sub row : Nat) (write : Bool) : Bool :=
  (o.state != .done) && o.launch.subs.any (fun e => e.1 == sub) &&
    (o.launch.writes.contains row || (write && o.launch.reads.contains row))
/-- An access by a party to a row waits at the home (R245, R310). `who` none is a party that holds no locks. -/
def State.rowBlocked (s : State) (who : Option Nat) (p : Place) (write : Bool) : Bool :=
  let c := s.cluster p.cluster
  let sub := p.sub; let row := p.dataRow
  c.locks.any (fun l => some l.owner != who && l.covers sub row && (l.write || write)) ||
  (match who with
   | some t => c.ops.any (fun o => o.owner == t && o.reaches sub row write)
   | none => false)
def State.keyBlocked (s : State) (who : Option Nat) (key : Nat) (write : Bool) : Bool :=
  if 2 ^ 52 ≤ key then false
  else match s.place key with
    | some p => s.rowBlocked who p write
    | none => false
/-- A holder of a lock that keeps an access waiting (R390). -/
def State.rowHolder (s : State) (who : Option Nat) (p : Place) (write : Bool) : Option Nat :=
  ((s.cluster p.cluster).locks.find? (fun l => some l.owner != who && l.covers p.sub p.dataRow && (l.write || write))).map (·.owner)

/-! Lines the host holds (R412). -/
/-- The host holds the line in a state that this access must first take back (R412). -/
def State.snoopBlocks (s : State) (l : Nat) (write : Bool) : Bool :=
  l * 128 < Config.dramBytes && (List.range 8).any (fun c => (s.cluster c).snoop.any (fun e => e.1 == l && (e.2 || write)))
/-- Sends the BISnp for it, once: BISnpCur for a load of a line held exclusive, else BISnpInv. -/
def State.askSnoop (s : State) (l : Nat) (write : Bool) : State :=
  match homeOf s (l * 128) with
  | none => s
  | some h =>
    let k := s.cluster h
    if k.bisnp.any (·.1 == l) then s
    else { s.setCluster h { k with bisnp := k.bisnp ++ [(l, !write)] } with out := s.out ++ [.backInvalidate l (!write)] }
/-- One of the lines must first be taken back from the host: the state that has asked for it. -/
def State.snoopWait (s : State) (lines : List Nat) (write : Bool) : Option State :=
  (lines.find? (fun l => s.snoopBlocks l write)).map (fun l => s.askSnoop l write)

/-! What an access waits for at its home. -/
/-- Row locks (R245), then the snoop filter (R412): `none` where the access may be served. -/
def State.gate (s : State) (who : Option Nat) (key : Nat) (write : Bool) : Option State :=
  if s.keyBlocked who key write then some s
  else if s.snoopBlocks (lineOf key) write then some (s.askSnoop (lineOf key) write)
  else none
def State.gateAll (s : State) (who : Option Nat) (write : Bool) : List Nat → Option State
  | [] => none
  | k :: r => match s.gate who k write with
    | some t => some t
    | none => s.gateAll who write r
def nocacheRoute (r : Route) : Bool := r == .nocache
/-- The access goes to DRAM: the slice does not hold the line, or the page is NOCACHE. -/
def State.needsDram (s : State) (h l : Nat) (route : Route) : Bool := isSlice h && (nocacheRoute route || !(s.line l).held)
/-- An access by an engine, the front end or the host that must first stand in the queue of an engaged bank (R323). -/
def State.dramHolds (s : State) (route : Route) (l : Nat) : Bool :=
  (homeOf s (l * 128)).any (fun h => s.needsDram h l route) && !s.opened.contains l && (s.place (l * 128)).any (fun p => s.bankEngaged p.bankId)
def State.dramWait (s : State) (route : Route) (lines : List Nat) : Option State :=
  (lines.find? (s.dramHolds route)).map (fun l => s.askDram l .engine)
/-- Such an access reaches DRAM: an activation of its row, unless its request has been served already. -/
def State.openLine (s : State) (l : Nat) : State :=
  if s.opened.contains l then { s with opened := s.opened.filter (· != l) } else s.activateLine l
/-- Some of the lines has a version that its home may not give out yet: mts may stand, by an evicted line's lease, beyond the ceiling (R282, R300). -/
def State.unripe (s : State) (lines : List Nat) : Bool :=
  lines.any (fun l => (homeOf s (l * 128)).any (fun h => !s.underCeiling (s.wts h l)))
/-- All that an engine's access to lines waits for; a held line with an uncorrectable error goes from its slice first (R292). -/
def State.engineGate (s : State) (who : Option Nat) (write : Bool) (route : Route) (keys : List Nat) : Option State :=
  match s.gateAll who write keys with
  | some t => some t
  | none => match (keys.map lineOf).find? (fun l => (s.line l).held && (s.line l).bad) with
    | some l => (homeOf s (l * 128)).map (fun h => s.scrubHeld h l)
    | none => if !write && s.unripe (keys.map lineOf) then some s else s.dramWait route (keys.map lineOf)

/-! Errors met by a read (R431). -/
/-- A read of a line of DRAM: correctable errors are corrected and rewritten. -/
def State.correctLine (s : State) (line : Nat) : State :=
  match s.errOf line with
  | .correctable _ => (s.setErr line .ok).logLine 1 line
  | _ => s
/-- An access other than a load meets an uncorrectable error of a line of DRAM: it is logged (R431). -/
def State.meetBad (s : State) (line : Nat) : State := if s.errOf line = .uncorrectable then s.logLine 2 line else s
/-- An uncorrectable line of DRAM is written poisoned, so that every later reader meets POISON. -/
def State.poisonLine (s : State) (line : Nat) : State :=
  if s.errOf line = .uncorrectable && (s.place (line * 128)).isSome then ((s.setErr line .poisoned).logLine 2 line).logLine 3 line else s
/-! Scratchpad and cistern allocations (R275 to R280). -/
def State.alloc (s : State) (id : Nat) : Option Alloc := s.allocs.find? (·.id == id)
def State.cisternAt (s : State) (c off n : Nat) : Option Cistern :=
  s.cisterns.find? (fun a => a.cluster == c && a.base * 65536 ≤ off && off + n ≤ (a.base + a.size) * 65536)

/-- The thread's team, by the allocation its TEAM CSR names (R120). -/
def State.teamOf (s : State) (t : Thread) : Option Team := s.teams.find? (·.id == t.team)
/-- The address space a team was started in, to which its charges and its region belong (R370); `other` where there is no such team. -/
def State.teamAsid (s : State) (team : Nat) (other : BitVec 12) : BitVec 12 := ((s.teams.find? (·.id == team)).map (·.asid)).getD other
def teamOfParty (p : Nat) : Nat := p / 8192
def State.setTeam (s : State) (x : Team) : State :=
  { s with teams := s.teams.map (fun y => if y.id == x.id then x else y) }

/-- Lane groups of a grant (R35). -/
def countBits : Nat → Nat → Nat
  | 0, _ => 0
  | n + 1, x => x % 2 + countBits n (x / 2)
def groupsOf (m : BitVec 16) : Nat := countBits 16 m.toNat
def groupList (m : BitVec 16) : List Nat := (List.range 16).filter (fun i => m.getLsbD i)
def groupMask (l : List Nat) : BitVec 16 := l.foldl (fun a i => a ||| BitVec.ofNat 16 (2 ^ i)) 0
def Thread.groups (t : Thread) : Nat := groupsOf t.lanes
/-- VLMAX = 256 x C (R35). -/
def Thread.vlmax (t : Thread) : Nat := 256 * t.groups

end Sys2Proof.Machine
end

