-- ==== Sys2Proof/Machine/Translate.lean ====
section
/-! DEFINITION. Pointers and windows (R131 to R134, R168, R274), page tables and TLBs (R375 to R382), the physical windows
(R406), and the address checks every access makes (R169, R280, R296, R380). -/
namespace Sys2Proof.Machine

/-- The space a valid pointer names, with its id: the thread, the cluster or the allocation (R131). -/
inductive PSpace where
  | global | priv (tid : Nat) | scratch (id : Nat) | shared (cluster : Nat)
  deriving DecidableEq, Repr
structure Ptr where
  space : PSpace
  off : Nat
  deriving DecidableEq, Repr
/-- Decodes a generic pointer; none where it is invalid (R131). -/
def decodePtr (a : Word) : Option Ptr :=
  let top := bitsAt a 56 8
  if top = 0 then some ⟨.global, bitsAt a 0 56⟩
  else if top = 0xFC then (if bitsAt a 40 16 < 2048 then some ⟨.priv (bitsAt a 40 16), bitsAt a 0 40⟩ else none)
  else if top = 0xFD then
    (if bitsAt a 51 5 = 0 && bitsAt a 26 22 = 0 then some ⟨.shared (bitsAt a 48 3), bitsAt a 0 26⟩ else none)
  else if top = 0xFE then (if bitsAt a 22 18 = 0 then some ⟨.scratch (bitsAt a 40 16), bitsAt a 0 22⟩ else none)
  else none
/-- The offset range of a space (R131). -/
def PSpace.range : PSpace → Nat
  | .global => 2 ^ 56 | .priv _ => 2 ^ 40 | .scratch _ => 2 ^ 22 | .shared _ => 2 ^ 26
def Ptr.encode (p : Ptr) : Word :=
  match p.space with
  | .global => BitVec.ofNat 64 p.off
  | .priv t => BitVec.ofNat 64 (0xFC * 2 ^ 56 + t * 2 ^ 40 + p.off)
  | .shared c => BitVec.ofNat 64 (0xFD * 2 ^ 56 + c * 2 ^ 48 + p.off)
  | .scratch i => BitVec.ofNat 64 (0xFE * 2 ^ 56 + i * 2 ^ 40 + p.off)
/-- SPTEST's code (R131, R132). -/
def sptest (a : Word) : Nat :=
  match decodePtr a with
  | none => 7
  | some p => match p.space with | .global => 0 | .priv _ => 1 | .scratch _ => 2 | .shared _ => 3
/-- A pointer moved by a signed displacement; none where the offset leaves its range (R134, R168). -/
def Ptr.add (p : Ptr) (d : Int) : Option Ptr :=
  let o : Int := p.off + d
  if 0 ≤ o && o < (p.space.range : Int) then some { p with off := o.toNat } else none
/-- An allocation with this id stands on the tile (R133). -/
def State.hostedHere (s : State) (id tile : Nat) : Bool := s.allocs.any (fun a => a.id == id && a.tile == tile)
/-- SPCAST (R133). -/
def spcast (s : State) (t : Thread) (tid : Nat) (a b : Word) : Word :=
  let all1 : Word := BitVec.allOnes 64
  if bitsAt b 9 55 ≠ 0 || bitsAt b 2 6 ≠ 0 then all1
  else
    let sp := bitsAt b 0 2
    if bitsAt b 8 1 = 0 then
      if sp = 0 && bitsAt a 56 8 = 0 then a
      else if sp = 1 && a.toNat < 2 ^ 40 then (Ptr.mk (.priv tid) a.toNat).encode
      else if sp = 2 && a.toNat < 2 ^ 22 then (Ptr.mk (.scratch t.alloc.toNat) a.toNat).encode
      else if sp = 3 && a.toNat < 2 ^ 26 then (Ptr.mk (.shared (clusterOfTile t.tile)) a.toNat).encode
      else all1
    else if sptest a ≠ sp then all1
    else
      match decodePtr a with
      | some ⟨.global, _⟩ => a
      | some ⟨.priv i, o⟩ => if i = tid then BitVec.ofNat 64 o else all1
      | some ⟨.scratch i, o⟩ => if s.hostedHere i t.tile then BitVec.ofNat 64 o else all1
      | some ⟨.shared c, o⟩ => if c = clusterOfTile t.tile then BitVec.ofNat 64 o else all1
      | none => all1

/-- The global alias of a private address (R274). -/
def privAlias (tid off : Nat) : Nat := 0x0080000000000000 + tid * 2 ^ 40 + off

/-! Page tables (R377 to R379). -/
def vaIndex (va lvl : Nat) : Nat :=
  if lvl = 0 then va / 2 ^ 43 % 8192 else if lvl = 1 then va / 2 ^ 30 % 8192 else if lvl = 2 then va / 2 ^ 21 % 512 else va / 2 ^ 16 % 32
/-- log2 of the bytes a leaf maps. -/
def pageShift (lvl : Nat) : Nat := if lvl = 1 then 30 else if lvl = 2 then 21 else 16
def nextShift (lvl : Nat) : Nat := if lvl = 0 then 16 else if lvl = 1 then 12 else 8
/-- A malformed entry (R379). -/
def pteMalformed (e : Word) (lvl : Nat) : Bool :=
  let bit := fun k => bitsAt e k 1 = 1
  if bit 1 then
    lvl = 0 || bitsAt e 11 5 ≠ 0 || bitsAt e 52 12 ≠ 0 || bitsAt e 16 36 * 2 ^ 16 % 2 ^ pageShift lvl ≠ 0 || (bit 3 && !bit 2) ||
      (bit 6 && bit 7) || (bit 10 && (bit 4 || bit 8 || bit 9)) || (bit 9 && bit 8)
  else lvl = 3 || bitsAt e 2 6 ≠ 0 || bitsAt e 52 12 ≠ 0 || bitsAt e 8 44 * 2 ^ 8 % 2 ^ nextShift lvl ≠ 0
/-- What a walk gives: the leaf and its level, or the TINFO of its XLATE fault (R379); or it meets a table entry in a locked or check-stale row, and
waits (R245, R326). -/
inductive WalkResult where
  | leaf (e : TlbEntry)
  | fault (tinfo : Nat)
  | held
  deriving DecidableEq, Repr
/-- Where a page-table entry lies, by the map of the walker's cluster; an address in no valid region faults as any access does (R296), and one that is
not in this device's DRAM, of which no rule speaks, reads 0 and so is not valid (DESIGN CHOICE, log entry 12). -/
inductive EntryAt where
  | at (key : Nat) | outside | nowhere
  deriving DecidableEq, Repr
def State.entryAt (s : State) (cluster pa : Nat) : EntryAt :=
  if Config.dramBytes ≤ pa then .outside else match s.keyOf cluster pa with | some k => .at k | none => .nowhere
def walkFrom (s : State) (cluster : Nat) (asid : BitVec 12) (va : Nat) : Nat → Nat → Nat → WalkResult
  | 0, lvl, _ => .fault (1 + lvl * 256)
  | fuel + 1, lvl, t =>
    match s.entryAt cluster (t + 8 * vaIndex va lvl) with
    | .outside => .fault (lvl * 256)
    | .nowhere => .fault 2
    | .at k =>
      let e := readWord s.mem k
      if s.keyBlocked none k false then .held
      else if s.errOf (lineOf k) = .uncorrectable || s.errOf (lineOf k) = .poisoned then .fault (3 + lvl * 256)
      else if bitsAt e 0 1 = 0 then .fault (lvl * 256)
      else if pteMalformed e lvl then .fault (1 + lvl * 256)
      else if bitsAt e 1 1 = 1 then .leaf ⟨asid, lvl, va / 2 ^ pageShift lvl, bitsAt e 16 36 * 2 ^ 16, e⟩
      else walkFrom s cluster asid va fuel (lvl + 1) (bitsAt e 8 44 * 2 ^ 8)
/-- The whole walk of an ASID's tables by a walker of a cluster (R376, R379). -/
def walk (s : State) (cluster : Nat) (asid : BitVec 12) (va : Nat) : WalkResult :=
  match mget none s.asidTab asid.toNat with
  | none => .fault 0
  | some root => walkFrom s cluster asid va 4 0 root

/-! TLBs (R381): most recently used last. -/
def TlbEntry.covers (e : TlbEntry) (asid : BitVec 12) (va : Nat) : Bool := e.asid == asid && e.vpage == va / 2 ^ pageShift e.level
def TlbEntry.pa' (e : TlbEntry) (va : Nat) : Nat := e.pa + va % 2 ^ pageShift e.level
def putTlb (cap : Nat) (e : TlbEntry) (l : List TlbEntry) : List TlbEntry :=
  let l := l.filter (fun x => !(x.asid == e.asid && x.level == e.level && x.vpage == e.vpage))
  (if cap ≤ l.length then l.drop (l.length + 1 - cap) else l) ++ [e]
/-- The L2 TLB's set of an entry is its page number mod 1,024 (DESIGN CHOICE, log entry 11). -/
def putL2Tlb (e : TlbEntry) (l : List TlbEntry) : List TlbEntry :=
  let l := l.filter (fun x => !(x.asid == e.asid && x.level == e.level && x.vpage == e.vpage))
  let set := l.filter (fun x => x.vpage % 1024 == e.vpage % 1024)
  let l := if 8 ≤ set.length then (match set with | v :: _ => l.filter (· != v) | [] => l) else l
  l ++ [e]
/-- A finished walk's leaf goes into the cluster's L2 TLB and the L1 TLBs of the tiles that waited on it (R381). -/
def State.installTlb (s : State) (cluster : Nat) (tiles : List Nat) (e : TlbEntry) : State :=
  let s := tiles.foldl (fun s n => s.setTile n { s.tile n with tlb := putTlb 256 e (s.tile n).tlb }) s
  let k := s.cluster cluster
  s.setCluster cluster { k with tlb := putL2Tlb e k.tlb }
/-- An entry of the tile's L1 TLB or its cluster's L2 TLB. -/
def State.tlbHit (s : State) (tile : Nat) (asid : BitVec 12) (va : Nat) : Option TlbEntry :=
  match (s.tile tile).tlb.find? (·.covers asid va) with
  | some e => some e
  | none => (s.cluster (clusterOfTile tile)).tlb.find? (·.covers asid va)

/-- The entry that covers an address becomes the most recently used. -/
def useTlb (asid : BitVec 12) (va : Nat) (l : List TlbEntry) : List TlbEntry :=
  match l.find? (·.covers asid va) with
  | some e => l.filter (· != e) ++ [e]
  | none => l
/-- A translation is used: the tile's entry, or else its cluster's (R381; log entry 11). -/
def State.usePage (s : State) (tile : Nat) (asid : BitVec 12) (va : Nat) : State :=
  let t := s.tile tile
  if t.tlb.any (·.covers asid va) then s.setTile tile { t with tlb := useTlb asid va t.tlb }
  else
    let k := s.cluster (clusterOfTile tile)
    if k.tlb.any (·.covers asid va) then s.setCluster (clusterOfTile tile) { k with tlb := useTlb asid va k.tlb } else s

/-! Access checks. -/
/-- What an access does: a load, a store, an atomic or other read-modify-write, a fetch. -/
inductive AccKind where
  | read | write | rmw | fetch
  deriving DecidableEq, Repr
/-- Who accesses: the tile, the ASID, the mode. -/
structure Who where
  tile : Nat
  asid : BitVec 12
  supervisor : Bool
  deriving DecidableEq, Repr
/-- Where an access lands, and the pointer it was made at where that is kept. -/
structure Loc where
  key : Nat
  route : Route
  compress : Bool
  plane : Bool
  va : Word
  deriving DecidableEq, Repr
/-- The outcome of the checks. -/
inductive Checked where
  | ok (l : Loc)
  | fault (cause tinfo : Nat)
  | miss (va : Nat)
  deriving DecidableEq, Repr
def cXLATE : Nat := 0x10
def cPERM : Nat := 0x11
def cALIGN : Nat := 0x12
def cNONCANON : Nat := 0x13
def cFOREIGNSP : Nat := 0x14
def cSPBOUND : Nat := 0x15

/-- The physical windows (R406): whether an address is anything, and which. -/
def paRoute (s : State) (via pa : Nat) : Option Route :=
  if pa < Config.dramBytes then (if (s.keyOf via pa).isSome then some .cached else none)
  else if pa < 2 ^ 50 then none
  else if pa < 2 ^ 51 then some .host
  else
    let k := (pa - 2 ^ 51) / 2 ^ 40
    if bitsAt (mget 0 s.peers k) 0 1 = 1 && pa % 2 ^ 40 < Config.dramBytes then some .peer else none
/-- An address in the save area of a thread of the ASID: that ASID may not read it (R395; DESIGN CHOICE, log entry 6: PERM). -/
def State.ownSave (s : State) (asid : BitVec 12) (pa : Nat) : Bool :=
  decide (Config.saveBase ≤ pa) &&
  (s.threads.map (·.2) ++ s.saved.map (·.2)).any (fun t => t.asid == asid && decide (t.savea.toNat ≤ pa) && decide (pa < t.savea.toNat + 0x140000) && decide (Config.saveBase ≤ t.savea.toNat))
/-- Checks of a translated access: U, then R, W or X, then the windows (R296, R380, R406, R411). A CLAIMEL or VSADD on a page with neither R nor
W, for which R169 does not say which of TINFO 0 and 1 PERM has, has 1 (DESIGN CHOICE, log entry 63). -/
def checkLeaf (s : State) (w : Who) (kind : AccKind) (pa : Nat) (e : Word) : Checked :=
  let bit := fun k => bitsAt e k 1 = 1
  match paRoute s (clusterOfTile w.tile) pa with
  | none => .fault cXLATE 2
  | some r =>
    let key := if r = .cached then (s.keyOf (clusterOfTile w.tile) pa).getD pa else pa
    if kind = .fetch then
      (if !bit 4 || (!w.supervisor && !bit 5) || s.ownSave w.asid pa then .fault cPERM 4
       else if (r = .host) != bit 10 then .fault cPERM 5 else .ok ⟨key, r, bit 8, false, 0⟩)
    else if !w.supervisor && !bit 5 then .fault cPERM 3
    else if kind = .read && (!bit 2 || s.ownSave w.asid pa) then .fault cPERM 0
    else if kind != .read && !bit 3 then .fault cPERM 1
    else if kind = .rmw && (!bit 2 || s.ownSave w.asid pa) then .fault cPERM 0
    else if (r = .host) != bit 10 then .fault cPERM 5
    else if kind = .rmw && r = .host then .fault cPERM 6
    else
      let route : Route := if r = .cached then (if bit 7 then .nocache else if bit 6 then .stream else .cached) else r
      .ok ⟨key, route, bit 8, bit 9, 0⟩
/-- A global virtual address through the TLBs. -/
def checkVa (s : State) (w : Who) (kind : AccKind) (va : Nat) : Checked :=
  match s.tlbHit w.tile w.asid va with
  | some e => checkLeaf s w kind (e.pa' va) e.attrs
  | none => .miss va
/-- The page a walk is asked for: 64 KiB, the smallest size (R378). -/
def walkPage (va : Nat) : Nat := va / 65536 * 65536
/-- A walk that an engine of the tile waited for has ended: what it came to stands in the tables (R381; log entry 12). -/
def State.markWalked (s : State) (tile : Nat) (asid : BitVec 12) (va : Nat) : State :=
  let e := (tile, asid.toNat, walkPage va)
  if s.walkEnds.contains e then s else { s with walkEnds := s.walkEnds ++ [e] }
/-- The translation of an address for an engine, a structure's reader or the rows of a plane region; `held` while a walk is to be waited for. -/
def State.translate (s : State) (w : Who) (va : Nat) : WalkResult :=
  match s.tlbHit w.tile w.asid va with
  | some e => .leaf e
  | none => if s.walkEnds.contains (w.tile, w.asid.toNat, walkPage va) then walk s (clusterOfTile w.tile) w.asid va else .held
/-- A global virtual address so translated. -/
def checkVaWalk (s : State) (w : Who) (kind : AccKind) (va : Nat) : Checked :=
  match s.translate w va with
  | .leaf e => checkLeaf s w kind (e.pa' va) e.attrs
  | .fault i => .fault cXLATE i
  | .held => .miss va
/-- The checks of R169 on one access of n bytes at a pointer, in their order, 7 and 8 aside; `local` says that scratchpad
space must be on the accessing tile (threads), `walkNow` that a TLB miss is answered by the walks that engines waited for. -/
def checkPtr (s : State) (w : Who) (kind : AccKind) (walkNow : Bool) (p : Ptr) (n align : Nat) : Checked :=
  if p.off % align ≠ 0 then .fault cALIGN 0
  else match p.space with
    | .scratch id =>
      match s.alloc id with
      | none => .fault cFOREIGNSP 0xFF
      | some a =>
        if a.tile ≠ w.tile || a.asid != w.asid then .fault cFOREIGNSP a.tile
        else if a.units * 16384 < p.off + n then .fault cSPBOUND 0
        else .ok ⟨scratchKey a.tile (a.unit * 16384 + p.off), .space, false, false, 0⟩
    | .shared c =>
      match s.cisternAt c p.off n with
      | none => .fault cPERM 2
      | some a =>
        if a.asid != w.asid || (kind != .read && !a.rw) then .fault cPERM 2
        else .ok ⟨cisternKey c p.off, .space, false, false, 0⟩
    | .global => if walkNow then checkVaWalk s w kind p.off else checkVa s w kind p.off
    | .priv t => if walkNow then checkVaWalk s w kind (privAlias t p.off) else checkVa s w kind (privAlias t p.off)
/-- The global virtual address a pointer is translated at, where it is. -/
def Ptr.va (p : Ptr) : Option Nat :=
  match p.space with
  | .global => some p.off
  | .priv t => some (privAlias t p.off)
  | _ => none

def cUNCORR : Nat := 0x41
def cPOISON : Nat := 0x42
/-- Checks 7 and 8 of R169 on the lines a load touches: poisoned, uncorrectable. -/
def readError (s : State) (key n : Nat) : Option Nat :=
  let marks := [s.errOf (lineOf key), s.errOf (lineOf (key + n - 1))]
  if marks.contains .poisoned then some cPOISON else if marks.contains .uncorrectable then some cUNCORR else none

/-- The home writes poisoned an uncorrectable line that a load at this pointer has met (R431). -/
def State.poisonAt (s : State) (w : Who) (a : Word) : State :=
  match decodePtr a with
  | some p => (match checkPtr s w .read true p 1 1 with | .ok l => s.poisonLine (lineOf l.key) | _ => s)
  | none => s
/-- Another access through this pointer has met an uncorrectable line: it is logged (R431). -/
def State.meetAt (s : State) (w : Who) (cause : Nat) (a : Word) : State :=
  if cause ≠ cUNCORR then s
  else match decodePtr a with
    | some p => (match checkPtr s w .read true p 1 1 with | .ok l => s.meetBad (lineOf l.key) | _ => s)
    | none => s
/-- The lines from key to key + n - 1. -/
def linesOf (key n : Nat) : List Nat := if n = 0 then [] else (List.range (lineOf (key + n - 1) - lineOf key + 1)).map (· + lineOf key)
/-- Serves loads of lines for a tile's engines at their homes with a bound and no lease, gathering the greatest wts; the packets carry times
(R302). -/
def serveLines (s : State) (tile : Nat) (b : Time) (route : Route) (compress : Bool) : List Nat → Option Time → State × Option Time
  | [], w => (s, w)
  | l :: r, w =>
    match homeOf s (l * 128) with
    | some h =>
      let s := (s.packetTo tile h).scrubHeld h l
      let s := if s.needsDram h l route then (s.openLine l).correctLine l else s
      let v := s.serveLoad h l b none (route == .nocache) compress
      serveLines ((v.st.dropOlderAt tile l v.wts).packetBack tile h) tile b route compress r (some (match w with | some x => serialMax x v.wts | none => v.wts))
    | none => serveLines s tile b route compress r w
end Sys2Proof.Machine
end

