-- ==== Sys2Proof/Machine/PlaneSets.lean ====
section
/-! DEFINITION. Descriptors of plane regions and their sets of subarrays (R314 to R318), range words (R243), plane references (R261). -/
namespace Sys2Proof.Machine

/-- Bytes i to i + n - 1 of a structure as a number. -/
def fieldOf (l : List Byte) (i n : Nat) : Nat := leNat ((l.drop i).take n)

/-- A descriptor (R314). -/
structure Desc where
  vbase : Word
  pcFirst : Nat
  npc : Nat
  mask : Nat
  subFirst : Nat
  nsa : Nat
  rowLo : Nat
  nRows : Nat
  cluster : Nat
  deriving DecidableEq, Repr
def descOf (l : List Byte) : Desc :=
  ⟨BitVec.ofNat 64 (fieldOf l 0 8), fieldOf l 8 2, fieldOf l 10 2, fieldOf l 12 2, fieldOf l 14 1, fieldOf l 15 1, fieldOf l 16 2, fieldOf l 18 2, fieldOf l 20 1 % 8⟩
def descReserved (l : List Byte) : Bool := fieldOf l 20 1 / 8 != 0 || (l.drop 21).any (· != 0)
/-- The banks that take part, ascending. -/
def Desc.banks (d : Desc) : List Nat := (List.range 16).filter (fun b => d.mask / 2 ^ b % 2 == 1)
/-- Subarrays of the set (R317). -/
def Desc.size (d : Desc) : Nat := d.nsa * d.npc * d.banks.length
/-- Pseudo-channel, bank and subarray of a set index (R317). -/
def Desc.at (d : Desc) (i : Nat) : Nat × Nat × Nat :=
  let nb := d.banks.length
  (d.pcFirst + i / nb % d.npc, d.banks[i % nb]?.getD 0, d.subFirst + i / (nb * d.npc))
/-- The subarray of a set index, numbered bank * 32 + a. -/
def Desc.sub (d : Desc) (i : Nat) : Nat := let p := d.at i; bankNo d.cluster p.1 p.2.1 * 32 + p.2.2
def Desc.inWindow (d : Desc) (row n : Nat) : Bool := d.rowLo ≤ row && row + n ≤ d.rowLo + d.nRows
/-- The region of the map that covers the whole set (R315 check 4). -/
def Desc.coveredBy (d : Desc) (r : Region') : Bool :=
  r.mode == 0 && r.cluster == d.cluster && r.pcFirst ≤ d.pcFirst && d.pcFirst + d.npc ≤ r.pcFirst + r.size / Nat.max r.psz 1 &&
  d.banks.all (fun b => r.off * 2 ^ 21 ≤ b * 2 ^ 24 + d.subFirst * 2 ^ 19 &&
    b * 2 ^ 24 + (d.subFirst + d.nsa) * 2 ^ 19 ≤ (r.off + r.psz) * 2 ^ 21)
/-- A bank whose retirement has begun (R315 check 5, R438). -/
def Desc.retired (d : Desc) (c : Cluster) : Bool :=
  c.remap.any (fun e => brState e.2 != 0 && d.banks.any (fun b => (List.range d.npc).any (fun p => brFrom e.2 == (d.pcFirst + p) * 16 + b)))
/-- The region of a valid descriptor, by the map of cluster `via`; none where a check of R315 fails. -/
def Desc.region (d : Desc) (s : State) (via : Nat) : Option Region' :=
  if bitsAt d.vbase 56 8 ≠ 0 || bitsAt d.vbase 0 21 ≠ 0 then none
  else if d.npc = 0 || d.nsa = 0 || d.nRows = 0 || 384 < d.pcFirst + d.npc || 32 < d.subFirst + d.nsa || 512 < d.rowLo + d.nRows then none
  else if d.banks.isEmpty || 8 < d.banks.length || [0, 1, 2, 3].any (fun g => 2 < (d.banks.filter (fun b => b / 4 == g)).length) then none
  else match ((s.cluster via).il.filterMap (fun e => regionOf e.2)).find? d.coveredBy with
    | none => none
    | some r => if d.retired (s.cluster d.cluster) then none else some r
/-- The physical address of a row (R316). -/
def Desc.pa (d : Desc) (r : Region') (i row : Nat) : Nat :=
  let p := d.at i
  r.base * 2 ^ 21 + (p.1 - r.pcFirst) * (r.psz * 2 ^ 21) + p.2.1 * 2 ^ 24 + p.2.2 * 2 ^ 19 + row * 2 ^ 10 - r.off * 2 ^ 21
/-- Its first byte as memory keeps it, by the map of a cluster. -/
def Desc.key (d : Desc) (s : State) (via : Nat) (r : Region') (i row : Nat) : Nat := (s.keyOf via (d.pa r i row)).getD (d.pa r i row)
/-- Its virtual address. -/
def Desc.va (d : Desc) (r : Region') (i row : Nat) : Word := d.vbase + BitVec.ofNat 64 (d.pa r i row - r.base * 2 ^ 21)

/-- A plane reference (R261). -/
structure PlaneRef where
  desc : Word
  row : Nat
  width : Nat
  tern : Bool
  first : Nat
  deriving DecidableEq, Repr
def refOf (l : List Byte) : PlaneRef := ⟨BitVec.ofNat 64 (fieldOf l 0 8), fieldOf l 8 2 % 512, fieldOf l 10 1, fieldOf l 11 1 % 2 == 1, fieldOf l 12 4⟩
/-- A nonzero reserved bit of a plane reference (R241). -/
def refReserved (l : List Byte) : Bool := 512 ≤ fieldOf l 8 2 || 2 ≤ fieldOf l 11 1
/-- An illegal value of one (R242). -/
def PlaneRef.illegal (f : PlaneRef) : Bool := f.width = 0 || 32 < f.width || (f.tern && f.width != 2)
def refBad (l : List Byte) : Bool := refReserved l || (refOf l).illegal
/-- The set indices that elements FIRST to FIRST + n - 1 span. -/
def PlaneRef.indices (f : PlaneRef) (n : Nat) : List Nat :=
  if n = 0 then [] else (List.range ((f.first + n - 1) / 8192 - f.first / 8192 + 1)).map (· + f.first / 8192)

/-- The bytes at a global pointer as memory holds them; none where they cannot be read here. -/
def globalBytes (s : State) (w : Who) (a : Word) (n : Nat) : Option (List Byte) :=
  match decodePtr a with
  | some p => (match checkPtr s w .read true p n 1 with
    | .ok l => if l.route = .host || l.route = .peer then none else some (readBytes s.mem l.key n)
    | .miss _ => none
    | .fault .. => some [])
  | none => some []
/-- The bytes a plane reference at a pointer may name, as spans: nothing where it will not pass its checks; none where it cannot be read yet. -/
def planeSpans (s : State) (w : Who) (a : Word) (vl : Nat) : Option (List (Nat × Nat)) :=
  match globalBytes s w a 16 with
  | none => none
  | some l =>
    if l.isEmpty || refBad l then some []
    else
      let f := refOf l
      match globalBytes s w f.desc 64 with
      | none => none
      | some b =>
        if b.isEmpty || descReserved b then some []
        else match (descOf b).region s (clusterOfTile w.tile) with
          | none => some []
          | some r => some ((f.indices vl).flatMap (fun i => (List.range f.width).map (fun k => ((descOf b).key s (clusterOfTile w.tile) r i (f.row + k), 1024))))

end Sys2Proof.Machine
end

