-- ==== Sys2Proof/WellFormed.lean ====
section
/-! DEFINITION. Which instructions are well formed: what R88 checks of a field beyond the types of Syntax (R86, R118, R136,
R137, R166, R179, R190, R192, R262, R265), and the ranges of the numbers an event carries. -/
namespace Sys2Proof

/-- The SZ values an instruction may have (R166): 0 to 3; 2 and 3; none, SZ = 0. -/
inductive Sizes where
  | all | wide | vector
  deriving DecidableEq, Repr
/-- The word-1 bits a memory-class instruction accepts, its sizes, and whether SP must be 0 or 1 (R166, R239). -/
structure Accepts where
  wi : Bool
  rw : Bool
  fr : Bool
  sx : Bool
  ord : Bool
  ff : Bool
  sizes : Sizes
  planes : Bool
  deriving DecidableEq, Repr

/-- A format code names a format (R13, R137). -/
def fmtOk (f : Nat) : Bool := 1 ≤ f && f ≤ 14
/-- A tag's fields are legal (R137). -/
def tagOk (tag : BitVec 16) : Bool :=
  let f := tag.toNat % 32
  tag.toNat / 8192 == 0 && fmtOk f && ((tag.toNat / 32) % 256 == 127 || (9 ≤ f && f ≤ 11))
/-- A tag with SCALE 127 (R179). -/
def tagPlainOk (tag : BitVec 16) : Bool := tagOk tag && (tag.toNat / 32) % 256 == 127
/-- A tag of an integer format with SCALE 127 (R137 on VID, R262). -/
def tagIntOk (tag : BitVec 16) : Bool := tagPlainOk tag && tag.toNat % 32 ≤ 8
/-- XSEL is zero unless XM is set (R82). -/
def vwordOk (v : VWord) : Bool := v.xm || v.xsel == 0
/-- Memory word 1 holds only bits, sizes and spaces the instruction accepts (R83, R166, R239). -/
def mwordOk (a : Accepts) (m : MWord) : Bool :=
  (a.wi || !m.wi) && (a.rw || !m.rw) && (a.fr || !m.fr) && (a.sx || !m.sx) && (a.ord || !m.ord) && (a.ff || !m.ff) &&
  !(m.ff && m.rw) &&
  (match a.sizes with | .all => true | .wide => 2 ≤ m.sz.toNat | .vector => m.sz == 0) &&
  (!a.planes || m.sp == .generic || m.sp == .global)
/-- A CSR some chapter assigns (R119, R384, R374, R433). -/
def csrAssigned (n : Nat) : Bool :=
  n ≤ 5 || (0x10 ≤ n && n ≤ 0x12) || n == 0x20 || n == 0x21 || n == 0x30 || n == 0x31 || n == 0x40 || n == 0x41 || n == 0x50 ||
  n == 0x51 || (0x100 ≤ n && n ≤ 0x108) || (0x110 ≤ n && n ≤ 0x112) || n == 0x120 ||
  (0x130 ≤ n && n ≤ 0x139 && n != 0x132)
/-- A CSR that CSRW may name: assigned and not read-only (R118, R119, R384, R374, R433). BRENT is read-only to software. -/
def csrWritable (n : Nat) : Bool :=
  n == 0x30 || n == 0x31 || (0x100 ≤ n && n ≤ 0x107) || (0x110 ≤ n && n ≤ 0x112) || n == 0x120 ||
  n == 0x130 || n == 0x131 || (0x133 ≤ n && n ≤ 0x136)
/-- What each memory-class instruction accepts (R166, R239). -/
def Accepts.ld : Accepts := ⟨true, true, true, true, false, false, .all, false⟩
def Accepts.st : Accepts := ⟨true, false, false, false, false, false, .all, false⟩
def Accepts.vld : Accepts := ⟨true, true, true, false, false, false, .vector, false⟩
def Accepts.vlds : Accepts := ⟨true, true, true, false, false, true, .vector, false⟩
def Accepts.vldx : Accepts := ⟨true, true, true, false, false, true, .vector, false⟩
def Accepts.vldff : Accepts := ⟨true, false, true, false, false, false, .vector, false⟩
def Accepts.vst : Accepts := ⟨true, false, false, false, false, false, .vector, false⟩
def Accepts.vsts : Accepts := ⟨false, false, false, false, false, false, .vector, false⟩
def Accepts.vstx : Accepts := ⟨false, false, false, false, true, false, .vector, false⟩
def Accepts.vsadd : Accepts := ⟨false, false, false, false, false, false, .vector, false⟩
def Accepts.atomic : Accepts := ⟨true, true, false, true, false, false, .wide, false⟩
def Accepts.acas : Accepts := ⟨false, true, false, true, false, false, .wide, false⟩
def Accepts.mwait : Accepts := ⟨true, true, false, true, false, false, .all, false⟩
def Accepts.claimel : Accepts := ⟨false, true, false, false, false, false, .all, false⟩
def Accepts.pref : Accepts := ⟨false, false, false, false, false, false, .vector, false⟩
def Accepts.vldp : Accepts := ⟨true, true, false, false, false, false, .vector, true⟩
def Accepts.vstp : Accepts := ⟨true, false, false, false, false, false, .vector, true⟩

/-- Row operand codes of a furrow word (R253): a special row has bits [8:4] zero and a code below 12. -/
def rowOk (r : BitVec 10) : Bool := 512 ≤ r.toNat || r.toNat < 12
/-- A device thread, tile, cluster, bank, host queue. -/
def tidOk (n : Nat) : Bool := n < Config.threads
def tileOk (n : Nat) : Bool := n < Config.tiles
def clusterOk (n : Nat) : Bool := n < Config.clusters
def bankOk (n : Nat) : Bool := n < 49152
def queueOk (n : Nat) : Bool := n < Config.queues

/-- The instruction is one the decoder can produce, or the event one that can happen. -/
def wellFormed : Instr → Bool
  | .rds _ => true
  | .rdv f => f.reg.toNat < 32
  | .rdm f => f.reg.toNat < 16
  | .wrs _ => true
  | .wrv f => f.reg.toNat < 32
  | .wrm f => f.reg.toNat < 16
  | .mov _ => true
  | .movExt _ _ => true
  | .null _ => true
  | .nullExt _ _ => true
  | .lit _ _ => true
  | .pcb _ => true
  | .pcbExt _ _ => true
  | .br _ => true
  | .bri _ => true
  | .call _ => true
  | .calli _ => true
  | .yield _ => true
  | .halt _ => true
  | .sysc _ => true
  | .trap _ _ => true
  | .eret _ => true
  | .csrr _ _ csr => csrAssigned csr.toNat
  | .csrw _ csr => csrWritable csr.toNat
  | .icinv _ => true
  | .tlbinv _ => true
  | .setvl _ => true
  | .lclaim _ => true
  | .add _ => true
  | .addImm _ _ => true
  | .sub _ => true
  | .subImm _ _ => true
  | .mul _ => true
  | .mulImm _ _ => true
  | .mulh _ => true
  | .mulhImm _ _ => true
  | .mulhn _ => true
  | .mulhnImm _ _ => true
  | .div _ => true
  | .divImm _ _ => true
  | .divn _ => true
  | .divnImm _ _ => true
  | .rem _ => true
  | .remImm _ _ => true
  | .remn _ => true
  | .remnImm _ _ => true
  | .and _ => true
  | .andImm _ _ => true
  | .or _ => true
  | .orImm _ _ => true
  | .xor _ => true
  | .xorImm _ _ => true
  | .andn _ => true
  | .andnImm _ _ => true
  | .shl _ => true
  | .shlImm _ _ => true
  | .shr _ => true
  | .shrImm _ _ => true
  | .sra _ => true
  | .sraImm _ _ => true
  | .rotl _ => true
  | .rotlImm _ _ => true
  | .min _ => true
  | .minImm _ _ => true
  | .max _ => true
  | .maxImm _ _ => true
  | .minn _ => true
  | .minnImm _ _ => true
  | .maxn _ => true
  | .maxnImm _ _ => true
  | .clz _ => true
  | .clzExt _ _ => true
  | .ctz _ => true
  | .ctzExt _ _ => true
  | .popc _ => true
  | .popcExt _ _ => true
  | .bswap _ => true
  | .bswapExt _ _ => true
  | .sext _ => true
  | .sextImm _ _ => true
  | .zext _ => true
  | .zextImm _ _ => true
  | .bfx _ => true
  | .bfxImm _ _ => true
  | .bfi _ => true
  | .bfiImm _ _ => true
  | .sel _ => true
  | .selImm _ _ => true
  | .teq _ => true
  | .teqImm _ _ => true
  | .tne _ => true
  | .tneImm _ _ => true
  | .tlt _ => true
  | .tltImm _ _ => true
  | .tle _ => true
  | .tleImm _ _ => true
  | .tltn _ => true
  | .tltnImm _ _ => true
  | .tlen _ => true
  | .tlenImm _ _ => true
  | .tbit _ => true
  | .tbitImm _ _ => true
  | .sptest _ => true
  | .sptestExt _ _ => true
  | .spcast _ => true
  | .spcastImm _ _ => true
  | .padd _ => true
  | .paddImm _ _ => true
  | .vadd _ => true
  | .vaddExt _ v => vwordOk v
  | .vsub _ => true
  | .vsubExt _ v => vwordOk v
  | .vmul _ => true
  | .vmulExt _ v => vwordOk v
  | .vmulw _ => true
  | .vmulwExt _ v _ => vwordOk v
  | .vfma _ => true
  | .vfmaExt _ v => vwordOk v
  | .vfms _ => true
  | .vfmsExt _ v => vwordOk v
  | .vdiv _ => true
  | .vdivExt _ v => vwordOk v
  | .vsqrt _ => true
  | .vsqrtExt _ v => vwordOk v
  | .vrcp _ => true
  | .vrcpExt _ v => vwordOk v
  | .vrsq _ => true
  | .vrsqExt _ v => vwordOk v
  | .vexp2 _ => true
  | .vexp2Ext _ v => vwordOk v
  | .vlog2 _ => true
  | .vlog2Ext _ v => vwordOk v
  | .vmin _ => true
  | .vminExt _ v => vwordOk v
  | .vmax _ => true
  | .vmaxExt _ v => vwordOk v
  | .vabs _ => true
  | .vabsExt _ v => vwordOk v
  | .vneg _ => true
  | .vnegExt _ v => vwordOk v
  | .vand _ => true
  | .vandExt _ v => vwordOk v
  | .vor _ => true
  | .vorExt _ v => vwordOk v
  | .vxor _ => true
  | .vxorExt _ v => vwordOk v
  | .vnot _ => true
  | .vnotExt _ v => vwordOk v
  | .vshl _ => true
  | .vshlExt _ v _ => vwordOk v
  | .vshr _ => true
  | .vshrExt _ v _ => vwordOk v
  | .vsra _ => true
  | .vsraExt _ v _ => vwordOk v
  | .vceq _ => true
  | .vceqExt _ v => vwordOk v
  | .vcne _ => true
  | .vcneExt _ v => vwordOk v
  | .vclt _ => true
  | .vcltExt _ v => vwordOk v
  | .vcle _ => true
  | .vcleExt _ v => vwordOk v
  | .vcun _ => true
  | .vcunExt _ v => vwordOk v
  | .vclass _ => true
  | .vclassExt _ v _ => vwordOk v
  | .vsel _ => true
  | .vselExt _ v => vwordOk v
  | .vfill _ v tag _ => vwordOk v && tagOk tag
  | .vbcast _ v tag _ => vwordOk v && tagOk tag
  | .vid _ v tag => vwordOk v && tagIntOk tag
  | .vcvt _ v tag => vwordOk v && tagOk tag
  | .vscale _ => true
  | .vscaleExt _ v _ => vwordOk v
  | .vtag _ v tag => vwordOk v && tagOk tag
  | .vsum _ => true
  | .vsumExt _ v => vwordOk v
  | .vrmax _ => true
  | .vrmaxExt _ v => vwordOk v
  | .vrmin _ => true
  | .vrminExt _ v => vwordOk v
  | .vdot _ => true
  | .vdotExt _ v _ => vwordOk v
  | .vperm _ => true
  | .vpermExt _ v => vwordOk v
  | .vrot _ => true
  | .vrotExt _ v _ => vwordOk v
  | .vslide _ => true
  | .vslideExt _ v _ _ => vwordOk v
  | .vcomp _ => true
  | .vcompExt _ v => vwordOk v
  | .vexpd _ => true
  | .vexpdExt _ v => vwordOk v
  | .vext _ => true
  | .vextExt _ v _ => vwordOk v
  | .vins _ => true
  | .vinsExt _ v _ => vwordOk v
  | .mand _ => true
  | .mandExt _ _ => true
  | .mor _ => true
  | .morExt _ _ => true
  | .mxor _ => true
  | .mxorExt _ _ => true
  | .mnot _ => true
  | .mnotExt _ _ => true
  | .mpop _ => true
  | .mpopExt _ _ => true
  | .mfirst _ => true
  | .mfirstExt _ _ => true
  | .ld _ m => mwordOk Accepts.ld m
  | .st _ m _ => mwordOk Accepts.st m
  | .vld _ m tag => mwordOk Accepts.vld m && tagOk tag
  | .vlds _ m tag => mwordOk Accepts.vlds m && tagPlainOk tag
  | .vldx _ m tag => mwordOk Accepts.vldx m && tagPlainOk tag
  | .vldff _ m tag => mwordOk Accepts.vldff m && tagPlainOk tag
  | .vst _ m => mwordOk Accepts.vst m
  | .vsts _ m => mwordOk Accepts.vsts m
  | .vstx _ m => mwordOk Accepts.vstx m
  | .vsadd _ m => mwordOk Accepts.vsadd m
  | .aadd _ m _ => mwordOk Accepts.atomic m
  | .aswap _ m _ => mwordOk Accepts.atomic m
  | .acas _ m _ => mwordOk Accepts.acas m
  | .amin _ m _ => mwordOk Accepts.atomic m
  | .amax _ m _ => mwordOk Accepts.atomic m
  | .aand _ m _ => mwordOk Accepts.atomic m
  | .aor _ m _ => mwordOk Accepts.atomic m
  | .axor _ m _ => mwordOk Accepts.atomic m
  | .wjoin _ => true
  | .wjoinImm _ _ => true
  | .wfloor _ => true
  | .wfloorExt _ => true
  | .wnow _ => true
  | .wnowExt _ _ => true
  | .wtest _ => true
  | .wtestExt _ _ test => test != 3
  | .mwait _ m _ => mwordOk Accepts.mwait m
  | .bar _ => true
  | .barExt _ _ _ count _ => count.toNat ≤ 32
  | .claimel _ m _ => mwordOk Accepts.claimel m
  | .pref b m => mwordOk Accepts.pref m && b.t0.isNone && b.t1.isNone && m.t2.isNone
  | .mclaim _ => true
  | .mrel _ => true
  | .mmul _ _ _ _ _ => true
  | .mrd _ _ _ _ _ => true
  | .mwr _ _ _ _ => true
  | .mzero _ _ _ => true
  | .mdecay _ => true
  | .mspill _ _ => true
  | .mfill _ _ _ => true
  | .wcfg _ => true
  | .wtable _ => true
  | .wload _ _ => true
  | .wloada _ _ => true
  | .wswap _ => true
  | .wexp _ _ => true
  | .wstat _ _ _ => true
  | .plock _ => true
  | .plockExt _ _ _ _ => true
  | .punlock _ => true
  | .plaunch _ => true
  | .plaunchExt _ _ => true
  | .pfence _ => true
  | .pfenceExt _ _ => true
  | .pstat _ => true
  | .pstatExt _ _ _ => true
  | .vldp _ m tag => mwordOk Accepts.vldp m && tagIntOk tag
  | .vstp _ m => mwordOk Accepts.vstp m
  | .cpset _ => true
  | .cpsetExt _ index => index.toNat < 18
  | .cpgo _ => true
  | .cpgoExt _ _ => true
  | .cpqf _ => true
  | .cpqfExt _ _ _ => true
  | .cpstat _ => true
  | .cpstatExt _ _ => true
  | .cpabort _ => true
  | .qcopy s d => rowOk s && rowOk d
  | .qnot s d => rowOk s && rowOk d
  | .qmaj _ => true
  | .qshl s d => rowOk s && rowOk d
  | .qshr s d => rowOk s && rowOk d
  | .qset _ d _ _ => rowOk d
  | .qvmc s d _ => rowOk s && rowOk d
  | .qloop n => n != 0
  | .qloopPar _ => true
  | .qend => true
  | .qskip _ _ _ _ _ => true
  | .qsafe => true
  | .qret => true
  | .blockFetch tid _ => tidOk tid
  | .blockDecode tid => tidOk tid
  | .blockCommit tid => tidOk tid
  | .deferredResultWrite _ => true
  | .trapEntry tid => tidOk tid
  | .matrixClaimGrant tile => tileOk tile
  | .fillAccept tid => tidOk tid
  | .wloadaAccept tid => tidOk tid
  | .fillEnd tile => tileOk tile
  | .preempt tid => tidOk tid
  | .preemptGraceExpiry tid => tidOk tid
  | .contextSaveEnd tid => tidOk tid
  | .resume tid => tidOk tid
  | .laneResidueFailure tid slot _ lane => tidOk tid && slot < 128 && lane ≤ 256
  | .laneSelfTestEnd tile group _ => tileOk tile && group < 16
  | .homeLoad _ => true
  | .homeStore _ => true
  | .homeAtomic _ => true
  | .claimelAtHome _ => true
  | .mwaitWake _ => true
  | .mwaitExpiry _ => true
  | .l1Renewal _ => true
  | .rdcRenewal _ => true
  | .leaseSweep => true
  | .ceilingAdvance => true
  | .clusterTimeBroadcast cluster => clusterOk cluster
  | .pageWalkEnd _ => true
  | .plockGrant _ => true
  | .lockedTimeout _ => true
  | .fieldOpStart cluster _ => clusterOk cluster
  | .refreshIntervalEnd bank => bankOk bank
  | .refresh bank => bankOk bank
  | .refreshManagement bank => bankOk bank
  | .dramRequest bank => bankOk bank
  | .insertion bank => bankOk bank
  | .patrolRead bank => bankOk bank
  | .copyStrip tile queue => tileOk tile && queue < 8
  | .copyStripEnd tile queue => tileOk tile && queue < 8
  | .copyStampWrite tile queue => tileOk tile && queue < 8
  | .copyFenceRelease tile queue => tileOk tile && queue < 8
  | .trainElement _ => true
  | .trainTail _ => true
  | .trainAck _ => true
  | .trainAckTimeout _ => true
  | .queueDoorbell queue _ => queueOk queue
  | .queueHeadWake queue => queueOk queue
  | .packetFetch queue => queueOk queue
  | .start queue => queueOk queue
  | .startPlacement queue => queueOk queue
  | .startWaitTimeout queue => queueOk queue
  | .regionAttach queue => queueOk queue
  | .regionReload queue => queueOk queue
  | .regionDetach queue => queueOk queue
  | .cisternAllocate queue => queueOk queue
  | .cisternFree queue => queueOk queue
  | .wait queue => queueOk queue
  | .stamp queue => queueOk queue
  | .copy queue => queueOk queue
  | .plane queue => queueOk queue
  | .kill queue => queueOk queue
  | .nop queue => queueOk queue
  | .packetComplete queue _ => queueOk queue
  | .budgetCharge _ _ _ _ => true
  | .hostMemrd pa _ => pa < 2 ^ 52
  | .hostMemrdOwnership pa _ => pa < 2 ^ 52
  | .hostMemwr pa _ => pa < 2 ^ 52
  | .birsp _ _ => true
  | .msgTrainBeats _ => true
  | .msgTrainAck _ => true
  | .msgReadRequest _ => true
  | .msgReadResponse _ => true
  | .msgAtomicRequest _ => true
  | .msgAtomicResponse _ => true
  | .msgTime _ => true
  | .msgRetransmit tile _ => tileOk tile
  | .msgUnreachable tile _ => tileOk tile
  | .idleTimeSend port => port < 8
  | .ilaWrite tid _ => tidOk tid
  | .ptrootWrite tid _ => tidOk tid || (Config.threads ≤ tid && tid < Config.threads + Config.cores)
  | .mthWrite tid _ => tidOk tid
  | .refctlWrite tid _ => tidOk tid
  | .fwshareWrite tid _ => tidOk tid
  | .frmWrite tid _ => tidOk tid
  | .leaseWrite tid _ => tidOk tid
  | .csrRegisterWrite tid _ _ => tidOk tid
  | .startWarm => true
  | .startWarmZero => true
  | .startCold => true
  | .deviceStart _ => true
  | .barRegisterWrite _ _ => true
  | .rowSpare bank row => bankOk bank && row < 16384
  | .bankRetireMove cluster entry => clusterOk cluster && entry < 16
  | .tileRetire tile => tileOk tile
  | .linkRetrain _ _ => true
  | .unitFailure _ => true
  | .clusterWarmRestart cluster => clusterOk cluster
  | .mctpControl _ => true
  | .getVersion _ => true
  | .getCapabilities _ => true
  | .negotiateAlgorithms _ => true
  | .getDigests _ => true
  | .getCertificate _ => true
  | .challenge _ => true
  | .getMeasurements _ => true
  | .keyExchange _ => true
  | .finish _ => true
  | .endSession _ => true
  | .readLog cluster => clusterOk cluster
  | .readStatus => true
  | .setPlimit _ => true
  | .restart _ _ _ => true
  | .commitSvn _ => true
  | .firmwareUpdate _ => true
  | .throttleTick _ _ => true
  | .statusBlockWrite => true
  | .thermalTrip _ => true
  | .thermalRecovery _ => true
  | .hostSnoop pa => pa < 2 ^ 52
  | .hostCompletion _ _ => true
  | .peerTableWrite k _ => k < 4096
  | .fabricEnumeration _ => true
  | .encodePassEnd cluster _ => clusterOk cluster

end Sys2Proof
end

