-- ==== Sys2Proof/Decode.lean ====
section
/-! DEFINITION. The decoder of instruction words (R74 to R91, in R88's order of checks) and of furrow words (R91, R253, R255),
total on any words, and after it the encoder. Words decode to a `Raw`: the opcode and its operand form. `Raw.instr` names
the instruction a Raw is, `rawOf` gives it back.

Lean's compiled code cannot build a value whose constructor stands beyond the 245th of its type (a limit of its runtime,
not of the language), so what builds an Instr is marked noncomputable: the kernel evaluates it as any other definition. -/
namespace Sys2Proof

/-- The opcodes of R85. -/
inductive Opcode where
  | rds | rdv | rdm | wrs | wrv | wrm | mov | null | lit | pcb | br | bri | call | calli
  | yield | halt | sysc | trap | eret | csrr | csrw | icinv | tlbinv | setvl | lclaim | add | sub | mul
  | mulh | mulhn | div | divn | rem | remn | and | or | xor | andn | shl | shr | sra | rotl
  | min | max | minn | maxn | clz | ctz | popc | bswap | sext | zext | bfx | bfi | sel | teq
  | tne | tlt | tle | tltn | tlen | tbit | sptest | spcast | padd | vadd | vsub | vmul | vmulw | vfma
  | vfms | vdiv | vsqrt | vrcp | vrsq | vexp2 | vlog2 | vmin | vmax | vabs | vneg | vand | vor | vxor
  | vnot | vshl | vshr | vsra | vceq | vcne | vclt | vcle | vcun | vclass | vsel | vfill | vbcast | vid
  | vcvt | vscale | vtag | vsum | vrmax | vrmin | vdot | vperm | vrot | vslide | vcomp | vexpd | vext | vins
  | mand | mor | mxor | mnot | mpop | mfirst | ld | st | vld | vlds | vldx | vldff | vst | vsts
  | vstx | vsadd | aadd | aswap | acas | amin | amax | aand | aor | axor | wjoin | wfloor | wnow | wtest
  | mwait | bar | claimel | pref | mclaim | mrel | mmul | mrd | mwr | mzero | mdecay | mspill | mfill | wcfg
  | wtable | wload | wloada | wswap | wexp | wstat | plock | punlock | plaunch | pfence | pstat | vldp | vstp | cpset
  | cpgo | cpqf | cpstat | cpabort
  deriving DecidableEq, Repr

/-- The 8-bit OP of an opcode (R85). -/
def Opcode.code : Opcode → Nat
  | .rds => 0x01 | .rdv => 0x02 | .rdm => 0x03 | .wrs => 0x04 | .wrv => 0x05 | .wrm => 0x06 | .mov => 0x07
  | .null => 0x08 | .lit => 0x09 | .pcb => 0x0A | .br => 0x0B | .bri => 0x0C | .call => 0x0D | .calli => 0x0E
  | .yield => 0x0F | .halt => 0x10 | .sysc => 0x11 | .trap => 0x12 | .eret => 0x13 | .csrr => 0x14 | .csrw => 0x15
  | .icinv => 0x16 | .tlbinv => 0x17 | .setvl => 0x18 | .lclaim => 0x19 | .add => 0x20 | .sub => 0x21 | .mul => 0x22
  | .mulh => 0x23 | .mulhn => 0x24 | .div => 0x25 | .divn => 0x26 | .rem => 0x27 | .remn => 0x28 | .and => 0x29
  | .or => 0x2A | .xor => 0x2B | .andn => 0x2C | .shl => 0x2D | .shr => 0x2E | .sra => 0x2F | .rotl => 0x30
  | .min => 0x31 | .max => 0x32 | .minn => 0x33 | .maxn => 0x34 | .clz => 0x35 | .ctz => 0x36 | .popc => 0x37
  | .bswap => 0x38 | .sext => 0x39 | .zext => 0x3A | .bfx => 0x3B | .bfi => 0x3C | .sel => 0x3D | .teq => 0x3E
  | .tne => 0x3F | .tlt => 0x40 | .tle => 0x41 | .tltn => 0x42 | .tlen => 0x43 | .tbit => 0x44 | .sptest => 0x45
  | .spcast => 0x46 | .padd => 0x47 | .vadd => 0x50 | .vsub => 0x51 | .vmul => 0x52 | .vmulw => 0x53 | .vfma => 0x54
  | .vfms => 0x55 | .vdiv => 0x56 | .vsqrt => 0x57 | .vrcp => 0x58 | .vrsq => 0x59 | .vexp2 => 0x5A | .vlog2 => 0x5B
  | .vmin => 0x5C | .vmax => 0x5D | .vabs => 0x5E | .vneg => 0x5F | .vand => 0x60 | .vor => 0x61 | .vxor => 0x62
  | .vnot => 0x63 | .vshl => 0x64 | .vshr => 0x65 | .vsra => 0x66 | .vceq => 0x67 | .vcne => 0x68 | .vclt => 0x69
  | .vcle => 0x6A | .vcun => 0x6B | .vclass => 0x6C | .vsel => 0x6D | .vfill => 0x6E | .vbcast => 0x6F | .vid => 0x70
  | .vcvt => 0x71 | .vscale => 0x72 | .vtag => 0x73 | .vsum => 0x74 | .vrmax => 0x75 | .vrmin => 0x76 | .vdot => 0x77
  | .vperm => 0x78 | .vrot => 0x79 | .vslide => 0x7A | .vcomp => 0x7B | .vexpd => 0x7C | .vext => 0x7D | .vins => 0x7E
  | .mand => 0x7F | .mor => 0x80 | .mxor => 0x81 | .mnot => 0x82 | .mpop => 0x83 | .mfirst => 0x84 | .ld => 0x90
  | .st => 0x91 | .vld => 0x92 | .vlds => 0x93 | .vldx => 0x94 | .vldff => 0x95 | .vst => 0x96 | .vsts => 0x97
  | .vstx => 0x98 | .vsadd => 0x99 | .aadd => 0x9A | .aswap => 0x9B | .acas => 0x9C | .amin => 0x9D | .amax => 0x9E
  | .aand => 0x9F | .aor => 0xA0 | .axor => 0xA1 | .wjoin => 0xA2 | .wfloor => 0xA3 | .wnow => 0xA4 | .wtest => 0xA5
  | .mwait => 0xA6 | .bar => 0xA7 | .claimel => 0xA8 | .pref => 0xA9 | .mclaim => 0xB0 | .mrel => 0xB1 | .mmul => 0xB2
  | .mrd => 0xB3 | .mwr => 0xB4 | .mzero => 0xB5 | .mdecay => 0xB6 | .mspill => 0xB7 | .mfill => 0xB8 | .wcfg => 0xB9
  | .wtable => 0xBA | .wload => 0xBB | .wloada => 0xBC | .wswap => 0xBD | .wexp => 0xBE | .wstat => 0xBF | .plock => 0xC0
  | .punlock => 0xC1 | .plaunch => 0xC2 | .pfence => 0xC3 | .pstat => 0xC4 | .vldp => 0xC5 | .vstp => 0xC6 | .cpset => 0xC8
  | .cpgo => 0xC9 | .cpqf => 0xCA | .cpstat => 0xCB | .cpabort => 0xCC

/-- The opcodes by number, in ascending order (R85). -/
def opcodeTable : List Opcode :=
  ([.rds, .rdv, .rdm, .wrs, .wrv, .wrm, .mov, .null, .lit, .pcb, .br, .bri, .call, .calli] : List Opcode) ++
  ([.yield, .halt, .sysc, .trap, .eret, .csrr, .csrw, .icinv, .tlbinv, .setvl, .lclaim, .add, .sub, .mul] : List Opcode) ++
  ([.mulh, .mulhn, .div, .divn, .rem, .remn, .and, .or, .xor, .andn, .shl, .shr, .sra, .rotl] : List Opcode) ++
  ([.min, .max, .minn, .maxn, .clz, .ctz, .popc, .bswap, .sext, .zext, .bfx, .bfi, .sel, .teq] : List Opcode) ++
  ([.tne, .tlt, .tle, .tltn, .tlen, .tbit, .sptest, .spcast, .padd, .vadd, .vsub, .vmul, .vmulw, .vfma] : List Opcode) ++
  ([.vfms, .vdiv, .vsqrt, .vrcp, .vrsq, .vexp2, .vlog2, .vmin, .vmax, .vabs, .vneg, .vand, .vor, .vxor] : List Opcode) ++
  ([.vnot, .vshl, .vshr, .vsra, .vceq, .vcne, .vclt, .vcle, .vcun, .vclass, .vsel, .vfill, .vbcast, .vid] : List Opcode) ++
  ([.vcvt, .vscale, .vtag, .vsum, .vrmax, .vrmin, .vdot, .vperm, .vrot, .vslide, .vcomp, .vexpd, .vext, .vins] : List Opcode) ++
  ([.mand, .mor, .mxor, .mnot, .mpop, .mfirst, .ld, .st, .vld, .vlds, .vldx, .vldff, .vst, .vsts] : List Opcode) ++
  ([.vstx, .vsadd, .aadd, .aswap, .acas, .amin, .amax, .aand, .aor, .axor, .wjoin, .wfloor, .wnow, .wtest] : List Opcode) ++
  ([.mwait, .bar, .claimel, .pref, .mclaim, .mrel, .mmul, .mrd, .mwr, .mzero, .mdecay, .mspill, .mfill, .wcfg] : List Opcode) ++
  ([.wtable, .wload, .wloada, .wswap, .wexp, .wstat, .plock, .punlock, .plaunch, .pfence, .pstat, .vldp, .vstp, .cpset] : List Opcode) ++
  ([.cpgo, .cpqf, .cpstat, .cpabort] : List Opcode)

/-- The opcode of an OP field; none for 0x00 and the reserved ones (R85). -/
def opcodeOf (n : Nat) : Option Opcode := opcodeTable.find? (fun o => o.code == n)

/-- The LEN values an opcode may have (R86). -/
def Opcode.lens : Opcode → List Nat
  | .lit => [1, 2, 3]
  | .vld | .vlds | .vldx | .vldff | .vldp => [3]
  | .vfill | .vbcast | .st | .aadd | .aswap | .acas | .amin | .amax | .aand | .aor | .axor | .mwait
  | .claimel => [1, 3]
  | .rds | .rdv | .rdm | .wrs | .wrv | .wrm | .br | .bri | .call | .calli | .yield | .halt
  | .sysc | .eret | .icinv | .tlbinv | .setvl | .lclaim | .mclaim | .mrel | .punlock | .cpabort => [0]
  | .trap | .csrr | .csrw | .vid | .vcvt | .vtag | .ld | .vst | .vsts | .vstx | .vsadd | .pref
  | .mmul | .mrd | .mwr | .mzero | .mdecay | .mspill | .mfill | .wcfg | .wtable | .wload | .wloada | .wswap
  | .wexp | .wstat | .vstp => [1]
  | .pcb | .add | .sub | .mul | .mulh | .mulhn | .div | .divn | .rem | .remn | .and | .or
  | .xor | .andn | .shl | .shr | .sra | .rotl | .min | .max | .minn | .maxn | .sext | .zext
  | .bfx | .bfi | .sel | .teq | .tne | .tlt | .tle | .tltn | .tlen | .tbit | .spcast | .padd
  | .wjoin => [0, 1, 2, 3]
  | _ => [0, 1]

/-- The layouts of word 0 and word 1 (R78 to R84): register read, register write, direct exit, general, vector, memory, matrix. -/
inductive Layout where
  | rr | rw | j | gen | vec | mem | mx
  deriving DecidableEq, Repr
def Opcode.layout : Opcode → Layout
  | .rds | .rdv | .rdm => .rr
  | .wrs | .wrv | .wrm => .rw
  | .br | .call | .yield | .sysc => .j
  | .mmul | .mrd | .mwr | .mzero | .mdecay | .mspill | .mfill | .wcfg | .wtable | .wload | .wloada | .wswap
  | .wexp | .wstat => .mx
  | .ld | .st | .vld | .vlds | .vldx | .vldff | .vst | .vsts | .vstx | .vsadd | .aadd | .aswap
  | .acas | .amin | .amax | .aand | .aor | .axor | .mwait | .claimel | .pref | .vldp | .vstp => .mem
  | .vadd | .vsub | .vmul | .vmulw | .vfma | .vfms | .vdiv | .vsqrt | .vrcp | .vrsq | .vexp2 | .vlog2
  | .vmin | .vmax | .vabs | .vneg | .vand | .vor | .vxor | .vnot | .vshl | .vshr | .vsra | .vceq
  | .vcne | .vclt | .vcle | .vcun | .vclass | .vsel | .vfill | .vbcast | .vid | .vcvt | .vscale | .vtag
  | .vsum | .vrmax | .vrmin | .vdot | .vperm | .vrot | .vslide | .vcomp | .vexpd | .vext | .vins => .vec
  | _ => .gen

/-- The opcodes that produce no result: every target field is reserved (R88, order 4). -/
def Opcode.noResult : Opcode → Bool
  | .bri | .calli | .halt | .trap | .eret | .csrw | .icinv | .tlbinv | .wfloor | .pref | .mrel | .mmul
  | .mwr | .mzero | .mdecay | .mspill | .mfill | .wcfg | .wtable | .wload | .wloada | .wswap | .punlock | .cpset
  | .cpqf | .cpabort => true
  | _ => false

/-- The opcodes whose operand B, or whose value, may be an immediate: LEN 01, 10 and 11 (R86). -/
def Opcode.hasImm : Opcode → Bool
  | .lit | .pcb | .add | .sub | .mul | .mulh | .mulhn | .div | .divn | .rem | .remn | .and
  | .or | .xor | .andn | .shl | .shr | .sra | .rotl | .min | .max | .minn | .maxn | .sext
  | .zext | .bfx | .bfi | .sel | .teq | .tne | .tlt | .tle | .tltn | .tlen | .tbit | .spcast
  | .padd | .wjoin => true
  | _ => false

/-- The register file's size an R-layout opcode names (R80). -/
def Opcode.regs : Opcode → Nat
  | .rdv | .wrv => 32
  | .rdm | .wrm => 16
  | _ => 64
/-- What a memory-class opcode accepts (R166, R239). -/
def Opcode.accepts : Opcode → Accepts
  | .ld => Accepts.ld
  | .st => Accepts.st
  | .vld => Accepts.vld
  | .vlds => Accepts.vlds
  | .vldx => Accepts.vldx
  | .vldff => Accepts.vldff
  | .vst => Accepts.vst
  | .vstx => Accepts.vstx
  | .vsadd => Accepts.vsadd
  | .acas => Accepts.acas
  | .mwait => Accepts.mwait
  | .claimel => Accepts.claimel
  | .pref => Accepts.pref
  | .vldp => Accepts.vldp
  | .vstp => Accepts.vstp
  | .aadd | .aswap | .amin | .amax | .aand | .aor | .axor => Accepts.atomic
  | _ => Accepts.vsts

/-- The operand form of an instruction: its words in their layout, word 2 (and a memory class's literal) still a number. -/
inductive Form where
  | rr (f : RRead)
  | rw (f : RWrite)
  | j (f : JForm)
  | b (b : BForm)
  | p (p : Pred)
  | x (b : BForm) (x : Ext) (w2 : Word32)
  | px (p : Pred) (w2 : Word32)
  | imm (b : BForm) (m : Imm)
  | v (b : BForm) (v : VWord) (w2 : Word32) (lit : Option Word)
  | m (b : BForm) (m : MWord) (lit : Option Word)
  | k (k : KForm) (r : KRes) (w2 : Word32)
  deriving DecidableEq, Repr
/-- An instruction as its words give it. -/
structure Raw where
  op : Opcode
  form : Form
  deriving DecidableEq, Repr

/-- A decoded field: its value and, where it breaks a check of R88, the TINFO of that check; 0 where it breaks none. -/
structure Fld (α : Type) where
  val : α
  bad : Nat
/-- The check that comes first in R88's order: the least TINFO, 0 standing for none. -/
def worst (a b : Nat) : Nat := if a = 0 then b else if b = 0 then a else Nat.min a b
/-- Bits lo and up of w, m = 2^width. -/
def fld (w lo m : Nat) : Nat := w / 2 ^ lo % m
/-- A reserved field (TINFO 4). -/
def zero (n : Nat) : Nat := if n = 0 then 0 else 4
/-- An illegal value (TINFO 5). -/
def must (b : Bool) : Nat := if b then 0 else 5

def decPred (n : Nat) : Pred := if n = 2 then .onTrue else if n = 3 then .onFalse else .always
def encPred : Pred → Nat
  | .always => 0 | .onTrue => 2 | .onFalse => 3
def decOpnd (n : Nat) : Opnd := if n = 0 then .a else if n = 1 then .b else if n = 2 then .c else .p
def encOpnd : Opnd → Nat
  | .a => 0 | .b => 1 | .c => 2 | .p => 3
/-- A target field (R79). -/
def decTgt (n : Nat) : Fld Target :=
  if n / 512 = 1 then ⟨some ⟨decOpnd (n / 128 % 4), BitVec.ofNat 7 (n % 128)⟩, 0⟩ else ⟨none, zero n⟩
def encTgt : Target → Nat
  | none => 0
  | some t => 512 + 128 * encOpnd t.opnd + t.slot.toNat
def encBool (b : Bool) : Nat := if b then 1 else 0
def decBool (n : Nat) : Bool := n == 1

/-- Word 0, B layout (R78). -/
def decB (w0 : Nat) : Fld BForm :=
  let a := decTgt (fld w0 12 1024); let b := decTgt (fld w0 22 1024)
  ⟨⟨decPred (fld w0 10 4), a.val, b.val⟩, worst a.bad b.bad⟩
def encB (op : Opcode) (len : Nat) (b : BForm) : Nat :=
  len + 4 * op.code + 1024 * encPred b.pr + 4096 * encTgt b.t0 + 4194304 * encTgt b.t1
/-- Word 0, B layout, of an instruction with no result: T0 and T1 are reserved (R88). -/
def decP (w0 : Nat) : Fld Pred := ⟨decPred (fld w0 10 4), zero (fld w0 12 1048576)⟩
def encP (op : Opcode) (len : Nat) (p : Pred) : Nat := len + 4 * op.code + 1024 * encPred p
/-- General word 1 outside the vector opcodes: bits [31:20] are zero (R82). -/
def decExt (w1 : Nat) : Fld Ext :=
  let a := decTgt (fld w1 0 1024); let b := decTgt (fld w1 10 1024)
  ⟨⟨a.val, b.val⟩, worst (zero (w1 / 1048576)) (worst a.bad b.bad)⟩
def encExt (x : Ext) : Nat := encTgt x.t2 + 1024 * encTgt x.t3
def decRound (n : Nat) : Fld RoundMode :=
  match n with
  | 0 => ⟨.dyn, 0⟩ | 1 => ⟨.rne, 0⟩ | 2 => ⟨.rtz, 0⟩ | 3 => ⟨.rdn, 0⟩ | 4 => ⟨.rup, 0⟩ | 5 => ⟨.rna, 0⟩
  | _ => ⟨.dyn, 5⟩
def encRound : RoundMode → Nat
  | .dyn => 0 | .rne => 1 | .rtz => 2 | .rdn => 3 | .rup => 4 | .rna => 5
/-- General word 1 of a vector instruction (R82). -/
def decV (w1 : Nat) : Fld VWord :=
  let a := decTgt (fld w1 0 1024); let b := decTgt (fld w1 10 1024); let r := decRound (fld w1 24 8)
  let v : VWord := ⟨a.val, b.val, BitVec.ofNat 4 (fld w1 20 16), r.val, decBool (fld w1 27 2), decBool (fld w1 28 2)⟩
  ⟨v, worst (zero (fld w1 29 8)) (worst (worst a.bad b.bad) (worst r.bad (must (vwordOk v))))⟩
def encV (v : VWord) : Nat :=
  encTgt v.t2 + 1024 * encTgt v.t3 + 1048576 * v.xsel.toNat + 16777216 * encRound v.rm + 134217728 * encBool v.sat +
  268435456 * encBool v.xm
/-- A result tag in word 2 or a literal (R137); `ok` is what the opcode asks of its fields. -/
def tagBad (ok : BitVec 16 → Bool) (n : Nat) : Nat := worst (zero (n / 8192)) (must (ok (BitVec.ofNat 16 (n % 8192))))
def decSpace (n : Nat) : Fld Space :=
  match n with
  | 0 => ⟨.generic, 0⟩ | 1 => ⟨.global, 0⟩ | 2 => ⟨.priv, 0⟩ | 3 => ⟨.scratch, 0⟩ | 4 => ⟨.shared, 0⟩
  | _ => ⟨.generic, 5⟩
def encSpace : Space → Nat
  | .generic => 0 | .global => 1 | .priv => 2 | .scratch => 3 | .shared => 4
/-- A word-1 flag the instruction does not accept counts as a reserved bit (R83). -/
def flagBad (accepted v : Bool) : Nat := if accepted || !v then 0 else 4
/-- Memory words 1 and 2 (R83, R166). -/
def decM (a : Accepts) (w1 w2 : Nat) : Fld MWord :=
  let t := decTgt (fld w1 0 1024); let sp := decSpace (fld w1 18 8); let sz := fld w1 15 8
  let m : MWord := ⟨t.val, BitVec.ofNat 5 (fld w1 10 32), BitVec.ofNat 2 sz, sp.val, decBool (fld w1 21 2),
    decBool (fld w1 22 2), decBool (fld w1 23 2), decBool (fld w1 24 2), decBool (fld w1 25 2), decBool (fld w1 26 2),
    BitVec.ofNat 32 w2⟩
  let flags := worst (worst (worst (flagBad a.wi m.wi) (flagBad a.rw m.rw)) (worst (flagBad a.fr m.fr) (flagBad a.sx m.sx)))
    (worst (flagBad a.ord m.ord) (flagBad a.ff m.ff))
  let size := if a.sizes = .vector then zero sz else must (sz < 4 && (a.sizes == .all || 2 ≤ sz))
  let values := worst sp.bad (must (!(m.ff && m.rw) && (!a.planes || m.sp == .generic || m.sp == .global)))
  ⟨m, worst (worst t.bad (zero (w1 / 134217728))) (worst flags (worst size values))⟩
def encM (m : MWord) : Nat :=
  encTgt m.t2 + 1024 * m.lsid.toNat + 32768 * m.sz.toNat + 262144 * encSpace m.sp + 2097152 * encBool m.wi +
  4194304 * encBool m.rw + 8388608 * encBool m.fr + 16777216 * encBool m.sx + 33554432 * encBool m.ord + 67108864 * encBool m.ff
/-- Word 0 and matrix word 1 (R84). -/
def decK (w0 w1 : Nat) : Fld KForm :=
  ⟨⟨decPred (fld w0 10 4), BitVec.ofNat 4 (fld w1 10 16)⟩, zero (w1 / 16384)⟩
def decKR (w0 w1 : Nat) : Fld KRes :=
  let a := decTgt (fld w0 12 1024); let b := decTgt (fld w0 22 1024); let c := decTgt (fld w1 0 1024)
  ⟨⟨a.val, b.val, c.val⟩, worst (worst a.bad b.bad) c.bad⟩
/-- The target fields T0 to T2 are zero (R88). -/
def noRes (w0 w1 : Nat) : Nat := worst (zero (fld w0 12 1048576)) (zero (fld w1 0 1024))
/-- COUNT or INDEX of `m` = 2^width codes in the low bits, IB at bit 31 (R136): without IB the field is reserved. -/
def ibBad (m n : Nat) : Nat := if n / 2147483648 = 1 then zero (n % 2147483648 / m) else zero n

/-- What is wrong with word 2 where it is no operand (R86, R136, R190, R192, R200, R239). -/
def Opcode.w2Bad (op : Opcode) (n : Nat) : Nat :=
  match op with
  | .trap => zero (n / 65536)
  | .csrr => worst (zero (n / 4096)) (must (csrAssigned (n % 4096)))
  | .csrw => worst (zero (n / 4096)) (must (csrWritable (n % 4096)))
  | .vclass => zero (n / 1024)
  | .vid => tagBad tagIntOk n
  | .vscale => zero (n / 256)
  | .vslide => ibBad 16384 (n % 1073741824 + 2147483648 * (n / 2147483648))
  | .wtest => worst (zero (n / 4)) (must (n % 4 != 3))
  | .bar => worst (zero (n / 65536 + fld n 10 32)) (must (fld n 4 64 ≤ 32))
  | .mmul => worst (zero (n / 262144)) (must (fld n 9 4 != 3))
  | .mzero => zero (n / 8192)
  | .mspill => worst (zero (n / 32 + fld n 2 2 + (if fld n 3 4 = 0 then 0 else n % 4))) (must (fld n 3 4 != 3))
  | .mfill => worst (zero (n / 32 + (if fld n 3 4 = 0 then 0 else n % 4))) (must (fld n 3 4 != 3))
  | .wloada => zero (n / 512)
  | .plock => zero (n / 4)
  | .cpset => worst (zero (n / 32)) (must (n % 32 < 18))
  | .cpqf => zero (n / 65536 + fld n 3 32)
  | .mrd | .mwr => zero (n / 524288)
  | .vshl | .vshr | .vsra => ibBad 256 n
  | .vrot | .vext | .vins => ibBad 16384 n
  | .vfill | .vbcast | .vcvt | .vtag => tagBad tagOk n
  | .vmulw | .vdot | .wload | .wstat | .pstat => zero (n / 2)
  | _ => zero n
/-- What is wrong with the literal of a memory-class instruction: the result tag of the vector loads (R86, R179, R262). -/
def Opcode.litBad (op : Opcode) (n : Nat) : Nat :=
  match op with
  | .vld => tagBad tagOk n
  | .vlds | .vldx | .vldff => tagBad tagPlainOk n
  | .vldp => tagBad tagIntOk n
  | _ => 0

/-- The fields of a word whose OP, LEN and PR have passed (R88, orders 4 and 5). -/
def decForm (op : Opcode) (len w0 w1 w2 lit : Nat) : Fld Form :=
  match op.layout with
  | .rr =>
    let t := decTgt (fld w0 18 1024)
    ⟨.rr ⟨decPred (fld w0 10 4), BitVec.ofNat 6 (fld w0 12 64), t.val⟩,
      worst (worst (zero (fld w0 28 16)) t.bad) (must (fld w0 12 64 < op.regs))⟩
  | .rw =>
    ⟨.rw ⟨decPred (fld w0 10 4), BitVec.ofNat 6 (fld w0 12 64)⟩, worst (zero (fld w0 18 16384)) (must (fld w0 12 64 < op.regs))⟩
  | .j => ⟨.j ⟨decPred (fld w0 10 4), BitVec.ofNat 20 (fld w0 12 1048576)⟩, 0⟩
  | .gen =>
    let x := decExt w1
    if op.noResult then
      let p := decP w0
      if len = 0 then ⟨.p p.val, p.bad⟩
      else ⟨.px p.val (BitVec.ofNat 32 w2), worst (worst p.bad (zero w1)) (op.w2Bad w2)⟩
    else
      let b := decB w0
      if len = 0 then ⟨.b b.val, b.bad⟩
      else if op.hasImm then
        if len = 1 then ⟨.imm b.val (.word x.val (BitVec.ofNat 32 w2)), worst b.bad x.bad⟩
        else if len = 2 then ⟨.imm b.val (.lit (BitVec.ofNat 64 lit)), b.bad⟩
        else ⟨.imm b.val (.litX x.val (BitVec.ofNat 64 lit)), worst (worst b.bad x.bad) (zero w2)⟩
      else ⟨.x b.val x.val (BitVec.ofNat 32 w2), worst (worst b.bad x.bad) (op.w2Bad w2)⟩
  | .vec =>
    let b := decB w0
    if len = 0 then ⟨.b b.val, b.bad⟩
    else
      let v := decV w1
      ⟨.v b.val v.val (BitVec.ofNat 32 w2) (if len = 3 then some (BitVec.ofNat 64 lit) else none),
        worst (worst b.bad v.bad) (op.w2Bad w2)⟩
  | .mem =>
    let b := decB w0; let m := decM op.accepts w1 w2
    ⟨.m b.val m.val (if len = 3 then some (BitVec.ofNat 64 lit) else none),
      worst (worst (if op.noResult then noRes w0 w1 else 0) (worst b.bad m.bad)) (if len = 3 then op.litBad lit else 0)⟩
  | .mx =>
    let k := decK w0 w1; let r := decKR w0 w1
    ⟨.k k.val r.val (BitVec.ofNat 32 w2), worst (worst k.bad (if op.noResult then noRes w0 w1 else r.bad)) (op.w2Bad w2)⟩

/-- What decoding a slot gives: the instruction and how many words it takes, ILLEGAL with its TINFO, or too few words. -/
inductive Decoded where
  | ok (r : Raw) (len : Nat)
  | illegal (tinfo : Nat)
  | short
  deriving DecidableEq, Repr

/-- The words an instruction of a LEN takes (R77). -/
def lenWords (len : Nat) : Nat := if len = 0 then 1 else if len = 3 then 5 else 3
/-- Word k of a slot, 0 beyond its end. -/
def wordAt (ws : List Word32) (k : Nat) : Nat := (ws[k]?.getD 0).toNat
/-- The two words of a literal from word k (R77). -/
def litAt (ws : List Word32) (k : Nat) : Nat := wordAt ws k + 4294967296 * wordAt ws (k + 1)

/-- Decodes the instruction that begins the words, in the order of R88. A slot whose word 0 lies in the extent and whose later words do not has
word 0 checked by orders 1 to 3, then gives code 1, before any check of orders 4 and 5 (DESIGN CHOICE, log entry 63). -/
def decodeSlot (ws : List Word32) : Decoded :=
  match ws with
  | [] => .short
  | _ :: _ =>
    let w0 := wordAt ws 0; let len := w0 % 4
    match opcodeOf (fld w0 2 256) with
    | none => .illegal 1
    | some op =>
      if !op.lens.contains len then .illegal 2
      else if fld w0 10 4 = 1 then .illegal 3
      else if ws.length < lenWords len then .short
      else
        let r := if len = 0 then decForm op 0 w0 0 0 0
          else if len = 2 then decForm op 2 w0 0 0 (litAt ws 1)
          else decForm op len w0 (wordAt ws 1) (wordAt ws 2) (if len = 3 then litAt ws 3 else 0)
        if r.bad = 0 then .ok ⟨op, r.val⟩ (lenWords len) else .illegal r.bad

def ibOf (k : Nat) (w2 : Word32) : Option (BitVec k) := if w2.msb then some (w2.setWidth k) else none
def encIb {k : Nat} : Option (BitVec k) → Word32
  | none => 0
  | some n => BitVec.ofNat 32 (2147483648 + n.toNat)
def accOf (n : Nat) : AccMode := if n = 0 then .overwrite else if n = 1 then .accumulate else .decay
def encAcc : AccMode → Nat
  | .overwrite => 0 | .accumulate => 1 | .decay => 2
/-- BANK and UNIT of MSPILL and MFILL (R200): bits [1:0] and [4:3]. -/
def unitOf (w2 : Word32) : MxUnit :=
  if fld w2.toNat 3 4 = 0 then .bank (w2.setWidth 2) else if fld w2.toNat 3 4 = 1 then .front else .back
def encUnit : MxUnit → Nat
  | .bank b => b.toNat | .front => 8 | .back => 16
def bitOf (w2 : Word32) (k : Nat) : Bool := w2.getLsbD k

/-- The instruction of a form, where the form is the constructor's. -/
noncomputable def asRR (c : RRead → Instr) : Form → Option Instr
  | .rr f => some (c f) | _ => none
noncomputable def asRW (c : RWrite → Instr) : Form → Option Instr
  | .rw f => some (c f) | _ => none
noncomputable def asJ (c : JForm → Instr) : Form → Option Instr
  | .j f => some (c f) | _ => none
noncomputable def asB (c : BForm → Instr) : Form → Option Instr
  | .b b => some (c b) | _ => none
noncomputable def asP (c : Pred → Instr) : Form → Option Instr
  | .p p => some (c p) | _ => none
noncomputable def asX (d : BForm → Ext → Word32 → Instr) : Form → Option Instr
  | .x b x w => some (d b x w) | _ => none
noncomputable def asPX (d : Pred → Word32 → Instr) : Form → Option Instr
  | .px p w => some (d p w) | _ => none
noncomputable def asBX (c : BForm → Instr) (d : BForm → Ext → Word32 → Instr) : Form → Option Instr
  | .b b => some (c b) | .x b x w => some (d b x w) | _ => none
noncomputable def asPP (c : Pred → Instr) (d : Pred → Word32 → Instr) : Form → Option Instr
  | .p p => some (c p) | .px p w => some (d p w) | _ => none
noncomputable def asI (d : BForm → Imm → Instr) : Form → Option Instr
  | .imm b m => some (d b m) | _ => none
noncomputable def asBI (c : BForm → Instr) (d : BForm → Imm → Instr) : Form → Option Instr
  | .b b => some (c b) | .imm b m => some (d b m) | _ => none
noncomputable def asV (d : BForm → VWord → Word32 → Option Word → Instr) : Form → Option Instr
  | .v b v w l => some (d b v w l) | _ => none
noncomputable def asBV (c : BForm → Instr) (d : BForm → VWord → Word32 → Instr) : Form → Option Instr
  | .b b => some (c b) | .v b v w _ => some (d b v w) | _ => none
noncomputable def asM (d : BForm → MWord → Option Word → Instr) : Form → Option Instr
  | .m b m l => some (d b m l) | _ => none
noncomputable def asK (d : KForm → KRes → Word32 → Instr) : Form → Option Instr
  | .k k r w => some (d k r w) | _ => none

/-- The instruction a decoded word is. -/
noncomputable def Raw.instr (r : Raw) : Option Instr :=
  match r.op with
  | .rds => asRR .rds r.form
  | .rdv => asRR .rdv r.form
  | .rdm => asRR .rdm r.form
  | .wrs => asRW .wrs r.form
  | .wrv => asRW .wrv r.form
  | .wrm => asRW .wrm r.form
  | .mov => asBX .mov (fun b x _ => .movExt b x) r.form
  | .null => asBX .null (fun b x _ => .nullExt b x) r.form
  | .lit => asI .lit r.form
  | .pcb => asBI .pcb .pcbExt r.form
  | .br => asJ .br r.form
  | .bri => asP .bri r.form
  | .call => asJ .call r.form
  | .calli => asP .calli r.form
  | .yield => asJ .yield r.form
  | .halt => asP .halt r.form
  | .sysc => asJ .sysc r.form
  | .trap => asPX (fun p w => .trap p (w.setWidth 16)) r.form
  | .eret => asP .eret r.form
  | .csrr => asX (fun b x w => .csrr b x (w.setWidth 12)) r.form
  | .csrw => asPX (fun p w => .csrw p (w.setWidth 12)) r.form
  | .icinv => asP .icinv r.form
  | .tlbinv => asP .tlbinv r.form
  | .setvl => asB .setvl r.form
  | .lclaim => asB .lclaim r.form
  | .add => asBI .add .addImm r.form
  | .sub => asBI .sub .subImm r.form
  | .mul => asBI .mul .mulImm r.form
  | .mulh => asBI .mulh .mulhImm r.form
  | .mulhn => asBI .mulhn .mulhnImm r.form
  | .div => asBI .div .divImm r.form
  | .divn => asBI .divn .divnImm r.form
  | .rem => asBI .rem .remImm r.form
  | .remn => asBI .remn .remnImm r.form
  | .and => asBI .and .andImm r.form
  | .or => asBI .or .orImm r.form
  | .xor => asBI .xor .xorImm r.form
  | .andn => asBI .andn .andnImm r.form
  | .shl => asBI .shl .shlImm r.form
  | .shr => asBI .shr .shrImm r.form
  | .sra => asBI .sra .sraImm r.form
  | .rotl => asBI .rotl .rotlImm r.form
  | .min => asBI .min .minImm r.form
  | .max => asBI .max .maxImm r.form
  | .minn => asBI .minn .minnImm r.form
  | .maxn => asBI .maxn .maxnImm r.form
  | .clz => asBX .clz (fun b x _ => .clzExt b x) r.form
  | .ctz => asBX .ctz (fun b x _ => .ctzExt b x) r.form
  | .popc => asBX .popc (fun b x _ => .popcExt b x) r.form
  | .bswap => asBX .bswap (fun b x _ => .bswapExt b x) r.form
  | .sext => asBI .sext .sextImm r.form
  | .zext => asBI .zext .zextImm r.form
  | .bfx => asBI .bfx .bfxImm r.form
  | .bfi => asBI .bfi .bfiImm r.form
  | .sel => asBI .sel .selImm r.form
  | .teq => asBI .teq .teqImm r.form
  | .tne => asBI .tne .tneImm r.form
  | .tlt => asBI .tlt .tltImm r.form
  | .tle => asBI .tle .tleImm r.form
  | .tltn => asBI .tltn .tltnImm r.form
  | .tlen => asBI .tlen .tlenImm r.form
  | .tbit => asBI .tbit .tbitImm r.form
  | .sptest => asBX .sptest (fun b x _ => .sptestExt b x) r.form
  | .spcast => asBI .spcast .spcastImm r.form
  | .padd => asBI .padd .paddImm r.form
  | .vadd => asBV .vadd (fun b v _ => .vaddExt b v) r.form
  | .vsub => asBV .vsub (fun b v _ => .vsubExt b v) r.form
  | .vmul => asBV .vmul (fun b v _ => .vmulExt b v) r.form
  | .vmulw => asBV .vmulw (fun b v w => .vmulwExt b v (bitOf w 0)) r.form
  | .vfma => asBV .vfma (fun b v _ => .vfmaExt b v) r.form
  | .vfms => asBV .vfms (fun b v _ => .vfmsExt b v) r.form
  | .vdiv => asBV .vdiv (fun b v _ => .vdivExt b v) r.form
  | .vsqrt => asBV .vsqrt (fun b v _ => .vsqrtExt b v) r.form
  | .vrcp => asBV .vrcp (fun b v _ => .vrcpExt b v) r.form
  | .vrsq => asBV .vrsq (fun b v _ => .vrsqExt b v) r.form
  | .vexp2 => asBV .vexp2 (fun b v _ => .vexp2Ext b v) r.form
  | .vlog2 => asBV .vlog2 (fun b v _ => .vlog2Ext b v) r.form
  | .vmin => asBV .vmin (fun b v _ => .vminExt b v) r.form
  | .vmax => asBV .vmax (fun b v _ => .vmaxExt b v) r.form
  | .vabs => asBV .vabs (fun b v _ => .vabsExt b v) r.form
  | .vneg => asBV .vneg (fun b v _ => .vnegExt b v) r.form
  | .vand => asBV .vand (fun b v _ => .vandExt b v) r.form
  | .vor => asBV .vor (fun b v _ => .vorExt b v) r.form
  | .vxor => asBV .vxor (fun b v _ => .vxorExt b v) r.form
  | .vnot => asBV .vnot (fun b v _ => .vnotExt b v) r.form
  | .vshl => asBV .vshl (fun b v w => .vshlExt b v (ibOf 8 w)) r.form
  | .vshr => asBV .vshr (fun b v w => .vshrExt b v (ibOf 8 w)) r.form
  | .vsra => asBV .vsra (fun b v w => .vsraExt b v (ibOf 8 w)) r.form
  | .vceq => asBV .vceq (fun b v _ => .vceqExt b v) r.form
  | .vcne => asBV .vcne (fun b v _ => .vcneExt b v) r.form
  | .vclt => asBV .vclt (fun b v _ => .vcltExt b v) r.form
  | .vcle => asBV .vcle (fun b v _ => .vcleExt b v) r.form
  | .vcun => asBV .vcun (fun b v _ => .vcunExt b v) r.form
  | .vclass => asBV .vclass (fun b v w => .vclassExt b v (w.setWidth 10)) r.form
  | .vsel => asBV .vsel (fun b v _ => .vselExt b v) r.form
  | .vfill => asV (fun b v w l => .vfill b v (w.setWidth 16) l) r.form
  | .vbcast => asV (fun b v w l => .vbcast b v (w.setWidth 16) l) r.form
  | .vid => asV (fun b v w _ => .vid b v (w.setWidth 16)) r.form
  | .vcvt => asV (fun b v w _ => .vcvt b v (w.setWidth 16)) r.form
  | .vscale => asBV .vscale (fun b v w => .vscaleExt b v (w.setWidth 8)) r.form
  | .vtag => asV (fun b v w _ => .vtag b v (w.setWidth 16)) r.form
  | .vsum => asBV .vsum (fun b v _ => .vsumExt b v) r.form
  | .vrmax => asBV .vrmax (fun b v _ => .vrmaxExt b v) r.form
  | .vrmin => asBV .vrmin (fun b v _ => .vrminExt b v) r.form
  | .vdot => asBV .vdot (fun b v w => .vdotExt b v (bitOf w 0)) r.form
  | .vperm => asBV .vperm (fun b v _ => .vpermExt b v) r.form
  | .vrot => asBV .vrot (fun b v w => .vrotExt b v (ibOf 14 w)) r.form
  | .vslide => asBV .vslide (fun b v w => .vslideExt b v (ibOf 14 w) (bitOf w 30)) r.form
  | .vcomp => asBV .vcomp (fun b v _ => .vcompExt b v) r.form
  | .vexpd => asBV .vexpd (fun b v _ => .vexpdExt b v) r.form
  | .vext => asBV .vext (fun b v w => .vextExt b v (ibOf 14 w)) r.form
  | .vins => asBV .vins (fun b v w => .vinsExt b v (ibOf 14 w)) r.form
  | .mand => asBX .mand (fun b x _ => .mandExt b x) r.form
  | .mor => asBX .mor (fun b x _ => .morExt b x) r.form
  | .mxor => asBX .mxor (fun b x _ => .mxorExt b x) r.form
  | .mnot => asBX .mnot (fun b x _ => .mnotExt b x) r.form
  | .mpop => asBX .mpop (fun b x _ => .mpopExt b x) r.form
  | .mfirst => asBX .mfirst (fun b x _ => .mfirstExt b x) r.form
  | .ld => asM (fun b m _ => .ld b m) r.form
  | .st => asM .st r.form
  | .vld => asM (fun b m l => .vld b m ((l.getD 0).setWidth 16)) r.form
  | .vlds => asM (fun b m l => .vlds b m ((l.getD 0).setWidth 16)) r.form
  | .vldx => asM (fun b m l => .vldx b m ((l.getD 0).setWidth 16)) r.form
  | .vldff => asM (fun b m l => .vldff b m ((l.getD 0).setWidth 16)) r.form
  | .vst => asM (fun b m _ => .vst b m) r.form
  | .vsts => asM (fun b m _ => .vsts b m) r.form
  | .vstx => asM (fun b m _ => .vstx b m) r.form
  | .vsadd => asM (fun b m _ => .vsadd b m) r.form
  | .aadd => asM .aadd r.form
  | .aswap => asM .aswap r.form
  | .acas => asM .acas r.form
  | .amin => asM .amin r.form
  | .amax => asM .amax r.form
  | .aand => asM .aand r.form
  | .aor => asM .aor r.form
  | .axor => asM .axor r.form
  | .wjoin => asBI .wjoin .wjoinImm r.form
  | .wfloor => asPP .wfloor (fun p _ => .wfloorExt p) r.form
  | .wnow => asBX .wnow (fun b x _ => .wnowExt b x) r.form
  | .wtest => asBX .wtest (fun b x w => .wtestExt b x (w.setWidth 2)) r.form
  | .mwait => asM .mwait r.form
  | .bar => asBX .bar (fun b x w => .barExt b x (w.setWidth 4) (w.extractLsb' 4 6) (bitOf w 15)) r.form
  | .claimel => asM .claimel r.form
  | .pref => asM (fun b m _ => .pref b m) r.form
  | .mclaim => asB .mclaim r.form
  | .mrel => asP .mrel r.form
  | .mmul => asK (fun k _ w => .mmul k (w.setWidth 9) (accOf (fld w.toNat 9 4)) (w.extractLsb' 11 6) (bitOf w 17)) r.form
  | .mrd => asK (fun k r w => .mrd k r (w.setWidth 9) (w.extractLsb' 9 4) (w.extractLsb' 13 6)) r.form
  | .mwr => asK (fun k _ w => .mwr k (w.setWidth 9) (w.extractLsb' 9 4) (w.extractLsb' 13 6)) r.form
  | .mzero => asK (fun k _ w => .mzero k (w.setWidth 9) (w.extractLsb' 9 4)) r.form
  | .mdecay => asK (fun k _ _ => .mdecay k) r.form
  | .mspill => asK (fun k _ w => .mspill k (unitOf w)) r.form
  | .mfill => asK (fun k _ w => .mfill k (unitOf w) (bitOf w 2)) r.form
  | .wcfg => asK (fun k _ _ => .wcfg k) r.form
  | .wtable => asK (fun k _ _ => .wtable k) r.form
  | .wload => asK (fun k _ w => .wload k (bitOf w 0)) r.form
  | .wloada => asK (fun k _ w => .wloada k (w.setWidth 9)) r.form
  | .wswap => asK (fun k _ _ => .wswap k) r.form
  | .wexp => asK (fun k r _ => .wexp k r) r.form
  | .wstat => asK (fun k r w => .wstat k r (bitOf w 0)) r.form
  | .plock => asBX .plock (fun b x w => .plockExt b x (bitOf w 0) (bitOf w 1)) r.form
  | .punlock => asP .punlock r.form
  | .plaunch => asBX .plaunch (fun b x _ => .plaunchExt b x) r.form
  | .pfence => asBX .pfence (fun b x _ => .pfenceExt b x) r.form
  | .pstat => asBX .pstat (fun b x w => .pstatExt b x (bitOf w 0)) r.form
  | .vldp => asM (fun b m l => .vldp b m ((l.getD 0).setWidth 16)) r.form
  | .vstp => asM (fun b m _ => .vstp b m) r.form
  | .cpset => asPP .cpset (fun p w => .cpsetExt p (w.setWidth 5)) r.form
  | .cpgo => asBX .cpgo (fun b x _ => .cpgoExt b x) r.form
  | .cpqf => asPP .cpqf (fun p w => .cpqfExt p (w.setWidth 3) (w.extractLsb' 8 8)) r.form
  | .cpstat => asBX .cpstat (fun b x _ => .cpstatExt b x) r.form
  | .cpabort => asP .cpabort r.form

/-- The Raw of an instruction; none for a furrow word or an event. -/
def rawOf : Instr → Option Raw
  | .rds f => some ⟨.rds, .rr f⟩
  | .rdv f => some ⟨.rdv, .rr f⟩
  | .rdm f => some ⟨.rdm, .rr f⟩
  | .wrs f => some ⟨.wrs, .rw f⟩
  | .wrv f => some ⟨.wrv, .rw f⟩
  | .wrm f => some ⟨.wrm, .rw f⟩
  | .mov b => some ⟨.mov, .b b⟩
  | .movExt b x => some ⟨.mov, .x b x 0⟩
  | .null b => some ⟨.null, .b b⟩
  | .nullExt b x => some ⟨.null, .x b x 0⟩
  | .lit b m => some ⟨.lit, .imm b m⟩
  | .pcb b => some ⟨.pcb, .b b⟩
  | .pcbExt b m => some ⟨.pcb, .imm b m⟩
  | .br j => some ⟨.br, .j j⟩
  | .bri p => some ⟨.bri, .p p⟩
  | .call j => some ⟨.call, .j j⟩
  | .calli p => some ⟨.calli, .p p⟩
  | .yield j => some ⟨.yield, .j j⟩
  | .halt p => some ⟨.halt, .p p⟩
  | .sysc j => some ⟨.sysc, .j j⟩
  | .trap p code => some ⟨.trap, .px p (code.setWidth 32)⟩
  | .eret p => some ⟨.eret, .p p⟩
  | .csrr b x csr => some ⟨.csrr, .x b x (csr.setWidth 32)⟩
  | .csrw p csr => some ⟨.csrw, .px p (csr.setWidth 32)⟩
  | .icinv p => some ⟨.icinv, .p p⟩
  | .tlbinv p => some ⟨.tlbinv, .p p⟩
  | .setvl b => some ⟨.setvl, .b b⟩
  | .lclaim b => some ⟨.lclaim, .b b⟩
  | .add b => some ⟨.add, .b b⟩
  | .addImm b m => some ⟨.add, .imm b m⟩
  | .sub b => some ⟨.sub, .b b⟩
  | .subImm b m => some ⟨.sub, .imm b m⟩
  | .mul b => some ⟨.mul, .b b⟩
  | .mulImm b m => some ⟨.mul, .imm b m⟩
  | .mulh b => some ⟨.mulh, .b b⟩
  | .mulhImm b m => some ⟨.mulh, .imm b m⟩
  | .mulhn b => some ⟨.mulhn, .b b⟩
  | .mulhnImm b m => some ⟨.mulhn, .imm b m⟩
  | .div b => some ⟨.div, .b b⟩
  | .divImm b m => some ⟨.div, .imm b m⟩
  | .divn b => some ⟨.divn, .b b⟩
  | .divnImm b m => some ⟨.divn, .imm b m⟩
  | .rem b => some ⟨.rem, .b b⟩
  | .remImm b m => some ⟨.rem, .imm b m⟩
  | .remn b => some ⟨.remn, .b b⟩
  | .remnImm b m => some ⟨.remn, .imm b m⟩
  | .and b => some ⟨.and, .b b⟩
  | .andImm b m => some ⟨.and, .imm b m⟩
  | .or b => some ⟨.or, .b b⟩
  | .orImm b m => some ⟨.or, .imm b m⟩
  | .xor b => some ⟨.xor, .b b⟩
  | .xorImm b m => some ⟨.xor, .imm b m⟩
  | .andn b => some ⟨.andn, .b b⟩
  | .andnImm b m => some ⟨.andn, .imm b m⟩
  | .shl b => some ⟨.shl, .b b⟩
  | .shlImm b m => some ⟨.shl, .imm b m⟩
  | .shr b => some ⟨.shr, .b b⟩
  | .shrImm b m => some ⟨.shr, .imm b m⟩
  | .sra b => some ⟨.sra, .b b⟩
  | .sraImm b m => some ⟨.sra, .imm b m⟩
  | .rotl b => some ⟨.rotl, .b b⟩
  | .rotlImm b m => some ⟨.rotl, .imm b m⟩
  | .min b => some ⟨.min, .b b⟩
  | .minImm b m => some ⟨.min, .imm b m⟩
  | .max b => some ⟨.max, .b b⟩
  | .maxImm b m => some ⟨.max, .imm b m⟩
  | .minn b => some ⟨.minn, .b b⟩
  | .minnImm b m => some ⟨.minn, .imm b m⟩
  | .maxn b => some ⟨.maxn, .b b⟩
  | .maxnImm b m => some ⟨.maxn, .imm b m⟩
  | .clz b => some ⟨.clz, .b b⟩
  | .clzExt b x => some ⟨.clz, .x b x 0⟩
  | .ctz b => some ⟨.ctz, .b b⟩
  | .ctzExt b x => some ⟨.ctz, .x b x 0⟩
  | .popc b => some ⟨.popc, .b b⟩
  | .popcExt b x => some ⟨.popc, .x b x 0⟩
  | .bswap b => some ⟨.bswap, .b b⟩
  | .bswapExt b x => some ⟨.bswap, .x b x 0⟩
  | .sext b => some ⟨.sext, .b b⟩
  | .sextImm b m => some ⟨.sext, .imm b m⟩
  | .zext b => some ⟨.zext, .b b⟩
  | .zextImm b m => some ⟨.zext, .imm b m⟩
  | .bfx b => some ⟨.bfx, .b b⟩
  | .bfxImm b m => some ⟨.bfx, .imm b m⟩
  | .bfi b => some ⟨.bfi, .b b⟩
  | .bfiImm b m => some ⟨.bfi, .imm b m⟩
  | .sel b => some ⟨.sel, .b b⟩
  | .selImm b m => some ⟨.sel, .imm b m⟩
  | .teq b => some ⟨.teq, .b b⟩
  | .teqImm b m => some ⟨.teq, .imm b m⟩
  | .tne b => some ⟨.tne, .b b⟩
  | .tneImm b m => some ⟨.tne, .imm b m⟩
  | .tlt b => some ⟨.tlt, .b b⟩
  | .tltImm b m => some ⟨.tlt, .imm b m⟩
  | .tle b => some ⟨.tle, .b b⟩
  | .tleImm b m => some ⟨.tle, .imm b m⟩
  | .tltn b => some ⟨.tltn, .b b⟩
  | .tltnImm b m => some ⟨.tltn, .imm b m⟩
  | .tlen b => some ⟨.tlen, .b b⟩
  | .tlenImm b m => some ⟨.tlen, .imm b m⟩
  | .tbit b => some ⟨.tbit, .b b⟩
  | .tbitImm b m => some ⟨.tbit, .imm b m⟩
  | .sptest b => some ⟨.sptest, .b b⟩
  | .sptestExt b x => some ⟨.sptest, .x b x 0⟩
  | .spcast b => some ⟨.spcast, .b b⟩
  | .spcastImm b m => some ⟨.spcast, .imm b m⟩
  | .padd b => some ⟨.padd, .b b⟩
  | .paddImm b m => some ⟨.padd, .imm b m⟩
  | .vadd b => some ⟨.vadd, .b b⟩
  | .vaddExt b v => some ⟨.vadd, .v b v 0 none⟩
  | .vsub b => some ⟨.vsub, .b b⟩
  | .vsubExt b v => some ⟨.vsub, .v b v 0 none⟩
  | .vmul b => some ⟨.vmul, .b b⟩
  | .vmulExt b v => some ⟨.vmul, .v b v 0 none⟩
  | .vmulw b => some ⟨.vmulw, .b b⟩
  | .vmulwExt b v odd => some ⟨.vmulw, .v b v (BitVec.ofNat 32 (encBool odd)) none⟩
  | .vfma b => some ⟨.vfma, .b b⟩
  | .vfmaExt b v => some ⟨.vfma, .v b v 0 none⟩
  | .vfms b => some ⟨.vfms, .b b⟩
  | .vfmsExt b v => some ⟨.vfms, .v b v 0 none⟩
  | .vdiv b => some ⟨.vdiv, .b b⟩
  | .vdivExt b v => some ⟨.vdiv, .v b v 0 none⟩
  | .vsqrt b => some ⟨.vsqrt, .b b⟩
  | .vsqrtExt b v => some ⟨.vsqrt, .v b v 0 none⟩
  | .vrcp b => some ⟨.vrcp, .b b⟩
  | .vrcpExt b v => some ⟨.vrcp, .v b v 0 none⟩
  | .vrsq b => some ⟨.vrsq, .b b⟩
  | .vrsqExt b v => some ⟨.vrsq, .v b v 0 none⟩
  | .vexp2 b => some ⟨.vexp2, .b b⟩
  | .vexp2Ext b v => some ⟨.vexp2, .v b v 0 none⟩
  | .vlog2 b => some ⟨.vlog2, .b b⟩
  | .vlog2Ext b v => some ⟨.vlog2, .v b v 0 none⟩
  | .vmin b => some ⟨.vmin, .b b⟩
  | .vminExt b v => some ⟨.vmin, .v b v 0 none⟩
  | .vmax b => some ⟨.vmax, .b b⟩
  | .vmaxExt b v => some ⟨.vmax, .v b v 0 none⟩
  | .vabs b => some ⟨.vabs, .b b⟩
  | .vabsExt b v => some ⟨.vabs, .v b v 0 none⟩
  | .vneg b => some ⟨.vneg, .b b⟩
  | .vnegExt b v => some ⟨.vneg, .v b v 0 none⟩
  | .vand b => some ⟨.vand, .b b⟩
  | .vandExt b v => some ⟨.vand, .v b v 0 none⟩
  | .vor b => some ⟨.vor, .b b⟩
  | .vorExt b v => some ⟨.vor, .v b v 0 none⟩
  | .vxor b => some ⟨.vxor, .b b⟩
  | .vxorExt b v => some ⟨.vxor, .v b v 0 none⟩
  | .vnot b => some ⟨.vnot, .b b⟩
  | .vnotExt b v => some ⟨.vnot, .v b v 0 none⟩
  | .vshl b => some ⟨.vshl, .b b⟩
  | .vshlExt b v n => some ⟨.vshl, .v b v (encIb n) none⟩
  | .vshr b => some ⟨.vshr, .b b⟩
  | .vshrExt b v n => some ⟨.vshr, .v b v (encIb n) none⟩
  | .vsra b => some ⟨.vsra, .b b⟩
  | .vsraExt b v n => some ⟨.vsra, .v b v (encIb n) none⟩
  | .vceq b => some ⟨.vceq, .b b⟩
  | .vceqExt b v => some ⟨.vceq, .v b v 0 none⟩
  | .vcne b => some ⟨.vcne, .b b⟩
  | .vcneExt b v => some ⟨.vcne, .v b v 0 none⟩
  | .vclt b => some ⟨.vclt, .b b⟩
  | .vcltExt b v => some ⟨.vclt, .v b v 0 none⟩
  | .vcle b => some ⟨.vcle, .b b⟩
  | .vcleExt b v => some ⟨.vcle, .v b v 0 none⟩
  | .vcun b => some ⟨.vcun, .b b⟩
  | .vcunExt b v => some ⟨.vcun, .v b v 0 none⟩
  | .vclass b => some ⟨.vclass, .b b⟩
  | .vclassExt b v cls => some ⟨.vclass, .v b v (cls.setWidth 32) none⟩
  | .vsel b => some ⟨.vsel, .b b⟩
  | .vselExt b v => some ⟨.vsel, .v b v 0 none⟩
  | .vfill b v tag l => some ⟨.vfill, .v b v (tag.setWidth 32) l⟩
  | .vbcast b v tag l => some ⟨.vbcast, .v b v (tag.setWidth 32) l⟩
  | .vid b v tag => some ⟨.vid, .v b v (tag.setWidth 32) none⟩
  | .vcvt b v tag => some ⟨.vcvt, .v b v (tag.setWidth 32) none⟩
  | .vscale b => some ⟨.vscale, .b b⟩
  | .vscaleExt b v sc => some ⟨.vscale, .v b v (sc.setWidth 32) none⟩
  | .vtag b v tag => some ⟨.vtag, .v b v (tag.setWidth 32) none⟩
  | .vsum b => some ⟨.vsum, .b b⟩
  | .vsumExt b v => some ⟨.vsum, .v b v 0 none⟩
  | .vrmax b => some ⟨.vrmax, .b b⟩
  | .vrmaxExt b v => some ⟨.vrmax, .v b v 0 none⟩
  | .vrmin b => some ⟨.vrmin, .b b⟩
  | .vrminExt b v => some ⟨.vrmin, .v b v 0 none⟩
  | .vdot b => some ⟨.vdot, .b b⟩
  | .vdotExt b v acc => some ⟨.vdot, .v b v (BitVec.ofNat 32 (encBool acc)) none⟩
  | .vperm b => some ⟨.vperm, .b b⟩
  | .vpermExt b v => some ⟨.vperm, .v b v 0 none⟩
  | .vrot b => some ⟨.vrot, .b b⟩
  | .vrotExt b v n => some ⟨.vrot, .v b v (encIb n) none⟩
  | .vslide b => some ⟨.vslide, .b b⟩
  | .vslideExt b v n down => some ⟨.vslide, .v b v (encIb n + BitVec.ofNat 32 (1073741824 * encBool down)) none⟩
  | .vcomp b => some ⟨.vcomp, .b b⟩
  | .vcompExt b v => some ⟨.vcomp, .v b v 0 none⟩
  | .vexpd b => some ⟨.vexpd, .b b⟩
  | .vexpdExt b v => some ⟨.vexpd, .v b v 0 none⟩
  | .vext b => some ⟨.vext, .b b⟩
  | .vextExt b v n => some ⟨.vext, .v b v (encIb n) none⟩
  | .vins b => some ⟨.vins, .b b⟩
  | .vinsExt b v n => some ⟨.vins, .v b v (encIb n) none⟩
  | .mand b => some ⟨.mand, .b b⟩
  | .mandExt b x => some ⟨.mand, .x b x 0⟩
  | .mor b => some ⟨.mor, .b b⟩
  | .morExt b x => some ⟨.mor, .x b x 0⟩
  | .mxor b => some ⟨.mxor, .b b⟩
  | .mxorExt b x => some ⟨.mxor, .x b x 0⟩
  | .mnot b => some ⟨.mnot, .b b⟩
  | .mnotExt b x => some ⟨.mnot, .x b x 0⟩
  | .mpop b => some ⟨.mpop, .b b⟩
  | .mpopExt b x => some ⟨.mpop, .x b x 0⟩
  | .mfirst b => some ⟨.mfirst, .b b⟩
  | .mfirstExt b x => some ⟨.mfirst, .x b x 0⟩
  | .ld b m => some ⟨.ld, .m b m none⟩
  | .st b m l => some ⟨.st, .m b m l⟩
  | .vld b m tag => some ⟨.vld, .m b m (some (tag.setWidth 64))⟩
  | .vlds b m tag => some ⟨.vlds, .m b m (some (tag.setWidth 64))⟩
  | .vldx b m tag => some ⟨.vldx, .m b m (some (tag.setWidth 64))⟩
  | .vldff b m tag => some ⟨.vldff, .m b m (some (tag.setWidth 64))⟩
  | .vst b m => some ⟨.vst, .m b m none⟩
  | .vsts b m => some ⟨.vsts, .m b m none⟩
  | .vstx b m => some ⟨.vstx, .m b m none⟩
  | .vsadd b m => some ⟨.vsadd, .m b m none⟩
  | .aadd b m l => some ⟨.aadd, .m b m l⟩
  | .aswap b m l => some ⟨.aswap, .m b m l⟩
  | .acas b m l => some ⟨.acas, .m b m l⟩
  | .amin b m l => some ⟨.amin, .m b m l⟩
  | .amax b m l => some ⟨.amax, .m b m l⟩
  | .aand b m l => some ⟨.aand, .m b m l⟩
  | .aor b m l => some ⟨.aor, .m b m l⟩
  | .axor b m l => some ⟨.axor, .m b m l⟩
  | .wjoin b => some ⟨.wjoin, .b b⟩
  | .wjoinImm b m => some ⟨.wjoin, .imm b m⟩
  | .wfloor p => some ⟨.wfloor, .p p⟩
  | .wfloorExt p => some ⟨.wfloor, .px p 0⟩
  | .wnow b => some ⟨.wnow, .b b⟩
  | .wnowExt b x => some ⟨.wnow, .x b x 0⟩
  | .wtest b => some ⟨.wtest, .b b⟩
  | .wtestExt b x test => some ⟨.wtest, .x b x (test.setWidth 32)⟩
  | .mwait b m l => some ⟨.mwait, .m b m l⟩
  | .bar b => some ⟨.bar, .b b⟩
  | .barExt b x id count na => some ⟨.bar, .x b x (BitVec.ofNat 32 (id.toNat + 16 * count.toNat + 32768 * encBool na))⟩
  | .claimel b m l => some ⟨.claimel, .m b m l⟩
  | .pref b m => some ⟨.pref, .m b m none⟩
  | .mclaim b => some ⟨.mclaim, .b b⟩
  | .mrel p => some ⟨.mrel, .p p⟩
  | .mmul k arow acc slice dual => some ⟨.mmul, .k k ⟨none, none, none⟩ (BitVec.ofNat 32 (arow.toNat + 512 * encAcc acc + 2048 * slice.toNat + 131072 * encBool dual))⟩
  | .mrd k b arow nrow pos => some ⟨.mrd, .k k b (BitVec.ofNat 32 (arow.toNat + 512 * nrow.toNat + 8192 * pos.toNat))⟩
  | .mwr k arow nrow pos => some ⟨.mwr, .k k ⟨none, none, none⟩ (BitVec.ofNat 32 (arow.toNat + 512 * nrow.toNat + 8192 * pos.toNat))⟩
  | .mzero k arow nrow => some ⟨.mzero, .k k ⟨none, none, none⟩ (BitVec.ofNat 32 (arow.toNat + 512 * nrow.toNat))⟩
  | .mdecay k => some ⟨.mdecay, .k k ⟨none, none, none⟩ 0⟩
  | .mspill k u => some ⟨.mspill, .k k ⟨none, none, none⟩ (BitVec.ofNat 32 (encUnit u))⟩
  | .mfill k u wi => some ⟨.mfill, .k k ⟨none, none, none⟩ (BitVec.ofNat 32 (encUnit u + 4 * encBool wi))⟩
  | .wcfg k => some ⟨.wcfg, .k k ⟨none, none, none⟩ 0⟩
  | .wtable k => some ⟨.wtable, .k k ⟨none, none, none⟩ 0⟩
  | .wload k ff => some ⟨.wload, .k k ⟨none, none, none⟩ (BitVec.ofNat 32 (encBool ff))⟩
  | .wloada k arow => some ⟨.wloada, .k k ⟨none, none, none⟩ (arow.setWidth 32)⟩
  | .wswap k => some ⟨.wswap, .k k ⟨none, none, none⟩ 0⟩
  | .wexp k b => some ⟨.wexp, .k k b 0⟩
  | .wstat k b wait => some ⟨.wstat, .k k b (BitVec.ofNat 32 (encBool wait))⟩
  | .plock b => some ⟨.plock, .b b⟩
  | .plockExt b x wr tries => some ⟨.plock, .x b x (BitVec.ofNat 32 (encBool wr + 2 * encBool tries))⟩
  | .punlock p => some ⟨.punlock, .p p⟩
  | .plaunch b => some ⟨.plaunch, .b b⟩
  | .plaunchExt b x => some ⟨.plaunch, .x b x 0⟩
  | .pfence b => some ⟨.pfence, .b b⟩
  | .pfenceExt b x => some ⟨.pfence, .x b x 0⟩
  | .pstat b => some ⟨.pstat, .b b⟩
  | .pstatExt b x bank => some ⟨.pstat, .x b x (BitVec.ofNat 32 (encBool bank))⟩
  | .vldp b m tag => some ⟨.vldp, .m b m (some (tag.setWidth 64))⟩
  | .vstp b m => some ⟨.vstp, .m b m none⟩
  | .cpset p => some ⟨.cpset, .p p⟩
  | .cpsetExt p index => some ⟨.cpset, .px p (index.setWidth 32)⟩
  | .cpgo b => some ⟨.cpgo, .b b⟩
  | .cpgoExt b x => some ⟨.cpgo, .x b x 0⟩
  | .cpqf p => some ⟨.cpqf, .p p⟩
  | .cpqfExt p queue mask => some ⟨.cpqf, .px p (BitVec.ofNat 32 (queue.toNat + 256 * mask.toNat))⟩
  | .cpstat b => some ⟨.cpstat, .b b⟩
  | .cpstatExt b x => some ⟨.cpstat, .x b x 0⟩
  | .cpabort p => some ⟨.cpabort, .p p⟩
  | .qcopy _ _ | .qnot _ _ | .qmaj _ | .qshl _ _ | .qshr _ _ | .qset _ _ _ _ | .qvmc _ _ _ | .qloop _
  | .qloopPar _ | .qend | .qskip _ _ _ _ _ | .qsafe | .qret | .blockFetch _ _ | .blockDecode _ | .blockCommit _
  | .deferredResultWrite _ | .trapEntry _ | .matrixClaimGrant _ | .fillAccept _ | .wloadaAccept _ | .fillEnd _ | .preempt _ | .preemptGraceExpiry _
  | .contextSaveEnd _ | .resume _ | .laneResidueFailure _ _ _ _ | .laneSelfTestEnd _ _ _ | .homeLoad _ | .homeStore _ | .homeAtomic _ | .claimelAtHome _
  | .mwaitWake _ | .mwaitExpiry _ | .l1Renewal _ | .rdcRenewal _ | .leaseSweep | .ceilingAdvance | .clusterTimeBroadcast _ | .pageWalkEnd _
  | .plockGrant _ | .lockedTimeout _ | .fieldOpStart _ _ | .refreshIntervalEnd _ | .refresh _ | .refreshManagement _ | .dramRequest _ | .insertion _
  | .patrolRead _ | .copyStrip _ _ | .copyStripEnd _ _ | .copyStampWrite _ _ | .copyFenceRelease _ _ | .trainElement _ | .trainTail _ | .trainAck _
  | .trainAckTimeout _ | .queueDoorbell _ _ | .queueHeadWake _ | .packetFetch _ | .start _ | .startPlacement _ | .startWaitTimeout _ | .regionAttach _
  | .regionReload _ | .regionDetach _ | .cisternAllocate _ | .cisternFree _ | .wait _ | .stamp _ | .copy _ | .plane _
  | .kill _ | .nop _ | .packetComplete _ _ | .budgetCharge _ _ _ _ | .hostMemrd _ _ | .hostMemrdOwnership _ _ | .hostMemwr _ _ | .birsp _ _
  | .msgTrainBeats _ | .msgTrainAck _ | .msgReadRequest _ | .msgReadResponse _ | .msgAtomicRequest _ | .msgAtomicResponse _ | .msgTime _ | .msgRetransmit _ _
  | .msgUnreachable _ _ | .idleTimeSend _ | .ilaWrite _ _ | .ptrootWrite _ _ | .mthWrite _ _ | .refctlWrite _ _ | .fwshareWrite _ _ | .frmWrite _ _
  | .leaseWrite _ _ | .csrRegisterWrite _ _ _ | .startWarm | .startWarmZero | .startCold | .deviceStart _ | .barRegisterWrite _ _ | .rowSpare _ _
  | .bankRetireMove _ _ | .tileRetire _ | .linkRetrain _ _ | .unitFailure _ | .clusterWarmRestart _ | .mctpControl _ | .getVersion _ | .getCapabilities _
  | .negotiateAlgorithms _ | .getDigests _ | .getCertificate _ | .challenge _ | .getMeasurements _ | .keyExchange _ | .finish _ | .endSession _
  | .readLog _ | .readStatus | .setPlimit _ | .restart _ _ _ | .commitSvn _ | .firmwareUpdate _ | .throttleTick _ _ | .statusBlockWrite
  | .thermalTrip _ | .thermalRecovery _ | .hostSnoop _ | .hostCompletion _ _ | .peerTableWrite _ _ | .fabricEnumeration _ | .encodePassEnd _ _ => none

/-- The instruction that begins the words, and its length in words; none where R88 refuses them. -/
noncomputable def decodeInstr (ws : List Word32) : Option (Instr × Nat) :=
  match decodeSlot ws with
  | .ok r n => r.instr.map (fun i => (i, n))
  | _ => none

/-- A furrow word (R91, R253, R255); none where QOP is 12 to 15, a reserved bit is nonzero or a special row code is
reserved (R254, TINFO 1, 2 and 7). Rows R254 forbids (TINFO 3) are the launch's to refuse. -/
def decodeFurrow (w : Word32) : Option Instr :=
  let n := w.toNat
  let s := fld n 4 1024; let d := fld n 14 1024; let i := fld n 24 256
  let bs := BitVec.ofNat 10 s; let bd := BitVec.ofNat 10 d
  let par := BitVec.ofNat 3 (i % 8); let bit := BitVec.ofNat 5 (i / 8)
  match n % 16 with
  | 0 => if i == 0 && rowOk bs && rowOk bd then some (.qcopy bs bd) else none
  | 1 => if i == 0 && rowOk bs && rowOk bd then some (.qnot bs bd) else none
  | 2 => if i < 4 && s == 0 && d == 0 then some (.qmaj (BitVec.ofNat 2 i)) else none
  | 3 => if i == 0 && rowOk bs && rowOk bd then some (.qshl bs bd) else none
  | 4 => if i == 0 && rowOk bs && rowOk bd then some (.qshr bs bd) else none
  | 5 => if (s == 0 || s == 32) && rowOk bd then some (.qset (decBool (s / 32)) bd par bit) else none
  | 6 => if i < 16 && rowOk bs && rowOk bd then some (.qvmc bs bd (BitVec.ofNat 4 i)) else none
  | 7 => if d != 0 then none else if i == 0 then (if s < 8 then some (.qloopPar (BitVec.ofNat 3 s)) else none)
      else if s == 0 then some (.qloop (BitVec.ofNat 8 i)) else none
  | 8 => if n == 8 then some .qend else none
  | 9 => if s < 64 && d < 2 then some (.qskip (BitVec.ofNat 5 (s % 32)) (decBool (s / 32)) (decBool d) par bit) else none
  | 10 => if n == 10 then some .qsafe else none
  | 11 => if n == 11 then some .qret else none
  | _ => none

/-- The words of an operand form as numbers, in address order (R77 to R84). -/
def encForm (op : Opcode) : Form → List Nat
  | .rr f => [4 * op.code + 1024 * encPred f.pr + 4096 * f.reg.toNat + 262144 * encTgt f.t0]
  | .rw f => [4 * op.code + 1024 * encPred f.pr + 4096 * f.reg.toNat]
  | .j f => [4 * op.code + 1024 * encPred f.pr + 4096 * f.offset.toNat]
  | .b b => [encB op 0 b]
  | .p p => [encP op 0 p]
  | .x b x w2 => [encB op 1 b, encExt x, w2.toNat]
  | .px p w2 => [encP op 1 p, 0, w2.toNat]
  | .imm b (.word x v) => [encB op 1 b, encExt x, v.toNat]
  | .imm b (.lit v) => [encB op 2 b, v.toNat % 4294967296, v.toNat / 4294967296]
  | .imm b (.litX x v) => [encB op 3 b, encExt x, 0, v.toNat % 4294967296, v.toNat / 4294967296]
  | .v b v w2 none => [encB op 1 b, encV v, w2.toNat]
  | .v b v w2 (some l) => [encB op 3 b, encV v, w2.toNat, l.toNat % 4294967296, l.toNat / 4294967296]
  | .m b m none => [encB op 1 b, encM m, m.off.toNat]
  | .m b m (some l) => [encB op 3 b, encM m, m.off.toNat, l.toNat % 4294967296, l.toNat / 4294967296]
  | .k k r w2 =>
    [1 + 4 * op.code + 1024 * encPred k.pr + 4096 * encTgt r.t0 + 4194304 * encTgt r.t1, encTgt r.t2 + 1024 * k.msid.toNat, w2.toNat]
def encodeRaw (r : Raw) : List Word32 := (encForm r.op r.form).map (BitVec.ofNat 32)

/-- A furrow word from its fields (R91). -/
def encFurrow (qop : Nat) (s d : BitVec 10) (i : Nat) : List Word32 :=
  [BitVec.ofNat 32 (qop + 16 * s.toNat + 16384 * d.toNat + 16777216 * i)]

/-- The encoder: the words of an instruction in address order (R77, R91); none for an event, which has no encoding. -/
def encode (i : Instr) : List Word32 :=
  match i with
  | .qcopy s d => encFurrow 0 s d 0
  | .qnot s d => encFurrow 1 s d 0
  | .qmaj t => encFurrow 2 0 0 t.toNat
  | .qshl s d => encFurrow 3 s d 0
  | .qshr s d => encFurrow 4 s d 0
  | .qset i d par bit => encFurrow 5 (BitVec.ofNat 10 (32 * encBool i)) d (8 * bit.toNat + par.toNat)
  | .qvmc s d lay => encFurrow 6 s d lay.toNat
  | .qloop n => encFurrow 7 0 0 n.toNat
  | .qloopPar par => encFurrow 7 (par.setWidth 10) 0 0
  | .qend => encFurrow 8 0 0 0
  | .qskip cnt i v par bit => encFurrow 9 (BitVec.ofNat 10 (cnt.toNat + 32 * encBool i)) (BitVec.ofNat 10 (encBool v)) (8 * bit.toNat + par.toNat)
  | .qsafe => encFurrow 10 0 0 0
  | .qret => encFurrow 11 0 0 0
  | i => match rawOf i with
    | some r => encodeRaw r
    | none => []

/-- The instruction of a bare word as the opcode table numbers its bits: word 0 is bits 31..0, word 1 bits 63..32; every bit above
`nbits` is 0. A word the block decoder refuses is read as a furrow word. -/
noncomputable def decodeTableWord (nbits w : Nat) : Option Instr :=
  let n := w % 2 ^ nbits
  match decodeInstr [BitVec.ofNat 32 n, BitVec.ofNat 32 (n / 2 ^ 32), BitVec.ofNat 32 (n / 2 ^ 64), BitVec.ofNat 32 (n / 2 ^ 96),
    BitVec.ofNat 32 (n / 2 ^ 128)] with
  | some (i, _) => some i
  | none => decodeFurrow (BitVec.ofNat 32 n)

end Sys2Proof
end

