-- ==== Sys2Proof/Machine/Lifecycle.lean ====
section
/-! DEFINITION. What threads and teams hold and give back: deferred results (R29 to R31, R126), lane grants (R35, R38),
the matrix claim (R196 to R198), barriers (R193), row locks (R246), the end of a thread and of a team (R112, R276), and
kills (R398, R399, R342). -/
namespace Sys2Proof.Machine

/-- Changes a thread of a team wherever it stands: in its place, or saved (R392). -/
def State.updThread (s : State) (tid team : Nat) (f : Thread → Thread) : State :=
  if (s.thread tid).team = team && (s.thread tid).status != .absent then s.setThread tid (f (s.thread tid))
  else { s with saved := s.saved.map (fun e => if e.1 = tid && e.2.team = team then (e.1, f e.2) else e) }
/-- The serial maximum of a thread's write times, kept for the thread and for its team (R359). -/
def joinTime (a : Option Time) (t : Time) : Option Time := some (match a with | some x => serialMax x t | none => t)
def State.noteWrite (s : State) (tid team : Nat) (t : Time) : State :=
  let s := s.updThread tid team (fun x => { x with maxWrite := joinTime x.maxWrite t })
  { s with teams := s.teams.map (fun y => if y.id = team then { y with maxWrite := joinTime y.maxWrite t } else y) }

/-! Deferred results. -/
/-- One answer of a deferred result's requests: a write time, a value, an error. -/
structure Answer where
  time : Option Time
  value : Option Word
  error : Option Word
  deriving DecidableEq, Repr
/-- The error with the lower class, then detail, dominates, as WJOIN orders them (R176, R187). -/
def joinError (a b : Option Word) : Option Word :=
  match a, b with
  | some x, some y => some (joinWitness 0 x y)
  | none, y => y
  | x, none => x
def joinErrors (l : List Word) : Option Word := l.foldl (fun a w => joinError a (some w)) none
def Group.take (g : Group) (a : Answer) : Group :=
  { g with left := g.left - 1, time := (match a.time with | some t => joinTime g.time t | none => g.time),
           value := (match a.value with | some v => some v | none => g.value), error := joinError g.error a.error,
           ready := g.left ≤ 1 }
def State.answer (s : State) (gid : Option Nat) (a : Answer) : State :=
  match gid with
  | none => s
  | some g => { s with groups := s.groups.map (fun x => if x.gid = g then x.take a else x) }
/-- The value of result `which` of a group: the value or witness, or the error in place of either (R30, R176). -/
def Group.result (g : Group) (which : Nat) : Word :=
  match g.error with
  | some e => e
  | none => if which = 1 then (match g.second with | some v => v | none => optWitness g.time)
    else match g.value with
      | some v => v
      | none => optWitness g.time
/-- Writes a group's results into its registers that are still pending on it (R30, R31). -/
def Thread.takeResult (t : Thread) (g : Group) : Thread :=
  let t := g.dests.foldl (fun t d =>
    if mget 0 t.pending d.1 = g.gid then { t with sregs := mset 0 t.sregs d.1 (g.result d.2), pending := mdel t.pending d.1 } else t) t
  let t := if g.vl then { t with vlOut := t.vlOut - 1, vl := (match g.error, g.setVl with | some _, some _ => 0 | none, some n => n | _, none => t.vl) } else t
  if g.claim then { t with mclaimOut := false } else t

/-! Lane grants. -/
/-- The contents a register keeps below a slot count; above, 0 with the none mark set (R38). -/
def VReg.cut (v : VReg) (n : Nat) : VReg := { v with slots := v.slots.filter (·.1 < n), clear := v.clear.filter (·.1 < n) }
/-- A thread's grant changes (R38). Bits of m registers for groups newly granted, of which R38 says nothing, are 0 (DESIGN CHOICE, log entry 63). -/
def Thread.regrant (t : Thread) (lanes : BitVec 16) : Thread :=
  let t' := { t with lanes := lanes }
  let n := Nat.min t.vlmax t'.vlmax
  { t' with vregs := t.vregs.map (fun e => (e.1, e.2.cut n)), vl := Nat.min t.vl t'.vlmax,
            mregs := t.mregs.map (fun e => (e.1, BitVec.ofNat 16384 (e.2.toNat % 2 ^ (1024 * t'.groups)))) }
def State.freeGroups (s : State) (tile : Nat) (m : BitVec 16) : State :=
  let t := s.tile tile
  s.setTile tile { t with free := t.free ||| (m &&& ~~~t.lost) }
/-- Groups leave the pool; from this cycle on they are charged (R370). -/
def State.takeGroups (s : State) (tile : Nat) (m : BitVec 16) : State :=
  let t := s.tile tile
  s.setTile tile { t with free := t.free &&& ~~~m, held := (groupList m).foldl (fun h g => mset 0 h g s.cycle) t.held }

/-! The claim (R197, R198). -/
/-- Resolves the requests of a thread that now holds the claim. -/
def State.claimed (s : State) (tile tid : Nat) : State :=
  let t := s.tile tile
  { s.setTile tile { t with claimQ := t.claimQ.filter (·.1 != tid) } with
    groups := s.groups.map (fun (g : Group) => if t.claimQ.any (fun e => e.1 == tid && e.2 == g.gid) then { g with value := some 1, ready := true } else g) }
/-- Releases the tile's claim where the thread holds it: the state is reset, a fill abandoned, a result of the grant still to be written
is 1; the queue is served by MATRIX_CLAIM_GRANT. -/
def State.releaseClaim (s : State) (tile tid : Nat) : State :=
  let t := s.tile tile
  if t.claimant = some tid then (s.setTile tile { t with claimant := none, mx := MxState.grant }).claimed tile tid else s
/-- A thread takes the claim: the state of R196, charged from this cycle on (R370). -/
def State.takeClaim (s : State) (tile tid : Nat) : State :=
  s.setTile tile { s.tile tile with claimant := some tid, mx := MxState.grant, claimSince := s.cycle }
def State.withdrawClaim (s : State) (tile tid : Nat) : State :=
  let t := s.tile tile
  s.setTile tile { t with claimQ := t.claimQ.filter (·.1 != tid) }

/-! Barriers (R193). -/
def Team.running (t : Team) (s : State) : Nat :=
  (t.members.filter (fun i => ((s.thread i).team = t.id && (s.thread i).status != .ended && (s.thread i).status != .absent) ||
    s.saved.any (fun e => e.1 = i && e.2.team = t.id))).length
def joinAll (h : Time) : List Word → Word
  | [] => satisfied
  | w :: r => r.foldl (fun a b => joinWitness h a b) w
/-- The barrier a thread waits at as its save area's header says (R395). -/
def barrierBits (h : Word) (b : Option Nat) : Word :=
  (h &&& ~~~(BitVec.ofNat 64 (2 ^ 28 + 15 * 2 ^ 32))) ||| BitVec.ofNat 64 (match b with | some i => 2 ^ 28 + i % 16 * 2 ^ 32 | none => 0)
/-- A release reaches a saved participant in its save area too, whence it resumes (R193, R395, R397). -/
def State.resaveBarrier (s : State) (tid team : Nat) (j : Word) : State :=
  match s.saved.find? (fun e => e.1 == tid && e.2.team == team) with
  | none => s
  | some (_, t) =>
    let base := t.savea.toNat
    let m := writeWord s.mem base (barrierBits (readWord s.mem base) t.barred.head?)
    { s with mem := if wKind j = 0 then writeWord m (base + 0x280) (timeWitness (serialMax (wTime (readWord m (base + 0x280))) (wTime j))) else m }
/-- Releases a barrier whose arrivals suffice: the joined witness to every participant, FLOOR raised by a time (R193). -/
def State.releaseBarrier (s : State) (team : Nat) (id : Nat) : State :=
  match s.teams.find? (·.id == team) with
  | none => s
  | some x =>
    let b := mget Barrier.empty x.barriers id
    if b.arrivals.isEmpty || b.arrivals.length < Nat.min b.count (x.running s) then s
    else
      let j := joinAll (s.tile x.tile).horizon (b.arrivals.map (fun a => a.2.1))
      let x' := { x with barriers := mset Barrier.empty x.barriers id { gen := b.gen + 1, count := 0, arrivals := [] } }
      let s := s.setTeam x'
      let s := { s with groups := s.groups.map (fun (g : Group) => if b.arrivals.any (fun a => a.2.2 = g.gid) then
        { g with left := 0, value := some j, ready := true } else g) }
      let s := b.arrivals.foldl (fun s a => (s.updThread a.1 team (fun t =>
        { t with barred := t.barred.filter (· != id), floor := if wKind j = 0 then serialMax t.floor (wTime j) else t.floor })).resaveBarrier a.1 team j) s
      s.raiseHorizonW x.tile j
def State.releaseBarriers (s : State) (team : Nat) : State := (List.range 16).foldl (fun s i => s.releaseBarrier team i) s

/-! Row locks (R246). -/
/-- The rows of a run that stay held: those outside the released runs, and those an active op of the owner reaches. -/
def keptRun (r : RowRun) (rel : List RowRun) (ops : List FieldOp) : List RowRun :=
  ((List.range r.count).map (· + r.row)).filterMap (fun k =>
    if rel.any (fun x => x.has r.sub k) && !ops.any (fun o => o.reaches r.sub k true) then none else some ⟨r.sub, k, 1, r.base⟩)
def keepRun (r : RowRun) (rel : List RowRun) (ops : List FieldOp) : List RowRun :=
  let k := keptRun r rel ops
  if k.length = r.count then [r] else k
/-- The rows that leave an owner's locks go, but those that an op of the owner still reaches. -/
def Cluster.settleLocks (c : Cluster) (owner : Nat) : Cluster :=
  let mine := c.ops.filter (fun o => o.owner = owner && o.state != .done)
  { c with
    locks := (c.locks.map (fun l => if l.owner = owner then { l with runs := l.runs.flatMap (fun r => keepRun r l.leaving mine) } else l)).filter (fun l => !l.runs.isEmpty) }
/-- Releases an owner's present locks on rows; where an op of the owner reaches a row the release waits for its encode pass. -/
def Cluster.release (c : Cluster) (owner : Nat) (rel : List RowRun) : Cluster :=
  ({ c with locks := c.locks.map (fun (l : Lock) => if l.owner = owner then { l with leaving := l.leaving ++ rel } else l) }).settleLocks owner
def State.releaseRows (s : State) (cluster owner : Nat) (rel : List RowRun) : State :=
  s.setCluster cluster ((s.cluster cluster).release owner rel)
/-- Releases every lock of an owner, everywhere. -/
def State.releaseAll (s : State) (owner : Nat) : State :=
  (List.range 8).foldl (fun s c =>
    let k := s.cluster c
    let all := (k.locks.filter (·.owner == owner)).flatMap (·.runs)
    if all.isEmpty then s else s.releaseRows c owner all) s

/-! The end of threads and teams. -/
/-- Everything the thread has in the load-store unit for blocks it discards goes (R33, R16). -/
def State.dropLoads (s : State) (tid : Nat) (keep : Nat → Bool) : State :=
  { s with loads := s.loads.filter (fun l => l.tid != tid || keep l.serial),
           walks := s.walks.map (fun w => { w with waiters := w.waiters.filter (· != tid) }) }
/-- An owner tag as copy entries record it: the allocation's id and generation (R333); 0 stands for no allocation. -/
def ownerTag (id gen : Nat) : Nat := 1 + id * 65536 + gen
/-- A strip that has passed its comparison against an owner tag is in flight (R333). -/
def State.stripHolds (s : State) (tag : Nat) : Bool :=
  s.tiles.any (fun t => t.2.queues.any (fun q => q.2.entries.any (fun e => e.inFlight && e.stamping.isNone && e.tags.any (fun x => x.2 == tag))))
/-- An allocation is freed and its generation advances (R276), once no strip that has passed a comparison against it is in flight (R333). -/
def State.freeAlloc (s : State) (id : Nat) : State :=
  if s.stripHolds (ownerTag id (mget 0 s.gens id)) then { s with freeing := if s.freeing.contains id then s.freeing else s.freeing ++ [id] }
  else { s with allocs := s.allocs.filter (·.id != id), freeing := s.freeing.filter (· != id),
                gens := mset 0 s.gens id ((mget 0 s.gens id + 1) % 65536) }
/-- The frees that waited for a strip go on where they can. -/
def State.settleFrees (s : State) : State := (s.freeing.filter (fun id => s.allocs.any (·.id == id))).foldl State.freeAlloc s
/-- The free of an allocation waits: from now on no strip passes a comparison against it (R333). -/
def State.beginFree (s : State) (id : Nat) : State := if s.freeing.contains id then s else { s with freeing := s.freeing ++ [id] }
/-- The free of an allocation under one of the owner tags waits. -/
def State.freesUnder (s : State) (tags : List (Nat × Nat)) : Bool := s.freeing.any (fun id => tags.any (fun t => 0 < t.2 && (t.2 - 1) / 65536 == id))
/-- A team whose last thread has ended: its allocation goes (R276). -/
def State.teamEnded (s : State) (team : Nat) : State :=
  match s.teams.find? (·.id == team) with
  | none => s
  | some x => if x.running s = 0 && !x.done then (s.setTeam { x with done := true }).freeAlloc x.alloc else s
/-- An ended thread keeps only what identifies it. -/
def Thread.over (t : Thread) : Thread :=
  { Thread.absent with status := .ended, team := t.team, tile := t.tile, core := t.core, asid := t.asid, maxWrite := t.maxWrite }
/-- An MCLAIM of a thread that ends stays in the queue, under the thread's party number (R4, R112). -/
def State.leaveClaim (s : State) (tile tid team : Nat) : State :=
  let t := s.tile tile
  s.setTile tile { t with claimQ := t.claimQ.map (fun e => if e.1 = tid then (partyOf tid team, e.2) else e) }
/-- A killed thread's waiting PLOCK and MCLAIM requests go (R4, R398), and what was to take their results. -/
def State.dropRequests (s : State) (tile tid team : Nat) : State :=
  let p := partyOf tid team
  let asked := ((s.tile tile).claimQ.filter (fun e => e.1 == p || (e.1 == tid && s.party tid == p))).map (·.2) ++
    s.clusters.flatMap (fun e => (e.2.lockReqs.filter (fun q => q.lock.owner == p)).filterMap (·.gid))
  let s := if s.party tid = p then s.withdrawClaim tile tid else s
  let s := s.withdrawClaim tile p
  let s : State := { s with groups := s.groups.filter (fun (g : Group) => !asked.contains g.gid) }
  { s with clusters := s.clusters.map (fun (e : Nat × Cluster) => (e.1, { e.2 with lockReqs := e.2.lockReqs.filter (fun q => q.lock.owner != p) })) }
/-- A thread ends (R112): its registers go, its lanes, claim and locks return; its barriers and team are looked at. What its committed blocks have
asked for runs on (R4). -/
def State.endThread (s : State) (tid : Nat) : State :=
  let t := s.thread tid
  let s := s.dropLoads tid (fun _ => false)
  let s := s.freeGroups t.tile t.lanes
  let s := (s.releaseClaim t.tile tid).leaveClaim t.tile tid t.team
  let s := s.releaseAll (partyOf tid t.team)
  let s := s.setThread tid t.over
  (s.releaseBarriers t.team).teamEnded t.team

/-- Marks the unended transfers of a thread to stop at their next strip with an error witness (R342, R272). -/
def CopyQueue.abortOf (q : CopyQueue) (own : CopyOwner → Bool) (w : Word) : CopyQueue :=
  { q with entries := q.entries.map (fun e => if own e.owner && e.fence.isNone && e.abort.isNone then { e with abort := some w } else e) }
def State.abortCopies (s : State) (tile : Nat) (own : CopyOwner → Bool) (w : Word) : State :=
  let t := s.tile tile
  s.setTile tile { t with queues := t.queues.map (fun e => (e.1, e.2.abortOf own w)) }
def isThreadOwner (party : Nat) : CopyOwner → Bool
  | .thread t => t == party
  | .packet .. => false
/-- The PARTNER witness of a killed context (R298). -/
def partnerWitness (s : State) (tid : Nat) : Word := errWitness 2 (s.deviceNo.toNat * 2 ^ 44 + tid)
/-- The transfers saved with a killed thread return to their queues to be stopped there (R342). -/
def State.returnCopies (s : State) (tile tid : Nat) (l : List (Nat × CopyEntry)) : State :=
  l.foldl (fun s e =>
    if e.2.fence.isSome then s
    else
      let t := s.tile tile
      let q := mget CopyQueue.empty t.queues e.1
      let q' := { q with entries := q.entries ++ [{ e.2 with abort := (match e.2.abort with | some w => some w | none => some (partnerWitness s tid)), waitFor := none }] }
      s.setTile tile { t with queues := mset CopyQueue.empty t.queues e.1 q' }) s
/-- The results of the BAR arrivals of a killed team that its barriers have not released (R298). -/
def State.killArrivals (s : State) (x : Team) : State :=
  let arrived := x.barriers.flatMap (fun b => b.2.arrivals)
  { s with groups := s.groups.map (fun (g : Group) => match arrived.find? (fun a => a.2.2 == g.gid) with
      | some a => { g with left := 0, error := some (errWitness 6 a.1), ready := true }
      | none => g) }
/-- A kill of one team (R398): `w` goes to the CSTAMP of its START; its ASID's peer messages are refused until a queue of it is enabled (R420). -/
def State.killTeam (s : State) (team : Nat) (w : Word) : State :=
  match s.teams.find? (·.id == team) with
  | none => s
  | some x =>
    if x.done then s
    else
      let s : State := { s with refused := if s.refused.contains x.asid then s.refused else s.refused ++ [x.asid] }
      let s := s.killArrivals x
      let s := s.setTeam { x with ending := (match x.ending with | some e => some e | none => some w), barriers := [] }
      let s := x.members.foldl (fun s i =>
        let s := (s.abortCopies x.tile (isThreadOwner (partyOf i team)) (partnerWitness s i)).dropRequests x.tile i team
        if (s.thread i).team = team && (s.thread i).status != .absent && (s.thread i).status != .ended then s.endThread i else s) s
      let s := (s.saved.filter (fun e => e.2.team == team)).foldl (fun s e => s.returnCopies e.2.tile e.1 e.2.savedEntries) s
      let s := { s with saved := s.saved.filter (fun e => e.2.team != team) }
      let s := x.members.foldl (fun s i => s.releaseAll (partyOf i team)) s
      s.teamEnded team
/-- The KILLED witness of a team (R399). -/
def killedWitness (x : Team) : Word := errWitness 6 (x.tile * 2 ^ 16 + x.alloc)

end Sys2Proof.Machine
end

