-- ==== Sys2Proof/Machine/Save.lean ====
section
/-! DEFINITION. A thread's save area (R394, R395): the bytes firmware writes at SAVEA, and the header restore checks (R397). -/
namespace Sys2Proof.Machine

/-- WPROG (R232) and WSTAT (R234). -/
def BackState.code : BackState → Nat
  | .idle => 0 | .filling => 1 | .failed => 2 | .stopped => 3
def MxState.wprog (m : MxState) : Word :=
  BitVec.ofNat 64 (m.done % 4 + (if m.active then 4 else 0) + (if m.progFF then 8 else 0) + (if m.progWla then 16 else 0) +
    m.progAddr.toNat * 256)
def MxState.wstat (m : MxState) : Word :=
  let f := match m.failRec with | some r => r.cause % 256 * 2 ^ 48 + r.info.toNat % 256 * 2 ^ 56 | none => 0
  BitVec.ofNat 64 (Nat.min m.stall (2 ^ 32 - 1) + m.backSt.code * 2 ^ 32 + m.rows % 256 * 2 ^ 40 + f)
/-- TEAM (R120). -/
def Thread.teamCsr (t : Thread) : Word := BitVec.ofNat 64 (t.alloc.toNat + 65536 * t.gen.toNat)

def dwords (l : List Word) : List Byte := l.flatMap (fun w => leBytes 8 w.toNat)
def tableBytes (f : Option (List Nat)) : List Byte := match f with | some l => l.flatMap (leBytes 2) | none => List.replicate 64 0
/-- The control block's bytes by offset (R395); `locks` are the thread's lock ranges. -/
def controlBlock (t : Thread) (m : MxState) (mat mcw fillRec : Bool) (barrier : Option Nat) (locks : List (Word × Word)) : List (Nat × List Byte) :=
  let bit := fun (b : Bool) (k : Nat) => if b then 2 ^ k else 0
  let header := 0x5E1A + 2 ^ 16 + bit mat 24 + bit mcw 25 + bit fillRec 26 + bit t.supervisor 27 + bit barrier.isSome 28 +
    barrier.getD 0 * 2 ^ 32 + t.groups * 2 ^ 40
  let pends := t.pending.foldl (fun a e => a + 2 ^ e.1) 0
  let fill := m.fill
  [(0x000, leBytes 8 header), (0x008, dwords [t.pc]), (0x010, leBytes 8 t.vl), (0x018, leBytes 8 pends), (0x020, leBytes 4 0),
   (0x028, (List.range 32).flatMap (fun i => leBytes 2 (mget VReg.start t.vregs i).tag.toNat)),
   (0x080, (List.range 64).flatMap (fun i => leBytes 8 (mget 0 t.sregs i).toNat)),
   (0x280, dwords [timeWitness t.floor, t.fflags.setWidth 64, t.frm.setWidth 64, t.blocks, t.tcause, t.tblock, t.tslot, t.taddr, t.telem,
     t.tinfo, t.tvec, t.tsave, t.asid.setWidth 64, t.lease.setWidth 64]),
   (0x300, dwords [m.decay.setWidth 64, m.cfg.setWidth 64, m.fp, m.wprog, m.wstat,
     (match fill with | some f => f.cfg.setWidth 64 | none => 0), (match fill with | some f => f.base | none => 0),
     (match fill with | some f => f.addr | none => 0)]),
   (0x340, dwords [match fill with | some f => f.wit | none => 0]),
   (0x380, tableBytes m.ftab), (0x3C0, tableBytes (match fill with | some f => some f.ftab | none => none)),
   (0x400, (locks ++ List.replicate (16 - locks.length) (0, 0)).flatMap (fun (l : Word × Word) => dwords [l.1, l.2]))]

/-- A transfer id (R266). -/
def transferId (tile queue seq : Nat) : Nat := seq % 2 ^ 32 + queue % 8 * 2 ^ 32 + tile * 2 ^ 35
/-- An entry of the thread with a party number. -/
def CopyEntry.ofThread (e : CopyEntry) (party : Nat) : Bool := e.owner == .thread party
/-- The id of the last transfer of another thread ahead of the first of this thread's (R340). -/
def aheadOf (tile queue party : Nat) (l : List CopyEntry) : Option Nat :=
  (((l.takeWhile (fun e => !e.ofThread party)).filter (fun e => e.fence.isNone)).getLast?).map (fun e => transferId tile queue e.seq)
def Tile.savedEntries (t : Tile) (party : Nat) : List (Nat × CopyEntry) :=
  t.queues.flatMap (fun q => (q.2.entries.filter (·.ofThread party)).map (fun e => (q.1, e)))
/-- By queue, the transfer ahead of the saved entries, where there is one. -/
def Tile.savedAhead (t : Tile) (tile party : Nat) : List (Nat × Nat) :=
  (t.queues.filter (fun q => q.2.entries.any (·.ofThread party))).filterMap (fun q => (aheadOf tile q.1 party q.2.entries).map (fun a => (q.1, a)))
/-- The copy state's bytes (R394); the kind of a fence stands above its MASK and QUEUE (log entry 61). -/
def copyBlock (t : Thread) : List (Nat × List Byte) :=
  [(0x1000, (List.range 18).flatMap (fun i => leBytes 8 (mget 0 t.shadow i).toNat)),
   (0x1100, (List.range 8).flatMap (fun q => leBytes 8 (mget 0 t.savedCopies q)))] ++
  (t.savedEntries.zipIdx).map (fun e =>
    let c := e.1.2
    (0x1200 + 192 * e.2, (List.range 18).flatMap (fun i => leBytes 8 (mget 0 c.view i).toNat) ++
      dwords [BitVec.ofNat 64 (transferId t.tile e.1.1 c.seq), BitVec.ofNat 64 c.strip, c.partials.headD 0,
        (match c.bound with | some b => timeWitness b | none => satisfied),
        (match c.fence with | some m => BitVec.ofNat 64 (65536 + m.toNat * 256 + e.1.1 % 8) | none => 0)]))

/-- Masks, none marks and vector slots (R394); the slots below VLMAX. -/
def vectorBlock (t : Thread) : List (Nat × List Byte) :=
  let n := t.vlmax
  if n = 0 then [] else
    (List.range 16).map (fun i => (0x8000 + 2048 * i, leBytes (4 * n / 8) (mget 0 t.mregs i).toNat)) ++
    (List.range 32).map (fun i => (0x10000 + 512 * i,
      leBytes (n / 8) ((List.range n).foldl (fun a j => if mget false (mget VReg.start t.vregs i).clear j then a else a + 2 ^ j) 0))) ++
    (List.range 32).map (fun i => (0x20000 + 16384 * i, (List.range n).flatMap (fun j => leBytes 4 (mget 0 (mget VReg.start t.vregs i).slots j).toNat)))

/-- Where a unit's cells lie in its memory image (R209). -/
def bankCells (m : MxState) (b : Nat) : List (Nat × List Byte) :=
  (m.acc.filter (fun e => e.1 / 32768 = b)).map (fun e => (1024 * (e.1 / 256 - 128 * b) + 4 * (e.1 % 256), leBytes 4 e.2.toNat))
def planeCells (p : NMap (BitVec 16)) : List (Nat × List Byte) :=
  p.map (fun e => (512 * (e.1 / 256) + 2 * (e.1 % 256), leBytes 2 e.2.toNat))
def matrixBlock (m : MxState) : List (Nat × List Byte) :=
  (List.range 4).flatMap (fun b => (bankCells m b).map (fun e => (0xA0000 + 131072 * b + e.1, e.2))) ++
  (planeCells m.front).map (fun e => (0x120000 + e.1, e.2)) ++ (planeCells m.back).map (fun e => (0x130000 + e.1, e.2))
/-- The lock ranges of a party, anywhere on the device. -/
def State.lockRanges (s : State) (party : Nat) : List (Word × Word) :=
  (List.range 8).flatMap (fun c => ((s.cluster c).locks.filter (·.owner == party)).map (fun l => (l.desc, l.range)))

/-- Lines of a save area that the host holds are taken back before firmware writes or reads it (R412). -/
def State.areaSnoop (s : State) (savea : Word) (write : Bool) : Option State :=
  let lo := savea.toNat / 128
  s.snoopWait ((List.range 8).flatMap (fun c => ((s.cluster c).snoop.filter (fun e => lo ≤ e.1 && e.1 < lo + 0x2800)).map (·.1))) write
/-- Firmware writes the save area (R392 to R396); the matrix part under MAT. -/
def State.writeSave (s : State) (tid : Nat) (t : Thread) (barrier : Option Nat) : State :=
  let m := t.savedMx.getD MxState.grant
  let mat := t.mat
  let base := t.savea.toNat
  let mem := eraseRange s.mem base 0x8000
  let mem := if mat then eraseRange mem (base + 0xA0000) 0xA0000 else mem
  let parts := controlBlock t m mat t.mcw.isSome m.fill.isSome barrier (s.lockRanges (partyOf tid t.team)) ++ copyBlock t ++ vectorBlock t ++
    (if mat then matrixBlock m else [])
  { s with mem := parts.foldl (fun mm p => writeBytes mm (base + p.1) p.2) mem }
/-- A thread with what a save takes from its tile: its copies, its matrix state under the claim, its MCLAIM in the queue (R392, R393). -/
def State.savedForm (s : State) (tid : Nat) (t : Thread) : Thread :=
  let x := s.tile t.tile
  let held := x.claimant == some tid
  { t with savedEntries := x.savedEntries (partyOf tid t.team), savedCopies := x.savedAhead t.tile (partyOf tid t.team), mat := held,
           savedMx := if held then some x.mx else none, mcw := (x.claimQ.find? (·.1 == tid)).map (·.2) }
/-- The header's magic and version (R397). -/
def State.saveHeaderOk (s : State) (t : Thread) : Bool := readNat s.mem t.savea.toNat 3 == 0x015E1A

/-! Restoring (R394, R395, R397): what the save area says of a saved thread; what it does not hold is as the thread was saved. -/
/-- The little-endian values of `size` bytes each in a range, by index; 0 where nothing is listed. -/
def gather (m : Memory) (lo n size : Nat) : NMap Nat :=
  (m.filter (fun e => lo ≤ e.1 && e.1 < lo + n)).foldl
    (fun a e => let i := (e.1 - lo) / size; mset 0 a i (mget 0 a i + e.2.toNat * 256 ^ ((e.1 - lo) % size))) []
def gatherBits (w : Nat) (m : Memory) (lo n size : Nat) : NMap (BitVec w) := (gather m lo n size).map (fun e => (e.1, BitVec.ofNat w e.2))
/-- A vector register of n slots: its tag, the slots, and a mark for each that is not none. -/
def savedVReg (m : Memory) (base n i : Nat) : VReg :=
  let marks := readNat m (base + 0x10000 + 512 * i) (n / 8)
  { tag := BitVec.ofNat 16 (readNat m (base + 0x28 + 2 * i) 2), slots := gatherBits 32 m (base + 0x20000 + 16384 * i) (4 * n) 4,
    clear := (List.range n).filterMap (fun j => if marks.testBit j then none else some (j, true)) }
def backOf (code : Nat) : BackState := match code with | 0 => .idle | 1 => .filling | 2 => .failed | _ => .stopped
/-- A table as it stands there; one of zeros is none. -/
def savedTable (m : Memory) (a : Nat) : Option (List Nat) :=
  let l := (List.range 32).map (fun i => readNat m (a + 2 * i) 2)
  if l.all (· == 0) then none else some l
/-- The recorded fill (R233). Its bound is the one it had, or where the witness C has been changed the join with that (R230, R395). -/
def savedFill (m : Memory) (base : Nat) (t : Thread) (wprog : Word) (f : Option Fill) : Fill :=
  let wit := readWord m (base + 0x340)
  let old := f.getD { addr := 0, cfg := 0, ftab := [], base := 0, ff := false, bound := 0, asid := t.asid, supervisor := t.supervisor, wla := false, arow := 0, plane := [], wit := wit }
  { old with addr := readWord m (base + 0x338), cfg := BitVec.ofNat 16 (readNat m (base + 0x328) 2), ftab := (savedTable m (base + 0x3C0)).getD [],
             base := readWord m (base + 0x330), ff := wprog.getLsbD 3, wla := wprog.getLsbD 4, wit := wit, start1 := none,
             bound := if wit = old.wit || wKind wit ≠ 0 then old.bound else serialMax old.bound (wTime wit) }
def savedMatrix (m : Memory) (base : Nat) (t : Thread) (recorded : Bool) (x : MxState) : MxState :=
  let wprog := readWord m (base + 0x318); let wstat := readWord m (base + 0x320)
  let old : FaultRec := x.failRec.getD ⟨0, 0, 0, 0, 0⟩
  { acc := gatherBits 32 m (base + 0xA0000) 0x80000 4, front := gatherBits 16 m (base + 0x120000) 0x10000 2, back := gatherBits 16 m (base + 0x130000) 0x10000 2,
    backSt := backOf (bitsAt wstat 32 2), decay := BitVec.ofNat 32 (readNat m (base + 0x300) 4), cfg := BitVec.ofNat 16 (readNat m (base + 0x308) 2),
    fp := readWord m (base + 0x310), ftab := savedTable m (base + 0x380), done := bitsAt wprog 0 2, active := wprog.getLsbD 2,
    fill := if recorded then some (savedFill m base t wprog x.fill) else none, progFF := wprog.getLsbD 3, progWla := wprog.getLsbD 4,
    progAddr := BitVec.ofNat 56 (bitsAt wprog 8 56), stall := bitsAt wstat 0 32, rows := bitsAt wstat 40 8,
    failRec := if bitsAt wstat 48 8 = 0 then none else some { old with cause := bitsAt wstat 48 8, info := BitVec.ofNat 64 (bitsAt wstat 56 8) },
    expander := x.expander }
/-- A saved queue entry: its view, strip index, p and b, or its fence. -/
def savedEntry (m : Memory) (a : Nat) (e : CopyEntry) : CopyEntry :=
  let kind := readWord m (a + 176); let b := readWord m (a + 168)
  { e with view := gatherBits 64 m a 144 8, strip := readNat m (a + 152) 8,
           partials := if e.partials.isEmpty && readNat m (a + 160) 8 = 0 then [] else readWord m (a + 160) :: e.partials.drop 1,
           bound := if wKind b = 0 then some (wTime b) else none, fence := if bitsAt kind 16 1 = 1 then some (BitVec.ofNat 8 (bitsAt kind 8 8)) else none }
/-- The id recorded for a queue; 0 counts where one was recorded (R341). -/
def savedIds (m : Memory) (base : Nat) (old : List (Nat × Nat)) : List (Nat × Nat) :=
  (List.range 8).filterMap (fun q =>
    let v := readNat m (base + 0x1100 + 8 * q) 8
    if v ≠ 0 || old.any (·.1 == q) then some (q, v) else none)
/-- A saved thread as its save area gives it. -/
def State.restored (s : State) (t : Thread) : Thread :=
  let base := t.savea.toNat
  let m := s.mem.filter (fun e => base ≤ e.1 && e.1 < base + 0x140000)
  let h := readWord m base
  let csr (k : Nat) : Word := readWord m (base + 0x280 + 8 * k)
  let c := bitsAt h 40 5
  let barrier := bitsAt h 32 4
  let pends := readWord m (base + 0x18)
  let t := { t with
    supervisor := h.getLsbD 27, pc := readWord m (base + 8), vl := readNat m (base + 0x10) 8, pending := t.pending.filter (fun e => pends.getLsbD e.1),
    lanes := BitVec.ofNat 16 (2 ^ c - 1), vregs := (List.range 32).foldl (fun v i => mset VReg.start v i (savedVReg m base (256 * c) i)) [],
    sregs := gatherBits 64 m (base + 0x80) 512 8, mregs := gatherBits 16384 m (base + 0x8000) 0x8000 2048,
    floor := wTime (csr 0), fflags := (csr 1).setWidth 6, frm := (csr 2).setWidth 3, blocks := csr 3, tcause := csr 4, tblock := csr 5, tslot := csr 6,
    taddr := csr 7, telem := csr 8, tinfo := csr 9, tvec := csr 10, tsave := csr 11, asid := (csr 12).setWidth 12, lease := (csr 13).setWidth 16,
    shadow := gatherBits 64 m (base + 0x1000) 144 8, barred := if h.getLsbD 28 then (if t.barred.contains barrier then t.barred else [barrier]) else [],
    mat := h.getLsbD 24, mcw := if h.getLsbD 25 then t.mcw else none, savedCopies := savedIds m base t.savedCopies,
    savedEntries := t.savedEntries.zipIdx.map (fun (e : (Nat × CopyEntry) × Nat) => (e.1.1, savedEntry m (base + 0x1200 + 192 * e.2) e.1.2)) }
  { t with savedMx := if t.mat then some (savedMatrix m base t (h.getLsbD 26) (t.savedMx.getD MxState.grant)) else none }

end Sys2Proof.Machine
end

