-- ==== Sys2Proof/Machine/Trap.lean ====
section
/-! DEFINITION. Taking a trap and returning from one (R17, R33, R113, R116, R383 to R389): one operation each, shared by every
instruction and event that raises. -/
namespace Sys2Proof.Machine

/-! CAUSE codes (R386); those of addresses are in Translate. -/
def cILLEGAL : Nat := 0x01
def cBLOCKFMT : Nat := 0x02
def cDUPTOKEN : Nat := 0x03
def cBLOCKSTALL : Nat := 0x04
def cTAGNONE : Nat := 0x05
def cTAGFMT : Nat := 0x06
def cTAGSCALE : Nat := 0x07
def cNOLANES : Nat := 0x08
def cVLRANGE : Nat := 0x09
def cPRIV : Nat := 0x0A
def cSYSCALL : Nat := 0x0B
def cTRAPI : Nat := 0x0C
def cLOCKED : Nat := 0x16
def cWERR : Nat := 0x17
def cWRESV : Nat := 0x18
def cNOCLAIM : Nat := 0x20
def cACCRANGE : Nat := 0x21
def cWMALFORM : Nat := 0x22
def cWTABLE : Nat := 0x23
def cWSTATE : Nat := 0x24
def cPLNOTLOCKED : Nat := 0x30
def cPLBIND : Nat := 0x31
def cPLFURROW : Nat := 0x32
def cCPDESC : Nat := 0x38

/-- TSLOT holding all ones (R88, R89). -/
def noSlot : Word := BitVec.allOnes 64
def slotW (n : Nat) : Word := BitVec.ofNat 64 n
/-- A fault's record; a field its rule does not set holds 0 (R388). -/
def mkFault (cause slot : Nat) (info addr : Nat) (elem : Nat) : FaultRec := ⟨cause, slotW slot, BitVec.ofNat 64 addr, elem, BitVec.ofNat 64 info⟩

/-- Every block in flight goes, with what it has fired (R16, R33, R387 steps 1 and 2). -/
def State.discardFlight (s : State) (tid : Nat) : State :=
  let s := s.dropLoads tid (fun _ => false)
  let s : State := { s with farLines := s.farLines.filter (fun e => e.bad.isNone) }
  s.setThread tid { s.thread tid with flight := [], walkFaults := [] }
/-- The trap record goes into the CSRs and the mode before it into PREV (R387 step 4). -/
def Thread.record (t : Thread) (f : FaultRec) (block : Word) : Thread :=
  { t with tcause := BitVec.ofNat 64 (f.cause + (if t.supervisor then 256 else 0)), tblock := block, tslot := f.slot, taddr := f.addr,
           telem := BitVec.ofNat 64 (f.elem % 2 ^ 32), tinfo := f.info }
/-- A trap is fatal when TVEC = 0 or the block at fault lies at TVEC (R389). -/
def Thread.fatal (t : Thread) (faulting : Word) : Bool := t.tvec == 0 || t.tvec == faulting
/-- A thread takes a trap (R387): `block` goes to TBLOCK, `faulting` is the block that faults or holds the SYSC. After a fatal trap the
thread runs no more: it is saved with the record as at pre-emption, and its team is killed with the class 5 witness (R389; CONTEXT_SAVE_END). -/
def State.takeTrap (s : State) (tid : Nat) (f : FaultRec) (block faulting : Word) : State :=
  let s := s.discardFlight tid
  let t := (s.thread tid).record f block
  if t.fatal faulting then
    s.setThread tid { t with status := .stopping, dying := some (errWitness 5 (f.cause * 2 ^ 48 + block.toNat % 2 ^ 48)) }
  else s.setThread tid { t with supervisor := true, pc := t.tvec, hold := .free }
/-- Returning from a trap at the commit of an ERET's block (R116): the mode of TCAUSE.PREV, the commit pointer at TBLOCK. -/
def Thread.eret (t : Thread) : Thread := { t with supervisor := t.tcause.getLsbD 8, pc := t.tblock }
/-- A fault of a block: the oldest block traps at once; a speculative one holds the fault (R17, R33). -/
def State.raise (s : State) (tid serial : Nat) (f : FaultRec) : State :=
  let t := s.thread tid
  match t.flight with
  | b :: _ =>
    if b.serial = serial then s.takeTrap tid f b.addr b.addr
    else s.setThread tid { t with flight := t.flight.map (fun x => if x.serial = serial && x.held.isNone then { x with held := some f } else x) }
  | [] => s

end Sys2Proof.Machine
end

