-- ==== Sys2Proof/Machine/Operands.lean ====
section
/-! DEFINITION. Operand forms and firing (R20 to R25, R79, R87, R130): what each instruction takes, what its words supply, how P
selects, where results go; and one operation, `runSlot`, through which every instruction of a block fires. -/
namespace Sys2Proof

/-! What an instruction takes. -/
/-- The token type an operand asks for (R21); `result` also takes the promise of a deferred result (R19, R29). -/
inductive Want where
  | scalar | vector | mask | any | count | result
  deriving DecidableEq, Repr
def wA : List (Opnd × Want) := [(.a, .scalar)]
def wAB : List (Opnd × Want) := [(.a, .scalar), (.b, .scalar)]
def wABC : List (Opnd × Want) := [(.a, .scalar), (.b, .scalar), (.c, .scalar)]
def wV : List (Opnd × Want) := [(.a, .vector)]
def wVV : List (Opnd × Want) := [(.a, .vector), (.b, .vector)]
def wVVV : List (Opnd × Want) := [(.a, .vector), (.b, .vector), (.c, .vector)]
def wM : List (Opnd × Want) := [(.a, .mask)]
def wMM : List (Opnd × Want) := [(.a, .mask), (.b, .mask)]
/-- The operands of an opcode's description, C of a witness-taking instruction among them (R87). -/
def Opcode.wants : Opcode → List (Opnd × Want)
  | .rds | .rdv | .rdm | .null | .lit | .pcb | .br | .call | .yield | .halt | .sysc | .trap | .eret | .csrr | .icinv | .wnow
  | .vid | .mrel | .mrd | .mzero | .wloada | .wswap | .wstat | .cpgo | .cpqf => []
  | .wrs => [(.a, .result)]
  | .wrv => [(.a, .vector)]
  | .wrm => wM
  | .mov => [(.a, .any)]
  | .bri | .calli | .csrw | .lclaim | .clz | .ctz | .popc | .bswap | .sptest | .wtest | .wfloor | .mclaim | .mdecay | .wtable
  | .wexp | .mspill | .pfence | .pstat | .cpset | .cpstat | .cpabort | .pref | .vfill | .vbcast | .bar => wA
  | .tlbinv | .setvl | .add | .sub | .mul | .mulh | .mulhn | .div | .divn | .rem | .remn | .and | .or | .xor | .andn | .shl | .shr
  | .sra | .rotl | .min | .max | .minn | .maxn | .sext | .zext | .bfx | .teq | .tne | .tlt | .tle | .tltn | .tlen | .tbit
  | .spcast | .padd | .wjoin | .plock | .punlock | .plaunch | .wcfg | .mfill | .claimel => wAB
  | .bfi | .sel | .acas | .aadd | .aswap | .amin | .amax | .aand | .aor | .axor | .st | .mwait | .vlds => wABC
  | .ld | .vld | .vldff | .wload | .vldp => [(.a, .scalar), (.c, .scalar)]
  | .vldx | .vst | .vstp | .vsts => [(.a, .scalar), (.b, .vector), (.c, .scalar)]
  | .vstx | .vsadd => [(.a, .scalar), (.b, .vector), (.c, .vector)]
  | .vadd | .vsub | .vmul | .vmulw | .vdiv | .vmin | .vmax | .vand | .vor | .vxor | .vceq | .vcne | .vclt | .vcle | .vcun
  | .vperm => wVV
  | .vfma | .vfms | .vdot => wVVV
  | .vsqrt | .vrcp | .vrsq | .vexp2 | .vlog2 | .vabs | .vneg | .vnot | .vclass | .vcvt | .vscale | .vtag | .vsum | .vrmax
  | .vrmin | .mmul | .mwr => wV
  | .vshl | .vshr | .vsra => [(.a, .vector), (.b, .count)]
  | .vsel => [(.a, .vector), (.b, .vector), (.c, .mask)]
  | .vrot | .vslide | .vext => [(.a, .vector), (.b, .scalar)]
  | .vins => [(.a, .vector), (.b, .scalar), (.c, .scalar)]
  | .vcomp | .vexpd => [(.a, .vector), (.b, .mask)]
  | .mand | .mor | .mxor => wMM
  | .mnot | .mpop | .mfirst => wM
/-- The memory-class opcodes that take C in every form: the strides, indices and ACAS's expected value (R166). -/
def Opcode.ownC : Opcode → Bool
  | .vsts | .vstx | .vsadd | .acas => true
  | _ => false
/-- The memory-class opcodes whose literal is a tag, not operand B (R179, R262). -/
def Opcode.litTag : Opcode → Bool
  | .vld | .vlds | .vldx | .vldff | .vldp => true
  | _ => false
def Raw.w2 (r : Raw) : Word32 :=
  match r.form with
  | .x _ _ w => w | .px _ w => w | .v _ _ w _ => w | .k _ _ w => w | .m _ m _ => m.off | .imm _ (.word _ v) => v
  | _ => 0
/-- IB of R136, on the opcodes that have it. -/
def Raw.ib (r : Raw) : Bool :=
  match r.op with
  | .vshl | .vshr | .vsra | .vrot | .vslide | .vext | .vins => r.w2.msb
  | _ => false
/-- The operands an instruction takes tokens for, P aside (R87). -/
def Raw.takes (r : Raw) : List (Opnd × Want) :=
  let drop (o : Opnd) := r.op.wants.filter (fun e => e.1 != o)
  match r.form with
  | .imm .. => drop .b
  | .v _ _ _ (some _) => drop .a
  | .v .. => if r.ib then drop .b else if r.op = .vdot && !r.w2.getLsbD 0 then drop .c else r.op.wants
  | .m _ m l =>
    r.op.wants.filter (fun e => !(e.1 == .b && l.isSome && !r.op.litTag) && !(e.1 == .c && !m.wi && !r.op.ownC))
  | .x .. => if r.op = .bar && r.w2.getLsbD 15 then [] else r.op.wants
  | .k .. => if r.op = .mfill && !r.w2.getLsbD 2 then drop .b else r.op.wants
  | .b _ => if r.op = .vdot then drop .c else r.op.wants
  | _ => r.op.wants

/-- PR (R78). -/
def Raw.pr (r : Raw) : Pred :=
  match r.form with
  | .rr f => f.pr | .rw f => f.pr | .j f => f.pr | .b b => b.pr | .p p => p | .x b _ _ => b.pr | .px p _ => p | .imm b _ => b.pr
  | .v b _ _ _ => b.pr | .m b _ _ => b.pr | .k k _ _ => k.pr
/-- T0 to T3 (R79). -/
def Raw.targets (r : Raw) : List Target :=
  match r.form with
  | .rr f => [f.t0]
  | .b b => [b.t0, b.t1]
  | .x b x _ => [b.t0, b.t1, x.t2, x.t3]
  | .imm b (.word x _) => [b.t0, b.t1, x.t2, x.t3]
  | .imm b (.litX x _) => [b.t0, b.t1, x.t2, x.t3]
  | .imm b (.lit _) => [b.t0, b.t1]
  | .v b v _ _ => [b.t0, b.t1, v.t2, v.t3]
  | .m b m _ => [b.t0, b.t1, m.t2]
  | .k _ k _ => [k.t0, k.t1, k.t2]
  | _ => []
def Raw.reg (r : Raw) : Nat := match r.form with | .rr f => f.reg.toNat | .rw f => f.reg.toNat | _ => 0
def Raw.vword (r : Raw) : VWord := match r.form with | .v _ v _ _ => v | _ => ⟨none, none, 0, .dyn, false, false⟩
def Raw.mword (r : Raw) : MWord := match r.form with | .m _ m _ => m | _ => ⟨none, 0, 0, .generic, false, false, false, false, false, false, 0⟩
def Raw.lit (r : Raw) : Option Word := match r.form with | .m _ _ l => l | .v _ _ _ l => l | _ => none
def Raw.lsid (r : Raw) : Option Nat := match r.form with | .m _ m _ => some m.lsid.toNat | _ => none
def Raw.msid (r : Raw) : Option Nat := match r.form with | .k k _ _ => some k.msid.toNat | _ => none
/-- What the words supply in place of operand B (R77, R86, R136). -/
def Raw.immB (r : Raw) : Option Word :=
  match r.form with
  | .imm _ (.word _ v) => some (v.signExtend 64)
  | .imm _ (.lit v) => some v
  | .imm _ (.litX _ v) => some v
  | .m _ _ (some l) => if r.op.wants.any (fun e => e.1 == .b) && !r.op.litTag then some l else none
  | .v _ _ w _ => if r.ib then some (match r.op with | .vshl | .vshr | .vsra => (w.setWidth 8).setWidth 64 | _ => (w.setWidth 14).setWidth 64) else none
  | _ => none
/-- What the literal of VFILL and VBCAST supplies in place of A (R153). -/
def Raw.immA (r : Raw) : Option Word := match r.form with | .v _ _ _ l => l | _ => none

/-- Where an instruction's results go (R79). -/
def Raw.sends {α : Type} (r : Raw) (main alt : Option α) : List (TargetRef × α) :=
  (r.targets.zipIdx).filterMap (fun e =>
    match e.1, (if e.2 < 2 then main else match alt with | some t => some t | none => main) with
    | some t, some k => some (t, k)
    | _, _ => none)

/-! Classes of opcodes. -/
/-- The store class (R86). -/
def Opcode.store : Opcode → Bool
  | .st | .vst | .vsts | .vstx | .vsadd | .aadd | .aswap | .acas | .amin | .amax | .aand | .aor | .axor | .claimel | .vstp => true
  | _ => false
def Opcode.isExit : Opcode → Bool
  | .br | .bri | .call | .calli | .yield | .halt | .sysc => true
  | _ => false
def Opcode.writesReg : Opcode → Bool
  | .wrs | .wrv | .wrm => true
  | _ => false
/-- The instructions whose results are deferred (R29). -/
def Opcode.deferred (o : Opcode) : Bool :=
  o.store || (match o with | .setvl | .lclaim | .mclaim | .cpgo | .plock | .plaunch | .bar => true | _ => false)
/-- Instructions on whose elements P and nulls act one by one (R22, R23); on the others a mask P acts through bit 0 (R130). MOV is either, as its
operand is. -/
def Opcode.elementwise : Opcode → Bool
  | .mov | .rdv | .rdm | .wrv | .wrm | .mmul | .mrd | .mwr | .wexp | .vld | .vlds | .vldx | .vldff | .vldp | .vst | .vsts | .vstx | .vsadd | .vstp => true
  | .vadd | .vsub | .vmul | .vmulw | .vfma | .vfms | .vdiv | .vsqrt | .vrcp | .vrsq | .vexp2 | .vlog2 | .vmin | .vmax | .vabs | .vneg => true
  | .vand | .vor | .vxor | .vnot | .vshl | .vshr | .vsra | .vceq | .vcne | .vclt | .vcle | .vcun | .vclass | .vsel | .vfill | .vbcast | .vid => true
  | .vcvt | .vscale | .vtag | .vsum | .vrmax | .vrmin | .vdot | .vperm | .vrot | .vslide | .vcomp | .vexpd | .vext | .vins => true
  | .mand | .mor | .mxor | .mnot | .mpop | .mfirst => true
  | _ => false
/-- Instructions that check the tags of vector operands (R56), the type of each operand among them. -/
def Opcode.tagged : Opcode → Bool
  | .mmul | .mwr | .vldx | .vst | .vsts | .vstx | .vsadd | .vstp => true
  | .vadd | .vsub | .vmul | .vmulw | .vfma | .vfms | .vdiv | .vsqrt | .vrcp | .vrsq | .vexp2 | .vlog2 | .vmin | .vmax | .vabs | .vneg => true
  | .vand | .vor | .vxor | .vnot | .vshl | .vshr | .vsra | .vceq | .vcne | .vclt | .vcle | .vcun | .vclass | .vsel => true
  | .vcvt | .vscale | .vtag | .vsum | .vrmax | .vrmin | .vdot | .vperm | .vrot | .vslide | .vcomp | .vexpd | .vext | .vins => true
  | _ => false
/-- Instructions that FLOOR bounds or that test it (R172, R190). -/
def Opcode.underFloor : Opcode → Bool
  | .ld | .vld | .vlds | .vldx | .vldff | .mwait | .pref | .wtest | .vldp | .vstp | .plock | .punlock | .plaunch | .cpgo => true
  | _ => false
/-- Instructions that act on the matrix unit's state (R196), the claim's own aside. -/
def Opcode.onView : Opcode → Bool
  | .mmul | .mrd | .mwr | .mzero | .mdecay | .wcfg | .wtable | .wload | .wloada | .wswap | .wexp | .wstat | .mspill | .mfill => true
  | _ => false
/-- `r` reads what `o`, of an older block, writes when its block commits, so it fires after that commit: the mode, a CSR, translation or the
place of the next block; VL and the grant (R126); a vector or mask register (R28); FLOOR (R172); the claim (R45) and the state of R196
(R202); the row locks (R244, R248, R261); the shadow set, and a queue's entries (R266, R271). Every other pair fires in any order (R17, R34). -/
def Raw.follows (r o : Raw) : Bool :=
  let csr := r.op == .csrr
  match o.op with
  | .csrw | .eret | .icinv | .tlbinv | .yield | .halt | .sysc | .bar => true
  | .setvl | .lclaim | .claimel => r.op.elementwise || r.op.onView || csr
  | .wrv => r.op == .rdv && r.reg == o.reg
  | .wrm => r.op == .rdm && r.reg == o.reg
  | .wfloor => r.op.underFloor || r.op.onView || csr
  | .mspill => r.op.underFloor || r.op.onView || csr
  | .mmul | .mrd | .mwr | .mzero | .mdecay | .wcfg | .wtable | .wload | .wloada | .wswap | .wexp | .wstat | .mfill | .mclaim | .mrel => r.op.onView || csr
  | .plock | .punlock => r.op == .plock || r.op == .plaunch || r.op == .vldp || r.op == .vstp
  | .cpset => r.op == .cpgo || csr
  | .cpgo | .cpqf => r.op == .cpstat || r.op == .cpabort || csr
  | .cpabort => r.op == .cpstat
  | _ => false
/-- Instructions that fire in a speculative block whatever the older blocks hold: they read nothing but tokens and s registers. -/
def Opcode.scalarClass : Opcode → Bool
  | .rds | .wrs | .mov | .null | .lit | .pcb | .br | .bri | .call | .calli | .yield | .halt | .sysc | .trap
  | .add | .sub | .mul | .mulh | .mulhn | .div | .divn | .rem | .remn | .and | .or | .xor | .andn | .shl | .shr | .sra | .rotl
  | .min | .max | .minn | .maxn | .clz | .ctz | .popc | .bswap | .sext | .zext | .bfx | .bfi | .sel | .teq | .tne | .tlt | .tle
  | .tltn | .tlen | .tbit | .sptest | .padd => true
  | _ => false
/-- Instructions that change nothing of the thread but s registers, its place and FFLAGS when their block commits: past blocks made of
these alone, the CSRs that a younger block began with stand (R28, R117). -/
def Opcode.quiet : Opcode → Bool
  | .yield | .halt | .sysc | .trap => false
  | .spcast | .rdv | .rdm | .vadd | .vsub | .vmul | .vmulw | .vfma | .vfms | .vdiv | .vsqrt | .vrcp | .vrsq | .vexp2 | .vlog2 | .vmin
  | .vmax | .vabs | .vneg | .vand | .vor | .vxor | .vnot | .vshl | .vshr | .vsra | .vceq | .vcne | .vclt | .vcle | .vcun | .vclass
  | .vsel | .vfill | .vbcast | .vid | .vcvt | .vscale | .vtag | .vsum | .vrmax | .vrmin | .vdot | .vperm | .vrot | .vslide | .vcomp
  | .vexpd | .vext | .vins | .mand | .mor | .mxor | .mnot | .mpop | .mfirst | .ld | .vld | .vlds | .vldx | .vldff | .wjoin | .wnow
  | .wtest | .pref | .pfence | .pstat | .cpstat => true
  | o => o.scalarClass

end Sys2Proof
namespace Sys2Proof.Machine

def Token.fits : Token → Want → Bool
  | .null, _ => true
  | _, .any => true
  | .scalar _, .scalar => true
  | .scalar _, .count => true
  | .scalar _, .result => true
  | .deferred .., .result => true
  | .vector .., .vector => true
  | .vector .., .count => true
  | .mask _, .mask => true
  | _, _ => false

/-! Blocks in flight. -/
/-- The instruction of a slot. -/
def BlockExec.raw (b : BlockExec) (slot : Nat) : Option Raw :=
  match b.offs[slot]? with
  | none => none
  | some o => match decodeSlot (b.words.drop o) with
    | .ok r _ => some r
    | _ => none
def BlockExec.raws (b : BlockExec) : List Raw := (List.range b.offs.length).filterMap b.raw
def BlockExec.tok (b : BlockExec) (slot : Nat) (o : Opnd) : Option Token :=
  (b.toks.find? (fun t => t.slot == slot && t.opnd == o)).map (·.tok)
def BlockExec.resolved (b : BlockExec) (slot : Nat) : Bool := b.fired.contains slot || b.declined.contains slot
def Thread.block (t : Thread) (serial : Nat) : Option BlockExec := t.flight.find? (·.serial == serial)
def Thread.updBlock (t : Thread) (serial : Nat) (f : BlockExec → BlockExec) : Thread :=
  { t with flight := t.flight.map (fun b => if b.serial = serial then f b else b) }
def State.updBlock (s : State) (tid serial : Nat) (f : BlockExec → BlockExec) : State :=
  s.setThread tid ((s.thread tid).updBlock serial f)
/-- The blocks in flight before a block. -/
def Thread.older (t : Thread) (serial : Nat) : List BlockExec := t.flight.takeWhile (fun b => b.serial != serial)

/-! Firing. -/
/-- How P acts on elements (R22): it selects them all, or is null, or is a mask: true where the bit matches PR, none where it is null. -/
inductive PMode where
  | all | null | mask (bits : List (Option Bool))
  deriving DecidableEq, Repr
/-- Element e is not predicated off. -/
def PMode.on (p : PMode) (e : Nat) : Bool :=
  match p with
  | .all => true
  | .null => false
  | .mask l => l[e]?.getD none == some true
/-- What P decides. -/
inductive PDecision where
  | waits | declines | wrong | fires (p : PMode)
  deriving DecidableEq, Repr
def decideP (pr : Pred) (tok : Option Token) : PDecision :=
  match pr, tok with
  | .always, _ => .fires .all
  | _, none => .waits
  | pr, some t =>
    let want := pr == .onTrue
    match t with
    | .null => .fires .null
    | .scalar v => if v.getLsbD 0 == want then .fires .all else .declines
    | .mask l => .fires (.mask (l.map (fun b => b.map (fun x => x == want))))
    | _ => .wrong

/-- What P decides for an instruction: one without elements is declined by a mask whose bit 0 fails PR (R130). -/
def decisionOf (r : Raw) (tok : Option Token) : PDecision :=
  match decideP r.pr tok with
  | .fires (.mask l) => if !r.op.elementwise && l[0]?.getD none == some false then .declines else .fires (.mask l)
  | d => d

/-- The firing instruction: where it stands, its operands (null where it takes none), how P acts. -/
structure Firing where
  st : State
  tid : Nat
  serial : Nat
  slot : Nat
  thread : Thread
  block : BlockExec
  oldest : Bool
  raw : Raw
  a : Token
  b : Token
  c : Token
  p : PMode
/-- What a firing gives: the result of T0 and T1, that of T2 and T3 where it differs, effects at commit, flags, the exit. -/
structure Out where
  main : Option Token := none
  alt : Option Token := none
  effs : List Effect := []
  flags : Flags := 0
  exit : Option ExitKind := none
/-- How a firing ends: with its outputs; with outputs that come later; not yet, or not before something it has asked for; unfired by
its P; with a fault. -/
inductive Fired where
  | give (s : State) (o : Out)
  | later (s : State)
  | wait
  | stall (s : State)
  | skip (s : State)
  | fault (s : State) (f : FaultRec)

def Token.word : Token → Word
  | .scalar v => v
  | _ => 0
def Firing.tok (x : Firing) : Opnd → Token
  | .a => x.a | .b => x.b | .c => x.c | .p => .null
/-- Some operand it takes is wholly null (R23). -/
def Firing.anyNull (x : Firing) : Bool := x.raw.takes.any (fun e => x.tok e.1 == .null)
def Firing.failInfo (x : Firing) (cause info : Nat) : Fired := .fault x.st (mkFault cause x.slot info 0 0)
def Firing.failAt (x : Firing) (cause info : Nat) (addr : Word) : Fired := .fault x.st (mkFault cause x.slot info addr.toNat 0)
def Out.tok (t : Token) : Out := { main := some t }
def Out.eff (e : Effect) : Out := { effs := [e] }
def Firing.tile (x : Firing) : Nat := x.thread.tile
def Firing.party (x : Firing) : Nat := partyOf x.tid x.thread.team
def Firing.vl (x : Firing) : Nat := x.thread.vl

/-- A token at an operand: the second one there faults (R24). -/
def State.deliver1 (s : State) (tid serial : Nat) (t : TargetRef) (k : Token) : State :=
  match (s.thread tid).block serial with
  | none => s
  | some b =>
    if (b.tok t.slot.toNat t.opnd).isSome then
      s.raise tid serial (mkFault cDUPTOKEN t.slot.toNat (match t.opnd with | .a => 0 | .b => 1 | .c => 2 | .p => 3) 0 0)
    else s.updBlock tid serial (fun b => { b with toks := b.toks ++ [⟨t.slot.toNat, t.opnd, k⟩], stuck := [] })
def State.deliver (s : State) (tid serial : Nat) (r : Raw) (main alt : Option Token) : State :=
  (r.sends main alt).foldl (fun s e => s.deliver1 tid serial e.1 e.2) s
/-- A firing's outputs take their places in its block; a second exit faults (R25). -/
def State.finish (s : State) (x : Firing) (o : Out) : State :=
  if o.exit.isSome && x.block.exit.isSome then s.raise x.tid x.serial (mkFault cBLOCKFMT x.slot 2 0 0)
  else
    let s := s.updBlock x.tid x.serial (fun b =>
      { b with fired := b.fired ++ [x.slot], stuck := [], effects := b.effects ++ o.effs.map (fun e => ⟨x.slot, e⟩), flags := b.flags ||| o.flags,
               exit := (match o.exit with | some e => some (x.slot, e) | none => b.exit) })
    s.deliver x.tid x.serial x.raw o.main o.alt
/-- A result that comes after its firing (R26): the slot no longer waits, its targets receive. -/
def State.arrive (s : State) (tid serial slot : Nat) (main alt : Option Token) : State :=
  match (s.thread tid).block serial with
  | none => s
  | some b => match b.raw slot with
    | none => s
    | some r =>
      (s.updBlock tid serial (fun b => { b with awaiting := b.awaiting.filter (· != slot) })).deliver tid serial r main alt

/-- The instruction may fire in its block: the oldest, or a younger one past blocks with nothing that writes what it reads
(R17, R28, R45, R117, R126, R202; log entry 73). -/
def Thread.mayFire (t : Thread) (serial : Nat) (r : Raw) : Bool :=
  r.op.scalarClass || (t.older serial).all (fun b => b.decoded && b.raws.all (fun o => !r.follows o))
/-- A lane group of the grant runs its self-test: every instruction of the grant waits (R400). -/
def State.laneTested (s : State) (t : Thread) : Bool := (s.tile t.tile).testing.any (fun x => t.lanes.getLsbD x.group)
/-- The slot the step is about, in flight and decoded, with its operands as they stand. -/
def State.site (s : State) (r : Raw) : Option Firing :=
  match s.focus with
  | .slot tid serial slot =>
    let t := s.thread tid
    match t.block serial with
    | none => none
    | some b =>
      if (t.status != .running && t.status != .stopping) || !b.decoded || b.resolved slot || !t.mayFire serial r || s.laneTested t then none
      else
        let opnd (o : Opnd) : Token := (b.tok slot o).getD .null
        some { st := s, tid := tid, serial := serial, slot := slot, thread := t, block := b,
               oldest := (t.flight.head?.map (·.serial)) == some serial, raw := r,
               a := (match r.immA with | some v => .scalar v | none => opnd .a),
               b := (match r.immB with | some v => .scalar v | none => opnd .b), c := opnd .c, p := .all }
  | _ => none
/-- Every operand the instruction needs has arrived (R20). -/
def Firing.ready (x : Firing) : Bool := x.raw.takes.all (fun e => (x.block.tok x.slot e.1).isSome)
def Firing.typed (x : Firing) : Bool := x.raw.takes.all (fun e => (x.tok e.1).fits e.2)
/-! Tags of vector registers: format, scale. -/
def tagFmt (tag : BitVec 16) : Nat := tag.toNat % 32
def tagScale (tag : BitVec 16) : Nat := tag.toNat / 32 % 256
def mkTag (fmt scale : Nat) : BitVec 16 := BitVec.ofNat 16 (fmt + 32 * scale)
/-- The number of an operand in TINFO. -/
def opndNo : Opnd → Nat
  | .a => 0 | .b => 1 | .c => 2 | .p => 3
/-- The first operand, in the order A, B, C, whose token has another type than the instruction asks for (R21). -/
def Firing.misfit (x : Firing) : Option Opnd := (x.raw.takes.find? (fun e => !(x.tok e.1).fits e.2)).map (·.1)
/-- What an operand of the wrong type raises (R21): TAGFMT, or TAGNONE for a vector under tag NONE (R14), which the register writes do not look
at (R106). -/
def Firing.misfitFault (x : Firing) (o : Opnd) : FaultRec :=
  match x.tok o with
  | .vector t .. => if tagFmt t = 0 && !x.raw.op.writesReg then mkFault cTAGNONE x.slot (opndNo o) 0 0 else mkFault cTAGFMT x.slot 1 0 0
  | _ => mkFault cTAGFMT x.slot 1 0 0
def State.decline (s : State) (x : Firing) : State :=
  s.updBlock x.tid x.serial (fun b => { b with declined := b.declined ++ [x.slot], stuck := [] })
def Fired.run (x : Firing) : Fired → State
  | .give s o => s.finish x o
  | .later s => s.updBlock x.tid x.serial (fun b => { b with fired := b.fired ++ [x.slot], awaiting := b.awaiting ++ [x.slot] })
  | .wait => x.st
  | .stall s => s
  | .skip s => s.decline x
  | .fault s f => s.raise x.tid x.serial f
/-- The slot waits for an instruction of its block that lacks an operand: nothing of it can fire before that one does (R27, R170, R202). -/
def Firing.stick (x : Firing) : Fired :=
  .stall (x.st.updBlock x.tid x.serial (fun b => { b with stuck := if b.stuck.contains x.slot then b.stuck else b.stuck ++ [x.slot] }))
/-- Fires the slot the step is about as the instruction `r`, by its body. Where the slot is not there to fire, or its operands have not
all arrived, nothing happens (log entry 14). A wrong type is met before C = 0 of R106 (DESIGN CHOICE, log entry 63). -/
def runSlot (r : Raw) (body : Firing → Fired) (s : State) : State :=
  match s.site r with
  | none => s
  | some x =>
    match decisionOf r (x.block.tok x.slot .p) with
    | .waits => s
    | .declines => s.decline x
    | .wrong => s.raise x.tid x.serial (mkFault cTAGFMT x.slot 1 0 0)
    | .fires p =>
      if !x.ready then s
      else match (if r.op.tagged then none else x.misfit) with
      | some o => s.raise x.tid x.serial (x.misfitFault o)
      | none =>
        (body { x with p := p }).run x

/-! The ways P and nulls act on instructions of each kind. -/
/-- An instruction without elements (R130): a mask P acts through bit 0; a null P or operand leaves `none'`. -/
def Firing.whole (x : Firing) (none' : Out) (go : Fired) : Fired :=
  let live : Fired := if x.anyNull then .give x.st none' else go
  match x.p with
  | .all => live
  | .null => .give x.st none'
  | .mask l => match l[0]?.getD none with
    | none => .give x.st none'
    | some false => .skip x.st
    | some true => live
/-- One with a scalar result. -/
def Firing.value (x : Firing) (v : Word) : Fired := x.whole (Out.tok .null) (.give x.st (Out.tok (.scalar v)))
/-- One with an effect at commit and no result. -/
def Firing.effect (x : Firing) (e : Effect) : Fired := x.whole {} (.give x.st (Out.eff e))
/-- One with a deferred result: a null firing resolves its targets with null. -/
def Firing.deferring (x : Firing) (e : Effect) : Fired :=
  x.whole (Out.tok .null) (.give x.st { main := some (.deferred x.slot 0), effs := [e] })
/-- A thread without lane groups (R38, R106). -/
def Firing.needLanes (x : Firing) (go : Fired) : Fired := if x.thread.groups = 0 then x.failInfo cNOLANES 0 else go

end Sys2Proof.Machine
end

