-- ==== Sys2Proof/Machine/Csr.lean ====
section
/-! DEFINITION. CSRs (R60, R70, R117 to R121, R374, R384, R385, R433, R434): what a read delivers and what a write does, one
operation for each register; interleave-map writes (R294) and TLB invalidation (R123). -/
namespace Sys2Proof.Machine

/-! Interleave regions. -/
/-- How many portions a region has (R294). -/
def regionCount (r : Region') : Bool :=
  let n := r.size / Nat.max r.psz 1
  if r.mode = 0 then 1 ≤ n && n ≤ 384 - r.pcFirst else if r.mode = 1 || r.mode = 3 then n == 384 else n == 3072
def regionFits (r : Region') : Bool :=
  r.mode ≤ 4 && 1 ≤ r.psz && r.psz ≤ 128 && r.off + r.psz ≤ 128 && 1 ≤ r.size && r.size % r.psz == 0 && regionCount r &&
  (r.mode == 0 || r.pcFirst == 0) && !((r.mode == 2 || r.mode == 4) && r.cluster != 0) && r.base + r.size ≤ 393216
def Region'.allStacks (r : Region') : Bool := r.mode == 2 || r.mode == 4
/-- The pseudo-channels of a region in each of its stacks: the first and how many. -/
def Region'.pcs (r : Region') : Nat × Nat := if r.mode = 0 then (r.pcFirst, r.size / Nat.max r.psz 1) else (0, 384)
def overlaps (a n b m : Nat) : Bool := a < b + m && b < a + n
/-- Two regions overlap in addresses, or in the portions they take of one pseudo-channel (R294; log entry 15). -/
def Region'.meets (r q : Region') : Bool :=
  overlaps r.base r.size q.base q.size ||
  ((r.allStacks || q.allStacks || r.cluster == q.cluster) && overlaps r.pcs.1 r.pcs.2 q.pcs.1 q.pcs.2 &&
    overlaps r.off r.psz q.off q.psz)
/-- The writable bits of ILA and ILB (R293). -/
def ilaMask : Word := 0x00007FFFF7FFFF0F
def ilbMask : Word := 0x00000000FFFFFF07
/-- A write of ILA of a region: VALID = 1 only where R294 lets it, else REJECT. -/
def writeIla (il : NMap (Word × Word)) (n : Nat) (v : Word) : NMap (Word × Word) :=
  let v := v &&& ilaMask
  let ilb := (mget (0, 0) il n).2
  match regionOf (v, ilb) with
  | none => mset (0, 0) il n (v, ilb)
  | some r =>
    let others := (mdel il n).filterMap (fun e => regionOf e.2)
    if regionFits r && others.all (fun q => !r.meets q) then mset (0, 0) il n (v, ilb)
    else mset (0, 0) il n ((v &&& ~~~1) ||| 16, ilb)

/-! TLB invalidation (R123). -/
inductive TlbScope where
  | page (asid : BitVec 12) (va : Nat) | asid (asid : BitVec 12) | all
  deriving DecidableEq, Repr
def TlbEntry.hit (e : TlbEntry) : TlbScope → Bool
  | .page a va => e.covers a va
  | .asid a => e.asid == a
  | .all => true
def keepTlb (k : TlbScope) (l : List TlbEntry) : List TlbEntry := l.filter (fun e => !e.hit k)
/-- Removes the matching entries from every L1 and L2 TLB of the device. -/
def State.dropTlb (s : State) (k : TlbScope) : State :=
  { s with tiles := s.tiles.map (fun e => (e.1, { e.2 with tlb := keepTlb k e.2.tlb })),
           clusters := s.clusters.map (fun e => (e.1, { e.2 with tlb := keepTlb k e.2.tlb })) }
/-- A walk in flight could install a matching entry (R123 step 3). -/
def State.walkPending (s : State) (k : TlbScope) : Bool :=
  s.walks.any (fun w => match k with | .page a va => w.asid == a && w.va / 2 ^ 30 == va / 2 ^ 30 | .asid a => w.asid == a | .all => true)

/-! Reads. -/
/-- The matrix state a thread sees: the claim's where it holds it, else that of a thread without one (R119, R196). -/
def State.mxOf (s : State) (tid : Nat) : MxState :=
  let t := s.tile (s.tileOf tid)
  if t.claimant = some tid then t.mx else MxState.grant
def repairWord (c : Cluster) : Word :=
  BitVec.ofNat 64 (c.rowsSpared % 2 ^ 16 + c.banksRetired % 256 * 2 ^ 16 + c.tilesRetired % 256 * 2 ^ 24 + c.groupsOut % 256 * 2 ^ 32 +
    c.linksDegraded % 256 * 2 ^ 40)
/-- The value of a CSR (R117, R119, R384, R433); 0 for a number the decoder refuses. -/
def State.csrRead (s : State) (tid num : Nat) : Word :=
  let t := s.thread tid
  let c := clusterOfTile t.tile
  let k := s.cluster c
  match num with
  | 0x000 => BitVec.ofNat 64 tid
  | 0x001 => BitVec.ofNat 64 t.tile
  | 0x002 => BitVec.ofNat 64 c
  | 0x003 => s.deviceNo.setWidth 64
  | 0x004 => t.region
  | 0x005 => t.teamCsr
  | 0x010 => BitVec.ofNat 64 t.vl
  | 0x011 => BitVec.ofNat 64 t.vlmax
  | 0x012 => t.lanes.setWidth 64
  | 0x020 => timeWitness t.floor
  | 0x021 => timeWitness (s.tile t.tile).horizon
  | 0x030 => t.fflags.setWidth 64
  | 0x031 => t.frm.setWidth 64
  | 0x040 => (s.mxOf tid).wprog
  | 0x041 => (s.mxOf tid).wstat
  | 0x050 => BitVec.ofNat 64 s.cycle
  | 0x051 => t.blocks
  | 0x100 => t.tcause
  | 0x101 => t.tblock
  | 0x102 => t.tslot
  | 0x103 => t.taddr
  | 0x104 => t.telem
  | 0x105 => t.tvec
  | 0x106 => t.tsave
  | 0x107 => t.tinfo
  | 0x108 => t.savea
  | 0x110 => t.asid.setWidth 64
  | 0x111 => BitVec.ofNat 64 ((mget none s.asidTab t.asid.toNat).getD 0)
  | 0x112 => t.lease.setWidth 64
  | 0x120 => BitVec.ofNat 64 (s.core t.core).fwshare
  | 0x130 => BitVec.ofNat 64 k.mth
  | 0x131 => BitVec.ofNat 64 ((if k.poff then 1 else 0) + k.patrol * 256)
  | 0x133 => BitVec.ofNat 64 k.ilsel
  | 0x134 => (mget (0, 0) k.il k.ilsel).1
  | 0x135 => (mget (0, 0) k.il k.ilsel).2
  | 0x136 => BitVec.ofNat 64 k.brsel
  | 0x137 => mget 0 k.remap k.brsel
  | 0x138 => BitVec.ofNat 64 (k.logged % 2 ^ 32 + k.dropped % 2 ^ 32 * 2 ^ 32)
  | 0x139 => repairWord k
  | _ => 0

/-! Writes. -/
def frmOk (v : Word) : Bool := 1 ≤ bitsAt v 0 3 && bitsAt v 0 3 ≤ 5
/-- A write of FRM (R60). -/
def Thread.writeFrm (t : Thread) (v : Word) : Thread := if frmOk v then { t with frm := v.setWidth 3 } else t
/-- A write of LEASE (R384). -/
def Thread.writeLease (t : Thread) (v : Word) : Thread := if bitsAt v 0 16 = 0 then t else { t with lease := v.setWidth 16 }
/-- The CSRs that are a thread's own (R60, R70, R384, R385). -/
def Thread.writeCsr (t : Thread) (num : Nat) (v : Word) : Thread :=
  match num with
  | 0x030 => { t with fflags := v.setWidth 6 }
  | 0x031 => t.writeFrm v
  | 0x100 => { t with tcause := zextW v 9 }
  | 0x101 => { t with tblock := v &&& ~~~63 }
  | 0x102 => { t with tslot := v }
  | 0x103 => { t with taddr := v }
  | 0x104 => { t with telem := zextW v 32 }
  | 0x105 => { t with tvec := v &&& ~~~63 }
  | 0x106 => { t with tsave := v }
  | 0x107 => { t with tinfo := v }
  | 0x110 => { t with asid := v.setWidth 12 }
  | 0x112 => t.writeLease v
  | _ => t
/-- A write of PTROOT: the ASID table's entry, then a TLBINV of scope 01 (R376). -/
def State.writePtroot (s : State) (tid : Nat) (v : Word) : State :=
  let a := (s.thread tid).asid
  { s with asidTab := mset none s.asidTab a.toNat (some (bitsAt v 16 36 * 2 ^ 16)) }.dropTlb (.asid a)
/-- A write of MTH (R434). -/
def Cluster.writeMth (k : Cluster) (v : Word) : Cluster :=
  let m := bitsAt v 0 14
  if 256 ≤ m && m ≤ 8192 then { k with mth := m } else k
/-- A write of REFCTL (R434). -/
def Cluster.writeRefctl (k : Cluster) (v : Word) : Cluster :=
  { k with poff := v.getLsbD 0, patrol := if bitsAt v 8 8 = 0 then k.patrol else bitsAt v 8 8 }
def Cluster.writeIlaWord (k : Cluster) (v : Word) : Cluster := { k with il := writeIla k.il k.ilsel v }
def Cluster.writeIlb (k : Cluster) (v : Word) : Cluster := { k with il := mset (0, 0) k.il k.ilsel ((mget (0, 0) k.il k.ilsel).1, v &&& ilbMask) }
/-- A write of FWSHARE (R374). -/
def Core.writeFwshare (c : Core) (v : Word) : Core := if bitsAt v 0 4 ≤ 8 then { c with fwshare := bitsAt v 0 4 } else c
def State.updCluster (s : State) (c : Nat) (f : Cluster → Cluster) : State := s.setCluster c (f (s.cluster c))

/-! A change of the map moves no data (R294): what is kept by the numbers that cluster 0's map gives is numbered anew. -/
/-- The key under map il' of the byte that had key k under map il. -/
def movedKey (il il' : NMap (Word × Word)) (k : Nat) : Nat :=
  let at' (p : Place) : Nat := (addressAt p il').getD (unmappedKey p)
  if k < Config.dramBytes then (findRegion k il).elim k (fun r => at' (r.1.place r.2))
  else if 2 ^ 49 ≤ k && k < 2 ^ 50 then at' (unmappedPlace k) else k
def ReqKind.rekey (f : Nat → Nat) : ReqKind → ReqKind
  | .write cells => .write (cells.map (fun c => (f c.1, c.2)))
  | .folds els => .folds (els.map (fun e => { e with key := f e.key }))
  | .atomic op key size b c sx => .atomic op (f key) size b c sx
  | .claimel key width count cap => .claimel (f key) width count cap
  | .row r => .row r
/-- Everything kept by address follows its DRAM place into the new map, requests already routed with it. -/
def State.moveData (s : State) (il il' : NMap (Word × Word)) : State :=
  if il = il' then s else
  let f := movedKey il il'
  let line (l : Nat) : Nat := f (l * 128) / 128
  let copy (c : Copy) : Copy := { c with line := line c.line }
  { s with
    mem := writeCells [] (s.mem.map (fun c => (f c.1, c.2))),
    err := s.err.foldl (fun m e => mset ErrMark.ok m (line e.1) e.2) [],
    lines := s.lines.foldl (fun m e => mset LineT.none m (line e.1) e.2) [],
    clusters := s.clusters.map (fun e => (e.1, { e.2 with lru := e.2.lru.map (fun b => f (b * 512) / 512), rdc := e.2.rdc.map copy })),
    tiles := s.tiles.map (fun e => (e.1, { e.2 with l1 := e.2.l1.map copy })),
    hostQ := s.hostQ.map (fun e => (e.1, { e.2 with armed := e.2.armed.map line })),
    loads := s.loads.map (fun l => if l.home.isNone then l else
      { l with parts := l.parts.map (fun p => { p with key := f p.key }), answer := l.answer.map copy }),
    stores := s.stores.map (fun r => if r.home.isNone then r else { r with kind := r.kind.rekey f }),
    trains := s.trains.map (fun t => if 8 ≤ t.dest then t else { t with els := t.els.map (fun e => { e with key := f e.key }) }),
    opened := s.opened.map line }
/-- A write that may change a cluster's map. -/
def State.writeMap (s : State) (c : Nat) (f : Cluster → Cluster) : State :=
  let t := s.updCluster c f
  if c = 0 then t.moveData (s.cluster 0).il (t.cluster 0).il else t

/-- A write of a CSR at commit (R118): what each register takes of the value. -/
def State.csrWrite (s : State) (tid num : Nat) (v : Word) : State :=
  let c := clusterOfTile (s.tileOf tid)
  match num with
  | 0x111 => s.writePtroot tid v
  | 0x120 => s.setCore (s.thread tid).core ((s.core (s.thread tid).core).writeFwshare v)
  | 0x130 => s.updCluster c (·.writeMth v)
  | 0x131 => s.updCluster c (·.writeRefctl v)
  | 0x133 => s.updCluster c (fun k => { k with ilsel := bitsAt v 0 4 })
  | 0x134 => s.writeMap c (·.writeIlaWord v)
  | 0x135 => s.writeMap c (·.writeIlb v)
  | 0x136 => s.updCluster c (fun k => { k with brsel := bitsAt v 0 4 })
  | n => s.setThread tid ((s.thread tid).writeCsr n v)

end Sys2Proof.Machine
end

