-- ==== Sys2Proof/Machine/RegFile.lean ====
section
/-! DEFINITION. Register files as blocks see them: s registers through the older blocks' writes (R28), vector registers and
tokens (R12 to R14, R36, R104, R105), masks. -/
namespace Sys2Proof.Machine

/-! Vector registers. -/
/-- The first slot of element e of a width, and how many slots it lies in (R36). -/
def slotOf (w e : Nat) : Nat := e * w / 32
def slotSpan (w : Nat) : Nat := if w = 64 then 2 else 1
/-- The elements a register of a grant holds at a width (R37). -/
def capacity (vlmax w : Nat) : Nat := vlmax * 32 / w
/-- The bits of element e. -/
def slotBits (slots : NMap Word32) (w e : Nat) : Word :=
  let j := slotOf w e
  if w = 64 then BitVec.ofNat 64 ((mget 0 slots j).toNat + 2 ^ 32 * (mget 0 slots (j + 1)).toNat)
  else BitVec.ofNat 64 ((mget 0 slots j).toNat / 2 ^ (w * (e % (32 / w))) % 2 ^ w)
/-- Replaces the bits of element e. -/
def putSlotBits (slots : NMap Word32) (w e : Nat) (v : Word) : NMap Word32 :=
  let j := slotOf w e
  if w = 64 then mset 0 (mset 0 slots j (v.setWidth 32)) (j + 1) (BitVec.ofNat 32 (v.toNat / 2 ^ 32))
  else
    let sh := w * (e % (32 / w))
    let old := (mget 0 slots j).toNat
    mset 0 slots j (BitVec.ofNat 32 (old - old / 2 ^ sh % 2 ^ w * 2 ^ sh + v.toNat % 2 ^ w * 2 ^ sh))
/-- A register as a token: its elements below VL, the marks of their slots (R14, R104) and its cells with errors, the tail's too (R143). An element
below VL that lies beyond the register's capacity under its tag, for which R104 names neither value nor fault, is null (DESIGN CHOICE, log entry 63). -/
def VReg.token (v : VReg) (bad : List Nat) (vl vlmax : Nat) : Token :=
  let w := (fmtOf (tagFmt v.tag)).width
  let elems := (List.range vl).map (fun e => if e < capacity vlmax w then some (slotBits v.slots w e) else none)
  let n := Nat.min vlmax ((vl * w + 31) / 32)
  .vector v.tag elems ((List.range n).filter (fun j => !mget false v.clear j)) bad
/-- A WRV of a token with its marks: its non-null elements, and its tag when there is one (R14, R105). -/
def VReg.writeElems (w : Nat) (marked : List Nat) (vlmax : Nat) : VReg → List (Option Word × Nat) → VReg
  | v, [] => v
  | v, (none, _) :: r => VReg.writeElems w marked vlmax v r
  | v, (some x, e) :: r =>
    if e < capacity vlmax w then
      let set := fun (c : NMap Bool) (j : Nat) => mset false c j (!marked.contains j)
      let c := set v.clear (slotOf w e)
      let c := if w = 64 then set c (slotOf w e + 1) else c
      VReg.writeElems w marked vlmax { v with slots := putSlotBits v.slots w e x, clear := c } r
    else VReg.writeElems w marked vlmax v r
def VReg.write (v : VReg) (tag : BitVec 16) (elems : List (Option Word)) (marked : List Nat) (vlmax : Nat) : VReg :=
  if elems.all (·.isNone) then v
  else (VReg.writeElems (fmtOf (tagFmt tag)).width marked vlmax v elems.zipIdx |> fun v => { v with tag := tag })
/-- Bits of an m register below VL; bits beyond the grant are null (R104). -/
def maskToken (m : BitVec 16384) (vl groups : Nat) : Token :=
  .mask ((List.range vl).map (fun e => if e < 1024 * groups then some (m.getLsbD e) else none))
/-- Writes the non-null bits of a mask into an m register's bits. -/
def writeMask (n : Nat) : List (Option Bool × Nat) → Nat → Nat
  | [], m => m
  | (none, _) :: r, m => writeMask n r m
  | (some b, e) :: r, m =>
    if e < n then writeMask n r (m - m / 2 ^ e % 2 * 2 ^ e + (if b then 2 ^ e else 0)) else writeMask n r m
/-- A token with the elements P predicates off made null (R22). -/
def Token.under (p : PMode) : Token → Token
  | .vector t e m k => .vector t (e.zipIdx.map (fun x => if p.on x.2 then x.1 else none)) m k
  | .mask b => .mask (b.zipIdx.map (fun x => if p.on x.2 then x.1 else none))
  | t => t

/-! s registers through older blocks (R28). -/
inductive SWrite where
  | keeps | value (v : Word) | unknown
  deriving DecidableEq, Repr
/-- The P of a fired slot. -/
def BlockExec.pOf (b : BlockExec) (slot : Nat) (r : Raw) : PMode :=
  match decisionOf r (b.tok slot .p) with
  | .fires p => p
  | _ => .null
/-- Whether a P lets an instruction without elements act (R130). -/
def PMode.live : PMode → Bool
  | .all => true
  | .null => false
  | .mask l => l[0]?.getD none == some true
def BlockExec.slotsOf (b : BlockExec) (f : Raw → Bool) : List (Nat × Raw) :=
  (List.range b.offs.length).filterMap (fun k => match b.raw k with
    | some r => if f r then some (k, r) else none
    | none => none)
/-- What a block does to an s register. -/
def BlockExec.sWrite (b : BlockExec) (n : Nat) : SWrite :=
  if !b.decoded then .unknown
  else if n = 63 && !(b.slotsOf (fun r => r.op = .call || r.op = .calli)).isEmpty then
    match b.exit with
    | some (_, .call _ l) => .value l
    | some _ => .keeps
    | none => .unknown
  else match b.slotsOf (fun r => r.op = .wrs && r.reg = n) with
    | [] => .keeps
    | (k, r) :: _ =>
      if b.declined.contains k then .keeps
      else if b.fired.contains k then
        (if (b.pOf k r).live then (match b.tok k .a with
          | some (.scalar v) => .value v
          | some .null => .keeps
          | _ => .unknown) else .keeps)
      else .unknown
/-- The register as the blocks given, newest first, leave it; none while that is not known. -/
def sregThrough (t : Thread) (n : Nat) : List BlockExec → Option Word
  | [] => if t.pending.any (fun e => e.1 == n) then none else some (mget 0 t.sregs n)
  | b :: r => match b.sWrite n with
    | .value v => some v
    | .keeps => sregThrough t n r
    | .unknown => none
/-- The s register at the start of a block (R28); none while a pending result or an older block's write is awaited. -/
def Thread.sregAt (t : Thread) (serial n : Nat) : Option Word := sregThrough t n (t.older serial).reverse

/-- The slots a WRV of a token writes; it clears their cells' errors (R403). -/
def writtenSlots (tag : BitVec 16) (e : List (Option Word)) : List Nat :=
  let w := (fmtOf (tagFmt tag)).width
  e.zipIdx.flatMap (fun x => if x.1.isSome then (if w = 64 then [slotOf w x.2, slotOf w x.2 + 1] else [slotOf w x.2]) else [])
/-- Register writes of one slot at commit (R31, R104, R105): what a fired WRS, WRV or WRM writes; a promise makes the register pending
on the group that answers it. -/
def Thread.writeSlot (t : Thread) (b : BlockExec) (groupOf : Nat → Nat) (k : Nat) (r : Raw) : Thread :=
  if !b.fired.contains k then t
  else
    let p := b.pOf k r
    match r.op, b.tok k .a with
    | .wrs, some (.scalar v) => if p.live then { t with sregs := mset 0 t.sregs r.reg v, pending := mdel t.pending r.reg } else t
    | .wrs, some (.deferred sl _) => if p.live then { t with pending := mput t.pending r.reg (groupOf sl) } else t
    | .wrv, some (.vector tag e m k) =>
      (match (Token.vector tag e m k).under p with
       | .vector tag e m _ =>
         { t with vregs := mset VReg.start t.vregs r.reg ((mget VReg.start t.vregs r.reg).write tag e m t.vlmax)
                  cellErr := t.cellErr.filter (fun c => c.1 != r.reg || !(writtenSlots tag e).contains c.2) }
       | _ => t)
    | .wrm, some (.mask l) =>
      (match (Token.mask l).under p with
       | .mask l => { t with mregs := mset 0 t.mregs r.reg (BitVec.ofNat 16384 (writeMask (1024 * t.groups) l.zipIdx (mget 0 t.mregs r.reg).toNat)) }
       | _ => t)
    | _, _ => t

end Sys2Proof.Machine
end

