-- ==== Sys2Proof/Machine/Control.lean ====
section
/-! DEFINITION. Register reads and writes, tokens without a register, exits, traps and privilege, CSR reads and writes, fetch and
translation control, vector length and lane grants (R104 to R126). What an instruction does at commit stands in Commit.lean. -/
namespace Sys2Proof.Machine

/-! Register reads and writes (R104 to R106). -/
def rdsBody (x : Firing) : Fired :=
  match x.thread.sregAt x.serial x.raw.reg with
  | none => .wait
  | some v => x.value v
/-- No SETVL, LCLAIM or CLAIMEL of an older block has its result outstanding (R126). -/
def Firing.vlKnown (x : Firing) (go : Fired) : Fired := if x.thread.vlOut = 0 then go else .wait
/-- A result with elements: null under a null P, else with its predicated-off elements null (R22). -/
def Firing.elems (x : Firing) (t : Token) : Fired :=
  .give x.st (Out.tok (if x.p = .null then .null else t.under x.p))
def rdvBody (x : Firing) : Fired :=
  x.needLanes (x.vlKnown (x.elems ((mget VReg.start x.thread.vregs x.raw.reg).token ((x.thread.cellErr.filter (·.1 == x.raw.reg)).map (·.2)) x.vl x.thread.vlmax)))
def rdmBody (x : Firing) : Fired :=
  x.needLanes (x.vlKnown (x.elems (maskToken (mget 0 x.thread.mregs x.raw.reg) x.vl x.thread.groups)))
/-- The write happens at commit, from the token at A (Thread.writeSlot); firing resolves the slot. -/
def wrsBody (x : Firing) : Fired := x.whole {} (.give x.st {})
/-- The lowest element of a vector token that P selects and whose slots a predicate names. -/
def Token.elemAt (p : PMode) (hit : Nat → Bool) : Token → Option Nat
  | .vector tag e _ _ =>
    let w := (fmtOf (tagFmt tag)).width
    (e.zipIdx.find? (fun y => y.1.isSome && p.on y.2 && (hit (slotOf w y.2) || (w == 64 && hit (slotOf w y.2 + 1))))).map (·.2)
  | _ => none
def Token.badCells : Token → List Nat
  | .vector _ _ _ k => k
  | _ => []
/-- Cells with an uncorrectable error that the instruction covers but no active element uses are logged as latent (R143, class 9). -/
def Firing.logLatent (x : Firing) (s : State) : State := s.logRecord (clusterOfTile x.tile) 9 0 (logTile x.tile) 0 0 x.tid
/-- WRV: an element it would write that comes from a cell with an uncorrectable error aborts (R143, R403). -/
def wrvBody (x : Firing) : Fired := x.needLanes (x.vlKnown (
  let bad := x.a.badCells
  if bad.isEmpty then .give x.st {}
  else match x.a.elemAt x.p bad.contains with
    | some e => .fault x.st (mkFault cUNCORR x.slot 1 0 e)
    | none => .give (x.logLatent x.st) {}))
def wrmBody (x : Firing) : Fired := x.needLanes (x.vlKnown (.give x.st {}))

/-! Tokens without a register (R107). -/
def movBody (x : Firing) : Fired :=
  match x.a with
  | .vector .. => x.elems x.a
  | .mask _ => x.elems x.a
  | a => x.whole (Out.tok .null) (.give x.st (Out.tok a))
def nullBody (x : Firing) : Fired := x.whole (Out.tok .null) (.give x.st (Out.tok .null))
def litBody (x : Firing) : Fired := x.value (x.raw.immB.getD 0)
def pcbBody (x : Firing) : Fired := x.value (x.block.addr + x.raw.immB.getD 0)

/-! Exits (R108 to R113). A null P or operand leaves the exit unfired (R25). -/
def Firing.leave (x : Firing) (e : ExitKind) : Fired := x.whole {} (.give x.st { exit := some e })
def Firing.direct (x : Firing) : Word :=
  match x.raw.form with
  | .j j => x.block.addr + (j.offset.signExtend 64 : Word) * 64
  | _ => x.block.addr
/-- The first 64-byte boundary after the block's extent (R110). -/
def BlockExec.link (b : BlockExec) : Word := b.addr + BitVec.ofNat 64 (64 * ((b.words.length + 15) / 16))
/-- BRI and CALLI check A when they fire (R109). -/
def Firing.indirect (x : Firing) (e : Word → ExitKind) : Fired :=
  x.whole {} (
    if bitsAt x.a.word 56 8 ≠ 0 then x.failAt cNONCANON 0 x.a.word
    else if bitsAt x.a.word 0 6 ≠ 0 then x.failAt cALIGN 0 x.a.word
    else .give x.st { exit := some (e x.a.word) })
def brBody (x : Firing) : Fired := x.leave (.goto x.direct)
def briBody (x : Firing) : Fired := x.indirect .goto
def callBody (x : Firing) : Fired := x.leave (.call x.direct x.block.link)
def calliBody (x : Firing) : Fired := x.indirect (fun a => .call a x.block.link)
def yieldBody (x : Firing) : Fired := x.leave (.yield x.direct)
def haltBody (x : Firing) : Fired := x.leave .halt
def syscBody (x : Firing) : Fired := x.leave (.sysc x.direct)

/-! Traps, privilege, CSRs (R114 to R118). -/
def trapBody (x : Firing) : Fired := x.whole {} (x.failInfo cTRAPI (x.raw.w2.toNat % 65536))
/-- User mode may not (R114). -/
def Firing.supervisor (x : Firing) (info : Nat) (go : Fired) : Fired := if x.thread.supervisor then go else x.failInfo cPRIV info
/-- ERET (R116): TBLOCK is taken, and its window checked, at the block's commit (BLOCK_COMMIT). -/
def eretBody (x : Firing) : Fired := x.whole {} (x.supervisor 0x13 (.give x.st (Out.eff .eret)))
def Raw.csr (r : Raw) : Nat := r.w2.toNat % 4096
/-- The CSRs a user-mode thread may name (R114). -/
def Firing.csrPriv (x : Firing) (go : Fired) : Fired := if 0x100 ≤ Raw.csr x.raw then x.supervisor (0x1000 + Raw.csr x.raw) go else go
/-- The CSRs whose value CSRR takes as it fires: HORIZON, CYCLE; FFLAGS and BLOCKS, from the oldest block; VL, VLMAX and LANES (R117). -/
def csrNow (n : Nat) : Bool := n == 0x021 || n == 0x050 || n == 0x030 || n == 0x051 || n == 0x010 || n == 0x011 || n == 0x012
/-- The value a CSRR delivers: of the other CSRs, that at the start of its block (R117). -/
def Firing.csrValue (x : Firing) (n : Nat) : Word :=
  if csrNow n then x.st.csrRead x.tid n
  else match x.block.csrs.find? (fun e => e.1 == n) with
    | some e => e.2
    | none => x.st.csrRead x.tid n
def csrrBody (x : Firing) : Fired :=
  let n := Raw.csr x.raw
  let go : Fired := .give x.st (Out.tok (.scalar (x.csrValue n)))
  x.whole (Out.tok .null) (x.csrPriv (
    if (n = 0x030 || n = 0x051) && !x.oldest then .wait
    else if (n = 0x010 || n = 0x011 || n = 0x012) then x.vlKnown go else go))
def csrwBody (x : Firing) : Fired := x.whole {} (x.csrPriv (.give x.st (Out.eff (.csrw (BitVec.ofNat 12 (Raw.csr x.raw)) x.a.word))))

/-! Fetch and translation (R122, R123). -/
def icinvBody (x : Firing) : Fired := x.effect .icinv
def tlbinvBody (x : Firing) : Fired :=
  x.whole {} (x.supervisor 0x17 (
    if bitsAt x.b.word 14 50 ≠ 0 || bitsAt x.b.word 12 2 = 3 then x.failInfo cILLEGAL 5
    else if bitsAt x.b.word 12 2 = 0 && bitsAt x.a.word 56 8 ≠ 0 then x.failInfo cNONCANON 0
    else .give x.st (Out.eff (.tlbinv x.a.word x.b.word))))

/-! Vector length and lane grants (R124, R125). -/
def widthOk (b : Word) : Bool := b == 8 || b == 16 || b == 32 || b == 64
def setvlBody (x : Firing) : Fired :=
  x.whole (Out.tok .null) (if widthOk x.b.word then x.deferring (.setvl x.a.word.toNat x.b.word.toNat) else x.failInfo cVLRANGE 1)
def lclaimBody (x : Firing) : Fired :=
  x.whole (Out.tok .null) (if x.a.word.toNat ≤ 16 then x.deferring (.lclaim x.a.word.toNat) else x.failInfo cVLRANGE 2)

/-! The instructions. -/
def execRds (f : RRead) (s : State) : Host.Outcome State Fault Refusal := .next (runSlot ⟨.rds, .rr f⟩ rdsBody s)
def execRdv (f : RRead) (s : State) : Host.Outcome State Fault Refusal := .next (runSlot ⟨.rdv, .rr f⟩ rdvBody s)
def execRdm (f : RRead) (s : State) : Host.Outcome State Fault Refusal := .next (runSlot ⟨.rdm, .rr f⟩ rdmBody s)
def execWrs (f : RWrite) (s : State) : Host.Outcome State Fault Refusal := .next (runSlot ⟨.wrs, .rw f⟩ wrsBody s)
def execWrv (f : RWrite) (s : State) : Host.Outcome State Fault Refusal := .next (runSlot ⟨.wrv, .rw f⟩ wrvBody s)
def execWrm (f : RWrite) (s : State) : Host.Outcome State Fault Refusal := .next (runSlot ⟨.wrm, .rw f⟩ wrmBody s)
def execMov (b : BForm) (s : State) : Host.Outcome State Fault Refusal := .next (runSlot ⟨.mov, .b b⟩ movBody s)
def execMovExt (b : BForm) (x : Ext) (s : State) : Host.Outcome State Fault Refusal := .next (runSlot ⟨.mov, .x b x 0⟩ movBody s)
def execNull (b : BForm) (s : State) : Host.Outcome State Fault Refusal := .next (runSlot ⟨.null, .b b⟩ nullBody s)
def execNullExt (b : BForm) (x : Ext) (s : State) : Host.Outcome State Fault Refusal := .next (runSlot ⟨.null, .x b x 0⟩ nullBody s)
def execLit (b : BForm) (m : Imm) (s : State) : Host.Outcome State Fault Refusal := .next (runSlot ⟨.lit, .imm b m⟩ litBody s)
def execPcb (b : BForm) (s : State) : Host.Outcome State Fault Refusal := .next (runSlot ⟨.pcb, .b b⟩ pcbBody s)
def execPcbExt (b : BForm) (m : Imm) (s : State) : Host.Outcome State Fault Refusal := .next (runSlot ⟨.pcb, .imm b m⟩ pcbBody s)
def execBr (j : JForm) (s : State) : Host.Outcome State Fault Refusal := .next (runSlot ⟨.br, .j j⟩ brBody s)
def execCall (j : JForm) (s : State) : Host.Outcome State Fault Refusal := .next (runSlot ⟨.call, .j j⟩ callBody s)
def execYield (j : JForm) (s : State) : Host.Outcome State Fault Refusal := .next (runSlot ⟨.yield, .j j⟩ yieldBody s)
def execSysc (j : JForm) (s : State) : Host.Outcome State Fault Refusal := .next (runSlot ⟨.sysc, .j j⟩ syscBody s)
def execBri (p : Pred) (s : State) : Host.Outcome State Fault Refusal := .next (runSlot ⟨.bri, .p p⟩ briBody s)
def execCalli (p : Pred) (s : State) : Host.Outcome State Fault Refusal := .next (runSlot ⟨.calli, .p p⟩ calliBody s)
def execHalt (p : Pred) (s : State) : Host.Outcome State Fault Refusal := .next (runSlot ⟨.halt, .p p⟩ haltBody s)
def execEret (p : Pred) (s : State) : Host.Outcome State Fault Refusal := .next (runSlot ⟨.eret, .p p⟩ eretBody s)
def execIcinv (p : Pred) (s : State) : Host.Outcome State Fault Refusal := .next (runSlot ⟨.icinv, .p p⟩ icinvBody s)
def execTlbinv (p : Pred) (s : State) : Host.Outcome State Fault Refusal := .next (runSlot ⟨.tlbinv, .p p⟩ tlbinvBody s)
def execTrap (p : Pred) (code : BitVec 16) (s : State) : Host.Outcome State Fault Refusal := .next (runSlot ⟨.trap, .px p (code.setWidth 32)⟩ trapBody s)
def execCsrr (b : BForm) (x : Ext) (csr : BitVec 12) (s : State) : Host.Outcome State Fault Refusal := .next (runSlot ⟨.csrr, .x b x (csr.setWidth 32)⟩ csrrBody s)
def execCsrw (p : Pred) (csr : BitVec 12) (s : State) : Host.Outcome State Fault Refusal := .next (runSlot ⟨.csrw, .px p (csr.setWidth 32)⟩ csrwBody s)
def execSetvl (b : BForm) (s : State) : Host.Outcome State Fault Refusal := .next (runSlot ⟨.setvl, .b b⟩ setvlBody s)
def execLclaim (b : BForm) (s : State) : Host.Outcome State Fault Refusal := .next (runSlot ⟨.lclaim, .b b⟩ lclaimBody s)

end Sys2Proof.Machine
end

