-- ==== Sys2Proof/Machine/Vector.lean ====
section
/-! DEFINITION. Vector instructions (R135 to R165): tag checks (R56), capacity (R37), elements and their flags (R71), exception masks
(R73), and each instruction's function of elements. -/
namespace Sys2Proof.Machine

/-! Vector operands and their checks. -/
structure VTok where
  tag : BitVec 16
  elems : List (Option Word)
  marked : List Nat
  bad : List Nat
  deriving DecidableEq, Repr
def Token.vec : Token → VTok
  | .vector t e m k => ⟨t, e, m, k⟩
  | _ => ⟨0x0FE0, [], [], []⟩
def VTok.code (v : VTok) : Nat := tagFmt v.tag
def VTok.fmt (v : VTok) : Fmt := fmtOf v.code
def VTok.scale (v : VTok) : Nat := tagScale v.tag
def VTok.at (v : VTok) (e : Nat) : Option Word := v.elems[e]?.getD none
/-- An element read from a slot that carries the none mark (R14). -/
def VTok.isMarked (v : VTok) (e : Nat) : Bool :=
  let w := v.fmt.width
  v.marked.contains (slotOf w e) || (w == 64 && v.marked.contains (slotOf w e + 1))
/-- An element read from a cell with an uncorrectable error (R143). -/
def VTok.isBad (v : VTok) (e : Nat) : Bool :=
  let w := v.fmt.width
  v.bad.contains (slotOf w e) || (w == 64 && v.bad.contains (slotOf w e + 1))
def maskAt (t : Token) (e : Nat) : Option Bool :=
  match t with
  | .mask l => l[e]?.getD none
  | _ => none

/-- Format classes of R145: Int is 1 to 8, Float BF16, FP16, FP32 and FP64. -/
def isInt (c : Nat) : Bool := 1 ≤ c && c ≤ 8
def isFloat (c : Nat) : Bool := 11 ≤ c && c ≤ 14
def isArith (c : Nat) : Bool := isInt c || isFloat c
def isAny (c : Nat) : Bool := 1 ≤ c && c ≤ 14
def isScaled (c : Nat) : Bool := c == 9 || c == 10 || c == 11
/-- What is asked of a vector operand: which it is, the formats accepted, whether it may carry a scale, whether it shares A's format,
which of its elements are read, whether their none marks are asked for (R157). -/
structure Req where
  idx : Nat
  tok : Token
  ok : Nat → Bool
  scaled : Bool := false
  agree : Bool := false
  ranged : Bool := true
  marks : Bool := true
  used : Nat → Bool
def Req.isVec (r : Req) : Bool := match r.tok with | .vector .. => true | _ => false
/-- The first check of R56 that an operand fails; after them, an element read from a bad cell (R143, R403), ahead of the operands that follow (DESIGN
CHOICE, log entry 63). `a` is A's format where A is a vector. -/
def Req.check (r : Req) (slot : Nat) (a : Option Nat) : Option FaultRec :=
  if !r.isVec then none
  else
    let v := r.tok.vec
    let bad := if r.marks then (List.range v.elems.length).find? (fun e => r.used e && (v.at e).isSome && v.isMarked e) else none
    if v.code = 0 then some (mkFault cTAGNONE slot r.idx 0 (bad.getD 0))
    else match bad with
      | some e => some (mkFault cTAGNONE slot r.idx 0 e)
      | none =>
        if r.agree && a.any (fun c => c != v.code) then some (mkFault cTAGFMT slot 2 0 0)
        else if !r.ok v.code then some (mkFault cTAGFMT slot 3 0 0)
        else if v.scale ≠ 127 && !(r.scaled && isScaled v.code) then some (mkFault cTAGSCALE slot r.idx 0 0)
        else ((List.range v.elems.length).find? (fun e => r.used e && (v.at e).isSome && v.isBad e)).map (mkFault cUNCORR slot 1 0)
/-- The request in a firing whose every element is null: it reads none (R56, R143). -/
def Req.idle (r : Req) : Req := { r with used := fun _ => false }
def firstCheck (slot : Nat) (a : Option Nat) : List Req → Option FaultRec
  | [] => none
  | r :: rest => match r.check slot a with
    | some f => some f
    | none => firstCheck slot a rest
/-- The format that operands which must agree share: A's, or B's where A is wholly null (R56). -/
def codeOfA (x : Firing) : Option Nat :=
  match x.a, x.b with
  | .vector t .., _ => some (tagFmt t)
  | _, .vector t .. => some (tagFmt t)
  | _, _ => none
/-- The checks of R56, operand by operand, the token type of each among them. -/
def Firing.tagFault (x : Firing) (reqs : List Req) : Option FaultRec :=
  match x.misfit with
  | none => firstCheck x.slot (codeOfA x) reqs
  | some o =>
    match firstCheck x.slot (codeOfA x) (reqs.filter (fun r => r.idx < opndNo o)) with
    | some f => some f
    | none => some (x.misfitFault o)
/-- Cells with an uncorrectable error that the instruction covers but no active element uses are logged as latent (R143, class 9). -/
def Firing.latent (x : Firing) (reqs : List Req) (s : State) : State :=
  if reqs.any (fun r => r.isVec && !r.tok.vec.bad.isEmpty) then x.logLatent s else s
/-- A firing that goes through changes the device further. -/
def Fired.onto (f : Fired) (g : State → State) : Fired :=
  match f with
  | .give s o => .give (g s) o
  | .later s => .later (g s)
  | f => f
/-- The checks every vector instruction makes when it fires: lane groups (R38), tags (R56), capacities (R37), in that order, which is the model's
(DESIGN CHOICE, log entry 63); then a null P or a wholly null operand nulls the result (R22, R23). `widths` are those of its results, `nulled` says which firings are wholly null. -/
def Firing.vectorIf (x : Firing) (nulled : Bool) (reqs : List Req) (widths : List Nat) (nullOut : Out) (go : Fired) : Fired :=
  x.needLanes (x.vlKnown (
    match x.tagFault (if nulled then reqs.map Req.idle else reqs) with
    | some f => .fault x.st f
    | none =>
      let ws := widths ++ (reqs.filter (fun r => r.isVec && r.ranged)).map (fun r => r.tok.vec.fmt.width)
      if ws.any (fun w => capacity x.thread.vlmax w < x.vl) then x.failInfo cVLRANGE 0
      else if nulled then .give (x.latent reqs x.st) nullOut
      else go.onto (x.latent reqs)))
def Firing.vector (x : Firing) (reqs : List Req) (widths : List Nat) (nullOut : Out) (go : Fired) : Fired :=
  x.vectorIf (x.p = .null || x.anyNull) reqs widths nullOut go
/-- A wholly null result, and exception mask where the instruction has one. T2 of a first-fault or RW load is null with it: R23 makes every
result of such a firing null, and the count and witness that R180 and R181 give for no accessed element are those of a firing that is not
(DESIGN CHOICE, log entry 63). -/
def Firing.nulls (_x : Firing) : Out := { main := some .null, alt := none }
/-- Every operand given has element e, and P does not turn it off: the element is active (R145). -/
def Firing.active (x : Firing) (e : Nat) : Bool :=
  x.p.on e && x.raw.takes.all (fun o => match x.tok o.1 with
    | .vector _ l _ _ => (l[e]?.getD none).isSome
    | .mask l => (l[e]?.getD none).isSome
    | .null => false
    | _ => true)

/-! Results. -/
/-- The exceptions XSEL selects (R73). -/
def Firing.selects (x : Firing) (f : Flags) : Bool := xselHits x.raw.vword.xsel f
/-- A vector result from its elements with their flags; the exception mask goes to T2 and T3 under XM (R71, R73). -/
def Firing.vresult (x : Firing) (tag : BitVec 16) (r : List (Option (Word × Flags))) : Fired :=
  .give x.st
    { main := some (.vector tag (r.map (fun e => e.map (·.1))) [] [])
      alt := if x.raw.vword.xm then some (.mask (r.map (fun e => e.map (fun y => x.selects y.2)))) else none
      flags := gatherFlags (r.map (fun e => e.map (·.2))) }
/-- A mask result, likewise. -/
def Firing.mresult (x : Firing) (r : List (Option (Bool × Flags))) : Fired :=
  .give x.st
    { main := some (.mask (r.map (fun e => e.map (·.1))))
      alt := if x.raw.vword.xm then some (.mask (r.map (fun e => e.map (fun y => x.selects y.2)))) else none
      flags := gatherFlags (r.map (fun e => e.map (·.2))) }
/-- A scalar result from elements; the exception mask has one element (R142), null where the result is (R73). -/
def Firing.sresult (x : Firing) (v : Token) (f : Flags) (bits : Nat) : Fired :=
  .give x.st
    { main := some v
      alt := if x.raw.vword.xm then some (.mask ((if v = .null then none else some (x.selects f)) :: List.replicate bits none)) else none
      flags := f }
/-- The tag of an arithmetic result (R58). -/
def plainTag (code : Nat) : BitVec 16 := mkTag code 127
/-- A scalar taken from an element (R139). -/
def elemScalar (f : Fmt) (v : Word) : Word := if f.signed && !f.float then sextW v f.width else zextW v f.width
/-- The rounding mode in force (R59, R60). -/
def frmMode (f : BitVec 3) : RoundMode :=
  match f.toNat with
  | 2 => .rtz | 3 => .rdn | 4 => .rup | 5 => .rna | _ => .rne
def Firing.rm (x : Firing) : RoundMode := match x.raw.vword.rm with | .dyn => frmMode x.thread.frm | m => m
def Firing.sat (x : Firing) : Bool := x.raw.vword.sat
def toW (r : Nat × Flags) : Word × Flags := (BitVec.ofNat 64 r.1, r.2)

/-! Elementwise instructions: element e of the result from element e of each operand (R145). -/
def Firing.map1 (x : Firing) (f : Word → Word × Flags) : List (Option (Word × Flags)) :=
  (List.range x.vl).map (fun e => if x.p.on e then (x.a.vec.at e).map f else none)
def Firing.map2 (x : Firing) (f : Word → Word → Word × Flags) : List (Option (Word × Flags)) :=
  (List.range x.vl).map (fun e => if x.p.on e then (match x.a.vec.at e, x.b.vec.at e with | some a, some b => some (f a b) | _, _ => none) else none)
def Firing.map3 (x : Firing) (f : Word → Word → Word → Word × Flags) : List (Option (Word × Flags)) :=
  (List.range x.vl).map (fun e => if x.p.on e then
    (match x.a.vec.at e, x.b.vec.at e, x.c.vec.at e with | some a, some b, some c => some (f a b c) | _, _, _ => none) else none)
def reqA (x : Firing) (ok : Nat → Bool) (scaled : Bool) : Req := { idx := 0, tok := x.a, ok := ok, scaled := scaled, used := x.active }
def reqB (x : Firing) (ok : Nat → Bool) : Req := { idx := 1, tok := x.b, ok := ok, agree := true, used := x.active }
def reqC (x : Firing) (ok : Nat → Bool) : Req := { idx := 2, tok := x.c, ok := ok, agree := true, used := x.active }
def vec1 (x : Firing) (ok : Nat → Bool) (f : Fmt → Word → Word × Flags) : Fired :=
  x.vector [reqA x ok false] [] x.nulls (x.vresult (plainTag x.a.vec.code) (x.map1 (f x.a.vec.fmt)))
def vec2 (x : Firing) (ok : Nat → Bool) (f : Fmt → Word → Word → Word × Flags) : Fired :=
  x.vector [reqA x ok false, reqB x ok] [] x.nulls (x.vresult (plainTag x.a.vec.code) (x.map2 (f x.a.vec.fmt)))
def vec3 (x : Firing) (ok : Nat → Bool) (f : Fmt → Word → Word → Word → Word × Flags) : Fired :=
  x.vector [reqA x ok false, reqB x ok, reqC x ok] [] x.nulls (x.vresult (plainTag x.a.vec.code) (x.map3 (f x.a.vec.fmt)))
def cmp2 (x : Firing) (f : Fmt → Word → Word → Bool × Flags) : Fired :=
  x.vector [reqA x isArith false, reqB x isArith] [] x.nulls (x.mresult ((List.range x.vl).map (fun e => if x.p.on e then
    (match x.a.vec.at e, x.b.vec.at e with | some a, some b => some (f x.a.vec.fmt a b) | _, _ => none) else none)))

def dec (f : Fmt) (w : Word) : FVal := decodeFloat f w.toNat
def ival (f : Fmt) (w : Word) : Int := intVal f w.toNat
/-- exact_op of R145 on integers, reduced by R47. -/
def intOp (f : Fmt) (sat : Bool) (v : Int) : Word × Flags := toW (reduceInt f sat v)
def addEl (sat : Bool) (rm : RoundMode) (f : Fmt) (a b : Word) : Word × Flags :=
  if f.float then toW (fAdd f rm (dec f a) (dec f b)) else intOp f sat (ival f a + ival f b)
def subEl (sat : Bool) (rm : RoundMode) (f : Fmt) (a b : Word) : Word × Flags :=
  if f.float then toW (fAdd f rm (dec f a) (dec f b).negate) else intOp f sat (ival f a - ival f b)
def mulEl (sat : Bool) (rm : RoundMode) (f : Fmt) (a b : Word) : Word × Flags :=
  if f.float then toW (fMul f rm (dec f a) (dec f b)) else intOp f sat (ival f a * ival f b)
def fmaEl (sat : Bool) (rm : RoundMode) (f : Fmt) (a b c : Word) : Word × Flags :=
  if f.float then toW (fFma f rm (dec f a) (dec f b) (dec f c)) else intOp f sat (ival f a * ival f b + ival f c)
def fmsEl (sat : Bool) (rm : RoundMode) (f : Fmt) (a b c : Word) : Word × Flags :=
  if f.float then toW (fFma f rm (dec f a) (dec f b) (dec f c).negate) else intOp f sat (ival f a * ival f b - ival f c)
def divEl (sat : Bool) (rm : RoundMode) (f : Fmt) (a b : Word) : Word × Flags :=
  if f.float then toW (fDiv f rm (dec f a) (dec f b)) else toW (intDiv f sat (ival f a) (ival f b))
def minEl (max : Bool) (f : Fmt) (a b : Word) : Word × Flags :=
  if f.float then toW (fMinMax f max a.toNat b.toNat)
  else (if decide (ival f a < ival f b) != max then (a, 0) else (b, 0))
def absEl (sat : Bool) (f : Fmt) (a : Word) : Word × Flags :=
  if f.float then (BitVec.ofNat 64 (a.toNat % 2 ^ (f.width - 1)), 0)
  else if f.signed then intOp f sat (ival f a).natAbs else (a, 0)
def negEl (sat : Bool) (f : Fmt) (a : Word) : Word × Flags :=
  if f.float then (BitVec.ofNat 64 (Nat.xor a.toNat (2 ^ (f.width - 1))), 0) else intOp f sat (-(ival f a))

/-! Shifts (R149). -/
/-- The count of element e: a scalar or immediate B, or B's element. -/
def Firing.count (x : Firing) (e : Nat) : Option Nat :=
  match x.b with
  | .scalar v => some v.toNat
  | .vector .. => (x.b.vec.at e).map (·.toNat)
  | _ => none
def shlEl (sat : Bool) (f : Fmt) (a : Word) (c : Nat) : Word × Flags :=
  if c < f.width then intOp f sat (ival f a * (2 ^ c : Nat))
  else if sat then intOp f true (if a.toNat % 2 ^ f.width = 0 then 0 else if ival f a < 0 then f.minInt - 1 else f.maxInt + 1)
  else (0, 0)
def shrEl (f : Fmt) (a : Word) (c : Nat) : Word × Flags := (if c < f.width then BitVec.ofNat 64 (a.toNat % 2 ^ f.width / 2 ^ c) else 0, 0)
def sraEl (f : Fmt) (a : Word) (c : Nat) : Word × Flags :=
  if f.signed then (BitVec.ofNat 64 (wrapInt f.width (ival f a / (2 ^ (Nat.min c f.width) : Nat))), 0) else shrEl f a c
def shiftBody (x : Firing) (f : Fmt → Word → Nat → Word × Flags) : Fired :=
  x.vector [reqA x isInt false, reqB x isInt] [] x.nulls (x.vresult (plainTag x.a.vec.code)
    ((List.range x.vl).map (fun e => if x.p.on e then
      (match x.a.vec.at e, x.count e with | some a, some c => some (f x.a.vec.fmt a c) | _, _ => none) else none)))

/-! Widening product (R146). -/
def wideCode (c : Nat) : Nat :=
  match c with
  | 1 => 2 | 2 => 3 | 3 => 4 | 5 => 6 | 6 => 7 | 7 => 8 | 11 => 13 | 12 => 13 | 13 => 14 | _ => 0
def mulwOk (c : Nat) : Bool := wideCode c != 0
def mulwEl (rm : RoundMode) (f g : Fmt) (a b : Word) : Word × Flags :=
  if f.float then toW (fMul g rm (dec f a) (dec f b)) else (BitVec.ofNat 64 (wrapInt g.width (ival f a * ival f b)), 0)
def vmulwBody (x : Firing) : Fired :=
  let odd := if x.raw.w2.getLsbD 0 then 1 else 0
  let f := x.a.vec.fmt; let g := fmtOf (wideCode ((codeOfA x).getD 0))
  let ab (e : Nat) : Option (Word × Word) :=
    if x.p.on e then (match x.a.vec.at (2 * e + odd), x.b.vec.at (2 * e + odd) with | some a, some b => some (a, b) | _, _ => none) else none
  let used (i : Nat) : Bool := i % 2 == odd && (ab (i / 2)).isSome
  x.vector [{ idx := 0, tok := x.a, ok := mulwOk, used := used }, { idx := 1, tok := x.b, ok := mulwOk, agree := true, used := used }]
    (match codeOfA x with | some _ => [g.width] | none => []) x.nulls (x.vresult (plainTag g.code) ((List.range x.vl).map (fun e => (ab e).map (fun y => mulwEl x.rm f g y.1 y.2))))

/-! Special functions (R147). -/
def isRoot (c : Nat) : Bool := isFloat c
def isSpecial (c : Nat) : Bool := c == 11 || c == 12 || c == 13
def fun1 (x : Firing) (ok : Nat → Bool) (f : Fmt → RoundMode → FVal → Nat × Flags) : Fired :=
  vec1 x ok (fun g a => toW (f g x.rm (dec g a)))

/-! Compares and classes (R150, R151). -/
/-- A compare: on integers, and on floats with what a NaN gives. -/
def cmpEl (test : Int → Bool) (nanIs ordered : Bool) (f : Fmt) (a b : Word) : Bool × Flags :=
  if f.float then
    let u := dec f a; let v := dec f b
    if isNan u || isNan v then (nanIs, if ordered || isSnan u || isSnan v then fNV else 0) else (test (fCmp u v), 0)
  else (test (ival f a - ival f b), 0)
def classOf (f : Fmt) (w : Word) : Nat :=
  let mag := w.toNat % 2 ^ (f.width - 1)
  match dec f w with
  | .nan s => if s then 8 else 9
  | .inf n => if n then 0 else 7
  | .fin n m _ =>
    if m = 0 then (if n then 3 else 4)
    else if mag < 2 ^ f.mbits then (if n then 2 else 5) else (if n then 1 else 6)
def vclassBody (x : Firing) : Fired :=
  x.vector [reqA x isFloat false] [] x.nulls (x.mresult ((List.range x.vl).map (fun e =>
    if x.p.on e then (x.a.vec.at e).map (fun a => (x.raw.w2.getLsbD (classOf x.a.vec.fmt a), 0)) else none)))

/-! Selection and constants (R152 to R154). -/
def vselBody (x : Firing) : Fired :=
  x.vector [reqA x isAny false, reqB x isAny] [] x.nulls (x.vresult (plainTag x.a.vec.code) ((List.range x.vl).map (fun e =>
    if x.p.on e then (match x.a.vec.at e, x.b.vec.at e, maskAt x.c e with
      | some a, some b, some c => some (if c then a else b, 0)
      | _, _, _ => none) else none)))
def Firing.tagField (x : Firing) : BitVec 16 := x.raw.w2.setWidth 16
/-- A vector of the TAG format formed from nothing but indices. -/
def Firing.build (x : Firing) (f : Fmt → Nat → Word) : Fired :=
  let g := fmtOf (tagFmt x.tagField)
  x.vector [] [g.width] x.nulls (x.vresult x.tagField ((List.range x.vl).map (fun e => if x.p.on e then some (f g e, 0) else none)))
def vfillEl (v : Word) (g : Fmt) (e : Nat) : Word := zextW (v >>> (e * g.width % 64)) g.width
def vbcastEl (v : Word) (g : Fmt) (_e : Nat) : Word := zextW v g.width
def vidEl (g : Fmt) (e : Nat) : Word := BitVec.ofNat 64 (e % 2 ^ g.width)

/-! Tags and conversion (R155 to R157). -/
def vcvtBody (x : Firing) : Fired :=
  let v := x.a.vec; let g := fmtOf (tagFmt x.tagField)
  x.vector [reqA x isAny true] [g.width] x.nulls (x.vresult x.tagField
    (x.map1 (fun a => toW (convert v.fmt v.scale g (tagScale x.tagField) x.rm x.sat a.toNat))))
def vscaleBody (x : Firing) : Fired :=
  x.vector [reqA x isScaled true] [] x.nulls (x.vresult (mkTag x.a.vec.code (x.raw.w2.toNat % 256)) (x.map1 (fun a => (a, 0))))
/-- Bit k of a vector's bits counted across slots; none where it belongs to a null or tail element. -/
def VTok.bit (v : VTok) (k : Nat) : Option Bool := (v.at (k / v.fmt.width)).map (fun a => a.getLsbD (k % v.fmt.width))
def VTok.bits (v : VTok) (k : Nat) : Nat → Option Nat
  | 0 => some 0
  | n + 1 => match v.bit k, v.bits (k + 1) n with
    | some b, some r => some ((if b then 1 else 0) + 2 * r)
    | _, _ => none
/-- Bit ranges that share a bit. -/
def meetsBits (a n b m : Nat) : Bool := a < b + m && b < a + n
def vtagBody (x : Firing) : Fired :=
  let v := x.a.vec; let g := fmtOf (tagFmt x.tagField)
  let r := (List.range x.vl).map (fun e => if x.p.on e then (v.bits (e * g.width) g.width).map (fun n => (BitVec.ofNat 64 n : Word)) else none)
  let used (e : Nat) : Bool := (List.range x.vl).any (fun i => (r[i]?.getD none).isSome && meetsBits (i * g.width) g.width (e * v.fmt.width) v.fmt.width)
  x.vector [{ idx := 0, tok := x.a, ok := isAny, scaled := true, marks := false, used := used }] [g.width] x.nulls
    (.give x.st { main := some (.vector x.tagField r v.marked v.bad),
                  alt := if x.raw.vword.xm then some (.mask (r.map (fun e => e.map (fun _ => false)))) else none })

/-! Reductions and the dot product (R158, R159). -/
/-- The elements present: P and nulls act on the inputs. -/
def Firing.present (x : Firing) : List (Option Nat) := (List.range x.vl).map (fun e => if x.p.on e then (x.a.vec.at e).map (·.toNat) else none)
/-- The tree of R69 over the present elements; a NaN root is canonical, NV for any signalling leaf. -/
def reduceTree (f : Fmt) (op : Nat → Nat → Nat × Flags) (l : List (Option Nat)) (empty : Nat) : Nat × Flags :=
  let n := powerAbove l.length
  let r := treeReduce op (Nat.log2 n) (l ++ List.replicate (n - l.length) none)
  match r.1 with
  | none => (empty, r.2)
  | some v =>
    if f.float then
      let s := if l.any (fun e => e.any (fun y => isSnan (decodeFloat f y))) then fNV else 0
      (if isNan (decodeFloat f v) then f.nan else v, r.2 ||| s)
    else (v, r.2)
def Firing.reduce (x : Firing) (op : Fmt → Word → Word → Word × Flags) (empty : Fmt → Nat) : Fired :=
  let f := x.a.vec.fmt
  x.vector [{ idx := 0, tok := x.a, ok := isArith, used := x.p.on }] [] x.nulls (
    let r := reduceTree f (fun a b => let y := op f (BitVec.ofNat 64 a) (BitVec.ofNat 64 b); (y.1.toNat, y.2)) x.present (empty f)
    x.sresult (.scalar (elemScalar f (BitVec.ofNat 64 r.1))) r.2 (x.vl - 1))
def rmaxEmpty (f : Fmt) : Nat := if f.float then encInf f true else wrapInt f.width f.minInt
def rminEmpty (f : Fmt) : Nat := if f.float then encInf f false else wrapInt f.width f.maxInt
def isWeight (c : Nat) : Bool := c == 11
def isFp32 (c : Nat) : Bool := c == 13
/-- The pairs of one group of 128 that are present. -/
def Firing.pairs (x : Firing) (g : Nat) : List (FVal × FVal) :=
  (List.range 128).filterMap (fun k =>
    let e := 128 * g + k
    if e < x.vl && x.p.on e then (match x.a.vec.at e, x.b.vec.at e with
      | some a, some b => some (scaled x.a.vec.fmt x.a.vec.scale a.toNat, decodeFloat bf16 b.toNat)
      | _, _ => none) else none)
def vdotBody (x : Firing) : Fired :=
  let acc := x.raw.takes.any (fun e => e.1 == .c)
  let used (e : Nat) : Bool := x.p.on e && (x.a.vec.at e).isSome && (x.b.vec.at e).isSome
  let G := (x.vl + 127) / 128
  x.vector ([{ idx := 0, tok := x.a, ok := isScaled, scaled := true, used := used }, { idx := 1, tok := x.b, ok := isWeight, used := used }] ++
      (if acc then [{ idx := 2, tok := x.c, ok := isFp32, ranged := false, used := fun e => e < G && !(x.p = .null || x.anyNull) }] else [])) [16] x.nulls
    (x.vresult (plainTag 13) ((List.range x.vl).map (fun g =>
      if G ≤ g then none
      else if acc then (x.c.vec.at g).map (fun c => toW (gridDot ⟨x.pairs g, some (decodeFloat fp32 c.toNat), [decodeFloat fp32 c.toNat]⟩))
      else some (toW (gridDot ⟨x.pairs g, none, []⟩)))))

/-! Moving elements (R161, R162). -/
/-- Result element e is A's element `src e`; `some none` in src is the all-zero encoding, none a null. -/
def Firing.move (x : Firing) (reqs : List Req) (widths : List Nat) (src : Nat → Option (Option Nat)) : Fired :=
  let from' (e : Nat) : Option (Option Nat) := if x.p.on e then src e else none
  let used (i : Nat) : Bool := (List.range x.vl).any (fun e => from' e == some (some i))
  x.vector ({ idx := 0, tok := x.a, ok := isAny, used := used } :: reqs) widths x.nulls
    (x.vresult (plainTag x.a.vec.code) ((List.range x.vl).map (fun e => match from' e with
      | none => none
      | some none => some (0, 0)
      | some (some i) => (x.a.vec.at i).map (fun a => (a, 0)))))
def isIndex (c : Nat) : Bool := c == 5 || c == 6 || c == 7
def vpermBody (x : Firing) : Fired :=
  x.move [{ idx := 1, tok := x.b, ok := isIndex, used := fun e => x.p.on e && (x.b.vec.at e).isSome }] []
    (fun e => (x.b.vec.at e).map (fun i => if i.toNat < x.vl then some i.toNat else none))
def vrotBody (x : Firing) : Fired :=
  x.move [] [] (fun e => some (some ((e + (x.vl - x.b.word.toNat % Nat.max x.vl 1)) % Nat.max x.vl 1)))
def vslideBody (x : Firing) : Fired :=
  let k := x.b.word.toNat
  x.move [] [] (fun e => if x.raw.w2.getLsbD 30 then (if e + k < x.vl then some (some (e + k)) else none)
    else if k ≤ e then some (some (e - k)) else none)
/-- The lowest index below VL whose bit is null, or VL. -/
def Firing.firstNull (x : Firing) : Nat := ((List.range x.vl).find? (fun e => (maskAt x.b e).isNone)).getD x.vl
def vcompBody (x : Firing) : Fired :=
  let z := x.firstNull
  let picks := (List.range z).filter (fun i => maskAt x.b i == some true && (x.a.vec.at i).isSome)
  x.move [] [] (fun e => (picks[e]?).map some)
def vexpdBody (x : Firing) : Fired :=
  let z := x.firstNull
  x.move [] [] (fun e => if e < z && maskAt x.b e == some true
    then some (some ((List.range e).filter (fun i => maskAt x.b i == some true)).length) else none)
/-- VEXT and VINS stand in neither list of R55 that takes E4M3 and E5M2. An index at or above VL under a null P or a wholly null A, for which
R162 does not say which comes first, delivers null and no fault (DESIGN CHOICE, log entry 63). -/
def vextBody (x : Firing) : Fired :=
  let i := x.b.word.toNat
  x.vector [{ idx := 0, tok := x.a, ok := isArith, used := fun e => e == i && x.p.on e }] [] x.nulls (
    if x.vl ≤ i then .fault x.st (mkFault cVLRANGE x.slot 3 0 i)
    else x.sresult (if x.p.on i then (match x.a.vec.at i with | some a => .scalar (elemScalar x.a.vec.fmt a) | none => .null) else .null) 0 (x.vl - 1))
def vinsBody (x : Firing) : Fired :=
  let i := x.b.word.toNat
  x.vectorIf (x.p = .null || x.a = .null || x.b = .null) [{ idx := 0, tok := x.a, ok := isArith, used := fun e => e != i && x.p.on e }] [] x.nulls (
    if x.vl ≤ i then .fault x.st (mkFault cVLRANGE x.slot 3 0 i)
    else x.vresult (plainTag x.a.vec.code) ((List.range x.vl).map (fun e => if !x.p.on e then none
      else if e = i then (match x.c with | .scalar c => some (zextW c x.a.vec.fmt.width, 0) | _ => none)
      else (x.a.vec.at e).map (fun a => (a, 0)))))

/-! Masks (R163). -/
def Firing.masks (x : Firing) (go : Fired) : Fired :=
  x.needLanes (x.vlKnown (if x.p = .null || x.anyNull then .give x.st x.nulls else go))
def mask2 (x : Firing) (f : Bool → Bool → Bool) : Fired :=
  x.masks (.give x.st (Out.tok (.mask ((List.range x.vl).map (fun e => if x.p.on e then
    (match maskAt x.a e, maskAt x.b e with | some a, some b => some (f a b) | _, _ => none) else none)))))
def mnotBody (x : Firing) : Fired :=
  x.masks (.give x.st (Out.tok (.mask ((List.range x.vl).map (fun e => if x.p.on e then (maskAt x.a e).map (!·) else none)))))
def Firing.ones (x : Firing) : List Nat := (List.range x.vl).filter (fun e => x.p.on e && maskAt x.a e == some true)
def mpopBody (x : Firing) : Fired := x.masks (.give x.st (Out.tok (.scalar (BitVec.ofNat 64 x.ones.length))))
def mfirstBody (x : Firing) : Fired :=
  x.masks (.give x.st (Out.tok (.scalar (match x.ones with | e :: _ => BitVec.ofNat 64 e | [] => BitVec.allOnes 64))))

/-! The instructions. -/

def vaddBody (x : Firing) : Fired := vec2 x isArith (addEl x.sat x.rm)
def vsubBody (x : Firing) : Fired := vec2 x isArith (subEl x.sat x.rm)
def vmulBody (x : Firing) : Fired := vec2 x isArith (mulEl x.sat x.rm)
def vfmaBody (x : Firing) : Fired := vec3 x isArith (fmaEl x.sat x.rm)
def vfmsBody (x : Firing) : Fired := vec3 x isArith (fmsEl x.sat x.rm)
def vdivBody (x : Firing) : Fired := vec2 x isArith (divEl x.sat x.rm)
def vsqrtBody (x : Firing) : Fired := fun1 x isRoot fSqrt
def vrcpBody (x : Firing) : Fired := fun1 x isSpecial fRcp
def vrsqBody (x : Firing) : Fired := fun1 x isSpecial fRsq
def vexp2Body (x : Firing) : Fired := fun1 x isSpecial fExp2
def vlog2Body (x : Firing) : Fired := fun1 x isSpecial fLog2
def vminBody (x : Firing) : Fired := vec2 x isArith (minEl false)
def vmaxBody (x : Firing) : Fired := vec2 x isArith (minEl true)
def vabsBody (x : Firing) : Fired := vec1 x (fun c => isArith c || isScaled c) (absEl x.sat)
def vnegBody (x : Firing) : Fired := vec1 x (fun c => isArith c || isScaled c) (negEl x.sat)
def vandBody (x : Firing) : Fired := vec2 x isInt (fun _ a b => (a &&& b, 0))
def vorBody (x : Firing) : Fired := vec2 x isInt (fun _ a b => (a ||| b, 0))
def vxorBody (x : Firing) : Fired := vec2 x isInt (fun _ a b => (a ^^^ b, 0))
def vnotBody (x : Firing) : Fired := vec1 x isInt (fun f a => (zextW (~~~a) f.width, 0))
def vshlBody (x : Firing) : Fired := shiftBody x (shlEl x.sat)
def vshrBody (x : Firing) : Fired := shiftBody x shrEl
def vsraBody (x : Firing) : Fired := shiftBody x sraEl
def vceqBody (x : Firing) : Fired := cmp2 x (cmpEl (· == 0) false false)
def vcneBody (x : Firing) : Fired := cmp2 x (cmpEl (· != 0) true false)
def vcltBody (x : Firing) : Fired := cmp2 x (cmpEl (· < 0) false true)
def vcleBody (x : Firing) : Fired := cmp2 x (cmpEl (· ≤ 0) false true)
def vcunBody (x : Firing) : Fired := cmp2 x (cmpEl (fun _ => false) true false)
def vsumBody (x : Firing) : Fired := x.reduce (addEl x.sat x.rm) (fun _ => 0)
def vrmaxBody (x : Firing) : Fired := x.reduce (minEl true) rmaxEmpty
def vrminBody (x : Firing) : Fired := x.reduce (minEl false) rminEmpty
def vfillBody (x : Firing) : Fired := x.build (vfillEl x.a.word)
def vbcastBody (x : Firing) : Fired := x.build (vbcastEl x.a.word)
def vidBody (x : Firing) : Fired := x.build vidEl
def mandBody (x : Firing) : Fired := mask2 x (fun a b => a && b)
def morBody (x : Firing) : Fired := mask2 x (fun a b => a || b)
def mxorBody (x : Firing) : Fired := mask2 x (fun a b => a != b)
def execVadd (b : BForm) (s : State) : Host.Outcome State Fault Refusal := .next (runSlot ⟨.vadd, .b b⟩ vaddBody s)
def execVaddExt (b : BForm) (v : VWord) (s : State) : Host.Outcome State Fault Refusal := .next (runSlot ⟨.vadd, .v b v 0 none⟩ vaddBody s)
def execVsub (b : BForm) (s : State) : Host.Outcome State Fault Refusal := .next (runSlot ⟨.vsub, .b b⟩ vsubBody s)
def execVsubExt (b : BForm) (v : VWord) (s : State) : Host.Outcome State Fault Refusal := .next (runSlot ⟨.vsub, .v b v 0 none⟩ vsubBody s)
def execVmul (b : BForm) (s : State) : Host.Outcome State Fault Refusal := .next (runSlot ⟨.vmul, .b b⟩ vmulBody s)
def execVmulExt (b : BForm) (v : VWord) (s : State) : Host.Outcome State Fault Refusal := .next (runSlot ⟨.vmul, .v b v 0 none⟩ vmulBody s)
def execVfma (b : BForm) (s : State) : Host.Outcome State Fault Refusal := .next (runSlot ⟨.vfma, .b b⟩ vfmaBody s)
def execVfmaExt (b : BForm) (v : VWord) (s : State) : Host.Outcome State Fault Refusal := .next (runSlot ⟨.vfma, .v b v 0 none⟩ vfmaBody s)
def execVfms (b : BForm) (s : State) : Host.Outcome State Fault Refusal := .next (runSlot ⟨.vfms, .b b⟩ vfmsBody s)
def execVfmsExt (b : BForm) (v : VWord) (s : State) : Host.Outcome State Fault Refusal := .next (runSlot ⟨.vfms, .v b v 0 none⟩ vfmsBody s)
def execVdiv (b : BForm) (s : State) : Host.Outcome State Fault Refusal := .next (runSlot ⟨.vdiv, .b b⟩ vdivBody s)
def execVdivExt (b : BForm) (v : VWord) (s : State) : Host.Outcome State Fault Refusal := .next (runSlot ⟨.vdiv, .v b v 0 none⟩ vdivBody s)
def execVsqrt (b : BForm) (s : State) : Host.Outcome State Fault Refusal := .next (runSlot ⟨.vsqrt, .b b⟩ vsqrtBody s)
def execVsqrtExt (b : BForm) (v : VWord) (s : State) : Host.Outcome State Fault Refusal := .next (runSlot ⟨.vsqrt, .v b v 0 none⟩ vsqrtBody s)
def execVrcp (b : BForm) (s : State) : Host.Outcome State Fault Refusal := .next (runSlot ⟨.vrcp, .b b⟩ vrcpBody s)
def execVrcpExt (b : BForm) (v : VWord) (s : State) : Host.Outcome State Fault Refusal := .next (runSlot ⟨.vrcp, .v b v 0 none⟩ vrcpBody s)
def execVrsq (b : BForm) (s : State) : Host.Outcome State Fault Refusal := .next (runSlot ⟨.vrsq, .b b⟩ vrsqBody s)
def execVrsqExt (b : BForm) (v : VWord) (s : State) : Host.Outcome State Fault Refusal := .next (runSlot ⟨.vrsq, .v b v 0 none⟩ vrsqBody s)
def execVexp2 (b : BForm) (s : State) : Host.Outcome State Fault Refusal := .next (runSlot ⟨.vexp2, .b b⟩ vexp2Body s)
def execVexp2Ext (b : BForm) (v : VWord) (s : State) : Host.Outcome State Fault Refusal := .next (runSlot ⟨.vexp2, .v b v 0 none⟩ vexp2Body s)
def execVlog2 (b : BForm) (s : State) : Host.Outcome State Fault Refusal := .next (runSlot ⟨.vlog2, .b b⟩ vlog2Body s)
def execVlog2Ext (b : BForm) (v : VWord) (s : State) : Host.Outcome State Fault Refusal := .next (runSlot ⟨.vlog2, .v b v 0 none⟩ vlog2Body s)
def execVmin (b : BForm) (s : State) : Host.Outcome State Fault Refusal := .next (runSlot ⟨.vmin, .b b⟩ vminBody s)
def execVminExt (b : BForm) (v : VWord) (s : State) : Host.Outcome State Fault Refusal := .next (runSlot ⟨.vmin, .v b v 0 none⟩ vminBody s)
def execVmax (b : BForm) (s : State) : Host.Outcome State Fault Refusal := .next (runSlot ⟨.vmax, .b b⟩ vmaxBody s)
def execVmaxExt (b : BForm) (v : VWord) (s : State) : Host.Outcome State Fault Refusal := .next (runSlot ⟨.vmax, .v b v 0 none⟩ vmaxBody s)
def execVabs (b : BForm) (s : State) : Host.Outcome State Fault Refusal := .next (runSlot ⟨.vabs, .b b⟩ vabsBody s)
def execVabsExt (b : BForm) (v : VWord) (s : State) : Host.Outcome State Fault Refusal := .next (runSlot ⟨.vabs, .v b v 0 none⟩ vabsBody s)
def execVneg (b : BForm) (s : State) : Host.Outcome State Fault Refusal := .next (runSlot ⟨.vneg, .b b⟩ vnegBody s)
def execVnegExt (b : BForm) (v : VWord) (s : State) : Host.Outcome State Fault Refusal := .next (runSlot ⟨.vneg, .v b v 0 none⟩ vnegBody s)
def execVand (b : BForm) (s : State) : Host.Outcome State Fault Refusal := .next (runSlot ⟨.vand, .b b⟩ vandBody s)
def execVandExt (b : BForm) (v : VWord) (s : State) : Host.Outcome State Fault Refusal := .next (runSlot ⟨.vand, .v b v 0 none⟩ vandBody s)
def execVor (b : BForm) (s : State) : Host.Outcome State Fault Refusal := .next (runSlot ⟨.vor, .b b⟩ vorBody s)
def execVorExt (b : BForm) (v : VWord) (s : State) : Host.Outcome State Fault Refusal := .next (runSlot ⟨.vor, .v b v 0 none⟩ vorBody s)
def execVxor (b : BForm) (s : State) : Host.Outcome State Fault Refusal := .next (runSlot ⟨.vxor, .b b⟩ vxorBody s)
def execVxorExt (b : BForm) (v : VWord) (s : State) : Host.Outcome State Fault Refusal := .next (runSlot ⟨.vxor, .v b v 0 none⟩ vxorBody s)
def execVnot (b : BForm) (s : State) : Host.Outcome State Fault Refusal := .next (runSlot ⟨.vnot, .b b⟩ vnotBody s)
def execVnotExt (b : BForm) (v : VWord) (s : State) : Host.Outcome State Fault Refusal := .next (runSlot ⟨.vnot, .v b v 0 none⟩ vnotBody s)
def execVceq (b : BForm) (s : State) : Host.Outcome State Fault Refusal := .next (runSlot ⟨.vceq, .b b⟩ vceqBody s)
def execVceqExt (b : BForm) (v : VWord) (s : State) : Host.Outcome State Fault Refusal := .next (runSlot ⟨.vceq, .v b v 0 none⟩ vceqBody s)
def execVcne (b : BForm) (s : State) : Host.Outcome State Fault Refusal := .next (runSlot ⟨.vcne, .b b⟩ vcneBody s)
def execVcneExt (b : BForm) (v : VWord) (s : State) : Host.Outcome State Fault Refusal := .next (runSlot ⟨.vcne, .v b v 0 none⟩ vcneBody s)
def execVclt (b : BForm) (s : State) : Host.Outcome State Fault Refusal := .next (runSlot ⟨.vclt, .b b⟩ vcltBody s)
def execVcltExt (b : BForm) (v : VWord) (s : State) : Host.Outcome State Fault Refusal := .next (runSlot ⟨.vclt, .v b v 0 none⟩ vcltBody s)
def execVcle (b : BForm) (s : State) : Host.Outcome State Fault Refusal := .next (runSlot ⟨.vcle, .b b⟩ vcleBody s)
def execVcleExt (b : BForm) (v : VWord) (s : State) : Host.Outcome State Fault Refusal := .next (runSlot ⟨.vcle, .v b v 0 none⟩ vcleBody s)
def execVcun (b : BForm) (s : State) : Host.Outcome State Fault Refusal := .next (runSlot ⟨.vcun, .b b⟩ vcunBody s)
def execVcunExt (b : BForm) (v : VWord) (s : State) : Host.Outcome State Fault Refusal := .next (runSlot ⟨.vcun, .v b v 0 none⟩ vcunBody s)
def execVsel (b : BForm) (s : State) : Host.Outcome State Fault Refusal := .next (runSlot ⟨.vsel, .b b⟩ vselBody s)
def execVselExt (b : BForm) (v : VWord) (s : State) : Host.Outcome State Fault Refusal := .next (runSlot ⟨.vsel, .v b v 0 none⟩ vselBody s)
def execVsum (b : BForm) (s : State) : Host.Outcome State Fault Refusal := .next (runSlot ⟨.vsum, .b b⟩ vsumBody s)
def execVsumExt (b : BForm) (v : VWord) (s : State) : Host.Outcome State Fault Refusal := .next (runSlot ⟨.vsum, .v b v 0 none⟩ vsumBody s)
def execVrmax (b : BForm) (s : State) : Host.Outcome State Fault Refusal := .next (runSlot ⟨.vrmax, .b b⟩ vrmaxBody s)
def execVrmaxExt (b : BForm) (v : VWord) (s : State) : Host.Outcome State Fault Refusal := .next (runSlot ⟨.vrmax, .v b v 0 none⟩ vrmaxBody s)
def execVrmin (b : BForm) (s : State) : Host.Outcome State Fault Refusal := .next (runSlot ⟨.vrmin, .b b⟩ vrminBody s)
def execVrminExt (b : BForm) (v : VWord) (s : State) : Host.Outcome State Fault Refusal := .next (runSlot ⟨.vrmin, .v b v 0 none⟩ vrminBody s)
def execVperm (b : BForm) (s : State) : Host.Outcome State Fault Refusal := .next (runSlot ⟨.vperm, .b b⟩ vpermBody s)
def execVpermExt (b : BForm) (v : VWord) (s : State) : Host.Outcome State Fault Refusal := .next (runSlot ⟨.vperm, .v b v 0 none⟩ vpermBody s)
def execVcomp (b : BForm) (s : State) : Host.Outcome State Fault Refusal := .next (runSlot ⟨.vcomp, .b b⟩ vcompBody s)
def execVcompExt (b : BForm) (v : VWord) (s : State) : Host.Outcome State Fault Refusal := .next (runSlot ⟨.vcomp, .v b v 0 none⟩ vcompBody s)
def execVexpd (b : BForm) (s : State) : Host.Outcome State Fault Refusal := .next (runSlot ⟨.vexpd, .b b⟩ vexpdBody s)
def execVexpdExt (b : BForm) (v : VWord) (s : State) : Host.Outcome State Fault Refusal := .next (runSlot ⟨.vexpd, .v b v 0 none⟩ vexpdBody s)
def execVmulw (b : BForm) (s : State) : Host.Outcome State Fault Refusal := .next (runSlot ⟨.vmulw, .b b⟩ vmulwBody s)
def execVmulwExt (b : BForm) (v : VWord) (odd : Bool) (s : State) : Host.Outcome State Fault Refusal := .next (runSlot ⟨.vmulw, .v b v (BitVec.ofNat 32 (encBool odd)) none⟩ vmulwBody s)
def execVclass (b : BForm) (s : State) : Host.Outcome State Fault Refusal := .next (runSlot ⟨.vclass, .b b⟩ vclassBody s)
def execVclassExt (b : BForm) (v : VWord) (cls : BitVec 10) (s : State) : Host.Outcome State Fault Refusal := .next (runSlot ⟨.vclass, .v b v (cls.setWidth 32) none⟩ vclassBody s)
def execVscale (b : BForm) (s : State) : Host.Outcome State Fault Refusal := .next (runSlot ⟨.vscale, .b b⟩ vscaleBody s)
def execVscaleExt (b : BForm) (v : VWord) (sc : BitVec 8) (s : State) : Host.Outcome State Fault Refusal := .next (runSlot ⟨.vscale, .v b v (sc.setWidth 32) none⟩ vscaleBody s)
def execVdot (b : BForm) (s : State) : Host.Outcome State Fault Refusal := .next (runSlot ⟨.vdot, .b b⟩ vdotBody s)
def execVdotExt (b : BForm) (v : VWord) (acc : Bool) (s : State) : Host.Outcome State Fault Refusal := .next (runSlot ⟨.vdot, .v b v (BitVec.ofNat 32 (encBool acc)) none⟩ vdotBody s)
def execVshl (b : BForm) (s : State) : Host.Outcome State Fault Refusal := .next (runSlot ⟨.vshl, .b b⟩ vshlBody s)
def execVshlExt (b : BForm) (v : VWord) (n : Option (BitVec 8)) (s : State) : Host.Outcome State Fault Refusal := .next (runSlot ⟨.vshl, .v b v (encIb n) none⟩ vshlBody s)
def execVshr (b : BForm) (s : State) : Host.Outcome State Fault Refusal := .next (runSlot ⟨.vshr, .b b⟩ vshrBody s)
def execVshrExt (b : BForm) (v : VWord) (n : Option (BitVec 8)) (s : State) : Host.Outcome State Fault Refusal := .next (runSlot ⟨.vshr, .v b v (encIb n) none⟩ vshrBody s)
def execVsra (b : BForm) (s : State) : Host.Outcome State Fault Refusal := .next (runSlot ⟨.vsra, .b b⟩ vsraBody s)
def execVsraExt (b : BForm) (v : VWord) (n : Option (BitVec 8)) (s : State) : Host.Outcome State Fault Refusal := .next (runSlot ⟨.vsra, .v b v (encIb n) none⟩ vsraBody s)
def execVrot (b : BForm) (s : State) : Host.Outcome State Fault Refusal := .next (runSlot ⟨.vrot, .b b⟩ vrotBody s)
def execVrotExt (b : BForm) (v : VWord) (n : Option (BitVec 14)) (s : State) : Host.Outcome State Fault Refusal := .next (runSlot ⟨.vrot, .v b v (encIb n) none⟩ vrotBody s)
def execVext (b : BForm) (s : State) : Host.Outcome State Fault Refusal := .next (runSlot ⟨.vext, .b b⟩ vextBody s)
def execVextExt (b : BForm) (v : VWord) (n : Option (BitVec 14)) (s : State) : Host.Outcome State Fault Refusal := .next (runSlot ⟨.vext, .v b v (encIb n) none⟩ vextBody s)
def execVins (b : BForm) (s : State) : Host.Outcome State Fault Refusal := .next (runSlot ⟨.vins, .b b⟩ vinsBody s)
def execVinsExt (b : BForm) (v : VWord) (n : Option (BitVec 14)) (s : State) : Host.Outcome State Fault Refusal := .next (runSlot ⟨.vins, .v b v (encIb n) none⟩ vinsBody s)
def execVslide (b : BForm) (s : State) : Host.Outcome State Fault Refusal := .next (runSlot ⟨.vslide, .b b⟩ vslideBody s)
def execVslideExt (b : BForm) (v : VWord) (n : Option (BitVec 14)) (down : Bool) (s : State) : Host.Outcome State Fault Refusal := .next (runSlot ⟨.vslide, .v b v (encIb n + BitVec.ofNat 32 (1073741824 * encBool down)) none⟩ vslideBody s)
def execVfill (b : BForm) (v : VWord) (tag : BitVec 16) (l : Option Word) (s : State) : Host.Outcome State Fault Refusal := .next (runSlot ⟨.vfill, .v b v (tag.setWidth 32) l⟩ vfillBody s)
def execVbcast (b : BForm) (v : VWord) (tag : BitVec 16) (l : Option Word) (s : State) : Host.Outcome State Fault Refusal := .next (runSlot ⟨.vbcast, .v b v (tag.setWidth 32) l⟩ vbcastBody s)
def execVid (b : BForm) (v : VWord) (tag : BitVec 16) (s : State) : Host.Outcome State Fault Refusal := .next (runSlot ⟨.vid, .v b v (tag.setWidth 32) none⟩ vidBody s)
def execVcvt (b : BForm) (v : VWord) (tag : BitVec 16) (s : State) : Host.Outcome State Fault Refusal := .next (runSlot ⟨.vcvt, .v b v (tag.setWidth 32) none⟩ vcvtBody s)
def execVtag (b : BForm) (v : VWord) (tag : BitVec 16) (s : State) : Host.Outcome State Fault Refusal := .next (runSlot ⟨.vtag, .v b v (tag.setWidth 32) none⟩ vtagBody s)
def execMand (b : BForm) (s : State) : Host.Outcome State Fault Refusal := .next (runSlot ⟨.mand, .b b⟩ mandBody s)
def execMandExt (b : BForm) (x : Ext) (s : State) : Host.Outcome State Fault Refusal := .next (runSlot ⟨.mand, .x b x 0⟩ mandBody s)
def execMor (b : BForm) (s : State) : Host.Outcome State Fault Refusal := .next (runSlot ⟨.mor, .b b⟩ morBody s)
def execMorExt (b : BForm) (x : Ext) (s : State) : Host.Outcome State Fault Refusal := .next (runSlot ⟨.mor, .x b x 0⟩ morBody s)
def execMxor (b : BForm) (s : State) : Host.Outcome State Fault Refusal := .next (runSlot ⟨.mxor, .b b⟩ mxorBody s)
def execMxorExt (b : BForm) (x : Ext) (s : State) : Host.Outcome State Fault Refusal := .next (runSlot ⟨.mxor, .x b x 0⟩ mxorBody s)
def execMnot (b : BForm) (s : State) : Host.Outcome State Fault Refusal := .next (runSlot ⟨.mnot, .b b⟩ mnotBody s)
def execMnotExt (b : BForm) (x : Ext) (s : State) : Host.Outcome State Fault Refusal := .next (runSlot ⟨.mnot, .x b x 0⟩ mnotBody s)
def execMpop (b : BForm) (s : State) : Host.Outcome State Fault Refusal := .next (runSlot ⟨.mpop, .b b⟩ mpopBody s)
def execMpopExt (b : BForm) (x : Ext) (s : State) : Host.Outcome State Fault Refusal := .next (runSlot ⟨.mpop, .x b x 0⟩ mpopBody s)
def execMfirst (b : BForm) (s : State) : Host.Outcome State Fault Refusal := .next (runSlot ⟨.mfirst, .b b⟩ mfirstBody s)
def execMfirstExt (b : BForm) (x : Ext) (s : State) : Host.Outcome State Fault Refusal := .next (runSlot ⟨.mfirst, .x b x 0⟩ mfirstBody s)

end Sys2Proof.Machine
end

