-- ==== Sys2Proof/Machine/Access.lean ====
section
/-! DEFINITION. What memory instructions share: witness operands (R172, R175, R299), addresses (R168), the checks of R169, order
inside a thread (R170, R171), requests and their delivery (R173, R177, R179, R308). -/
namespace Sys2Proof.Machine

/-! Witness operands. -/
/-- The fault of a witness operand (R175, R299); `idx` is 0 for A, 1 for B, 2 for C. -/
def Firing.badWitness (x : Firing) (idx : Nat) (w : Word) : Option FaultRec :=
  if wKind w = 3 then some (mkFault cWRESV x.slot idx 0 0)
  else if wKind w = 1 then some (mkFault cWERR x.slot (bitsAt w 56 6) w.toNat 0)
  else if wKind w = 0 && implausible (x.st.tile x.tile).horizon w then some (mkFault cWRESV x.slot (4 + idx) 0 0)
  else none
def Firing.timeOf (x : Firing) (w : Word) : Option Time := contributes (x.st.tile x.tile).horizon w
/-- C under WI: checked, and the time it contributes. -/
def Firing.underC (x : Firing) (go : Option Time → Fired) : Fired :=
  if x.raw.mword.wi then
    (match x.badWitness 2 x.c.word with
     | some f => .fault x.st f
     | none => go (x.timeOf x.c.word))
  else go none
/-- A load's bound (R172). -/
def Firing.bound (x : Firing) (w : Option Time) : Time := match w with | some t => serialMax x.thread.floor t | none => x.thread.floor

/-! Addresses. -/
/-- An effective address: a pointer, or one outside its window with its TINFO and TADDR. -/
inductive EAddr where
  | inside (p : Ptr)
  | outside (tinfo : Nat) (addr : Word)
  deriving DecidableEq, Repr
/-- A displacement from a base (R168). -/
def EAddr.move (a : EAddr) (d : Int) : EAddr :=
  match a with
  | .inside p => (match p.add d with
    | some q => .inside q
    | none => .outside 1 (p.encode + BitVec.ofInt 64 d))
  | a => a
/-- An offset in the thread's own window of a space. -/
def ownWindow (sp : PSpace) (o : Int) : EAddr :=
  if 0 ≤ o && o < (sp.range : Int) then .inside ⟨sp, o.toNat⟩ else .outside 1 (BitVec.ofInt 64 o)
/-- An address as a word. -/
def EAddr.word : EAddr → Word
  | .inside p => p.encode
  | .outside _ a => a
/-- The base of R168. -/
def Firing.base (x : Firing) : EAddr :=
  let a := x.a.word
  let off : Int := x.raw.mword.off.toInt
  let o : Int := a.toNat + off
  match x.raw.mword.sp with
  | .generic => (match decodePtr a with
    | none => .outside 0 a
    | some p => match p.add off with
      | some q => .inside q
      | none => .outside 1 a)
  | .global => ownWindow .global o
  | .priv => ownWindow (.priv x.tid) o
  | .scratch => ownWindow (.scratch x.thread.alloc.toNat) o
  | .shared => ownWindow (.shared (clusterOfTile x.tile)) o

/-! The checks of R169. -/
def Firing.who (x : Firing) : Who := ⟨x.tile, x.thread.asid, x.thread.supervisor⟩
/-- What a walk asked for by this thread came to: a TINFO of XLATE, or `walkedOk`. -/
def walkedOk : Nat := 4096
def Thread.walked (t : Thread) (va : Nat) : Option Nat :=
  (t.walkFaults.find? (fun w => w.1 == t.asid.toNat && w.2.1 == walkPage va)).map (·.2.2)
/-- The checks on one access, a TLB miss answered by the walk the thread has waited for. -/
def Firing.check (x : Firing) (kind : AccKind) (p : Ptr) (n align : Nat) : Checked :=
  match checkPtr x.st x.who kind false p n align with
  | .miss va => (match x.thread.walked va with
    | none => .miss va
    | some c => if c = walkedOk then checkPtr (x.st.markWalked x.tile x.thread.asid va) x.who kind true p n align else .fault cXLATE c)
  | r => r
/-- One element's access. -/
inductive Access where
  | ok (e : Nat) (l : Loc)
  | bad (f : FaultRec)
  | miss (va : Nat)
  deriving DecidableEq, Repr
/-- `host` is whether the instruction may reach a HOST page (R411). TADDR of XLATE and PERM at a private pointer is the pointer as formed, not its
global alias (DESIGN CHOICE, log entry 63). -/
def Firing.access (x : Firing) (kind : AccKind) (host : Bool) (n align : Nat) (e : Nat) (a : EAddr) : Access :=
  match a with
  | .outside i w => .bad (mkFault cNONCANON x.slot i w.toNat e)
  | .inside p => (match x.check kind p n align with
    | .miss va => .miss va
    | .fault c i => .bad (mkFault c x.slot i p.encode.toNat e)
    | .ok l => if l.route = .host && !host then .bad (mkFault cPERM x.slot 6 p.encode.toNat e) else .ok e { l with va := p.encode })
/-- The tile's copy of a line serves a load with a bound (R284), unless an uncorrectable error in it makes the access a miss (R287). -/
def State.l1Hit (s : State) (tile : Nat) (l : Loc) (b : Time) (fresh : Bool) : Option Copy :=
  if l.route = .cached && !fresh then (findCopy (lineOf l.key) (s.tile tile).l1).filter (fun c => serialLe b c.rts && !c.bad) else none
/-- The accesses in ascending order, up to the first that fails. -/
structure Sweep where
  oks : List (Nat × Loc)
  misses : List Nat
  bad : Option FaultRec
  deriving DecidableEq, Repr
def sweep : List Access → Sweep
  | [] => ⟨[], [], none⟩
  | .bad f :: _ => ⟨[], [], some f⟩
  | .miss va :: r => let y := sweep r; { y with misses := va :: y.misses }
  | .ok e l :: r => let y := sweep r; { y with oks := (e, l) :: y.oks }
def addOnce (l : List Nat) (n : Nat) : List Nat := if l.contains n then l else l ++ [n]
/-- Asks the cluster's walkers for a page: one walk serves every tile of the cluster that asks for the page (R381). -/
def State.askPage (s : State) (tile : Nat) (asid : BitVec 12) (va : Nat) (tids engines : List Nat) : State :=
  let pg := walkPage va
  let joins (w : Walk) : Bool := w.cluster == clusterOfTile tile && w.asid == asid && w.va == pg
  if s.walks.any joins
  then { s with walks := s.walks.map (fun w => if joins w then
    { w with tiles := addOnce w.tiles tile, waiters := tids.foldl addOnce w.waiters, engines := engines.foldl addOnce w.engines } else w) }
  else
    let r := s.tick
    { r.2 with walks := s.walks ++ [⟨r.1, clusterOfTile tile, asid, pg, [tile], tids, engines⟩] }
/-- A thread's access asks. -/
def State.askWalk (s : State) (tid tile : Nat) (asid : BitVec 12) (va : Nat) : State := s.askPage tile asid va [tid] []
def Firing.askWalks (x : Firing) (l : List Nat) : State := l.foldl (fun s va => s.askWalk x.tid x.tile x.thread.asid va) x.st
/-- An engine of a tile, or the reader of a structure, asks. -/
def State.askPages (s : State) (tile : Nat) (asid : BitVec 12) (l : List Nat) : State := l.foldl (fun s va => s.askPage tile asid va [] [tile]) s
/-- The walks that a tile's engines waited for in an ASID have served. -/
def State.walksUsed (s : State) (tile : Nat) (asid : BitVec 12) : State :=
  { s with walkEnds := s.walkEnds.filter (fun e => !(e.1 == tile && e.2.1 == asid.toNat)) }
/-- Goes on when every access is translated and permitted. -/
def Firing.swept (x : Firing) (l : List Access) (go : List (Nat × Loc) → Fired) : Fired :=
  let y := sweep l
  if !y.misses.isEmpty then .stall (x.askWalks y.misses)
  else match y.bad with
    | some f => .fault (if f.cause = cUNCORR then x.st.poisonAt x.who f.addr else x.st) f
    | none => go y.oks

/-! The elements of vector instructions. -/
def tagWidth (tag : BitVec 16) : Nat := (fmtOf (tagFmt tag)).width
/-- An index as a number (R179): signed or unsigned as its format gives. -/
def VTok.index (v : VTok) (e : Nat) : Option Int := (v.at e).map (fun w => intVal v.fmt w.toNat)
/-- The element addresses of a store-class instruction of data width w, among the elements `live`. -/
def Firing.storeAddrs (x : Firing) (w : Nat) (live : Nat → Bool) : List (Nat × EAddr) :=
  let b := x.base
  let es := (List.range x.vl).filter live
  match x.raw.op with
  | .vst => es.map (fun e => (e, b.move ((e * (w / 8) : Nat) : Int)))
  | .vsts => es.map (fun e => (e, b.move ((e : Int) * x.c.word.toInt)))
  | .vstx | .vsadd => es.filterMap (fun e => (x.c.vec.index e).map (fun i => (e, b.move (i * ((w / 8 : Nat) : Int)))))
  | _ => [(0, b)]

/-! Order inside a thread (R170, R171). -/
/-- The stores of the block that forward, with a lower LSID. -/
def Opcode.forwards : Opcode → Bool
  | .st | .vst | .vsts | .vstx | .vstp => true
  | _ => false
def lsidNo (r : Raw) : Nat := r.lsid.getD 0
def Firing.lower (x : Firing) : List (Nat × Raw) :=
  x.block.slotsOf (fun r => Opcode.forwards r.op && lsidNo r < lsidNo x.raw)
def Firing.at (x : Firing) (k : Nat) (r : Raw) : Firing :=
  let opnd (o : Opnd) : Token := (x.block.tok k o).getD .null
  { x with slot := k, raw := r, a := opnd .a, b := (match r.immB with | some v => .scalar v | none => opnd .b), c := opnd .c }
/-- Where an unresolved lower store may write, its P and the nulls of its B taken as far as they have come; none while its address operands have not all arrived. -/
inductive MayWrite where
  | unknown
  | nowhere
  | among (l : List (EAddr × Nat))
  | rows (l : List (Nat × Nat))
  deriving DecidableEq, Repr
def Firing.mayWrite (x : Firing) (k : Nat) (r : Raw) : MayWrite :=
  let y := x.at k r
  let needC := r.op = .vsts || r.op = .vstx
  if (x.block.tok k .a).isNone || (needC && (x.block.tok k .c).isNone) then .unknown
  else if y.a = .null || (needC && y.c = .null) || x.block.tok k .b == some .null then .nowhere
  else match decisionOf r (x.block.tok k .p) with
    | .declines => .nowhere
    | .fires .null => .nowhere
    | d =>
      let on (e : Nat) : Bool := (match d with | .fires p => p.on e | _ => true) &&
        (match x.block.tok k .b with | some (.vector _ l _ _) => (l[e]?.getD none).isSome | _ => true)
      if r.op = .vstp then (match planeSpans x.st x.who y.base.word x.vl with | some l => .rows l | none => .unknown)
      else if r.op = .st then (match d with | .fires (.mask (none :: _)) => .nowhere | _ => .among [(y.base, 2 ^ r.mword.sz.toNat)])
      else
        let ws := match x.block.tok k .b with
          | some (.vector t ..) => [tagWidth t]
          | some _ => []
          | none => [8, 16, 32, 64]
        .among (ws.flatMap (fun w => (y.storeAddrs w on).map (fun e => (e.2, w / 8))))
/-- Bytes [a, a+n) and [b, b+m) share one. -/
def meets (a n b m : Nat) : Bool := a < b + m && b < a + n
/-- Bytes that resolved stores of the block write with an LSID above `lo` and below `hi`; of rows the bytes that are written whole. -/
def BlockExec.writtenBetween (b : BlockExec) (lo hi : Nat) : List Nat :=
  b.effects.flatMap (fun e => match e.eff with
    | .store n els _ => if lo < n && n < hi then els.flatMap (fun s => (List.range s.bytes.length).map (· + s.key)) else []
    | .planes n rows _ => if lo < n && n < hi then rows.flatMap (fun r =>
        ((List.range 1024).filter (fun (i : Nat) => decide (r.lanes.extractLsb' (8 * i) 8 = 0xFF))).map (· + r.key)) else []
    | _ => [])
/-- The bytes of a load that an unresolved store may supply: those for which no resolved store stands between them (R170). -/
def BlockExec.supplied (b : BlockExec) (lo hi : Nat) (spans : List (Nat × Nat)) : List (Nat × Nat) :=
  match b.writtenBetween lo hi with
  | [] => spans
  | l => spans.flatMap (fun q => (((List.range q.2).map (· + q.1)).filter (fun k => !l.contains k)).map (·, 1))
/-- An unresolved lower store holds a load back: it may write bytes the load reads, or is not known not to. -/
inductive HeldBy where
  | no | waits | walks (va : List Nat)
  deriving DecidableEq, Repr
def Firing.touching (x : Firing) (spans : List (Nat × Nat)) : List (EAddr × Nat) → HeldBy
  | [] => .no
  | (.outside .., _) :: r => x.touching spans r
  | (.inside p, n) :: r => match x.check .write p n n with
    | .miss va => .walks [va]
    | .fault .. => x.touching spans r
    | .ok l => if spans.any (fun q => meets l.key n q.1 q.2) then .waits else x.touching spans r
def Firing.heldBy (x : Firing) (spans : List (Nat × Nat)) : List (Nat × Raw) → HeldBy
  | [] => .no
  | (k, r) :: rest =>
    if x.block.resolved k then x.heldBy spans rest
    else
    let left := x.block.supplied (lsidNo r) (lsidNo x.raw) spans
    match x.mayWrite k r with
      | .unknown => .waits
      | .nowhere => x.heldBy spans rest
      | .rows l => if l.any (fun e => left.any (fun q => meets e.1 e.2 q.1 q.2)) then .waits else x.heldBy spans rest
      | .among l => match x.touching left l with
        | .no => x.heldBy spans rest
        | h => h
/-- The bytes the block's lower stores forward, in LSID order. -/
def elCells (els : List StoreEl) : List Host.Cell := els.flatMap (fun e => cellsOf e.key e.bytes)
/-- Ascending order of a key. -/
def sortOn {α : Type} (f : α → Nat) (l : List α) : List α :=
  let rec put (x : α) : List α → List α
    | [] => [x]
    | y :: r => if f x < f y then x :: y :: r else y :: put x r
  l.foldl (fun acc x => put x acc) []
/-- The bytes of one row a VSTP writes, over what lies there (R263). -/
def RowWrite.merge (r : RowWrite) (old : Nat → Byte) : List Host.Cell :=
  (List.range 1024).filterMap (fun i =>
    let m : BitVec 8 := (r.lanes >>> (8 * i)).setWidth 8
    let b : BitVec 8 := (r.bits >>> (8 * i)).setWidth 8
    if m = 0 then none else some (r.key + i, (old (r.key + i) &&& ~~~m) ||| (b &&& m)))
/-- The effects of the block's stores with a lower LSID, in LSID order. -/
def BlockExec.storeEffects (b : BlockExec) (lsid : Nat) : List Effect :=
  (sortOn Prod.fst (b.effects.filterMap (fun e => match e.eff with
    | .store n _ _ => if n < lsid then some (n, e.eff) else none
    | .planes n _ _ => if n < lsid then some (n, e.eff) else none
    | _ => none))).map (·.2)
/-- The last byte written to a key by cells in order. -/
def lastCell (k : Nat) (l : List Host.Cell) : Option Byte := l.foldl (fun a c => if c.1 = k then some c.2 else a) none
/-- The bytes those stores forward, over the cells `own` of older stores and memory (R170). -/
def BlockExec.storesBelow (b : BlockExec) (lsid : Nat) (m : Memory) (own : List Host.Cell) : List Host.Cell :=
  (b.storeEffects lsid).foldl (fun acc e => match e with
    | .store _ els _ => acc ++ elCells els
    | .planes _ rows _ => acc ++ rows.flatMap (fun r => r.merge (fun k => (lastCell k acc).getD (readByte m k)))
    | _ => acc) own
/-- The thread's committed store-class requests not yet performed, in program order. -/
def State.ownStores (s : State) (tid : Nat) : List StoreReq := s.stores.filter (fun r => r.tid == some tid && r.team == (s.thread tid).team)
def ReqKind.touches (k : ReqKind) (line : Nat) : Bool :=
  match k with
  | .write c => c.any (fun x => lineOf x.1 == line)
  | .folds l => l.any (fun x => lineOf x.key == line)
  | .atomic _ key .. => lineOf key == line
  | .claimel key .. => lineOf key == line
  | .row r => lineOf r.key ≤ line && line < lineOf r.key + 8
def ReqKind.forwards : ReqKind → Bool
  | .write _ => true
  | _ => false
/-- The thread that a train's elements belong to. -/
def State.trainTid (s : State) (t : Train) : Option Nat :=
  match t.spill with
  | some i => some i
  | none => t.gid.bind (fun g => (s.groups.find? (fun x => x.gid == g)).map (·.tid))
/-- The trains of the thread now at a number. -/
def State.ownTrains (s : State) (tid : Nat) : List Train := s.trains.filter (fun t => s.trainTid t == some tid && t.team == (s.thread tid).team)
def Train.touches (t : Train) (line : Nat) : Bool := (t.els.drop t.performed).any (fun e => lineOf e.key == line)
/-- An own request keeps a load of these lines waiting; `all` for the loads that forward nothing of older blocks (R171). -/
def State.ownBlocks (s : State) (tid : Nat) (all : Bool) (lines : List Nat) : Bool :=
  (s.ownStores tid).any (fun r => (all || !r.kind.forwards) && lines.any r.kind.touches) ||
  (s.ownTrains tid).any (fun t => lines.any t.touches)
def State.ownCells (s : State) (tid : Nat) : List Host.Cell :=
  (s.ownStores tid).flatMap (fun r => match r.kind with | .write c => c | _ => [])
/-- A store-class effect formed in a block writes, or may write, a line. -/
def Effect.touches (e : Effect) (line : Nat) : Bool :=
  match e with
  | .store _ els _ => els.any (fun x => lineOf x.key == line)
  | .adds _ els => els.any (fun x => lineOf x.key == line)
  | .atomic _ _ key .. => lineOf key == line
  | .claimel _ key .. => lineOf key == line
  | .planes _ rows _ => rows.any (fun r => lineOf r.key ≤ line && line < lineOf r.key + 8)
  | _ => false
def Effect.isStore : Effect → Bool
  | .store .. => true
  | _ => false
/-- An older block of the thread holds back a load of these lines (R171): it has a store-class slot still to be resolved, or one has formed an
effect on them that forwards nothing; `all` for the loads that forward nothing of older blocks. -/
def Firing.olderHolds (x : Firing) (all : Bool) (lines : List Nat) : Bool :=
  (x.thread.older x.serial).any (fun b =>
    (b.slotsOf (fun r => r.op.store)).any (fun e => !b.resolved e.1) ||
    b.effects.any (fun e => (all || !e.eff.isStore) && lines.any e.eff.touches))
/-- The bytes of the thread's stores that older blocks forward, committed or not, in program order (R171). -/
def Firing.olderCells (x : Firing) : List Host.Cell :=
  (x.thread.older x.serial).foldl (fun acc b => b.storesBelow 32 x.st.mem acc) (x.st.ownCells x.tid)
def forwarded (cells : List Host.Cell) (key n : Nat) : List (Nat × Byte) :=
  (List.range n).filterMap (fun i => (lastCell (key + i) cells).map (fun b => (i, b)))
def overlay (bytes : List Byte) (fwd : List (Nat × Byte)) : List Byte :=
  bytes.zipIdx.map (fun e => ((fwd.find? (fun f => f.1 == e.2)).map (·.2)).getD e.1)

/-! Requests. -/
def LoadPart.full (p : LoadPart) : Bool := p.fwd.length == p.size
/-- A part from the bytes of its line as a version gives them. -/
def LoadPart.take (p : LoadPart) (line : List Byte) (w : Option Time) : LoadPart :=
  { p with got := some (overlay ((line.drop (p.key % 128)).take p.size) p.fwd, if p.full then none else w) }
def Firing.part (x : Firing) (b : Time) (fresh : Bool) (cells : List Host.Cell) (n : Nat) (a : Nat × Loc) : LoadPart :=
  let p : LoadPart := { elem := a.1, key := a.2.key, size := n, va := a.2.va, fwd := forwarded cells a.2.key n, route := a.2.route, compress := a.2.compress, got := none }
  if p.full then p.take (List.replicate 128 0) none
  else match x.st.l1Hit x.tile a.2 b fresh with
    | some c => p.take c.data (some c.wts)
    | none => p
/-- Checks 7 and 8 (R169), on the bytes a load takes from memory: the first element that cannot be read. -/
def Firing.unreadable (x : Firing) (parts : List LoadPart) : Option FaultRec :=
  parts.findSome? (fun p =>
    if p.got.isSome || p.route = .host || p.route = .peer then none
    else (readError x.st p.key p.size).map (fun c => mkFault c x.slot 0 p.va.toNat p.elem))
/-- Parts by line and route, in order of first element. -/
def groupParts : List LoadPart → List (List LoadPart)
  | [] => []
  | p :: r =>
    let g := groupParts r
    let same (q : List LoadPart) : Bool := match q with | y :: _ => lineOf y.key == lineOf p.key && y.route == p.route | [] => false
    match g.find? same with
    | some q => (p :: q) :: g.filter (fun z => !same z)
    | none => [p] :: g
/-- A cached load of a line homed on another cluster passes through the RDC (R286). -/
def Firing.firstStage (x : Firing) (fresh : Bool) (ps : List LoadPart) : LoadStage :=
  match ps with
  | p :: _ => if p.route = .cached && !fresh && (homeOf x.st p.key).any (fun h => homeCluster h != clusterOfTile x.tile) then .toRdc else .atHome
  | [] => .atHome
/-- A store of the tile, or of a tile of the cluster, to the line has not been performed yet (R285). -/
def State.storing (s : State) (line : Nat) (tile : Nat → Bool) : Bool :=
  s.stores.any (fun r => tile r.tile && r.kind.touches line) || s.trains.any (fun t => t.inbound.isNone && tile t.tile && t.touches line)
/-- The tile's copy of a line goes where it has an uncorrectable error, which is logged (R287). -/
def State.dropBadL1 (s : State) (tile line : Nat) : State :=
  let t := s.tile tile
  match findCopy line t.l1 with
  | some c => if c.bad then (s.setTile tile { t with l1 := dropCopy line t.l1 }).logRecord (clusterOfTile tile) 5 0 (logTile tile) 0 (line * 128) 0 else s
  | none => s
/-- The translations a load has used, and the copies in L1 that it takes, become the most recently used (R283, R381). -/
def Firing.uses (x : Firing) (parts : List LoadPart) : State :=
  parts.foldl (fun s p =>
    let s := match (decodePtr p.va).bind Ptr.va with | some va => s.usePage x.tile x.thread.asid va | none => s
    let s := if p.route = .cached then s.dropBadL1 x.tile (lineOf p.key) else s
    let t := s.tile x.tile
    match (p.got.bind (·.2)), findCopy (lineOf p.key) t.l1 with
    | some _, some c => s.setTile x.tile { t with l1 := dropCopy c.line t.l1 ++ [c] }
    | _, _ => s) x.st
def Firing.queueLoads (x : Firing) (form : LoadForm) (b : Time) (fresh : Bool) (parts : List LoadPart) : State :=
  (groupParts parts).foldl (fun s ps =>
    let r := s.tick
    let key := match ps with | p :: _ => p.key | [] => 0
    let c := clusterOfTile x.tile
    { r.2 with loads := r.2.loads ++ [{ id := r.1, tid := x.tid, serial := x.serial, slot := x.slot, form := form, parts := ps, bound := b, fresh := fresh,
                                        stage := x.firstStage fresh ps, answer := none, armedAt := none, home := homeOf s key,
                                        toL1 := !s.storing (lineOf key) (· == x.tile),
                                        toRdc := !s.storing (lineOf key) (fun t => clusterOfTile t == c) }] }) (x.uses parts)

/-! Delivery. -/
def joinTimes (l : List (Option Time)) : Option Time := l.foldl (fun a t => match t with | some t => joinTime a t | none => a) none
def partsTime (l : List LoadPart) : Option Time := joinTimes (l.map (fun p => (p.got.map (·.2)).getD none))
def partWord (p : LoadPart) : Word := BitVec.ofNat 64 (leNat ((p.got.map (·.1)).getD []))
def scalarOf (l : List LoadPart) (size : Nat) (sx : Bool) : Word :=
  match l with
  | p :: _ => if sx then sextW (partWord p) (8 * size) else zextW (partWord p) (8 * size)
  | [] => 0
/-- A load's tokens from its parts (R167, R177, R179, R180, R191). -/
def LoadForm.tokens (f : LoadForm) (l : List LoadPart) : Token × Option Token :=
  let wit : Token := .scalar (optWitness (partsTime l))
  match f with
  | .scalar n sx rw => (.scalar (scalarOf l n sx), if rw then some wit else none)
  | .wait n sx rw _ => (.scalar (scalarOf l n sx), if rw then some wit else none)
  | .vector tag n rw count =>
    let els := (List.range n).map (fun e => if count.any (fun c => c ≤ e) then none else (l.find? (fun p => p.elem == e)).map partWord)
    (.vector tag els [] [], match count with | some c => some (.scalar (BitVec.ofNat 64 c)) | none => if rw then some wit else none)
/-- The versions the parts took. -/
def partReads (lsid : Nat) (l : List LoadPart) : List (Nat × Nat × Time) :=
  l.filterMap (fun p => ((p.got.map (·.2)).getD none).map (fun t => (lsid, lineOf p.key, t)))
/-- A read of a line by a later access is older than one of these (R308). -/
def passed (reads old : List (Nat × Nat × Time)) : Bool := reads.any (fun r => old.any (fun o => o.2.1 == r.2.1 && serialGt r.2.2 o.2.2))
/-- A block begins again from its decoded form. -/
def BlockExec.restart (b : BlockExec) : BlockExec :=
  { b with toks := [], fired := [], declined := [], awaiting := [], effects := [], flags := 0, exit := none, held := none, reads := [], accepted := false, stuck := [] }
/-- A later access that has already taken an older version than this load takes is undone with what follows it: younger blocks
are discarded, the load's own block begins again (R308; DEDUCED, log entry 16). `none` where the load itself is undone. -/
def State.noteReads (s : State) (tid serial lsid : Nat) (reads : List (Nat × Nat × Time)) : State × Bool :=
  let t := s.thread tid
  let late := t.flight.dropWhile (fun b => b.serial != serial)
  match late with
  | [] => (s, false)
  | b :: younger =>
    let here := passed reads (b.reads.filter (fun r => lsid < r.1 && r.1 < 32))
    let keepYounger := if here then [] else younger.takeWhile (fun y => !passed reads y.reads)
    let flight := t.older serial ++ (if here then b.restart else { b with reads := b.reads ++ reads }) :: keepYounger
    let s := s.dropLoads tid (fun n => flight.any (fun y => y.serial == n) && !(here && n == serial))
    (s.setThread tid { s.thread tid with flight := flight }, !here)
def LoadReq.of (l : LoadReq) (tid serial slot : Nat) : Bool := l.tid == tid && l.serial == serial && l.slot == slot
/-- A slot fires anew: what it has sent goes. -/
def State.refire (s : State) (tid serial slot : Nat) : State :=
  let s : State := { s with loads := s.loads.filter (fun l => !l.of tid serial slot) }
  s.updBlock tid serial (fun b => { b with fired := b.fired.filter (· != slot), awaiting := b.awaiting.filter (· != slot) })
/-- An access before this one in program order has returned a newer version of a line than this one would (R308). -/
def State.readsBehind (s : State) (tid serial lsid : Nat) (reads : List (Nat × Nat × Time)) : Bool :=
  let t := s.thread tid
  let before := t.seen.map (fun e => (0, e.1, e.2)) ++ (t.older serial).flatMap (·.reads) ++ (match t.block serial with | some b => b.reads.filter (fun r => r.1 < lsid) | none => [])
  reads.any (fun r => before.any (fun o => o.2.1 == r.2.1 && serialGt o.2.2 r.2.2))
/-- All the parts of a load have come: its tokens go out (R26), HORIZON takes the read time (R173, R302). Where an access before it has returned
a newer version it fires anew (R308). -/
def State.deliverParts (s : State) (tid serial slot lsid : Nat) (form : LoadForm) (parts : List LoadPart) : State :=
  if s.readsBehind tid serial lsid (partReads lsid parts) then s.refire tid serial slot else
  let tile := s.tileOf tid
  let s := match partsTime parts with | some t => s.raiseHorizon tile t | none => s
  let r := s.noteReads tid serial lsid (partReads lsid parts)
  if r.2 then r.1.arrive tid serial slot (some (form.tokens parts).1) (form.tokens parts).2 else r.1
def State.settleLoad (s : State) (tid serial slot : Nat) : State :=
  let mine := s.loads.filter (fun l => l.of tid serial slot)
  let parts := mine.flatMap (·.parts)
  if !parts.all (fun p => p.got.isSome) then s
  else match mine, (s.thread tid).block serial with
    | l :: _, some b =>
      let s := { s with loads := s.loads.filter (fun l => !l.of tid serial slot) }
      if b.awaiting.contains slot then s.deliverParts tid serial slot ((b.raw slot).map lsidNo |>.getD 0) l.form (sortOn (·.elem) parts) else s
    | _, _ => { s with loads := s.loads.filter (fun l => !l.of tid serial slot) }
/-- Accesses that have passed checks 1 to 6: held by lower stores, by the thread's own earlier stores and by R17; else the load goes on with the
bytes forwarded to it (R170, R171). -/
def Firing.ordered (x : Firing) (fresh forwards : Bool) (n : Nat) (oks : List (Nat × Loc)) (go : List Host.Cell → Fired) : Fired :=
  let spans := oks.map (fun a => (a.2.key, n))
  let lines := oks.map (fun a => lineOf a.2.key)
  if oks.any (fun a => a.2.route = .nocache || a.2.route = .host) && !x.oldest then .wait
  else match (if forwards then x.heldBy spans x.lower else .no) with
    | .waits => x.stick
    | .walks l => .stall (x.askWalks l)
    | .no =>
      if x.st.ownBlocks x.tid (fresh || !forwards) lines || x.olderHolds (fresh || !forwards) lines then .wait
      else go (if forwards then x.block.storesBelow (lsidNo x.raw) x.st.mem (if fresh then [] else x.olderCells) else [])
/-- The parts of a load are sent, or delivered at once where none is accessed. -/
def Firing.send (x : Firing) (form : LoadForm) (b : Time) (fresh : Bool) (parts : List LoadPart) : Fired :=
  if parts.isEmpty then .give x.st { main := some (form.tokens []).1, alt := (form.tokens []).2 }
  else .later (x.queueLoads form b fresh parts)
/-- An access has failed a check of R169: the load faults, or under `ff` ends before that element where one below it is accessed (R180). -/
def Firing.failsAt (x : Firing) (ff : Bool) (form : Option Nat → LoadForm) (b : Time) (fresh : Bool) (f : FaultRec) (parts : List LoadPart) : Fired :=
  let before := parts.filter (·.elem < f.elem)
  if ff && !before.isEmpty then x.send (form (some f.elem)) b fresh before
  else .fault (if f.cause = cUNCORR then x.st.poisonAt x.who f.addr else x.st) f
/-- A load of n-byte elements (R169 to R173, R180): `form` gives its result by the count of a first-fault load. -/
def Firing.load (x : Firing) (ff : Bool) (form : Option Nat → LoadForm) (b : Time) (fresh forwards : Bool) (n : Nat) (accs : List Access) : Fired :=
  let y := sweep accs
  if !y.misses.isEmpty then .stall (x.askWalks y.misses)
  else match y.bad, y.oks with
    | some f, [] => .fault x.st f
    | bad, oks => x.ordered fresh forwards n oks (fun cells =>
        let parts := oks.map (x.part b fresh cells n)
        match x.unreadable parts, bad with
        | some f, _ => x.failsAt ff form b fresh f parts
        | none, some f => x.failsAt ff form b fresh f parts
        | none, none => x.send (form (if ff then some x.vl else none)) b fresh parts)
/-- Fires a load; it is delivered in the same step where no part has to travel. A slot that has still to fire has asked for nothing yet. -/
def runLoad (r : Raw) (body : Firing → Fired) (s : State) : State :=
  let t := runSlot r body s
  match t.focus with
  | .slot tid serial slot => if s.loads.any (fun l => l.of tid serial slot) then t else t.settleLoad tid serial slot
  | _ => t

end Sys2Proof.Machine
end

