-- ==== Sys2Proof/Machine/Engine.lean ====
section
/-! DEFINITION. Reads made by engines (R175, R230, R241, R267, R353): byte ranges checked and read line by line, lines of HOST pages and of
peers fetched first (R411, R416); and the messages that leave a device (R413 to R415). -/
namespace Sys2Proof.Machine

/-! Messages out. -/
/-- The 32-byte header of a message (R413). -/
def msgHeader (type nbeat src asid : Nat) (time : Time) (seq tag addr : Nat) : List Byte :=
  leBytes 1 type ++ leBytes 1 nbeat ++ leBytes 2 src ++ leBytes 2 asid ++ leBytes 2 0 ++ leBytes 8 time.toNat ++ leBytes 4 seq ++
    leBytes 4 tag ++ leBytes 8 addr
def streamKey (tile dev : Nat) : Nat := tile * 4096 + dev
def msgOffset (dir tile : Nat) : BitVec 20 := BitVec.ofNat 20 (dir * 2 ^ 19 + tile * 2 ^ 13)
/-- A message of a stream: numbered, sent, and kept until it is acknowledged (R414, R415). -/
def State.sendMsg (s : State) (tile dev type asid tag addr : Nat) (time : Time) (beats : List (List Byte)) : State :=
  let k := streamKey tile dev
  let seq := mget 0 s.txSeq k
  let payload := msgHeader type beats.length s.deviceNo.toNat asid time seq tag addr ++ beats.flatten
  { s with txSeq := mset 0 s.txSeq k ((seq + 1) % 2 ^ 32), sent := s.sent ++ [⟨tile, dev, seq, tag, type, payload⟩],
           out := s.out ++ [.message dev type (msgOffset 0 tile) payload] }
/-- An answer, sent back toward the requesting tile. -/
def State.sendAnswer (s : State) (tile dev type asid tag : Nat) (time : Time) (beats : List (List Byte)) : State :=
  { s with out := s.out ++ [.message dev type (msgOffset 1 tile) (msgHeader type beats.length s.deviceNo.toNat asid time 0 tag 0 ++ beats.flatten)] }
/-- The peer a physical address of the peer window names (R406, R407). -/
def State.peerOf (s : State) (pa : Nat) : Nat := bitsAt (mget 0 s.peers ((pa - 2 ^ 51) / 2 ^ 40)) 4 12
/-- Lines of host memory that a ring names by host physical address, which may lie beyond the host window, are told apart from this number on (R408). -/
def hostPlace : Nat := 2 ^ 54
/-- A TYPE 3 read request (R416); the size goes to the last byte of ADDR (DEDUCED, log entry 17). -/
def State.sendRead (s : State) (tile asid pa size id : Nat) (b : Time) : State :=
  s.sendMsg tile (s.peerOf pa) 3 asid (id % 2 ^ 32) (pa % 2 ^ 40 + size * 2 ^ 56) b []

/-! Lines from far. -/
/-- A line that a read of an ASID has brought, current at a bound or beyond (R312, R331). -/
def FarLine.serves (e : FarLine) (line asid : Nat) (b : Time) : Bool := e.line == line && e.asid == asid && serialLe b e.bound
def State.farLine (s : State) (line asid : Nat) (b : Time) : Option FarLine := s.farLines.find? (·.serves line asid b)
/-- The CAUSE and TINFO of a load that meets it (log entry 22). -/
def remoteFault (w : Word) : Nat × Nat :=
  if bitsAt w 56 6 = 3 then (cUNCORR, 0) else if bitsAt w 56 6 = 5 then (cXLATE, 2) else (cPERM, 7)
/-- Such a read is under way. -/
def HostWhat.serves (w : HostWhat) (line asid : Nat) (b : Time) : Bool :=
  match w with
  | .line l a c => l == line && a == asid && serialLe b c
  | _ => false
/-- Asks for a line of the host or of a peer, once. A line of this device whose held copy is bad goes from the slice (R292); one that the host holds is
asked back (R412); for another, a request joins the queue of its engaged bank (R323). -/
def State.askFar (s : State) (tile asid line : Nat) (b : Time) : State :=
  if line * 128 < 2 ^ 50 then
    (if (s.line line).held && (s.line line).bad then (match homeOf s (line * 128) with | some h => s.scrubHeld h line | none => s)
     else if s.snoopBlocks line false then s.askSnoop line false else s.askDram line .engine)
  else if s.hostReqs.any (fun h => h.what.serves line asid b) || (s.farLine line asid b).isSome then s
  else
    let r := s.tick
    let s : State := { r.2 with hostReqs := r.2.hostReqs ++ [HostReq.mk r.1 (HostWhat.line line asid b)] }
    if hostPlace ≤ line * 128 then { s with out := s.out ++ [Output.hostRead r.1 (line * 128 - hostPlace)] }
    else if line * 128 < 2 ^ 51 then { s with out := s.out ++ [Output.hostRead r.1 (line * 128 - 2 ^ 50)] }
    else s.sendRead tile asid (line * 128) 128 r.1 b
def State.dropFar (s : State) (lines : List Nat) : State := { s with farLines := s.farLines.filter (fun e => !lines.contains e.line) }

/-! Ranges. -/
/-- What a read of a range gives: its bytes, a fault with its TADDR, lines to be fetched first, pages to be walked first (R381), or a row lock to wait for (R245). -/
inductive Peek where
  | ok (bytes : List Byte)
  | fault (cause tinfo : Nat) (addr : Word)
  | far (lines : List Nat)
  | walk (pages : List Nat)
  | held
  deriving DecidableEq, Repr
/-- A range cut at line boundaries. -/
def chunks (fuel off n : Nat) : List (Nat × Nat) :=
  match fuel with
  | 0 => []
  | f + 1 =>
    if n = 0 then []
    else
      let k := Nat.min n (128 - off % 128)
      (off, k) :: chunks f (off + k) (n - k)
def Ptr.pieces (p : Ptr) (n : Nat) : List (Ptr × Nat) :=
  (chunks (n / 128 + 2) p.off n).map (fun c => ({ p with off := c.1 }, c.2))
/-- Who reads a range: for the checks, whose row locks let it through (R245), the bound it reads under, the bytes of older stores that are
forwarded to it (R171), and whether it reads through the tile's L1 (R283). -/
structure RangeReader where
  who : Who
  owner : Option Nat
  bound : Time
  cells : List Host.Cell
  l1 : Bool := false
  deriving DecidableEq, Repr
/-- One piece, within a line, at a location. -/
def State.peekAt (s : State) (r : RangeReader) (l : Loc) (va : Word) (n : Nat) : Peek :=
  let fwd := forwarded r.cells l.key n
  if fwd.length = n then .ok (fwd.map (·.2))
  else if l.route = .host || l.route = .peer then
    (match s.farLine (lineOf l.key) r.who.asid.toNat r.bound with
     | some b => (match b.bad with
       | some e => .fault (remoteFault e).1 (remoteFault e).2 va
       | none => .ok (overlay ((b.bytes.drop (l.key % 128)).take n) fwd))
     | none => .far [lineOf l.key])
  else match (if r.l1 then s.l1Hit r.who.tile l r.bound false else none) with
  | some c => .ok (overlay ((c.data.drop (l.key % 128)).take n) fwd)
  | none => if (s.line (lineOf l.key)).held && (s.line (lineOf l.key)).bad then .far [lineOf l.key] else match readError s l.key n with
    | some c => .fault c 0 va
    | none => if s.keyBlocked r.owner l.key false || s.unripe [lineOf l.key] then .held
      else if s.snoopBlocks (lineOf l.key) false || s.dramHolds l.route (lineOf l.key) then .far [lineOf l.key]
      else .ok (overlay (readBytes s.mem l.key n) fwd)
/-- One piece at a pointer. -/
def State.peekPiece (s : State) (r : RangeReader) (p : Ptr) (n : Nat) : Peek :=
  if p.space.range ≤ p.off then .fault cNONCANON 1 p.encode
  else match checkPtr s r.who .read true p n 1 with
    | .miss va => .walk [va]
    | .fault c i => .fault c i p.encode
    | .ok l => s.peekAt r l p.encode n
def Peek.append : Peek → Peek → Peek
  | .ok a, .ok b => .ok (a ++ b)
  | .far a, .far b => .far (a ++ b)
  | .far a, .ok _ => .far a
  | .far a, _ => .far a
  | .walk a, .walk b => .walk (a ++ b)
  | .ok _, p => p
  | p, _ => p
def State.peekPieces (s : State) (q : RangeReader) : List (Ptr × Nat) → Peek
  | [] => .ok []
  | c :: r => (s.peekPiece q c.1 c.2).append (s.peekPieces q r)
/-- The n bytes at a pointer as they stand. -/
def State.peek (s : State) (r : RangeReader) (a : Word) (n : Nat) : Peek :=
  match decodePtr a with
  | none => .fault cNONCANON 0 a
  | some p => s.peekPieces r (p.pieces n)
/-- The locations of a range's pieces, where they pass their checks. -/
def State.spots (s : State) (w : Who) (a : Word) (n : Nat) : List (Loc × Nat) :=
  match decodePtr a with
  | none => []
  | some p => (p.pieces n).filterMap (fun c => match checkPtr s w .read true c.1 c.2 1 with | .ok l => some (l, c.2) | _ => none)
/-- The homes serve the range as loads with a bound (R281); the greatest wts read, and the far lines used up. -/
def State.touchRange (s : State) (w : Who) (a : Word) (n : Nat) (b : Time) : State × Option Time :=
  match decodePtr a with
  | none => (s, none)
  | some p => (fun (y : State × Option Time) => (y.1.walksUsed w.tile w.asid, y.2)) ((p.pieces n).foldl (fun (r : State × Option Time) c =>
      let r := (match c.1.va with | some va => r.1.usePage w.tile w.asid va | none => r.1, r.2)
      match checkPtr r.1 w .read true c.1 c.2 1 with
      | .ok l =>
        if l.route = .host || l.route = .peer then (r.1.dropFar [lineOf l.key], r.2)
        else serveLines r.1 w.tile b l.route l.compress (linesOf l.key c.2) r.2
      | _ => r) (s, none))
/-- The range is read as a load of a later block reads (R171): it waits for the thread's earlier requests and for what older blocks have still to
resolve, but for the bytes that older stores forward, the block's own with a lower LSID among them (R170); NOCACHE and HOST pages wait for the oldest
block (R17), the bound for the ceiling (R172). -/
def Firing.readHeld (x : Firing) (a : Word) (n : Nat) (b : Time) : Bool :=
  let l := x.st.spots x.who a n
  let lines := l.map (fun e => lineOf e.1.key)
  (l.any (fun e => e.1.route = .nocache || e.1.route = .host) && !x.oldest) ||
    x.st.ownBlocks x.tid false lines || x.olderHolds false lines || !x.st.underCeiling b
def Firing.reader (x : Firing) (b : Time) : RangeReader :=
  { who := x.who, owner := some x.party, bound := b,
    cells := if x.raw.lsid.isSome then x.block.storesBelow (lsidNo x.raw) x.st.mem x.olderCells else x.olderCells }
/-- The stores of the block with a lower LSID hold the range back (R170). -/
def Firing.lowerHold (x : Firing) (a : Word) (n : Nat) : HeldBy :=
  if x.raw.lsid.isSome then x.heldBy ((x.st.spots x.who a n).map (fun e => (e.1.key, e.2))) x.lower else .no
/-- A read of an instruction that is no load fails (R431). -/
def Firing.failRead (x : Firing) (cause info : Nat) (at' addr : Word) : Fired := .fault (x.st.meetAt x.who cause at') (mkFault cause x.slot info addr.toNat 0)
/-- An instruction that reads a range when it fires (MFILL, WTABLE, WEXP, structures). TADDR is the address of the piece that fails, or where
`pointer` is given that pointer. -/
def Firing.reads (x : Firing) (a : Word) (n : Nat) (b : Time) (go : List Byte → Fired) (pointer : Option Word := none) : Fired :=
  if x.readHeld a n b then .wait
  else match x.lowerHold a n with
    | .waits => x.stick
    | .walks l => .stall (x.askWalks l)
    | .no => match x.st.peek (x.reader b) a n with
      | .ok l => go l
      | .fault c i w => x.failRead c i w (pointer.getD w)
      | .far l => .stall (l.foldl (fun s k => s.askFar x.tile x.thread.asid.toNat k b) x.st)
      | .walk l => .stall (x.st.askPages x.tile x.thread.asid l)
      | .held => .wait
/-- The LSID under which reads of an instruction without LSID are noted: they are in no order within their block. -/
def noLsid : Nat := 32
/-- The versions of the lines of a range, as a load of it returns them now. -/
def State.versionsOf (s : State) (w : Who) (a : Word) (n : Nat) : List (Nat × Nat × Time) :=
  (s.spots w a n).filterMap (fun e =>
    if e.1.route = .host || e.1.route = .peer then none
    else (homeOf s e.1.key).map (fun h => (noLsid, lineOf e.1.key, s.wts h (lineOf e.1.key))))
/-- The device once a range is served at its homes, the versions it gave noted in the block (R308). -/
def Firing.readAt (x : Firing) (s : State) (a : Word) (n : Nat) (b : Time) : State :=
  let seen := s.versionsOf x.who a n
  (s.touchRange x.who a n b).1.updBlock x.tid x.serial (fun k => { k with reads := k.reads ++ seen })
/-- A line reaches a tile as a load of it does (R283, R284): from the tile's L1, or from its home with a lease, the L1 keeping the answer. -/
def State.loadLine (s : State) (tile lease : Nat) (b : Time) (l : Loc) : State × Option Time :=
  let line := lineOf l.key
  match s.l1Hit tile l b false with
  | some c => let t := s.tile tile; (s.setTile tile { t with l1 := dropCopy line t.l1 ++ [c] }, some c.wts)
  | none => match homeOf s l.key with
    | none => (s, none)
    | some h =>
      let s := (s.packetTo tile h).scrubHeld h line
      let s := if s.needsDram h line l.route then (s.openLine line).correctLine line else s
      let v := s.serveLoad h line b (if l.route = .cached then some lease else none) (nocacheRoute l.route) l.compress
      let s := (v.st.dropOlderAt tile line v.wts).packetBack tile h
      let t := s.tile tile
      (if l.route = .cached then s.setTile tile { t with l1 := putL1 ⟨line, readBytes s.mem (line * 128) 128, v.wts, v.rts, false⟩ t.l1 } else s, some v.wts)
/-- The device once a range is read through the tile's L1, the versions it gave noted in the block (R308). -/
def Firing.loadAt (x : Firing) (s : State) (a : Word) (n : Nat) (b : Time) : State :=
  (s.spots x.who a n).foldl (fun s e =>
    if e.1.route = .host || e.1.route = .peer then s.dropFar [lineOf e.1.key]
    else
      let y := s.loadLine x.tile x.thread.lease.toNat b e.1
      match y.2 with
      | some w => y.1.updBlock x.tid x.serial (fun k => { k with reads := k.reads ++ [(noLsid, lineOf e.1.key, w)] })
      | none => y.1) s
/-- Mesh hops between two clusters: along the row, then along the column (R3, R404). -/
def meshHops (a b : Nat) : Nat := (a % 4 - b % 4) + (b % 4 - a % 4) + (a / 4 - b / 4) + (b / 4 - a / 4)
/-- Cycles from a load's request to its line, by the table "Latencies" of "Instructions: memory, witnesses, atomics and waiting", rows closed and nothing
else in the way (R349; DESIGN CHOICE, log entry 74); none where the table gives no figure. -/
def State.loadCycles (s : State) (tile : Nat) (b : Time) (l : Loc) : Option Nat :=
  if (s.l1Hit tile l b false).isSome then some 12
  else if l.route = .host || l.route = .peer then none
  else match homeOf s l.key with
    | none => none
    | some h =>
      let d := meshHops (clusterOfTile tile) (homeCluster h)
      if d ≠ 0 && (findCopy (lineOf l.key) (s.cluster (clusterOfTile tile)).rdc).isSome then none
      else some ((if d = 0 then 48 else 60 + 30 * d) + (if s.needsDram h (lineOf l.key) l.route then 110 else 0))
/-- Cycles until the last line of a range has arrived. -/
def State.rangeCycles (s : State) (w : Who) (a : Word) (n : Nat) (b : Time) : Option Nat :=
  (s.spots w a n).foldl (fun m e => match m, s.loadCycles w.tile b e.1 with | some x, some y => some (Nat.max x y) | _, _ => none) (some 0)
/-- A firing's outcome with a range it read so served. -/
def Fired.served (f : Fired) (x : Firing) (a : Word) (n : Nat) (b : Time) : Fired :=
  match f with
  | .give s o => .give (x.readAt s a n b) o
  | f => f

end Sys2Proof.Machine
end

