-- ==== Sys2Proof/Machine/Matrix.lean ====
section
/-! DEFINITION. The claim and the matrix array (R196 to R210): the view (R202), MCLAIM, MREL, MMUL, MRD, MWR, MZERO, MDECAY, MSPILL, MFILL. -/
namespace Sys2Proof.Machine

/-! The view. -/
/-- A BF16 weight of a plane, an accumulator. -/
def planeAt (p : NMap (BitVec 16)) (k c : Nat) : Nat := (mget 0 p (k * 256 + c)).toNat
def accAt (a : NMap Word32) (r c : Nat) : Nat := (mget 0 a (r * 256 + c)).toNat
/-- Bytes of a flume entry's parts and of the whole (R227): table, scales, bitmaps. -/
def cfgWfmt (c : BitVec 16) : Nat := c.toNat % 16
def cfgExp (c : BitVec 16) : Nat := c.toNat / 16 % 16
def cfgGs (c : BitVec 16) : Nat := c.toNat / 256 % 4
def cfgSp (c : BitVec 16) : Bool := c.getLsbD 10
def cfgNc (c : BitVec 16) : Nat := c.toNat / 2048 % 4
def codeWidth (c : BitVec 16) : Nat := match cfgExp c with | 1 => 2 | 2 => 3 | 3 => 4 | 4 => 3 | _ => 4
def groupK (c : BitVec 16) : Nat := match cfgGs c with | 0 => 32 | 1 => 64 | _ => 128
def tableLen (c : BitVec 16) : Nat := match cfgExp c with | 4 => 16 | 5 => 32 | _ => 0
def scaleLen (c : BitVec 16) : Nat := match cfgExp c with | 1 | 2 | 3 => 2 * (128 / groupK c) | _ => 0
def entrySize (c : BitVec 16) : Nat :=
  if cfgWfmt c = 0 then 0 else (tableLen c + scaleLen c + (if cfgSp c then 16 else 0) + 15) / 16 * 16
/-- An effect applied to the state or to a view of it (R202). A WLOAD's acceptance is FILL_ACCEPT's; here it advances FP (R229). -/
def MxState.apply (m : MxState) (e : MxEffect) : MxState :=
  match e with
  | .cells rows => { m with acc := rows.foldl (fun a c => mset 0 a c.1 c.2) m.acc }
  | .zeroRows first n => { m with acc := m.acc.filter (fun c => c.1 / 256 < first || first + n ≤ c.1 / 256) }
  | .decay d => { m with decay := d }
  | .config c fp => { m with cfg := c, fp := fp }
  | .table f => { m with ftab := some f }
  | .fp v => { m with fp := v }
  | .stalled n t => { m with stall := Nat.min (2 ^ 32 - 1) (m.stall + n), expander := t }
  | .swap => { m with front := m.back, back := m.front }
  | .bank b cells => { m with acc := cells.foldl (fun a c => mset 0 a c.1 c.2) (m.acc.filter (fun c => c.1 / 32768 != b)) }
  | .plane true cells => { m with front := cells.foldl (fun a c => mset 0 a c.1 c.2) [] }
  | .plane false cells =>
    { m with back := cells.foldl (fun a c => mset 0 a c.1 c.2) [], backSt := .idle, failRec := none, fill := none, done := 0, active := false,
             progFF := false, progWla := false, progAddr := 0 }
  | .wload f => { m with fp := f.base + BitVec.ofNat 64 (256 * entrySize f.cfg) }
  | .wloada _ => m
  | .spill .. => m
def BlockExec.mxBelow (b : BlockExec) (msid : Nat) : List MxEffect :=
  (sortOn Prod.fst (b.effects.filterMap (fun e => match e.eff with
    | .mx n f => if n < msid then some (n, f) else none
    | _ => none))).map (·.2)
def msidNo (r : Raw) : Nat := r.msid.getD 0
def Firing.view (x : Firing) : MxState := (x.block.mxBelow (msidNo x.raw)).foldl MxState.apply (x.st.tile x.tile).mx

/-! What each instruction reads and writes of the state (R202). -/
inductive MxPart where
  | rows (first n : Nat) | front | back | decay | config | fp | table
  deriving DecidableEq, Repr
def MxPart.meets : MxPart → MxPart → Bool
  | .rows a n, .rows b m => a < b + m && b < a + n
  | p, q => p == q
def Raw.arow (r : Raw) : Nat := r.w2.toNat % 512
def Raw.nrow (r : Raw) : Nat := r.w2.toNat / 512 % 16 + 1
def Raw.posn (r : Raw) : Nat := r.w2.toNat / 8192 % 64
def mmulAcc (r : Raw) : AccMode := accOf (r.w2.toNat / 512 % 4)
def mmulSlice (r : Raw) : Nat := r.w2.toNat / 2048 % 64
def mmulDual (r : Raw) : Bool := r.w2.getLsbD 17
def mmulRows (r : Raw) : MxPart := .rows (r.w2.toNat % 512) (if mmulDual r then 2 else 1)
/-- The unit of MSPILL and MFILL (R200). -/
def mxUnit (r : Raw) : MxUnit := unitOf r.w2
def unitPart (r : Raw) : MxPart :=
  match mxUnit r with | .bank b => .rows (128 * b.toNat) 128 | .front => .front | .back => .back
def mxReads (r : Raw) : List MxPart :=
  match r.op with
  | .mmul => [.front] ++ (match mmulAcc r with | .overwrite => [] | .accumulate => [mmulRows r] | .decay => [mmulRows r, .decay])
  | .mrd | .mwr => [.rows (r.w2.toNat % 512) (r.w2.toNat / 512 % 16 + 1)]
  | .mspill => [unitPart r]
  | .mfill => if mxUnit r = .back then [.back] else []
  | .wload | .wexp => [.config, .fp, .table]
  | .wloada => [.rows (r.w2.toNat % 512) 128]
  | .wswap => [.front, .back]
  | _ => []
def mxWrites (r : Raw) : List MxPart :=
  match r.op with
  | .mmul => [mmulRows r]
  | .mwr | .mzero => [.rows (r.w2.toNat % 512) (r.w2.toNat / 512 % 16 + 1)]
  | .mdecay => [.decay]
  | .mfill => [unitPart r]
  | .wcfg => [.config, .fp]
  | .wtable => [.table]
  | .wload => [.fp, .back]
  | .wloada => [.back]
  | .wexp => [.fp]
  | .wswap => [.front, .back]
  | _ => []
def isMatrix (o : Opcode) : Bool := o.layout == .mx
/-- A lower-MSID instruction of the block still to be resolved writes something this one depends on. -/
def Firing.mxWaits (x : Firing) : Bool :=
  (x.block.slotsOf (fun r => isMatrix r.op && msidNo r < msidNo x.raw)).any (fun k =>
    !x.block.resolved k.1 && (x.raw.op = .wstat ||
      (mxWrites k.2).any (fun p => (mxReads x.raw ++ mxWrites x.raw).any p.meets)))
/-- A matrix-class instruction: under the claim (R45), with lanes where it moves vectors (R201), after what it depends on. -/
def Firing.matrix (x : Firing) (go : Fired) : Fired :=
  if x.thread.mclaimOut then .wait
  else if (x.st.tile x.tile).claimant ≠ some x.tid then x.failInfo cNOCLAIM 0
  else if x.mxWaits then x.stick
  else go
def Firing.mxEffect (x : Firing) (e : MxEffect) : Fired := .give x.st (Out.eff (.mx (msidNo x.raw) e))

/-! The claim (R197, R198). -/
def mclaimBody (x : Firing) : Fired := x.deferring (.mclaim (x.a.word.getLsbD 0))
def mrelBody (x : Firing) : Fired := x.effect .mrel

/-! Accumulators. -/
/-- One row of MMUL (R204): its cells and flags. -/
def mmulRow (m : MxState) (v : VTok) (on : Nat → Bool) (mode : AccMode) (first row : Nat) : List (Nat × Word32) × Flags :=
  let acts := (List.range 128).map (fun k => if on (first + k) then (v.at (first + k)).map (fun a => scaled v.fmt v.scale a.toNat) else none)
  let one (c : Nat) : Nat × Flags :=
    let prods := acts.zipIdx.filterMap (fun e => e.1.map (fun a => (a, decodeFloat bf16 (planeAt m.front e.2 c))))
    let old := decodeFloat fp32 (accAt m.acc row c)
    let d := decodeFloat fp32 m.decay.toNat
    gridDot (match mode with
      | .overwrite => ⟨prods, none, []⟩
      | .accumulate => ⟨prods, some old, [old]⟩
      | .decay => ⟨prods, some (decayTerm old d), [old, d]⟩)
  (List.range 256).foldl (fun (a : List (Nat × Word32) × Flags) c => let y := one c; (a.1 ++ [(row * 256 + c, BitVec.ofNat 32 y.1)], a.2 ||| y.2)) ([], 0)
def isEight (c : Nat) : Bool := c == 9 || c == 10
def mmulBody (x : Firing) : Fired :=
  x.matrix (
    let dual := mmulDual x.raw
    let row := Raw.arow x.raw; let first := 128 * mmulSlice x.raw; let n := if dual then 256 else 128
    x.vector [{ idx := 0, tok := x.a, ok := fun c => if dual then isEight c else isScaled c, scaled := true,
                used := fun e => first ≤ e && e < first + n && x.p.on e }] [] {} (
      if capacity x.thread.vlmax x.a.vec.fmt.width < first + n then x.failInfo cVLRANGE 0
      else if dual && row = 511 then x.failInfo cACCRANGE 512
      else
        let m := x.view
        let r0 := mmulRow m x.a.vec x.p.on (mmulAcc x.raw) first row
        let r1 := if dual then mmulRow m x.a.vec x.p.on (mmulAcc x.raw) (first + 128) (row + 1) else ([], 0)
        .give x.st { effs := [.mx (msidNo x.raw) (.cells (r0.1 ++ r1.1))], flags := r0.2 ||| r1.2 }))
/-- The ranges of R206: the vector's, then the rows'. R206 does not say whether they come before a null P or A, nor R207 whether an MWR's come before the
faults of A's tag: they come before both (DESIGN CHOICE, log entry 63). -/
def Firing.rowRange (x : Firing) (vec : Bool) (go : Fired) : Fired :=
  if vec && capacity x.thread.vlmax 32 < 256 * (Raw.posn x.raw + Raw.nrow x.raw) then x.failInfo cVLRANGE 0
  else if 511 < Raw.arow x.raw + Raw.nrow x.raw - 1 then x.failInfo cACCRANGE 512
  else go
def mrdBody (x : Firing) : Fired :=
  x.matrix (x.needLanes (x.rowRange true (
    let first := 256 * Raw.posn x.raw; let n := 256 * Raw.nrow x.raw
    x.vector [] [32] x.nulls (
      let m := x.view
      .give x.st (Out.tok (.vector (plainTag 13) ((List.range x.vl).map (fun e =>
        if first ≤ e && e < first + n && x.p.on e
        then some (BitVec.ofNat 64 (accAt m.acc (Raw.arow x.raw + (e - first) / 256) ((e - first) % 256))) else none)) [] []))))))
def mwrOk (c : Nat) : Bool := 9 ≤ c && c ≤ 13
def mwrBody (x : Firing) : Fired :=
  x.matrix (x.needLanes (x.rowRange true (
    let first := 256 * Raw.posn x.raw; let n := 256 * Raw.nrow x.raw
    let on (e : Nat) : Bool := first ≤ e && e < first + n && x.p.on e
    x.vector [{ idx := 0, tok := x.a, ok := mwrOk, used := on }] [] {} (
      let v := x.a.vec
      let cells := (List.range x.vl).filterMap (fun e => if on e then
        (v.at e).map (fun a => (Raw.arow x.raw * 256 + (e - first), BitVec.ofNat 32 (convert v.fmt 127 fp32 127 .rne false a.toNat).1)) else none)
      x.mxEffect (.cells cells)))))
def mzeroBody (x : Firing) : Fired :=
  x.matrix (x.whole {} (x.rowRange false (x.mxEffect (.zeroRows (Raw.arow x.raw) (Raw.nrow x.raw)))))
def mdecayBody (x : Firing) : Fired := x.matrix (x.whole {} (x.mxEffect (.decay (x.a.word.setWidth 32))))

/-! Units to and from memory (R209 to R211). -/
def unitLines : MxUnit → Nat
  | .bank _ => 1024
  | _ => 512
/-- The 128 bytes of line l of a unit. -/
def MxState.unitLine (m : MxState) (u : MxUnit) (l : Nat) : List Byte :=
  match u with
  | .bank b => (List.range 32).flatMap (fun i => leBytes 4 (accAt m.acc (128 * b.toNat + l / 8) (32 * (l % 8) + i)))
  | .front => (List.range 64).flatMap (fun i => leBytes 2 (planeAt m.front (l / 4) (64 * (l % 4) + i)))
  | .back => (List.range 64).flatMap (fun i => leBytes 2 (planeAt m.back (l / 4) (64 * (l % 4) + i)))
/-- The effect of a unit read from memory. -/
def wordsOf (n : Nat) (l : List Byte) : List Nat := (List.range (l.length / n)).map (fun i => leNat ((l.drop (n * i)).take n))
def unitLoad (u : MxUnit) (bytes : List Byte) : MxEffect :=
  match u with
  | .bank b => .bank b.toNat ((wordsOf 4 bytes).zipIdx.map (fun e => (128 * b.toNat * 256 + e.2, BitVec.ofNat 32 e.1)))
  | .front => .plane true ((wordsOf 2 bytes).zipIdx.map (fun e => (e.2, BitVec.ofNat 16 e.1)))
  | .back => .plane false ((wordsOf 2 bytes).zipIdx.map (fun e => (e.2, BitVec.ofNat 16 e.1)))
/-- The accesses of a unit's lines at a generic pointer; TELEM is 0. -/
def Firing.unitAccess (x : Firing) (kind : AccKind) (lines : Nat) : List Access :=
  let base : EAddr := match decodePtr x.a.word with | some p => .inside p | none => .outside 0 x.a.word
  (List.range lines).map (fun l => x.access kind true 128 128 0 (base.move ((128 * l : Nat) : Int)))
def mspillBody (x : Firing) : Fired :=
  x.matrix (x.whole {} (
    let u := mxUnit x.raw
    x.swept (x.unitAccess .write (unitLines u)) (fun oks =>
      let m := x.view
      x.mxEffect (.spill (oks.zipIdx.map (fun e => ⟨e.2, e.1.2.key, m.unitLine u e.2, e.1.2.route, e.1.2.compress⟩)) (u == .back)))))
def mfillWi (r : Raw) : Bool := r.w2.getLsbD 2
def mfillBody (x : Firing) : Fired :=
  x.matrix (x.whole {} (
    let u := mxUnit x.raw
    match (if mfillWi x.raw then x.badWitness 1 x.b.word else none) with
    | some f => .fault x.st f
    | none =>
      if u = .back && x.view.backSt = .filling then .wait
      else
        let b := x.bound (if mfillWi x.raw then x.timeOf x.b.word else none)
        x.swept (x.unitAccess .read (unitLines u)) (fun _ =>
          x.reads x.a.word (128 * unitLines u) b (fun bytes => (x.mxEffect (unitLoad u bytes)).served x x.a.word (128 * unitLines u) b))))

/-! The instructions. -/
def execMclaim (b : BForm) (s : State) : Host.Outcome State Fault Refusal := .next (runSlot ⟨.mclaim, .b b⟩ mclaimBody s)
def execMrel (p : Pred) (s : State) : Host.Outcome State Fault Refusal := .next (runSlot ⟨.mrel, .p p⟩ mrelBody s)
def noRes : KRes := ⟨none, none, none⟩
def execMmul (k : KForm) (arow : BitVec 9) (acc : AccMode) (slice : BitVec 6) (dual : Bool) (s : State) : Host.Outcome State Fault Refusal :=
  .next (runSlot ⟨.mmul, .k k noRes (BitVec.ofNat 32 (arow.toNat + 512 * encAcc acc + 2048 * slice.toNat + 131072 * encBool dual))⟩ mmulBody s)
def execMrd (k : KForm) (b : KRes) (arow : BitVec 9) (nrow : BitVec 4) (pos : BitVec 6) (s : State) : Host.Outcome State Fault Refusal :=
  .next (runSlot ⟨.mrd, .k k b (BitVec.ofNat 32 (arow.toNat + 512 * nrow.toNat + 8192 * pos.toNat))⟩ mrdBody s)
def execMwr (k : KForm) (arow : BitVec 9) (nrow : BitVec 4) (pos : BitVec 6) (s : State) : Host.Outcome State Fault Refusal :=
  .next (runSlot ⟨.mwr, .k k noRes (BitVec.ofNat 32 (arow.toNat + 512 * nrow.toNat + 8192 * pos.toNat))⟩ mwrBody s)
def execMzero (k : KForm) (arow : BitVec 9) (nrow : BitVec 4) (s : State) : Host.Outcome State Fault Refusal :=
  .next (runSlot ⟨.mzero, .k k noRes (BitVec.ofNat 32 (arow.toNat + 512 * nrow.toNat))⟩ mzeroBody s)
def execMdecay (k : KForm) (s : State) : Host.Outcome State Fault Refusal := .next (runSlot ⟨.mdecay, .k k noRes 0⟩ mdecayBody s)
def execMspill (k : KForm) (u : MxUnit) (s : State) : Host.Outcome State Fault Refusal :=
  .next (runSlot ⟨.mspill, .k k noRes (BitVec.ofNat 32 (encUnit u))⟩ mspillBody s)
def execMfill (k : KForm) (u : MxUnit) (wi : Bool) (s : State) : Host.Outcome State Fault Refusal :=
  .next (runSlot ⟨.mfill, .k k noRes (BitVec.ofNat 32 (encUnit u + 4 * encBool wi))⟩ mfillBody s)

end Sys2Proof.Machine
end

