-- ==== Sys2Proof/Machine/Weights.lean ====
section
/-! DEFINITION. The weight path (R212 to R238): WCFG, WTABLE, WLOAD, WLOADA, WSWAP, WEXP, WSTAT, the forms of a tile, and the fill. -/
namespace Sys2Proof.Machine

/-! Reading a stream. -/
/-- Why a read or a decode stops: a fault with its TADDR, a malformed stream (R237), far lines or a row lock to wait for. -/
inductive Stop where
  | fault (cause tinfo : Nat) (addr : Word)
  | malformed (sub elem : Nat)
  | far (lines : List Nat)
  | walk (pages : List Nat)
  | held
  deriving DecidableEq, Repr
/-- Who reads, and from which state. -/
structure Reader where
  st : State
  range : RangeReader
def Reader.bytes (r : Reader) (a : Word) (n : Nat) : Except Stop (List Byte) :=
  if bitsAt a 56 8 ≠ 0 then .error (.fault cNONCANON 0 a)
  else match r.st.peek r.range a n with
    | .ok l => .ok l
    | .fault c i w => .error (.fault c i w)
    | .far l => .error (.far l)
    | .walk l => .error (.walk l)
    | .held => .error .held
def Reader.aligned (r : Reader) (a : Word) (n align : Nat) : Except Stop (List Byte) :=
  if bitsAt a 56 8 ≠ 0 then .error (.fault cNONCANON 0 a)
  else if a.toNat % align ≠ 0 then .error (.fault cALIGN 0 a)
  else r.bytes a n
def addW (a : Word) (n : Nat) : Word := a + BitVec.ofNat 64 n

/-! rANS (R223, R224). -/
/-- The symbol of a slot with its frequency and its C (R218). -/
def symOf : List Nat → Nat → Nat → Nat → Nat × Nat × Nat
  | [], _, _, _ => (0, 0, 0)
  | f :: r, s, c, slot => if c ≤ slot && slot < c + f then (s, f, c) else symOf r (s + 1) (c + f) slot
structure Rans where
  xs : List Nat
  p : Nat
  codes : List Nat
/-- One decoder's step. -/
def ransStep (rd : Reader) (seg : Word) (F : List Nat) (L : Nat) (tern : Bool) (n x p : Nat) : Except Stop (Nat × Nat × Nat) :=
  let slot := x % 4096
  let y := symOf F 0 0 slot
  let x' := y.2.1 * (x / 4096) + slot - y.2.2
  if tern && y.1 = 3 then .error (.malformed 6 n)
  else if x' < 65536 then
    (if L < p + 2 then .error (.malformed 3 0)
     else match rd.bytes (addW seg p) 2 with
       | .ok u => .ok (y.1, x' * 65536 + leNat u, p + 2)
       | .error e => .error e)
  else .ok (y.1, x', p)
/-- A round: the decoders in index order; `n` is the number of the next code, Q codes in all. -/
def ransRound (rd : Reader) (seg : Word) (F : List Nat) (L : Nat) (tern : Bool) (Q : Nat) : Nat → List Nat → Nat → Except Stop Rans
  | _, [], p => .ok ⟨[], p, []⟩
  | n, x :: r, p =>
    if n < Q then
      match ransStep rd seg F L tern n x p with
      | .error e => .error e
      | .ok y => match ransRound rd seg F L tern Q (n + 1) r y.2.2 with
        | .error e => .error e
        | .ok z => .ok ⟨y.2.1 :: z.xs, z.p, y.1 :: z.codes⟩
    else .ok ⟨x :: r, p, []⟩
def ransRounds (rd : Reader) (seg : Word) (F : List Nat) (L : Nat) (tern : Bool) (Q : Nat) : Nat → Nat → List Nat → Nat → Except Stop Rans
  | 0, _, xs, p => .ok ⟨xs, p, []⟩
  | k + 1, n, xs, p =>
    match ransRound rd seg F L tern Q n xs p with
    | .error e => .error e
    | .ok y => match ransRounds rd seg F L tern Q k (n + 128) y.xs y.p with
      | .error e => .error e
      | .ok z => .ok ⟨z.xs, z.p, y.codes ++ z.codes⟩
/-- A segment's codes and its length read (R223, R224): `idx` is the index byte expected, Q the symbols. -/
def ransSegment (rd : Reader) (cfg : BitVec 16) (F : List Nat) (seg : Word) (idx Q : Nat) : Except Stop (List Nat × Nat) :=
  match rd.aligned seg 8 8 with
  | .error e => .error e
  | .ok h =>
    let byte (i : Nat) : Nat := (h[i]?.getD 0).toNat
    let L := leNat (h.drop 4)
    if byte 0 ≠ 0xD0 || byte 1 ≠ 0xFF then .error (.malformed 1 0)
    else if byte 2 ≠ idx then .error (.malformed 2 0)
    else if byte 3 ≠ cfg.toNat % 256 then .error (.malformed 8 0)
    else if L % 2 = 1 || L < 520 then .error (.malformed 3 0)
    else match rd.bytes seg 520 with
      | .error e => .error e
      | .ok b =>
        match ransRounds rd seg F L (cfgExp cfg == 1) Q ((Q + 127) / 128) 0 (wordsOf 4 (b.drop 8)) 520 with
        | .error e => .error e
        | .ok r =>
          if r.xs.any (fun x => x != 65536) then .error (.malformed 4 0)
          else if r.p ≠ L then .error (.malformed 5 0)
          else .ok (r.codes, r.p)
/-- Codes of a packed stream (R221): n codes of width b whose first bit is the first bit of the bytes. -/
def packedCodes (bytes : List Byte) (b n : Nat) : List Nat := let v := leNat bytes; (List.range n).map (fun i => v / 2 ^ (b * i) % 2 ^ b)
/-- The bytes of a packed stream in pieces of a line, each searched for the ternary code 0b11 before the next is read (R237); `k` codes stand
before the piece. -/
def packedBytes (rd : Reader) (tern : Bool) (n : Nat) : Nat → Word → Nat → Nat → Except Stop (List Byte)
  | 0, _, _, _ => .ok []
  | fuel + 1, a, len, k =>
    if len = 0 then .ok []
    else
      let m := Nat.min len (128 - a.toNat % 128)
      match rd.bytes a m with
      | .error e => .error e
      | .ok l =>
        match (if tern then (packedCodes l 2 (Nat.min (4 * m) (n - k))).findIdx? (· == 3) else none) with
        | some i => .error (.malformed 6 (k + i))
        | none => (packedBytes rd tern n fuel (addW a m) (len - m) (k + 4 * m)).map (fun r => l ++ r)
def packedSegment (rd : Reader) (cfg : BitVec 16) (a : Word) (n : Nat) : Except Stop (List Nat) :=
  let b := codeWidth cfg
  let len := (n * b + 7) / 8
  (packedBytes rd (cfgExp cfg == 1) n (len / 128 + 2) a len 0).map (fun l => packedCodes l b n)

/-! Expansion (R220, R227). -/
def codeInt (cfg : BitVec 16) (q : Nat) : Int :=
  match cfgExp cfg with
  | 1 => if q = 2 then -1 else q
  | 2 => if q < 4 then q else (q : Int) - 8
  | _ => if q < 8 then q else (q : Int) - 16
def entryHalf (e : List Byte) (i : Nat) : Nat := leNat ((e.drop (2 * i)).take 2)
/-- The weight of code q at row (or element of a block) k under an entry. -/
def codeWeight (cfg : BitVec 16) (e : List Byte) (k q : Nat) : Nat :=
  if 4 ≤ cfgExp cfg then entryHalf e q else scaleCode (codeInt cfg q) (entryHalf e (k / groupK cfg))
def partsLen (cfg : BitVec 16) : Nat := tableLen cfg + scaleLen cfg + (if cfgSp cfg then 16 else 0)
def presentN (cfg : BitVec 16) : Nat := if cfgSp cfg then 8 * 2 ^ cfgNc cfg else 64
def bitsSet (n : Nat) : List Nat := (List.range 64).filter (fun i => n / 2 ^ i % 2 == 1)
/-- One column of a segment: its weights by row of the segment. Of the two bitmaps of an entry that of this segment alone is checked: R228 and R237 do not
say when the other is (DESIGN CHOICE, log entry 63). -/
def columnCells (cfg : BitVec 16) (seg c : Nat) (e : List Byte) (codes : List Nat) : Except Stop (List (Nat × BitVec 16)) :=
  let present := if cfgSp cfg then bitsSet (leNat ((e.drop (tableLen cfg + scaleLen cfg + 8 * seg)).take 8)) else List.range 64
  if present.length ≠ presentN cfg then .error (.malformed 7 0)
  else
    let put := present.zipIdx.map (fun p => (p.1, codeWeight cfg e (64 * seg + p.1) (codes[256 * p.2 + c]?.getD 0)))
    .ok ((List.range 64).map (fun i => ((64 * seg + i) * 256 + c, BitVec.ofNat 16 (((put.find? (fun p => p.1 == i)).map (·.2)).getD 0))))
/-- The columns in ascending order, up to the first whose entry fails: the cells formed, and what stopped them. -/
def expandColumns (rd : Reader) (f : Fill) (seg : Nat) (codes : List Nat) : List Nat → List (Nat × BitVec 16) × Option Stop
  | [] => ([], none)
  | c :: r =>
    match rd.bytes (addW f.base (c * entrySize f.cfg)) (partsLen f.cfg) with
    | .error e => ([], some e)
    | .ok e => match columnCells f.cfg seg c e codes with
      | .error e => ([], some e)
      | .ok cells => let y := expandColumns rd f seg codes r; (cells ++ y.1, y.2)

/-! The fill (R228 to R231). -/
/-- The start of a segment: SEG0 and SEG0 + OFF1 for RANS (R225), the halves otherwise (R221, R222). -/
def segmentStart (rd : Reader) (f : Fill) (seg : Nat) : Except Stop Word :=
  match cfgWfmt f.cfg with
  | 2 =>
    match (if seg = 1 then f.start1 else none) with
    | some a => .ok a
    | none => (match rd.bytes f.addr 16 with
     | .error e => .error e
     | .ok b => if leNat (b.drop 12) ≠ 0 then .error (.malformed 9 0)
       else .ok (addW (BitVec.ofNat 64 (leNat (b.take 8))) (if seg = 0 then 0 else leNat ((b.drop 8).take 4))))
  | 1 => .ok (addW f.addr (seg * (256 * presentN f.cfg * codeWidth f.cfg / 8)))
  | _ => .ok (addW f.addr (32768 * seg))
/-- How a segment ends; whether the expander had come to its columns when it failed (R228). -/
inductive SegmentEnd where
  | written (cells : List (Nat × BitVec 16)) (touched : List (Word × Nat))
  | short
  | failed (cells : List (Nat × BitVec 16)) (start : Word) (e : Stop) (expands : Bool)
  deriving DecidableEq, Repr
def isXlate : Stop → Bool
  | .fault c _ _ => c == cXLATE
  | _ => false
/-- The lines of a RAWBF16 half read before the one that fails: their weights by cell (R229). -/
def rawBefore (rd : Reader) (seg : Nat) (start : Word) : Nat → Nat → List (Nat × BitVec 16)
  | 0, _ => []
  | n + 1, l =>
    match rd.bytes (addW start (128 * l)) 128 with
    | .error _ => []
    | .ok b => ((wordsOf 2 b).zipIdx.map (fun e => (64 * seg * 256 + 64 * l + e.2, BitVec.ofNat 16 e.1))) ++ rawBefore rd seg start n (l + 1)
def rawCells (seg : Nat) (b : List Byte) : List (Nat × BitVec 16) := (wordsOf 2 b).zipIdx.map (fun e => (64 * seg * 256 + e.2, BitVec.ofNat 16 e.1))
/-- The stream part of a segment: its codes and bytes read, or for RAWBF16 its cells. -/
def segmentCodes (rd : Reader) (f : Fill) (seg : Nat) (start : Word) : Except Stop (List Nat × Nat) :=
  let Q := 256 * presentN f.cfg
  match cfgWfmt f.cfg with
  | 2 => ransSegment rd f.cfg f.ftab start seg Q
  | _ => (packedSegment rd f.cfg start Q).map (fun c => (c, Q * codeWidth f.cfg / 8))
def runSegment (rd : Reader) (f : Fill) (seg : Nat) : SegmentEnd :=
  match segmentStart rd f seg with
  | .error e => .failed [] f.addr e false
  | .ok start =>
    if cfgWfmt f.cfg = 0 then
      (match rd.bytes start 32768 with
       | .error e => if f.ff && seg = 1 && isXlate e then .short else .failed (rawBefore rd seg start 256 0) start e false
       | .ok b => .written (rawCells seg b) [(start, 32768)])
    else match segmentCodes rd f seg start with
      | .error e => if f.ff && seg = 1 && isXlate e then .short else .failed [] start e false
      | .ok y =>
        let z := expandColumns rd f seg y.1 (List.range 256)
        match z.2 with
        | some e => .failed z.1 start e true
        | none => .written z.1 ([(start, y.2), (f.base, 256 * entrySize f.cfg)] ++ (if cfgWfmt f.cfg = 2 then [(f.addr, 16)] else []))
def putCells (p : NMap (BitVec 16)) (l : List (Nat × BitVec 16)) : NMap (BitVec 16) := l.foldl (fun a c => mset 0 a c.1 c.2) p
/-- The fault record of a failed fill (R215). -/
def stopRecord (seg : Nat) (start : Word) : Stop → FaultRec
  | .fault c i a => ⟨c, 0, a, seg, BitVec.ofNat 64 i⟩
  | .malformed sub _ => ⟨cWMALFORM, 0, start, seg, BitVec.ofNat 64 sub⟩
  | _ => ⟨0, 0, 0, seg, 0⟩
def MxState.endsIdle (m : MxState) (rows : Nat) : MxState :=
  { m with backSt := .idle, done := 2, active := false, rows := rows, fill := none, failRec := none }
/-- A failing segment: each cell this fill expanded in it holds the new weight or the old, a free choice (R229). -/
def MxState.fails (m : MxState) (seed seg : Nat) (cells : List (Nat × BitVec 16)) (r : FaultRec) : MxState :=
  { m with back := putCells m.back (cells.filter (fun c => Config.fillElementNew seed c.1)), backSt := .failed, done := seg, failRec := some r }
/-- The table of a snapshot: none loaded under RANS, or a nonzero frequency at or above 2^b where the configuration has codes of a width b
(R229, R238). -/
def tableBad (cfg : BitVec 16) (F : Option (List Nat)) : Nat :=
  if cfgWfmt cfg = 0 then 0
  else match F with
    | none => if cfgWfmt cfg = 2 then 3 else 0
    | some l => if (l.drop (2 ^ codeWidth cfg)).any (· != 0) then 4 else 0
def optTable (l : List Nat) : Option (List Nat) := if l.isEmpty then none else some l
/-- The state of a tile's claim once a fill has run on, what it read, and whether the expander took columns that may have waited for the flume; or what
it waits for. -/
inductive FillEnd where
  | ended (m : MxState) (touched : List (Word × Nat)) (expands : Bool)
  | far (lines : List Nat)
  | walk (pages : List Nat)
  | waits
  deriving DecidableEq, Repr
/-- The segment that WPROG does not record as done is run (R228): the fill is FILLING still after segment 0, and ends with segment 1. -/
def runHalf (rd : Reader) (f : Fill) (seed : Nat) (m : MxState) : FillEnd :=
  let seg := m.done
  let flume := cfgWfmt f.cfg != 0
  match runSegment rd f seg with
  | .written cells t =>
    let m' := { m with back := putCells m.back cells, done := seg + 1,
                       fill := some { f with start1 := (match segmentStart rd f 1 with | .ok a => some a | _ => none) } }
    .ended (if seg = 0 then m' else m'.endsIdle 128) t flume
  | .short => .ended ({ m with back := m.back.filter (fun c => c.1 < 64 * 256) }.endsIdle 64) [] false
  | .failed cells start e expands => match e with
    | .far l => .far l
    | .walk l => .walk l
    | .held => .waits
    | e => .ended (m.fails seed seg cells (stopRecord seg start e)) [] expands
def runFill (rd : Reader) (f : Fill) (seed : Nat) (m : MxState) : FillEnd :=
  if f.wla then .ended ({ m with back := putCells [] ((f.plane.zipIdx.map (fun (e : BitVec 16 × Nat) => (e.2, e.1)))) }.endsIdle 128) [] false
  else if tableBad f.cfg (optTable f.ftab) ≠ 0 then .ended (m.fails seed m.done [] ⟨cWSTATE, 0, f.addr, 0, 5⟩) [] false
  else runHalf rd f seed m
/-- Acceptance (R212, R213, R229): the fill is recorded, FILLING, with an older one discarded. While a WLOADA is recorded WPROG.ADDR, of which R232 speaks
for WLOAD alone, is 0 (DESIGN CHOICE, log entry 63). -/
def MxState.accept (m : MxState) (f : Fill) : MxState :=
  { m with fill := some f, backSt := .filling, done := 0, active := true, progFF := f.ff, progWla := f.wla,
           progAddr := if f.wla then 0 else f.addr.setWidth 56, failRec := none }

/-! WCFG, WTABLE. -/
/-- An invalid configuration word (R216, R217). -/
def cfgBad (a : Word) : Bool :=
  let c : BitVec 16 := a.setWidth 16
  bitsAt a 13 51 ≠ 0 || 3 ≤ cfgWfmt c || 6 ≤ cfgExp c || cfgGs c = 3 || cfgNc c = 3 ||
    (cfgWfmt c = 0 && (cfgExp c ≠ 0 || cfgSp c)) || (cfgWfmt c ≠ 0 && cfgExp c = 0)
/-- A global, aligned pointer (R201, R216, R218, R226). -/
def Firing.streamPtr (x : Firing) (a : Word) (align : Nat) (go : Fired) : Fired :=
  if bitsAt a 56 8 ≠ 0 then x.failAt cNONCANON 0 a else if a.toNat % align ≠ 0 then x.failAt cALIGN 0 a else go
def wcfgBody (x : Firing) : Fired :=
  x.matrix (x.whole {} (x.streamPtr x.b.word 16 (
    if cfgBad x.a.word then x.failInfo cWSTATE 2 else x.mxEffect (.config (x.a.word.setWidth 16) x.b.word))))
def wtableBody (x : Firing) : Fired :=
  x.matrix (x.whole {} (x.streamPtr x.a.word 64 (
    x.reads x.a.word 64 (x.bound none) (fun l =>
      let F := wordsOf 2 l
      let sum := F.foldl (· + ·) 0
      if sum ≠ 4096 then x.failInfo cWTABLE sum
      else (x.mxEffect (.table F)).served x x.a.word 64 (x.bound none)))))

/-! WLOAD, WLOADA, WSWAP, WSTAT. -/
def streamAlign (c : BitVec 16) : Nat := match cfgWfmt c with | 2 => 16 | 1 => 4 | _ => 64
def wloadBody (x : Firing) : Fired :=
  x.matrix (x.whole {} (
    let m := x.view
    match x.badWitness 2 x.c.word with
    | some f => .fault x.st f
    | none => x.streamPtr x.a.word (streamAlign m.cfg) (
      if tableBad m.cfg m.ftab ≠ 0 then x.failInfo cWSTATE (tableBad m.cfg m.ftab)
      else x.mxEffect (.wload ⟨x.a.word, m.cfg, m.ftab.getD [], m.fp, x.raw.w2.getLsbD 0, x.bound (x.timeOf x.c.word), x.thread.asid,
        x.thread.supervisor, false, 0, [], (match x.c with | .scalar w => w | _ => satisfied), none⟩))))
/-- Accumulator rows rounded to a plane (R213). -/
def roundPlane (m : MxState) (row : Nat) : List (BitVec 16) :=
  (List.range 128).flatMap (fun k => (List.range 256).map (fun c =>
    BitVec.ofNat 16 (convert fp32 127 bf16 127 .rne false (accAt m.acc (row + k) c)).1))
def wloadaBody (x : Firing) : Fired :=
  x.matrix (x.whole {} (
    let row := Raw.arow x.raw
    if 384 < row then x.failInfo cACCRANGE 512
    else x.mxEffect (.wloada ⟨0, 0, [], 0, false, 0, x.thread.asid, x.thread.supervisor, true, row, roundPlane x.view row, satisfied, none⟩)))
/-- A recorded fill restarts (R215). -/
def State.retryFill (s : State) (tile : Nat) : State :=
  let t := s.tile tile
  s.setTile tile { t with mx := { t.mx with backSt := .filling, failRec := none } }
def State.reportFill (s : State) (tile : Nat) : State :=
  let t := s.tile tile
  s.setTile tile { t with mx := { t.mx with backSt := .stopped } }
/-- A WLOAD or WLOADA of the block has a lower MSID (R214). -/
def Firing.loadBelow (x : Firing) : Bool :=
  !(x.block.slotsOf (fun r => (r.op = .wload || r.op = .wloada) && msidNo r < msidNo x.raw)).isEmpty
def wswapBody (x : Firing) : Fired :=
  x.matrix (x.whole {} (
    if x.loadBelow then x.failInfo cWSTATE 1
    else match x.view.backSt with
      | .filling => .wait
      | .idle => x.mxEffect .swap
      | .failed =>
        if x.oldest then (match (x.st.tile x.tile).mx.failRec with
          | some r => .fault (x.st.reportFill x.tile) { r with slot := slotW x.slot }
          | none => .wait) else .wait
      | .stopped => if x.oldest then .stall (x.st.retryFill x.tile) else .wait))
def wstatBody (x : Firing) : Fired :=
  x.matrix (x.whole (Out.tok .null) (
    if x.raw.w2.getLsbD 0 && x.view.backSt = .filling then .wait else .give x.st (Out.tok (.scalar x.view.wstat))))

/-! WEXP (R236). -/
/-- A read or decode of WEXP that stops: of WMALFORM the rule sets TELEM and TINFO alone. -/
def Firing.stopped (x : Firing) (e : Stop) : Fired :=
  match e with
  | .fault c i a => x.failRead c i a a
  | .malformed sub elem => .fault x.st (mkFault cWMALFORM x.slot sub 0 (if sub = 6 then elem else 0))
  | .far l => .stall (l.foldl (fun s k => s.askFar x.tile x.thread.asid.toNat k (x.bound none)) x.st)
  | .walk l => .stall (x.st.askPages x.tile x.thread.asid l)
  | .held => .wait
/-- The block is the oldest and none of the thread's requests is outstanding: what a decode of the stream meets now is what it is. -/
def Firing.settled (x : Firing) : Bool :=
  x.oldest && (x.st.ownStores x.tid).isEmpty && (x.st.ownTrains x.tid).isEmpty
/-- The entries of the blocks in ascending order. -/
def readEntries (rd : Reader) (cfg : BitVec 16) (fp : Word) : List Nat → Except Stop (List (List Byte))
  | [] => .ok []
  | r :: rest => match rd.bytes (addW fp (r * entrySize cfg)) (partsLen cfg) with
    | .error e => .error e
    | .ok b => (readEntries rd cfg fp rest).map (fun l => b :: l)
/-- Stream bytes that the first 128 of n codes need, of a stream of `len` bytes (R224, R349). -/
def firstBytes (rd : Reader) (cfg : BitVec 16) (F : List Nat) (a : Word) (n len : Nat) : Nat :=
  if n ≤ 128 then len
  else if cfgWfmt cfg = 2 then
    (match rd.bytes a 520 with
     | .error _ => len
     | .ok b => match ransRound rd a F len (cfgExp cfg == 1) n 0 (wordsOf 4 (b.drop 8)) 520 with
       | .ok r => r.p
       | .error _ => len)
  else 16 * codeWidth cfg
/-- The expander over blocks whose entries arrive in the given cycles, the first of them decoded in cycle d, the block before finished in cycle p: the
cycles it stalls, and the cycle in which it finishes (R349). -/
def expandBlocks : List Nat → Nat → Nat → Nat × Nat
  | [], _, p => (0, p)
  | e :: r, d, p =>
    let reach := Nat.max (d + 1) (p + 1)
    let fin := Nat.max reach e
    let y := expandBlocks r (d + 1) fin
    (fin - reach + y.1, y.2)
def allSome : List (Option Nat) → Option (List Nat)
  | [] => some []
  | none :: _ => none
  | some n :: r => (allSome r).map (fun l => n :: l)
/-- The stall of a WEXP that reads `len` stream bytes and the entries of `blocks` blocks (R349). -/
def Firing.expandStall (x : Firing) (rd : Reader) (len blocks : Nat) : Option (Nat × Nat) :=
  let m := x.view
  let b := x.thread.floor
  match x.st.rangeCycles x.who x.a.word (firstBytes rd m.cfg (m.ftab.getD []) x.a.word x.vl len) b,
    allSome ((List.range blocks).map (fun r => x.st.rangeCycles x.who (addW m.fp (r * entrySize m.cfg)) (partsLen m.cfg) b)) with
  | some d, some l => some (expandBlocks (l.map (· + x.st.cycle)) (x.st.cycle + d) m.expander)
  | _, _ => none
/-- The stall as the view's effect: a free value where the spec gives no latency for a line. -/
def Firing.stallEffect (x : Firing) : Option (Nat × Nat) → MxEffect
  | some y => .stalled y.1 y.2
  | none => .stalled (Config.fillStall x.st.fresh) x.view.expander
def Firing.streamReader (x : Firing) : Reader := ⟨x.st, { x.reader x.thread.floor with l1 := true }⟩
def wexpBody (x : Firing) : Fired :=
  x.matrix (x.needLanes (x.vector [] [16] x.nulls (
    let m := x.view
    let n := x.vl
    let blocks := (n + 127) / 128
    let b := x.thread.floor
    let tag := plainTag 11
    let rans := cfgWfmt m.cfg = 2
    let size := blocks * entrySize m.cfg
    let mx (e : MxEffect) : Effect := .mx (msidNo x.raw) e
    x.streamPtr x.a.word (if rans then 8 else if cfgWfmt m.cfg = 1 then 4 else 1) (
      if cfgWfmt m.cfg = 0 || cfgSp m.cfg then x.failInfo cWSTATE 3
      else if tableBad m.cfg m.ftab ≠ 0 then x.failInfo cWSTATE (tableBad m.cfg m.ftab)
      else if m.backSt = .filling then .wait
      else if n = 0 then .give x.st { main := some (.vector tag [] [] []), effs := [mx (.fp m.fp)] }
      else if !x.st.underCeiling b then .wait
      else
        let rd := x.streamReader
        match (if rans then ransSegment rd m.cfg (m.ftab.getD []) x.a.word 0 n
               else (packedSegment rd m.cfg x.a.word n).map (fun c => (c, (n * codeWidth m.cfg + 7) / 8))) with
        | .error e => if x.settled then x.stopped e else .wait
        | .ok y => match readEntries rd m.cfg m.fp (List.range blocks) with
          | .error e => if x.settled then x.stopped e else .wait
          | .ok es =>
            if x.readHeld x.a.word y.2 b || x.readHeld m.fp size b then .wait
            else
              let els := y.1.zipIdx.map (fun q => if x.p.on q.2
                then some (BitVec.ofNat 64 (codeWeight m.cfg (es[q.2 / 128]?.getD []) (q.2 % 128) q.1)) else none)
              .give (x.loadAt (x.loadAt x.st.tick.2 x.a.word y.2 b) m.fp size b)
                { main := some (.vector tag els [] []), effs := [mx (.fp (addW m.fp size)), mx (x.stallEffect (x.expandStall rd y.2 blocks))] }))))

/-! The instructions. -/
def execWcfg (k : KForm) (s : State) : Host.Outcome State Fault Refusal := .next (runSlot ⟨.wcfg, .k k noRes 0⟩ wcfgBody s)
def execWtable (k : KForm) (s : State) : Host.Outcome State Fault Refusal := .next (runSlot ⟨.wtable, .k k noRes 0⟩ wtableBody s)
def execWload (k : KForm) (ff : Bool) (s : State) : Host.Outcome State Fault Refusal :=
  .next (runSlot ⟨.wload, .k k noRes (BitVec.ofNat 32 (encBool ff))⟩ wloadBody s)
def execWloada (k : KForm) (arow : BitVec 9) (s : State) : Host.Outcome State Fault Refusal :=
  .next (runSlot ⟨.wloada, .k k noRes (arow.setWidth 32)⟩ wloadaBody s)
def execWswap (k : KForm) (s : State) : Host.Outcome State Fault Refusal := .next (runSlot ⟨.wswap, .k k noRes 0⟩ wswapBody s)
def execWexp (k : KForm) (b : KRes) (s : State) : Host.Outcome State Fault Refusal := .next (runSlot ⟨.wexp, .k k b 0⟩ wexpBody s)
def execWstat (k : KForm) (b : KRes) (wait : Bool) (s : State) : Host.Outcome State Fault Refusal :=
  .next (runSlot ⟨.wstat, .k k b (BitVec.ofNat 32 (encBool wait))⟩ wstatBody s)

end Sys2Proof.Machine
end

