-- ==== Sys2Proof/Machine/FurrowImage.lean ====
section
/-! DEFINITION. Furrow images before they run (R91, R253, R254): the walk that checks an image, and the rows its words can reach. -/
namespace Sys2Proof.Machine

def qOp (w : Word32) : Nat := w.toNat % 16
def qS (w : Word32) : Nat := w.toNat / 16 % 1024
def qD (w : Word32) : Nat := w.toNat / 16384 % 1024
def qImm (w : Word32) : Nat := w.toNat / 16777216
/-- A row operand: a data row with k, I and the offset, or a special row by its code (R91). -/
inductive RowOp where
  | data (k : Nat) (loop : Bool) (off : Nat)
  | special (code : Nat)
  deriving DecidableEq, Repr
def rowOp (x : Nat) : RowOp := if 512 ≤ x then .data (x / 64 % 8) (x / 32 % 2 == 1) (x % 32) else .special (x % 16)
def rowReserved (x : Nat) : Bool := x < 512 && (x / 16 != 0 || 12 ≤ x)
/-- The steps of a word (R255). -/
def qSteps (w : Word32) : Nat := match qOp w with | 3 | 4 => 2 | 6 => 3 | 0 | 1 | 2 | 5 => 1 | _ => 0
/-- The words that read S, and those that write D. -/
def readsS (op : Nat) : Bool := op == 0 || op == 1 || op == 3 || op == 4 || op == 6
def writesD (op : Nat) : Bool := op == 0 || op == 3 || op == 4 || op == 5 || op == 6
/-- TINFO 2 of R254. -/
def qReserved (w : Word32) : Bool :=
  let s := qS w; let d := qD w; let m := qImm w
  match qOp w with
  | 0 | 1 | 3 | 4 => m != 0 || rowReserved s || rowReserved d
  | 2 => 4 ≤ m || s != 0 || d != 0
  | 5 => !(s == 0 || s == 32) || rowReserved d
  | 6 => rowReserved s || rowReserved d
  | 7 => d != 0 || (if m = 0 then 8 ≤ s else s != 0)
  | 8 | 10 | 11 => m != 0 || s != 0 || d != 0
  | 9 => 64 ≤ s || 2 ≤ d
  | _ => false
/-- TINFO 3 of R254. -/
def qForbidden (w : Word32) : Bool :=
  let op := qOp w
  match rowOp (qD w) with
  | .special c => (writesD op && 8 ≤ c && c ≤ 11) || (op == 1 && (c < 8 || 10 ≤ c)) || op == 6
  | .data .. => op == 1 || (op == 6 && qS w < 512)
/-- The offences of a word on its own (R254). -/
def qOffences (w : Word32) : List Nat :=
  (if 12 ≤ qOp w then [1] else []) ++ (if qReserved w then [2] else []) ++ (if qForbidden w then [3] else []) ++
  (if qOp w = 6 && 16 ≤ qImm w then [7] else [])
/-- The count of a QLOOP. -/
def qCount (pars : List Word32) (w : Word32) : Nat := if qImm w = 0 then (pars[qS w % 8]?.getD 0).toNat else qImm w
/-- The place after the QEND that matches a loop whose first body word is i. -/
def qEndOf (words : List Word32) : Nat → Nat → Nat → Option Nat
  | 0, _, _ => none
  | fuel + 1, i, depth =>
    match words[i]? with
    | none => none
    | some w =>
      if qOp w = 7 then qEndOf words fuel (i + 1) (depth + 1)
      else if qOp w = 8 then (if depth = 0 then some (i + 1) else qEndOf words fuel (i + 1) (depth - 1))
      else qEndOf words fuel (i + 1) depth

/-- Rows an operand can reach: k, the first offset, how many. -/
structure Reach where
  k : Nat
  off : Nat
  n : Nat
  deriving DecidableEq, Repr
/-- A loop of the walk: its first body word, its count, passes begun, the paths at the start of this pass. -/
structure QLoopAt where
  start : Nat
  count : Nat
  pass : Nat
  paths : Nat
  deriving DecidableEq, Repr
/-- The walk: the word, the paths that stand there by their steps since a safe point (bit k for k steps), the loops around it, the skips that end
further on with their paths, what has been found. -/
structure QWalk where
  i : Nat
  paths : Nat
  loops : List QLoopAt
  skips : List (Nat × Nat)
  offences : List (Nat × Nat)
  reads : List Reach
  writes : List Reach
  deriving DecidableEq, Repr
inductive QEnd where
  | more
  | done (w : QWalk)
  deriving DecidableEq, Repr
def QWalk.bad (q : QWalk) (t : Nat) : QWalk := { q with offences := if q.offences.contains (q.i, t) then q.offences else q.offences ++ [(q.i, t)] }
def QWalk.reach (q : QWalk) (x : Nat) : List Reach :=
  match rowOp x with
  | .data k l off => [⟨k, off, if l then (match q.loops with | p :: _ => p.count | [] => 1) else 1⟩]
  | .special _ => []
/-- The rows a word names. -/
def QWalk.name (q : QWalk) (w : Word32) : QWalk :=
  let op := qOp w
  { q with reads := if readsS op then (q.reach (qS w)).foldl (fun a r => if a.contains r then a else a ++ [r]) q.reads else q.reads,
           writes := if writesD op then (q.reach (qD w)).foldl (fun a r => if a.contains r then a else a ++ [r]) q.writes else q.writes }
/-- A QSKIP skips a QLOOP, QEND or QRET; none where words are missing to tell. -/
def skipBad (words : List Word32) (i c : Nat) : Option Bool :=
  if 512 ≤ i + c then some true
  else
    let l := (words.drop (i + 1)).take c
    if l.any (fun w => qOp w = 7 || qOp w = 8 || qOp w = 11) then some true
    else if l.length < c then none else some false
/-- The paths that stand at a word with k steps since their last safe point, as bit k; a path beyond 64 steps goes no further. -/
def pathsAfter (paths steps : Nat) : Nat := paths * 2 ^ steps % 2 ^ 65
/-- The step of a word takes some path beyond 64 steps. -/
def pathsBeyond (paths steps : Nat) : Bool := 2 ^ 65 ≤ paths * 2 ^ steps
/-- The walk of R254 over the words read so far: every QSKIP both ways, every loop at its count (a pass that leaves the paths as it found them
stands for those that follow; a loop too deeply nested is taken once). It ends at QRET, or where no path is left. -/
def qWalk (words : List Word32) (pars : List Word32) : Nat → QWalk → QEnd
  | 0, q => .done (q.bad 6)
  | fuel + 1, q =>
    match words[q.i]? with
    | none => if 512 ≤ q.i then .done (q.bad 6) else .more
    | some w =>
      let q := { q with paths := q.skips.foldl (fun (a : Nat) (e : Nat × Nat) => if e.1 = q.i then Nat.lor a e.2 else a) q.paths,
                        skips := q.skips.filter (fun e => e.1 != q.i) }
      let q := (qOffences w).foldl QWalk.bad q
      if q.paths = 0 && q.skips.isEmpty then .done q
      else match qOp w with
      | 7 =>
        let deep := 2 ≤ q.loops.length
        let q := if deep then q.bad 4 else q
        let n := if deep then 1 else qCount pars w
        if n = 0 then
          (match qEndOf words 512 (q.i + 1) 0 with
           | some j => qWalk words pars fuel { q with i := j }
           | none => if words.length < 512 then .more else .done ({ q with i := 512 }.bad 6))
        else qWalk words pars fuel { q with i := q.i + 1, loops := ⟨q.i + 1, n, 1, q.paths⟩ :: q.loops }
      | 8 =>
        (match q.loops with
         | [] => qWalk words pars fuel { q.bad 4 with i := q.i + 1 }
         | l :: rest =>
           if l.count ≤ l.pass || q.paths = l.paths then qWalk words pars fuel { q with i := q.i + 1, loops := rest }
           else qWalk words pars fuel { q with i := l.start, loops := { l with pass := l.pass + 1, paths := q.paths } :: rest })
      | 11 => .done (if q.loops.isEmpty then q else q.bad 4)
      | 9 =>
        (match skipBad words q.i (qS w % 32 + 1) with
         | none => .more
         | some true => qWalk words pars fuel { q.bad 4 with i := q.i + 1 }
         | some false => qWalk words pars fuel { q with i := q.i + 1, skips := q.skips ++ [(q.i + qS w % 32 + 2, q.paths)] })
      | 10 => qWalk words pars fuel { q with i := q.i + 1, paths := if q.paths = 0 then 0 else 1 }
      | _ =>
        let q := q.name w
        let q := if pathsBeyond q.paths (qSteps w) then q.bad 5 else q
        qWalk words pars fuel { q with i := q.i + 1, paths := pathsAfter q.paths (qSteps w) }
def qWalkStart : QWalk := ⟨0, 1, [], [], [], [], []⟩
def checkImage (words : List Word32) (pars : List Word32) : QEnd := qWalk words pars 16777216 qWalkStart
/-- The lowest-addressed offending word with its lowest offence. -/
def worstOffence (l : List (Nat × Nat)) : Option (Nat × Nat) :=
  l.foldl (fun a e => match a with
    | none => some e
    | some b => if e.1 < b.1 || (e.1 = b.1 && e.2 < b.2) then some e else some b) none

end Sys2Proof.Machine
end

