-- ==== Sys2Proof/Machine/Memory.lean ====
section
/-! DEFINITION. Loads, stores, scatters, atomics, MWAIT, CLAIMEL and PREF (R166 to R186, R191, R194, R195) as they fire. What a store-class
instruction does at commit stands in Commit.lean, at its home in Homes.lean. -/
namespace Sys2Proof.Machine

def szBytes (x : Firing) : Nat := 2 ^ x.raw.mword.sz.toNat

/-! Loads. -/
/-- LD (R177). -/
def ldBody (x : Firing) : Fired :=
  x.whole (Out.tok .null) (x.underC (fun w =>
    let b := x.bound w; let n := szBytes x; let m := x.raw.mword
    x.load false (fun _ => .scalar n m.sx m.rw) b m.fr true n [x.access .read true n n 0 x.base]))
/-- MWAIT (R191); B above 2^32 - 1 counts as 2^32 - 1. -/
def mwaitBody (x : Firing) : Fired :=
  x.whole (Out.tok .null) (x.underC (fun w =>
    let b := x.bound w; let n := szBytes x; let m := x.raw.mword
    x.load false (fun _ => .wait n m.sx m.rw (Nat.min x.b.word.toNat (2 ^ 32 - 1))) b true false n [x.access .read false n n 0 x.base]))
/-- A vector load of the elements at `addrs` (R179, R181), first-fault under `ff` (R180). -/
def Firing.vload (x : Firing) (ff : Bool) (addrs : List (Nat × EAddr)) : Fired :=
  x.underC (fun w =>
    let b := x.bound w; let m := x.raw.mword
    let tag : BitVec 16 := (x.raw.lit.getD 0).setWidth 16
    let n := tagWidth tag / 8
    x.load ff (fun count => .vector tag x.vl (count.isNone && m.rw) count) b m.fr true n (addrs.map (fun e => x.access .read true n n e.1 e.2)))
def Firing.loadWidth (x : Firing) : Nat := tagWidth ((x.raw.lit.getD 0).setWidth 16)
def Firing.accessed (x : Firing) : List Nat := (List.range x.vl).filter x.p.on
def vldBody (x : Firing) : Fired :=
  let k := x.loadWidth / 8
  x.vector [] [x.loadWidth] x.nulls (x.vload (x.raw.op = .vldff) (x.accessed.map (fun e => (e, x.base.move ((e * k : Nat) : Int)))))
def vldsBody (x : Firing) : Fired :=
  x.vector [] [x.loadWidth] x.nulls (x.vload x.raw.mword.ff (x.accessed.map (fun e => (e, x.base.move ((e : Int) * x.b.word.toInt)))))
def vldxBody (x : Firing) : Fired :=
  let k := x.loadWidth / 8
  x.vector [{ idx := 1, tok := x.b, ok := isInt, used := x.p.on }] [x.loadWidth] x.nulls
    (x.vload x.raw.mword.ff (x.accessed.filterMap (fun e => (x.b.vec.index e).map (fun i => (e, x.base.move (i * (k : Int)))))))
/-- PREF (R195): asks for a lease that covers FLOOR, where the access would pass its checks and the L1 has room. -/
def prefBody (x : Firing) : Fired :=
  x.whole {} (
    let b := x.thread.floor
    match x.base with
    | .inside p =>
      (match checkPtr x.st x.who .read true p 1 1 with
       | .ok l =>
         if l.route ≠ .cached || (readError x.st l.key 1).isSome || (x.st.l1Hit x.tile l b false).isSome ||
            64 ≤ (x.st.loads.filter (fun r => x.st.tileOf r.tid == x.tile)).length || x.st.ownBlocks x.tid true [lineOf l.key] then .give x.st {}
         else .give (x.queueLoads (.scalar 1 false false) b false [⟨0, l.key, 1, p.encode, [], .cached, l.compress, none⟩]) {}
       | .miss va => .stall (x.st.askPages x.tile x.thread.asid [va])
       | .fault .. => .give x.st {})
    | _ => .give x.st {})

/-! Stores. -/
/-- A store that writes nothing delivers the satisfied witness (R23). -/
def storesNothing : Out := Out.tok (.scalar satisfied)
def Firing.promise (x : Firing) (e : Effect) : Fired := .give x.st { main := some (.deferred x.slot 0), effs := [e] }
/-- ST (R178). -/
def stBody (x : Firing) : Fired :=
  x.whole storesNothing (x.underC (fun w =>
    let n := szBytes x
    x.swept [x.access .write true n n 0 x.base] (fun oks =>
      x.promise (.store (lsidNo x.raw) (oks.map (fun a => ⟨0, a.2.key, leBytes n x.b.word.toNat, a.2.route, a.2.compress⟩)) w))))
/-- One of the entries of each key: the last. -/
def lastOf {α : Type} (key : α → Nat) : List α → List α
  | [] => []
  | a :: r => if r.any (fun b => key b == key a) then lastOf key r else a :: lastOf key r
/-- Elements at one address under VSTX without ORD (R183): each takes the bytes of the one of them that remains, a free choice. -/
def settle (pick : Nat → Nat) (l : List StoreEl) : List StoreEl :=
  l.map (fun a =>
    let same := l.filter (fun b => b.key == a.key)
    { a with bytes := ((same[pick a.key % Nat.max same.length 1]?).map (·.bytes)).getD a.bytes })
/-- VST, VSTS, VSTX (R182, R183). -/
def vstBody (x : Firing) : Fired :=
  let w := x.b.vec.fmt.width
  let indexed := x.raw.op = .vstx
  let reqs : List Req := { idx := 1, tok := x.b, ok := isAny, scaled := x.raw.op = .vst, used := x.active } ::
    (if indexed then [{ idx := 2, tok := x.c, ok := isInt, used := x.active }] else [])
  x.vector reqs [] storesNothing (x.underC (fun wt =>
    let es := x.storeAddrs w x.active
    if es.isEmpty then .give x.st storesNothing
    else x.swept (es.map (fun e => x.access .write true (w / 8) (w / 8) e.1 e.2)) (fun oks =>
      let els := oks.map (fun a => (⟨a.1, a.2.key, leBytes (w / 8) ((x.b.vec.at a.1).getD 0).toNat, a.2.route, a.2.compress⟩ : StoreEl))
      if indexed && !x.raw.mword.ord then
        let t := x.st.tick
        .give t.2 { main := some (.deferred x.slot 0),
                    effs := [.store (lsidNo x.raw) (settle (fun k => Config.scatterWinner (t.1 + k)) els) wt] }
      else x.promise (.store (lsidNo x.raw) els wt))))
def vsaddOk (c : Nat) : Bool := c == 3 || c == 4 || c == 7 || c == 8 || c == 13 || c == 14
/-- The combining network of R185: the values of one address added in ascending element order, with the flags raised. -/
def combine (f : Fmt) : List Word → Word × Flags
  | [] => (0, 0)
  | v :: r => r.foldl (fun a b => let y := addEl false .rne f a.1 b; (y.1, a.2 ||| y.2)) (v, 0)
def vsaddBody (x : Firing) : Fired :=
  let f := x.b.vec.fmt; let w := f.width
  x.vector [{ idx := 1, tok := x.b, ok := vsaddOk, used := x.active }, { idx := 2, tok := x.c, ok := isInt, used := x.active }] [] storesNothing (
    let es := x.storeAddrs w x.active
    if es.isEmpty then .give x.st storesNothing
    else x.swept (es.map (fun e => x.access .rmw false (w / 8) (w / 8) e.1 e.2)) (fun oks =>
      let groups := (lastOf (fun (a : Nat × Loc) => a.2.key) oks).map (fun a =>
        (a.2, combine f ((oks.filter (fun b => b.2.key == a.2.key)).map (fun b => (x.b.vec.at b.1).getD 0))))
      .give x.st { main := some (.deferred x.slot 0),
                   effs := [.adds (lsidNo x.raw) (groups.map (fun g => ⟨x.b.vec.code, 0, g.1.key, g.2.1, g.1.route, g.1.compress⟩))],
                   flags := groups.foldl (fun a g => a ||| g.2.2) 0 }))

/-! Atomics and CLAIMEL. -/
/-- What an atomic or CLAIMEL that performs nothing delivers (R23). -/
def Firing.noOld (x : Firing) : Out := { main := some .null, alt := if x.raw.mword.rw then some (.scalar satisfied) else none }
def Firing.promises (x : Firing) (e : Effect) : Fired :=
  .give x.st { main := some (.deferred x.slot 0), alt := if x.raw.mword.rw then some (.deferred x.slot 1) else none, effs := [e] }
/-- An atomic (R186). -/
def Firing.atomic (x : Firing) (op : AtomicOp) : Fired :=
  x.whole x.noOld (x.underC (fun w =>
    let n := szBytes x
    x.swept [x.access .rmw false n n 0 x.base] (fun oks =>
      match oks with
      | (_, l) :: _ => x.promises (.atomic (lsidNo x.raw) op l.key n x.b.word x.c.word x.raw.mword.sx w l.route l.compress)
      | [] => .give x.st x.noOld)))
def aaddBody (x : Firing) : Fired := x.atomic .add
def aswapBody (x : Firing) : Fired := x.atomic .swap
def acasBody (x : Firing) : Fired := x.atomic .cas
def aminBody (x : Firing) : Fired := x.atomic .min
def amaxBody (x : Firing) : Fired := x.atomic .max
def aandBody (x : Firing) : Fired := x.atomic .and
def aorBody (x : Firing) : Fired := x.atomic .or
def axorBody (x : Firing) : Fired := x.atomic .xor
/-- CLAIMEL (R194): a 16-byte pair. -/
def claimelBody (x : Firing) : Fired :=
  x.whole x.noOld (
    x.swept [x.access .rmw false 16 16 0 x.base] (fun oks =>
      match oks with
      | (_, l) :: _ => x.promises (.claimel (lsidNo x.raw) l.key (8 * szBytes x) x.b.word l.route l.compress)
      | [] => .give x.st x.noOld))

/-! The instructions. -/
def execLd (b : BForm) (m : MWord) (s : State) : Host.Outcome State Fault Refusal := .next (runLoad ⟨.ld, .m b m none⟩ ldBody s)
def execSt (b : BForm) (m : MWord) (l : Option Word) (s : State) : Host.Outcome State Fault Refusal := .next (runSlot ⟨.st, .m b m l⟩ stBody s)
def execVld (b : BForm) (m : MWord) (tag : BitVec 16) (s : State) : Host.Outcome State Fault Refusal := .next (runLoad ⟨.vld, .m b m (some (tag.setWidth 64))⟩ vldBody s)
def execVlds (b : BForm) (m : MWord) (tag : BitVec 16) (s : State) : Host.Outcome State Fault Refusal := .next (runLoad ⟨.vlds, .m b m (some (tag.setWidth 64))⟩ vldsBody s)
def execVldx (b : BForm) (m : MWord) (tag : BitVec 16) (s : State) : Host.Outcome State Fault Refusal := .next (runLoad ⟨.vldx, .m b m (some (tag.setWidth 64))⟩ vldxBody s)
def execVldff (b : BForm) (m : MWord) (tag : BitVec 16) (s : State) : Host.Outcome State Fault Refusal := .next (runLoad ⟨.vldff, .m b m (some (tag.setWidth 64))⟩ vldBody s)
def execVst (b : BForm) (m : MWord) (s : State) : Host.Outcome State Fault Refusal := .next (runSlot ⟨.vst, .m b m none⟩ vstBody s)
def execVsts (b : BForm) (m : MWord) (s : State) : Host.Outcome State Fault Refusal := .next (runSlot ⟨.vsts, .m b m none⟩ vstBody s)
def execVstx (b : BForm) (m : MWord) (s : State) : Host.Outcome State Fault Refusal := .next (runSlot ⟨.vstx, .m b m none⟩ vstBody s)
def execVsadd (b : BForm) (m : MWord) (s : State) : Host.Outcome State Fault Refusal := .next (runSlot ⟨.vsadd, .m b m none⟩ vsaddBody s)
def execAadd (b : BForm) (m : MWord) (l : Option Word) (s : State) : Host.Outcome State Fault Refusal := .next (runSlot ⟨.aadd, .m b m l⟩ aaddBody s)
def execAswap (b : BForm) (m : MWord) (l : Option Word) (s : State) : Host.Outcome State Fault Refusal := .next (runSlot ⟨.aswap, .m b m l⟩ aswapBody s)
def execAcas (b : BForm) (m : MWord) (l : Option Word) (s : State) : Host.Outcome State Fault Refusal := .next (runSlot ⟨.acas, .m b m l⟩ acasBody s)
def execAmin (b : BForm) (m : MWord) (l : Option Word) (s : State) : Host.Outcome State Fault Refusal := .next (runSlot ⟨.amin, .m b m l⟩ aminBody s)
def execAmax (b : BForm) (m : MWord) (l : Option Word) (s : State) : Host.Outcome State Fault Refusal := .next (runSlot ⟨.amax, .m b m l⟩ amaxBody s)
def execAand (b : BForm) (m : MWord) (l : Option Word) (s : State) : Host.Outcome State Fault Refusal := .next (runSlot ⟨.aand, .m b m l⟩ aandBody s)
def execAor (b : BForm) (m : MWord) (l : Option Word) (s : State) : Host.Outcome State Fault Refusal := .next (runSlot ⟨.aor, .m b m l⟩ aorBody s)
def execAxor (b : BForm) (m : MWord) (l : Option Word) (s : State) : Host.Outcome State Fault Refusal := .next (runSlot ⟨.axor, .m b m l⟩ axorBody s)
def execMwait (b : BForm) (m : MWord) (l : Option Word) (s : State) : Host.Outcome State Fault Refusal := .next (runLoad ⟨.mwait, .m b m l⟩ mwaitBody s)
def execClaimel (b : BForm) (m : MWord) (l : Option Word) (s : State) : Host.Outcome State Fault Refusal := .next (runSlot ⟨.claimel, .m b m l⟩ claimelBody s)
def execPref (b : BForm) (m : MWord) (s : State) : Host.Outcome State Fault Refusal := .next (runSlot ⟨.pref, .m b m none⟩ prefBody s)

end Sys2Proof.Machine
end

