-- ==== Sys2Proof/Machine/Planes.lean ====
section
/-! DEFINITION. Bank planes (R239 to R263, R314 to R318): row locks, furrow launches, fences, status, the plane port. What a lock
request and a launch do once committed stands in Furrow.lean and Homes.lean. -/
namespace Sys2Proof.Machine

/-! Structures (R241). -/
/-- A structure of n bytes at an aligned global pointer, read as a load bounded by FLOOR. -/
def Firing.structAt (x : Firing) (a : Word) (align n : Nat) (go : List Byte → Fired) : Fired :=
  x.streamPtr a align (x.reads a n (x.bound none) (fun l => (go l).served x a n (x.bound none)) (some a))
def Firing.plbind (x : Firing) (info : Nat) : Fired := x.failInfo cPLBIND info
/-- A valid descriptor with its region (R314, R315). -/
def Firing.descAt (x : Firing) (a : Word) (go : Desc → Region' → Fired) : Fired :=
  x.structAt a 64 64 (fun l =>
    if descReserved l then x.plbind 4
    else match (descOf l).region x.st (clusterOfTile x.tile) with
      | none => x.plbind 1
      | some r => go (descOf l) r)

/-! Rows (R316). -/
/-- Set indices with the rows touched in each, ascending. -/
def rowPairs (idx rows : List Nat) : List (Nat × Nat) := idx.flatMap (fun i => rows.map (fun k => (i, k)))
/-- What a row's translation is asked for: that it be there (PUNLOCK), or the checks of a read or a written row. -/
inductive RowUse where
  | bare | read | write
  deriving DecidableEq, Repr
def checkRowLeaf (w : Who) (use : RowUse) (pa : Nat) (va : Word) (e : TlbEntry) : Option (Nat × Nat) :=
  let bit := fun k => bitsAt e.attrs k 1 = 1
  if use = .bare then none
  else if !w.supervisor && !bit 5 then some (cPERM, 3)
  else if !bit 9 || !bit 2 then some (cPERM, 0)
  else if use = .write && !bit 3 then some (cPERM, 1)
  else if e.pa' va.toNat ≠ pa then some (cPERM, 0)
  else none
/-- The fault of a row's translation; a missing one has the level in TINFO, as every walk's (R316, R379). -/
def State.checkRow (s : State) (w : Who) (use : RowUse) (pa : Nat) (va : Word) : Option (Nat × Nat) :=
  match s.translate w va.toNat with
  | .leaf e => checkRowLeaf w use pa va e
  | .fault i => some (cXLATE, i)
  | .held => none
/-- A row's translation waits for a walk (R381). -/
def State.rowWalkHeld (s : State) (w : Who) (va : Word) : Bool := s.translate w va.toNat == .held
/-- The pages of rows that are still to be walked. -/
def State.rowPages (s : State) (w : Who) (d : Desc) (r : Region') (rows : List ((Nat × Nat) × RowUse)) : List Nat :=
  ((rows.map (fun e => d.va r e.1.1 e.1.2)).filter (s.rowWalkHeld w)).map BitVec.toNat
/-- Where memory keeps a row's first byte. -/
def Firing.rowKey (x : Firing) (d : Desc) (r : Region') (e : Nat × Nat) : Nat := d.key x.st (clusterOfTile x.tile) r e.1 e.2
def rowElem (e : Nat × Nat) : Nat := e.1 * 65536 + e.2
def Firing.rowFault (x : Firing) (d : Desc) (r : Region') (use : RowUse) (e : Nat × Nat) : Option FaultRec :=
  (x.st.checkRow x.who use (d.pa r e.1 e.2) (d.va r e.1 e.2)).map
    (fun c => mkFault c.1 x.slot c.2 (d.va r e.1 e.2).toNat (rowElem e))
/-- The rows in their order, up to the first that does not translate as it must. -/
def Firing.rowsOk (x : Firing) (d : Desc) (r : Region') (rows : List ((Nat × Nat) × RowUse)) (go : Fired) : Fired :=
  if rows.any (fun e => x.st.rowWalkHeld x.who (d.va r e.1.1 e.1.2)) then .stall (x.st.askPages x.tile x.thread.asid (x.st.rowPages x.who d r rows))
  else match rows.findSome? (fun e => x.rowFault d r e.2 e.1) with
  | some f => .fault x.st f
  | none => go
/-- A party holds a row: in write mode, or in any. -/
def State.holdsRow (s : State) (cluster owner : Nat) (sub row : Nat) (write : Bool) : Bool :=
  (s.cluster cluster).locks.any (fun l => l.owner == owner && l.covers sub row && (l.write || !write))
/-- The lock check of R248 and R261: `writes` need a write lock, `reads` any. Where locks of several rows are missing, of which R248 does not say which is
reported, it is the first of `writes`, else of `reads`, by set index and row (DESIGN CHOICE, log entry 63). -/
def Firing.locksOk (x : Firing) (d : Desc) (addr : Word) (writes reads : List (Nat × Nat)) (go : Fired) : Fired :=
  match writes.find? (fun e => !x.st.holdsRow d.cluster x.party (d.sub e.1) e.2 true) with
  | some e => .fault x.st (mkFault cPLNOTLOCKED x.slot 0 addr.toNat (rowElem e))
  | none => match reads.find? (fun e => !x.st.holdsRow d.cluster x.party (d.sub e.1) e.2 false) with
    | some e => .fault x.st (mkFault cPLNOTLOCKED x.slot 1 addr.toNat (rowElem e))
    | none => go

/-! PLOCK and PUNLOCK (R243, R244, R246). -/
def rangeRow (w : Word) : Nat := bitsAt w 0 9
def rangeRows (w : Word) : Nat := bitsAt w 9 10
def rangeSub (w : Word) : Nat := bitsAt w 32 16
def rangeSubs (w : Word) : Nat := bitsAt w 48 16
def rangeBad (w : Word) : Bool := rangeRows w = 0 || 512 < rangeRows w || bitsAt w 19 13 ≠ 0 || rangeSubs w = 0
/-- The checks of R243. -/
def rangeInfo (d : Desc) (w : Word) : Option Nat :=
  if rangeBad w then some 4
  else if d.size < rangeSub w + rangeSubs w then some 2
  else if !d.inWindow (rangeRow w) (rangeRows w) then some 3
  else none
def rangeIdx (w : Word) : List Nat := (List.range (rangeSubs w)).map (· + rangeSub w)
def rangePairs (w : Word) : List (Nat × Nat) := rowPairs (rangeIdx w) ((List.range (rangeRows w)).map (· + rangeRow w))
def rangeRuns (d : Desc) (r : Region') (w : Word) : List RowRun := (rangeIdx w).map (fun i => ⟨d.sub i, rangeRow w, rangeRows w, d.pa r i 0⟩)
/-- A PLOCK of the party has not its result yet (R244). -/
def State.lockPending (s : State) (party : Nat) : Bool := s.clusters.any (fun e => e.2.lockReqs.any (fun q => q.lock.owner == party))
/-- The party's ranges not wholly released (R244). -/
def State.rangesHeld (s : State) (party : Nat) : Nat := (List.range 8).foldl (fun a c => a + ((s.cluster c).locks.filter (·.owner == party)).length) 0
def Firing.locksInBlock (x : Firing) : Nat := (x.block.effects.filter (fun e => match e.eff with | .plock .. => true | _ => false)).length
def Firing.lockRange (x : Firing) (go : Desc → Region' → Fired) : Fired :=
  x.descAt x.a.word (fun d r => match rangeInfo d x.b.word with
    | some i => x.plbind i
    | none => go d r)
def plockWr (x : Firing) : Bool := x.raw.w2.getLsbD 0
def plockTry (x : Firing) : Bool := x.raw.w2.getLsbD 1
/-- PLOCK; a row asked for under WR counts as a written row of R316 (DEDUCED, log entry 26). -/
def plockBody (x : Firing) : Fired :=
  x.whole (Out.tok .null) (if x.st.lockPending x.party then .wait else x.lockRange (fun d r =>
    if 16 < x.st.rangesHeld x.party + x.locksInBlock + 1 then x.plbind 6
    else x.rowsOk d r ((rangePairs x.b.word).map (fun e => (e, if plockWr x then RowUse.write else RowUse.read)))
      (x.deferring (.plock (rangeRuns d r x.b.word) (plockWr x) (plockTry x) d.cluster x.a.word x.b.word))))
def punlockBody (x : Firing) : Fired :=
  x.whole {} (x.lockRange (fun d r =>
    x.rowsOk d r ((rangePairs x.b.word).map (fun e => (e, RowUse.bare))) (x.effect (.punlock (rangeRuns d r x.b.word)))))

/-! PLAUNCH (R247, R248). -/
structure Binding where
  desc : Word
  sub : Nat
  nsub : Nat
  bases : List Nat
  pars : List Word32
  keep : Bool
  bad : Bool
  deriving DecidableEq, Repr
def bindingOf (l : List Byte) : Binding :=
  let bases := (List.range 8).map (fun k => fieldOf l (12 + 2 * k) 2)
  { desc := BitVec.ofNat 64 (fieldOf l 0 8), sub := fieldOf l 8 2, nsub := fieldOf l 10 2, bases := bases,
    pars := (List.range 8).map (fun k => BitVec.ofNat 32 (fieldOf l (28 + 4 * k) 4)), keep := fieldOf l 60 4 % 2 == 1,
    bad := bases.any (fun b => 512 ≤ b) || 2 ≤ fieldOf l 60 4 || fieldOf l 10 2 = 0 }
def Binding.base (b : Binding) (k : Nat) : Nat := b.bases[k]?.getD 0
def wordsFrom : Nat → List Byte → List Word32
  | 0, _ => []
  | n + 1, l => BitVec.ofNat 32 (leNat (l.take 4)) :: wordsFrom n (l.drop 4)
/-- Reads the image 64 bytes at a time, as far as the walk needs. -/
def Firing.imageAt (x : Firing) (a : Word) (pars : List Word32) (go : List Word32 → QWalk → Fired) : Nat → Nat → Fired
  | 0, _ => .wait
  | fuel + 1, n => x.structAt a 64 (64 * n) (fun l =>
      let ws := wordsFrom (16 * n) l
      match checkImage ws pars with
      | .more => x.imageAt a pars go fuel (n + 1)
      | .done q => match worstOffence q.offences with
        | some (i, t) => .fault x.st (mkFault cPLFURROW x.slot t (a + BitVec.ofNat 64 (4 * i)).toNat 0)
        | none => go ws q)
/-- The greatest wts of the lines of an image of n words at A (R248). -/
def Firing.imageWts (x : Firing) (n : Nat) : Option Time := joinTimes ((x.st.versionsOf x.who x.a.word (4 * n)).map (fun v => some v.2.2))
def reachOk (d : Desc) (b : Binding) (r : Reach) : Bool := d.inWindow (b.base r.k + r.off) r.n
def reachRows (b : Binding) (l : List Reach) : List Nat :=
  (List.range 512).filter (fun row => l.any (fun r => b.base r.k + r.off ≤ row && row < b.base r.k + r.off + r.n))
def plaunchBody (x : Firing) : Fired :=
  x.whole (Out.tok .null) (
    if x.st.lockPending x.party then .wait
    else x.structAt x.a.word 64 64 (fun _ => x.structAt x.b.word 64 64 (fun l =>
      let b := bindingOf l
      if b.bad then x.plbind 4
      else x.descAt b.desc (fun d r =>
        if d.size < b.sub + b.nsub then x.plbind 2
        else x.imageAt x.a.word b.pars (fun ws q =>
          if !(q.reads ++ q.writes).all (reachOk d b) then x.plbind 3
          else
            let idx := (List.range b.nsub).map (· + b.sub)
            let wr := reachRows b q.writes
            let rd := reachRows b q.reads
            let writes := rowPairs idx wr
            let reads := rowPairs idx (rd.filter (fun k => !wr.contains k))
            x.rowsOk d r (writes.map (fun e => (e, RowUse.write)) ++ reads.map (fun e => (e, RowUse.read)))
              (x.locksOk d x.b.word writes reads
                (x.deferring (.plaunch {
                  asid := x.thread.asid, region := x.thread.region, cluster := d.cluster,
                  image := x.a.word.toNat + x.thread.asid.toNat * 2 ^ 56, words := ws, bases := b.bases, pars := b.pars, keep := b.keep,
                  subs := idx.map (fun i => (d.sub i, x.rowKey d r (i, 0))), reads := rd, writes := wr, wts := x.imageWts ws.length,
                  floor := x.thread.floor })))) 32 1))))

/-! PFENCE and PSTAT (R249, R251, R252). -/
def handleSeq (w : Word) : Nat := bitsAt w 0 32
def handleCluster (w : Word) : Nat := bitsAt w 32 3
/-- The checks of R251. -/
def handleFault (x : Firing) (w : Word) : Option FaultRec :=
  if wKind w = 3 then some (mkFault cWRESV x.slot 0 0 0)
  else if wKind w = 1 then some (mkFault cWERR x.slot (bitsAt w 56 6) w.toNat 0)
  else if bitsAt w 35 29 ≠ 0 || (x.st.cluster (handleCluster w)).opSeq ≤ handleSeq w then some (mkFault cPLBIND x.slot 7 0 0)
  else none
/-- The retained op a handle names. -/
def State.opOf (s : State) (w : Word) : Option FieldOp := ((s.cluster (handleCluster w)).ops.reverse.find? (fun o => o.seq % 2 ^ 32 == handleSeq w))
def pfenceBody (x : Firing) : Fired :=
  x.whole (Out.tok .null) (match handleFault x x.a.word with
    | some f => .fault x.st f
    | none =>
      let deliver (w : Word) : Fired := .give (x.st.raiseHorizonW x.tile w) (Out.tok (.scalar w))
      match x.st.opOf x.a.word with
      | none => deliver (optWitness (x.st.cluster (handleCluster x.a.word)).planeHorizon)
      | some o => match o.state, o.witness with
        | .done, some w => deliver w
        | _, _ => .wait)
def OpState.code : OpState → Nat
  | .queued => 0 | .running => 1 | .encoding => 2 | .done => 3
def opStatus (o : Option FieldOp) : Word :=
  match o with
  | none => BitVec.ofNat 64 (3 + 8)
  | some o => BitVec.ofNat 64 (o.state.code + (if o.abandoned then 4 else 0) + o.steps % 2 ^ 32 * 16)
/-- The status word of a bank for a row (R252). A refresh is one step of this model, so none is executing between steps. -/
def State.bankStatus (s : State) (p : Place) : Word :=
  let b := s.bank p.bankId
  BitVec.ofNat 64 ((if s.computing p.bankId then 1 else 0) + (if b.backoff then 2 else 0) + b.debt % 16 * 16 +
    Nat.min 255 b.queue.length * 256 + s.counter p.bankId p.row * 2 ^ 32)
def pstatBank (x : Firing) : Fired :=
  if bitsAt x.a.word 56 8 ≠ 0 then x.failAt cNONCANON 0 x.a.word
  else x.swept [x.access .read true 1 1 0 (.inside ⟨.global, x.a.word.toNat⟩)] (fun oks => match oks with
    | (_, l) :: _ => (match x.st.place l.key with
      | some p => .give x.st (Out.tok (.scalar (x.st.bankStatus p)))
      | none => .give x.st.tick.2 (Out.tok (.scalar (Config.farBank x.st.tick.1))))
    | [] => .wait)
def pstatBody (x : Firing) : Fired :=
  x.whole (Out.tok .null) (
    if x.raw.w2.getLsbD 0 then pstatBank x
    else match handleFault x x.a.word with
      | some f => .fault x.st f
      | none => .give x.st (Out.tok (.scalar (opStatus (x.st.opOf x.a.word)))))

/-! The plane port (R261 to R263). -/
/-- The plane reference with its descriptor, its checks for every element below VL, the translation of the rows of the elements `live`, and
the locks. -/
def Firing.planeRef (x : Firing) (f : Fmt) (write : Bool) (live : List Nat) (go : Word → PlaneRef → Desc → Region' → List (Nat × Nat) → Fired) : Fired :=
  match x.base with
  | .outside i a => x.failAt cNONCANON i a
  | .inside p =>
    let a := p.encode
    x.structAt a 16 16 (fun l =>
      if refReserved l then x.plbind 4
      else
        let q := refOf l
        x.descAt q.desc (fun d r =>
          if x.vl ≠ 0 && d.size * 8192 < q.first + x.vl then x.plbind 2
          else if x.vl ≠ 0 && !d.inWindow q.row q.width then x.plbind 3
          else if q.illegal then x.plbind 4
          else if x.vl ≠ 0 && (f.width < q.width || (q.tern && !f.signed)) then x.plbind 5
          else
            let idx := (q.indices x.vl).filter (fun i => live.any (fun e => (q.first + e) / 8192 == i))
            let pairs := rowPairs idx ((List.range q.width).map (· + q.row))
            x.rowsOk d r (pairs.map (fun e => (e, if write then RowUse.write else RowUse.read)))
              (x.locksOk d a (if write then pairs else []) (if write then [] else pairs) (go a q d r pairs))))
/-- The VSTPs of the block with a lower LSID on a row, over its lanes (R170). -/
def Firing.overRow (x : Firing) (sub row : Nat) (v : BitVec 8192) : BitVec 8192 :=
  (x.block.storeEffects (lsidNo x.raw)).foldl (fun v e => match e with
    | .planes _ rows _ => rows.foldl (fun v r => if r.sub = sub && r.row = row then (v &&& ~~~r.lanes) ||| (r.bits &&& r.lanes) else v) v
    | _ => v) v
/-- A bit of element i of a plane tensor, from the rows read. -/
def planeBit (d : Desc) (rows : List (Nat × Nat × BitVec 8192)) (row i : Nat) : Nat :=
  match rows.find? (fun e => e.1 == d.sub (i / 8192) && e.2.1 == row) with
  | some e => if e.2.2.getLsbD (i % 8192) then 1 else 0
  | none => 0
/-- An element as VLDP forms it (R262). -/
def planeElem (d : Desc) (q : PlaneRef) (f : Fmt) (rows : List (Nat × Nat × BitVec 8192)) (i : Nat) : Word :=
  let bit := fun b => planeBit d rows (q.row + b) i
  if q.tern then BitVec.ofInt 64 ((bit 0 : Int) - (bit 1 : Int)) &&& BitVec.ofNat 64 (maskBits f.width)
  else
    let v := BitVec.ofNat 64 ((List.range q.width).foldl (fun a b => a + bit b * 2 ^ b) 0)
    (if f.signed then sextW v q.width else v) &&& BitVec.ofNat 64 (maskBits f.width)
/-- Reads rows at their homes as loads with a bound: the state, the rows' lanes, the greatest wts. -/
def Firing.readRows (x : Firing) (d : Desc) (r : Region') (b : Time) (pairs : List (Nat × Nat)) : State × List (Nat × Nat × BitVec 8192) × Option Time :=
  pairs.foldl (fun acc e =>
    let pa := x.rowKey d r e
    let l : Loc := match checkVaWalk x.st x.who .read (d.va r e.1 e.2).toNat with | .ok l => l | _ => ⟨pa, .cached, false, true, 0⟩
    let y := serveLines acc.1 x.tile b l.route false (linesOf pa 1024) acc.2.2
    (y.1, acc.2.1 ++ [(d.sub e.1, e.2, x.overRow (d.sub e.1) e.2 (BitVec.ofNat 8192 (readNat x.st.mem pa 1024)))], y.2)) (x.st, [], none)
/-- The versions of those rows' lines, as R308 asks for them. -/
def Firing.rowVersions (x : Firing) (d : Desc) (r : Region') (pairs : List (Nat × Nat)) : List (Nat × Nat × Time) :=
  (pairs.flatMap (fun e => linesOf (x.rowKey d r e) 1024)).filterMap (fun l =>
    (homeOf x.st (l * 128)).map (fun h => (lsidNo x.raw, l, x.st.wts h l)))
def Firing.rowError (x : Firing) (d : Desc) (r : Region') (e : Nat × Nat) : Option FaultRec :=
  let marks := (linesOf (x.rowKey d r e) 1024).map x.st.errOf
  (if marks.contains .poisoned then some cPOISON else if marks.contains .uncorrectable then some cUNCORR else none).map
    (fun c => mkFault c x.slot 0 (d.va r e.1 e.2).toNat (rowElem e))
/-- The lines of the first row with an error: those that are uncorrectable are written poisoned (R431). -/
def Firing.rowsMet (x : Firing) (d : Desc) (r : Region') (pairs : List (Nat × Nat)) : State :=
  match pairs.find? (fun e => (x.rowError d r e).isSome) with
  | some e => (linesOf (x.rowKey d r e) 1024).foldl State.poisonLine x.st
  | none => x.st
def vstpBelow (x : Firing) : Bool := x.lower.any (fun e => e.2.op = .vstp && !x.block.resolved e.1)
/-- A VLDP that waits on a lock of another thread stands at the row's home, where LOCKED_TIMEOUT finds it (R390). -/
def Firing.lockWait (x : Firing) (clear : State) (b : Time) (d : Desc) (r : Region') (pairs : List (Nat × Nat)) : State :=
  match pairs.find? (fun e => (x.st.place (x.rowKey d r e)).any (fun p => (x.st.rowHolder (some x.party) p false).isSome)) with
  | none => clear
  | some e =>
    if x.st.loads.any (fun l => l.of x.tid x.serial x.slot) then x.st
    else
      let k := clear.tick
      { k.2 with loads := k.2.loads ++ [{
        id := k.1, tid := x.tid, serial := x.serial, slot := x.slot, form := .scalar 1 false false,
        parts := [⟨rowElem e, x.rowKey d r e, 1, d.va r e.1 e.2, [], .cached, false, none⟩], bound := b, fresh := false, stage := .lockWait,
        answer := none, armedAt := none, home := none, toL1 := false, toRdc := false }] }
def vldpBody (x : Firing) : Fired :=
  let w := x.loadWidth
  let f := fmtOf (tagFmt ((x.raw.lit.getD 0).setWidth 16))
  x.vector [] [w] x.nulls (x.underC (fun t =>
    let b := x.bound t
    x.planeRef f false x.accessed (fun _ q d r pairs =>
      match pairs.findSome? (x.rowError d r) with
      | some e => .fault (x.rowsMet d r pairs) e
      | none =>
        let lines := pairs.flatMap (fun e => linesOf (x.rowKey d r e) 1024)
        let clear : State := { x.st with loads := x.st.loads.filter (fun l => !l.of x.tid x.serial x.slot) }
        if vstpBelow x then x.stick
        else if !x.st.underCeiling b || x.st.ownBlocks x.tid true lines || x.olderHolds true lines then .wait
        else if pairs.any (fun e => (x.st.place (x.rowKey d r e)).any (fun p => x.st.rowBlocked (some x.party) p false)) then
          .stall (x.lockWait clear b d r pairs)
        else match clear.engineGate (some x.party) false .cached (lines.map (· * 128)) with
        | some s => .stall s
        | none =>
          let x := { x with st := clear }
          let y := x.readRows d r b pairs
          let els := (List.range x.vl).map (fun e => if x.p.on e then some (planeElem d q f y.2.1 (q.first + e)) else none)
          let s := match y.2.2 with | some t => y.1.raiseHorizon x.tile t | none => y.1
          .give (s.updBlock x.tid x.serial (fun k => { k with reads := k.reads ++ x.rowVersions d r pairs }))
                  { main := some (.vector ((x.raw.lit.getD 0).setWidth 16) els [] []),
                    alt := if x.raw.mword.rw then some (.scalar (optWitness y.2.2)) else none })))
/-- The bit of row b that an element stores (R263). -/
def storeBit (q : PlaneRef) (f : Fmt) (v : Word) (b : Nat) : Bool :=
  if q.tern then (let n := intVal f v.toNat; if b = 0 then decide (0 < n) else decide (n < 0)) else v.getLsbD b
/-- A row's lanes and bits from the active elements of its subarray. -/
def Firing.rowWrite (x : Firing) (q : PlaneRef) (d : Desc) (r : Region') (live : List Nat) (e : Nat × Nat) : RowWrite :=
  let mine := live.filter (fun k => (q.first + k) / 8192 == e.1)
  let lane := fun k => (q.first + k) % 8192
  let lanes := mine.foldl (fun a k => a + 2 ^ lane k) 0
  let bits := mine.foldl (fun a k => if storeBit q x.b.vec.fmt ((x.b.vec.at k).getD 0) (e.2 - q.row) then a + 2 ^ lane k else a) 0
  ⟨x.rowKey d r e, d.sub e.1, e.2, BitVec.ofNat 8192 lanes, BitVec.ofNat 8192 bits⟩
def vstpBody (x : Firing) : Fired :=
  x.vector [{ idx := 1, tok := x.b, ok := isInt, used := x.active }] [] storesNothing (x.underC (fun t =>
    let live := (List.range x.vl).filter x.active
    x.planeRef x.b.vec.fmt true live (fun _ q d r pairs =>
      if live.isEmpty then .give x.st storesNothing
      else x.promise (.planes (lsidNo x.raw) (pairs.map (x.rowWrite q d r live)) t))))

/-! The instructions. -/
def execPlock (b : BForm) (s : State) : Host.Outcome State Fault Refusal := .next (runSlot ⟨.plock, .b b⟩ plockBody s)
def execPlockExt (b : BForm) (x : Ext) (wr tries : Bool) (s : State) : Host.Outcome State Fault Refusal :=
  .next (runSlot ⟨.plock, .x b x (BitVec.ofNat 32 (encBool wr + 2 * encBool tries))⟩ plockBody s)
def execPunlock (p : Pred) (s : State) : Host.Outcome State Fault Refusal := .next (runSlot ⟨.punlock, .p p⟩ punlockBody s)
def execPlaunch (b : BForm) (s : State) : Host.Outcome State Fault Refusal := .next (runSlot ⟨.plaunch, .b b⟩ plaunchBody s)
def execPlaunchExt (b : BForm) (x : Ext) (s : State) : Host.Outcome State Fault Refusal := .next (runSlot ⟨.plaunch, .x b x 0⟩ plaunchBody s)
def execPfence (b : BForm) (s : State) : Host.Outcome State Fault Refusal := .next (runSlot ⟨.pfence, .b b⟩ pfenceBody s)
def execPfenceExt (b : BForm) (x : Ext) (s : State) : Host.Outcome State Fault Refusal := .next (runSlot ⟨.pfence, .x b x 0⟩ pfenceBody s)
def execPstat (b : BForm) (s : State) : Host.Outcome State Fault Refusal := .next (runSlot ⟨.pstat, .b b⟩ pstatBody s)
def execPstatExt (b : BForm) (x : Ext) (bank : Bool) (s : State) : Host.Outcome State Fault Refusal :=
  .next (runSlot ⟨.pstat, .x b x (BitVec.ofNat 32 (encBool bank))⟩ pstatBody s)
def execVldp (b : BForm) (m : MWord) (tag : BitVec 16) (s : State) : Host.Outcome State Fault Refusal :=
  .next (runSlot ⟨.vldp, .m b m (some (tag.setWidth 64))⟩ vldpBody s)
def execVstp (b : BForm) (m : MWord) (s : State) : Host.Outcome State Fault Refusal := .next (runSlot ⟨.vstp, .m b m none⟩ vstpBody s)

end Sys2Proof.Machine
end

