-- ==== Sys2Proof/Machine/Copies.lean ====
section
/-! DEFINITION. Copy instructions (R264 to R266, R269, R271, R272): shadow registers, CPGO's checks, fences, status and abort. What the
engine does with an entry stands in CopyQueues.lean. -/
namespace Sys2Proof.Machine

/-! The shadow view (R264, R265). -/
abbrev Shadow := NMap Word
def Shadow.reg (v : Shadow) (i : Nat) : Word := mget 0 v i
def Shadow.src (v : Shadow) : Word := v.reg 0
def Shadow.dst (v : Shadow) : Word := v.reg 1
def Shadow.stamp (v : Shadow) : Word := v.reg 2
def Shadow.ctl (v : Shadow) : Word := v.reg 3
def Shadow.queue (v : Shadow) : Nat := bitsAt v.ctl 0 3
def Shadow.esz (v : Shadow) : Nat := 2 ^ bitsAt v.ctl 3 2
def Shadow.fold (v : Shadow) : Nat := bitsAt v.ctl 5 3
def Shadow.fop (v : Shadow) : Nat := bitsAt v.ctl 8 4
def Shadow.ffmt (v : Shadow) : Nat := bitsAt v.ctl 12 5
def Shadow.ndim (v : Shadow) : Nat := bitsAt v.ctl 17 3
/-- n_k. -/
def Shadow.size (v : Shadow) (k : Nat) : Nat := if k < 4 then bitsAt (v.reg 4) (16 * k) 16 else bitsAt (v.reg 5) (16 * (k - 4)) 16
def Shadow.sstr (v : Shadow) (k : Nat) : Word := v.reg (5 + k)
def Shadow.dstr (v : Shadow) (k : Nat) : Word := v.reg (11 + k)
def Shadow.scalar (v : Shadow) : Bool := v.fold == 3 || v.fold == 4
def setShadow (v : NMap Word) (i : Nat) (w : Word) : NMap Word := mset 0 v i w
/-- Dimensions 1 to 6. -/
def outerDims : List Nat := [1, 2, 3, 4, 5, 6]
def foldFmtOk (c : Nat) : Bool := (1 ≤ c && c ≤ 8) || (11 ≤ c && c ≤ 14)
/-- The failing check of R266 that is reported, with the offending pointer or 0. R266 gives no order: the lowest TINFO, and within TINFO 4 SRC, DST, the
strides, STAMP (DESIGN CHOICE, log entry 63). -/
def Shadow.fault (v : Shadow) : Option (Nat × Word) :=
  let bad (p : Word) : Bool := (decodePtr p).isNone
  let off (p : Word) : Bool := p.toNat % v.esz != 0
  if bitsAt v.ctl 20 44 ≠ 0 || 5 ≤ v.fold || 6 ≤ v.fop || v.ndim = 7 then some (1, 0)
  else if v.fold = 0 && (v.fop != 0 || v.ffmt != 0) then some (2, 0)
  else if v.fold ≠ 0 && (!foldFmtOk v.ffmt || (fmtOf v.ffmt).width != 8 * v.esz || (3 ≤ v.fop && (fmtOf v.ffmt).float)) then some (2, 0)
  else if bad v.src then some (3, v.src)
  else if bad v.dst then some (3, v.dst)
  else if v.stamp ≠ 0 && bad v.stamp then some (3, v.stamp)
  else if off v.src then some (4, v.src)
  else if off v.dst then some (4, v.dst)
  else if outerDims.any (fun k => off (v.sstr k) || off (v.dstr k)) then some (4, 0)
  else if v.stamp.toNat % 8 ≠ 0 then some (4, v.stamp)
  else if outerDims.any (fun k => v.ndim < k && (v.size k != 0 || v.sstr k != 0 || v.dstr k != 0)) || bitsAt (v.reg 5) 48 16 ≠ 0 ||
    (v.scalar && outerDims.any (fun k => v.dstr k != 0)) then some (5, 0)
  else none

/-! CPSET, CPGO, CPQF. -/
def cpsetBody (x : Firing) : Fired := x.effect (.cpset (x.raw.w2.toNat % 32) x.a.word)
/-- Some CPSET of a lower slot has still to fire or be decided. -/
def Firing.cpsetOpen (x : Firing) : Bool := (x.block.slotsOf (fun r => r.op = .cpset)).any (fun e => e.1 < x.slot && !x.block.resolved e.1)
/-- The view of R266: the thread's registers, then the block's CPSETs of lower slots, in slot order. -/
def Firing.shadowView (x : Firing) : NMap Word :=
  (sortOn (·.slot) x.block.effects).foldl (fun v e => match e.eff with
    | .cpset i w => if e.slot < x.slot then setShadow v i w else v
    | _ => v) x.thread.shadow
def cpgoBody (x : Firing) : Fired :=
  x.whole (Out.tok .null) (
    if x.cpsetOpen then x.stick
    else match Shadow.fault x.shadowView with
      | some (i, a) => x.failAt cCPDESC i a
      | none => x.deferring (.cpgo x.shadowView))
def cpqfBody (x : Firing) : Fired := x.effect (.cpqf (x.raw.w2.toNat % 8) (BitVec.ofNat 8 (x.raw.w2.toNat / 256)))

/-! Status and abort (R271, R272). -/
def idSeq (w : Word) : Nat := bitsAt w 0 32
def idQueue (w : Word) : Nat := bitsAt w 32 3
def idTile (w : Word) : Nat := bitsAt w 35 6
def State.copyQueue (s : State) (tile q : Nat) : CopyQueue := mget CopyQueue.empty (s.tile tile).queues q
def State.setCopyQueue (s : State) (tile q : Nat) (c : CopyQueue) : State :=
  let t := s.tile tile
  s.setTile tile { t with queues := mset CopyQueue.empty t.queues q c }
/-- Malformed, or of a transfer not issued (R242, TINFO 7). -/
def State.idBad (s : State) (w : Word) : Bool := bitsAt w 41 23 ≠ 0 || (s.copyQueue (idTile w) (idQueue w)).nextSeq ≤ idSeq w
def CopyStatus.word (c : CopyStatus) : Word := BitVec.ofNat 64 (2 + (if c.err then 4 else 0) + c.cls % 64 * 16 + c.strips % 2 ^ 40 * 65536)
/-- What a queue knows of a transfer that has ended. -/
def CopyQueue.status (q : CopyQueue) (seq : Nat) : Word :=
  match q.kept.find? (fun c => c.seq % 2 ^ 32 == seq) with
  | some c => c.word
  | none => BitVec.ofNat 64 (2 + 8)
/-- The tile and number that an entry's transfer id names: those it was issued under (R266, R341). -/
def CopyEntry.origin (e : CopyEntry) (here : Nat) : Nat × Nat := e.was.getD (here, e.seq)
def CopyEntry.named (e : CopyEntry) (here tile seq : Nat) : Bool :=
  e.fence.isNone && (e.origin here).1 == tile && (e.origin here).2 % 2 ^ 32 == seq % 2 ^ 32
/-- The entries of the queues of a number, and those saved from them with their threads (R340): tile and entry. -/
def State.copiesUnder (s : State) (q : Nat) : List (Nat × CopyEntry) :=
  s.tiles.flatMap (fun t => (mget CopyQueue.empty t.2.queues q).entries.map (fun e => (t.1, e))) ++
  s.saved.flatMap (fun t => (t.2.savedEntries.filter (·.1 == q)).map (fun e => (t.2.tile, e.2)))
/-- The transfer that a tile, a queue and a number name, where it has not ended. -/
def State.transferNamed (s : State) (tile q seq : Nat) : Option CopyEntry := ((s.copiesUnder q).find? (fun e => e.2.named e.1 tile seq)).map (·.2)
def State.copyStatus (s : State) (w : Word) : Word :=
  match s.transferNamed (idTile w) (idQueue w) (idSeq w) with
  | some e => BitVec.ofNat 64 ((if e.begun then 1 else 0) + e.strip % 2 ^ 40 * 65536)
  | none => (s.copyQueue (idTile w) (idQueue w)).status (idSeq w)
def cpstatBody (x : Firing) : Fired :=
  x.whole (Out.tok .null) (
    if x.st.idBad x.a.word then x.plbind 7
    else .give x.st (Out.tok (.scalar (x.st.copyStatus x.a.word))))
def cpabortBody (x : Firing) : Fired := x.whole {} (if x.st.idBad x.a.word then x.plbind 7 else .give x.st (Out.eff (.cpabort x.a.word)))
/-- The ABORT error witness at a strip (R270); the strip is filled in when the transfer stops. -/
def abortWitness (strip : Nat) : Word := errWitness 4 strip
/-- CPABORT at commit (R272). -/
def CopyEntry.aborted (e : CopyEntry) (here : Nat) (asid : BitVec 12) (w : Word) : CopyEntry :=
  if e.named here (idTile w) (idSeq w) && e.asid = asid && e.abort.isNone then { e with abort := some (abortWitness e.strip) } else e
def State.abortCopy (s : State) (asid : BitVec 12) (w : Word) : State :=
  { s with
    saved := s.saved.map (fun (t : Nat × Thread) =>
      (t.1, { t.2 with savedEntries := t.2.savedEntries.map (fun (e : Nat × CopyEntry) => if e.1 = idQueue w then (e.1, e.2.aborted t.2.tile asid w) else e) }))
    tiles := s.tiles.map (fun (t : Nat × Tile) =>
      (t.1, { t.2 with queues := t.2.queues.map (fun (q : Nat × CopyQueue) =>
        if q.1 = idQueue w then (q.1, { q.2 with entries := q.2.entries.map (fun e => e.aborted t.1 asid w) }) else q) })) }

/-! The instructions. -/
def execCpset (p : Pred) (s : State) : Host.Outcome State Fault Refusal := .next (runSlot ⟨.cpset, .p p⟩ cpsetBody s)
def execCpsetExt (p : Pred) (index : BitVec 5) (s : State) : Host.Outcome State Fault Refusal := .next (runSlot ⟨.cpset, .px p (index.setWidth 32)⟩ cpsetBody s)
def execCpgo (b : BForm) (s : State) : Host.Outcome State Fault Refusal := .next (runSlot ⟨.cpgo, .b b⟩ cpgoBody s)
def execCpgoExt (b : BForm) (x : Ext) (s : State) : Host.Outcome State Fault Refusal := .next (runSlot ⟨.cpgo, .x b x 0⟩ cpgoBody s)
def execCpqf (p : Pred) (s : State) : Host.Outcome State Fault Refusal := .next (runSlot ⟨.cpqf, .p p⟩ cpqfBody s)
def execCpqfExt (p : Pred) (queue : BitVec 3) (mask : BitVec 8) (s : State) : Host.Outcome State Fault Refusal :=
  .next (runSlot ⟨.cpqf, .px p (BitVec.ofNat 32 (queue.toNat + 256 * mask.toNat))⟩ cpqfBody s)
def execCpstat (b : BForm) (s : State) : Host.Outcome State Fault Refusal := .next (runSlot ⟨.cpstat, .b b⟩ cpstatBody s)
def execCpstatExt (b : BForm) (x : Ext) (s : State) : Host.Outcome State Fault Refusal := .next (runSlot ⟨.cpstat, .x b x 0⟩ cpstatBody s)
def execCpabort (p : Pred) (s : State) : Host.Outcome State Fault Refusal := .next (runSlot ⟨.cpabort, .p p⟩ cpabortBody s)

end Sys2Proof.Machine
end

