-- ==== Sys2Proof/Machine/Dram.lean ====
section
/-! DEFINITION. DRAM banks (R322 to R326, R425 to R432): refresh, refresh management, queued requests, insertions, patrol scrub. -/
namespace Sys2Proof.Machine

/-! Refresh (R324, R425). -/
/-- The marked lines of a bank's row. -/
def State.markedLines (s : State) (bank row : Nat) : List Nat :=
  (s.err.map (·.1)).filter (fun l => match s.place (l * 128) with
    | some p => p.bankId == bank && p.row == row
    | none => false)

/-- Banks take a step that is no insertion (R323). -/
def State.stepped (s : State) (banks : List Nat) : State := banks.foldl (fun s b => s.setBank b { s.bank b with inserted := false }) s
/-- Restores row RP of each subarray, resetting the counters of data rows, and advances RP. -/
def State.refreshBank (s : State) (bank : Nat) : State :=
  let b := s.bank bank
  let s := if b.rp < 512 then (List.range 32).foldl (fun s a => s.setCounter bank (a * 512 + b.rp) 0) s else s
  s.setBank bank { b with inserted := false, rp := (b.rp + 1) % 528, debt := b.debt - 1, credit := if b.debt = 0 then Nat.min 8 (b.credit + 1) else b.credit }
def FieldOp.banks (o : FieldOp) : List Nat := (o.launch.subs.map (fun e => e.1 / 32)).eraseDups
def State.timesRefresh : Nat → List Nat → State → State
  | 0, _, s => s
  | n + 1, banks, s => State.timesRefresh n banks (banks.foldl State.refreshBank s)
/-- Every bank of an op refreshes, as many times as the greatest DEBT among them (R324). -/
def State.refreshOp (s : State) (o : FieldOp) : State :=
  State.timesRefresh (o.banks.foldl (fun a b => Nat.max a (s.bank b).debt) 0) o.banks s
/-- The op that computes in a bank. -/
def State.opIn (s : State) (bank : Nat) : Option FieldOp :=
  (s.cluster (clusterOfBank bank)).ops.find? (fun o => (o.state == .running || o.state == .encoding) && o.banks.contains bank)
/-- REFRESH_INTERVAL_END (R324). -/
def refreshIntervalEndBody (bank : Nat) (s : State) : State :=
  let b := s.bank bank
  s.setBank bank (if 0 < b.credit then { b with credit := b.credit - 1 } else { b with debt := Nat.min 8 (b.debt + 1) })
/-- Refreshes are due in an op's banks (R322 order 2). -/
def State.refreshDue (s : State) (o : FieldOp) : Bool :=
  (o.safe && o.banks.any (fun b => 1 ≤ (s.bank b).debt)) || o.banks.any (fun b => 8 ≤ (s.bank b).debt)
/-- REFRESH (R324, R425), after refresh management (R322, R426): a bank that owes one; in a computing bank every bank of the op, at a safe point or
at DEBT 8. -/
def refreshBody (bank : Nat) (s : State) : State :=
  match s.opIn bank with
  | some o => if !(o.banks.any (fun b => (s.bank b).backoff)) && s.refreshDue o then s.refreshOp o else s
  | none => if !(s.bank bank).backoff && 1 ≤ (s.bank bank).debt then s.refreshBank bank else s
/-- REFRESH_MANAGEMENT (R325, R428): it begins for the oldest alert, whose row's counter is reset; it ends, the row's neighbours restored, 8 steps later.
Every bank of an op waits for those steps. -/
def refreshManagementBody (bank : Nat) (s : State) : State :=
  let b := s.bank bank
  if b.managing.isSome then s.setBank bank { b with managing := none }
  else match b.alerts with
    | [] => s
    | row :: rest =>
      ((s.setCounter bank row 0).setBank bank { b with alerts := rest, managing := some s.cycle }).stepped
        (match s.opIn bank with | some o => o.banks | none => [bank])
/-- The cycles of 8 steps (R322, R346: 105 steps are 5,040 ns). -/
def managementCycles : Nat := 8 * 72

/-! Queued requests (R323, R426). -/
def State.rowLocked (s : State) (bank row : Nat) : Bool :=
  (s.cluster (clusterOfBank bank)).locks.any (fun l => l.covers (bank * 32 + row / 512) (row % 512))
def State.rowStale (s : State) (bank row : Nat) : Bool := mget false s.stale ((bank * 32 + row / 512) * 512 + row % 512)
/-- A patrol read of a row (R432): check-stale and locked rows are skipped. -/
def State.patrolRow (s : State) (bank row : Nat) : State :=
  if s.rowStale bank row || s.rowLocked bank row then s
  else (s.markedLines bank row).foldl (fun s l => (s.correctLine l).poisonLine l) (s.activate bank row)
/-- What a request's access to DRAM was made for goes on: a load or a store at its home, an access that finds the line open, one
of the host at once (R323, R346). -/
def State.dramServed (s : State) (q : DramReq) : State :=
  match q.what with
  | .load n => { s with loads := s.loads.map (fun l => if l.id = n && l.stage = .inDram then { l with stage := .dramDone } else l) }
  | .store n => { s with stores := s.stores.map (fun r => if r.id = n then { r with dram := true } else r) }
  | .engine => { s with opened := (if s.opened.contains q.line then s.opened else s.opened ++ [q.line]), agenda := s.agenda ++ s.hostHeld }
  | .patrol => s
  | .other => s
/-- Serves a queued request: one activation of its row, errors of its line corrected. -/
def State.serveRequest (s : State) (bank : Nat) (q : DramReq) : State :=
  if q.what = .patrol then s.patrolRow bank q.row else ((s.activate bank q.row).correctLine q.line).dramServed q
def removeFirst {α : Type} [DecidableEq α] (x : α) : List α → List α
  | [] => []
  | y :: r => if y = x then r else y :: removeFirst x r
/-- DRAM_REQUEST (R426): the oldest request of a bank that does not compute, where no alert is pending. -/
def dramRequestBody (bank : Nat) (s : State) : State :=
  let b := s.bank bank
  match b.queue with
  | [] => s
  | q :: rest => if b.backoff || 1 ≤ b.debt || s.computing bank then s else (s.setBank bank { b with queue := rest }).serveRequest bank q
/-- The subarrays of an op's pass: the pass-th launched of each bank (R321). -/
def FieldOp.passSubs (o : FieldOp) : List (Nat × Nat) :=
  o.banks.filterMap (fun b => (o.launch.subs.filter (fun e => e.1 / 32 == b))[o.pass]?)
def FieldOp.passes (o : FieldOp) : Nat := o.banks.foldl (fun a b => Nat.max a ((o.launch.subs.filter (fun e => e.1 / 32 == b)).length)) 0
/-- A request a computing bank may insert now (R323). -/
def mayInsert (o : FieldOp) (bank : Nat) (q : DramReq) : Bool :=
  o.safe || !(o.passSubs.any (fun e => e.1 == bank * 32 + q.row / 512))
/-- INSERTION (R323): the oldest request the rule allows; at most one in two consecutive steps. -/
def insertionBody (bank : Nat) (s : State) : State :=
  let b := s.bank bank
  match s.opIn bank with
  | none => s
  | some o =>
    match b.queue.find? (mayInsert o bank) with
    | none => s
    | some q => if b.inserted || b.backoff || s.refreshDue o then s
      else (s.setBank bank { b with queue := removeFirst q b.queue, inserted := true }).serveRequest bank q

/-! Patrol (R432). -/
/-- PATROL_READ (R432): the next data row, at once or as a request of an engaged bank (R323, R426), past a check-stale or locked one (R326); nothing while
REFCTL.POFF pauses patrol. -/
def patrolReadBody (bank : Nat) (s : State) : State :=
  let b := s.bank bank
  if (s.cluster (clusterOfBank bank)).poff then s
  else
    let row := b.patrol
    let s := s.setBank bank { b with patrol := (row + 1) % 16384 }
    if s.rowStale bank row || s.rowLocked bank row then s
    else if s.bankEngaged bank then s.setBank bank { s.bank bank with queue := (s.bank bank).queue ++ [⟨row, bank * 16384 + row, .patrol⟩] }
    else s.patrolRow bank row

/-! The events. -/
def execRefreshIntervalEnd (bank : Nat) (s : State) : Host.Outcome State Fault Refusal := .next (refreshIntervalEndBody bank s)
def execRefresh (bank : Nat) (s : State) : Host.Outcome State Fault Refusal := .next (refreshBody bank s)
def execRefreshManagement (bank : Nat) (s : State) : Host.Outcome State Fault Refusal := .next (refreshManagementBody bank s)
def execDramRequest (bank : Nat) (s : State) : Host.Outcome State Fault Refusal := .next (dramRequestBody bank s)
def execInsertion (bank : Nat) (s : State) : Host.Outcome State Fault Refusal := .next (insertionBody bank s)
def execPatrolRead (bank : Nat) (s : State) : Host.Outcome State Fault Refusal := .next (patrolReadBody bank s)

end Sys2Proof.Machine
end

