-- ==== Sys2Proof/Machine/Furrow.lean ====
section
/-! DEFINITION. Furrow ops as they run (R247 to R256, R319 to R321, R328): starts, furrow words, encode passes. -/
namespace Sys2Proof.Machine

/-! Ops. -/
def State.updOp (s : State) (c seq : Nat) (f : FieldOp → FieldOp) : State :=
  let k := s.cluster c
  s.setCluster c { k with ops := k.ops.map (fun o => if o.seq = seq then f o else o) }
def State.findOp (s : State) (c seq : Nat) : Option FieldOp := (s.cluster c).ops.find? (·.seq == seq)
/-- The row sequencers an op holds, as bank / 16 (R320). -/
def Launch.sequencers (l : Launch) : List Nat := (l.subs.map (fun e => e.1 / 512)).eraseDups
/-- What an image of the furrow store is told apart by (R248): its address and address space, and the greatest wts of its lines; the words where they
came from a page that gives none. -/
def Launch.key (l : Launch) : Nat × Option Time × List Word32 := (l.image, l.wts, if l.wts.isNone then l.words else [])
/-- The launch queue has room and its image a place in the furrow store (R249, R320). -/
def Cluster.hasRoom (k : Cluster) (l : Launch) : Bool :=
  let live := k.ops.filter (fun o => o.state == .queued || o.state == .running)
  (k.ops.filter (fun o => o.state == .queued)).length < 64 &&
  (live.any (fun o => o.launch.key == l.key) || ((live.map (fun o => o.launch.key)).eraseDups).length < 16)
def opHandle (c seq : Nat) : Word := BitVec.ofNat 64 (seq % 2 ^ 32 + c % 8 * 2 ^ 32)
/-- Accepts a launch (R249). -/
def State.acceptLaunch (s : State) (owner : Nat) (l : Launch) (packet : Option (Nat × Nat)) : State :=
  let k := s.cluster l.cluster
  s.setCluster l.cluster { k with opSeq := k.opSeq + 1, ops := k.ops ++ [
    { seq := k.opSeq, owner := owner, launch := l, state := .queued, pass := 0, safe := true, pc := 0, loops := [], steps := 0,
      witness := none, abandoned := false, packet := packet, encoded := 0, encTime := none }] }
/-- A packet in progress has its effect: its time, or the error witness copied to its CSTAMP (R359). -/
def State.packetDone (s : State) (q no : Nat) (time : Option Time) (error : Option Word) : State :=
  let h := s.queue q
  s.setQueue q { h with active := h.active.map (fun p => if p.no = no then { p with done := true, time := time, error := error } else p) }

/-- The locks and lock requests of a PLANE packet go (R366); they carry its number as their descriptor. -/
def Cluster.dropPacket (k : Cluster) (q no : Nat) : Cluster :=
  let mine (l : Lock) : Bool := l.owner == 4096 + q && l.desc == BitVec.ofNat 64 no
  { k with locks := k.locks.filter (fun l => !mine l), lockReqs := k.lockReqs.filter (fun r => !mine r.lock) }

/-! Starting an op and its passes. -/
/-- The first step of a pass: B0 to B7, N0 and N1 cleared unless KEEP applies (R247, R321). -/
def State.clearSub (s : State) (o : FieldOp) (sub : Nat) : State :=
  let kept := o.launch.keep && mget 0 s.keepOwner sub == o.owner + 1
  let s := if kept then s else { s with specials := (List.range 10).foldl (fun m k => mset 0 m (sub * 16 + k) 0) s.specials }
  { s with keepOwner := mset 0 s.keepOwner sub (o.owner + 1) }
def State.beginPass (s : State) (c seq : Nat) : State :=
  match s.findOp c seq with
  | none => s
  | some o =>
    let s := o.passSubs.foldl (fun s e => s.clearSub o e.1) s
    ((s.stepped o.banks).updOp c seq (fun o => { o with steps := o.steps + 1, pc := 0, loops := [], safe := true })).refreshOp o
/-- The start rules of R320. -/
def Cluster.mayStart (k : Cluster) (o : FieldOp) : Bool :=
  let mine := o.launch.sequencers
  let needs (p : FieldOp) : Bool := p.launch.sequencers.any mine.contains
  o.state == .queued &&
  !k.ops.any (fun p => (p.state == .running || p.state == .encoding) && needs p) &&
  !k.ops.any (fun p => p.state == .queued && p.seq < o.seq && needs p) &&
  (k.ops.filter (fun p => p.state == .running || p.state == .encoding)).length < 16
/-- FIELD_OP_START (R320, R321). -/
def fieldOpStartBody (c seq : Nat) (s : State) : State :=
  match s.findOp c seq with
  | none => s
  | some o => if (s.cluster c).mayStart o then (s.updOp c seq (fun o => { o with state := .running })).beginPass c seq else s

/-! Furrow words (R253, R255, R256). -/
/-- The iteration index of the innermost loop. -/
def FieldOp.iter (o : FieldOp) : Nat := match o.loops with | (_, _, l) :: _ => l | [] => 0
def FieldOp.dataRow (o : FieldOp) (k : Nat) (loop : Bool) (off : Nat) : Nat := o.launch.bases[k]?.getD 0 + off + (if loop then o.iter else 0)
def FieldOp.par (o : FieldOp) (p : Nat) : Word32 := o.launch.pars[p]?.getD 0
/-- Bit j (+ L) of P[p]; 0 from index 32 on. -/
def FieldOp.parBit (o : FieldOp) (p j : Nat) (loop : Bool) : Bool :=
  let i := j + (if loop then o.iter else 0)
  i < 32 && (o.par p).getLsbD i
def rowZ : Nat := 10
def rowO : Nat := 11
/-- A data row as its cells hold it: a bit with a correctable error reads inverted, since no check bits are looked at (R250, R327). -/
def State.sensed (s : State) (pa : Nat) : BitVec 8192 :=
  (List.range 8).foldl (fun v i => match s.errOf (pa / 128 + i) with
    | .correctable bits => (bits.filter (fun b => b % 72 < 64)).foldl (fun v b => v ^^^ BitVec.ofNat 8192 (2 ^ (1024 * i + b / 72 * 64 + b % 72))) v
    | _ => v) (BitVec.ofNat 8192 (readNat s.mem pa 1024))
/-- A row of a subarray as a furrow word reads it. -/
def State.furrowRow (s : State) (o : FieldOp) (e : Nat × Nat) (x : BitVec 10) : BitVec 8192 :=
  match rowOp x.toNat with
  | .special c => if c = rowZ then 0 else if c = rowO then BitVec.allOnes 8192 else mget 0 s.specials (e.1 * 16 + c)
  | .data k l off => s.sensed (e.2 + o.dataRow k l off * 1024)
/-- Writes a row; a data row becomes check-stale (R250), and the errors in its cells are gone. -/
def State.setFurrowRow (s : State) (o : FieldOp) (e : Nat × Nat) (x : BitVec 10) (v : BitVec 8192) : State :=
  match rowOp x.toNat with
  | .special c => if c < 10 then { s with specials := mset 0 s.specials (e.1 * 16 + c) v } else s
  | .data k l off =>
    let pa := e.2 + o.dataRow k l off * 1024
    { s with mem := writeBytes s.mem pa (leBytes 1024 v.toNat), err := (List.range 8).foldl (fun m i => mset ErrMark.ok m (pa / 128 + i) .ok) s.err,
             stale := mset false s.stale (e.1 * 512 + o.dataRow k l off) true }
/-- Counts one activation of each distinct data row named, in one subarray (R255, R427). -/
def FieldOp.rowNo (o : FieldOp) (x : BitVec 10) : Option Nat :=
  match rowOp x.toNat with
  | .special _ => none
  | .data k l off => some (o.dataRow k l off)
def State.countRows (s : State) (o : FieldOp) (e : Nat × Nat) (l : List (BitVec 10)) : State :=
  ((l.filterMap o.rowNo).eraseDups).foldl (fun s r => s.activate (e.1 / 32) (e.1 % 32 * 512 + r)) s
/-- Runs a furrow word of the op the step is about: what it does to the rows, then where the op stands. Nothing where no op runs there
(log entry 14). -/
def runFurrow (steps : Nat) (rows : FieldOp → State → State) (next : FieldOp → FieldOp) (s : State) : State :=
  match s.focus with
  | .op c seq =>
    (match s.findOp c seq with
     | none => s
     | some o =>
       if o.state != .running then s
       else
         let s := rows o s
         let s := if steps = 0 then s else s.stepped o.banks
         s.updOp c seq (fun o => let p := next o; { p with steps := p.steps + steps, safe := if steps = 0 then p.safe else false }))
  | _ => s
def FieldOp.advance (o : FieldOp) : FieldOp := { o with pc := o.pc + 1 }
/-- A word that computes D from S in every lane of every subarray of the pass. -/
def rowWord (steps : Nat) (s d : BitVec 10) (f : BitVec 8192 → BitVec 8192) : State → State :=
  runFurrow steps (fun o st => o.passSubs.foldl (fun st e => (st.setFurrowRow o e d (f (st.furrowRow o e s))).countRows o e [s, d]) st) FieldOp.advance
def qcopyBody (s d : BitVec 10) : State → State := rowWord 1 s d id
def qnotBody (s d : BitVec 10) : State → State := rowWord 1 s d (fun v => ~~~v)
def qshlBody (s d : BitVec 10) : State → State := rowWord 2 s d (fun v => v <<< 1)
def qshrBody (s d : BitVec 10) : State → State := rowWord 2 s d (fun v => v >>> 1)
def qsetBody (i : Bool) (d : BitVec 10) (par : BitVec 3) (bit : BitVec 5) : State → State :=
  runFurrow 1 (fun o st => o.passSubs.foldl (fun st e =>
    (st.setFurrowRow o e d (if o.parBit par.toNat bit.toNat i then BitVec.allOnes 8192 else 0)).countRows o e [d]) st) FieldOp.advance
/-- The rows of a triple (R256). -/
def triple (t : BitVec 2) : List Nat := match t.toNat with | 0 => [0, 1, 2] | 1 => [3, 4, 5] | 2 => [3, 6, 7] | _ => [0, 6, 7]
def majority (a b c : BitVec 8192) : BitVec 8192 := (a &&& b) ||| (a &&& c) ||| (b &&& c)
def State.majTriple (s : State) (t : BitVec 2) (sub : Nat) : State :=
  let l := triple t
  let at' (i : Nat) : BitVec 8192 := mget 0 s.specials (sub * 16 + l[i]?.getD 0)
  let m := majority (at' 0) (at' 1) (at' 2)
  { s with specials := l.foldl (fun sp k => mset 0 sp (sub * 16 + k) m) s.specials }
def qmajBody (t : BitVec 2) : State → State :=
  runFurrow 1 (fun o st => o.passSubs.foldl (fun st e => st.majTriple t e.1) st) FieldOp.advance
/-- The die and the via group of a subarray, as its bank and number (R328). -/
def dieOf (sub : Nat) : Nat := sub / 512 % 384 / 24
def sameVia (a b : Nat) : Bool := a / 512 % 384 % 24 == b / 512 % 384 % 24 && a % 512 == b % 512
/-- QVMC: each source-layer subarray and its partners of the pass (R255). -/
def qvmcBody (s d : BitVec 10) (lay : BitVec 4) : State → State :=
  runFurrow 3 (fun o st =>
    let sources := o.passSubs.filter (fun e => dieOf e.1 == lay.toNat)
    sources.foldl (fun st e =>
      let v := st.furrowRow o e s
      let st := (st.setFurrowRow o e d v).countRows o e [s]
      (o.passSubs.filter (fun p => dieOf p.1 != lay.toNat && sameVia p.1 e.1)).foldl (fun st p => (st.setFurrowRow o p d v).countRows o p [d]) st) st)
    FieldOp.advance
/-- A QLOOP of n passes: into its body, or past its QEND. -/
def FieldOp.loop (n : Nat) (o : FieldOp) : FieldOp :=
  if n = 0 then { o with pc := (qEndOf o.launch.words 512 (o.pc + 1) 0).getD o.launch.words.length }
  else { o with pc := o.pc + 1, loops := (o.pc + 1, n, 0) :: o.loops }
def qloopBody (n : BitVec 8) : State → State := runFurrow 0 (fun _ s => s) (fun o => o.loop n.toNat)
def qloopParBody (par : BitVec 3) : State → State := runFurrow 0 (fun _ s => s) (fun o => o.loop (o.par par.toNat).toNat)
def FieldOp.endLoop (o : FieldOp) : FieldOp :=
  match o.loops with
  | (start, n, l) :: rest => if l + 1 < n then { o with pc := start, loops := (start, n, l + 1) :: rest } else { o with pc := o.pc + 1, loops := rest }
  | [] => o.advance
def qendBody : State → State := runFurrow 0 (fun _ s => s) FieldOp.endLoop
def qskipBody (cnt : BitVec 5) (i v : Bool) (par : BitVec 3) (bit : BitVec 5) : State → State :=
  runFurrow 0 (fun _ s => s) (fun o => if o.parBit par.toNat bit.toNat i = v then { o with pc := o.pc + cnt.toNat + 2 } else o.advance)
/-- QSAFE: due refreshes execute (R324). -/
def qsafeBody : State → State := runFurrow 0 (fun o s => s.refreshOp o) (fun o => { o.advance with safe := true })
/-- QRET: the next pass, or the encode pass (R250, R321). -/
def qretBody (s : State) : State :=
  match s.focus with
  | .op c seq =>
    (match s.findOp c seq with
     | none => s
     | some o =>
       if o.state != .running then s
       else
         let s := s.refreshOp o
         if o.pass + 1 < o.passes then (s.updOp c seq (fun o => { o with pass := o.pass + 1 })).beginPass c seq
         else s.updOp c seq (fun o => { o with state := .encoding, pc := 0, loops := [], safe := true }))
  | _ => s

/-! The encode pass (R250). -/
/-- The subarrays of any pass of an op (R321). -/
def FieldOp.subsOf (o : FieldOp) (pass : Nat) : List (Nat × Nat) := ({ o with pass := pass } : FieldOp).passSubs
/-- The rows its encode pass performs next, one in each bank of a pass, in ascending row (R326, R346). -/
def FieldOp.encodeNext (o : FieldOp) : List ((Nat × Nat) × Nat) :=
  match o.launch.writes[o.encoded % o.launch.writes.length]? with
  | some k => (o.subsOf (o.encoded / o.launch.writes.length)).map (fun e => (e, k))
  | none => []
def FieldOp.encodeDone (o : FieldOp) : Bool := o.passes * o.launch.writes.length ≤ o.encoded
/-- The time of a row's store: above the rts of its lines, mts, and FLOOR (R174, R250). -/
def State.encodeTime (s : State) (c : Nat) (floor : Time) (e : Nat × Nat) (row : Nat) : Time :=
  1 + serialMaxL ((linesOf (e.2 + row * 1024) 1024).map (s.rts c)) (serialMax (s.cluster c).mts floor)
/-- Performs a row at its home as one store of the whole row, its contents as they stand. -/
def State.encodeRow (s : State) (c : Nat) (t : Time) (e : Nat × Nat) (row : Nat) : State :=
  let s := (linesOf (e.2 + row * 1024) 1024).foldl (fun s l => s.perform c l [] t true false) s
  let s := s.activate (e.1 / 32) (e.1 % 32 * 512 + row)
  { s with stale := mset false s.stale (e.1 * 512 + row) false }
/-- The greatest wts of the rows an op reads. -/
def State.readTimes (s : State) (c : Nat) (o : FieldOp) : Option Time :=
  joinTimes (o.launch.subs.flatMap (fun e => o.launch.reads.flatMap (fun k => (linesOf (e.2 + k * 1024) 1024).map (fun l => some (s.wts c l)))))
/-- The field controller keeps the witnesses of its last 4,096 ops (R251). -/
def Cluster.retain (k : Cluster) : Cluster :=
  let ended := k.ops.filter (fun o => o.state == .done)
  let n := ended.length - 4096
  let gone := ended.take n
  { k with ops := k.ops.filter (fun o => !gone.any (fun g => g.seq == o.seq)),
           planeHorizon := gone.foldl (fun a o => match o.witness with | some w => (if wKind w = 0 then joinTime a (wTime w) else a) | none => a) k.planeHorizon }
/-- An op ends with its witness: releases that waited for it take effect, its region is charged, its packet has its effect. -/
def State.endOp (s : State) (c : Nat) (o : FieldOp) (w : Word) (abandoned : Bool) : State :=
  let s := s.updOp c o.seq (fun p => { p with state := .done, witness := some w, abandoned := abandoned })
  let s := s.setCluster c ((s.cluster c).settleLocks o.owner)
  let s := match o.packet with
    | some p => (s.setCluster c ((s.cluster c).dropPacket p.1 p.2)).packetDone p.1 p.2 (if wKind w = 0 then some (wTime w) else none) (if wKind w = 1 then some w else none)
    | none => s
  let s := { s with agenda := s.agenda ++ [Instr.budgetCharge (s.teamAsid (teamOfParty o.owner) o.launch.asid) o.launch.region 2 o.steps] }
  s.setCluster c (s.cluster c).retain
/-- Its rows performed, or its reads' times, make the op's witness (R250). -/
def State.finishOp (s : State) (c : Nat) (o : FieldOp) : State :=
  s.endOp c o (optWitness (match o.encTime with | some t => some t | none => s.readTimes c o)) false
/-- One row of each bank of a pass is performed, in the order of the encode pass. -/
def State.encodeRows (s : State) (c : Nat) (o : FieldOp) (rows : List ((Nat × Nat) × Nat)) : State :=
  let times := rows.map (fun x => s.encodeTime c o.launch.floor x.1 x.2)
  if !times.all s.underCeiling then s
  else
    let s := ((rows.zip times).foldl (fun s x => s.encodeRow c x.2 x.1.1 x.1.2) s).stepped o.banks
    let o' := { o with encoded := o.encoded + 1, safe := true, encTime := joinTimes (o.encTime :: times.map some) }
    let s := s.updOp c o.seq (fun _ => o')
    if o'.encodeDone then s.finishOp c o' else s
/-- ENCODE_PASS_END (R250, R326): the next row of the write reach in each bank of the pass; the op ends with the last of them. -/
def encodePassEndBody (c seq : Nat) (s : State) : State :=
  match s.findOp c seq with
  | none => s
  | some o =>
    if o.state != .encoding then s
    else if o.encodeDone then s.finishOp c o
    else match s.snoopWait (o.encodeNext.flatMap (fun x => linesOf (x.1.2 + x.2 * 1024) 1024)) true with
    | some s => s
    | none => s.encodeRows c o o.encodeNext

/-! The instructions and events. -/
def execQcopy (s d : BitVec 10) (st : State) : Host.Outcome State Fault Refusal := .next (qcopyBody s d st)
def execQnot (s d : BitVec 10) (st : State) : Host.Outcome State Fault Refusal := .next (qnotBody s d st)
def execQmaj (t : BitVec 2) (s : State) : Host.Outcome State Fault Refusal := .next (qmajBody t s)
def execQshl (s d : BitVec 10) (st : State) : Host.Outcome State Fault Refusal := .next (qshlBody s d st)
def execQshr (s d : BitVec 10) (st : State) : Host.Outcome State Fault Refusal := .next (qshrBody s d st)
def execQset (i : Bool) (d : BitVec 10) (par : BitVec 3) (bit : BitVec 5) (s : State) : Host.Outcome State Fault Refusal := .next (qsetBody i d par bit s)
def execQvmc (s d : BitVec 10) (lay : BitVec 4) (st : State) : Host.Outcome State Fault Refusal := .next (qvmcBody s d lay st)
def execQloop (n : BitVec 8) (s : State) : Host.Outcome State Fault Refusal := .next (qloopBody n s)
def execQloopPar (par : BitVec 3) (s : State) : Host.Outcome State Fault Refusal := .next (qloopParBody par s)
def execQend (s : State) : Host.Outcome State Fault Refusal := .next (qendBody s)
def execQskip (cnt : BitVec 5) (i v : Bool) (par : BitVec 3) (bit : BitVec 5) (s : State) : Host.Outcome State Fault Refusal :=
  .next (qskipBody cnt i v par bit s)
def execQsafe (s : State) : Host.Outcome State Fault Refusal := .next (qsafeBody s)
def execQret (s : State) : Host.Outcome State Fault Refusal := .next (qretBody s)
def execFieldOpStart (cluster seq : Nat) (s : State) : Host.Outcome State Fault Refusal := .next (fieldOpStartBody cluster seq s)
def execEncodePassEnd (cluster seq : Nat) (s : State) : Host.Outcome State Fault Refusal := .next (encodePassEndBody cluster seq s)

end Sys2Proof.Machine
end

