-- ==== Sys2Proof/Machine/Homes.lean ====
section
/-! DEFINITION. Homes at work (R281 to R292, R300 to R308, R186, R191, R194): loads, renewals, stores, atomics, CLAIMEL and MWAIT as they are
served, page walks, the ceiling, the lease sweep. -/
namespace Sys2Proof.Machine

/-! Writes by engines, the host and trains. -/
/-- The time a write of a line takes and the state with it performed; none where its time lies beyond the ceiling (R300). -/
def State.storeAt (s : State) (key : Nat) (cells : List Host.Cell) (w floor : Option Time) (route : Route) (compress : Bool) :
    Option (State × Time) :=
  match homeOf s key with
  | none => none
  | some h =>
    let l := lineOf key
    let t := s.storeTime h l w floor (nocacheRoute route)
    if !s.underCeiling t then none
    else
      let s := if s.needsDram h l route then (s.openLine l).correctLine l else s
      some (s.perform h l cells t (nocacheRoute route) compress, t)
/-- The line of a key carries an uncorrectable error or poison. -/
def State.lineBad (s : State) (key : Nat) : Bool := s.errOf (lineOf key) == .uncorrectable || s.errOf (lineOf key) == .poisoned

/-! Values combined at a home. -/
/-- d op s in a format (R185, R268): 0 add, 1 min, 2 max, 3 and, 4 or, 5 xor. -/
def foldVal (fmt fop : Nat) (d s : Word) : Word :=
  let f := fmtOf fmt
  let m := BitVec.ofNat 64 (maskBits f.width)
  match fop with
  | 0 => (addEl false .rne f d s).1
  | 1 => (minEl false f d s).1
  | 2 => (minEl true f d s).1
  | 3 => d &&& s &&& m
  | 4 => (d ||| s) &&& m
  | _ => (d ^^^ s) &&& m
/-- Partials combined in a free order (R268). -/
def combineAny (fmt fop seed : Nat) : Nat → List Word → List Word
  | 0, l => l
  | n + 1, l =>
    match l with
    | [] => []
    | [p] => [p]
    | l =>
      let i := Config.foldOrder (seed + 2 * n) % l.length
      let r := l.eraseIdx i
      let j := Config.foldOrder (seed + 2 * n + 1) % r.length
      combineAny fmt fop seed n (foldVal fmt fop (l[i]?.getD 0) (r[j]?.getD 0) :: r.eraseIdx j)
def foldBytes (fmt : Nat) : Nat := (fmtOf fmt).width / 8
def State.foldCells (s : State) (e : FoldEl) : List Host.Cell :=
  let n := foldBytes e.fmt
  cellsOf e.key (leBytes n (foldVal e.fmt e.fop (BitVec.ofNat 64 (readNat s.mem e.key n)) e.val).toNat)
/-- The new value of an atomic (R186); none where ACAS writes nothing. -/
def atomicNew (op : AtomicOp) (size : Nat) (o b c : Word) (sx : Bool) : Option Word :=
  let n := 8 * size
  let b := zextW b n
  let less : Bool := if sx then (sextW o n).toInt < (sextW b n).toInt else o.toNat < b.toNat
  match op with
  | .add => some (zextW (o + b) n)
  | .swap => some b
  | .cas => if o = zextW c n then some b else none
  | .min => some (if less then o else b)
  | .max => some (if less then b else o)
  | .and => some (o &&& b)
  | .or => some (o ||| b)
  | .xor => some (o ^^^ b)

/-! Loads. -/
def LoadReq.via (s : State) (l : LoadReq) : Nat := clusterOfTile (s.tileOf l.tid)
def LoadReq.key (l : LoadReq) : Nat := match l.parts with | p :: _ => p.key | [] => 0
def LoadReq.line (l : LoadReq) : Nat := lineOf l.key
def LoadReq.route (l : LoadReq) : Route := match l.parts with | p :: _ => p.route | [] => .cached
def LoadReq.compress (l : LoadReq) : Bool := match l.parts with | p :: _ => p.compress | [] => false
def State.findLoad (s : State) (id : Nat) : Option LoadReq := s.loads.find? (·.id == id)
def State.updLoad (s : State) (id : Nat) (f : LoadReq → LoadReq) : State := { s with loads := s.loads.map (fun l => if l.id = id then f l else l) }
/-- The line's bytes reach the load: its parts take theirs; the load is delivered when it is whole. -/
def State.takeLine (s : State) (l : LoadReq) (data : List Byte) (w : Option Time) : State :=
  (s.updLoad l.id (fun l => { l with stage := .arrived, answer := none, parts := l.parts.map (fun p => p.take data w) })).settleLoad l.tid l.serial l.slot
/-- Served at the home, without a lease: older copies of the line go, the parts take the newest version. -/
def State.serveNow (s : State) (l : LoadReq) (h : Nat) : State :=
  let tile := s.tileOf l.tid
  let v := (s.packetTo tile h).serveLoad h l.line l.bound none (nocacheRoute l.route) l.compress
  ((v.st.dropOlderAt tile l.line v.wts).packetBack tile h).takeLine l (readBytes s.mem (l.line * 128) 128) (some v.wts)
/-- Monitors armed at a home. -/
def State.armedAt (s : State) (h : Nat) : Nat := (s.loads.filter (fun l => l.stage == .armed && l.home == some h)).length
/-- MWAIT at its home (R191): answered at once, or armed. -/
def State.serveWait (s : State) (l : LoadReq) (h limit : Nat) : State :=
  let w := s.wts h l.line
  if serialGt w l.bound || limit = 0 || 2048 ≤ s.armedAt h then s.serveNow l h
  else s.updLoad l.id (fun l => { l with stage := .armed, armedAt := some w })
/-- A renewal (R284): the newest version with a lease, on its way back. -/
def State.serveRenewal (s : State) (l : LoadReq) (h : Nat) : State :=
  let tile := s.tileOf l.tid
  let v := (s.packetTo tile h).serveLoad h l.line l.bound (some (s.thread l.tid).lease.toNat) false l.compress
  let c : Copy := { line := l.line, data := readBytes s.mem (l.line * 128) 128, wts := v.wts, rts := v.rts, bad := false }
  (v.st.packetBack tile h).updLoad l.id (fun l =>
    { l with answer := some c, stage := if homeCluster h = clusterOfTile tile then .toL1 else .toRdc })
/-- A load leaves for the host or a peer (R411, R416). -/
def State.sendLoad (s : State) (l : LoadReq) : State :=
  let s := { s.updLoad l.id (fun l => { l with stage := .inDram }) with hostReqs := s.hostReqs ++ [HostReq.mk l.id (.load l.id)] }
  if l.route = .host then { s with out := s.out ++ [.hostRead l.id (l.line * 128 - 2 ^ 50)] }
  else
    let t := s.thread l.tid
    let a : Nat × Nat := match l.parts with | [p] => (p.key, p.size) | _ => (l.line * 128, 128)
    s.sendRead t.tile t.asid.toNat a.1 a.2 l.id l.bound
/-- The load takes some byte of its line from memory, and the line cannot be read (checks 7 and 8 of R169). -/
def State.loadMeetsError (s : State) (l : LoadReq) : Bool :=
  l.parts.any (fun p => !p.full && (readError s p.key p.size).isSome)
/-! Requests of an L1 (R283). -/
/-- A line request of the L1. -/
def LoadReq.ofL1 (l : LoadReq) : Bool := l.route == .cached && !l.fresh
def LoadReq.outstanding (l : LoadReq) : Bool := l.stage != .arrived && l.stage != .armed && l.stage != .lockWait
/-- The line requests of the tile's L1 that were made before this one. -/
def State.earlierL1 (s : State) (l : LoadReq) : List LoadReq :=
  (s.loads.takeWhile (fun x => x.id != l.id)).filter (fun x => x.ofL1 && x.outstanding && s.tileOf x.tid == s.tileOf l.tid)
/-- The request goes out: its line has no other outstanding, with which it would be merged, and fewer than 64 lines have. -/
def State.lineTurn (s : State) (l : LoadReq) : Bool :=
  let before := (s.earlierL1 l).map LoadReq.line
  !l.ofL1 || (!before.contains l.line && before.eraseDups.length < 64)
/-- HOME_LOAD (R281), by the map it was routed under (R294). -/
def homeLoadBody (id : Nat) (s : State) : State :=
  match s.findLoad id with
  | none => s
  | some l =>
    if (l.stage != .atHome && l.stage != .dramDone) || !s.lineTurn l then s
    else if l.route = .host || l.route = .peer then s.sendLoad l
    else match l.home with
      | none => s.refire l.tid l.serial l.slot
      | some h =>
        if !s.underCeiling l.bound || !s.underCeiling (s.wts h l.line) then s
        else match s.gate (some (s.party l.tid)) l.key false with
          | some s => s
          | none =>
            let s := s.scrubHeld h l.line
            if s.loadMeetsError l then s.refire l.tid l.serial l.slot
            else if l.stage = .atHome && s.needsDram h l.line l.route then (s.askDram l.line (.load id)).updLoad id (fun l => { l with stage := .inDram })
            else match l.form with
              | .wait _ _ _ limit => s.serveWait l h limit
              | _ => if l.ofL1 then s.serveRenewal l h else s.serveNow l h
/-- A copy on its way is no older than one that is there (R308). -/
def freshest (c : Copy) (cs : List Copy) : Bool := (findCopy c.line cs).all (fun x => serialLe x.wts c.wts)
/-- The L1 keeps the answer of a request, unless a store of the tile makes that of no use (R285) or it has a newer copy. -/
def State.keepL1 (s : State) (l : LoadReq) (c : Copy) : State :=
  let tile := s.tileOf l.tid
  let t := s.tile tile
  if l.toL1 && !s.storing c.line (· == tile) && freshest c t.l1 then s.setTile tile { t with l1 := putL1 c t.l1 } else s
def State.keepRdc (s : State) (l : LoadReq) (c : Copy) : State :=
  let n := l.via s
  let k := s.cluster n
  if l.toRdc && !s.storing c.line (fun t => clusterOfTile t == n) && freshest c k.rdc then s.setCluster n { k with rdc := putRdc c k.rdc } else s
/-- The requests of a tile merged with one for the line (R283); those made beside a store of the tile go to the home themselves, as do those that follow a
store which the answer has not seen (R285). -/
def State.merged (s : State) (tile line : Nat) : List Nat :=
  (s.loads.filter (fun x => x.ofL1 && x.toL1 && x.line == line && s.tileOf x.tid == tile && (x.stage == .atHome || x.stage == .toRdc) && x.answer.isNone)).map (·.id)
/-- A merged request takes the answer where it reaches its bound. -/
def State.giveMerged (s : State) (c : Copy) (id : Nat) : State :=
  match s.findLoad id with
  | some x => if serialLe x.bound c.rts then s.takeLine x c.data (some c.wts) else s
  | none => s
/-- L1_RENEWAL (R284): the L1 takes the answer, and the load its bytes. -/
def l1RenewalBody (id : Nat) (s : State) : State :=
  match s.findLoad id with
  | none => s
  | some l => match l.stage, l.answer with
    | .toL1, some c =>
      let tile := s.tileOf l.tid
      let s := (s.dropOlderAt tile c.line c.wts).keepL1 l c
      let more := if l.toL1 then s.merged tile c.line else []
      more.foldl (fun s n => s.giveMerged c n) (s.takeLine l c.data (some c.wts))
    | _, _ => s
/-- A cluster's copy of a line goes where it has an uncorrectable error, which is logged (R287). -/
def State.dropBadRdc (s : State) (c line : Nat) : State :=
  let k := s.cluster c
  match findCopy line k.rdc with
  | some x => if x.bad then (s.setCluster c { k with rdc := dropCopy line k.rdc }).logRecord c 5 0 0 0 (line * 128) 0 else s
  | none => s
/-- RDC_RENEWAL (R286): a hit answers the L1; a miss goes to the home; the home's answer is kept and passed on. -/
def rdcRenewalBody (id : Nat) (s : State) : State :=
  match s.findLoad id with
  | none => s
  | some l =>
    if l.stage != .toRdc || !s.lineTurn l then s
    else
      let c := l.via s
      let s := s.dropBadRdc c l.line
      let k := s.cluster c
      match l.answer with
      | none =>
        (match (findCopy l.line k.rdc).filter (fun x => serialLe l.bound x.rts) with
         | some x => (s.setCluster c { k with rdc := dropCopy x.line k.rdc ++ [x] }).updLoad id (fun l => { l with answer := some x, stage := .toL1 })
         | none => s.updLoad id (fun l => { l with stage := .atHome }))
      | some x => (s.updLoad id (fun l => { l with stage := .toL1 })).keepRdc l x
/-- The limit of an MWAIT is over: its next answer ends it. -/
def LoadForm.expire : LoadForm → LoadForm
  | .wait n sx rw _ => .wait n sx rw 0
  | f => f
/-- The answer of an armed MWAIT: the newest version (R191). One on a line of another device asks its home again, since only an answer tells it of a
newer version (DEDUCED, log entry 22). One that a row lock or the host holds back stands at the home from then on (R390). -/
def State.wake (s : State) (l : LoadReq) : State :=
  if l.route = .peer then s.sendLoad l
  else match l.home with
  | none => s.refire l.tid l.serial l.slot
  | some h => match s.gate (some (s.party l.tid)) l.key false with
    | some s => s.updLoad l.id (fun l => { l with stage := .atHome, form := l.form.expire })
    | none => if s.loadMeetsError l then s.refire l.tid l.serial l.slot else s.serveNow l h
def LoadForm.waits : LoadForm → Bool
  | .wait _ _ _ l => l != 0
  | _ => false
/-- A write has created a version of the armed line; a sweep or an eviction that re-times it wakes none (R191, R303). -/
def LoadReq.woken (l : LoadReq) : Bool := l.stage == .armed && l.armedAt.isNone
/-- MWAIT_WAKE (R191). -/
def mwaitWakeBody (id : Nat) (s : State) : State :=
  match s.findLoad id with
  | some l => if l.woken then s.wake l else s
  | none => s
/-- MWAIT_EXPIRY (R191): after the limit. -/
def mwaitExpiryBody (id : Nat) (s : State) : State :=
  match s.findLoad id with
  | some l =>
    if l.route = .peer && l.form.waits then
      let s := s.updLoad id (fun l => { l with form := l.form.expire })
      if l.stage = .armed then s.sendLoad l else s
    else if l.stage = .armed then s.wake l else s
  | none => s
/-- LOCKED_TIMEOUT (R390): a load that has waited 2^24 cycles on another thread's lock. -/
def lockedTimeoutBody (id : Nat) (s : State) : State :=
  match s.findLoad id with
  | none => s
  | some l => match l.parts, s.place l.key with
    | p :: _, some q => (match s.rowHolder (some (s.party l.tid)) q false with
      | some h => if l.stage = .atHome || l.stage = .dramDone || l.stage = .lockWait then s.raise l.tid l.serial (mkFault cLOCKED l.slot (partyTid h) p.va.toNat p.elem) else s
      | none => s)
    | _, _ => s

/-! Stores, atomics, CLAIMEL. -/
def State.findStore (s : State) (id : Nat) : Option StoreReq := s.stores.find? (·.id == id)
def State.dropStore (s : State) (id : Nat) : State := { s with stores := s.stores.filter (·.id != id) }
def ReqKind.key : ReqKind → Nat
  | .write c => (c.head?.map (·.1)).getD 0
  | .folds l => (l.head?.map (·.key)).getD 0
  | .atomic _ k .. => k
  | .claimel k .. => k
  | .row r => r.key
/-- The lines a request touches: one, or a row's eight. -/
def StoreReq.lines (r : StoreReq) : List Nat :=
  match r.kind with
  | .row w => linesOf w.key 1024
  | k => [lineOf k.key]
/-- The request may be performed: the thread's earlier requests for its lines have been (R171), and the writes of its MSPILLs (R210). -/
def State.turnOf (s : State) (r : StoreReq) : Bool :=
  let before := s.stores.takeWhile (fun q => q.id != r.id)
  !(before.any (fun q => q.tid == r.tid && q.team == r.team && q.tid.isSome && ((q.spill && !r.spill) || r.lines.any q.kind.touches))) &&
  !(s.trains.any (fun t => t.id < r.id && s.trainTid t == r.tid && t.team == r.team && r.tid.isSome && ((t.spill.isSome && !r.spill) || r.lines.any t.touches)))
/-- The time of a spill's write joins the witness operand of every younger request of its thread, those to come and those under way (R210). -/
def State.noteSpill (s : State) (id tid team : Nat) (t : Time) : State :=
  { s.updThread tid team (fun x => { x with spill := joinTime x.spill t }) with
    stores := s.stores.map (fun q => if q.tid == some tid && q.team == team && id < q.id && !q.spill then { q with w := joinTime q.w t } else q) }
/-- A payload write of a copy has been performed. -/
def State.copyWrote (s : State) (c : Nat × Nat) (t : Option Time) (e : Option Word) : State :=
  let k := s.tile c.1
  let q := mget CopyQueue.empty k.queues c.2
  let f := fun (x : CopyEntry) => if x.inFlight then
    { x with last := (match t with | some t => joinTime x.last t | none => x.last),
             failWit := (match x.failWit, e with | some w, _ => some w | none, e => e) } else x
  s.setTile c.1 { k with queues := mset CopyQueue.empty k.queues c.2 { q with entries := q.entries.map f } }
/-- A request ends: its answer, the thread's write times (R359), the spill's (R210), the copy's (R270). -/
def State.endStore (s : State) (r : StoreReq) (a : Answer) : State :=
  let s := (s.dropStore r.id).answer r.gid a
  let s := match r.tid, a.time with
    | some tid, some t => (if r.spill then s.noteSpill r.id tid r.team t else s).noteWrite tid r.team t
    | _, _ => s
  match r.copy with
  | some c => s.copyWrote c a.time a.error
  | none => s
/-- The error witness of R176 for a location. A scratchpad or cistern location, which has no physical address, is named by its key in `Memory`
(DESIGN CHOICE, log entry 63). -/
def lineError (cls key : Nat) : Word := errWitness cls key
/-- The failing location of a write in a line (R176): the first byte it writes there. -/
def firstKey (c : List Host.Cell) (line : Nat) : Nat :=
  ((c.filter (fun x => lineOf x.1 == line)).map (·.1)).foldl Nat.min (line * 128 + 127)
/-- Cells that cover their whole line. -/
def coversLine (c : List Host.Cell) (line : Nat) : Bool := (List.range 128).all (fun i => c.any (fun x => x.1 == line * 128 + i))
/-- Waits for the row, the snoop filter and DRAM; `none` where the request may be performed now. -/
def State.storeWaits (s : State) (r : StoreReq) (h : Nat) : Option State :=
  match s.gateAll r.who true (r.lines.map (· * 128)) with
  | some s => some s
  | none =>
    if !r.dram && r.lines.any (fun l => s.needsDram h l r.route) then
      some (s.askDram ((r.lines.find? (fun l => s.needsDram h l r.route)).getD 0) (.store r.id))
    else none
/-- Performs cells of one or more lines as one version. -/
def State.performAll (s : State) (h : Nat) (lines : List Nat) (cells : List Host.Cell) (t : Time) (route : Route) (compress : Bool) : State :=
  lines.foldl (fun s l => s.perform h l (cells.filter (fun c => lineOf c.1 == l)) t (nocacheRoute route) compress) s
def clearErr (s : State) (l : Nat) : State := s.setErr l .ok
/-- The cells a store-class request writes, from memory as it stands. -/
def State.reqCells (s : State) (k : ReqKind) : List Host.Cell :=
  match k with
  | .write c => c
  | .folds l => (l.foldl (fun (a : State × List Host.Cell) e =>
      let c := a.1.foldCells e
      ({ a.1 with mem := writeCells a.1.mem c }, a.2 ++ c)) (s, [])).2
  | .row r => r.merge (readByte s.mem)
  | _ => []
/-- A write to a HOST page leaves for the host (R411). -/
def State.sendStore (s : State) (r : StoreReq) : State :=
  if s.hostReqs.any (fun h => h.what == .store r.id) then s
  else { s with hostReqs := s.hostReqs ++ [HostReq.mk r.id (.store r.id)],
                out := s.out ++ [.hostWrite r.id ((s.reqCells r.kind).map (fun c => (c.1 - 2 ^ 50, c.2)))] }
/-- The request writes its whole line: an error there is of no account to it. -/
def ReqKind.whole : ReqKind → List Host.Cell → Nat → Bool
  | .write _, c, l => coversLine c l
  | _, _, _ => false
/-- HOME_STORE (R281): one version of the line, or of a row's lines, at the home it was routed to (R294); none there is (R296). -/
def homeStoreBody (id : Nat) (s : State) : State :=
  match s.findStore id with
  | none => s
  | some r =>
    if (match r.kind with | .atomic .. => true | .claimel .. => true | _ => false) || !s.turnOf r then s
    else if r.route = .host then s.sendStore r
    else match r.home with
      | none => s.endStore r ⟨none, none, some (lineError 5 r.kind.key)⟩
      | some h =>
        let s := r.lines.foldl (fun s l => s.scrubHeld h l) s
        let a := s.packetTo r.tile h
        let time := fun l => a.storeTime h l r.w r.floor (nocacheRoute r.route)
        let t := serialMaxL (r.lines.map time) (time (lineOf r.kind.key))
        if !s.underCeiling t then s
        else match s.storeWaits r h with
          | some s => s
          | none =>
            let cells := s.reqCells r.kind
            match r.lines.find? (fun l => s.lineBad (l * 128) && !r.kind.whole cells l) with
            | some l => (s.meetBad l).endStore r ⟨none, none, some (lineError 3 (firstKey cells l))⟩
            | none =>
              let s := (s.packetTo r.tile h).performAll h r.lines cells t r.route r.compress
              let s := r.lines.foldl (fun s l => if r.kind.whole cells l then clearErr s l else s) s
              (s.packetBack r.tile h).endStore r ⟨some t, none, none⟩
/-- An atomic or CLAIMEL of a location of another device leaves for it (R416): the operation in the request's beat as the instruction's
operands give it. -/
def atomicCode : AtomicOp → Nat
  | .add => 0x9A | .swap => 0x9B | .cas => 0x9C | .min => 0x9D | .max => 0x9E | .and => 0x9F | .or => 0xA0 | .xor => 0xA1
def atomicBeat (enc : List Word32) (k : ReqKind) (w floor : Option Time) : List Byte :=
  let wit := leBytes 8 (optWitness (joinTimes [w, floor])).toNat
  let code := ((enc ++ [0, 0]).take 2).flatMap (fun (x : Word32) => leBytes 4 x.toNat)
  match k with
  | .atomic _ _ _ b c _ => code ++ leBytes 8 b.toNat ++ leBytes 8 c.toNat ++ wit ++ List.replicate 32 0
  | .claimel _ _ count cap => code ++ leBytes 8 count.toNat ++ leBytes 8 cap ++ wit ++ List.replicate 32 0
  | _ => List.replicate 64 0
def State.sendAtomic (s : State) (r : StoreReq) : State :=
  if s.hostReqs.any (fun h => h.what == .store r.id) then s
  else
    let pa := r.kind.key
    let asid := match r.tid with | some t => (s.thread t).asid.toNat | none => 0
    let s := { s with hostReqs := s.hostReqs ++ [HostReq.mk r.id (.store r.id)] }
    s.sendMsg r.tile (s.peerOf pa) 5 asid (r.id % 2 ^ 32) (pa % 2 ^ 40) (s.tile r.tile).horizon [atomicBeat r.enc r.kind r.w r.floor]
/-- The bound under which an atomic that writes nothing reads: FLOOR, or the newest version's own time. -/
def State.readBound (s : State) (h l : Nat) (floor : Option Time) : Time := floor.getD (s.wts h l)
/-- What performing an atomic gives: the state, the old value, its witness time. -/
def State.doAtomic (s : State) (h : Nat) (op : AtomicOp) (key size : Nat) (b c : Word) (sx : Bool) (w floor : Option Time) (route : Route)
    (compress : Bool) : State × Word × Time :=
  let o := BitVec.ofNat 64 (readNat s.mem key size)
  let old := if sx then sextW o (8 * size) else o
  match atomicNew op size o b c sx with
  | some v =>
    let t := s.storeTime h (lineOf key) w floor (nocacheRoute route)
    (s.perform h (lineOf key) (cellsOf key (leBytes size v.toNat)) t (nocacheRoute route) compress, old, t)
  | none =>
    let v := s.serveLoad h (lineOf key) (s.readBound h (lineOf key) floor) none (nocacheRoute route) compress
    (v.st, old, v.wts)
/-- HOME_ATOMIC (R186). -/
def homeAtomicBody (id : Nat) (s : State) : State :=
  match s.findStore id with
  | none => s
  | some r => match r.kind with
    | .atomic op key size b c sx =>
      if !s.turnOf r then s
      else if r.route = .peer then s.sendAtomic r
      else match r.home with
        | none => s.endStore r ⟨none, none, some (lineError 5 key)⟩
        | some h =>
          let s := s.scrubHeld h (lineOf key)
          if !s.underCeiling ((s.packetTo r.tile h).storeTime h (lineOf key) r.w r.floor (nocacheRoute r.route)) then s
          else match s.storeWaits r h with
            | some s => s
            | none =>
              if s.lineBad key then (s.meetBad (lineOf key)).endStore r ⟨none, none, some (lineError 3 key)⟩
              else
                let y := (s.packetTo r.tile h).doAtomic h op key size b c sx r.w r.floor r.route r.compress
                ((y.1.dropOlderAt r.tile (lineOf key) y.2.2).packetBack r.tile h).endStore r ⟨some y.2.2, some y.2.1, none⟩
    | _ => s
/-- What a CLAIMEL grants (R194): g of next and end. -/
def claimGrant (next fin : Nat) (count : Word) (cap : Nat) : Nat := Nat.min count.toNat (Nat.min cap (fin - next))
def State.setGroupVl (s : State) (gid : Option Nat) (n : Nat) : State :=
  match gid with
  | some g => { s with groups := s.groups.map (fun x => if x.gid = g then { x with setVl := some n } else x) }
  | none => s
/-- The counter advances by g, or is read where nothing is left: the state and the witness time. -/
def State.doClaim (s : State) (h key next g : Nat) (w floor : Option Time) (route : Route) (compress : Bool) : State × Time :=
  if 0 < g then
    let t := s.storeTime h (lineOf key) w floor (nocacheRoute route)
    (s.perform h (lineOf key) (cellsOf key (leBytes 8 (next + g))) t (nocacheRoute route) compress, t)
  else let v := s.serveLoad h (lineOf key) (s.readBound h (lineOf key) floor) none (nocacheRoute route) compress; (v.st, v.wts)
/-- CLAIMEL_AT_HOME (R194). -/
def claimelAtHomeBody (id : Nat) (s : State) : State :=
  match s.findStore id with
  | none => s
  | some r => match r.kind with
    | .claimel key _ count cap =>
      if !s.turnOf r then s
      else if r.route = .peer then s.sendAtomic r
      else match r.home with
        | none => (s.setGroupVl r.gid 0).endStore r ⟨none, none, some (lineError 5 key)⟩
        | some h =>
          let s := s.scrubHeld h (lineOf key)
          let t := (s.packetTo r.tile h).storeTime h (lineOf key) r.w r.floor (nocacheRoute r.route)
          if !s.underCeiling t then s
          else match s.storeWaits r h with
            | some s => s
            | none =>
              if s.lineBad key then ((s.meetBad (lineOf key)).setGroupVl r.gid 0).endStore r ⟨none, none, some (lineError 3 key)⟩
              else
                let s := s.packetTo r.tile h
                let next := readNat s.mem key 8
                let g := claimGrant next (readNat s.mem (key + 8) 8) count cap
                let y := s.doClaim h key next g r.w r.floor r.route r.compress
                (((y.1.dropOlderAt r.tile (lineOf key) y.2).packetBack r.tile h).setGroupVl r.gid g).endStore r ⟨some y.2, some (BitVec.ofNat 64 next), none⟩
    | _ => s

/-! Walks (R381). -/
/-- The lines a walk reads, as far as it goes. -/
def walkLines (s : State) (cluster va : Nat) : Nat → Nat → Nat → List Nat
  | 0, _, _ => []
  | fuel + 1, lvl, t =>
    match s.entryAt cluster (t + 8 * vaIndex va lvl) with
    | .at k =>
      let e := readWord s.mem k
      lineOf k :: (if bitsAt e 0 1 = 0 || pteMalformed e lvl || bitsAt e 1 1 = 1 then [] else walkLines s cluster va fuel (lvl + 1) (bitsAt e 8 44 * 2 ^ 8))
    | _ => []
def State.linesOfWalk (s : State) (w : Walk) : List Nat :=
  match mget none s.asidTab w.asid.toNat with
  | some root => walkLines s w.cluster w.va 4 0 root
  | none => []
/-- The slices come to hold lines that an engine reads (walks, code): those that they do not are read from DRAM (R291, R427, R431). -/
def State.fetchLines (s : State) (compress : Bool) (lines : List Nat) : State :=
  lines.foldl (fun s l => match homeOf s (l * 128) with
    | some h => if s.needsDram h l .cached then ((s.openLine l).correctLine l).fillLine h l compress else s
    | none => s) s
/-- The walk has one of its cluster's 16 walkers; the others wait in the order of their arrival. -/
def State.walking (s : State) (w : Walk) : Bool := ((s.walks.filter (·.cluster == w.cluster)).take 16).any (·.id == w.id)
/-- The packets of a walk between its cluster and the homes of its lines (R302): the waiting tiles' HORIZONs go, the homes' clocks come back. -/
def State.walkPackets (s : State) (tiles lines : List Nat) : State :=
  let homes := (lines.filterMap (fun l => homeOf s (l * 128))).eraseDups
  let s := homes.foldl (fun s h => tiles.foldl (fun s n => s.packetTo n h) s) s
  homes.foldl (fun s h => tiles.foldl (fun s n => s.packetBack n h) s) s
/-- PAGE_WALK_END: waits at the homes as loads do (R245, R323, R326, R412), then installs the leaf where it stands, or tells the waiters of the fault. -/
def pageWalkEndBody (id : Nat) (s : State) : State :=
  match s.walks.find? (·.id == id) with
  | none => s
  | some w =>
   if !s.walking w then s else
   let lines := s.linesOfWalk w
   match s.engineGate none false .cached (lines.map (· * 128)) with
   | some s => s
   | none =>
    let s := (s.fetchLines false lines).walkPackets w.tiles lines
    let r := walk s w.cluster w.asid w.va
    let s := { s with walks := s.walks.filter (·.id != id) }
    let s := match r with
      | .leaf e => s.installTlb w.cluster w.tiles e
      | .fault i => if i % 256 = 3 then lines.foldl State.meetBad s else s
      | .held => s
    let code := match r with | .leaf _ => walkedOk | .fault i => i | .held => 0
    let s := w.engines.foldl (fun s n => s.markWalked n w.asid w.va) s
    w.waiters.foldl (fun s tid => let t := s.thread tid; s.setThread tid { t with walkFaults := t.walkFaults ++ [(w.asid.toNat, w.va, code)] }) s

/-! Time (R300, R302, R303). -/
/-- CEILING_ADVANCE (R300). -/
def ceilingAdvanceBody (s : State) : State := { s with ceiling := s.ceiling + 131072 }
/-- The serial maximum of a cluster's home clocks: its slice, its tiles' scratchpads, its cistern. -/
def clusterHomes (c : Nat) : List Nat := c :: (72 + c) :: (List.range 8).map (fun i => 8 + 8 * c + i)
def State.clusterClock (s : State) (c : Nat) : Time := serialMaxL ((clusterHomes c).map s.clock) (s.clock c)
/-- CLUSTER_TIME_BROADCAST (R302). -/
def clusterTimeBroadcastBody (c : Nat) (s : State) : State := (List.range 8).foldl (fun s i => s.raiseHorizon (8 * c + i) (s.clusterClock c)) s
def sweepLine (oneClock : Bool) (r : Time) (x : LineT) : LineT :=
  if lagging r (if oneClock then x.wts else x.rts) then { x with wts := r - sweepSpan, rts := r - sweepSpan } else x
/-- LEASE_SWEEP (R303): one visit of every entry. -/
def State.sweepCluster (s : State) (c : Nat) : State :=
  let k := s.cluster c
  s.setCluster c { k with mts := if lagging (s.clock c) k.mts then s.clock c - sweepSpan else k.mts,
                          rdc := k.rdc.filter (fun x => !lagging (s.clusterClock c) x.rts) }
def leaseSweepBody (s : State) : State :=
  let lines := s.lines.map (fun e => match homeOf s (e.1 * 128) with
    | some h => (e.1, if isSlice h && !e.2.held then e.2 else sweepLine (!isSlice h) (s.clock h) e.2)
    | none => e)
  (List.range 8).foldl State.sweepCluster { s with
    lines := lines
    hostLast := s.hostLast.map (fun t => if lagging s.ceiling t then s.ceiling - sweepSpan else t)
    tiles := s.tiles.map (fun e => (e.1, { e.2 with l1 := e.2.l1.filter (fun c => !lagging e.2.horizon c.rts) }))
    threads := s.threads.map (fun e =>
      let h := (s.tile e.2.tile).horizon
      (e.1, if (e.2.status = .running || e.2.status = .stopping) && lagging h e.2.floor then { e.2 with floor := h - sweepSpan } else e.2)) }

/-! The events. -/
def execHomeLoad (req : Nat) (s : State) : Host.Outcome State Fault Refusal := .next (homeLoadBody req s)
def execHomeStore (req : Nat) (s : State) : Host.Outcome State Fault Refusal := .next (homeStoreBody req s)
def execHomeAtomic (req : Nat) (s : State) : Host.Outcome State Fault Refusal := .next (homeAtomicBody req s)
def execClaimelAtHome (req : Nat) (s : State) : Host.Outcome State Fault Refusal := .next (claimelAtHomeBody req s)
def execMwaitWake (req : Nat) (s : State) : Host.Outcome State Fault Refusal := .next (mwaitWakeBody req s)
def execMwaitExpiry (req : Nat) (s : State) : Host.Outcome State Fault Refusal := .next (mwaitExpiryBody req s)
def execL1Renewal (req : Nat) (s : State) : Host.Outcome State Fault Refusal := .next (l1RenewalBody req s)
def execRdcRenewal (req : Nat) (s : State) : Host.Outcome State Fault Refusal := .next (rdcRenewalBody req s)
def execLeaseSweep (s : State) : Host.Outcome State Fault Refusal := .next (leaseSweepBody s)
def execCeilingAdvance (s : State) : Host.Outcome State Fault Refusal := .next (ceilingAdvanceBody s)
def execClusterTimeBroadcast (cluster : Nat) (s : State) : Host.Outcome State Fault Refusal := .next (clusterTimeBroadcastBody cluster s)
def execPageWalkEnd (w : Nat) (s : State) : Host.Outcome State Fault Refusal := .next (pageWalkEndBody w s)
def execLockedTimeout (req : Nat) (s : State) : Host.Outcome State Fault Refusal := .next (lockedTimeoutBody req s)

end Sys2Proof.Machine
end

