-- ==== Sys2Proof/Machine/Trains.lean ====
section
/-! DEFINITION. Element trains (R184, R336 to R339): how they leave, how a destination performs and acknowledges them. -/
namespace Sys2Proof.Machine

/-! Sending (R336, R337). -/
/-- Where an element goes: its own cluster, another cluster's slice or cistern, or 8 + a device. Scratchpads are reached without trains. -/
def State.trainDest (s : State) (tile key : Nat) (route : Route) : Option Nat :=
  if route = .peer then some (8 + s.peerOf key)
  else match homeOf s key with
    | some h => if (h < 8 || 72 ≤ h) && homeCluster h != clusterOfTile tile then some (homeCluster h) else none
    | none => none
def TrainEl.size (e : TrainEl) : Nat := match e.fold with | some f => foldBytes f.fmt | none => e.bytes.length
def Train.size (t : Train) : Nat := (t.els.head?.map TrainEl.size).getD 1
def Train.fmt (t : Train) : Nat := ((t.els.head?.bind (·.fold)).map (·.fmt)).getD 0
def Train.fop (t : Train) : Nat := if 3 ≤ t.kind then ((t.els.head?.bind (·.fold)).map (·.fop)).getD 0 else 0
/-- The header beat. -/
def Train.header (t : Train) (ord : Bool) (time : Time) (dev : Nat) : List Byte :=
  leBytes 1 t.kind ++ leBytes 1 (Nat.log2 t.size + (if ord then 4 else 0)) ++ leBytes 1 t.fmt ++ leBytes 1 t.fop ++ leBytes 4 t.no.toNat ++
    leBytes 8 time.toNat ++ leBytes 8 (optWitness t.w).toNat ++ leBytes 2 dev ++ leBytes 2 t.asid.toNat ++ leBytes 4 t.strip ++ List.replicate 32 0
/-- An entry: the destination's local address and the data. -/
def TrainEl.entry (e : TrainEl) : List Byte :=
  leBytes 8 (e.key % 2 ^ 40) ++ (match e.fold with
    | some f => leBytes 8 f.val.toNat
    | none => (e.bytes ++ List.replicate 8 0).take 8)
/-- A list in pieces of n. -/
def piecesOf {α : Type} (n : Nat) : Nat → List α → List (List α)
  | 0, _ => []
  | f + 1, l => if l.isEmpty then [] else l.take n :: piecesOf n f (l.drop n)
def padBeat (l : List Byte) : List Byte := (l ++ List.replicate 64 0).take 64
def Train.beats (t : Train) (ord : Bool) (time : Time) (dev : Nat) : List (List Byte) :=
  [t.header ord time dev] ++ (piecesOf 4 t.els.length t.els).map (fun l => padBeat (l.flatMap TrainEl.entry)) ++
    [padBeat (leBytes 4 t.els.length ++ leBytes 4 t.no.toNat)]
/-- TRAIN: the tile's index and its train number. -/
def trainNumber (tile n : Nat) : BitVec 32 := BitVec.ofNat 32 (tile % 64 * 2 ^ 26 + n % 2 ^ 26)
/-- The owner tag of the cistern allocation a key lies in, 0 for none (R339). -/
def State.cisternTag (s : State) (key : Nat) : Nat :=
  if key < 2 ^ 53 then 0
  else match s.cisternAt ((key - 2 ^ 53) / 2 ^ 26) (key % 2 ^ 26) 1 with | some a => ownerTag a.id a.gen | none => 0
/-- Sends a train, if it has elements; to another device as TYPE 1 messages of at most seven beats (R413). -/
def State.launchTrain (s : State) (t : Train) (ord : Bool) : State :=
  if t.els.isEmpty then s
  else
    let r := s.tick
    let s := r.2
    let x := s.tile t.tile
    let t := { t with id := r.1, no := trainNumber t.tile x.trainNo, els := t.els.map (fun e => { e with tag := s.cisternTag e.key }) }
    let s : State := { s.setTile t.tile { x with trainNo := x.trainNo + 1 } with trains := s.trains ++ [t] }
    if t.dest < 8 then s
    else
      let beats := t.beats ord x.horizon s.deviceNo.toNat
      (piecesOf 7 beats.length beats).foldl (fun s l => s.sendMsg t.tile (t.dest - 8) 1 t.asid.toNat t.no.toNat 0 x.horizon l) s
/-- The trains of a list of elements, one for each destination; what stays is for the homes of the cluster. -/
def State.trainDests (s : State) (tile : Nat) (els : List TrainEl) : List Nat := (els.filterMap (fun e => s.trainDest tile e.key e.route)).eraseDups
def State.launchTrains (s : State) (t : Train) (ord : Bool) (els : List TrainEl) : State :=
  (s.trainDests t.tile els).foldl (fun s d =>
    s.launchTrain { t with dest := d, els := els.filter (fun e => s.trainDest t.tile e.key e.route == some d) } ord) s
/-- A train as yet without number, destination and elements. -/
def trainOf (kind tile team : Nat) (asid : BitVec 12) (w floor : Option Time) (gid : Option Nat) (who : Option Nat)
    (copy : Option (Nat × Nat)) (strip : Nat) : Train :=
  { id := 0, no := 0, dest := 0, kind := kind, els := [], w := w, floor := floor, tile := tile, team := team, asid := asid, gid := gid, copy := copy,
    count := 0, performed := 0, time := none, error := none, inbound := none, who := who, strip := strip, tailed := false,
    done := 0, whole := true, spill := none }

/-! Performing (R338, R339). -/
def State.findTrain (s : State) (id : Nat) : Option Train := s.trains.find? (·.id == id)
def State.updTrain (s : State) (id : Nat) (f : Train → Train) : State := { s with trains := s.trains.map (fun t => if t.id = id then f t else t) }
def State.dropTrain (s : State) (id : Nat) : State := { s with trains := s.trains.filter (·.id != id) }
/-- The train is performed on this device. -/
def Train.here (t : Train) : Bool := t.dest < 8 || t.inbound.isSome
/-- The thread's earlier requests for the line have been performed (R171), and the earlier trains of a peer's stream (R415). -/
def State.trainTurn (s : State) (t : Train) (line : Nat) : Bool :=
  !(s.stores.any (fun r => r.id < t.id && r.tid.isSome && r.tid == s.trainTid t && r.kind.touches line)) &&
  !(s.trains.any (fun u => u.id < t.id && u.touches line && (((s.trainTid u).isSome && s.trainTid u == s.trainTid t) ||
    (u.inbound.isSome && u.inbound == t.inbound && u.no.toNat / 2 ^ 26 == t.no.toNat / 2 ^ 26))))
/-- The elements of a line are dealt with together: those brought forward, the others after them in their order. -/
def Train.next (t : Train) (mine : List TrainEl) (done : Nat) (time : Option Time) (e : Option Word) : Train :=
  { t with els := t.els.take t.performed ++ mine ++ (t.els.drop t.performed).filter (fun x => !mine.contains x), performed := t.performed + mine.length,
           done := t.done + done, time := (match time with | some x => joinTime t.time x | none => t.time), error := joinError t.error e }
/-- The elements still to be performed that lie in the next one's line: a train makes one version of a line (R304). -/
def Train.lineEls (t : Train) : List TrainEl :=
  match t.els.drop t.performed with
  | [] => []
  | e :: r => e :: r.filter (fun x => lineOf x.key == lineOf e.key)
/-- The elements have all come, or need not be performed together: those of a copy do not (R304, R338; DEDUCED, log entry 66). -/
def Train.ready (t : Train) : Bool := t.whole || t.strip != 0 || 3 ≤ t.kind
/-- The cells elements write, one after the other. -/
def State.trainCells (s : State) : List TrainEl → List Host.Cell
  | [] => []
  | e :: r =>
    let c := match e.fold with
      | some f => s.foldCells { f with key := e.key }
      | none => cellsOf e.key e.bytes
    c ++ State.trainCells { s with mem := writeCells s.mem c } r
/-- The allocation of a cistern byte is the train's own still, under the owner tag it had (R339). -/
def State.trainOwns (s : State) (t : Train) (e : TrainEl) : Bool :=
  e.key < 2 ^ 53 || (match s.cisternAt ((e.key - 2 ^ 53) / 2 ^ 26) (e.key % 2 ^ 26) 1 with
    | some a => a.asid == t.asid && a.rw && ownerTag a.id a.gen == e.tag
    | none => false)
/-- The device serves the ASID's messages: it has a running queue, and none of its contexts has been killed since one was enabled (R417, R420). -/
def State.asidServed (s : State) (a : BitVec 12) : Bool := s.hostQ.any (fun e => e.2.running && e.2.asid == a) && !s.refused.contains a
/-- The home of an element; an element of a peer names a physical address below 768 GiB (R413). -/
def State.trainHome (s : State) (t : Train) (key : Nat) : Option Nat :=
  if t.inbound.isSome && Config.dramBytes ≤ key then none else homeOf s key
/-- Elements of one line performed as one version; the line's error meets those that do not write all of it. -/
def State.performEls (s : State) (t : Train) (h : Nat) (els : List TrainEl) (key : Nat) (route : Route) : State :=
  let s := s.scrubHeld h (lineOf key)
  let cells := s.trainCells els
  let whole := coversLine cells (lineOf key) && els.all (fun e => e.fold.isNone)
  if s.lineBad key && !whole then (s.meetBad (lineOf key)).updTrain t.id (·.next els 0 none (joinErrors (els.map (fun e => errWitness 3 e.key))))
  else
    let s := if t.inbound.isSome then s else s.packetTo t.tile h
    match s.storeAt key cells t.w t.floor route (els.any (·.compress)) with
    | some y => (if whole then clearErr y.1 (lineOf key) else y.1).updTrain t.id (·.next els els.length (some y.2) none)
    | none => s
/-- TRAIN_ELEMENT: the next elements at their home, as one version of their line. -/
def trainElementBody (id : Nat) (s : State) : State :=
  match s.findTrain id with
  | none => s
  | some t =>
    match (if t.here && t.ready then t.lineEls else []) with
    | [] => s
    | e :: r =>
      let els := e :: r
      let skip (f : TrainEl → Word) : State := s.updTrain id (·.next els 0 none (joinErrors (els.map f)))
      if !s.trainTurn t (lineOf e.key) then s
      else if t.inbound.isSome && !s.asidServed t.asid then skip (fun _ => errWitness 1 t.strip)
      else match s.trainHome t e.key with
        | none => skip (fun e => errWitness 5 e.key)
        | some h =>
          if els.any (fun x => !s.trainOwns t x) then skip (fun _ => errWitness 1 t.strip)
          else if !s.underCeiling (s.storeTime h (lineOf e.key) t.w t.floor (nocacheRoute e.route)) then s
          else match s.engineGate t.who true e.route [e.key] with
            | some s => s
            | none => s.performEls t h els e.key e.route
/-- The clock of the home that the last element went to (R302); a train without one is answered by the slice of cluster 0 (log entry 22). -/
def State.trainClock (s : State) (t : Train) : Option Time :=
  (t.els.getLast?.bind (fun e => homeOf s e.key)).map s.clock
/-- The acknowledgement beat of R338. -/
def Train.ackBeat (t : Train) : List Byte :=
  padBeat (leBytes 4 t.no.toNat ++ leBytes 4 t.done ++ leBytes 8 (match t.error with | some e => e | none => optWitness t.time).toNat)
/-- TRAIN_TAIL: the tail follows the last element; the acknowledgement leaves. -/
def trainTailBody (id : Nat) (s : State) : State :=
  match s.findTrain id with
  | none => s
  | some t =>
    if !t.here || !t.whole || t.performed < t.els.length || t.tailed then s
    else match t.inbound with
      | none => s.updTrain id (fun t => { t with tailed := true })
      | some dev =>
        (s.dropTrain id).sendAnswer (t.no.toNat / 2 ^ 26) dev 2 t.asid.toNat t.no.toNat ((s.trainClock t).getD (s.clock 0)) [t.ackBeat]
/-- An error witness of a peer, its address as this device names it (R176): that of the element it speaks of, in the peer window. A refused train's
number stays (R339). -/
def Train.localError (t : Train) (w : Word) : Word :=
  let cls := bitsAt w 56 6; let d := bitsAt w 0 56
  if t.dest < 8 || (cls != 3 && cls != 5) || (cls == 5 && d == t.no.toNat) then w
  else match t.els.find? (fun e => e.key % 2 ^ 40 == d % 2 ^ 40) with
    | some e => errWitness cls e.key
    | none => w
/-- An acknowledgement reaches the sender: the deferred result, the write times (R359), the copy, whose stamp takes an error witness as it is (R270, R339). -/
def State.trainAcked (s : State) (t : Train) (time : Option Time) (error : Option Word) : State :=
  let owner := s.trainTid t
  let s := s.dropTrain t.id
  let s := match owner, time with
    | some i, some x => (if t.spill.isSome then s.noteSpill t.id i t.team x else s).noteWrite i t.team x
    | _, _ => s
  let s := s.answer t.gid ⟨time, none, error.map t.localError⟩
  match t.copy with
  | some c => s.copyWrote c time error
  | none => s
/-- TRAIN_ACK of a train within the device; those of other devices come as messages (R413). -/
def trainAckBody (id : Nat) (s : State) : State :=
  match s.findTrain id with
  | none => s
  | some t =>
    if !t.tailed then s
    else (match s.trainClock t with | some c => s.raiseHorizon t.tile c | none => s).trainAcked t t.time t.error
/-- The address a PARTNER witness names: that of the train's first element (R298). -/
def Train.address (t : Train) : Nat := (t.els.head?.map (·.key)).getD 0
/-- TRAIN_ACK_TIMEOUT: the sender proceeds with a PARTNER error witness. -/
def trainAckTimeoutBody (id : Nat) (s : State) : State :=
  match s.findTrain id with
  | none => s
  | some t => if t.inbound.isSome || t.tailed then s else s.trainAcked t none (some (errWitness 2 t.address))

def execTrainElement (t : Nat) (s : State) : Host.Outcome State Fault Refusal := .next (trainElementBody t s)
def execTrainTail (t : Nat) (s : State) : Host.Outcome State Fault Refusal := .next (trainTailBody t s)
def execTrainAck (t : Nat) (s : State) : Host.Outcome State Fault Refusal := .next (trainAckBody t s)
def execTrainAckTimeout (t : Nat) (s : State) : Host.Outcome State Fault Refusal := .next (trainAckTimeoutBody t s)

end Sys2Proof.Machine
end

