-- ==== Sys2Proof/Machine/Regions.lean ====
section
/-! DEFINITION. Regions (R367 to R371): nodes, effective values, budgets. Queue control blocks (R353). What a START asks of a tile and which
waiting START comes first (R361, R362, R372), and the groups a thread gives up for it (R111, R125, R402). -/
namespace Sys2Proof.Machine

/-! Regions. -/
def State.region (s : State) (asid : BitVec 12) (a : Word) : Option Region := s.regions.find? (fun r => r.asid == asid && r.addr == a)
def State.setRegion (s : State) (r : Region) : State :=
  { s with regions := s.regions.map (fun x => if x.asid = r.asid && x.addr = r.addr then r else x) }
/-- A node and its ancestors, nearest first. -/
def lineageOf (s : State) (asid : BitVec 12) : Nat → Word → List Region
  | 0, _ => []
  | n + 1, a => match s.region asid a with
    | some r => r :: (if r.parent = 0 then [] else lineageOf s asid n r.parent)
    | none => []
def State.lineage (s : State) (asid : BitVec 12) (a : Word) : List Region := lineageOf s asid (s.regions.length + 1) a
/-- The nearest node that sets field f itself (R369). -/
def State.settingNode (s : State) (asid : BitVec 12) (a : Word) (f : Nat) : Option Region := (s.lineage asid a).find? (fun r => r.mask.getLsbD f)
def State.prioOf (s : State) (asid : BitVec 12) (a : Word) : Nat := ((s.settingNode asid a 0).map (·.prio)).getD 8
def State.fdomOf (s : State) (asid : BitVec 12) (a : Word) : Nat := ((s.settingNode asid a 1).map (·.fdom)).getD 0
/-- A budget k of a node is exhausted (R370). -/
def Region.exhausted (r : Region) (k : Nat) : Bool :=
  r.mask.getLsbD (2 + k) && (r.limit[k]?.getD 0) != BitVec.allOnes 64 && (r.limit[k]?.getD 0).toNat ≤ (r.used[k]?.getD 0).toNat
def Region.spent (r : Region) : Bool := (List.range 4).any r.exhausted
/-- No START, COPY or PLANE of the region starts. -/
def State.drawsSpent (s : State) (asid : BitVec 12) (a : Word) : Bool := (s.lineage asid a).any Region.spent
def Thread.prio (t : Thread) (s : State) : Nat := s.prioOf (s.teamAsid t.team t.asid) t.region

/-! Queue control blocks. -/
def State.qcbKey (s : State) (q : Nat) : Nat := s.mgr.qcbtPa + 64 * q
/-- The QCB at its home's newest version. -/
def State.qcb (s : State) (q : Nat) : Qcb :=
  let k := s.qcbKey q
  let f := fun o n => readNat s.mem (k + o) n
  ⟨readWord s.mem k, f 8 1, f 9 1, f 10 1, BitVec.ofNat 12 (f 12 2), f 14 2, f 16 4, readWord s.mem (k + 24)⟩

/-! START (R361). -/
structure StartPacket where
  entry : Word
  nthr : Nat
  grp : Nat
  ceil : Nat
  place : Nat
  rcb : Word
  arg : Word
  spad : Nat
  deriving DecidableEq, Repr
def fieldAt (b : List Byte) (o n : Nat) : Nat := leNat ((b.drop o).take n)
def startOf (b : List Byte) : StartPacket :=
  ⟨BitVec.ofNat 64 (fieldAt b 16 8), fieldAt b 24 1, fieldAt b 25 1, fieldAt b 26 2, fieldAt b 28 1, BitVec.ofNat 64 (fieldAt b 32 8),
   BitVec.ofNat 64 (fieldAt b 40 8), fieldAt b 48 4⟩
def StartPacket.units (p : StartPacket) : Nat := (p.spad + 16383) / 16384
def StartPacket.admits (p : StartPacket) (tile : Nat) : Bool := p.place == 0xFF || p.place == tile || (0x80 ≤ p.place && tile / 8 == p.place % 8)
def Thread.here (t : Thread) : Bool := t.status != .absent && t.status != .ended
/-- The threads on a control core. -/
def State.coreThreads (s : State) (core : Nat) : List Nat := (s.threads.filter (fun e => e.2.here && e.2.core == core)).map (·.1)
/-- Free places of a control core, as thread numbers: four threads at most; numbers of saved threads come last. -/
def State.corePlaces (s : State) (core : Nat) : List Nat :=
  let l := ((List.range 4).map (· + 4 * core)).filter (fun i => !(s.thread i).here)
  let kept := fun (i : Nat) => s.saved.any (fun e => e.1 == i)
  ((l.filter (fun i => !kept i)) ++ l.filter kept).take (4 - (s.coreThreads core).length)
/-- Free user-thread places of a tile. -/
def State.freePlaces (s : State) (tile : Nat) : List Nat := ((List.range 8).map (· + 8 * tile)).flatMap s.corePlaces
/-- A copy strip that has passed its owner-tag comparison still writes a byte of a range: its space is not free yet (R333). -/
def ReqKind.keys : ReqKind → List Nat
  | .write c => c.map (·.1)
  | .folds l => l.map (·.key)
  | _ => []
def State.stripWrites (s : State) (lo n : Nat) : Bool :=
  let hit := fun (k : Nat) => lo ≤ k && k < lo + n
  s.stores.any (fun r => r.copy.isSome && r.kind.keys.any hit) || s.trains.any (fun t => t.copy.isSome && t.els.any (fun e => hit e.key))
/-- The lowest free run of units of a tile's scratchpad, of its 256 (R275). -/
def unitFree (l : List Alloc) (u n : Nat) : Bool := l.all (fun a => !(u < a.unit + a.units && a.unit < u + n))
def State.unitRun (s : State) (tile n : Nat) : Option Nat :=
  let l := s.allocs.filter (fun a => a.tile == tile)
  if n = 0 then some 0
  else (List.range (257 - n)).find? (fun u => unitFree l u n)
/-- A START of an ASID can start on a tile (R362). -/
def State.canStart (s : State) (asid : BitVec 12) (p : StartPacket) (tile : Nat) : Bool :=
  let t := s.tile tile
  p.admits tile && !t.retired && p.nthr * p.grp ≤ groupsOf t.free && p.nthr ≤ (s.freePlaces tile).length && (s.unitRun tile p.units).isSome &&
    !s.drawsSpent asid p.rcb
/-- The tile it starts on: the most free groups, ties to the lowest index. -/
def bestTile (s : State) : List Nat → Option Nat
  | [] => none
  | t :: r => match bestTile s r with
    | none => some t
    | some u => if groupsOf (s.tile u).free ≤ groupsOf (s.tile t).free then some t else some u
def State.startTile (s : State) (asid : BitVec 12) (p : StartPacket) : Option Nat := bestTile s ((List.range 64).filter (s.canStart asid p))

/-! Waiting STARTs (R372). -/
/-- The START that waits at a queue's head, once its checks and FENCE let it. -/
def State.waitingStart (s : State) (q : Nat) : Option (BitVec 12 × StartPacket) :=
  ((s.queue q).head.filter (·.waited)).map (fun p => ((s.queue q).asid, startOf p.bytes))
/-- The best of the queues given, in order of arrival: the highest effective PRIO, then the earliest. -/
def bestStart (s : State) : List Nat → Option (Nat × Nat)
  | [] => none
  | q :: r => match s.waitingStart q with
    | none => bestStart s r
    | some (a, p) =>
      let n := s.prioOf a p.rcb
      match bestStart s r with
      | none => some (q, n)
      | some b => if n < b.2 then some b else some (q, n)

/-! Renegotiation (R111, R125). -/
/-- The groups a thread gives up: for the highest-priority waiting START above its own that its tile's place meets, as many of the highest-indexed
groups as that START lacks, down to `least`. R111 lets the allocator take groups and does not say how many (DESIGN CHOICE, log entry 63). -/
def State.yieldGroups (s : State) (tid least : Nat) : List Nat :=
  let t := s.thread tid
  let fits := s.waiting.filter (fun q => match s.waitingStart q with
    | some (a, p) => p.admits t.tile && t.prio s < s.prioOf a p.rcb && groupsOf (s.tile t.tile).free < p.nthr * p.grp
    | none => false)
  match (bestStart s fits).bind (fun b => s.waitingStart b.1) with
  | none => []
  | some (_, p) =>
    let need := p.nthr * p.grp - groupsOf (s.tile t.tile).free
    (groupList t.lanes).reverse.take (Nat.min need (t.groups - least))
/-- A thread's grant becomes another: groups return to the tile and leave it. -/
def State.regrantTo (s : State) (tid : Nat) (lanes : BitVec 16) : State :=
  let t := s.thread tid
  let s := s.freeGroups t.tile (t.lanes &&& ~~~lanes)
  let s := s.takeGroups t.tile (lanes &&& ~~~t.lanes)
  s.setThread tid (t.regrant lanes)
def State.renegotiate (s : State) (tid least : Nat) : State :=
  let g := s.yieldGroups tid least
  if g.isEmpty then s else s.regrantTo tid ((s.thread tid).lanes &&& ~~~(groupMask g))

end Sys2Proof.Machine
end

