-- ==== Sys2Proof/Machine/Commit.lean ====
section
/-! DEFINITION. BLOCK_COMMIT (R26, R29 to R33, R108 to R113, R116, R118, R122 to R125): when a block may commit, its register writes and
deferred results, its requests in LSID order, its matrix effects in MSID order, its engine launches, its exit. -/
namespace Sys2Proof.Machine

/-! Completion (R26). -/
abbrev Slots := List (Nat × Raw)
/-- The slot's P has decided, or has arrived with every operand it needs, and it waits for no instruction of the block that lacks one. -/
def BlockExec.canFire (b : BlockExec) (k : Nat) (r : Raw) : Bool :=
  !b.stuck.contains k &&
  (match decisionOf r (b.tok k .p) with
   | .waits => false
   | .declines => true
   | .wrong => true
   | .fires _ => r.takes.all (fun e => (b.tok k e.1).isSome))
def BlockExec.openSlots (b : BlockExec) : Slots := (b.slotsOf (fun _ => true)).filter (fun e => !b.resolved e.1)
/-- A block is complete when its exit has fired, its register writes and stores have resolved, what it has fired has delivered, and nothing in
it can still fire (R20, R26, R45: an instruction all of whose operands have come fires; one that never does holds nothing back). -/
def BlockExec.complete (b : BlockExec) : Bool :=
  b.decoded && b.held.isNone && b.exit.isSome && b.awaiting.isEmpty &&
    (b.slotsOf (fun r => r.op.writesReg || r.op.store)).all (fun e => b.resolved e.1) && b.openSlots.all (fun e => !b.canFire e.1 e.2)
/-- TBLOCK as the block's commit leaves it (R116). -/
def BlockExec.tblockAfter (b : BlockExec) (t : Thread) : Word :=
  match b.effects.find? (fun e => match e.eff with | .csrw 0x101 _ => true | _ => false) with
  | some ⟨_, .csrw _ v⟩ => v &&& ~~~63
  | _ => t.tblock
/-- An ERET whose TBLOCK lies outside the global window aborts its block (R116, R384). -/
def BlockExec.eretFault (b : BlockExec) (t : Thread) : Option FaultRec :=
  match b.effects.find? (fun e => e.eff == .eret) with
  | some e => if bitsAt (b.tblockAfter t) 56 8 ≠ 0 then some (mkFault cNONCANON e.slot 0 (b.tblockAfter t).toNat 0) else none
  | none => none
def BlockExec.effs (b : BlockExec) : List Effect := b.effects.map (·.eff)
/-- A thread whose blocks may fire and commit: running, or within the grace of a pre-emption (R391). -/
def Thread.live (t : Thread) : Bool := t.status == .running || t.status == .stopping

/-! What a commit waits for. -/
def Effect.fences : Effect → Bool
  | .eret => true
  | .tlbinv .. => true
  | .csrw c _ => c == 0x111
  | _ => false
def tlbScope (va ctl : Word) : TlbScope :=
  match bitsAt ctl 12 2 with
  | 0 => .page (ctl.setWidth 12) (bitsAt va 0 56)
  | 1 => .asid (ctl.setWidth 12)
  | _ => .all
/-- A store of the thread has not been performed yet (R116, R123). -/
def State.storesOpen (s : State) (tid : Nat) : Bool := !(s.ownStores tid).isEmpty || !(s.ownTrains tid).isEmpty
def Effect.isLoad : Effect → Bool
  | .mx _ (.wload _) => true
  | .mx _ (.wloada _) => true
  | _ => false
/-- The launches of a block find room one after the other (R249). -/
def roomFor (s : State) (tid : Nat) : List Effect → Bool
  | [] => true
  | .plaunch l :: r => (s.cluster l.cluster).hasRoom l && roomFor (s.acceptLaunch (s.party tid) l none) tid r
  | _ :: r => roomFor s tid r
/-- The copy queue an effect adds to. -/
def Effect.copyTo : Effect → Option Nat
  | .cpgo v => some (Shadow.queue v)
  | .cpqf q _ => some q
  | _ => none
def copiesTo (l : List Effect) (q : Nat) : Nat := (l.filter (fun e => e.copyTo == some q)).length
def State.queueRoom (s : State) (tile : Nat) (l : List Effect) (q : Nat) : Bool :=
  copiesTo l q = 0 || (s.copyQueue tile q).entries.length + copiesTo l q ≤ 16
/-- An effect that enters an engine's queue. -/
def Effect.enters : Effect → Bool
  | .plaunch _ | .cpgo _ | .cpqf .. => true
  | _ => false
def launchesOf (l : List Effect) : List Launch := l.filterMap (fun e => match e with | .plaunch l => some l | _ => none)
/-- The block asks of a queue or of the furrow store more than it holds at all (R249, R266, R320): its entries are made one by one, ahead of its
commit (DEDUCED, log entry 67). -/
def overfull (l : List Effect) : Bool :=
  (List.range 8).any (fun q => 16 < copiesTo l q) ||
  (List.range 8).any (fun c =>
    let m := (launchesOf l).filter (·.cluster == c)
    64 < m.length || 16 < (m.map Launch.key).eraseDups.length)
def Effect.setsVl : Effect → Bool
  | .setvl .. => true
  | .lclaim _ => true
  | .claimel .. => true
  | _ => false
def Effect.isMclaim : Effect → Bool
  | .mclaim _ => true
  | _ => false
/-- Effects that wait at the commit while the back plane is FILLING: its spill (R210), and its MFILL (R211). -/
def Effect.needsBack : Effect → Bool
  | .mx _ (.spill _ true) => true
  | .mx _ (.plane false _) => true
  | _ => false
/-- Elements of a vector instruction that leave in trains (R336). -/
def trainElOf (e : StoreEl) : TrainEl := ⟨e.key, e.bytes, none, e.route, e.compress, 0⟩
def trainFoldOf (e : FoldEl) : TrainEl := ⟨e.key, [], some e, e.route, e.compress, 0⟩
def State.leaves (s : State) (tile : Nat) : Effect → Bool
  | .store _ els _ => els.any (fun e => (s.trainDest tile e.key e.route).isSome)
  | .adds _ els => els.any (fun e => (s.trainDest tile e.key e.route).isSome)
  | _ => false
/-- A spill of the thread is on its way (R210). -/
def State.spilling (s : State) (tid : Nat) : Bool := (s.ownStores tid).any (·.spill) || (s.ownTrains tid).any (·.spill.isSome)
/-- Nothing that the effects of a complete oldest block wait for is outstanding, room in queues aside. -/
def State.effectsClear (s : State) (tid : Nat) (l : List Effect) : Bool :=
  let t := s.thread tid
  !(l.any Effect.fences && s.storesOpen tid) &&
  l.all (fun e => match e with
    | .tlbinv va c => !s.walkPending (tlbScope va c)
    | .csrw c _ => c != 0x111 || !s.walkPending (.asid t.asid)
    | _ => true) &&
  !(t.vlOut != 0 && l.any Effect.setsVl) && !(t.mclaimOut && l.any Effect.isMclaim) &&
  !(l.any Effect.needsBack && (s.tile t.tile).mx.backSt == .filling) &&
  !(s.spilling tid && l.any (s.leaves t.tile))
def State.effectsReady (s : State) (tid : Nat) (l : List Effect) : Bool :=
  s.effectsClear tid l && roomFor s tid l && (List.range 8).all (s.queueRoom (s.tileOf tid) l)
/-- The oldest block of a thread, complete, where what it enters into queues can only be entered piece by piece. -/
def State.entersHead (s : State) (tid : Nat) : Option BlockExec :=
  let t := s.thread tid
  match t.flight with
  | b :: _ => if t.live && b.complete && (b.eretFault t).isNone && s.effectsClear tid b.effs && overfull b.effs then some b else none
  | [] => none
/-- The oldest block of a thread, where it is complete and its effects wait for nothing but the acceptance of its loads of weights. -/
def State.commitHead (s : State) (tid : Nat) : Option BlockExec :=
  let t := s.thread tid
  match t.flight with
  | b :: _ => if t.live && b.complete && (b.eretFault t).isNone && s.effectsReady tid b.effs then some b else none
  | [] => none
/-- The block that BLOCK_COMMIT commits. -/
def State.commitReady (s : State) (tid : Nat) : Option BlockExec := (s.commitHead tid).filter (fun b => !b.effs.any Effect.isLoad)

/-! Deferred results (R29, R30). -/
def Effect.deferred : Effect → Bool
  | .store .. | .adds .. | .atomic .. | .claimel .. | .planes .. | .setvl .. | .lclaim _ | .mclaim _ | .bar .. | .cpgo _ | .plock .. | .plaunch _ => true
  | .entered v => v.isSome
  | _ => false
/-- The registers that receive the results of a slot: register and which result. -/
def BlockExec.destsOf (b : BlockExec) (slot : Nat) : List (Nat × Nat) :=
  (b.slotsOf (fun r => r.op == .wrs)).filterMap (fun e =>
    if b.fired.contains e.1 && (b.pOf e.1 e.2).live then
      (match b.tok e.1 .a with
       | some (.deferred sl which) => if sl = slot then some (e.2.reg, which) else none
       | _ => none)
    else none)
def BlockExec.groupSlots (b : BlockExec) : List EffAt := b.effects.filter (·.eff.deferred)
/-- The identity of a slot's group, counted from `base`. -/
def BlockExec.gidOf (b : BlockExec) (base slot : Nat) : Nat := base + (b.groupSlots.findIdx? (·.slot == slot)).getD 0
def BlockExec.groupsFrom (b : BlockExec) (base tid team : Nat) : List Group :=
  b.groupSlots.map (fun e => { gid := b.gidOf base e.slot, tid := tid, team := team, dests := b.destsOf e.slot, left := 0, time := none, value := none,
                               second := none, error := none, ready := false, vl := e.eff.setsVl, claim := e.eff.isMclaim,
                               launch := (b.raw e.slot).any (·.op == .plaunch), setVl := none })
def State.updGroup (s : State) (gid : Nat) (f : Group → Group) : State := { s with groups := s.groups.map (fun g => if g.gid = gid then f g else g) }
/-- A result known at commit. -/
def State.resolve (s : State) (gid : Nat) (v : Word) : State := s.updGroup gid (fun g => { g with value := some v, ready := true })
/-- How many requests a group waits for. -/
def State.requestsOf (s : State) (gid : Nat) : Nat :=
  (s.stores.filter (fun r => r.gid == some gid)).length + (s.trains.filter (fun t => t.gid == some gid)).length
def State.await (s : State) (gid : Nat) : State := let n := s.requestsOf gid; s.updGroup gid (fun g => { g with left := n, ready := n == 0 })
/-- Register writes of every slot (R32). -/
def Thread.writeRegs (t : Thread) (b : BlockExec) (base : Nat) : Thread :=
  (b.slotsOf (fun r => r.op.writesReg)).foldl (fun t e => t.writeSlot b (b.gidOf base) e.1 e.2) t

/-! Requests (R174, R281). -/
structure Issue where
  tid : Nat
  gid : Option Nat
  w : Option Time
  spill : Bool
def State.pushStore (s : State) (x : Issue) (kind : ReqKind) (route : Route) (compress : Bool) : State :=
  let t := s.thread x.tid
  let r := s.tick
  let q : StoreReq := { id := r.1, tid := some x.tid, who := some (s.party x.tid), team := t.team, tile := t.tile, gid := x.gid, kind := kind, route := route,
                        compress := compress, w := if x.spill then x.w else joinTimes [x.w, t.spill], floor := some t.floor, dram := false, spill := x.spill, copy := none,
                        home := homeOf s kind.key }
  let s : State := { r.2 with stores := r.2.stores ++ [q] }
  q.lines.foldl (fun s l => s.storeDrops t.tile l) s
/-- Elements of one line travel together: they make one version of it (R304). -/
def sameGroup (a b : StoreEl) : Bool := lineOf a.key == lineOf b.key
/-- How elements of one line travel that pages with different attributes name (R289): past the slice where one of them does. -/
def routeOf (l : List Route) : Route := if l.contains .nocache then .nocache else l.head?.getD .cached
def groupEls {α : Type} (same : α → α → Bool) : Nat → List α → List (List α)
  | 0, _ => []
  | _, [] => []
  | n + 1, a :: r => (a :: r.filter (same a)) :: groupEls same n (r.filter (fun b => !same a b))
def State.pushWrites (s : State) (x : Issue) (els : List StoreEl) : State :=
  (groupEls sameGroup els.length els).foldl (fun s g => s.pushStore x (.write (elCells g)) (routeOf (g.map (·.route))) (g.any (·.compress))) s
def sameFold (a b : FoldEl) : Bool := lineOf a.key == lineOf b.key
def State.pushFolds (s : State) (x : Issue) (els : List FoldEl) : State :=
  (groupEls sameFold els.length els).foldl (fun s g => s.pushStore x (.folds g) (routeOf (g.map (·.route))) (g.any (·.compress))) s
def State.threadTrains (s : State) (x : Issue) (kind : Nat) (ord : Bool) (els : List TrainEl) : State :=
  let t := s.thread x.tid
  s.launchTrains (trainOf kind t.tile t.team t.asid (joinTimes [x.w, t.spill]) (some t.floor) x.gid (some (s.party x.tid)) none 0) ord els
/-- An atomic or CLAIMEL of a location of another device leaves as its block commits, in program order with the other messages to it (R415). -/
def State.sendPeer (s : State) (b : BlockExec) (slot : Nat) : State :=
  match s.stores.getLast? with
  | some q => if q.route = .peer then
      (let q' := { q with enc := (b.words.drop (b.offs[slot]?.getD 0)).take 2 }
       ({ s with stores := s.stores.dropLast ++ [q'] } : State).sendAtomic q') else s
  | none => s
/-- One store-class effect's requests. -/
def State.issueStore (s : State) (b : BlockExec) (base : Nat) (tid : Nat) (e : EffAt) : State :=
  let t := s.thread tid
  let g := b.gidOf base e.slot
  let x : Issue := ⟨tid, some g, none, false⟩
  let far := fun (k : Nat) (r : Route) => (s.trainDest t.tile k r).isSome
  match e.eff with
  | .store _ els w =>
    let x := { x with w := w }
    let scalar := (b.raw e.slot).any (fun r => r.op == .st)
    let out := if scalar then els.filter (fun e => e.route == .peer) else els.filter (fun e => far e.key e.route)
    let here := if scalar then els.filter (fun e => e.route != .peer) else els.filter (fun e => !far e.key e.route)
    let ord := (b.raw e.slot).any (fun r => r.mword.ord)
    ((s.pushWrites x here).threadTrains x 1 ord (out.map trainElOf)).await g
  | .adds _ els =>
    ((s.pushFolds x (els.filter (fun e => !far e.key e.route))).threadTrains x 2 false ((els.filter (fun e => far e.key e.route)).map trainFoldOf)).await g
  | .atomic _ op key size bw cw sx w route compress => ((s.pushStore { x with w := w } (.atomic op key size bw cw sx) route compress).sendPeer b e.slot).await g
  | .claimel _ key width count route compress =>
    let s := s.setThread tid { t with vlOut := t.vlOut + 1 }
    ((s.pushStore x (.claimel key width count (Nat.min t.vlmax t.ceil * 32 / width)) route compress).sendPeer b e.slot).await g
  | .planes _ rows w => (rows.foldl (fun s r => s.pushStore { x with w := w } (.row r) .cached false) s).await g
  | _ => s
def Effect.lsid : Effect → Option Nat
  | .store n .. => some n
  | .adds n _ => some n
  | .atomic n .. => some n
  | .claimel n .. => some n
  | .planes n .. => some n
  | _ => none
def State.issueStores (s : State) (tid : Nat) (b : BlockExec) (base : Nat) : State :=
  (sortOn Prod.fst (b.effects.filterMap (fun e => e.eff.lsid.map (fun n => (n, e))))).foldl (fun s e => s.issueStore b base tid e.2) s

/-! Matrix effects (R202), in MSID order; a spill's lines leave as requests without witness (R210). -/
def Effect.msid : Effect → Option (Nat × MxEffect)
  | .mx n e => some (n, e)
  | _ => none
/-- The lines of a spilled back plane as the fill has left it. -/
def backSpill (m : MxState) (els : List StoreEl) : List StoreEl := els.map (fun e => { e with bytes := m.unitLine .back e.elem })
/-- The writes of a spill (R210); those to another device leave as a train. -/
def State.pushSpill (s : State) (tid : Nat) (els : List StoreEl) : State :=
  let t := s.thread tid
  let s := s.pushWrites ⟨tid, none, none, true⟩ (els.filter (fun e => e.route != .peer))
  s.launchTrains { trainOf 1 t.tile t.team t.asid none (some t.floor) none (some (s.party tid)) none 0 with spill := some tid } false
    ((els.filter (fun e => e.route == .peer)).map trainElOf)
/-- A matrix effect that has no load of weights. -/
def State.applyMx (s : State) (tid : Nat) (e : MxEffect) : State :=
  let n := s.tileOf tid
  let t := s.tile n
  match e with
  | .spill els back => s.pushSpill tid (if back then backSpill t.mx els else els)
  | e => s.setTile n { t with mx := t.mx.apply e }
def BlockExec.mxEffects (b : BlockExec) : List (Nat × MxEffect) := sortOn Prod.fst (b.effs.filterMap Effect.msid)
def State.commitMx (s : State) (tid : Nat) (b : BlockExec) : State := b.mxEffects.foldl (fun s e => s.applyMx tid e.2) s

/-! Engines and control, in slot order. -/
/-- A group lost without a spare leaves the grant and the pool; the lowest free one takes its place (R402). -/
def State.replaceDoubled (s : State) (tid : Nat) : State :=
  let t := s.thread tid
  (groupList (t.lanes &&& (s.tile t.tile).doubled)).foldl (fun s g =>
    let t := s.thread tid
    let x := s.tile t.tile
    let m := groupMask [g]
    let s := s.setTile t.tile { x with doubled := x.doubled &&& ~~~m, lost := x.lost ||| m, free := x.free &&& ~~~m }
    let s := (s.updCluster (clusterOfTile t.tile) (fun k => { k with groupsOut := k.groupsOut + 1 })).logRecord (clusterOfTile t.tile) 6 5 (logTile t.tile) (g * 2 ^ 18) 0 tid
    s.regrantTo tid ((t.lanes &&& ~~~m) ||| groupMask ((groupList (s.tile t.tile).free).take 1))) s
/-- LCLAIM's grant (R125). -/
def lclaimGrant (lanes free : BitVec 16) (n : Nat) : BitVec 16 :=
  let own := groupList lanes
  if n ≤ own.length then groupMask (own.take n) else lanes ||| groupMask ((groupList free).take (n - own.length))
def State.commitSetvl (s : State) (tid g n width : Nat) : State :=
  let s := s.replaceDoubled tid
  let t := s.thread tid
  let vl := Nat.min n (Nat.min t.vlmax t.ceil * 32 / width)
  (s.setThread tid { t with vl := vl, vlOut := t.vlOut + 1 }).resolve g (BitVec.ofNat 64 vl)
def State.commitLclaim (s : State) (tid g n : Nat) : State :=
  let s := s.replaceDoubled tid
  let t := s.thread tid
  let s := s.regrantTo tid (lclaimGrant t.lanes (s.tile t.tile).free n)
  let s := s.renegotiate tid (Nat.min n 1)
  let t := s.thread tid
  (s.setThread tid { t with vlOut := t.vlOut + 1 }).resolve g (t.lanes.setWidth 64)
/-- A waiting START of higher priority that can start on this tile goes first (R372). -/
def State.outranked (s : State) (t : Thread) (tile : Nat) : Bool :=
  s.waiting.any (fun q => match s.waitingStart q with
    | some (a, p) => t.prio s < s.prioOf a p.rcb && s.canStart a p tile
    | none => false)
/-- The core a thread resumes on: its own number's where that is on the tile and has room, else the first with room. -/
def State.resumeCore (s : State) (tile tid : Nat) : Option Nat :=
  let own := tile * 8 + coreOfThread tid % 8
  (own :: (List.range 8).map (· + 8 * tile)).find? (fun c => (s.coreThreads c).length < 4)
/-- A saved thread has what it needs on its tile, the claim aside (R397). -/
def State.resumable (s : State) (tid : Nat) (t : Thread) (tile : Nat) : Bool :=
  (s.resumeCore tile tid).isSome && !(s.thread tid).here && !(s.tile tile).retired && t.groups ≤ groupsOf (s.tile tile).free &&
    !s.drawsSpent (s.teamAsid t.team t.asid) t.region && !s.outranked t tile
/-- A saved thread of the tile that held the claim stands at the head of the claim queue once it could resume with it (R393, R397; log entry 62). -/
def State.claimAwaited (s : State) (tile : Nat) : Bool := s.saved.any (fun e => e.2.tile == tile && e.2.mat && s.resumable e.1 e.2 tile)
/-- MCLAIM (R197): a free claim is the thread's at once, a waiting request stands in the queue; MATRIX_CLAIM_GRANT sets the state and writes the
result. A claim that a saved thread of the tile is to resume with counts as another thread's (log entry 62). -/
def State.commitMclaim (s : State) (tid g : Nat) (tries : Bool) : State :=
  let t := s.thread tid
  let x := s.tile t.tile
  let s := s.setThread tid { t with mclaimOut := true }
  if x.claimant = some tid then s.resolve g 1
  else
    let free := x.claimant.isNone && x.claimQ.isEmpty && !s.claimAwaited t.tile
    if tries && !free then s.resolve g 0
    else
      let s := if free then s.takeClaim t.tile tid else s
      s.setTile t.tile { s.tile t.tile with claimQ := x.claimQ ++ [(tid, g)] }
/-- BAR (R193). -/
def State.commitBar (s : State) (tid g id count : Nat) (w : Word) : State :=
  let t := s.thread tid
  match s.teamOf t with
  | none => s.resolve g w
  | some x =>
    let b := mget Barrier.empty x.barriers id
    let b := { b with count := if b.arrivals.isEmpty then count else b.count, arrivals := b.arrivals ++ [(tid, w, g)] }
    let s := s.setTeam { x with barriers := mset Barrier.empty x.barriers id b }
    (s.setThread tid { t with barred := t.barred ++ [id] }).releaseBarrier x.id id
/-- A fresh queue entry (R266, R269). -/
def copyEntry (seq : Nat) (owner : CopyOwner) (asid : BitVec 12) (supervisor : Bool) (region : Word) (floor : Time) (view : NMap Word)
    (fence : Option (BitVec 8)) (watch : List (Nat × Nat)) : CopyEntry :=
  { seq := seq, owner := owner, asid := asid, supervisor := supervisor, region := region, fence := fence, watch := watch, view := view, floor := floor,
    bound := none, entryBound := none, predError := false, tags := [], strip := 0, inFlight := false, begun := false, partials := [], last := none,
    failWit := none, abort := none, stamping := none, waitFor := none }
/-- From when the first entry of a queue waits, once an entry has joined it (R329). -/
def CopyQueue.waitsFrom (q : CopyQueue) (now : Nat) : Nat := if q.entries.isEmpty then now else q.since
/-- Places a transfer in its queue: the state and the transfer id. -/
def State.enqueueCopy (s : State) (tile : Nat) (owner : CopyOwner) (asid : BitVec 12) (supervisor : Bool) (region : Word) (floor : Time) (view : NMap Word) :
    State × Word :=
  let n := Shadow.queue view
  let q := s.copyQueue tile n
  (s.setCopyQueue tile n { q with since := q.waitsFrom s.cycle, nextSeq := q.nextSeq + 1, entries := q.entries ++ [copyEntry q.nextSeq owner asid supervisor region floor view none []] },
   BitVec.ofNat 64 (transferId tile n q.nextSeq))
/-- CPQF: a fence that waits for the entries now in the masked queues (R269). -/
def State.enqueueFence (s : State) (tid q : Nat) (mask : BitVec 8) : State :=
  let t := s.thread tid
  let watch := ((List.range 8).filter (fun k => mask.getLsbD k)).flatMap (fun k => (s.copyQueue t.tile k).entries.map (fun e => (k, e.seq)))
  let r := s.tick
  let x := r.2.copyQueue t.tile q
  r.2.setCopyQueue t.tile q { x with since := x.waitsFrom s.cycle, entries := x.entries ++
    [copyEntry (2 ^ 40 + r.1) (.thread (s.party tid)) t.asid t.supervisor t.region t.floor [] (some mask) watch] }
def State.requestLock (s : State) (tid g : Nat) (runs : List RowRun) (write tries : Bool) (c : Nat) (desc range : Word) : State :=
  let r := s.tick
  (r.2.updCluster c (fun k => { k with lockReqs := k.lockReqs ++ [⟨r.1, ⟨s.party tid, write, runs, desc, range, []⟩, tries, c, some g, none⟩] })).updGroup g
    (fun x => { x with left := 1 })
def runsCluster (runs : List RowRun) : Nat := match runs with | r :: _ => clusterOfBank (r.sub / 32) | [] => 0
/-- Block caches of a tile (R18, R122). -/
def State.dropIcache (s : State) (tile : Nat) : State := s.setTile tile { s.tile tile with icache := [] }
/-- An effect enters an engine's queue: the state and the result. -/
def State.enter (s : State) (tid : Nat) (floor : Time) : Effect → State × Option Word
  | .cpgo v => let t := s.thread tid; let y := s.enqueueCopy t.tile (.thread (s.party tid)) t.asid t.supervisor t.region floor v; (y.1, some y.2)
  | .cpqf q m => (s.enqueueFence tid q m, none)
  | .plaunch l => (s.acceptLaunch (s.party tid) { l with floor := floor } none, some (opHandle l.cluster (s.cluster l.cluster).opSeq))
  | _ => (s, none)
def State.resolved (s : State) (g : Nat) (v : Option Word) : State := match v with | some w => s.resolve g w | none => s
def State.commitEffect (s : State) (tid : Nat) (b : BlockExec) (base : Nat) (e : EffAt) : State :=
  let t := s.thread tid
  let g := b.gidOf base e.slot
  match e.eff with
  | .csrw c v => s.csrWrite tid c.toNat v
  | .setvl n w => s.commitSetvl tid g n w
  | .lclaim n => s.commitLclaim tid g n
  | .mclaim tries => s.commitMclaim tid g tries
  | .bar id n w => s.commitBar tid g id n w
  | .icinv => s.dropIcache t.tile
  | .tlbinv va c => s.dropTlb (tlbScope va c)
  | .cpset i v => s.setThread tid { t with shadow := setShadow t.shadow i v }
  | .cpgo _ | .cpqf .. | .plaunch _ => let y := s.enter tid t.floor e.eff; y.1.resolved g y.2
  | .entered v => s.resolved g v
  | .cpabort w => s.abortCopy t.asid w
  | .plock runs wr tries c d r => s.requestLock tid g runs wr tries c d r
  | .punlock runs => s.releaseRows (runsCluster runs) (s.party tid) runs
  | _ => s
/-- A write of ASID applies from the next block (R384): the effects of its own block come before it. -/
def Effect.isAsid : Effect → Bool
  | .csrw c _ => c == 0x110
  | _ => false
def EffAt.turn (e : EffAt) : Nat := e.slot + (if e.eff.isAsid then 1024 else 0)
def State.commitEffects (s : State) (tid : Nat) (b : BlockExec) (base : Nat) : State :=
  (sortOn EffAt.turn b.effects).foldl (fun s e => s.commitEffect tid b base e) s
/-- The first entry of a block that no queue can hold whole is made, where it has room. -/
def State.enterAhead (s : State) (tid : Nat) : State :=
  match s.entersHead tid with
  | none => s
  | some b => match (sortOn (·.slot) b.effects).find? (·.eff.enters) with
    | none => s
    | some e =>
      if roomFor s tid [e.eff] && (List.range 8).all (s.queueRoom (s.tileOf tid) [e.eff]) then
        let floor := b.effs.foldl (fun f e => match e with | .wfloor w => serialMax f w | _ => f) (s.thread tid).floor
        let y := s.enter tid floor e.eff
        y.1.updBlock tid b.serial (fun k => { k with accepted := true, effects := k.effects.map (fun x => if x = e then { x with eff := .entered y.2 } else x) })
      else s
/-- WFLOOR (R188): FLOOR and HORIZON rise. -/
def State.commitFloors (s : State) (tid : Nat) (b : BlockExec) : State :=
  b.effs.foldl (fun s e => match e with
    | .wfloor w => let t := s.thread tid; (s.setThread tid { t with floor := serialMax t.floor w }).raiseHorizon t.tile (serialMax t.floor w)
    | _ => s) s

/-! Exits. -/
/-- The link register of CALL and CALLI (R110). -/
def linkReg : Nat := 63
/-- Blocks after the committed one stay only where they were fetched rightly: at the new address, in the same mode, not held back. -/
def State.keepYounger (s : State) (tid : Nat) (mode : Bool) (all : Bool) : State :=
  let t := s.thread tid
  match t.flight with
  | [] => s
  | n :: _ =>
    if n.addr = t.pc && t.supervisor = mode && t.hold = .free && t.barred.isEmpty && !all then s
    else (s.dropLoads tid (fun _ => false)).setThread tid { t with flight := [] }
/-- What the block does that no younger block may have been fetched past. -/
def BlockExec.bars (b : BlockExec) : Bool :=
  b.effs.any (fun e => match e with | .icinv => true | .tlbinv .. => true | .eret => true | _ => false) ||
  !(b.slotsOf (fun r => r.op == .csrw && 0x100 ≤ r.w2.toNat % 4096)).isEmpty
def BlockExec.erets (b : BlockExec) : Bool := b.effs.any (fun e => match e with | .eret => true | _ => false)
/-- The exit's target for the commit pointer. -/
def ExitKind.target : ExitKind → Word
  | .goto a => a
  | .call a _ => a
  | .yield a => a
  | .halt => 0
  | .sysc a => a
/-- The commit pointer moves by the fired exit (R108 to R113), or by ERET (R116), which replaces the target alone (log entry 60). -/
def State.takeExit (s : State) (tid : Nat) (b : BlockExec) (mode : Bool) (slot : Nat) (e : ExitKind) : State :=
  let t := s.thread tid
  match e with
  | .halt => s.endThread tid
  | .sysc a =>
    let t := if b.erets then t.eret else { t with pc := a }
    (s.setThread tid t).takeTrap tid (mkFault cSYSCALL slot 0 b.addr.toNat 0) t.pc b.addr
  | e =>
    let t := { t with pc := e.target }
    let t := match e with
      | .call _ l => { t with sregs := mset 0 t.sregs linkReg l, pending := mdel t.pending linkReg }
      | .yield _ => { t with hold := .yielded [] }
      | _ => t
    let t := if b.erets then t.eret else t
    let s := s.setThread tid t
    let s := match e with | .yield _ => s.renegotiate tid (Nat.min t.groups 1) | _ => s
    s.keepYounger tid mode b.bars
/-- The CSRs that a block's CSRRs name, as they stand (R117). -/
def State.startCsrs (s : State) (tid : Nat) (b : BlockExec) : List (Nat × Word) :=
  (b.slotsOf (fun r => r.op == .csrr)).map (fun e => (Raw.csr e.2, s.csrRead tid (Raw.csr e.2)))
/-- Younger blocks begin after what a committed block with effects has left: the CSRs their CSRRs name are taken again (R28, R117). -/
def State.restartCsrs (s : State) (tid : Nat) (b : BlockExec) : State :=
  if b.raws.all (fun r => r.op.quiet) then s
  else
    let t := s.thread tid
    s.setThread tid { t with flight := t.flight.map (fun y => if y.decoded then { y with csrs := s.startCsrs tid y } else y) }
/-- The block releases the claim, after every other effect (R198). -/
def mrelLast (b : BlockExec) : Bool := b.effs.any (fun e => match e with | .mrel => true | _ => false)

/-- The versions of lines that committed blocks returned, kept while a younger block may hold or await an older one (R308). -/
def Thread.seenAfter (t : Thread) (b : BlockExec) : List (Nat × Time) :=
  if (t.flight.drop 1).any (fun y => !y.awaiting.isEmpty || !y.reads.isEmpty) then
    b.reads.foldl (fun l r => (r.2.1, match l.find? (·.1 == r.2.1) with | some o => serialMax o.2 r.2.2 | none => r.2.2) :: l.filter (·.1 != r.2.1)) t.seen
  else []
/-- BLOCK_COMMIT (R32). -/
def blockCommitBody (tid : Nat) (s : State) : State :=
  match s.commitReady tid with
  | none => s.enterAhead tid
  | some b =>
    let t := s.thread tid
    let mode := t.supervisor
    let base := s.fresh
    let s : State := { s with fresh := s.fresh + b.groupSlots.length, groups := s.groups ++ b.groupsFrom base tid t.team }
    let t := t.writeRegs b base
    let s := s.setThread tid { t with flight := t.flight.drop 1, blocks := t.blocks + 1, walkFaults := [], seen := t.seenAfter b }
    let s := s.commitFloors tid b
    let s := s.issueStores tid b base
    let s := s.commitMx tid b
    let s := s.commitEffects tid b base
    let t := s.thread tid
    let s := s.setThread tid { t with fflags := fflagsAfter t.fflags none b.flags }
    let s := if mrelLast b then s.releaseClaim (s.thread tid).tile tid else s
    let s := s.restartCsrs tid b
    match b.exit with
    | some (slot, e) => s.takeExit tid b mode slot e
    | none => s

def execBlockCommit (tid : Nat) (s : State) : Host.Outcome State Fault Refusal := .next (blockCommitBody tid s)

end Sys2Proof.Machine
end

