-- ==== Sys2Proof/Machine/Blocks.lean ====
section
/-! DEFINITION. Blocks on their way in and results on their way back: fetch and the choice of a thread (R15 to R18, R373), decoding and the
static rules (R19, R87 to R90), stalls and held faults (R17, R27), deferred results (R30, R392), the matrix claim's queue (R197), weight loads
accepted and filled (R213, R229). -/
namespace Sys2Proof.Machine

/-! Fetch (R16, R373). -/
def State.coreFlight (s : State) (core : Nat) : Nat := (s.coreThreads core).foldl (fun a i => a + (s.thread i).flight.length) 0
/-- Instructions past whose block nothing is fetched before it commits (R111, R116, R122, R123, R193). -/
def Opcode.holdsFetch : Opcode → Bool
  | .yield | .halt | .sysc | .eret | .icinv | .tlbinv | .bar => true
  | _ => false
/-- The target of a fired exit, where it is known before the commit. -/
def BlockExec.known (b : BlockExec) : Option Word :=
  match b.exit with
  | some (_, .goto a) => some a
  | some (_, .call a _) => some a
  | _ => none
/-- The address of the next block: the commit pointer, the youngest block's fired exit, or a predicted target (R16). -/
def Thread.nextBlock (t : Thread) (guess : Option Word) : Option Word :=
  match t.flight.getLast? with
  | none => some t.pc
  | some b =>
    if t.flight.all (fun b => b.decoded && b.held.isNone && (b.slotsOf (fun r => Opcode.holdsFetch r.op)).isEmpty) then
      (match b.known with | some a => some a | none => guess)
    else none
/-- The conditions of R373 on a thread's fetch, the hold of a YIELD aside. -/
def State.readyThread (s : State) (guess : Option Word) (tid : Nat) : Bool :=
  let t := s.thread tid
  t.status == .running && t.flight.length < 4 && s.coreFlight t.core < 8 && (t.nextBlock guess).isSome &&
    t.barred.isEmpty
/-- Of the other threads of the core, each that `counts` has been offered a slot since the thread's YIELD, or is not ready. -/
def State.offered (s : State) (tid : Nat) (l : List Nat) (counts : Nat → Bool) : Bool :=
  (s.coreThreads (s.thread tid).core).all (fun i => i == tid || l.contains i || !s.readyThread none i || !counts i)
/-- A thread that still waits under a YIELD of its own: some other thread, held by a YIELD or not, has been offered no slot since. -/
def State.yieldHeld (s : State) (tid : Nat) : Bool :=
  match (s.thread tid).hold with
  | .yielded l => !s.offered tid l (fun _ => true)
  | _ => false
/-- A YIELD's hold ends when every other ready thread of the core has been offered a slot (R111). A thread held by a YIELD of its own is not ready
(R373); where threads wait on each other either goes first (DESIGN CHOICE, log entry 63). -/
def State.eligible (s : State) (guess : Option Word) (tid : Nat) : Bool :=
  s.readyThread guess tid &&
  (match (s.thread tid).hold with
   | .yielded l => s.offered tid l (fun i => !s.yieldHeld i)
   | _ => true)
/-- Slots a thread may take in a round: its region's priority and one more. -/
def State.share (s : State) (tid : Nat) : Nat := (s.thread tid).prio s + 1
/-- The eligible threads of a core after the last one served. -/
def afterLast (last : Nat) (l : List Nat) : List Nat := sortOn (fun i => (i + 3 - last % 4) % 4) l
/-- The one served longest ago. -/
def longest (s : State) : List Nat → Option Nat
  | [] => none
  | i :: r => match longest s r with
    | some j => if (s.thread j).unserved < (s.thread i).unserved then some j else some i
    | none => some i
/-- The slot of this cycle is the firmware context's (R373 step 1, R374): one of the first K of 16, while the firmware has a block ready, which is a
free value (log entry 1). -/
def State.firmwareSlot (s : State) (core : Nat) : Bool := decide (s.cycle % 16 < (s.core core).fwshare) && Config.firmwareReady core s.cycle
/-- The user thread a core's fetch slot goes to. -/
def State.pick (s : State) (core : Nat) : Option Nat :=
  if s.firmwareSlot core then none
  else
  let el := (s.coreThreads core).filter (s.eligible none)
  match longest s (el.filter (fun i => 256 ≤ s.cycle - (s.thread i).unserved)) with
  | some i => some i
  | none =>
    let order := afterLast (s.core core).last el
    match order.find? (fun i => (s.thread i).served < s.share i) with
    | some i => some i
    | none => order.head?
/-- What a served slot leaves in the core: the round, the cycle, the YIELDs that wait for it. -/
def State.serveSlot (s : State) (tid : Nat) : State :=
  let core := (s.thread tid).core
  let el := (s.coreThreads core).filter (s.eligible none)
  let fresh := el.all (fun i => s.share i ≤ (s.thread i).served)
  let s := (s.coreThreads core).foldl (fun s i =>
    let t := s.thread i
    s.setThread i { t with
      served := (if fresh then 0 else t.served) + (if i = tid then 1 else 0)
      unserved := if i = tid then s.cycle else t.unserved
      hold := (match t.hold with | .yielded l => if i = tid then .free else .yielded (if l.contains tid then l else l ++ [tid]) | h => h) }) s
  s.setCore core { s.core core with last := tid % 4 }
/-- A block on its way in. -/
def emptyBlock (serial : Nat) (addr : Word) : BlockExec :=
  { serial := serial, addr := addr, words := [], offs := [], decoded := false, toks := [], fired := [], declined := [], awaiting := [], effects := [],
    flags := 0, exit := none, held := none, reads := [], accepted := false, csrs := [], stuck := [], strikes := 0 }
/-- BLOCK_FETCH (R373). -/
def blockFetchBody (tid : Nat) (guess : Option Word) (s : State) : State :=
  if !s.eligible guess tid then s
  else match (s.thread tid).nextBlock guess with
    | none => s
    | some a =>
      let r := (s.serveSlot tid).tick
      let t := r.2.thread tid
      r.2.setThread tid { t with flight := t.flight ++ [emptyBlock r.1 a] }

/-! Lines of code (R15, R18). -/
inductive CodeLine where
  | ok (bytes : List Byte)
  | fault (f : FaultRec)
  | miss (va : Nat)
  | far (line : Nat)
  | held
  deriving DecidableEq, Repr
/-- 64 bytes of code at an address, from the block cache or memory, with the state that keeps them. Sets are line numbers modulo 256 (log entry 11). -/
def State.codeLine (s : State) (tid : Nat) (a : Word) : State × CodeLine :=
  let t := s.thread tid
  let core := t.core
  let bad (c i : Nat) : CodeLine := .fault ⟨c, noSlot, a, 0, BitVec.ofNat 64 i⟩
  if bitsAt a 56 8 ≠ 0 then (s, bad cNONCANON 0)
  else
    let w : Who := ⟨t.tile, t.asid, t.supervisor⟩
    let r : Checked := match checkVa s w .fetch a.toNat with
      | .miss va => (match t.walked va with
        | none => .miss va
        | some c => if c = walkedOk then checkVaWalk (s.markWalked t.tile t.asid va) w .fetch va else .fault cXLATE c)
      | r => r
    match r with
    | .miss va => (s, .miss va)
    | .fault c i => (s, bad c i)
    | .ok l =>
      let s := s.usePage t.tile t.asid a.toNat
      let x := s.tile t.tile
      match x.icache.find? (fun e => e.1 == core && e.2.1 == l.key) with
      | some e => (s, .ok e.2.2)
      | none =>
        let put (b : List Byte) : State × CodeLine :=
          let set := x.icache.filter (fun e => e.1 == core && e.2.1 / 64 % 256 == l.key / 64 % 256)
          let kept := if 4 ≤ set.length then (match set with | v :: _ => removeFirst v x.icache | [] => x.icache) else x.icache
          (s.setTile t.tile { x with icache := kept ++ [(core, l.key, b)] }, .ok b)
        if l.route = .host || l.route = .peer then
          (match s.farLine (lineOf l.key) t.asid.toNat t.floor with
           | some b => match b.bad with
             | some e => (s, bad (remoteFault e).1 (remoteFault e).2)
             | none => let y := put ((b.bytes.drop (l.key % 128)).take 64); (y.1.dropFar [lineOf l.key], y.2)
           | none => (s, .far (lineOf l.key)))
        else if (s.line (lineOf l.key)).held && (s.line (lineOf l.key)).bad then (s, .far (lineOf l.key))
        else match readError s l.key 64 with
          | some c => (if c = cUNCORR then s.poisonLine (lineOf l.key) else s, bad c 0)
          | none => if s.keyBlocked (some (s.party tid)) l.key false then (s, .held)
            else if s.snoopBlocks (lineOf l.key) false || s.dramHolds l.route (lineOf l.key) then (s, .far (lineOf l.key))
            else let y := put (readBytes s.mem l.key 64); (y.1.fetchLines l.compress [lineOf l.key], y.2)
/-- The lines of an extent in ascending order. -/
def State.codeLines (s : State) (tid : Nat) (a : Word) : Nat → List Byte → State × CodeLine
  | 0, acc => (s, .ok acc)
  | n + 1, acc => match s.codeLine tid a with
    | (s, .ok b) => s.codeLines tid (a + 64) n (acc ++ b)
    | r => r

/-! Decoding (R19, R87 to R90). -/
def h0Of (ws : List Word32) : Nat := wordAt ws 0
def headInst (h : Nat) : Nat := h / 256 % 128 + 1
def headWords (h : Nat) : Nat := h / 32768 % 1024
def headWrites (h : Nat) : Nat := h / 33554432 % 64
/-- The header alone. -/
def headerBad (h : Nat) : Option Nat :=
  if h % 256 ≠ 0x5A || 2147483648 ≤ h then some 1 else if 642 < headWords h then some 9 else none
def blockFmt (code : Nat) (slot : Option Nat) : FaultRec :=
  ⟨cBLOCKFMT, match slot with | some k => slotW k | none => noSlot, 0, 0, BitVec.ofNat 64 code⟩
/-- A target within the rules that its own slot can break. -/
def targetsInside (k n : Nat) (r : Raw) : Bool :=
  r.targets.all (fun t => match t with | some t => decide (k < t.slot.toNat) && decide (t.slot.toNat < n) | none => true)
/-- The walk over the slots: their offsets and instructions, or the first fault. -/
def walkSlots (addr : Word) (ws : List Word32) (ninst : Nat) : Nat → Nat → Nat → Except FaultRec (List (Nat × Raw))
  | 0, _, off => if off = ws.length then .ok [] else .error (blockFmt 1 none)
  | f + 1, k, off =>
    match decodeSlot (ws.drop off) with
    | .short => .error (blockFmt 1 none)
    | .illegal i => .error ⟨cILLEGAL, slotW k, addr + BitVec.ofNat 64 (4 * off), 0, BitVec.ofNat 64 i⟩
    | .ok r len =>
      if !targetsInside k ninst r then .error (blockFmt 3 (some k))
      else match walkSlots addr ws ninst f (k + 1) (off + len) with
        | .ok l => .ok ((off, r) :: l)
        | .error e => .error e
/-- Slots with their numbers. -/
def numbered (l : List Raw) : Slots := l.zipIdx.map (fun e => (e.2, e.1))
/-- The first slot whose key stands before it too. R118 names the second of two CSRWs; of two slots with one LSID, MSID or destination register R89 does not
say which breaks the rule: the later too (DESIGN CHOICE, log entry 63). -/
def repeated {α : Type} [DecidableEq α] : List (Nat × α) → List α → Option Nat
  | [], _ => none
  | (k, a) :: r, seen => if seen.contains a then some k else repeated r (a :: seen)
def keyed {α : Type} (l : Slots) (f : Raw → Option α) : List (Nat × α) := l.filterMap (fun e => (f e.2).map (fun a => (e.1, a)))
/-- LSIDs (code 4). -/
def lsidBad (h1 : Nat) (l : Slots) : Option Nat :=
  let ids := keyed l Raw.lsid
  let wrong := l.find? (fun e => match e.2.lsid with | some n => decide ((h1 / 2 ^ n % 2 = 1) ≠ (e.2.op.store = true)) | none => false)
  match repeated ids [], wrong with
  | some a, some e => some (Nat.min a e.1)
  | some a, none => some a
  | none, w => w.map (·.1)
/-- Accumulator rows an instruction writes of those R19 counts. -/
def rowsWritten (r : Raw) : Nat :=
  match r.op with
  | .mmul => if mmulDual r then 2 else 1
  | .mwr | .mzero => Raw.nrow r
  | _ => 0
def overRows : Slots → Nat → Option Nat
  | [], _ => none
  | (k, r) :: rest, n => if 16 < n + rowsWritten r then some k else overRows rest (n + rowsWritten r)
def minOpt (a b : Option Nat) : Option Nat :=
  match a, b with
  | some x, some y => some (Nat.min x y)
  | none, y => y
  | x, none => x
def writtenReg (r : Raw) : Option (Nat × Nat) :=
  match r.op with | .wrs => some (0, r.reg) | .wrv => some (1, r.reg) | .wrm => some (2, r.reg) | _ => none
def csrWritten (r : Raw) : Option Nat := match r.op with | .csrw => some (r.w2.toNat % 4096) | _ => none
/-- The n-th slot of a kind, from 0. -/
def nthOf (l : Slots) (f : Raw → Bool) (n : Nat) : Option Nat := ((l.filter (fun e => f e.2))[n]?).map (·.1)
/-- Register writes (code 6). -/
def writesBad (l : Slots) : Option Nat :=
  let calls := l.any (fun e => e.2.op == .call || e.2.op == .calli)
  minOpt (minOpt (nthOf l (fun r => r.op.writesReg) 32) (repeated (keyed l writtenReg) []))
    (minOpt (if calls then nthOf l (fun r => r.op == .wrs && r.reg == linkReg) 0 else none) (repeated (keyed l csrWritten) []))
/-- Targets that name an operand not taken (code 3): the producer. -/
def takesOpnd (r : Raw) (o : Opnd) : Bool := if o = .p then r.pr != .always else r.takes.any (fun e => e.1 == o)
def targetBad (l : Slots) : Option Nat :=
  (l.find? (fun e => e.2.targets.any (fun t => match t with
    | some t => (match l[t.slot.toNat]? with | some c => !takesOpnd c.2 t.opnd | none => true)
    | none => false))).map (·.1)
/-- Deferred results that go elsewhere than operand A of a WRS or WRV (code 8). -/
def deferredBad (l : Slots) : Option Nat :=
  (l.find? (fun e => e.2.op.deferred && e.2.targets.any (fun t => match t with
    | some t => t.opnd != .a || (match l[t.slot.toNat]? with | some c => c.2.op != .wrs && c.2.op != .wrv | none => true)
    | none => false))).map (·.1)
/-- The rules that need more than one slot, in the order of their codes. -/
def blockBad (h0 h1 : Nat) (l : Slots) : Option FaultRec :=
  let writes := (l.filter (fun e => e.2.op.writesReg)).length
  let used := keyed l Raw.lsid
  let exits := (l.filter (fun e => e.2.op.isExit)).length
  if writes ≠ headWrites h0 || (List.range 32).any (fun i => h1 / 2 ^ i % 2 = 1 && !used.any (fun e => e.2 == i)) then some (blockFmt 1 none)
  else match targetBad l with
  | some k => some (blockFmt 3 (some k))
  | none => match lsidBad h1 l with
  | some k => some (blockFmt 4 (some k))
  | none => match minOpt (repeated (keyed l Raw.msid) []) (overRows l 0) with
  | some k => some (blockFmt 5 (some k))
  | none => match writesBad l with
  | some k => some (blockFmt 6 (some k))
  | none =>
    if exits = 0 then some (blockFmt 7 none)
    else if 8 < exits then some (blockFmt 7 (nthOf l (fun r => r.op.isExit) 8))
    else (deferredBad l).map (fun k => blockFmt 8 (some k))
/-- A whole block's words: its slots' offsets, or the first fault of R90. -/
def decodeBlock (addr : Word) (ws : List Word32) : Except FaultRec (List Nat) :=
  let h0 := h0Of ws
  match walkSlots addr ws (headInst h0) (headInst h0) 0 2 with
  | .error e => .error e
  | .ok l => match blockBad h0 (wordAt ws 1) (numbered (l.map (·.2))) with
    | some f => .error f
    | none => .ok (l.map (·.1))
/-- A fetch that cannot go on: the fault, the walk it asks for, the far line. -/
def State.codeStops (s : State) (tid : Nat) (b : BlockExec) (r : CodeLine) : State :=
  let t := s.thread tid
  match r with
  | .fault f => s.raise tid b.serial f
  | .miss va => s.askWalk tid t.tile t.asid va
  | .far l => s.askFar t.tile t.asid.toNat l t.floor
  | _ => s
/-- BLOCK_DECODE (R90): the oldest block not yet decoded, once its lines have come. -/
def blockDecodeBody (tid : Nat) (s : State) : State :=
  let t := s.thread tid
  match t.flight.find? (fun b => !b.decoded && b.held.isNone) with
  | none => s
  | some b =>
    if !t.live then s
    else match s.codeLine tid b.addr with
    | (s, .ok l0) =>
      let h0 := leNat (l0.take 4)
      (match headerBad h0 with
       | some c => s.raise tid b.serial (blockFmt c none)
       | none => match s.codeLines tid b.addr ((Nat.max (headWords h0) 2 + 15) / 16) [] with
         | (s, .ok bytes) =>
           let ws := wordsFrom (headWords h0) bytes
           (match decodeBlock b.addr ws with
            | .error f => s.raise tid b.serial f
            | .ok offs =>
              let csrs := s.startCsrs tid { b with words := ws, offs := offs, decoded := true }
              s.updBlock tid b.serial (fun x => { x with words := ws, offs := offs, decoded := true, csrs := csrs }))
         | (s, r) => s.codeStops tid b r)
    | (s, r) => s.codeStops tid b r

/-! Stalls and held faults (R17, R27). -/
/-- Nothing of an incomplete block can fire, and nothing it has fired is pending. -/
def BlockExec.stalled (b : BlockExec) : Bool :=
  b.decoded && b.held.isNone && !b.complete && b.awaiting.isEmpty && !b.openSlots.any (fun e => b.canFire e.1 e.2)
def BlockExec.stallSlot (b : BlockExec) : Word :=
  match b.openSlots.find? (fun e => b.toks.any (fun t => t.slot == e.1) && !b.stuck.contains e.1) with
  | some e => slotW e.1
  | none => noSlot
/-- TRAP_ENTRY: the oldest block holds a fault, or stalls, or would return to no block address (R116). -/
def trapEntryBody (tid : Nat) (s : State) : State :=
  let t := s.thread tid
  match t.flight with
  | [] => s
  | b :: _ =>
    if !t.live then s
    else match b.held with
      | some f => s.takeTrap tid f b.addr b.addr
      | none =>
        if b.stalled then s.takeTrap tid ⟨cBLOCKSTALL, b.stallSlot, 0, 0, 0⟩ b.addr b.addr
        else match b.eretFault t with
          | some f => if b.complete then s.takeTrap tid f b.addr b.addr else s
          | none => s

/-! Deferred results (R30, R31, R392). -/
/-- A result that comes while its register is saved goes into the register's place in the save area, and the pending bit there is cleared. -/
def State.resave (s : State) (g : Group) : State :=
  match s.saved.find? (fun e => e.1 == g.tid && e.2.team == g.team) with
  | none => s
  | some (_, t) =>
    let base := t.savea.toNat
    { s with mem := (g.dests.filter (fun d => mget 0 t.pending d.1 == g.gid)).foldl (fun m d =>
        writeWord (writeWord m (base + 0x18) (readWord m (base + 0x18) &&& ~~~(BitVec.ofNat 64 (2 ^ d.1)))) (base + 0x80 + 8 * d.1) (g.result d.2)) s.mem }
/-- DEFERRED_RESULT_WRITE (R30). A thread that has ended takes nothing. -/
def deferredResultWriteBody (gid : Nat) (s : State) : State :=
  match s.groups.find? (fun (g : Group) => g.gid == gid) with
  | none => s
  | some g =>
    if !g.ready then s
    else match (s.saved.find? (fun e => e.1 == g.tid && e.2.team == g.team)).bind (fun e => s.areaSnoop e.2.savea true) with
    | some s => s
    | none =>
      let s : State := { s with groups := s.groups.filter (fun (x : Group) => x.gid != gid) }
      let tile := match s.teams.find? (·.id == g.team) with | some x => x.tile | none => s.tileOf g.tid
      let s := match g.time with | some t => s.raiseHorizon tile t | none => s
      (s.resave g).updThread g.tid g.team (fun t => if t.status = .ended then t else t.takeResult g)

/-! The claim (R197, R397). -/
/-- MATRIX_CLAIM_GRANT (R197): the state of R196 is set, then the result is written. A request of a thread that has ended since is granted and given
back at once (R4, R112). -/
def matrixClaimGrantBody (tile : Nat) (s : State) : State :=
  let t := s.tile tile
  match t.claimant with
  | some c => s.claimed tile c
  | none => match t.claimQ with
    | [] => s
    | (tid, _) :: _ =>
      if s.claimAwaited tile then s
      else if tid < 8192 then (s.takeClaim tile tid).claimed tile tid
      else s.claimed tile tid

/-! Weight loads (R212, R213, R229). -/
def isFill : Nat × MxEffect → Bool
  | (_, .wload _) => true
  | (_, .wloada _) => true
  | _ => false
/-- Accepts the block's next load of weights: what stands before it in MSID order takes effect, then the load (log entry 18). -/
def State.acceptFill (s : State) (tid : Nat) (wla : Bool) : State :=
  match s.commitHead tid with
  | none => s
  | some b =>
    let es := b.mxEffects
    let before := es.takeWhile (fun e => !isFill e)
    let go (n : Nat) (e : MxEffect) (f : Fill) : State :=
      if f.wla ≠ wla || (s.tile (s.tileOf tid)).mx.backSt = .filling then s
      else
        let s := before.foldl (fun s e => s.applyMx tid e.2) s
        let s := s.applyMx tid e
        let k := s.tileOf tid
        let t := s.tile k
        (s.setTile k { t with mx := t.mx.accept f }).updBlock tid b.serial (fun b =>
          { b with accepted := true, effects := b.effects.filter (fun x => match x.eff with | .mx m _ => n < m | _ => true) })
    match es.drop before.length with
    | (n, .wload f) :: _ => go n (.wload f) f
    | (n, .wloada f) :: _ => go n (.wloada f) f
    | _ => s
def fillAcceptBody (tid : Nat) (s : State) : State := s.acceptFill tid false
def wloadaAcceptBody (tid : Nat) (s : State) : State := s.acceptFill tid true
/-- FILL_END (R212, R228): the fill writes its next segment, reading at its bound (R230), or ends. -/
def fillEndBody (tile : Nat) (s : State) : State :=
  let t := s.tile tile
  match t.mx.fill with
  | none => s
  | some f =>
    if t.mx.backSt ≠ .filling || (!f.wla && !s.underCeiling f.bound) then s
    else
      let w : Who := ⟨tile, f.asid, f.supervisor⟩
      match runFill ⟨s, { who := w, owner := t.claimant.map s.party, bound := f.bound, cells := [] }⟩ f s.fresh t.mx with
      | .far l => l.foldl (fun s k => s.askFar tile f.asid.toNat k f.bound) s
      | .walk l => s.askPages tile f.asid l
      | .waits => s
      | .ended m touched expands =>
        let s := touched.foldl (fun s e => (s.touchRange w e.1 e.2 f.bound).1) s
        let s := match m.failRec with | some f => s.meetAt w f.cause f.addr | none => s
        let r := s.tick
        r.2.setTile tile { r.2.tile tile with mx := if !expands then m else { m with stall := Nat.min (2 ^ 32 - 1) (m.stall + Config.fillStall r.1) } }

def execBlockFetch (tid : Nat) (guess : Option Word) (s : State) : Host.Outcome State Fault Refusal := .next (blockFetchBody tid guess s)
def execBlockDecode (tid : Nat) (s : State) : Host.Outcome State Fault Refusal := .next (blockDecodeBody tid s)
def execTrapEntry (tid : Nat) (s : State) : Host.Outcome State Fault Refusal := .next (trapEntryBody tid s)
def execDeferredResultWrite (gid : Nat) (s : State) : Host.Outcome State Fault Refusal := .next (deferredResultWriteBody gid s)
def execMatrixClaimGrant (tile : Nat) (s : State) : Host.Outcome State Fault Refusal := .next (matrixClaimGrantBody tile s)
def execFillAccept (tid : Nat) (s : State) : Host.Outcome State Fault Refusal := .next (fillAcceptBody tid s)
def execWloadaAccept (tid : Nat) (s : State) : Host.Outcome State Fault Refusal := .next (wloadaAcceptBody tid s)
def execFillEnd (tile : Nat) (s : State) : Host.Outcome State Fault Refusal := .next (fillEndBody tile s)

end Sys2Proof.Machine
end

