-- ==== Sys2Proof/Machine/Context.lean ====
section
/-! DEFINITION. Pre-emption, saving and resuming (R233, R340, R341, R391 to R397), and lanes that fail (R400 to R402). -/
namespace Sys2Proof.Machine

/-! Pre-emption (R391). -/
/-- PREEMPT: from now on no new block of the thread is fetched. -/
def preemptBody (tid : Nat) (s : State) : State :=
  let t := s.thread tid
  if t.status = .running then s.setThread tid { t with status := .stopping } else s
/-- PREEMPT_GRACE_EXPIRY: what has not committed is aborted; a block whose load of weights has been accepted, or that has entered something into a
queue, is committing (log entries 18, 67). -/
def preemptGraceExpiryBody (tid : Nat) (s : State) : State :=
  let t := s.thread tid
  if t.status = .stopping && !t.flight.any (·.accepted) then s.discardFlight tid else s

/-! Saving (R392, R393). -/
/-- A strip of the thread is in flight. -/
def Tile.stripOf (t : Tile) (party : Nat) : Bool := t.queues.any (fun q => q.2.entries.any (fun e => e.ofThread party && e.inFlight))
def Tile.withoutEntries (t : Tile) (party : Nat) : Tile :=
  { t with queues := t.queues.map (fun q => (q.1, { q.2 with entries := q.2.entries.filter (fun e => !e.ofThread party) })) }
/-- The partial fold values of an entry to be saved are combined into the one value p of R394 (R268: in any order). -/
def CopyEntry.onePartial (seed : Nat) (e : CopyEntry) : CopyEntry :=
  { e with partials := combineAny (Shadow.ffmt e.view) (Shadow.fop e.view) seed e.partials.length e.partials }
/-- Firmware logs a fatal trap against the fault domain of the thread's region (R389, R435): a record of class 10, of which INFO holds TCAUSE and in
[63:56] FDOM (DESIGN CHOICE, log entry 76). -/
def State.logFatal (s : State) (t : Thread) : State :=
  s.logRecord (clusterOfTile t.tile) 10 0 (logTile t.tile) 0 0 (t.tcause.toNat + s.fdomOf (s.teamAsid t.team t.asid) t.region * 2 ^ 56)
/-- The save is complete: the thread stands in the save area, its groups and place are released, its claim passes to the next waiter. A thread that a
fatal trap has ended takes its team with it (R389). -/
def contextSaveEndBody (tid : Nat) (s : State) : State :=
  let t := s.thread tid
  let x := s.tile t.tile
  if t.status ≠ .stopping || !t.flight.isEmpty || t.vlOut ≠ 0 || x.stripOf (s.party tid) then s
  else match s.areaSnoop t.savea true with
  | some s => s
  | none =>
    let f := s.savedForm tid t
    let t' := { f with status := .saved, dying := none, savedEntries := f.savedEntries.map (fun e => (e.1, e.2.onePartial s.fresh)) }
    let s := f.savedEntries.foldl (fun s e => { s with fresh := s.fresh + 2 * e.2.partials.length }) s
    let s := s.setTile t.tile (x.withoutEntries (s.party tid))
    let s := (s.withdrawClaim t.tile tid).releaseClaim t.tile tid
    let s := if t'.mat then matrixClaimGrantBody t.tile s else s
    let s := s.freeGroups t.tile t.lanes
    let s := { s.setThread tid Thread.absent with saved := s.saved ++ [(tid, t')] }
    let s := s.writeSave tid t' t.barred.head?
    match t.dying with
    | some w => (s.logFatal t).killTeam t.team w
    | none => s

/-! Resuming (R341, R397). -/
/-- The saved entries re-enter their queues; the first of each waits for the transfer recorded (R341). -/
def State.reenter (s : State) (tile : Nat) (ahead : List (Nat × Nat)) : List (Nat × CopyEntry) → List Nat → State
  | [], _ => s
  | (q, e) :: r, seen =>
    let w := if seen.contains q then none else (ahead.find? (·.1 == q)).map (fun a => (a.2 / 2 ^ 35, a.2 / 2 ^ 32 % 8, a.2 % 2 ^ 32))
    let x := s.tile tile
    let k := mget CopyQueue.empty x.queues q
    (s.setTile tile { x with queues := mset CopyQueue.empty x.queues q { k with since := k.waitsFrom s.cycle, entries := k.entries ++ [{ e with waitFor := w }] } }).reenter tile ahead r (q :: seen)
/-- FLOOR at restore (R303). -/
def restoreFloor (h f : Time) : Time := if lagging h f then h - sweepSpan else f
/-- RESUME: the thread as its save area gives it. -/
def resumeBody (tid : Nat) (s : State) : State :=
  match s.saved.find? (·.1 == tid) with
  | none => s
  | some (_, kept) =>
    match s.areaSnoop kept.savea false with
    | some s => s
    | none =>
    let t := if s.saveHeaderOk kept then s.restored kept else kept
    match s.teams.find? (·.id == t.team) with
    | none => s
    | some team =>
      let x := s.tile team.tile
      match s.resumeCore team.tile tid with
      | none => s
      | some core =>
        if !s.resumable tid t team.tile || (t.mat && x.claimant.isSome) then s
        else if !s.saveHeaderOk kept then
          let t' := t.record ⟨cWSTATE, 0, 0, 0, 5⟩ t.pc
          let s : State := { s with saved := s.saved.map (fun e => if e.1 = tid && e.2.team = t.team then (tid, t') else e) }
          ((s.writeSave tid t' t.barred.head?).logFatal t').killTeam t.team (errWitness 5 (cWSTATE * 2 ^ 48 + t.pc.toNat % 2 ^ 48))
        else
          let s : State := { s with saved := removeFirst (tid, kept) s.saved }
          let lanes := groupMask ((groupList x.free).take t.groups)
          let t' := { t with status := .running, tile := team.tile, core := core, lanes := lanes, floor := restoreFloor x.horizon t.floor,
                             savedEntries := [], savedCopies := [], savedMx := none, mat := false, mcw := none }
          let s := (s.takeGroups team.tile lanes).setThread tid t'
          let x := s.tile team.tile
          let x := if t.mat then { x with claimant := some tid, mx := t.savedMx.getD MxState.grant, claimSince := s.cycle } else x
          let x := match t.mcw with | some g => { x with claimQ := x.claimQ ++ [(tid, g)] } | none => x
          (s.setTile team.tile x).reenter team.tile t.savedCopies t.savedEntries []

/-! Lanes (R400 to R402). -/
/-- The oldest block in flight in which a slot has fired that runs on lanes: as a vector instruction, or as a write of a vector register, of which a cell
fails (R403). A block with an accepted load of weights or an entry in a queue is past that: it is committing (log entries 18, 67). -/
def Thread.blockOfSlot (t : Thread) (slot : Nat) : Option BlockExec :=
  t.flight.find? (fun b => b.fired.contains slot &&
    !b.accepted && (match b.raw slot with | some r => r.op.layout == .vec || r.op.layout == .mem || r.op.layout == .mx || r.op == .wrv | none => false))
/-- The block begins again; younger ones go (R16). -/
def State.restartBlock (s : State) (tid serial : Nat) : State :=
  let s := s.dropLoads tid (fun n => ((s.thread tid).older serial).any (fun b => b.serial == n))
  let t := s.thread tid
  s.setThread tid { t with flight := t.older serial ++ ((t.block serial).map (fun b => [b.restart])).getD [] }
/-- LANE_RESIDUE_FAILURE: the block is aborted without a trap, and the lane's group tests itself. `lane` counts the tile's lanes, 16 to a group; 256 is
the matrix array, whose failure is logged, UNIT detail 1, for R436 (DEDUCED, log entry 72). -/
def laneResidueFailureBody (tid slot elem lane : Nat) (s : State) : State :=
  let t := s.thread tid
  match t.blockOfSlot slot with
  | none => s
  | some b =>
    if lane = 256 then (s.restartBlock tid b.serial).logRecord (clusterOfTile t.tile) 6 0 (logTile t.tile + 1) 0 0 tid
    else if !t.lanes.getLsbD (lane / 16) then s
    else
      let s := s.restartBlock tid b.serial
      let x := s.tile t.tile
      s.setTile t.tile { x with testing := x.testing ++ [⟨lane / 16, lane % 16, tid, b.serial, slot, elem⟩] }
/-- A record of a lane (R435). -/
def State.logLane (s : State) (tile group tid action : Nat) : State :=
  s.logRecord (clusterOfTile tile) 6 action (logTile tile) (group * 2 ^ 18) 0 tid
/-- A passing test: the third in a row for the block traps (R400). -/
def State.strike (s : State) (x : LaneTest) : State :=
  match (s.thread x.tid).block x.serial with
  | none => s
  | some b =>
    let s := s.updBlock x.tid x.serial (fun k => { k with strikes := b.strikes + 1 })
    if b.strikes + 1 < 3 then s else s.raise x.tid x.serial (mkFault cUNCORR x.slot 2 0 x.elem)
/-- A failed lane: the group's spare takes over, or the neighbour performs both. -/
def State.loseLane (s : State) (tile group tid : Nat) : State :=
  let x := s.tile tile
  let m := groupMask [group]
  if x.spares.getLsbD group then (s.setTile tile { x with spares := x.spares &&& ~~~m }).logLane tile group tid 3
  else (s.setTile tile { x with doubled := x.doubled ||| m }).logLane tile group tid 4
/-- LANE_SELF_TEST_END. -/
def laneSelfTestEndBody (tile group : Nat) (pass : Bool) (s : State) : State :=
  let x := s.tile tile
  match x.testing.find? (·.group == group) with
  | none => s
  | some l =>
    let s := s.setTile tile { x with testing := removeFirst l x.testing }
    if pass then (s.logLane tile group l.tid 0).strike l
    else
      (s.updBlock l.tid l.serial (fun k => { k with strikes := 0 })).loseLane tile group l.tid

def execPreempt (tid : Nat) (s : State) : Host.Outcome State Fault Refusal := .next (preemptBody tid s)
def execPreemptGraceExpiry (tid : Nat) (s : State) : Host.Outcome State Fault Refusal := .next (preemptGraceExpiryBody tid s)
def execContextSaveEnd (tid : Nat) (s : State) : Host.Outcome State Fault Refusal := .next (contextSaveEndBody tid s)
def execResume (tid : Nat) (s : State) : Host.Outcome State Fault Refusal := .next (resumeBody tid s)
def execLaneResidueFailure (tid slot elem lane : Nat) (s : State) : Host.Outcome State Fault Refusal := .next (laneResidueFailureBody tid slot elem lane s)
def execLaneSelfTestEnd (tile group : Nat) (pass : Bool) (s : State) : Host.Outcome State Fault Refusal := .next (laneSelfTestEndBody tile group pass s)

end Sys2Proof.Machine
end

