-- ==== Sys2Proof/Machine/CopyQueues.lean ====
section
/-! DEFINITION. The copy engine (R265 to R270, R329 to R336): strips, folds, stamps, queue fences. -/
namespace Sys2Proof.Machine

/-! The walk (R267). -/
/-- T, the elements of a transfer. -/
def Shadow.count (v : Shadow) : Nat := ((List.range (Shadow.ndim v + 1)).map (Shadow.size v)).foldl (· * ·) 1
def Shadow.perStrip (v : Shadow) : Nat := 1024 / Shadow.esz v
def Shadow.strips (v : Shadow) : Nat := (Shadow.count v * Shadow.esz v + 1023) / 1024
/-- The displacement of element i along strides. -/
def walkDisp (v : Shadow) (stride : Nat → Word) : Nat → Nat → Nat → Int
  | 0, _, _ => 0
  | f + 1, k, i => (if k = 0 then ((i % Shadow.size v 0 * Shadow.esz v : Nat) : Int) else ((i % Shadow.size v k : Nat) : Int) * (stride k).toInt) +
      (if k < Shadow.ndim v then walkDisp v stride f (k + 1) (i / Shadow.size v k) else 0)
/-- An element's address as PADD forms it; none outside its window, with the word it comes to. -/
def walkAddr (base : Word) (d : Int) : Option Ptr × Word := ((decodePtr base).bind (fun p => p.add d), base + BitVec.ofInt 64 d)
def Shadow.saddr (v : Shadow) (i : Nat) : Option Ptr × Word := walkAddr (Shadow.src v) (walkDisp v (Shadow.sstr v) 7 0 i)
def Shadow.daddr (v : Shadow) (i : Nat) : Option Ptr × Word :=
  if Shadow.scalar v then walkAddr (Shadow.dst v) 0 else walkAddr (Shadow.dst v) (walkDisp v (Shadow.dstr v) 7 0 i)
def Shadow.stripEls (v : Shadow) (j : Nat) : List Nat :=
  let n := Shadow.perStrip v
  (List.range (Nat.min n (Shadow.count v - j * n))).map (· + j * n)

/-! Checks (R270, R277, R330). -/
/-- The checks of one element: scratchpads are found by allocation id, device-wide. -/
def copyCheck (s : State) (w : Who) (kind : AccKind) (p : Ptr) (n : Nat) : Checked :=
  match p.space with
  | .scratch id =>
    if p.off % n ≠ 0 then .fault cALIGN 0
    else match s.alloc id with
      | none => .fault cFOREIGNSP 0xFF
      | some a =>
        if a.asid != w.asid then .fault cFOREIGNSP a.tile
        else if a.units * 16384 < p.off + n then .fault cSPBOUND 0
        else .ok ⟨scratchKey a.tile (a.unit * 16384 + p.off), .space, false, false, p.encode⟩
  | _ => checkPtr s w kind true p n n
/-- The witness of an element that fails a check. -/
def copyFail (cause strip : Nat) (a : Word) : Word := if cause = cFOREIGNSP then errWitness 1 strip else errWitness 5 (bitsAt a 0 56)
/-- Why a strip does not begin: it ends the transfer with a witness, or waits for a page's walk (R381). -/
inductive CopyStop where
  | fails (w : Word)
  | walks (page : Nat)
  deriving DecidableEq, Repr
def checkEl (s : State) (w : Who) (kind : AccKind) (strip n : Nat) (a : Option Ptr × Word) : Except CopyStop Loc :=
  match a.1 with
  | none => .error (.fails (copyFail cNONCANON strip a.2))
  | some p => match copyCheck s w kind p n with
    | .ok l => .ok l
    | .fault c _ => .error (.fails (copyFail c strip a.2))
    | .miss va => .error (.walks va)
/-- An error a peer has answered with, in the stamp of a copy: OWNER with the strip's index (R298), else the line as this device names it (R176). -/
def peerStop (strip line : Nat) (w : Word) : Word := if bitsAt w 56 6 = 1 then errWitness 1 strip else errWitness (bitsAt w 56 6) (line * 128)
/-- A source element that the home cannot read. -/
def sourceError (s : State) (w : Who) (b : Time) (strip : Nat) (l : Loc) (n : Nat) : Option Word :=
  if l.route = .host || l.route = .peer then
    ((s.farLine (lineOf l.key) w.asid.toNat b).bind (·.bad)).map (peerStop strip (lineOf l.key))
  else (readError s l.key n).map (fun _ => errWitness 3 (lineOf l.key * 128))
/-- The strip's elements, each with where it is read and written; or why the first that fails stops it. A fold reads a HOST line it is to write (R411). -/
def checkStrip (s : State) (w : Who) (b : Time) (v : Shadow) (strip : Nat) : List Nat → Except CopyStop (List (Loc × Loc))
  | [] => .ok []
  | i :: r =>
    let n := Shadow.esz v
    match checkEl s w .read strip n (Shadow.saddr v i) with
    | .error e => .error e
    | .ok x => match sourceError s w b strip x n with
      | some e => .error (.fails e)
      | none => match checkEl s w .write strip n (Shadow.daddr v i) with
        | .error e => .error e
        | .ok y =>
          match (if y.route = .host && Shadow.fold v != 0 then sourceError s w b strip y n else none) with
          | some e => .error (.fails e)
          | none => (checkStrip s w b v strip r).map (fun l => (x, y) :: l)

/-! Owner tags (R333). -/
/-- The owner tag under a pointer: id and generation, or none. -/
def State.tagUnder (s : State) (a : Word) : Nat :=
  match decodePtr a with
  | some ⟨.scratch id, _⟩ => ownerTag id (mget 0 s.gens id)
  | some ⟨.shared c, o⟩ => (match s.cisternAt c o 1 with | some x => ownerTag x.id x.gen | none => 0)
  | _ => 0
def State.tagsOf (s : State) (v : Shadow) : List (Nat × Nat) :=
  [(0, s.tagUnder (Shadow.src v)), (1, s.tagUnder (Shadow.dst v)), (2, s.tagUnder (Shadow.stamp v))]

/-! Bounds (R267, R269, R331, R332, R341). -/
/-- The stamp's time of a transfer that has ended: from its queue, or from the queue's horizon. -/
def CopyQueue.stampTime (q : CopyQueue) (seq : Nat) : Option Time :=
  match q.kept.find? (fun c => c.seq % 2 ^ 32 == seq % 2 ^ 32) with
  | some c => if wKind c.stamp = 0 then some (wTime c.stamp) else none
  | none => q.horizon
/-- A transfer has ended. -/
def State.copyEnded (s : State) (tile q seq : Nat) : Bool := (s.transferNamed tile q seq).isNone
def witnessTime (w : Option Word) : Option Time := w.bind (fun x => if wKind x = 0 then some (wTime x) else none)
/-- The read bound of an entry that begins, or goes on after a resumption. -/
def State.entryBoundOf (s : State) (q : CopyQueue) (e : CopyEntry) : Time :=
  let awaited := match e.waitFor with | some (t, n, seq) => (s.copyQueue t n).stampTime seq | none => none
  let b := match e.bound with | some b => b | none => e.floor
  serialMaxL ((if e.begun && e.waitFor.isNone then [] else [witnessTime q.lastStamp, awaited]).filterMap id) b

/-! Values. -/
def State.elBytes (s : State) (w : Who) (b : Time) (l : Loc) (n : Nat) : List Byte :=
  match (if l.route = .host || l.route = .peer then s.farLine (lineOf l.key) w.asid.toNat b else none) with
  | some x => (x.bytes.drop (l.key % 128)).take n
  | none => readBytes s.mem l.key n
def bytesWord (l : List Byte) : Word := BitVec.ofNat 64 (leNat l)
/-- One partial of a run of elements in walk order. -/
def foldRun (fmt fop : Nat) : List Word → List Word → List Word
  | p :: _, x :: r => foldRun fmt fop [foldVal fmt fop p x] r
  | [], x :: r => foldRun fmt fop [x] r
  | p, [] => p

/-! Strips. -/
def State.updEntry (s : State) (tile q : Nat) (seq : Nat) (fence : Bool) (f : CopyEntry → CopyEntry) : State :=
  let x := s.copyQueue tile q
  s.setCopyQueue tile q { x with entries := x.entries.map (fun e => if e.seq = seq && e.fence.isSome = fence then f e else e) }
def ownerParty : CopyOwner → Nat
  | .thread t => t
  | .packet q _ => 4096 + q
def State.copyStore (s : State) (tile q : Nat) (e : CopyEntry) (w : Option Time) (b : Time) (kind : ReqKind) (route : Route) (compress : Bool) : State :=
  let r := s.tick
  let x : StoreReq := { id := r.1, tid := none, who := some (ownerParty e.owner), team := 0, tile := tile, gid := none, kind := kind, route := route,
                        compress := compress, w := w, floor := some b, dram := false, spill := false, copy := some (tile, q),
                        home := homeOf s kind.key }
  let s : State := { r.2 with stores := r.2.stores ++ [x] }
  x.lines.foldl (fun s l => s.storeDrops tile l) s
/-- Writes and folds of a strip: to the homes of the cluster as requests, elsewhere as trains (R336). -/
def State.copyWrites (s : State) (tile q : Nat) (e : CopyEntry) (b : Time) (els : List StoreEl) : State :=
  let far := fun (x : StoreEl) => (s.trainDest tile x.key x.route).isSome
  let s' := (groupEls sameGroup els.length (els.filter (fun x => !far x))).foldl (fun s g =>
    s.copyStore tile q e (some b) b (.write (elCells g)) (routeOf (g.map (·.route))) (g.any (·.compress))) s
  s'.launchTrains (trainOf 1 tile 0 e.asid (some b) (some b) none (some (ownerParty e.owner)) (some (tile, q)) e.strip) true ((els.filter far).map trainElOf)
def State.copyFolds (s : State) (tile q : Nat) (e : CopyEntry) (b : Time) (els : List FoldEl) : State :=
  let far := fun (x : FoldEl) => (s.trainDest tile x.key x.route).isSome
  let s' := (groupEls sameFold els.length (els.filter (fun x => !far x))).foldl (fun s g =>
    s.copyStore tile q e (some b) b (.folds g) (routeOf (g.map (·.route))) (g.any (·.compress))) s
  s'.launchTrains (trainOf (if Shadow.scalar e.view then 4 else 3) tile 0 e.asid (some b) (some b) none (some (ownerParty e.owner)) (some (tile, q)) e.strip) true
    ((els.filter far).map trainFoldOf)
/-- Elements of a HOST page that a strip folds into: read with RdCurr, combined in walk order, written with WrCur (R411). -/
def hostFolds (m : Memory) (els : List FoldEl) : List StoreEl :=
  let done := els.foldl (fun m x => writeBytes m x.key (leBytes (foldBytes x.fmt) (foldVal x.fmt x.fop (BitVec.ofNat 64 (readNat m x.key (foldBytes x.fmt))) x.val).toNat)) m
  els.map (fun x => ⟨0, x.key, readBytes done x.key (foldBytes x.fmt), x.route, x.compress⟩)
/-- The updates of a strip's destinations; `host` holds those bytes of HOST pages that it has read. -/
def State.copyUpdates (s : State) (tile q : Nat) (e : CopyEntry) (b : Time) (host : Memory) (els : List FoldEl) : State :=
  (s.copyFolds tile q e b (els.filter (fun x => x.route != .host))).copyWrites tile q e b (hostFolds host (els.filter (fun x => x.route == .host)))
/-- What a strip writes from the values read (R268), and the partials it leaves. -/
def State.stripWork (s : State) (tile q : Nat) (e : CopyEntry) (b : Time) (l : List (Loc × Loc)) (vals : List (List Byte)) (host : Memory) : State × List Word :=
  let v := e.view
  let words := vals.map bytesWord
  let fmt := Shadow.ffmt v; let fop := Shadow.fop v
  let last := Shadow.strips v ≤ e.strip + 1
  match Shadow.fold v with
  | 0 => (s.copyWrites tile q e b ((l.zip vals).map (fun x => ⟨0, x.1.2.key, x.2, x.1.2.route, x.1.2.compress⟩)), [])
  | 1 | 2 => (s.copyUpdates tile q e b host ((l.zip words).map (fun x => ⟨fmt, fop, x.1.2.key, x.2, x.1.2.route, x.1.2.compress⟩)), [])
  | k =>
    let ps := if k = 3 then foldRun fmt fop e.partials words else e.partials ++ foldRun fmt fop [] words
    if !last then (s, ps)
    else
      let seed := s.fresh
      let s : State := { s with fresh := s.fresh + 2 * ps.length }
      match combineAny fmt fop seed ps.length ps, l with
      | p :: _, (_, d) :: _ => (s.copyUpdates tile q e b host [⟨fmt, fop, d.key, p, d.route, d.compress⟩], ps)
      | _, _ => (s, ps)
def isFarLoc (l : Loc) : Bool := l.route == .host || l.route == .peer
/-- Serves the sources' lines at their homes as loads with a bound. -/
def State.serveSources (s : State) (tile : Nat) (b : Time) (l : List Loc) : State :=
  let near := (l.filter (fun x => !isFarLoc x)).map (fun x => (lineOf x.key, x.route, x.compress))
  let s := near.eraseDups.foldl (fun s x => (serveLines s tile b x.2.1 x.2.2 [x.1] none).1) s
  s.dropFar ((l.filter isFarLoc).map (fun x => lineOf x.key))
/-- Strips in flight of a tile's engine (R329). -/
def Tile.stripsInFlight (t : Tile) : Nat := t.queues.foldl (fun a q => a + (q.2.entries.filter (fun e => e.inFlight && e.stamping.isNone)).length) 0
/-- The thread of an entry is being pre-empted: its transfer stops at the strip boundary (R340). -/
def State.ownerStops (s : State) : CopyOwner → Bool
  | .thread p => s.party (partyTid p) == p && (s.thread (partyTid p)).status == .stopping
  | .packet .. => false
/-- A resumed entry waits until the transfer recorded for it has ended (R341). -/
def State.entryHeld (s : State) (e : CopyEntry) : Bool :=
  match e.waitFor with | some (t, n, seq) => !s.copyEnded t n seq | none => false
/-- What the next strip of a queue comes to: there is none; something must be asked for first; the transfer stops; or its reads and writes, under a
bound. A strip that begins while the free of an allocation under it waits does not pass its comparison (R333); a transfer that has recorded no tags waits
for that free. -/
inductive StripPlan where
  | idle
  | asks (s : State)
  | stops (b : Time) (w : Word)
  | goes (b : Time) (l : List (Loc × Loc))
/-- The HOST destinations that a fold's strip updates, whose lines it reads: of a scalar fold, that of its last strip (R268, R411). -/
def foldedHost (e : CopyEntry) (l : List (Loc × Loc)) : List Loc :=
  if Shadow.fold e.view = 0 || (2 < Shadow.fold e.view && e.strip + 1 < Shadow.strips e.view) then []
  else (l.map (·.2)).filter (fun y => y.route == .host)
/-- Its sources' lines wait at their homes: of the host and of peers to be fetched, of this device to be let through. -/
def State.sourcesWait (s : State) (tile : Nat) (e : CopyEntry) (b : Time) (srcs : List Loc) : Option State :=
  let far := ((srcs.filter isFarLoc).map (fun x => lineOf x.key)).eraseDups.filter (fun k => (s.farLine k e.asid.toNat b).isNone)
  if !far.isEmpty then some (far.foldl (fun s k => s.askFar tile e.asid.toNat k b) s)
  else (srcs.filter (fun x => !isFarLoc x)).findSome? (fun x => s.engineGate (some (ownerParty e.owner)) false x.route [x.key])
def State.stripPlan (s : State) (tile queue : Nat) : StripPlan :=
  let q := s.copyQueue tile queue
  match q.entries with
  | [] => .idle
  | e :: _ =>
    if e.fence.isSome || e.inFlight || e.stamping.isSome || e.abort.isSome || e.failWit.isSome || Shadow.strips e.view ≤ e.strip ||
      s.entryHeld e || s.ownerStops e.owner then .idle
    else
      let b := s.entryBoundOf q e
      if !s.underCeiling b then .idle
      else if e.begun && (e.tags ≠ s.tagsOf e.view || s.freesUnder e.tags) then .stops b (errWitness 1 e.strip)
      else if s.freesUnder (s.tagsOf e.view) then .idle
      else match checkStrip s ⟨tile, e.asid, e.supervisor⟩ b e.view e.strip (Shadow.stripEls e.view e.strip) with
        | .error (.fails w) => .stops b w
        | .error (.walks va) => .asks (s.askPages tile e.asid [va])
        | .ok l => match s.sourcesWait tile e b (l.map (·.1) ++ foldedHost e l) with
          | some s => .asks s
          | none => .goes b l
/-- Another queue with a strip ready has waited longer; ties go to the lower number (R329). -/
def State.outwaited (s : State) (tile queue : Nat) : Bool :=
  let mine := (s.copyQueue tile queue).since
  (s.tile tile).queues.any (fun k => k.1 != queue && (k.2.since < mine || (k.2.since = mine && k.1 < queue)) &&
    (match s.stripPlan tile k.1 with | .goes .. => true | _ => false))
/-- A strip that begins: its sources are served, its writes leave, its region is charged. -/
def State.beginStrip (s : State) (tile queue : Nat) (e : CopyEntry) (b : Time) (l : List (Loc × Loc)) : State :=
  let srcs := l.map (·.1)
  let vals := srcs.map (fun x => s.elBytes ⟨tile, e.asid, e.supervisor⟩ b x (Shadow.esz e.view))
  let host := (foldedHost e l).foldl (fun m y => writeBytes m y.key (s.elBytes ⟨tile, e.asid, e.supervisor⟩ b y (Shadow.esz e.view))) []
  let tags := if e.begun then e.tags else s.tagsOf e.view
  let s := s.updEntry tile queue e.seq false (fun x => { x with begun := true, bound := some b, waitFor := none, tags := tags, inFlight := true })
  let s := (s.serveSources tile b (srcs ++ foldedHost e l)).walksUsed tile e.asid
  let y := s.stripWork tile queue e b l vals host
  let s := y.1.updEntry tile queue e.seq false (fun x => { x with partials := y.2 })
  { s with agenda := s.agenda ++ [Instr.budgetCharge (s.teamAsid (teamOfParty (ownerParty e.owner)) e.asid) e.region 3 (l.length * Shadow.esz e.view)] }
/-- COPY_STRIP (R267, R329, R330): the next strip of the queue's first entry, where the engine has a slot and no other queue has waited longer. -/
def copyStripBody (tile queue : Nat) (s : State) : State :=
  match (s.copyQueue tile queue).entries with
  | [] => s
  | e :: _ =>
    if 4 ≤ (s.tile tile).stripsInFlight then s
    else match s.stripPlan tile queue with
      | .idle => s
      | .asks s => s
      | .stops b w => (if wKind w = 1 && bitsAt w 56 6 = 3 then s.meetBad (lineOf (bitsAt w 0 56)) else s).updEntry tile queue e.seq false (fun x =>
          { x with begun := true, bound := some b, waitFor := none, tags := if e.begun then e.tags else s.tagsOf e.view, failWit := some w })
      | .goes b l => if s.outwaited tile queue then s else s.beginStrip tile queue e b l
/-- Requests of a queue's entry are outstanding. -/
def State.copyOpen (s : State) (tile queue : Nat) : Bool :=
  s.stores.any (fun r => r.copy == some (tile, queue)) || s.trains.any (fun t => t.copy == some (tile, queue))
/-- The first entry of a queue waits from this cycle on (R329). -/
def State.waitsNow (s : State) (tile queue : Nat) : State := s.setCopyQueue tile queue { s.copyQueue tile queue with since := s.cycle }
/-- COPY_STRIP_END (R329): frees that have waited for the strip go on (R333). -/
def copyStripEndBody (tile queue : Nat) (s : State) : State :=
  match (s.copyQueue tile queue).entries with
  | e :: _ =>
    if !e.inFlight || e.stamping.isSome || s.copyOpen tile queue then s
    else ((s.updEntry tile queue e.seq false (fun x => { x with inFlight := false, strip := x.strip + 1 })).waitsNow tile queue).settleFrees
  | [] => s

/-! Stamps (R270, R271, R334). -/
/-- A queue keeps the status of its last 64 transfers, and of those it has dropped the greatest stamp (R332). -/
def CopyQueue.keep (q : CopyQueue) (st : CopyStatus) : CopyQueue :=
  let kept := q.kept ++ [st]
  let past := kept.take (kept.length - 64)
  { q with kept := kept.drop (kept.length - 64)
           horizon := past.foldl (fun a c => if wKind c.stamp = 0 then joinTime a (wTime c.stamp) else a) q.horizon }
/-- A transfer ends: its place, its status in the queue that its id names, the entry bound of what follows, its packet. `written` is the stamp where one
was written. -/
def State.endCopy (s : State) (tile queue : Nat) (e : CopyEntry) (w : Word) (written : Bool) : State :=
  let q := s.copyQueue tile queue
  let home := e.origin tile
  let st : CopyStatus := ⟨home.2, e.asid, wKind w == 1, if wKind w = 1 then bitsAt w 56 6 else 0, e.strip, if written then w else satisfied⟩
  let q := { q with
    entries := q.entries.filter (fun x => x.seq != e.seq || x.fence.isSome)
    lastStamp := if written && wKind w = 0 then some w else none
    since := s.cycle }
  let s := s.setCopyQueue tile queue q
  let s := s.setCopyQueue home.1 queue ((s.copyQueue home.1 queue).keep st)
  let s : State := { s with farLines := s.farLines.filter (fun e => e.bad.isNone) }
  match e.owner with
  | .packet n no => s.packetDone n no (if wKind w = 0 then some (wTime w) else none) (if wKind w = 1 then some w else none)
  | .thread _ => s
/-- The witness a transfer's stamp takes. -/
def CopyEntry.stampValue (e : CopyEntry) : Word :=
  match e.failWit, e.abort with
  | some w, _ => w
  | none, some w => if wKind w = 1 && bitsAt w 56 6 = 4 then errWitness 4 e.strip else w
  | none, none => if Shadow.count e.view = 0 then satisfied else optWitness e.last
/-- A stamp that cannot be written: the device logs its address. -/
def State.stampFails (s : State) (tile queue : Nat) (e : CopyEntry) (w : Word) : State :=
  (s.logRecord (clusterOfTile tile) 10 0 (logTile tile) 0 (bitsAt (Shadow.stamp e.view) 0 56) 0).endCopy tile queue e w false
/-- Writes the stamp at its location; on its way to another cluster, a peer or the host it leaves as a request (R336). -/
def State.putStamp (s : State) (tile queue : Nat) (e : CopyEntry) (w : Word) (l : Loc) : State :=
  let time := if wKind w = 0 then some (wTime w) else none
  let floor := e.bound.getD e.floor
  let bytes := leBytes 8 w.toNat
  let leave (s : State) : State := s.updEntry tile queue e.seq false (fun x => { x with inFlight := true, stamping := some w, failWit := none })
  if (s.trainDest tile l.key l.route).isSome then
    (leave s).launchTrains (trainOf 1 tile 0 e.asid time (some floor) none (some (ownerParty e.owner)) (some (tile, queue)) e.strip) true [⟨l.key, bytes, none, l.route, l.compress, 0⟩]
  else if l.route = .host then (leave s).copyStore tile queue e time floor (.write (cellsOf l.key bytes)) .host false
  else match s.engineGate (some (ownerParty e.owner)) true l.route [l.key] with
    | some s => s
    | none =>
      if s.lineBad l.key then (s.meetBad (lineOf l.key)).stampFails tile queue e (errWitness 3 l.key)
      else match s.storeAt l.key (cellsOf l.key bytes) time (some floor) l.route l.compress with
        | some y => y.1.endCopy tile queue e w true
        | none => s
/-- COPY_STAMP_WRITE (R270, R334): a transfer that has ended its strips, or stops. -/
def copyStampWriteBody (tile queue : Nat) (s : State) : State :=
  match (s.copyQueue tile queue).entries with
  | [] => s
  | e :: _ =>
    if e.fence.isSome then s
    else match e.stamping with
      | some w =>
        if s.copyOpen tile queue then s
        else (match e.failWit with
          | some f => s.stampFails tile queue e f
          | none => s.endCopy tile queue e w true)
      | none =>
        if e.inFlight || (e.failWit.isNone && e.abort.isNone && e.strip < Shadow.strips e.view) || s.entryHeld e || s.ownerStops e.owner then s
        else
          let w := e.stampValue
          let a := Shadow.stamp e.view
          if a = 0 then s.endCopy tile queue e w false
          else if e.begun && e.tags.getLast? ≠ (s.tagsOf e.view).getLast? then s.stampFails tile queue e (errWitness 1 e.strip)
          else match checkEl s ⟨tile, e.asid, e.supervisor⟩ .write e.strip 8 (decodePtr a, a) with
            | .error (.fails f) => s.stampFails tile queue e f
            | .error (.walks va) => s.askPages tile e.asid [va]
            | .ok l => s.putStamp tile queue e w l

/-! Fences (R269, R272). -/
/-- An entry the fence waits for has not ended: it stands in its queue, or is saved with its thread. -/
def State.watchOpen (s : State) (tile : Nat) (x : Nat × Nat) : Bool :=
  (s.copiesUnder x.1).any (fun e => e.2.origin e.1 == (tile, x.2))
/-- The stamp of an ended transfer as a witness. -/
def CopyQueue.stampWitness (q : CopyQueue) (seq : Nat) : Word :=
  match q.kept.find? (fun c => c.seq == seq) with
  | some c => if c.err then errWitness c.cls 0 else c.stamp
  | none => optWitness q.horizon
/-- COPY_FENCE_RELEASE: the fence ends; its stamps bound the entries that follow, an error among them bounds nothing. -/
def copyFenceReleaseBody (tile queue : Nat) (s : State) : State :=
  let q := s.copyQueue tile queue
  match q.entries with
  | [] => s
  | e :: rest =>
    let from' := (e.origin tile).1
    if e.fence.isNone || (e.watch.filter (fun x => x.2 != e.seq)).any (s.watchOpen from') || s.entryHeld e then s
    else
      let stamps := (e.watch.filter (fun x => x.2 < 2 ^ 40)).map (fun x => (s.copyQueue from' x.1).stampWitness x.2)
      let w := joinAll (s.tile tile).horizon (stamps ++ [q.lastStamp.getD satisfied])
      s.setCopyQueue tile queue { q with entries := rest, lastStamp := if wKind w = 0 then some w else none, since := s.cycle }

def execCopyStrip (tile queue : Nat) (s : State) : Host.Outcome State Fault Refusal := .next (copyStripBody tile queue s)
def execCopyStripEnd (tile queue : Nat) (s : State) : Host.Outcome State Fault Refusal := .next (copyStripEndBody tile queue s)
def execCopyStampWrite (tile queue : Nat) (s : State) : Host.Outcome State Fault Refusal := .next (copyStampWriteBody tile queue s)
def execCopyFenceRelease (tile queue : Nat) (s : State) : Host.Outcome State Fault Refusal := .next (copyFenceReleaseBody tile queue s)

end Sys2Proof.Machine
end

