-- ==== Sys2Proof/Machine/Packets.lean ====
section
/-! DEFINITION. The front end at its queues (R353 to R360): wakes, the head slot, checks, errors, starts, completion stamps. -/
namespace Sys2Proof.Machine

/-! Bounds (R360). -/
/-- A time far behind every live one (R303), which bounds nothing: that of a queue no WAIT of which has returned a stamp. -/
def State.longAgo (s : State) : Time := s.ceiling - sweepSpan
def State.queueBound (s : State) (q : Nat) : Time := (s.queue q).bound.getD s.longAgo
/-- The front end reads in an address space as a supervisor-mode thread of it, by the map and the TLBs of cluster 0 (log entry 19). -/
def frontWho (asid : BitVec 12) : Who := ⟨0, asid, true⟩

/-! Packets (R355). -/
def PacketRec.at (p : PacketRec) (o n : Nat) : Nat := fieldAt p.bytes o n
def PacketRec.word (p : PacketRec) (o : Nat) : Word := BitVec.ofNat 64 (p.at o 8)
def PacketRec.type (p : PacketRec) : Nat := p.at 0 1 / 2
def PacketRec.fenced (p : PacketRec) : Bool := p.at 1 1 % 2 == 1
def PacketRec.cstamp (p : PacketRec) : Nat := p.at 8 8
/-- A nonzero byte from a to b - 1. -/
def PacketRec.dirty (p : PacketRec) (a b : Nat) : Bool := ((p.bytes.drop a).take (b - a)).any (· != 0)
def packetOf (bytes : List Byte) : PacketRec :=
  { seq := fieldAt bytes 2 2, no := 0, bytes := bytes, started := false, waited := false, done := false, completed := false, time := none, error := none }

/-! Writes by the front end. -/
/-- A write that leaves as a request for its home or the host. -/
def State.postStore (s : State) (l : Loc) (bytes : List Byte) (w : Option Time) (floor : Time) : State :=
  let r := s.tick
  let x : StoreReq := { id := r.1, tid := none, who := none, team := 0, tile := 0, gid := none, kind := .write (cellsOf l.key bytes), route := l.route,
                        compress := l.compress, w := w, floor := some floor, dram := false, spill := false, copy := none, home := homeOf s l.key }
  { r.2 with stores := r.2.stores ++ [x] }
/-- A write of bytes of one line at a location: performed at once on this device, else sent (R336, R411). The time it took, where it is known. -/
def State.frontWrite (s : State) (asid : BitVec 12) (l : Loc) (bytes : List Byte) (w : Option Time) (floor : Time) : Option (State × Option Time) :=
  if l.route = .host then some (s.postStore l bytes w floor, none)
  else if l.route = .peer then
    some (s.launchTrains (trainOf 1 0 0 asid w (some floor) none none none 0) true [⟨l.key, bytes, none, .peer, false, 0⟩], none)
  else (s.storeAt l.key (cellsOf l.key bytes) w (some floor) l.route l.compress).map (fun y => (y.1, some y.2))
/-- What a write that the front end is about to make waits for: a row lock, the host, an engaged bank. -/
def State.frontGate (s : State) (l : List Loc) : Option State :=
  l.findSome? (fun x => if x.route = .host || x.route = .peer then none else s.engineGate none true x.route [x.key])
/-- A physical address as a location (R406). -/
def Loc.ofPa (pa : Nat) (r : Route) : Loc := ⟨pa, r, false, false, 0⟩
def State.paLoc (s : State) (pa : Nat) : Option Loc := (paRoute s 0 pa).map (Loc.ofPa pa)
/-- A write at a location that need not be awaited. -/
def State.post (s : State) (asid : BitVec 12) (l : Loc) (bytes : List Byte) (floor : Time) : State :=
  if l.route = .peer then ((s.frontWrite asid l bytes none floor).map (·.1)).getD s else s.postStore l bytes none floor
/-- The same at a physical address; nothing where there is no such address. -/
def State.postAt (s : State) (asid : BitVec 12) (pa : Nat) (bytes : List Byte) (floor : Time) : State :=
  match s.paLoc pa with
  | none => s
  | some l => s.post asid l bytes floor

/-! The QCB (R354, R356, R358). -/
/-- Its fields after a packet is taken: HEAD, SEQ and PHASE, and on an error STATE and ERRINFO, in one store. -/
def Qcb.cells (c : Qcb) (k : Nat) (err : Option (Nat × Nat)) : List Host.Cell :=
  let wrap := 2 ^ c.log2n ≤ c.head + 1
  cellsOf (k + 10) (leBytes 1 (if wrap then (c.phase + 1) % 2 else c.phase)) ++ cellsOf (k + 14) (leBytes 2 (c.seq + 1)) ++
    cellsOf (k + 16) (leBytes 4 (if wrap then 0 else c.head + 1)) ++
    (match err with | some (state, info) => cellsOf (k + 9) (leBytes 1 state) ++ cellsOf (k + 32) (leBytes 8 info) | none => [])
/-- The QCB as the device has it once that is written. -/
def Qcb.next (c : Qcb) (err : Option (Nat × Nat)) : Qcb :=
  let wrap := 2 ^ c.log2n ≤ c.head + 1
  { c with phase := if wrap then (c.phase + 1) % 2 else c.phase, seq := (c.seq + 1) % 65536, head := if wrap then 0 else c.head + 1,
           state := match err with | some e => e.1 | none => c.state }
def State.qcbLoc (s : State) (q : Nat) : Loc := Loc.ofPa (s.qcbKey q) .cached
/-- The head packet leaves the head: the QCB's store, from the fields as the front end last read them (R354), and the queue's own view. -/
def State.advance (s : State) (q : Nat) (err : Option (Nat × Nat)) : Option State :=
  let k := s.qcbKey q
  let c := (s.queue q).view
  (s.storeAt k (c.cells k err) none (some (s.queueBound q)) .cached false).map (fun y =>
    let h := y.1.queue q
    { y.1.setQueue q { h with head := none, awake := h.awake && err.isNone, running := h.running && err.isNone, view := c.next err } with
        waiting := y.1.waiting.filter (· != q) })
/-- Starts the head packet: the QCB's store with whatever `go` does, all or nothing; `extra` are further locations that are written. -/
def State.takePacket (s : State) (q : Nat) (extra : List Loc) (go : State → Option (State × PacketRec)) : State :=
  match s.frontGate (s.qcbLoc q :: extra) with
  | some w => w
  | none => match (s.advance q none).bind go with
    | none => s
    | some (t, p') =>
      let h := t.queue q
      t.setQueue q { h with active := h.active ++ [{ p' with started := true }] }
/-- A packet that completes as it starts. -/
def PacketRec.ended (p : PacketRec) (t : Option Time) : PacketRec := { p with done := true, time := t }
/-- The queue stops at the head packet with a state and ERRINFO; `stamp` goes to CSTAMP. -/
def State.stopQueue (s : State) (q : Nat) (p : PacketRec) (state info : Nat) (stamp : Option Word) : State :=
  match s.frontGate [s.qcbLoc q] with
  | some w => w
  | none => match s.advance q (some (state, info % 256 + (s.queue q).view.head % 2 ^ 24 * 256 + info / 2 ^ 32 * 2 ^ 32)) with
    | none => s
    | some t => match stamp with
      | some w => if p.cstamp = 0 then t else t.postAt (t.queue q).asid p.cstamp (leBytes 8 w.toNat) (t.queueBound q)
      | none => t
/-- A packet that fails a check (R358); a killed region's gives the witness of R371. -/
def State.failPacket (s : State) (q : Nat) (p : PacketRec) (info : Nat) : State :=
  s.stopQueue q p 3 info (some (if info % 256 = 7 then errWitness 6 0 else errWitness 5 (q * 65536 + p.seq)))
/-- ERRINFO of code 6. -/
def readFault (a : Nat) : Nat := 6 + a % 2 ^ 32 * 2 ^ 32

/-! Waking and fetching (R354, R356, R408). -/
/-- The front end reads a line of this device at its newest version, at or beyond the queue bound (R354, R356, R360); what that waits for. -/
def State.frontWait (s : State) (q key : Nat) : Option State :=
  if s.underCeiling (s.queueBound q) then s.engineGate none false .cached [key] else some s
def State.frontLoad (s : State) (q key : Nat) : State :=
  let l := lineOf key
  match homeOf s key with
  | some h =>
    let s := s.scrubHeld h l
    let s := if s.needsDram h l .cached then (s.openLine l).correctLine l else s
    (s.serveLoad h l (serialMax (s.wts h l) (s.queueBound q)) none false false).st
  | none => s
/-- The front end reads the QCB, all of it from one version. Enabling a queue ends the refusal of its ASID's messages (R420). -/
def State.readQcb (s : State) (q : Nat) : State :=
  let c := s.qcb q
  let s := s.frontLoad q (s.qcbKey q)
  let h := s.queue q
  if c.state = 1 then
    let s : State := { s with refused := if h.running then s.refused else s.refused.filter (· != c.asid) }
    s.setQueue q { h with asid := c.asid, root := c.root, running := true, awake := true, armed := none, view := c }
  else s.setQueue q { h with running := false, awake := false, armed := none, view := c }
/-- A wake; nothing is enabled while the device restarts (R449). While a packet stands at the head, the queue goes on with the QCB as it was last read, and
reads it again once that packet has started (R354). -/
def wakeBody (q : Nat) (s : State) : State :=
  if !s.mgr.ready || 4096 ≤ q || (s.queue q).head.isSome then s
  else match s.frontWait q (s.qcbKey q) with
    | some w => let h := w.queue q; w.setQueue q { h with awake := true }
    | none => s.readQcb q
/-- The ERRINFO code of a QCB that R353 rules out: a nonzero reserved bit (R8), LOG2N, HEAD, PHASE or the ring's alignment outside its range. R358
names the codes for packets; a QCB takes those of the same kind (DESIGN CHOICE, log entry 69). -/
def State.qcbCode (s : State) (q : Nat) : Option Nat :=
  let k := s.qcbKey q
  let c := s.qcb q
  let zero := fun (o n : Nat) => readNat s.mem (k + o) n == 0
  if !zero 11 1 || !zero 20 4 || !zero 40 24 || 4096 ≤ readNat s.mem (k + 12) 2 || (bitsAt c.ring 63 1 = 1 && bitsAt c.ring 51 12 ≠ 0) then some 3
  else if c.log2n < 4 || 16 < c.log2n || 2 ^ c.log2n ≤ c.head || 1 < c.phase || c.ring.toNat % 128 ≠ 0 then some 4
  else none
/-- The queue goes into error with no packet taken. -/
def State.rejectQcb (s : State) (q code : Nat) : State :=
  match s.frontGate [s.qcbLoc q] with
  | some w => w
  | none =>
    let k := s.qcbKey q
    let c := (s.queue q).view
    match s.storeAt k (cellsOf (k + 9) (leBytes 1 3) ++ cellsOf (k + 32) (leBytes 8 (code + c.head % 2 ^ 24 * 256))) none (some (s.queueBound q)) .cached false with
    | some y => y.1.setQueue q { y.1.queue q with awake := false, running := false, view := { c with state := 3 } }
    | none => s
/-- The bytes of the head slot, or what to do without them. -/
inductive SlotRead where
  | bytes (l : List Byte) (s : State)
  | fault (a : Nat)
  | wait (s : State)
  deriving DecidableEq, Repr
def State.readPa (s : State) (q : Nat) (pa n : Nat) : SlotRead :=
  match (if hostPlace ≤ pa then some .host else paRoute s 0 pa) with
  | none => .fault pa
  | some r =>
    if r = .host || r = .peer then
      match s.farLine (lineOf pa) (s.queue q).asid.toNat (s.queueBound q) with
      | some b => if b.bad.isSome then .fault pa else .bytes ((b.bytes.drop (pa % 128)).take n) (s.dropFar [lineOf pa])
      | none => .wait (s.askFar 0 (s.queue q).asid.toNat (lineOf pa) (s.queueBound q))
    else match s.frontWait q pa with
      | some w => .wait w
      | none => if (readError s pa n).isSome then .fault pa else .bytes (readBytes s.mem pa n) (s.frontLoad q pa)
/-- The physical address of the head slot; of one in host memory a number for its host physical address (R408). -/
def Qcb.slot (c : Qcb) : Nat :=
  (if bitsAt c.ring 63 1 = 1 then hostPlace + bitsAt c.ring 0 51 else bitsAt c.ring 0 63) + 128 * c.head
/-- The checks of every packet's header (R355, R358). -/
def headerCode (c : Qcb) (p : PacketRec) : Option Nat :=
  if p.type = 0 || 8 < p.type then some 1
  else if p.seq ≠ c.seq then some 2
  else if 2 ≤ p.at 1 1 || p.dirty 4 8 then some 3
  else if p.type = 2 && (p.at 24 1 = 0 || 6 ≤ p.at 24 1) then some 4
  else none
/-- A packet arrives at the head of its queue, under a number of its own; a START is in the order of arrivals from now on (R372). -/
def State.toHead (s : State) (q : Nat) (p : PacketRec) : State :=
  let h := s.queue q
  { s.setQueue q { h with head := some { p with no := h.count }, count := h.count + 1 } with
    waiting := if p.type = 1 then s.waiting ++ [q] else s.waiting }
/-- PACKET_FETCH. -/
def packetFetchBody (q : Nat) (s : State) : State :=
  let h := s.queue q
  if !h.awake || h.head.isSome then s
  else match s.frontWait q (s.qcbKey q) with
    | some w => w
    | none =>
      let s := s.readQcb q
      let h := s.queue q
      let c := h.view
      if !h.awake then s
      else match s.qcbCode q with
      | some e => s.rejectQcb q e
      | none => match s.readPa q c.slot 128 with
        | .wait w => w
        | .fault a => (s.poisonLine (lineOf a)).failPacket q { packetOf [] with seq := c.seq } (readFault a)
        | .bytes l t =>
          let p := packetOf l
          if p.at 0 1 % 2 ≠ c.phase % 2 then
            t.setQueue q { t.queue q with awake := false, armed := if bitsAt c.ring 63 1 = 1 then none else some (lineOf c.slot) }
          else match headerCode c p with
            | some e => t.failPacket q p e
            | none => t.toHead q p

/-! Starting. -/
/-- The head packet of a type whose reserved bytes are zero and whose fields are in range, once FENCE lets it start (R357, R358) and its reads' bound
may be served (R300, R360). -/
def State.headPacket (s : State) (q type : Nat) (rsv : List (Nat × Nat)) (range : PacketRec → Bool) (go : PacketRec → State) : State :=
  match (s.queue q).head with
  | none => s
  | some p =>
    if p.type ≠ type then s
    else if rsv.any (fun r => p.dirty r.1 r.2) then s.failPacket q p 3
    else if p.cstamp % 8 ≠ 0 || !range p then s.failPacket q p 4
    else if (p.fenced && !(s.queue q).active.isEmpty) || !s.underCeiling (s.queueBound q) then s
    else go p
/-- The front end as a reader on a queue's behalf: it reads at or beyond the queue bound, and its own locks let it through (R360, R366). -/
def State.frontReader (s : State) (q : Nat) (w : Who) : RangeReader := { who := w, owner := some (4096 + q), bound := s.queueBound q, cells := [] }
/-- The n bytes of a structure the packet names, read in the queue's address space as loads bounded by the queue bound. -/
def State.withRead (s : State) (q : Nat) (p : PacketRec) (w : Who) (a : Word) (align n : Nat) (go : State → List Byte → State) : State :=
  if a.toNat % align ≠ 0 then s.failPacket q p (readFault a.toNat)
  else match s.peek (s.frontReader q w) a n with
    | .ok l => go (s.touchRange w a n (s.queueBound q)).1 l
    | .fault c _ x => (if c = cUNCORR then s.poisonAt w x else s).failPacket q p (readFault x.toNat)
    | .far l => l.foldl (fun s k => s.askFar w.tile w.asid.toNat k (s.queueBound q)) s
    | .walk l => s.askPages w.tile w.asid l
    | .held => s

/-! Region control blocks (R369). -/
def rcbBad (b : List Byte) : Bool := 64 ≤ fieldAt b 8 2 || 16 ≤ fieldAt b 10 1 || fieldAt b 12 4 != 0 || (b.drop 88).any (· != 0)
def dwordsAt (b : List Byte) (o : Nat) : List Word := [0, 8, 16, 24].map (fun i => BitVec.ofNat 64 (fieldAt b (o + i) 8))
/-- A node as its RCB gives it, with nothing used (log entry 20). -/
def nodeOf (asid : BitVec 12) (a : Word) (b : List Byte) : Region :=
  { asid := asid, addr := a, parent := BitVec.ofNat 64 (fieldAt b 0 8), mask := BitVec.ofNat 16 (fieldAt b 8 2), prio := fieldAt b 10 1, fdom := fieldAt b 11 1,
    limit := dwordsAt b 16, used := [0, 0, 0, 0], event := BitVec.ofNat 64 (fieldAt b 80 8), killed := false }
/-- The queue's ROOT stands attached; the front end reads its RCB the first time a packet needs it. -/
def State.withRoot (s : State) (q : Nat) (p : PacketRec) (go : State → State) : State :=
  let h := s.queue q
  if (s.region h.asid h.root).isSome then go s
  else s.withRead q p (frontWho h.asid) h.root 64 128 (fun s b =>
    if rcbBad b then s.failPacket q p 3
    else if fieldAt b 0 8 ≠ 0 || fieldAt b 80 8 % 8 ≠ 0 then s.failPacket q p 4
    else go { s with regions := s.regions ++ [nodeOf h.asid h.root b] })
def State.underRoot (s : State) (q : Nat) (a : Word) : Bool := (s.lineage (s.queue q).asid a).any (fun r => r.addr == (s.queue q).root)
/-- The region a packet names: attached, within ROOT, not killed (R358 codes 5 and 7). -/
def State.withRegion (s : State) (q : Nat) (p : PacketRec) (a : Word) (killedToo : Bool) (go : State → Region → State) : State :=
  s.withRoot q p (fun s => match s.region (s.queue q).asid a with
    | none => s.failPacket q p 5
    | some r => if !s.underRoot q a then s.failPacket q p 5
      else if r.killed && !killedToo then s.failPacket q p 7 else go s r)

/-! Packets without structures (R363, R364, R368). -/
/-- WAIT. -/
def waitBody (q : Nat) (s : State) : State :=
  s.headPacket q 3 [(24, 128)] (fun p => p.at 16 8 % 8 == 0) (fun p =>
    match s.readPa q (p.at 16 8) 8 with
    | .wait w => w
    | .fault a => s.failPacket q p (readFault a)
    | .bytes l t =>
      let w := BitVec.ofNat 64 (leNat l)
      if wKind w = 2 then (if (paRoute s 0 (p.at 16 8)) = some .cached then s else t)
      else if wKind w = 3 then t.failPacket q p 4
      else if wKind w = 1 then t.stopQueue q p 2 (8 + bitsAt w 56 6 * 2 ^ 56) none
      else t.takePacket q [] (fun t => let h := t.queue q
        some (t.setQueue q { h with bound := joinTime h.bound (wTime w) }, p.ended (some (wTime w)))))
/-- STAMP. -/
def stampBody (q : Nat) (s : State) : State :=
  s.headPacket q 4 [(16, 128)] (fun _ => true) (fun p =>
    if !(s.queue q).active.isEmpty then s else s.takePacket q [] (fun t => some (t, p.ended (t.queue q).stamp)))
/-- NOP. -/
def nopBody (q : Nat) (s : State) : State :=
  s.headPacket q 8 [(16, 128)] (fun _ => true) (fun p => s.takePacket q [] (fun t => some (t, p.ended (some (t.queueBound q)))))

/-! Completion (R359, R399). -/
/-- Requests and deferred operations of a team that have not been performed. -/
def State.teamBusy (s : State) (id : Nat) : Bool :=
  s.stores.any (fun r => r.tid.isSome && r.team == id) || s.trains.any (fun t => (s.trainTid t).isSome && t.team == id) ||
    s.groups.any (fun g => g.team == id && !g.ready)
/-- The teams a KILL packet of a queue names (R368). -/
def State.killNames (s : State) (q : Nat) (p : PacketRec) (x : Team) : Bool :=
  let a := (s.queue q).asid
  if p.at 24 1 = 0 then x.asid == a && (s.lineage a x.region).any (fun r => r.addr == p.word 16)
  else x.tile == p.at 16 1 % 64 && x.alloc == p.at 18 2
/-- Threads and children that keep a region attached (R367). -/
def State.regionBusy (s : State) (r : Region) : Bool :=
  s.teams.any (fun x => x.asid == r.asid && x.region == r.addr && !x.done) || s.regions.any (fun c => c.asid == r.asid && c.parent == r.addr)
/-- A packet in progress has had its effect: the times below its stamp, and the error that goes in place of it; none while it has not. -/
def State.packetResult (s : State) (q : Nat) (p : PacketRec) : Option (Option Time × Option Word) :=
  match p.type with
  | 1 => match s.teams.find? (fun x => x.queue == q && x.packet == p.no) with
    | some x => if x.done && !s.teamBusy x.id then some (x.maxWrite, x.ending) else none
    | none => some (none, none)
  | 2 => if p.done then some (p.time, p.error)
    else match s.region (s.queue q).asid (p.word 16) with
      | some r => if s.regionBusy r then none else some (none, none)
      | none => some (none, none)
  | 7 => if s.teams.any (fun x => s.killNames q p x && (!x.done || s.teamBusy x.id)) then none
    else some (joinTimes (p.time :: (s.teams.filter (s.killNames q p)).map (·.maxWrite)), none)
  | _ => if p.done then some (p.time, p.error) else none
/-- A cistern allocation goes and its generation advances (R276, R279). -/
def State.freeCistern (s : State) (c : Cistern) : State :=
  { s with cisterns := s.cisterns.filter (· != c), freeing := s.freeing.filter (· != c.id), gens := mset 0 s.gens c.id ((mget 0 s.gens c.id + 1) % 65536) }
/-- A region is detached (R367). -/
def State.detach (s : State) (asid : BitVec 12) (a : Word) : State :=
  let s := (s.cisterns.filter (fun c => c.asid == asid && c.region == a)).foldl State.freeCistern s
  { s with regions := s.regions.filter (fun r => !(r.asid == asid && r.addr == a)) }
/-- A strip that has passed its comparison against the allocation is in flight: its free waits (R333). -/
def State.cisternHeld (s : State) (c : Cistern) : Bool := s.stripHolds (ownerTag c.id c.gen)
/-- Of some cistern allocations, one is still held by a strip: the free of all of them waits. -/
def State.cisternsWait (s : State) (l : List Cistern) : Option State :=
  if l.any s.cisternHeld then some (l.foldl (fun s c => s.beginFree c.id) s) else none
/-- What goes with a packet as it completes: a detached region; a team's record, whose write times reach the KILLs that name it. -/
def State.afterPacket (s : State) (q : Nat) (p : PacketRec) : State :=
  match p.type with
  | 1 =>
    let gone := s.teams.filter (fun x => x.queue == q && x.packet == p.no)
    let s : State := { s with hostQ := s.hostQ.map (fun (e : Nat × HostQueue) => (e.1, { e.2 with active := e.2.active.map (fun (k : PacketRec) =>
      if k.type = 7 then { k with time := joinTimes (k.time :: (gone.filter (s.killNames e.1 k)).map (·.maxWrite)) } else k) })) }
    { s with teams := s.teams.filter (fun x => !(x.queue == q && x.packet == p.no)) }
  | 2 => if p.done then s else s.detach (s.queue q).asid (p.word 16)
  | _ => s
/-- The completion stamp: an error unchanged; a NOP's the queue's bound; else the time of its own store, above W. In host memory and at a peer, whose
home is not on this device, it is the least time above W and the bound (log entry 47). The state and the time kept for a later STAMP. -/
def State.writeStamp (s : State) (q : Nat) (p : PacketRec) (w : Option Time) (err : Option Word) : Option (State × Option Time) :=
  let floor := s.queueBound q
  match (if p.cstamp = 0 then none else s.paLoc p.cstamp) with
  | none => some (s, w)
  | some l => match err with
    | some e => (s.frontWrite (s.queue q).asid l (leBytes 8 e.toNat) w floor).map (fun y => (y.1, none))
    | none =>
      if l.route = .cached && p.type ≠ 8 then
        (homeOf s l.key).bind (fun h =>
          let t := s.storeTime h (lineOf l.key) w floor
          (s.frontWrite (s.queue q).asid l (leBytes 8 (timeWitness t).toNat) w floor).map (fun y => (y.1, some t)))
      else
        let t : Time := if p.type = 8 then floor else 1 + serialMax floor (w.getD floor)
        (s.frontWrite (s.queue q).asid l (leBytes 8 (timeWitness t).toNat) w floor).map (fun y => (y.1, if p.type = 8 then w else some t))
/-- PACKET_COMPLETE: of the packets in progress with this SEQ, the first that has had its effect. -/
def packetCompleteBody (q seq : Nat) (s : State) : State :=
  match (s.queue q).active.find? (fun p => p.seq == seq && (s.packetResult q p).isSome) with
  | none => s
  | some p => match s.packetResult q p with
    | none => s
    | some (w, e) =>
      match s.cisternsWait (if p.type = 2 && !p.done then s.cisterns.filter (fun c => c.asid == (s.queue q).asid && c.region == p.word 16) else []) with
      | some t => t
      | none => match s.frontGate (if p.cstamp = 0 then [] else (s.paLoc p.cstamp).toList) with
        | some t => t
        | none => match (s.afterPacket q p).writeStamp q p w e with
          | none => s
          | some (t, k) =>
            let h := t.queue q
            t.setQueue q { h with active := h.active.filter (fun k => k.no != p.no), stamp := joinTimes [h.stamp, k] }

def execQueueDoorbell (queue : Nat) (_value : Word) (s : State) : Host.Outcome State Fault Refusal := .next (wakeBody queue s)
def execQueueHeadWake (queue : Nat) (s : State) : Host.Outcome State Fault Refusal := .next (wakeBody queue s)
def execPacketFetch (queue : Nat) (s : State) : Host.Outcome State Fault Refusal := .next (packetFetchBody queue s)
def execWait (queue : Nat) (s : State) : Host.Outcome State Fault Refusal := .next (waitBody queue s)
def execStamp (queue : Nat) (s : State) : Host.Outcome State Fault Refusal := .next (stampBody queue s)
def execNop (queue : Nat) (s : State) : Host.Outcome State Fault Refusal := .next (nopBody queue s)
def execPacketComplete (queue seq : Nat) (s : State) : Host.Outcome State Fault Refusal := .next (packetCompleteBody queue seq s)

end Sys2Proof.Machine
end

