-- ==== Sys2Proof/Machine/Queues.lean ====
section
/-! DEFINITION. Packets that start teams, transfers and plane ops, act on regions and cisterns, and kill (R361 to R372, R275, R276, R279). -/
namespace Sys2Proof.Machine

/-! Allocation ids (R276). -/
/-- The next id that is not live, in ascending order modulo 2^16. -/
def State.liveId (s : State) (i : Nat) : Bool := s.allocs.any (·.id == i) || s.cisterns.any (·.id == i)
def nextId (live : Nat → Bool) : Nat → Nat → Nat
  | 0, i => i
  | n + 1, i => if live i then nextId live n ((i + 1) % 65536) else i
/-- Gives out an id; its generation is one more than its previous one. -/
def State.newId (s : State) : State × Nat × Nat :=
  let i := nextId s.liveId (s.allocs.length + s.cisterns.length) s.nextAlloc
  let g := (mget 0 s.gens i + 1) % 65536
  ({ s with nextAlloc := (i + 1) % 65536, gens := mset 0 s.gens i g }, i, g)
/-- Zero bytes from a key on, their lines without error marks (R275, R279). -/
def State.zeroFill (s : State) (key n : Nat) : State :=
  { s with mem := eraseRange s.mem key n, err := s.err.filter (fun e => e.1 < lineOf key || lineOf key + n / 128 ≤ e.1) }

/-! START (R361, R362, R372). -/
def startRange (p : PacketRec) : Bool :=
  let x := startOf p.bytes
  bitsAt x.entry 56 8 == 0 && x.entry.toNat % 64 == 0 && 1 ≤ x.nthr && x.nthr ≤ 32 && x.grp ≤ 16 && x.nthr * x.grp ≤ 16 && x.ceil ≤ 4096 &&
    (x.place < 64 || (0x80 ≤ x.place && x.place ≤ 0x87) || x.place == 0xFF) && x.spad ≤ 4194304
/-- START: a packet that passes its checks waits for a tile. -/
def startBody (q : Nat) (s : State) : State :=
  if ((s.queue q).head.map (·.waited)).getD false then s
  else s.headPacket q 1 [(29, 32), (52, 128)] startRange (fun p => s.withRegion q p (startOf p.bytes).rcb false (fun s _ =>
    s.setQueue q { s.queue q with head := some { p with waited := true } }))
/-- A saved thread of the tile, of no lower priority, that can resume now (R372). -/
def State.resumesFirst (s : State) (tile prio : Nat) : Bool :=
  s.saved.any (fun e => e.2.tile == tile && prio ≤ e.2.prio s && (resumeBody e.1 s).saved.length < s.saved.length)
/-- The waiting START may start on a tile. -/
def State.servable (s : State) (q : Nat) : Bool :=
  match s.waitingStart q with
  | none => false
  | some (a, p) => (match s.startTile a p with | some t => !s.resumesFirst t (s.prioOf a p.rcb) | none => false)
/-- The core of the i-th thread: i mod 8, or the next that has a place. -/
def State.startCore (s : State) (tile i : Nat) : Option Nat :=
  ((List.range 8).map (fun k => tile * 8 + (i + k) % 8)).find? (fun c => !(s.corePlaces c).isEmpty)
/-- The save areas that firmware reserves, by number (R394; log entry 6). -/
def saveArea (n : Nat) : Word := BitVec.ofNat 64 (Config.saveBase + n * 2 ^ 21)
/-- No thread, running or saved, has the area. -/
def State.areaFree (s : State) (n : Nat) : Bool :=
  s.threads.all (fun e => !e.2.here || e.2.savea != saveArea n) && s.saved.all (fun e => e.2.savea != saveArea n)
/-- The area a starting thread gets: its number's, else the first of the 2,048 that is free, else one beyond them (DESIGN CHOICE, log entry 6). -/
def State.areaFor (s : State) (tid : Nat) : Word :=
  saveArea (if s.areaFree tid then tid else ((List.range (2048 + s.saved.length)).find? s.areaFree).getD tid)
/-- A thread at its start (R12, R119, R383, R384). -/
def startThread (p : StartPacket) (team tile core tid i : Nat) (asid : BitVec 12) (alloc gen : Nat) (lanes : BitVec 16) (floor : Time) (now : Nat) (savea : Word) : Thread :=
  let ceil := if p.ceil = 0 then 4096 else p.ceil
  { Thread.absent with
    status := .running, team := team, tile := tile, core := core, supervisor := true, pc := p.entry, tblock := p.entry,
    sregs := mset 0 (mset 0 (mset 0 [] 0 p.arg) 1 (BitVec.ofNat 64 i)) 2 (BitVec.ofNat 64 p.nthr)
    vl := Nat.min ceil (256 * groupsOf lanes), ceil := ceil, lanes := lanes, region := p.rcb, alloc := BitVec.ofNat 16 alloc, gen := BitVec.ofNat 16 gen,
    floor := floor, asid := asid, savea := savea, unserved := now }
/-- Places the threads i, i + 1, ... of a team. -/
def State.placeThreads (s : State) (p : StartPacket) (team tile : Nat) (asid : BitVec 12) (alloc gen : Nat) : Nat → Nat → List Nat → State × List Nat
  | 0, _, l => (s, l)
  | n + 1, i, l =>
    match (s.startCore tile i).bind (fun c => (s.corePlaces c).head?.map (fun t => (c, t))) with
    | none => (s, l)
    | some (c, tid) =>
      let x := s.tile tile
      let lanes := groupMask ((groupList x.free).take p.grp)
      let s := s.takeGroups tile lanes
      (s.setThread tid (startThread p team tile c tid i asid alloc gen lanes x.horizon s.cycle (s.areaFor tid))).placeThreads p team tile asid alloc gen n (i + 1) (l ++ [tid])
/-- A tile a packet acts on: its HORIZON rises to the queue bound (R360). A queue none of whose WAITs has returned a stamp has none. -/
def State.boundTile (s : State) (q tile : Nat) : State := match (s.queue q).bound with | some b => s.raiseHorizon tile b | none => s
/-- A home a packet acts on: its clock rises to the queue bound. -/
def State.boundHome (s : State) (q h : Nat) : State := match (s.queue q).bound with | some b => s.raiseClock h b | none => s
/-- Starts a team on a tile (R362, R275, R360); a fresh team start drops the tile's block caches (R18). -/
def State.startTeam (s : State) (q no : Nat) (asid : BitVec 12) (p : StartPacket) (tile : Nat) : State :=
  let u := (s.unitRun tile p.units).getD 0
  let y := s.newId
  let id := y.2.1; let gen := y.2.2
  let s : State := { y.1 with allocs := y.1.allocs ++ [⟨id, gen, tile, u, p.units, asid⟩] }
  let s := s.zeroFill (scratchKey tile (u * 16384)) (p.units * 16384)
  let s := ((s.boundTile q tile).boundHome q (8 + tile)).dropIcache tile
  let r := s.tick
  let team := r.1 + 1
  let z := r.2.placeThreads p team tile asid id gen p.nthr 0 []
  { z.1 with teams := z.1.teams ++ [
    { id := team, tile := tile, alloc := id, asid := asid, region := p.rcb, members := z.2, queue := q, packet := no, started := r.1, barriers := [],
      ending := none, maxWrite := none, done := false }] }
/-- START_PLACEMENT: the waiting START of the highest priority, then the earliest, among those that can start (R372). -/
def startPlacementBody (q : Nat) (s : State) : State :=
  match (s.queue q).head, s.waitingStart q with
  | some p, some (asid, x) =>
    if !s.waiting.contains q || !s.underCeiling (s.queueBound q) then s
    else if ((s.region asid x.rcb).map (·.killed)).getD true then s.failPacket q p 7
    else if (bestStart s (s.waiting.filter s.servable)).map (·.1) ≠ some q then s
    else s.takePacket q [] (fun t => (t.startTile asid x).map (fun tile => (t.startTeam q p.no asid x tile, p)))
  | _, _ => s
/-- A team with a thread that runs on the tile. -/
def Team.runsOn (x : Team) (s : State) (tile : Nat) : Bool :=
  x.tile == tile && !x.done && x.members.any (fun i => (s.thread i).team == x.id && (s.thread i).status == .running)
/-- The team to be pre-empted: the lowest priority, the most recently started first. -/
def lowestTeam (s : State) : List Team → Option Team
  | [] => none
  | x :: r => match lowestTeam s r with
    | none => some x
    | some y =>
      let a := s.prioOf x.asid x.region; let b := s.prioOf y.asid y.region
      if a < b || (a == b && y.started < x.started) then some x else some y
/-- PREEMPT, for every thread of a team. -/
def State.preemptTeam (s : State) (x : Team) : State :=
  x.members.foldl (fun s i => if (s.thread i).team = x.id then preemptBody i s else s) s
/-- A team of the tile that is being pre-empted. -/
def Team.stopsOn (x : Team) (s : State) (tile : Nat) : Bool :=
  x.tile == tile && !x.done && x.members.any (fun i => (s.thread i).team == x.id && (s.thread i).status == .stopping)
/-- START_WAIT_TIMEOUT (R372): where the START still cannot start, on the lowest tile that meets PLACE and runs a team of lower priority, or is rid of
one (DESIGN CHOICE, log entry 63). -/
def startWaitTimeoutBody (q : Nat) (s : State) : State :=
  match s.waitingStart q with
  | none => s
  | some (asid, p) =>
    if !s.waiting.contains q || s.servable q then s
    else
      let below (tile : Nat) (x : Team) : Bool := (x.runsOn s tile || x.stopsOn s tile) && s.prioOf x.asid x.region < s.prioOf asid p.rcb
      match (List.range 64).find? (fun t => p.admits t && s.teams.any (below t)) with
      | none => s
      | some tile =>
        if s.teams.any (fun x => below tile x && x.stopsOn s tile) then s
        else match lowestTeam s (s.teams.filter (below tile)) with
          | some x => s.preemptTeam x
          | none => s

/-! Budgets that are exhausted (R370), and writes at virtual addresses. -/
/-- Bytes at a pointer, cut at lines, with where each piece lies; none where one fails its checks, or must wait for a page's walk. -/
inductive Spots where
  | at (l : List (Loc × List Byte))
  | fault
  | walk (page : Nat)
  deriving DecidableEq, Repr
def spotsFrom (s : State) (w : Who) : List (Ptr × Nat) → List Byte → Spots
  | [], _ => .at []
  | c :: r, b => match checkPtr s w .write true c.1 c.2 8 with
    | .fault .. => .fault
    | .miss va => .walk va
    | .ok l => match spotsFrom s w r (b.drop c.2) with
      | .at t => .at ((l, b.take c.2) :: t)
      | x => x
def State.spotsOf (s : State) (w : Who) (a : Word) (b : List Byte) : Spots :=
  match decodePtr a with
  | some p => spotsFrom s w (p.pieces b.length) b
  | none => .fault
/-- Writes of the front end, one version of each line; the greatest time. -/
def State.frontWrites (s : State) (asid : BitVec 12) (floor : Time) : List (Loc × List Byte) → Option (State × Option Time)
  | [] => some (s, none)
  | x :: r => (s.frontWrite asid x.1 x.2 none floor).bind (fun y => (y.1.frontWrites asid floor r).map (fun z => (z.1, joinTimes [y.2, z.2])))
def Region.usedBytes (r : Region) : List Byte := r.used.flatMap (fun w => leBytes 8 w.toNat)
/-- The USED fields of a node, where they are written. -/
def State.usedSpots (s : State) (r : Region) : Spots := s.spotsOf (frontWho r.asid) (r.addr + 48) r.usedBytes
/-- A thread's region draws on a node. -/
def State.draws (s : State) (t : Thread) (r : Region) : Bool :=
  s.teamAsid t.team t.asid == r.asid && (s.lineage r.asid t.region).any (fun x => x.addr == r.addr)
/-- The USED fields of a node are written back; where a page walk comes first, the node owes the write (BUDGET_CHARGE makes it). -/
def State.writeUsed (s : State) (r : Region) : State :=
  match s.usedSpots r with
  | .at l => (l.foldl (fun s x => s.post r.asid x.1 x.2 s.longAgo) s).setRegion { r with owes := false }
  | .walk va => (s.setRegion { r with owes := true }).askPages 0 r.asid [va]
  | .fault => s.setRegion { r with owes := false }
/-- Budget k of a node is exhausted: its threads are pre-empted, its event word stored, its USED fields written. -/
def State.exhaust (s : State) (r : Region) (k : Nat) : State :=
  let s := (s.threads.filter (fun e => e.2.here && s.draws e.2 r)).foldl (fun s e => preemptBody e.1 s) s
  let s := if r.event = 0 then s else s.postAt r.asid r.event.toNat (leBytes 8 (0x51 + k * 256)) s.longAgo
  s.writeUsed r
/-- What a node's budgets come to, now that it is attached, reloaded or charged (R370). -/
def State.exhaustAll (s : State) (r : Region) : State := ((List.range 4).filter r.exhausted).foldl (fun s k => s.exhaust r k) s

/-! REGION (R367). -/
/-- The head REGION packet of one OP. -/
def State.regionPacket (s : State) (q op : Nat) (rsv : List (Nat × Nat)) (range : PacketRec → Bool) (go : PacketRec → State) : State :=
  if ((s.queue q).head.map (fun p => p.at 24 1)) = some op then
    s.headPacket q 2 rsv (fun p => p.at 16 8 % 64 == 0 && range p) go
  else s
/-- REGION_ATTACH; a node that is attached stays as it is. -/
def regionAttachBody (q : Nat) (s : State) : State :=
  s.regionPacket q 1 [(25, 128)] (fun _ => true) (fun p => s.withRoot q p (fun s =>
    let asid := (s.queue q).asid
    match s.region asid (p.word 16) with
    | some r =>
      if !s.underRoot q r.addr then s.failPacket q p 5
      else if r.killed then s.failPacket q p 7 else s.takePacket q [] (fun t => some (t, p.ended none))
    | none => s.withRead q p (frontWho asid) (p.word 16) 64 128 (fun s b =>
      let r := nodeOf asid (p.word 16) b
      if rcbBad b then s.failPacket q p 3
      else if r.parent = 0 || fieldAt b 80 8 % 8 ≠ 0 then s.failPacket q p 4
      else match s.region asid r.parent with
        | none => s.failPacket q p 5
        | some x =>
          if !s.underRoot q x.addr then s.failPacket q p 5
          else if x.killed then s.failPacket q p 7
          else s.takePacket q [] (fun t => some (({ t with regions := t.regions ++ [r] } : State).exhaustAll r, p.ended none)))))
/-- REGION_RELOAD. -/
def regionReloadBody (q : Nat) (s : State) : State :=
  s.regionPacket q 2 [(25, 128)] (fun _ => true) (fun p => s.withRegion q p (p.word 16) false (fun s r =>
    s.withRead q p (frontWho r.asid) r.addr 64 128 (fun s b =>
      if rcbBad b then s.failPacket q p 3
      else match s.usedSpots r with
        | .at l => s.takePacket q (l.map (·.1)) (fun t =>
          let n := nodeOf r.asid r.addr b
          let r := { r with mask := n.mask, prio := n.prio, fdom := n.fdom, limit := n.limit }
          (t.frontWrites r.asid (t.queueBound q) l).map (fun y => ((y.1.setRegion r).exhaustAll r, p.ended y.2)))
        | .fault => s.failPacket q p (readFault (r.addr + 48).toNat)
        | .walk va => s.askPages 0 r.asid [va])))
/-- REGION_DETACH: it completes, and detaches, once the node has neither team nor child (PACKET_COMPLETE). -/
def regionDetachBody (q : Nat) (s : State) : State :=
  s.regionPacket q 3 [(25, 128)] (fun _ => true) (fun p => s.withRegion q p (p.word 16) true (fun s _ => s.takePacket q [] (fun t => some (t, p))))
/-- The lowest free run of a cistern, in 64 KiB units. -/
def cisternFreeAt (l : List Cistern) (u n : Nat) : Bool := l.all (fun a => !(u < a.base + a.size && a.base < u + n))
def State.cisternRun (s : State) (c n : Nat) : Option Nat :=
  let l := s.cisterns.filter (fun a => a.cluster == c)
  if 256 ≤ l.length then none
  else (List.range (1025 - n)).find? (fun u => cisternFreeAt l u n)
/-- The allocation made, and the word stored at RESULT. -/
def State.makeCistern (s : State) (c n : Nat) (rw : Bool) (r : Region) : State × Word :=
  match s.cisternRun c n with
  | none => (s, BitVec.allOnes 64)
  | some u =>
    let y := s.newId
    let s : State := { y.1 with cisterns := y.1.cisterns ++ [⟨c, u, n, r.asid, rw, y.2.1, y.2.2, r.addr⟩] }
    (s.zeroFill (cisternKey c (u * 65536)) (n * 65536), BitVec.ofNat 64 (u * 65536 + y.2.1 * 2 ^ 32 + y.2.2 * 2 ^ 48))
/-- CISTERN_ALLOCATE. RESULT is a virtual address of the queue's ASID (log entry 21). -/
def cisternAllocateBody (q : Nat) (s : State) : State :=
  s.regionPacket q 4 [(27, 28), (40, 128)] (fun p => p.at 25 1 < 8 && p.at 26 1 < 2 && 1 ≤ p.at 28 4 && p.at 32 8 % 8 == 0) (fun p =>
    s.withRegion q p (p.word 16) false (fun s r =>
      match s.spotsOf (frontWho r.asid) (p.word 32) (List.replicate 8 0) with
      | .at l => s.takePacket q (l.map (·.1)) (fun t =>
        let y := (t.boundHome q (72 + p.at 25 1)).makeCistern (p.at 25 1) (p.at 28 4) (p.at 26 1 == 1) r
        (y.1.frontWrites r.asid (t.queueBound q) (l.map (fun x => (x.1, leBytes 8 y.2.toNat)))).map (fun z => (z.1, p.ended z.2)))
      | .fault => s.failPacket q p (readFault (p.at 32 8))
      | .walk va => s.askPages 0 r.asid [va]))
/-- CISTERN_FREE: it waits for a strip that has passed its comparison (R333). -/
def cisternFreeBody (q : Nat) (s : State) : State :=
  s.regionPacket q 5 [(26, 28), (32, 128)] (fun p => p.at 25 1 < 8) (fun p =>
    s.withRegion q p (p.word 16) false (fun s r =>
      match s.cisterns.find? (fun c => c.cluster == p.at 25 1 && c.base * 65536 == p.at 28 4 && c.asid == r.asid && c.region == r.addr) with
      | none => s.takePacket q [] (fun t => some (t, p.ended none))
      | some c => match s.cisternsWait [c] with
        | some t => t
        | none => s.takePacket q [] (fun t => some ((t.boundHome q (72 + c.cluster)).freeCistern c, p.ended none))))

/-! COPY (R365). -/
/-- The homes that accesses under a pointer may reach (R360). -/
def State.homesUnder (s : State) (a : Word) : List Nat :=
  match decodePtr a with
  | some ⟨.scratch id, _⟩ => (s.alloc id).toList.map (fun x => 8 + x.tile)
  | some ⟨.shared c, _⟩ => [72 + c]
  | _ => List.range 8
/-- The homes that a transfer acts on: of its source, its destination, its stamp. -/
def State.copyHomes (s : State) (v : Shadow) : List Nat :=
  (s.homesUnder (Shadow.src v) ++ s.homesUnder (Shadow.dst v) ++ (if Shadow.stamp v = 0 then [] else s.homesUnder (Shadow.stamp v))).eraseDups
def viewOf (b : List Byte) : NMap Word := (List.range 18).foldl (fun v i => setShadow v i (BitVec.ofNat 64 (fieldAt b (8 * i) 8))) []
/-- COPY. -/
def copyBody (q : Nat) (s : State) : State :=
  s.headPacket q 5 [(25, 32), (40, 128)] (fun p => p.at 24 1 < 64 && p.at 16 8 % 8 == 0) (fun p =>
    s.withRegion q p (p.word 32) false (fun s r =>
      let tile := p.at 24 1
      s.withRead q p ⟨tile, r.asid, true⟩ (p.word 16) 8 144 (fun s b =>
        match Shadow.fault (viewOf b) with
        | some (i, _) => s.failPacket q p (4 + i * 2 ^ 56)
        | none =>
          if s.drawsSpent r.asid r.addr || 16 ≤ (s.copyQueue tile (Shadow.queue (viewOf b))).entries.length then s
          else s.takePacket q [] (fun t =>
            let t := (t.copyHomes (viewOf b)).foldl (fun t h => t.boundHome q h) (t.boundTile q tile)
            some ((t.enqueueCopy tile (.packet q p.no) r.asid true r.addr (t.queueBound q) (viewOf b)).1, p)))))

/-! PLANE (R366). -/
/-- The checks of a launch give it, or a failure, in either case with the ranges they have read; or they must wait. -/
inductive PlaneCheck where
  | ok (l : Launch) (seen : List (Word × Nat))
  | bad (info : Nat) (seen : List (Word × Nat))
  | wait (s : State)
  deriving DecidableEq, Repr
def plBind (i : Nat) (seen : List (Word × Nat)) : PlaneCheck := .bad (4 + i * 2 ^ 56) seen
/-- A structure, read as a load under the queue bound (R241, R360); `seen` are the ranges read before it. -/
def State.planeRead (s : State) (r : RangeReader) (seen : List (Word × Nat)) (a : Word) (align n : Nat) (go : List (Word × Nat) → List Byte → PlaneCheck) :
    PlaneCheck :=
  if a.toNat % align ≠ 0 || bitsAt a 56 8 ≠ 0 then .bad (readFault a.toNat) seen
  else match s.peek r a n with
    | .ok l => go (seen ++ [(a, n)]) l
    | .fault _ _ x => .bad (readFault x.toNat) (seen ++ [(a, n)])
    | .far l => .wait (l.foldl (fun s k => s.askFar r.who.tile r.who.asid.toNat k r.bound) s)
    | .walk l => .wait (s.askPages r.who.tile r.who.asid l)
    | .held => .wait s
/-- The image, 64 bytes at a time as far as its walk needs. -/
def State.planeImage (s : State) (r : RangeReader) (seen : List (Word × Nat)) (a : Word) (pars : List Word32)
    (go : List (Word × Nat) → List Word32 → QWalk → PlaneCheck) : Nat → Nat → PlaneCheck
  | 0, _ => .wait s
  | fuel + 1, n => s.planeRead r seen a 64 (64 * n) (fun seen' l =>
      let ws := wordsFrom (16 * n) l
      match checkImage ws pars with
      | .more => s.planeImage r seen a pars go fuel (n + 1)
      | .done q => match worstOffence q.offences with
        | some (_, t) => plBind t seen'
        | none => go seen' ws q)
def State.planeRow (s : State) (w : Who) (d : Desc) (r : Region') (l : List ((Nat × Nat) × RowUse)) : Option Nat :=
  l.findSome? (fun e => (s.checkRow w e.2 (d.pa r e.1.1 e.1.2) (d.va r e.1.1 e.1.2)).map (fun _ => readFault (d.va r e.1.1 e.1.2).toNat))
/-- The greatest wts of the lines of an image of n words (R248). -/
def State.imageTime (s : State) (w : Who) (a : Word) (n : Nat) : Option Time := joinTimes ((s.versionsOf w a (4 * n)).map (fun v => some v.2.2))
/-- The checks of R248 but for the locks. -/
def State.planeChecks (s : State) (x : RangeReader) (region furrow bind : Word) : PlaneCheck :=
  let w := x.who
  s.planeRead x [] furrow 64 64 (fun seen _ => s.planeRead x seen bind 64 64 (fun seen l =>
    let b := bindingOf l
    if b.bad then plBind 4 seen
    else s.planeRead x seen b.desc 64 64 (fun seen k =>
      if descReserved k then plBind 4 seen
      else match (descOf k).region s (clusterOfTile w.tile) with
        | none => plBind 1 seen
        | some r =>
          let d := descOf k
          if d.size < b.sub + b.nsub then plBind 2 seen
          else s.planeImage x seen furrow b.pars (fun seen ws q =>
            if !(q.reads ++ q.writes).all (reachOk d b) then plBind 3 seen
            else
              let idx := (List.range b.nsub).map (· + b.sub)
              let wr := reachRows b q.writes
              let rd := reachRows b q.reads
              let only := rd.filter (fun k => !wr.contains k)
              let rows := (rowPairs idx wr).map (fun e => (e, RowUse.write)) ++ (rowPairs idx only).map (fun e => (e, RowUse.read))
              if rows.any (fun e => s.rowWalkHeld w (d.va r e.1.1 e.1.2)) then .wait (s.askPages w.tile w.asid (s.rowPages w d r rows))
              else match s.planeRow w d r rows with
              | some i => .bad i seen
              | none => .ok {
                  asid := w.asid, region := region, cluster := d.cluster, image := furrow.toNat + w.asid.toNat * 2 ^ 56, words := ws, bases := b.bases,
                  pars := b.pars, keep := b.keep, subs := idx.map (fun i => (d.sub i, d.key s (clusterOfTile w.tile) r i 0)), reads := rd, writes := wr,
                  wts := s.imageTime w furrow ws.length, floor := x.bound } seen) 32 1)))
/-- The ranges read are served at their homes as loads with the bound; lines that came from afar are used up. -/
def State.serveRanges (s : State) (x : RangeReader) (l : List (Word × Nat)) : State := l.foldl (fun s e => (s.touchRange x.who e.1 e.2 x.bound).1) s
/-- Rows in runs. -/
def runsFrom : List Nat → List (Nat × Nat)
  | [] => []
  | k :: r => match runsFrom r with
    | (a, n) :: t => if a = k + 1 then (k, n + 1) :: t else (k, 1) :: (a, n) :: t
    | [] => [(k, 1)]
def launchRuns (l : Launch) (rows : List Nat) : List RowRun := l.subs.flatMap (fun e => (runsFrom rows).map (fun r => ⟨e.1, r.1, r.2, e.2⟩))
/-- The lock requests of a packet: a write lock on what the op can write, a read lock on what else it can read; the last launches it. -/
def State.planeLocks (s : State) (q no : Nat) (l : Launch) : State :=
  let only := l.reads.filter (fun k => !l.writes.contains k)
  let lock (write : Bool) (rows : List Nat) : Lock := ⟨4096 + q, write, launchRuns l rows, BitVec.ofNat 64 no, 0, []⟩
  let push (s : State) (k : Lock) (x : Option (Launch × Nat × Nat)) : State :=
    let r := s.tick
    r.2.updCluster l.cluster (fun c => { c with lockReqs := c.lockReqs ++ [⟨r.1, k, false, l.cluster, none, x⟩] })
  if only.isEmpty then push s (lock true l.writes) (some (l, q, no))
  else push (push s (lock true l.writes) none) (lock false only) (some (l, q, no))
/-- PLANE. -/
def planeBody (q : Nat) (s : State) : State :=
  s.headPacket q 6 [(40, 128)] (fun _ => true) (fun p => s.withRegion q p (p.word 32) false (fun s r =>
    let x := s.frontReader q (frontWho r.asid)
    match s.planeChecks x r.addr (p.word 16) (p.word 24) with
    | .wait w => w
    | .bad i seen => (s.serveRanges x seen).failPacket q p i
    | .ok l seen =>
      if s.drawsSpent r.asid r.addr then s
      else (s.serveRanges x seen).takePacket q [] (fun t => some ((t.boundHome q l.cluster).planeLocks q p.no l, p))))

/-! KILL (R368, R371, R398). -/
/-- A node and its subtree are marked killed. -/
def State.markKilled (s : State) (asid : BitVec 12) (a : Word) : State :=
  { s with regions := s.regions.map (fun r => if r.asid = asid && (s.lineage asid r.addr).any (fun x => x.addr == a) then { r with killed := true } else r) }
def State.killAll (s : State) (q : Nat) (l : List Team) : State := l.foldl (fun s x => (s.boundTile q x.tile).killTeam x.id (killedWitness x)) s
def killTargetBad (p : PacketRec) : Bool := p.at 24 1 == 1 && (64 ≤ p.at 16 1 || p.at 17 1 != 0 || p.at 20 4 != 0)
/-- KILL. -/
def killBody (q : Nat) (s : State) : State :=
  s.headPacket q 7 [(25, 128)] (fun p => p.at 24 1 < 2) (fun p =>
    if killTargetBad p then s.failPacket q p 3
    else if p.at 24 1 = 1 then s.takePacket q [] (fun t => some (t.killAll q (t.teams.filter (t.killNames q p)), p))
    else s.withRegion q p (p.word 16) false (fun s r => s.takePacket q [] (fun t =>
      some ((t.markKilled r.asid r.addr).killAll q (t.teams.filter (t.killNames q p)), p))))

/-! Budgets (R370). -/
def Region.charge (r : Region) (k n : Nat) : Region :=
  { r with used := r.used.zipIdx.map (fun e => if e.2 = k then BitVec.ofNat 64 (Nat.min (e.1.toNat + n) (2 ^ 64 - 1)) else e.1) }
/-- A charge at one node; every charge that leaves the budget exhausted has the device act (DEDUCED, log entry 70). -/
def State.chargeNode (s : State) (k n : Nat) (r : Region) : State :=
  let x := r.charge k n
  let s := s.setRegion x
  if x.exhausted k then s.exhaust x k else s
/-- BUDGET_CHARGE: the node itself, and every ancestor that sets the budget. A USED write-back that had to wait for a page walk is made first; a charge of
nothing charges nothing. -/
def budgetChargeBody (asid : BitVec 12) (rcb : Word) (k n : Nat) (s : State) : State :=
  let s := ((s.lineage asid rcb).filter (·.owes)).foldl State.writeUsed s
  if n = 0 then s else (s.lineage asid rcb).foldl (fun s r => if r.addr = rcb || r.mask.getLsbD (2 + k) then s.chargeNode k n r else s) s

def execStart (queue : Nat) (s : State) : Host.Outcome State Fault Refusal := .next (startBody queue s)
def execStartPlacement (queue : Nat) (s : State) : Host.Outcome State Fault Refusal := .next (startPlacementBody queue s)
def execStartWaitTimeout (queue : Nat) (s : State) : Host.Outcome State Fault Refusal := .next (startWaitTimeoutBody queue s)
def execRegionAttach (queue : Nat) (s : State) : Host.Outcome State Fault Refusal := .next (regionAttachBody queue s)
def execRegionReload (queue : Nat) (s : State) : Host.Outcome State Fault Refusal := .next (regionReloadBody queue s)
def execRegionDetach (queue : Nat) (s : State) : Host.Outcome State Fault Refusal := .next (regionDetachBody queue s)
def execCisternAllocate (queue : Nat) (s : State) : Host.Outcome State Fault Refusal := .next (cisternAllocateBody queue s)
def execCisternFree (queue : Nat) (s : State) : Host.Outcome State Fault Refusal := .next (cisternFreeBody queue s)
def execCopy (queue : Nat) (s : State) : Host.Outcome State Fault Refusal := .next (copyBody queue s)
def execPlane (queue : Nat) (s : State) : Host.Outcome State Fault Refusal := .next (planeBody queue s)
def execKill (queue : Nat) (s : State) : Host.Outcome State Fault Refusal := .next (killBody queue s)
def execBudgetCharge (asid : BitVec 12) (rcb : Word) (budget amount : Nat) (s : State) : Host.Outcome State Fault Refusal :=
  .next (budgetChargeBody asid rcb budget amount s)

end Sys2Proof.Machine
end

