-- ==== Sys2Proof/Machine/Fabric.lean ====
section
/-! DEFINITION. The host and the peers (R311, R312, R407, R410 to R420): CXL.mem accesses, back-invalidation, HOST-page completions, peer messages. -/
namespace Sys2Proof

/-! Fields of a message (R413, R414). -/
def Msg.at (m : Msg) (o n : Nat) : Nat := Machine.fieldAt m.payload o n
def Msg.type (m : Msg) : Nat := m.at 0 1
def Msg.dev (m : Msg) : Nat := m.at 2 2
def Msg.asid (m : Msg) : BitVec 12 := BitVec.ofNat 12 (m.at 4 2)
def Msg.time (m : Msg) : Time := BitVec.ofNat 62 (m.at 8 8)
def Msg.seq (m : Msg) : BitVec 32 := BitVec.ofNat 32 (m.at 16 4)
def Msg.tag (m : Msg) : Nat := m.at 20 4
def Msg.pa (m : Msg) : Nat := m.at 24 8 % 2 ^ 40
def Msg.tile (m : Msg) : Nat := m.offset.toNat / 2 ^ 13 % 64
def Msg.beats (m : Msg) : List (List Byte) := Machine.piecesOf 64 7 (m.payload.drop 32)
def Msg.beat (m : Msg) (o n : Nat) : Nat := Machine.fieldAt (m.payload.drop 32) o n
end Sys2Proof

namespace Sys2Proof.Machine

/-! Accesses that wait (R245, R300, R412): they are kept in hostHeld until they can be served. -/
def State.holdBack (s : State) (i : Instr) : State := if s.hostHeld.contains i then s else { s with hostHeld := s.hostHeld ++ [i] }
def State.unhold (s : State) (i : Instr) : State := { s with hostHeld := s.hostHeld.filter (· != i) }

/-! CXL.mem (R311, R412). -/
def poisonedRead (s : State) (pa n : Nat) : State := { s with out := s.out ++ [.hostData pa (List.replicate n 0) true] }
/-- A line of DRAM read at its home at the newest version, without lease. -/
def State.readLine (s : State) (h l : Nat) (b : Time) : State :=
  let s := if s.needsDram h l .cached then (s.openLine l).correctLine l else s
  (s.serveLoad h l b none false false).st
/-- What an access of the host waits for: row locks, and the queues of engaged banks (R245, R323). -/
def State.hostGate (s : State) (write : Bool) (lines : List Nat) : Option State :=
  if lines.any (fun l => s.keyBlocked none (l * 128) write) then some s else s.dramWait .cached lines
/-- The host's read of n bytes within a line; a line that cannot be read returns poisoned data (R431). -/
def State.hostRead (s : State) (h pa n : Nat) : State :=
  let l := lineOf pa
  let s := s.scrubHeld h l
  if s.lineBad pa then poisonedRead (s.poisonLine l) pa n
  else let t := s.readLine h l (s.wts h l); { t with out := t.out ++ [.hostData pa (readBytes t.mem pa n) false] }
/-- HOST_MEMRD. -/
def hostMemrdBody (pa n : Nat) (s : State) : State :=
  let me := Instr.hostMemrd pa n
  if s.mgr.restarting then poisonedRead s pa n
  else match (if pa < Config.dramBytes then homeOf s pa else none) with
    | none => poisonedRead s pa n
    | some h => match s.hostGate false [lineOf pa] with
      | some s => s.holdBack me
      | none => (s.unhold me).hostRead h pa n
/-- The entries of a snoop filter. -/
def snoopRoom : Nat := 262144
/-- HOST_MEMRD_OWNERSHIP: served, and recorded; a full filter first gives up its oldest line. -/
def hostMemrdOwnershipBody (pa : Nat) (exclusive : Bool) (s : State) : State :=
  let me := Instr.hostMemrdOwnership pa exclusive
  let l := lineOf pa
  if s.mgr.restarting then poisonedRead s (l * 128) 128
  else match (if pa < Config.dramBytes then homeOf s pa else none) with
    | none => poisonedRead s (l * 128) 128
    | some h =>
      let k := s.cluster h
      let others := k.snoop.filter (·.1 != l)
      match s.hostGate false [l] with
      | some s => s.holdBack me
      | none => match (if snoopRoom ≤ others.length then others.head? else none) with
        | some v => (s.askSnoop v.1 true).holdBack me
        | none =>
          let s := (s.unhold me).hostRead h (l * 128) 128
          s.setCluster h { s.cluster h with snoop := others ++ [(l, exclusive)] }
/-- The bytes of a host write in each line they touch. -/
def lineCells (pa : Nat) (b : List Byte) : List (Nat × List Host.Cell) :=
  (linesOf pa b.length).map (fun l => (l, (cellsOf pa b).filter (fun c => lineOf c.1 == l)))
/-- The time of a host write: one for all its lines, greater than every earlier host write's (R281, R304, R311). -/
def State.hostTime (s : State) (lines : List Nat) : Option Time :=
  joinTimes (lines.map (fun l => (homeOf s (l * 128)).map (fun h => s.storeTime h l none s.hostLast)))
/-- One line of a host write. -/
def State.hostLine (s : State) (t : Time) (e : Nat × List Host.Cell) : State :=
  match homeOf s (e.1 * 128) with
  | none => s
  | some h =>
    let s := if s.needsDram h e.1 .cached then (s.openLine e.1).correctLine e.1 else s
    let s := s.perform h e.1 e.2 t false false
    if coversLine e.2 e.1 then clearErr s e.1 else s
/-- A store of the host: none where its time would pass the ceiling (R300). A partial write leaves a line that cannot be read as it is. -/
def State.hostStores (s : State) (l : List (Nat × List Host.Cell)) : Option State :=
  let s := l.foldl (fun s e => match homeOf s (e.1 * 128) with | some h => s.scrubHeld h e.1 | none => s) s
  let live := l.filter (fun e => !s.lineBad (e.1 * 128) || coversLine e.2 e.1)
  let met := (l.filter (fun e => !live.contains e)).foldl (fun s e => s.meetBad e.1) s
  match s.hostTime (live.map (·.1)) with
  | none => some met
  | some t => if s.underCeiling t then some (live.foldl (fun s e => s.hostLine t e) { met with hostLast := some t }) else none
/-- HOST_MEMWR. -/
def hostMemwrBody (pa : Nat) (b : List Byte) (s : State) : State :=
  let me := Instr.hostMemwr pa b
  if s.mgr.restarting then s.logRecord 0 10 0 0 0 pa 0
  else if Config.dramBytes < pa + b.length || (linesOf pa b.length).any (fun l => (homeOf s (l * 128)).isNone) then s
  else match s.hostGate true (linesOf pa b.length) with
    | some s => s.holdBack me
    | none => match s.hostStores (lineCells pa b) with
      | none => s.holdBack me
      | some t => { t.unhold me with out := t.out ++ [.hostDone pa] }
/-- BIRSP (R412): modified data are performed as a host write; the entry goes, or after a BISnpCur stays shared. -/
def birspBody (line : Nat) (bytes : Option (List Byte)) (s : State) : State :=
  let me := Instr.birsp line bytes
  match homeOf s (line * 128) with
  | none => s
  | some h =>
    match (s.cluster h).bisnp.find? (·.1 == line) with
    | none => s
    | some (_, cur) =>
      match (match bytes with | some _ => s.dramWait .cached [line] | none => none) with
      | some s => s.holdBack me
      | none => match (match bytes with | some b => s.hostStores (lineCells (line * 128) (b.take 128)) | none => some s) with
      | none => s.holdBack me
      | some t =>
        let t := t.unhold me
        let k := t.cluster h
        t.setCluster h { k with bisnp := k.bisnp.filter (·.1 != line),
                                snoop := if cur then k.snoop.map (fun e => if e.1 = line then (e.1, false) else e) else k.snoop.filter (·.1 != line) }

/-! HOST pages (R312, R411). -/
def hostSnoopBody (pa : Nat) (s : State) : State := { s with out := s.out ++ [.snoopMiss pa] }
def State.dropHostReq (s : State) (id : Nat) : State := { s with hostReqs := s.hostReqs.filter (·.id != id) }
def fullLine (b : List Byte) : List Byte := (b ++ List.replicate 128 0).take 128
/-- HOST_COMPLETION: data reach the load or the engine that asked; a store completes with the tile's HORIZON. -/
def hostCompletionBody (id : Nat) (b : List Byte) (s : State) : State :=
  match s.hostReqs.find? (·.id == id) with
  | none => s
  | some h => match h.what with
    | .load n => (match s.findLoad n with
      | some l => if l.route = .host then (s.dropHostReq id).takeLine l (fullLine b) none else s
      | none => s.dropHostReq id)
    | .store n => (match s.findStore n with
      | some r => if r.route = .host then (s.dropHostReq id).endStore r ⟨some (s.tile r.tile).horizon, none, none⟩ else s
      | none => s.dropHostReq id)
    | .line l a c => if l * 128 < 2 ^ 51 || hostPlace ≤ l * 128 then { s.dropHostReq id with farLines := s.farLines ++ [⟨l, a, c, fullLine b, none⟩] } else s
def peerTableWriteBody (k : Nat) (v : Word) (s : State) : State :=
  if k < 2048 then { s with peers := mset 0 s.peers k (v &&& 0xFFF1) } else s
def fabricEnumerationBody (id : BitVec 12) (s : State) : State := { s with deviceNo := id }

/-! Messages (R413, R414). -/
def dirOf (type : Nat) : Nat := if type = 2 || type = 4 || type = 6 then 1 else 0
/-- What an answer's TAG must name at the tile (R414). -/
def answers (type : Nat) : Nat := type - 1
def State.outstanding (s : State) (m : Msg) : Bool := s.sent.any (fun x => x.tile == m.tile && x.dev == m.dev && x.type == answers m.type && x.tag == m.tag)
/-- The receiver refuses a message (R413, R414); byte 7 of ADDR of a TYPE 3 message is the load's size (log entry 17). -/
def State.refuses (s : State) (m : Msg) : Bool :=
  let t := m.type
  !m.uio || m.offset.toNat % 2 ^ 13 != 0 || t = 0 || 7 < t || m.offset.toNat / 2 ^ 19 != dirOf t || 7 < m.at 1 1 || m.payload.length != 32 + 64 * m.at 1 1 ||
    m.at 6 2 != 0 || 2 ^ 62 ≤ m.at 8 8 || 4096 ≤ m.at 2 2 || 4096 ≤ m.at 4 2 ||
    (if t = 3 then m.at 29 2 != 0 else if t = 5 then m.at 29 3 != 0 else m.at 24 8 != 0) || (t = 7 && (m.tile != 0 || m.at 1 1 != 0)) ||
    (dirOf t == 1 && !s.outstanding m)
/-- A refused message: the device logs the sender (class 7, INFO the sender's number: log entry 22). -/
def State.logSender (s : State) (m : Msg) : State := s.logRecord 0 7 0 0 0 0 m.dev
/-- A message of a type that is not refused; the ceiling and the clock of the slice that receives for the device, cluster 0's, rise at once to its time
(R300, R302, R413; log entry 22). -/
def State.message (s : State) (type : Nat) (m : Msg) (go : State → State) : State :=
  if s.refuses m then s.logSender m
  else if m.type = type then go (State.raiseClock { s with ceiling := serialMax s.ceiling m.time } 0 m.time) else s

/-! Streams (R415). -/
def State.stream (s : State) (dev tile : Nat) : Stream := (s.streams.find? (fun x => x.dev == dev && x.tile == tile)).getD ⟨dev, tile, 0, [], [], none⟩
def State.setStream (s : State) (x : Stream) : State :=
  { s with streams := s.streams.filter (fun y => !(y.dev == x.dev && y.tile == x.tile)) ++ [x] }
/-- Performs a message in its stream's turn, exactly once; one that must wait, or is ahead, is kept. `go` performs it, or answers the state in
which it waits. -/
def State.inTurn (s : State) (m : Msg) (go : State → Except State State) : State :=
  let x := s.stream m.dev m.tile
  let d := (m.seq - x.expected).toNat
  let kept := x.held.any (fun k => k.seq == m.seq)
  if d = 0 then
    match go s with
    | .ok t => let y := t.stream m.dev m.tile; t.setStream { y with expected := y.expected + 1, held := y.held.filter (fun k => k.seq != m.seq) }
    | .error t => if kept then t else let y := t.stream m.dev m.tile; t.setStream { y with held := y.held ++ [m] }
  else if d < 2 ^ 31 then (if kept || 64 ≤ x.held.length then s else s.setStream { x with held := x.held ++ [m] })
  else s

/-! Trains from peers (R337 to R339, R413). -/
def beatAt (b : List Byte) (o n : Nat) : Nat := fieldAt b o n
/-- COUNT fits k element beats. -/
def countFits (c k : Nat) : Bool := c ≤ 4 * k && 4 * k < c + 4
/-- The last beat of a message, after k element beats, is the tail of the train: it holds TRAIN where an element beat holds address bits 63 to 32,
which are below 192; a smaller TRAIN is told by the message, which has no beat more (`short`), or by the whole beat (DEDUCED, log entry 66). -/
def isTail (t : List Byte) (no k : Nat) (short : Bool) : Bool :=
  beatAt t 4 4 == no && (192 ≤ no || short || ((t.drop 8).all (· == 0) && countFits (beatAt t 0 4) k))
/-- A header that the receiver refuses (R337). -/
def trainBad (h : List Byte) : Bool :=
  let k := beatAt h 0 1; let w := BitVec.ofNat 64 (beatAt h 16 8)
  k = 0 || 4 < k || 8 ≤ beatAt h 1 1 || (k = 1 && beatAt h 2 1 != 0) || (k < 3 && beatAt h 3 1 != 0) || 6 ≤ beatAt h 3 1 ||
    (k ≠ 1 && !foldFmtOk (beatAt h 2 1)) || 4096 ≤ beatAt h 26 2 || wKind w = 1 || wKind w = 3 || (h.drop 32).any (· != 0)
/-- The entries of element beats. -/
def entriesOf (beats : List (List Byte)) : List (List Byte) := beats.flatMap (fun b => piecesOf 16 4 b)
/-- An entry with a nonzero byte above its data. -/
def entryBad (h e : List Byte) : Bool := (e.drop (8 + 2 ^ (beatAt h 1 1 % 4))).any (· != 0)
def elementOf (h : List Byte) (e : List Byte) : TrainEl :=
  let n := 2 ^ (beatAt h 1 1 % 4)
  let key := beatAt e 0 8
  let data := (e.drop 8).take n
  { key := key, bytes := data, route := .cached, compress := false, tag := 0,
    fold := if beatAt h 0 1 = 1 then none
      else some ⟨beatAt h 2 1, if beatAt h 0 1 = 2 then 0 else beatAt h 3 1, key, BitVec.ofNat 64 (leNat data), .cached, false⟩ }
/-- A train as its header gives it; one that is refused performs nothing (R339, R417). Of the sender's FLOOR the header says only that TIME, its HORIZON,
is no less: the elements of one that may be a vector store's (STRIP 0) are timed above TIME (R174, R309, R312; DEDUCED, log entry 65). -/
def trainHeard (s : State) (m : Msg) (h : List Byte) : Train :=
  let w := BitVec.ofNat 64 (beatAt h 16 8)
  let no := beatAt h 4 4
  let error := if trainBad h then some (errWitness 5 no) else if s.asidServed m.asid then none else some (errWitness 1 (beatAt h 28 4))
  { trainOf (if error.isSome then 0 else beatAt h 0 1) 0 0 m.asid (if wKind w = 0 then some (wTime w) else none)
      (if beatAt h 28 4 = 0 then some (BitVec.ofNat 62 (beatAt h 8 8)) else none) none none none (beatAt h 28 4) with
    no := BitVec.ofNat 32 no, error := error, inbound := some m.dev, whole := false }
/-- Nothing of the train is performed from now on: its acknowledgement carries FAULT. -/
def Train.refuse (t : Train) : Train :=
  { t with kind := 0, els := t.els.take t.performed, error := some (t.error.getD (errWitness 5 t.no.toNat)) }
/-- Entries arrive: their homes' clocks rise to the message's time (R302, R413). -/
def State.hearEntries (s : State) (m : Msg) (l : List (List Byte)) : State :=
  l.foldl (fun s e => if Config.dramBytes ≤ beatAt e 0 8 then s else match homeOf s (beatAt e 0 8) with | some k => s.raiseClock k m.time | none => s) s
/-- They stand to be performed; a nonzero byte refuses the train (R337). -/
def State.addEntries (s : State) (m : Msg) (id : Nat) (h : List Byte) (l : List (List Byte)) : State :=
  (s.hearEntries m l).updTrain id (fun t => if t.kind = 0 then t else if l.any (entryBad h) then t.refuse else { t with els := t.els ++ l.map (elementOf h) })
/-- The tail: COUNT must fit the element beats, and the rest of the beat be zero, or the train is refused. -/
def State.endTrain (s : State) (id : Nat) (fits : Bool) (t : List Byte) : State :=
  s.updTrain id (fun u => let u := if u.kind ≠ 0 && (!fits || (t.drop 8).any (· != 0)) then u.refuse else u
    { u with whole := true, count := beatAt t 0 4 })
/-- The beats of a train after its header h: what came before, of which the last beat is still to be read (the count that bounds it comes with the
tail), and this message's. -/
def State.trainBeats (s : State) (m : Msg) (x : Stream) (id k : Nat) (h : List Byte) (pending beats : List (List Byte)) : State :=
  let all := pending ++ beats
  match all.getLast? with
  | none => s
  | some t =>
    let body := all.dropLast
    if !beats.isEmpty && isTail t (beatAt h 4 4) (k + body.length) (m.at 1 1 < 7) then
      let fits := countFits (beatAt t 0 4) (k + body.length)
      let s := if fits then s.addEntries m id h ((entriesOf body).take (beatAt t 0 4 - 4 * k)) else s.hearEntries m (entriesOf body)
      (s.endTrain id fits t).setStream { x with rx := [], train := none }
    else (s.addEntries m id h (entriesOf body)).setStream { x with rx := [h, leBytes 8 (k + body.length), t], train := some id }
/-- The beats of a message, of the train under way or of a new one. The stream keeps the header, the number of element beats dealt with, and the beat
still to be read. -/
def State.hearBeats (s : State) (m : Msg) : State :=
  let x := s.stream m.dev m.tile
  match x.rx, x.train with
  | h :: k :: p, some id => s.trainBeats m x id (leNat k) h p m.beats
  | _, _ => match m.beats with
    | [] => s
    | h :: beats =>
      let r := s.tick
      let s : State := { r.2 with trains := r.2.trains ++ [{ trainHeard s m h with id := r.1 }] }
      if beats.isEmpty then s.setStream { x with rx := [h, leBytes 8 0], train := some r.1 } else s.trainBeats m x r.1 0 h [] beats
/-- MSG_TRAIN_BEATS. -/
def msgTrainBeatsBody (m : Msg) (s : State) : State := s.message 1 m (fun s => s.inTurn m (fun s => .ok (s.hearBeats m)))
/-- A message is acknowledged. -/
def State.acknowledge (s : State) (m : Msg) : State :=
  { s with sent := s.sent.filter (fun x => !(x.tile == m.tile && x.dev == m.dev && x.type == answers m.type && x.tag == m.tag)) }
/-- The answer's tile raises its HORIZON. -/
def State.answered (s : State) (m : Msg) : State := (s.raiseHorizon m.tile m.time).acknowledge m
/-- MSG_TRAIN_ACK. -/
def msgTrainAckBody (m : Msg) (s : State) : State :=
  s.message 2 m (fun s =>
    let ack := BitVec.ofNat 64 (m.beat 8 8)
    match s.trains.find? (fun t => t.dest == 8 + m.dev && t.inbound.isNone && t.tile == m.tile && t.no.toNat == m.tag) with
    | some t => (s.answered m).trainAcked t (if wKind ack = 0 then some (wTime ack) else none) (if wKind ack = 1 then some ack else none)
    | none => s.answered m)

/-! Reads and atomics of peers (R416, R417). The answer's beats: the line and then its wts, or an error witness; an atomic's value, witness
and grant (log entry 22). -/
def readAnswer (line : List Byte) (w : Word) : List (List Byte) := [line.take 64, line.drop 64, padBeat (leBytes 8 w.toNat)]
def atomicAnswer (v w : Word) (g : Nat) : List (List Byte) := [padBeat (leBytes 8 v.toNat ++ leBytes 8 w.toNat ++ leBytes 8 g)]
/-- A train of the same stream has still to write the line (R171, R415). -/
def State.streamWrites (s : State) (m : Msg) (l : Nat) : Bool :=
  s.trains.any (fun t => t.inbound == some m.dev && t.no.toNat / 2 ^ 26 == m.tile && t.touches l)
/-- A request of a peer at its home: an error answered at once, or its service once nothing holds it back. Where the destination's context has been killed
R176 names class 2 and R339 and R417 class 1: it is class 1 (DESIGN CHOICE, log entry 63). -/
def State.atPeerHome (s : State) (m : Msg) (write : Bool) (fail : Word → List (List Byte)) (go : State → Nat → Except State State) : Except State State :=
  let answer (s : State) (w : Word) : State := s.sendAnswer m.tile m.dev (m.type + 1) m.asid.toNat m.tag (s.clock 0) (fail w)
  match (if m.pa < Config.dramBytes then homeOf s m.pa else none) with
    | none => .ok (answer s (if s.asidServed m.asid then errWitness 5 m.pa else errWitness 1 m.pa))
    | some h =>
      let s := s.raiseClock h m.time
      if !s.asidServed m.asid then .ok (answer s (errWitness 1 m.pa))
      else
      let s := s.scrubHeld h (lineOf m.pa)
      if s.streamWrites m (lineOf m.pa) then .error s
      else match s.engineGate none write .cached [m.pa] with
        | some t => .error t
        | none => if s.lineBad m.pa then .ok (answer (s.poisonLine (lineOf m.pa)) (errWitness 3 m.pa)) else go s h
/-- MSG_READ_REQUEST: TIME is the load's bound. -/
def msgReadRequestBody (m : Msg) (s : State) : State :=
  s.message 3 m (fun s => s.inTurn m (fun s => s.atPeerHome m false (fun w => readAnswer (List.replicate 128 0) w) (fun s h =>
    if !s.underCeiling m.time then .error s
    else
      let l := lineOf m.pa
      let w := s.wts h l
      let t := s.readLine h l m.time
      .ok (t.sendAnswer m.tile m.dev 4 m.asid.toNat m.tag (t.clock h) (readAnswer (readBytes t.mem (l * 128) 128) (timeWitness w))))))
/-- MSG_READ_RESPONSE. An MWAIT that has been shown no version newer than its bound asks again (log entry 22). -/
def msgReadResponseBody (m : Msg) (s : State) : State :=
  s.message 4 m (fun s =>
    let w := BitVec.ofNat 64 (m.beat 128 8)
    let b := fullLine (m.payload.drop 32)
    let s := s.answered m
    match s.hostReqs.find? (fun h => h.id % 2 ^ 32 == m.tag) with
    | none => s
    | some h => match h.what with
      | .load n => (match s.findLoad n with
        | some l =>
          let s := s.dropHostReq h.id
          if wKind w = 1 then
            (match l.parts with
             | p :: _ => s.raise l.tid l.serial (mkFault (remoteFault w).1 l.slot (remoteFault w).2 p.va.toNat p.elem)
             | [] => s)
          else if l.form.waits && serialLe (wTime w) l.bound then s.updLoad l.id (fun l => { l with stage := .armed, armedAt := none })
          else s.takeLine l b (some (wTime w))
        | none => s.dropHostReq h.id)
      | .line l a c => { s.dropHostReq h.id with farLines := s.farLines ++ [⟨l, a, c, b, if wKind w = 1 then some w else none⟩] }
      | .store _ => s)
/-- The operation of a TYPE 5 message. -/
def atomicOf (code : Nat) : Option AtomicOp :=
  [AtomicOp.add, .swap, .cas, .min, .max, .and, .or, .xor].find? (fun o => atomicCode o == code)
/-- MSG_ATOMIC_REQUEST. -/
def msgAtomicRequestBody (m : Msg) (s : State) : State :=
  s.message 5 m (fun s => s.inTurn m (fun s => s.atPeerHome m true (fun w => atomicAnswer 0 w 0) (fun s h =>
    let code := m.beat 0 4 / 4 % 256
    let size := 2 ^ (m.beat 4 4 / 32768 % 4)
    let sx := m.beat 4 4 / 16777216 % 2 == 1
    let b := BitVec.ofNat 64 (m.beat 8 8); let c := BitVec.ofNat 64 (m.beat 16 8)
    let wit := BitVec.ofNat 64 (m.beat 24 8)
    let w := if wKind wit = 0 then some (wTime wit) else none
    let answer (t : State) (v : Word) (x : Word) (g : Nat) : Except State State := .ok (t.sendAnswer m.tile m.dev 6 m.asid.toNat m.tag (t.clock h) (atomicAnswer v x g))
    let s := if s.needsDram h (lineOf m.pa) .cached then (s.openLine (lineOf m.pa)).correctLine (lineOf m.pa) else s
    if !s.underCeiling (s.storeTime h (lineOf m.pa) w none) then .error s
    else match atomicOf code with
      | some op => let y := s.doAtomic h op m.pa size b c sx w w .cached false; answer y.1 y.2.1 (timeWitness y.2.2) 0
      | none =>
        if code = 0xA8 then
          let next := readNat s.mem m.pa 8
          let g := claimGrant next (readNat s.mem (m.pa + 8) 8) b c.toNat
          let y := s.doClaim h m.pa next g w w .cached false
          answer y.1 (BitVec.ofNat 64 next) (timeWitness y.2) g
        else answer s 0 (errWitness 5 m.pa) 0)))
/-- MSG_ATOMIC_RESPONSE; an error names the location as this device does, in the peer window (R176). -/
def msgAtomicResponseBody (m : Msg) (s : State) : State :=
  s.message 6 m (fun s =>
    let w := BitVec.ofNat 64 (m.beat 8 8)
    let s := s.answered m
    match s.stores.find? (fun r => r.route == .peer && r.id % 2 ^ 32 == m.tag) with
    | none => s
    | some r =>
      let s := { s with hostReqs := s.hostReqs.filter (fun h => h.what != HostWhat.store r.id) }
      if wKind w = 1 then (s.setGroupVl r.gid 0).endStore r ⟨none, none, some (errWitness (bitsAt w 56 6) r.kind.key)⟩
      else
        let s := match r.kind with | .claimel .. => s.setGroupVl r.gid (m.beat 16 8) | _ => s
        s.endStore r ⟨some (wTime w), some (BitVec.ofNat 64 (m.beat 0 8)), none⟩)
/-- MSG_TIME (R418): every slice's clock rises (log entry 22). -/
def msgTimeBody (m : Msg) (s : State) : State := s.message 7 m (fun s => (List.range 8).foldl (fun s h => s.raiseClock h m.time) s)

/-! Retransmission (R415). -/
def State.unacked (s : State) (tile dev : Nat) : List SentMsg := s.sent.filter (fun x => x.tile == tile && x.dev == dev)
def msgRetransmitBody (tile dev : Nat) (s : State) : State :=
  { s with out := s.out ++ (s.unacked tile dev).map (fun x => .message dev x.type (msgOffset 0 tile) x.payload) }
/-- A load whose destination is unreachable faults as one that is refused (log entry 22). -/
def State.failLoad (s : State) (l : LoadReq) : State :=
  match l.parts with
  | p :: _ => s.raise l.tid l.serial (mkFault cPERM l.slot 7 p.va.toNat p.elem)
  | [] => s
/-- The request of a message that no answer will come for. -/
def State.abandon (s : State) (x : SentMsg) : State :=
  let partner (a : Nat) : Word := errWitness 2 (a % 2 ^ 56)
  if x.type = 1 then
    (match s.trains.find? (fun t => t.dest == 8 + x.dev && t.inbound.isNone && t.tile == x.tile && t.no.toNat == x.tag) with
     | some t => s.trainAcked t none (some (partner t.address))
     | none => s)
  else if x.type = 5 then
    (match s.stores.find? (fun r => r.route == .peer && r.id % 2 ^ 32 == x.tag) with
     | some r =>
       let s := { s with hostReqs := s.hostReqs.filter (fun h => h.what != HostWhat.store r.id) }
       (s.setGroupVl r.gid 0).endStore r ⟨none, none, some (partner r.kind.key)⟩
     | none => s)
  else match s.hostReqs.find? (fun h => h.id % 2 ^ 32 == x.tag) with
    | none => s
    | some h => match h.what with
      | .load n => (match s.findLoad n with | some l => (s.dropHostReq h.id).failLoad l | none => s.dropHostReq h.id)
      | .line l a c => { s.dropHostReq h.id with farLines := s.farLines ++ [⟨l, a, c, fullLine [], some (partner (l * 128))⟩] }
      | .store _ => s
/-- MSG_UNREACHABLE. -/
def msgUnreachableBody (tile dev : Nat) (s : State) : State :=
  let gone := s.unacked tile dev
  gone.foldl State.abandon { s with sent := s.sent.filter (fun x => !(x.tile == tile && x.dev == dev)) }
/-- The cluster of a port (R3). -/
def portCluster (p : Nat) : Nat := [0, 0, 3, 3, 4, 4, 7, 7][p]?.getD 0
/-- The next valid slot of the peer table after the one served last. -/
def State.nextPeer (s : State) (after : Nat) : Option Nat :=
  let l := (s.peers.filter (fun e => bitsAt e.2 0 1 == 1)).map (·.1)
  match l.find? (fun k => after ≤ k) with
  | some k => some k
  | none => l.head?
/-- IDLE_TIME_SEND (R418). -/
def idleTimeSendBody (port : Nat) (s : State) : State :=
  match s.nextPeer (mget 0 s.idleTurn port) with
  | none => s
  | some k =>
    let dev := bitsAt (mget 0 s.peers k) 4 12
    { s with idleTurn := mset 0 s.idleTurn port (k + 1),
             out := s.out ++ [.message dev 7 (msgOffset 0 0) (msgHeader 7 0 s.deviceNo.toNat 0 (s.clusterClock (portCluster port)) 0 0 0)] }

def execHostMemrd (pa size : Nat) (s : State) : Host.Outcome State Fault Refusal := .next (hostMemrdBody pa size s)
def execHostMemrdOwnership (pa : Nat) (exclusive : Bool) (s : State) : Host.Outcome State Fault Refusal := .next (hostMemrdOwnershipBody pa exclusive s)
def execHostMemwr (pa : Nat) (bytes : List (BitVec 8)) (s : State) : Host.Outcome State Fault Refusal := .next (hostMemwrBody pa bytes s)
def execBirsp (line : Nat) (bytes : Option (List (BitVec 8))) (s : State) : Host.Outcome State Fault Refusal := .next (birspBody line bytes s)
def execMsgTrainBeats (m : Msg) (s : State) : Host.Outcome State Fault Refusal := .next (msgTrainBeatsBody m s)
def execMsgTrainAck (m : Msg) (s : State) : Host.Outcome State Fault Refusal := .next (msgTrainAckBody m s)
def execMsgReadRequest (m : Msg) (s : State) : Host.Outcome State Fault Refusal := .next (msgReadRequestBody m s)
def execMsgReadResponse (m : Msg) (s : State) : Host.Outcome State Fault Refusal := .next (msgReadResponseBody m s)
def execMsgAtomicRequest (m : Msg) (s : State) : Host.Outcome State Fault Refusal := .next (msgAtomicRequestBody m s)
def execMsgAtomicResponse (m : Msg) (s : State) : Host.Outcome State Fault Refusal := .next (msgAtomicResponseBody m s)
def execMsgTime (m : Msg) (s : State) : Host.Outcome State Fault Refusal := .next (msgTimeBody m s)
def execMsgRetransmit (tile dev : Nat) (s : State) : Host.Outcome State Fault Refusal := .next (msgRetransmitBody tile dev s)
def execMsgUnreachable (tile dev : Nat) (s : State) : Host.Outcome State Fault Refusal := .next (msgUnreachableBody tile dev s)
def execIdleTimeSend (port : Nat) (s : State) : Host.Outcome State Fault Refusal := .next (idleTimeSendBody port s)
def execHostSnoop (pa : Nat) (s : State) : Host.Outcome State Fault Refusal := .next (hostSnoopBody pa s)
def execHostCompletion (req : Nat) (bytes : List (BitVec 8)) (s : State) : Host.Outcome State Fault Refusal := .next (hostCompletionBody req bytes s)
def execPeerTableWrite (k : Nat) (v : Word) (s : State) : Host.Outcome State Fault Refusal := .next (peerTableWriteBody k v s)
def execFabricEnumeration (id : BitVec 12) (s : State) : Host.Outcome State Fault Refusal := .next (fabricEnumerationBody id s)

end Sys2Proof.Machine
end

