-- ==== Sys2Proof/Machine/Locks.lean ====
section
/-! DEFINITION. Row locks as the homes grant them (R244 to R246). -/
namespace Sys2Proof.Machine

/-! Granting locks (R244). -/
def RowRun.meets (a b : RowRun) : Bool := a.sub == b.sub && a.row < b.row + b.count && b.row < a.row + a.count
def Lock.meets (a b : Lock) : Bool := a.runs.any (fun r => b.runs.any r.meets)
/-- A holder of a conflicting lock. -/
def Cluster.conflict (k : Cluster) (l : Lock) : Option Nat := (k.locks.find? (fun h => h.owner != l.owner && (h.write || l.write) && h.meets l)).map (·.owner)
def Cluster.earlier (k : Cluster) (q : LockReq) : Bool := (k.lockReqs.takeWhile (fun p => p.id != q.id)).any (fun p => p.lock.owner != q.lock.owner && p.lock.meets q.lock)
/-- The first lines of the rows. -/
def RowRun.heads (r : RowRun) : List Nat := (List.range r.count).map (fun k => (r.base + (r.row + k) * 1024) / 128)
def Lock.heads (l : Lock) : List Nat := l.runs.flatMap RowRun.heads
def Lock.lines (l : Lock) : List Nat := l.runs.flatMap (fun r => linesOf (r.base + r.row * 1024) (r.count * 1024))
/-- Step 2: a store has arrived at the home for the rows that can be performed there. The grant comes after it. -/
def State.arrivedStore (s : State) (c : Nat) (l : Lock) : Bool :=
  s.stores.any (fun r => r.home == some c && r.route != .host && r.route != .peer && r.lines.any l.lines.contains && s.turnOf r &&
    !(r.lines.any (fun k => s.keyBlocked r.who (k * 128) true)))
/-- The rows' reads that must first stand in the queue of an engaged bank (R323, R426). -/
def State.rowsWait (s : State) (c : Nat) (l : Lock) : Option State :=
  (l.heads.find? (fun k => !s.opened.contains k && (s.place (k * 128)).any (fun p => s.bankEngaged p.bankId))).map (fun k => s.askDram k .engine)
/-- Steps 3 and 4: dirty lines of the rows go to DRAM, and under WR every line of them leaves the slice; each row is read, corrected, rewritten. -/
def State.flushLine (s : State) (c : Nat) (wr : Bool) (l : Nat) : State :=
  let s := s.scrubHeld c l
  let s := if (s.line l).held && (s.line l).dirty then (s.setLine l { s.line l with dirty := false }).writeBack l else s
  let s := s.correctLine l
  if wr then s.dropLine c l else s
def State.scrubRows (s : State) (c : Nat) (l : Lock) : State :=
  let s := l.lines.foldl (fun s k => s.flushLine c l.write k) s
  l.heads.foldl (fun s k => s.openLine k) s
/-- The address of the first row with an uncorrectable or poisoned line. -/
def State.badRow (s : State) (l : Lock) : Option Nat :=
  (l.lines.find? (fun k => s.errOf k = .uncorrectable || s.errOf k = .poisoned)).map (fun k => k / 8 * 1024)
def State.dropLockReq (s : State) (c id : Nat) : State := let k := s.cluster c; s.setCluster c { k with lockReqs := k.lockReqs.filter (·.id != id) }
/-- The party's thread has a place, and has not ended. -/
def State.present (s : State) (party : Nat) : Bool :=
  s.party (partyTid party) == party && (s.thread (partyTid party)).status != .absent && (s.thread (partyTid party)).status != .ended
/-- The party is still there to hold a lock: a queue, a thread in its place, a saved thread (R246). -/
def State.endures (s : State) (party : Nat) : Bool :=
  !isThreadParty party || s.present party || s.saved.any (fun e => partyOf e.1 e.2.team == party)
/-- The request ends with a witness: the thread's deferred result; for a packet, an error ends the packet and its locks. -/
def State.lockEnds (s : State) (c : Nat) (q : LockReq) (w : Word) : State :=
  let s := (s.dropLockReq c q.id).answer q.gid ⟨none, some w, none⟩
  if isThreadParty q.lock.owner then
    (if s.present q.lock.owner then s.raiseHorizonW (s.tileOf (partyTid q.lock.owner)) w else s)
  else if wKind w ≠ 1 then s
  else
    let no := q.lock.desc.toNat
    (s.setCluster c ((s.cluster c).dropPacket (q.lock.owner - 4096) no)).packetDone (q.lock.owner - 4096) no none (some w)
def ownerWitness (detail : Nat) : Word := errWitness 1 detail
/-- The lock is taken, its rows read and rewritten; the op of a packet is launched; a lock asked for by a thread that has ended since goes at once (R4, R246; DEDUCED, log entry
64). -/
def State.grantLock (s : State) (c : Nat) (q : LockReq) : State :=
  let w := joinTimes (q.lock.lines.map (fun l => some (s.wts c l)))
  let k := s.cluster c
  let s := (s.setCluster c { k with locks := k.locks ++ [q.lock] }).lockEnds c q (optWitness w)
  let s := if s.endures q.lock.owner then s else s.releaseAll q.lock.owner
  match q.launch with
  | some (l, p) => s.acceptLaunch q.lock.owner l (some p)
  | none => s
/-- PLOCK_GRANT (R244). -/
def plockGrantBody (id : Nat) (s : State) : State :=
  match (List.range 8).findSome? (fun c => ((s.cluster c).lockReqs.find? (·.id == id)).map (fun q => (c, q))) with
  | none => s
  | some (c, q) =>
    let k := s.cluster c
    let full := 1024 ≤ k.locks.length
    match k.conflict q.lock with
    | some h => if q.tries then s.lockEnds c q (ownerWitness (partyTid h)) else s
    | none =>
      if k.earlier q || full then (if q.tries then s.lockEnds c q (ownerWitness (2 ^ 56 - 1)) else s)
      else if (match q.launch with | some (l, _) => !k.hasRoom l | none => false) || s.arrivedStore c q.lock || s.unripe q.lock.lines then s
      else match s.snoopWait q.lock.lines true with
      | some s => s
      | none => match s.rowsWait c q.lock with
        | some s => s
        | none => let s := s.scrubRows c q.lock; match s.badRow q.lock with
          | some a => (q.lock.lines.foldl State.meetBad s).lockEnds c q (errWitness 3 a)
          | none => s.grantLock c q

/-! The event. -/
def execPlockGrant (req : Nat) (s : State) : Host.Outcome State Fault Refusal := .next (plockGrantBody req s)

end Sys2Proof.Machine
end

