-- ==== Sys2Proof/Machine/Registers.lean ====
section
/-! DEFINITION. CSR writes as steps of their own (R60, R118, R294, R374, R376, R384, R434), and reads of the register BAR (R410, R449). -/
namespace Sys2Proof.Machine

/-- The first such effect goes. -/
def dropEffect (e : Effect) : List EffAt → List EffAt
  | [] => []
  | x :: r => if x.eff = e then r else x :: dropEffect e r
/-- The committing block's next CSR write, performed at its commit (R118); nothing where no block that can commit holds it. -/
def csrStep (tid csr : Nat) (v : Word) (write : State → State) (s : State) : State :=
  match s.commitHead tid with
  | none => s
  | some b =>
    let e : Effect := .csrw (BitVec.ofNat 12 csr) v
    if b.effs.contains e then
      let t := s.thread tid
      write (s.setThread tid { t with flight := { b with effects := dropEffect e b.effects } :: t.flight.drop 1 })
    else s
def ilaWriteBody (tid : Nat) (v : Word) : State → State := csrStep tid 0x134 v (fun s => s.csrWrite tid 0x134 v)
/-- Firmware contexts as writers of the ASID table: 2,048 and the number of the control core (DESIGN CHOICE, log entry 2). -/
def firmwareTid (tid : Nat) : Bool := 2048 ≤ tid && tid < 2048 + Config.cores
/-- Firmware writes the entry of an ASID, [11:0] of the value, on behalf of regions (R376): its root, or where that is 0 no table. -/
def firmwareRoot (v : Word) (s : State) : State :=
  let a := v.setWidth 12
  if s.walkPending (.asid a) then s
  else
    let root := bitsAt v 16 36
    ({ s with asidTab := mset none s.asidTab a.toNat (if root = 0 then none else some (root * 2 ^ 16)) } : State).dropTlb (.asid a)
def ptrootWriteBody (tid : Nat) (v : Word) (s : State) : State :=
  if firmwareTid tid then firmwareRoot v s else csrStep tid 0x111 v (fun s => s.csrWrite tid 0x111 v) s
def mthWriteBody (tid : Nat) (v : Word) : State → State := csrStep tid 0x130 v (fun s => s.csrWrite tid 0x130 v)
def refctlWriteBody (tid : Nat) (v : Word) : State → State := csrStep tid 0x131 v (fun s => s.csrWrite tid 0x131 v)
def fwshareWriteBody (tid : Nat) (v : Word) : State → State := csrStep tid 0x120 v (fun s => s.csrWrite tid 0x120 v)
def frmWriteBody (tid : Nat) (v : Word) : State → State := csrStep tid 0x031 v (fun s => s.csrWrite tid 0x031 v)
def leaseWriteBody (tid : Nat) (v : Word) : State → State := csrStep tid 0x112 v (fun s => s.csrWrite tid 0x112 v)
/-- The registers with a row of their own. -/
def ownRow (csr : Nat) : Bool := [0x134, 0x111, 0x130, 0x131, 0x120, 0x031, 0x112].contains csr
def csrRegisterWriteBody (tid csr : Nat) (v : Word) (s : State) : State :=
  if ownRow csr then s else csrStep tid csr v (fun s => s.csrWrite tid csr v) s
/-- The row of a CSR write. -/
def csrInstr (tid : Nat) (csr : BitVec 12) (v : Word) : Instr :=
  match csr.toNat with
  | 0x134 => .ilaWrite tid v
  | 0x111 => .ptrootWrite tid v
  | 0x130 => .mthWrite tid v
  | 0x131 => .refctlWrite tid v
  | 0x120 => .fwshareWrite tid v
  | 0x031 => .frmWrite tid v
  | 0x112 => .leaseWrite tid v
  | _ => .csrRegisterWrite tid csr v
/-- What a read of an 8-byte register of the BAR gives: STARTCTL, STATUSPA, QCBTPA; the rest, doorbells among it, reads 0, as reserved bits do (R8, R410,
R449). -/
def State.barRead (s : State) (off : Nat) : Word :=
  let m := s.mgr
  match off with
  | 0x0000 => BitVec.ofNat 64 ((if m.ready then 8 else 0) + (if m.restarting then 16 else 0) + m.failStep % 256 * 256)
  | 0x0008 => BitVec.ofNat 64 (m.statusPa % 2 ^ 52)
  | 0x0010 => BitVec.ofNat 64 (m.qcbtPa % 2 ^ 52)
  | _ => 0
def execIlaWrite (tid : Nat) (v : Word) (s : State) : Host.Outcome State Fault Refusal := .next (ilaWriteBody tid v s)
def execPtrootWrite (tid : Nat) (v : Word) (s : State) : Host.Outcome State Fault Refusal := .next (ptrootWriteBody tid v s)
def execMthWrite (tid : Nat) (v : Word) (s : State) : Host.Outcome State Fault Refusal := .next (mthWriteBody tid v s)
def execRefctlWrite (tid : Nat) (v : Word) (s : State) : Host.Outcome State Fault Refusal := .next (refctlWriteBody tid v s)
def execFwshareWrite (tid : Nat) (v : Word) (s : State) : Host.Outcome State Fault Refusal := .next (fwshareWriteBody tid v s)
def execFrmWrite (tid : Nat) (v : Word) (s : State) : Host.Outcome State Fault Refusal := .next (frmWriteBody tid v s)
def execLeaseWrite (tid : Nat) (v : Word) (s : State) : Host.Outcome State Fault Refusal := .next (leaseWriteBody tid v s)
def execCsrRegisterWrite (tid : Nat) (csr : BitVec 12) (v : Word) (s : State) : Host.Outcome State Fault Refusal :=
  .next (csrRegisterWriteBody tid csr.toNat v s)

end Sys2Proof.Machine
end

