-- ==== Sys2Proof/Machine/Repair.lean ====
section
/-! DEFINITION. Repairs and containment (R436 to R442). -/
namespace Sys2Proof.Machine

/-! Containment (R441). -/
/-- The rows an ended op has written carry stale codes: their lines cannot be read (R250, R430; log entry 23). -/
def State.spoilRows (s : State) (o : FieldOp) : State :=
  o.launch.subs.foldl (fun s e => o.launch.writes.foldl (fun s k =>
    if mget false s.stale (e.1 * 512 + k) then
      let s := (linesOf (e.2 + k * 1024) 1024).foldl (fun s l => s.setErr l .uncorrectable) s
      { s with stale := mset false s.stale (e.1 * 512 + k) false }
    else s) s) s
/-- A launch that has become impossible: a handle that is still to be written gives way to an error witness of class 5 (R249). -/
def State.failHandle (s : State) (c : Nat) (o : FieldOp) : State :=
  { s with groups := s.groups.map (fun (g : Group) => if g.launch && g.value == some (opHandle c o.seq) then { g with error := some (errWitness 5 o.seq) } else g) }
/-- Ops on the failed part end with an error witness of class 5 (R249, R251). -/
def State.endOps (s : State) (c : Nat) (on : FieldOp → Bool) : State :=
  ((s.cluster c).ops.filter (fun o => o.state != .done && on o)).foldl (fun s o => ((s.spoilRows o).endOp c o (errWitness 5 o.seq) true).failHandle c o) s
/-- The cluster of a failed unit, and the ops on it. -/
def unitCluster : FailedUnit → Nat
  | .tile t => t / 8
  | .fieldController c => c
  | .rowSequencer c _ => c
  | .bank b => clusterOfBank b
  | .cluster c => c
  | .device => 0
def unitOps (u : FailedUnit) (o : FieldOp) : Bool :=
  match u with
  | .fieldController _ | .cluster _ | .device => true
  | .rowSequencer c p => o.launch.sequencers.contains (c * 384 + p)
  | .bank b => o.banks.contains b
  | .tile _ => false
def unitClusters (u : FailedUnit) : List Nat := match u with | .device => List.range 8 | .tile _ => [] | u => [unitCluster u]
/-- A team has a thread, an allocation or a claim on the unit, or an op of its own runs there; or its region owns a cistern allocation of a
restarting cluster. -/
def State.affected (s : State) (u : FailedUnit) (x : Team) : Bool :=
  let owns : Bool := (unitClusters u).any (fun c => (s.cluster c).ops.any (fun o => o.state != .done && unitOps u o && isThreadParty o.owner && teamOfParty o.owner == x.id))
  !x.done && (match u with
    | .tile t => x.tile == t
    | .device => true
    | .cluster c | .fieldController c => x.tile / 8 == c || owns || s.cisterns.any (fun k => k.cluster == c && k.asid == x.asid && k.region == x.region)
    | _ => owns)
def Team.fdom (x : Team) (s : State) : Nat := s.fdomOf x.asid x.region
/-- The teams killed: the affected ones, and those of a nonzero fault domain of theirs. -/
def State.doomed (s : State) (u : FailedUnit) : List Team :=
  let hit := s.teams.filter (s.affected u)
  s.teams.filter (fun x => !x.done && (hit.any (·.id == x.id) || (x.fdom s != 0 && hit.any (fun y => y.fdom s == x.fdom s))))
/-- The firmware acts on a unit failure: a class 10 record, the kills, the ops. -/
def State.contain (s : State) (u : FailedUnit) (action : Nat) : State :=
  let c := unitCluster u
  let record := (s.cluster c).logged
  let dead := s.doomed u
  let s := s.logRecord c 10 action 0 0 0 0
  let s := dead.foldl (fun s x => s.killTeam x.id (errWitness 5 (0xFF * 2 ^ 48 + record % 2 ^ 48))) s
  (unitClusters u).foldl (fun s c => s.endOps c (unitOps u)) s
/-- UNIT_FAILURE. -/
def unitFailureBody (u : FailedUnit) (s : State) : State := s.contain u 0

/-! What the log tells the firmware to repair (R436; log entry 72). -/
def day : Nat := 24 * 3600 * 1000000 * microsecond
def recordCycle (r : List Word) : Nat := (r[0]?.getD 0).toNat
def recordAction (r : List Word) : Nat := bitsAt (r[1]?.getD 0) 8 8
def recordInfo (r : List Word) : Nat := (r[3]?.getD 0).toNat
/-- The bank and row that a record of DRAM names. -/
def recordRow (r : List Word) : Nat × Nat :=
  let w := r[1]?.getD 0
  (bitsAt w 29 3 * 6144 + (bitsAt w 23 6 * 8 + bitsAt w 16 3) * 16 + bitsAt w 32 4, bitsAt w 36 5 * 512 + bitsAt w 41 9)
/-- Records of a row's errors since it was last spared or its bank retired, the newest first. -/
def rowRecords (log : List (List Word)) (row : Nat × Nat) : List (List Word) :=
  (log.filter (fun r => [1, 2, 8].contains (recordClass r) && recordRow r == row)).reverse.takeWhile (fun r => recordAction r == 0)
/-- A cycle lies within the 24 hours before another. -/
def withinDay (now c : Nat) : Bool := c ≤ now && now - c ≤ day
/-- `n` of these cycles, the newest first, lie within 24 hours. -/
def clustered (n : Nat) (cycles : List Nat) : Bool := (cycles.zip (cycles.drop (n - 1))).any (fun p => withinDay p.1 p.2)
/-- A row is to be spared: an uncorrectable error, a failing counter code, or four correctable errors within 24 hours. -/
def rowFailing (log : List (List Word)) (row : Nat × Nat) : Bool :=
  let l := rowRecords log row
  l.any (fun r => recordClass r == 2 || (recordClass r == 8 && recordInfo r == 1)) || clustered 4 ((l.filter (fun r => recordClass r == 1)).map recordCycle)
def Cluster.rowsOwed (k : Cluster) : List (Nat × Nat) :=
  (((k.log.filter (fun r => [1, 2, 8].contains (recordClass r))).map recordRow).eraseDups).filter (rowFailing k.log)
/-- The rows of a bank that failed within the last 24 hours. -/
def State.rowFails (s : State) (bank : Nat) : Nat :=
  (((s.cluster (clusterOfBank bank)).log.filter (fun r => recordClass r == 2 && recordAction r != 0 && (recordRow r).1 == bank &&
    withinDay s.cycle (recordCycle r)))).length
/-- Three uncorrectable errors of one scratchpad bank of a tile within 24 hours. -/
def State.padFailing (s : State) (tile : Nat) : Bool :=
  let l := ((s.cluster (clusterOfTile tile)).log.filter (fun r => recordClass r == 5 && bitsAt (r[1]?.getD 0) 23 6 == tile % 64)).reverse
  (List.range 64).any (fun b => clustered 3 ((l.filter (fun r => bitsAt (r[1]?.getD 0) 16 7 == b + 1)).map recordCycle))
/-- Three residue failures of a tile's matrix array within 24 hours. -/
def State.arrayFailing (s : State) (tile : Nat) : Bool :=
  clustered 3 ((((s.cluster (clusterOfTile tile)).log.filter (fun r => recordClass r == 6 && bitsAt (r[1]?.getD 0) 23 6 == tile % 64 && bitsAt (r[1]?.getD 0) 16 7 == 1)).reverse).map recordCycle)
/-- A tile is to be retired: a second lane group is lost, or its matrix array or a scratchpad bank fails. -/
def State.tileFailing (s : State) (tile : Nat) : Bool := 2 ≤ groupsOf (s.tile tile).lost || s.padFailing tile || s.arrayFailing tile

/-! Rows and banks (R436 to R438). -/
/-- An op reaches a row. -/
def State.rowReached (s : State) (bank row : Nat) : Bool :=
  (s.cluster (clusterOfBank bank)).ops.any (fun o => o.reaches (bank * 32 + row / 512) (row % 512) true)
/-- The two banks of each stack that the boot map leaves out (R438; log entry 24). -/
def reserveBanks : List (Nat × Nat) := [(383, 14), (383, 15)]
def brent (state pc bank tpc tbank moved : Nat) : Word :=
  BitVec.ofNat 64 (state + pc * 4 + bank * 2 ^ 11 + tpc * 2 ^ 15 + tbank * 2 ^ 24 + moved * 2 ^ 32)
/-- No valid interleave region covers any of a bank: regions are counted in 2 MiB of a pseudo-channel, 128 rows of each bank or more (R293, R295). -/
def bankUnmapped (c pc bank : Nat) (il : NMap (Word × Word)) : Bool :=
  (List.range 128).all (fun n => (addressAt ⟨c, pc, bank, 128 * n, 0⟩ il).isNone)
/-- A free reserve bank of a cluster. -/
def State.reserveFor (s : State) (c : Nat) : Option (Nat × Nat) :=
  let k := s.cluster c
  reserveBanks.find? (fun r => bankUnmapped c r.1 r.2 k.il && !k.remap.any (fun e => brState e.2 != 0 && bitsAt e.2 15 9 == r.1 && bitsAt e.2 24 4 == r.2))
/-- An unused entry of the remap table. -/
def Cluster.freeEntry (k : Cluster) : Option Nat := (List.range 16).find? (fun i => brState (mget 0 k.remap i) == 0)
/-- A record of a repair of a row's bank. -/
def State.logRepair (s : State) (bank row action : Nat) : State :=
  s.logRecord (clusterOfBank bank) 2 action (logPc (bank / 16 % 384)) (bank % 16 + row / 512 * 16 + row % 512 * 512) 0 0
/-- Retirement of a bank begins, after a failure of a row. -/
def State.beginRetire (s : State) (bank row : Nat) : State :=
  let c := clusterOfBank bank
  let k := s.cluster c
  let n := bank % 6144
  if k.remap.any (fun e => brState e.2 != 0 && brFrom e.2 == n) then s
  else match k.freeEntry, s.reserveFor c with
    | some i, some r => (s.setCluster c { k with remap := mset 0 k.remap i (brent 1 (n / 16) (n % 16) r.1 r.2 0) }).logRepair bank row 2
    | _, _ => s
/-- ROW_SPARE (R437): the subarray's one spare; where it is used, or the bank's third row fails in 24 hours, the bank is retired (R436). -/
def rowSpareBody (bank row : Nat) (s : State) : State :=
  let sub := bank * 32 + row / 512
  if s.rowLocked bank row || s.rowReached bank row then s
  else
    if mget false s.spared sub then s.beginRetire bank row
    else
      let s := (s.markedLines bank row).foldl (fun s l => (s.correctLine l).poisonLine l) s
      let s : State := { (s.setCounter bank row 0) with spared := mset false s.spared sub true }
      let c := clusterOfBank bank
      let s := (s.logRepair bank row 1).updCluster c (fun k => { k with rowsSpared := k.rowsSpared + 1 })
      if 3 ≤ s.rowFails bank then s.beginRetire bank row else s
/-- A bank holds a lock or runs an op. -/
def State.bankBusy (s : State) (bank : Nat) : Bool :=
  let k := s.cluster (clusterOfBank bank)
  k.locks.any (fun l => l.runs.any (fun r => r.sub / 32 == bank)) || k.ops.any (fun o => o.state != .done && o.banks.contains bank)
/-- BANK_RETIRE_MOVE (R438): the next superblock, in ascending s; its data, wts and marks keep their physical addresses. -/
def bankRetireMoveBody (c i : Nat) (s : State) : State :=
  let k := s.cluster c
  let e := mget 0 k.remap i
  if brState e ≠ 1 || s.bankBusy (c * 6144 + brFrom e) then s
  else
    let m := brMoved e + 1
    let done := 32768 ≤ m
    let w := brent (if done then 2 else 1) (brFrom e / 16) (brFrom e % 16) (bitsAt e 15 9) (bitsAt e 24 4) m
    let s := s.setCluster c { k with remap := mset 0 k.remap i w, banksRetired := if done then k.banksRetired + 1 else k.banksRetired }
    if done then
      let n := c * 6144 + brFrom e
      s.setBank n { s.bank n with retired := true }
    else s

/-! Tiles (R439). -/
/-- Bytes, marks and times of a range move from one key to another. -/
def State.moveRange (s : State) (a b n : Nat) : State :=
  let hit (k : Nat) : Bool := a ≤ k && k < a + n
  let la := a / 128; let lb := b / 128; let hitLine (l : Nat) : Bool := la ≤ l && l < la + n / 128
  let s := s.zeroFill b n
  let s : State := { s with mem := (s.mem.filter (fun c => hit c.1)).foldl (fun m c => writeByte m (c.1 - a + b) c.2) (eraseRange s.mem a n) }
  let s := (s.lines.filter (fun e => hitLine e.1)).foldl (fun s e => (s.setLine (e.1 - la + lb) e.2).setLine e.1 LineT.none) s
  (s.err.filter (fun e => hitLine e.1)).foldl (fun s e => (s.setErr (e.1 - la + lb) e.2).setErr e.1 .ok) s
/-- A tile with a free run for an allocation: of the same cluster if one has room. -/
def State.newHome (s : State) (tile n : Nat) : Option (Nat × Nat) :=
  let all := (List.range 64).filter (fun t => t != tile && !(s.tile t).retired)
  ((all.filter (fun t => t / 8 == tile / 8)) ++ all.filter (fun t => t / 8 != tile / 8)).findSome? (fun t => (s.unitRun t n).map (fun u => (t, u)))
/-- Saved threads of a moved team; their copy entries take numbers of no queue, and keep those they were saved under (R341). -/
def State.moveSaved (s : State) (team tile : Nat) : State :=
  { s with saved := s.saved.map (fun (e : Nat × Thread) => if e.2.team = team then
      (e.1, { e.2 with tile := tile, savedEntries := e.2.savedEntries.zipIdx.map (fun (c : (Nat × CopyEntry) × Nat) => (c.1.1, { c.1.2 with seq := 2 ^ 39 + s.fresh + c.2, was := some (c.1.2.was.getD (e.2.tile, c.1.2.seq)) })) })
      else e),
           fresh := s.fresh + s.saved.foldl (fun a e => a + e.2.savedEntries.length) 0 }
/-- An allocation moves with its team, where some tile has room. -/
def State.moveAlloc (s : State) (a : Alloc) : State :=
  match s.newHome a.tile a.units with
  | none => s
  | some (t, u) =>
    let s := s.moveRange (scratchKey a.tile (a.unit * 16384)) (scratchKey t (u * 16384)) (a.units * 16384)
    let s := s.raiseClock (8 + t) (s.clock (8 + a.tile))
    let s : State := { s with allocs := s.allocs.map (fun (y : Alloc) => if y.id = a.id then { y with tile := t, unit := u } else y) }
    (s.teams.filter (fun x => x.alloc == a.id && !x.done)).foldl (fun s x => (s.setTeam { x with tile := t }).moveSaved x.id t) s
/-- A strip still writes to the tile's scratchpad (R333). -/
def State.tileWritten (s : State) (tile : Nat) : Bool := s.stripWrites (scratchKey tile 0) (2 ^ 22) ||
  s.stores.any (fun r => r.kind.keys.any (fun k => scratchKey tile 0 ≤ k && k < scratchKey tile (2 ^ 22)))
/-- TILE_RETIRE: first the tile leaves the pool and its threads are pre-empted; once they are saved, its allocations move. One that no tile has room
for is a unit failure of the tile (R441). -/
def tileRetireBody (tile : Nat) (s : State) : State :=
  let here := (s.threads.filter (fun e => e.2.here && e.2.tile == tile)).map (·.1)
  let x := s.tile tile
  if !x.retired then
    let s := (s.setTile tile { x with retired := true }).updCluster (clusterOfTile tile) (fun k => { k with tilesRetired := k.tilesRetired + 1 })
    let s := s.logRecord (clusterOfTile tile) (if 2 ≤ groupsOf x.lost then 6 else 5) 6 (logTile tile) 0 0 0
    here.foldl (fun s i => preemptBody i s) s
  else if !here.isEmpty then here.foldl (fun s i => preemptBody i s) s
  else if s.tileWritten tile then s
  else
    let s := (s.allocs.filter (fun a => a.tile == tile)).foldl State.moveAlloc s
    let s := if s.allocs.any (fun a => a.tile == tile) then s.contain (.tile tile) 6 else s
    let x := s.tile tile
    s.setTile tile { x with l1 := [], icache := [] }

/-! Links (R440). -/
/-- A start of a kind is asked for (R449); one that arrives during a start follows it. -/
def mergeStart (a : Option StartKind) (k : StartKind) : Option StartKind :=
  match a, k with
  | some .cold, _ => some .cold
  | _, .cold => some .cold
  | some (.warm z), .warm y => some (.warm (z || y))
  | none, k => some k
/-- A start is in progress or about to be, or the device waits for its sensors to cool before one (R456). -/
def Manager.busy (m : Manager) : Bool := m.restarting || m.pending.isSome || m.trip
/-- `oob`: the request has not come through STARTCTL. -/
def State.beginStart (s : State) (k : StartKind) (oob : Bool) : State :=
  let m := s.mgr
  if m.busy then { s with mgr := { m with next := mergeStart m.next k, nextOob := m.nextOob || oob } }
  else { s with mgr := { m with ready := false, restarting := true, pending := some k } }
/-- A request through STARTCTL: after a failed step only COLD is accepted. -/
def State.requestStart (s : State) (k : StartKind) : State :=
  if !s.mgr.busy && s.mgr.failStep ≠ 0 && k ≠ .cold then s else s.beginStart k false
/-- The ten mesh links (R3): the pairs of clusters they join, along the rows and then along the columns. -/
def meshLinks : List (Nat × Nat) := [(0, 1), (1, 2), (2, 3), (4, 5), (5, 6), (6, 7), (0, 4), (1, 5), (2, 6), (3, 7)]
/-- Link directions are numbered 2k and 2k + 1 for mesh link k, away from its lower and its higher cluster, then 20 + 2p and 21 + 2p for CXL port p; a
direction is logged and counted at the cluster it leaves. R3 gives links no numbers, and R435 does not say which cluster logs one (DESIGN CHOICE, log
entry 63). -/
def linkDirections : Nat := 36
def linkCluster (l : Nat) : Nat :=
  if l < 20 then (let e := meshLinks[l / 2]?.getD (0, 0); if l % 2 = 0 then e.1 else e.2) else portCluster ((l - 20) / 2)
/-- Full width: 64 data lanes of a mesh link, 16 of a CXL port. -/
def linkFull (l : Nat) : Nat := if l < 20 then 64 else 16
/-- The lanes a link direction runs; none is listed at full width. -/
def State.linkLanes (s : State) (l : Nat) : Nat := let n := mget 0 s.links l; if n = 0 then linkFull l else n
/-- The spare lanes a direction has left: a mesh link's has 4 (R440). -/
def State.sparesLeft (s : State) (l : Nat) : Nat := (if l < 20 then 4 else 0) - mget 0 s.linkSpares l
/-- LINK_RETRAIN: of the lanes in use, `lanes` still run. Spares take the place of the others while they last; else a mesh link narrows to 32 and 16
lanes, a CXL port to 8 and 4; below that a mesh link has the device restart, and a port is left to the CXL link layer (R409). -/
def linkRetrainBody (link lanes : Nat) (s : State) : State :=
  let c := linkCluster link
  let full := linkFull link
  let was := s.linkLanes link
  let log (s : State) (a : Nat) : State := s.logRecord c 7 a 0 (link * 2 ^ 18) 0 0
  let failing := was - lanes
  let left := s.sparesLeft link
  if linkDirections ≤ link then s
  else if failing ≤ left then log { s with linkSpares := mset 0 s.linkSpares link (mget 0 s.linkSpares link + failing) } 7
  else if full / 4 ≤ lanes + left && full / 4 < was then
    let n := if full / 2 ≤ lanes + left && full / 2 < was then full / 2 else full / 4
    let s := log { s with links := mset 0 s.links link n, linkSpares := mset 0 s.linkSpares link (mget 0 s.linkSpares link + left) } 8
    if was = full then s.updCluster c (fun k => { k with linksDegraded := k.linksDegraded + 1 }) else s
  else if link < 20 then (log s 10).beginStart (.warm false) true else s

/-! Cluster warm restart (R442). -/
/-- The slice writes back its dirty lines, the unreadable ones poisoned, and holds nothing. -/
def State.flushSlice (s : State) (c : Nat) : State :=
  let mine := (s.lines.filter (fun e => e.2.held && homeOf s (e.1 * 128) == some c)).map (·.1)
  let s := mine.foldl (fun s l => if (s.line l).dirty && s.errOf l == .uncorrectable then (s.setErr l .poisoned).logLine 3 l else s) s
  let s := s.evictLines c mine
  s.updCluster c (fun k => { k with lru := [], rdc := [], tlb := [] })
/-- The clocks resume at no less than they had reached, and the ceiling. -/
def State.resumeClocks (s : State) (c : Nat) : State := (clusterHomes c).foldl (fun s h => s.raiseClock h s.ceiling) s
def State.clearTile (s : State) (t : Nat) : State := let x := s.tile t; s.setTile t { x with l1 := [], tlb := [], icache := [] }

def execRowSpare (bank row : Nat) (s : State) : Host.Outcome State Fault Refusal := .next (rowSpareBody bank row s)
def execBankRetireMove (cluster entry : Nat) (s : State) : Host.Outcome State Fault Refusal := .next (bankRetireMoveBody cluster entry s)
def execTileRetire (tile : Nat) (s : State) : Host.Outcome State Fault Refusal := .next (tileRetireBody tile s)
def execLinkRetrain (link lanes : Nat) (s : State) : Host.Outcome State Fault Refusal := .next (linkRetrainBody link lanes s)
def execUnitFailure (unit : FailedUnit) (s : State) : Host.Outcome State Fault Refusal := .next (unitFailureBody unit s)

end Sys2Proof.Machine
end

