-- ==== Sys2Proof/Machine/Start.lean ====
section
/-! DEFINITION. Starting the device (R448 to R450): requests, the steps of a cold and of a warm start. -/
namespace Sys2Proof.Machine

/-! Images (R450). -/
def Manager.minimum (m : Manager) (kind : Nat) : Nat := mget (Config.fusedMinSvn kind) m.minSvn kind
def imageField (i : Image) (o n : Nat) : Nat := fieldAt i.header o n
def imageSvn (i : Image) : Nat := imageField i 8 4
def imageDigest (i : Image) : List Byte := (i.header.drop 16).take 64
/-- An image of a kind is valid: its header, its key's slot, its SVN, its digest, its signature. -/
def Manager.valid (m : Manager) (kind : Nat) (i : Image) : Bool :=
  i.header.length == 256 && i.header.take 4 == [0x47, 0x57, 0x46, 0x57] && imageField i 4 2 == 1 && imageField i 6 1 == kind && imageField i 7 1 < 4 &&
    !Config.keyRevoked (imageField i 7 1) && imageField i 12 4 == i.body.length && i.body.length % 64 == 0 && ((i.header.drop 80).take 62).all (· == 0) &&
    Config.shake256 i.key == Config.keyDigest (imageField i 7 1) && m.minimum kind ≤ imageSvn i &&
    imageDigest i == Config.shake256 i.body && Config.ed448Verify i.key (i.header.take 142) (i.header.drop 142)
/-- The image in flash slot n of a kind. -/
def flashImage (kind n : Nat) : Image := ⟨Config.flashHeader kind n, Config.flashBody kind n, Config.flashKey kind n⟩
def Manager.slotValid (m : Manager) (kind n : Nat) : Bool := m.valid kind (flashImage kind n)
/-- The slot a start uses: the valid image with the higher SVN. -/
def Manager.slotFor (m : Manager) (kind : Nat) : Option Nat :=
  if m.slotValid kind 0 && (!m.slotValid kind 1 || imageSvn (flashImage kind 1) ≤ imageSvn (flashImage kind 0)) then some 0
  else if m.slotValid kind 1 then some 1 else none
def Manager.load (m : Manager) (kind n : Nat) : Manager :=
  { m with activeSvn := mset 0 m.activeSvn kind (imageSvn (flashImage kind n)), activeDigest := mset [] m.activeDigest kind (imageDigest (flashImage kind n)) }

/-! The steps. -/
/-- The interleave regions that a cold start loads: of each stack 383 pseudo-channels whole and the first 14 banks of the last, linear, so that two banks
of each stack lie outside the map (R438; log entry 24). -/
def ilWords (mode base size cluster pcFirst off psz : Nat) : Word × Word :=
  (BitVec.ofNat 64 (1 + mode * 2 + base * 2 ^ 8 + size * 2 ^ 28), BitVec.ofNat 64 (cluster + pcFirst * 2 ^ 8 + off * 2 ^ 17 + psz * 2 ^ 24))
def bootMap : NMap (Word × Word) :=
  (List.range 8).flatMap (fun c => [(2 * c, ilWords 0 (49136 * c) 49024 c 0 0 128), (2 * c + 1, ilWords 0 (49136 * c + 49024) 112 c 383 0 112)])
/-- What of a cluster a cold start keeps: the repair map (R436 to R439) and the error log (log entry 24). -/
def Cluster.cold (k : Cluster) : Cluster :=
  { Cluster.start with remap := k.remap, banksRetired := k.banksRetired, tilesRetired := k.tilesRetired, groupsOut := k.groupsOut,
                       linksDegraded := k.linksDegraded, log := k.log, logged := k.logged, dropped := k.dropped }
/-- What of a tile a start keeps: its lanes and its place in the pool as the repairs left them. -/
def Tile.repaired (t : Tile) : Tile := { Tile.start with free := ~~~t.lost, spares := t.spares, doubled := t.doubled, lost := t.lost, retired := t.retired }
/-- A tile whose groups out of service have been tested again (R436): `pass` says which return. -/
def Tile.retested (t : Tile) (pass : BitVec 16) : Tile := { t with lost := t.lost &&& ~~~pass, free := t.free ||| (t.lost &&& pass) }
/-- REPAIR.GROUPS after the tests (R434). -/
def State.recount (s : State) : State :=
  { s with clusters := s.clusters.map (fun (e : Nat × Cluster) =>
      (e.1, { e.2 with groupsOut := ((List.range 8).map (fun i => groupsOf (s.tile (8 * e.1 + i)).lost)).foldl Nat.add 0 })) }
/-- The tests of lanes that a start runs, on some tiles: on those with a group out of service (R436). -/
def State.retest (s : State) (on : Nat → Bool) : State :=
  State.recount { s with
    fresh := s.fresh + 64,
    tiles := (s.tiles.map (fun (e : Nat × Tile) =>
      (e.1, if on e.1 && e.2.lost != 0 then e.2.retested (Config.retested (s.fresh + e.1)) else e.2))).filter (fun e => e.2 != Tile.start) }
/-- What training finds for the DRAM of each stack (R448 step 2; R4): kept until the next cold start. -/
def trainedBy (n : Nat) : NMap Nat := (List.range 8).foldl (fun m c => mset 0 m c (Config.trained (n + c))) []
/-- Sollosor as a cold start restarts it: its fuses and the requests it holds are kept (R449, R450, R455). -/
def Manager.powered (m : Manager) : Manager :=
  { Manager.start with restarting := true, pending := m.pending, next := m.next, nextOob := m.nextOob, minSvn := m.minSvn }
/-- The device as a cold start finds it: nothing that lives across launches, or longer, but the repairs (R4); a CXL link's widths stay. -/
def State.cold (s : State) : State :=
  { State.reset with
    agenda := s.agenda, fresh := s.fresh, out := s.out, links := s.links, linkSpares := s.linkSpares, spared := s.spared, mgr := s.mgr.powered,
    clusters := (List.range 8).map (fun c => (c, (s.cluster c).cold)),
    tiles := (s.tiles.map (fun e => (e.1, e.2.repaired))).filter (fun e => e.2 != Tile.start),
    banks := (s.banks.map (fun e => (e.1, { Bank.start with retired := e.2.retired }))).filter (fun e => e.2 != Bank.start) }
/-- The CSTAMPs of killed teams' STARTs are written before the queues go (R441). -/
def State.stampKilled (s : State) : State :=
  s.hostQ.foldl (fun s e => (e.2.active.filter (fun p => p.type == 1)).foldl (fun s p =>
    match s.packetResult e.1 p with
    | some (w, x) => ((s.writeStamp e.1 p w x).map (·.1)).getD s
    | none => match s.teams.find? (fun x => x.queue == e.1 && x.packet == p.no) with
      | some x => ((s.writeStamp e.1 p x.maxWrite x.ending).map (·.1)).getD s
      | none => s) s) s
/-- A line of such a CSTAMP that the host holds is taken back first (R412). -/
def State.stampSnoop (s : State) : Option State :=
  s.snoopWait ((s.hostQ.flatMap (fun e => e.2.active.filter (fun p => p.type == 1 && p.cstamp != 0))).filterMap (fun p =>
    (s.paLoc p.cstamp).map (fun l => lineOf l.key))) true
def Cluster.warm (k : Cluster) : Cluster :=
  { k with lru := [], rdc := [], tlb := [], ops := [], opSeq := 0, planeHorizon := none, locks := [], lockReqs := [], snoop := [], bisnp := [] }
/-- A warm start: every team is killed, the slices write back, and what lives across launches goes (R4, R442). -/
def State.warm (s : State) : State :=
  let s := (s.contain .device 10).stampKilled
  let s := (List.range 8).foldl (fun s c => (s.flushSlice c).resumeClocks c) s
  { s with
    focus := .none,
    tiles := (s.tiles.map (fun e => (e.1, { e.2.repaired with horizon := e.2.horizon, trainNo := e.2.trainNo }))).filter (fun e => e.2 != Tile.start),
    clusters := s.clusters.map (fun e => (e.1, e.2.warm)), cores := [], threads := [], saved := [], loads := [], stores := [], groups := [], trains := [],
    hostReqs := [], farLines := [], walks := [], walkEnds := [], allocs := [], cisterns := [], specials := [], keepOwner := [], teams := [], regions := [], waiting := [],
    sent := [], refused := [], hostHeld := [], opened := [], freeing := [],
    banks := s.banks.map (fun e => (e.1, { e.2 with queue := [], inserted := false })),
    streams := s.streams.map (fun x => { x with held := [], rx := [], train := none }) }
/-- Step 5: every DRAM row zero, counters 0, RP 0, each line timed by its home's clock. R448 says that the cisterns hold zero after it, R4 that a warm start
clears DRAM contents alone: the bytes of cisterns, whose allocations have gone, are zeroed as they are allocated again (R279; DEDUCED, log entry 75). -/
def State.zeroDram (s : State) : State :=
  { s with mem := s.mem.filter (fun c => 2 ^ 52 ≤ c.1), err := s.err.filter (fun e => 2 ^ 45 ≤ e.1), lines := s.lines.filter (fun e => 2 ^ 45 ≤ e.1),
           counters := [], counterErr := [], stale := [], banks := (s.banks.map (fun e => (e.1, { e.2 with rp := 0 }))).filter (fun e => e.2 != Bank.start),
           clusters := s.clusters.map (fun e => (e.1, { e.2 with lru := [], mts := s.clock e.1 })) }
/-- Every QCB of the table reads STATE 0. -/
def clearQcbs (m : Memory) (table : Nat) : Memory := m.filter (fun c => !(table ≤ c.1 && c.1 < table + 64 * 4096 && (c.1 - table) % 64 == 9))
/-- A live replacement under way ends (R451); the alias key changes with the firmware (R452). -/
def Manager.switched (m : Manager) : Manager :=
  match m.switching with
  | some (d, v) => { m with switching := none, changed := [], activeSvn := mset 0 m.activeSvn 2 v, activeDigest := mset [] m.activeDigest 2 d,
                            aliasKey := Config.shake256 (m.identity ++ d) }
  | none => m
/-- The firmware image of flash goes into every firmware context; the alias key is derived (R448 step 6, R452). -/
def Manager.loadFirmware (m : Manager) : Manager :=
  let m := m.load 2 ((m.slotFor 2).getD 0)
  { m with switching := none, changed := [], aliasKey := Config.shake256 (m.identity ++ mget [] m.activeDigest 2) }
/-- The firmware contexts of some control cores change to a new image under way; with the last of the 512 the replacement is complete (R451). -/
def Manager.coresChange (m : Manager) (on : Nat → Bool) : Manager :=
  match m.switching with
  | none => m
  | some _ =>
    let l := m.changed ++ (List.range Config.cores).filter (fun c => on c && !m.changed.contains c)
    if Config.cores ≤ l.length then m.switched else { m with changed := l }
def State.coresChange (s : State) (on : Nat → Bool) : State := { s with mgr := s.mgr.coresChange on }
/-- What a start ends before its first step; a warm start completes a live replacement first (R451). -/
def State.startEnds (s : State) (k : StartKind) : State :=
  match k with
  | .cold => s.cold
  | .warm _ => ({ s with mgr := s.mgr.switched }).warm
/-- Step i of a start (R448). -/
def State.startStep (s : State) (k : StartKind) (i : Nat) : State :=
  match i, k with
  | 1, .cold => { s with mgr := { s.mgr.load 1 ((s.mgr.slotFor 1).getD 0) with identity := Config.shake256 Config.fusedSecret } }
  | 2, .cold => { s with training := trainedBy s.fresh, fresh := s.fresh + 8 }
  | 3, .cold => { s with clusters := s.clusters.map (fun (e : Nat × Cluster) => (e.1, { e.2 with il := bootMap })) }
  | 4, _ => s.retest (fun _ => true)
  | 5, .cold | 5, .warm true => s.zeroDram
  | 6, _ => { s with mgr := s.mgr.loadFirmware }
  | 7, _ => { s with cycle := 0, asidTab := [], hostQ := [], mem := clearQcbs s.mem Config.qcbTable, mgr := { s.mgr with qcbtPa := Config.qcbTable } }
  | 8, _ => { s with mgr := { s.mgr with hdm := true, ready := true, statusPa := Config.statusBlock } }
  | _, _ => s
/-- The step of a start that fails: one of the tests, or the images of steps 1 and 6. -/
def Manager.failing (m : Manager) (k : StartKind) (failStep : Option Nat) : Option Nat :=
  let first : Option Nat := if k = .cold && (m.slotFor 1).isNone then some 1 else none
  let given : Option Nat := failStep.filter (fun n => 1 ≤ n && n ≤ 8 && (k == .cold || 2 ≤ n) && (k != .warm false || n != 5))
  let sixth : Option Nat := if (m.slotFor 2).isNone then some 6 else none
  ([first, given, sixth].filterMap id).min?
/-- The steps before number n of a start. -/
def State.startSteps (s : State) (k : StartKind) (n : Nat) : State := ((List.range n).drop 1).foldl (fun s i => s.startStep k i) (s.startEnds k)
/-- A request that arrived during the start is performed now (R449). -/
def State.nextStart (s : State) : State :=
  let t : State := { s with mgr := { s.mgr with next := none, nextOob := false } }
  match s.mgr.next with
  | none => s
  | some k => if s.mgr.nextOob then t.beginStart k true else t.requestStart k
/-- DEVICE_START: the pending start, to the step that fails if one does. One that is asked for while the device has tripped waits (R456). -/
def deviceStartBody (failStep : Option Nat) (s : State) : State :=
  match s.mgr.pending with
  | none => s
  | some k =>
    if s.mgr.trip then s
    else match (if k = .cold then none else s.stampSnoop) with
    | some t => t
    | none =>
      let bad := s.mgr.failing k failStep
      let t := s.startSteps k (bad.getD 9)
      ({ t with mgr := { t.mgr with ready := bad.isNone, restarting := false, pending := none, failStep := bad.getD 0 } } : State).nextStart

/-- CLUSTER_WARM_RESTART (R442): the Warm column of R448 for the cluster alone: its tests (step 4) and the firmware of its control cores (step 6); CYCLE,
the ASID table and the queues of step 7 and READY are the device's (DEDUCED, log entry 24). -/
def clusterWarmRestartBody (c : Nat) (s : State) : State :=
  let s := s.contain (.cluster c) 9
  let s := (s.flushSlice c).resumeClocks c
  let s := (List.range 8).foldl (fun s i => s.clearTile (8 * c + i)) s
  (s.retest (fun t => t / 8 == c)).coresChange (fun n => n / 64 == c)

def execClusterWarmRestart (cluster : Nat) (s : State) : Host.Outcome State Fault Refusal := .next (clusterWarmRestartBody cluster s)
def execStartWarm (s : State) : Host.Outcome State Fault Refusal := .next (s.requestStart (.warm false))
def execStartWarmZero (s : State) : Host.Outcome State Fault Refusal := .next (s.requestStart (.warm true))
def execStartCold (s : State) : Host.Outcome State Fault Refusal := .next (s.requestStart .cold)
def execDeviceStart (failStep : Option Nat) (s : State) : Host.Outcome State Fault Refusal := .next (deviceStartBody failStep s)

end Sys2Proof.Machine
end

