-- ==== Sys2Proof/Machine/Manage.lean ====
section
/-! DEFINITION. Sollosor (R450 to R457): attestation, out-of-band commands, live replacement, power and heat, the status block. -/
namespace Sys2Proof.Machine

def State.say (s : State) (o : Output) : State := { s with out := s.out ++ [o] }
def State.setMgr (s : State) (m : Manager) : State := { s with mgr := m }

/-! SPDM (R453). The codes are those of SPDM 1.2, the bodies' layout its own (log entry 4). -/
def spdmError : Nat := 0x7F
def State.spdm (s : State) (ok : Bool) (code : Nat) (body : List Byte) : State :=
  if ok then s.say (.spdm code (Config.spdmBody code body)) else s.say (.spdm spdmError (Config.spdmBody spdmError body))
/-- GET_VERSION begins a connection anew. -/
def getVersionBody (b : List Byte) (s : State) : State :=
  (s.setMgr { s.mgr with version := true, negotiated := false, session := false, handshake := none, sessionKey := [] }).spdm true 0x04 b
def getCapabilitiesBody (b : List Byte) (s : State) : State := s.spdm s.mgr.version 0x61 b
def negotiateAlgorithmsBody (b : List Byte) (s : State) : State :=
  (s.setMgr { s.mgr with negotiated := s.mgr.version }).spdm s.mgr.version 0x63 b
/-- The chain of certificate slot 0 (R452): the root's, the device's, and the alias certificate, which the identity key signs. -/
def Manager.chain (m : Manager) : List Byte :=
  let aliasPub := Config.ed448Public m.aliasKey
  Config.rootCertificate ++ Config.deviceCertificate (Config.ed448Public m.identity) ++ aliasPub ++ Config.ed448Sign m.identity aliasPub
def getDigestsBody (b : List Byte) (s : State) : State := s.spdm s.mgr.negotiated 0x01 (b ++ Config.sha3_512 s.mgr.chain)
def getCertificateBody (b : List Byte) (s : State) : State := s.spdm s.mgr.negotiated 0x02 (b ++ s.mgr.chain)
def challengeBody (b : List Byte) (s : State) : State := s.spdm s.mgr.negotiated 0x03 (b ++ Config.ed448Sign s.mgr.aliasKey b)
/-- The bytes that measurements 3 and 4 digest: the repair map; MTH, REFCTL and the interleave tables. -/
def State.repairMap (s : State) : List Byte :=
  s.spared.flatMap (fun e => leBytes 4 e.1) ++ s.clusters.flatMap (fun e => e.2.remap.flatMap (fun r => leBytes 8 r.2.toNat))
def State.mapTables (s : State) : List Byte :=
  s.clusters.flatMap (fun e => leBytes 8 e.2.mth ++ leBytes 8 ((if e.2.poff then 1 else 0) + e.2.patrol * 256) ++
    e.2.il.flatMap (fun r => leBytes 8 r.2.1.toNat ++ leBytes 8 r.2.2.toNat))
def State.measurements (s : State) : List (List Byte) :=
  [mget [] s.mgr.activeDigest 1, mget [] s.mgr.activeDigest 2, Config.shake256 s.repairMap, Config.shake256 s.mapTables]
/-- The blocks a request's first byte selects, as SPDM 1.2 has it (PRESUMED, log entry 4): an index, 0 for their number, else all. -/
def selected (l : List (List Byte)) (b : List Byte) : List Byte :=
  match b.head?.map BitVec.toNat with
  | some 0 => [BitVec.ofNat 8 l.length]
  | some i => if i ≤ l.length then l[i - 1]?.getD [] else l.flatten
  | none => l.flatten
def getMeasurementsBody (b : List Byte) (s : State) : State := s.spdm s.mgr.negotiated 0x60 (b ++ selected s.measurements b)
/-- KEY_EXCHANGE: Sollosor's share, signed; the secret waits for the FINISH. -/
def keyExchangeBody (b : List Byte) (s : State) : State :=
  if s.mgr.negotiated then
    let share := Config.secp384r1Share s.fresh
    ({ s with fresh := s.fresh + 1, mgr := { s.mgr with handshake := some (Config.secp384r1Secret s.fresh b) } }).spdm true 0x64
      (b ++ share ++ Config.ed448Sign s.mgr.aliasKey (b ++ share))
  else s.spdm false 0x64 b
/-- FINISH: the session of the KEY_EXCHANGE before it. -/
def finishBody (b : List Byte) (s : State) : State :=
  match s.mgr.handshake with
  | some k => (s.setMgr { s.mgr with session := true, handshake := none, sessionKey := Config.sha3_512 k }).spdm true 0x65 b
  | none => s.spdm false 0x65 b
/-- END_SESSION: its answer is the session's last message. -/
def endSessionBody (b : List Byte) (s : State) : State :=
  (s.setMgr { s.mgr with session := false, sessionKey := [] }).spdm s.mgr.session 0x6C (if s.mgr.session then Config.aes256gcm s.mgr.sessionKey b else b)
def mctpControlBody (b : List Byte) (s : State) : State := s.say (.mctp (Config.spdmBody 0x100 b))

/-! Vendor commands (R454): numbered 0 to 4 in the order the rule names them. -/
def readLogBody (c : Nat) (s : State) : State := s.say (.vendor 0 true (s.cluster c).log.flatten)
/-- The status block's bytes (R457). -/
def State.statusBytes (s : State) : List Byte :=
  let m := s.mgr
  let bit (b : Bool) (k : Nat) : Nat := if b then 2 ^ k else 0
  leBytes 8 m.statusSeq ++ leBytes 4 m.power ++ leBytes 4 (m.plimit * 1000) ++ leBytes 1 m.level ++
    leBytes 1 (bit m.ready 0 + bit m.restarting 1 + bit m.switching.isSome 2 + bit m.trip 3) ++ leBytes 2 0 ++
    (List.range 8).flatMap (fun c => leBytes 2 (m.temps[c]?.getD 0)) ++ List.replicate 92 0
def dwordsOf (l : List Byte) : List Word := (piecesOf 8 l.length l).map (fun b => BitVec.ofNat 64 (leNat b))
def readStatusBody (s : State) : State := s.say (.vendor 1 true (dwordsOf s.statusBytes))
/-- SET-PLIMIT (R454, R455). -/
def setPlimitBody (w : Nat) (s : State) : State :=
  if 600 ≤ w && w ≤ 1600 then (s.setMgr { s.mgr with plimit := w }).say (.vendor 2 true []) else s.say (.vendor 2 false [])
/-- RESTART: out of band, accepted after a failed step too (R449). -/
def restartBody (warm zero cold : Bool) (s : State) : State :=
  if cold then (s.beginStart .cold true).say (.vendor 3 true [])
  else if warm then (s.beginStart (.warm zero) true).say (.vendor 3 true [])
  else s.say (.vendor 3 false [])
/-- COMMIT-SVN: the fused minimum rises to the active image's SVN. -/
def commitSvnBody (kind : Nat) (s : State) : State :=
  if kind = 1 || kind = 2 then
    (s.setMgr { s.mgr with minSvn := mput s.mgr.minSvn kind (Nat.max (s.mgr.minimum kind) (mget 0 s.mgr.activeSvn kind)) }).say (.vendor 4 true [])
  else s.say (.vendor 4 false [])

/-! Live replacement (R450, R451). -/
/-- The image is valid and at least as new as the active one. -/
def Manager.accepts (m : Manager) (i : Image) : Bool := m.valid 2 i && mget 0 m.activeSvn 2 ≤ imageSvn i
/-- FIRMWARE_UPDATE: from now on the contexts change, those that had changed to an earlier replacement too; a failed verification is logged. -/
def firmwareUpdateBody (i : Image) (s : State) : State :=
  if s.mgr.accepts i then s.setMgr { s.mgr with switching := some (imageDigest i, imageSvn i), changed := [] }
  else s.logRecord 0 10 0 0 0 0 0

/-! Power and heat (R455 to R457). -/
def average (l : List Nat) : Nat := l.foldl (· + ·) 0 / Nat.max l.length 1
/-- The power a level would keep, by the share of cycles it leaves (R456; log entry 25). -/
def powerAt (avg level k : Nat) : Nat := avg * (8 - k) / (8 - level)
/-- The throttle level chosen: the lowest that keeps the limits, 7 where none does. -/
def nextLevel (m : Manager) (avg : Nat) (temps : List Nat) : Nat :=
  let hot := temps.any (fun t => 420 < t)
  (((List.range 8).find? (fun k => powerAt avg m.level k ≤ m.plimit * 1000 && (!hot || m.level < k))).getD 7)
/-- THROTTLE_TICK: power in mW, temperatures in units of 0.25 °C. -/
def throttleTickBody (power : Nat) (temps : List Nat) (s : State) : State :=
  let m := s.mgr
  let powers := (m.powers ++ [power]).drop (m.powers.length + 1 - 10)
  s.setMgr { m with powers := powers, power := average powers, temps := temps, level := nextLevel m (average powers) temps }
/-- STATUS_BLOCK_WRITE: one store of a whole line, once a start has placed the block; under a trip too, which the block shows (R457). -/
def statusBlockWriteBody (s : State) : State :=
  if s.mgr.statusPa = 0 then s
  else
    let s' := s.setMgr { s.mgr with statusSeq := s.mgr.statusSeq + 1 }
    match s'.engineGate none true .cached [s.mgr.statusPa] with
    | some w => w.setMgr s.mgr
    | none => match s'.storeAt s.mgr.statusPa (cellsOf s.mgr.statusPa s'.statusBytes) none (some s.longAgo) .cached false with
      | some y => y.1
      | none => s
/-- THERMAL_TRIP: a unit failure of every cluster; DRAM in self-refresh. -/
def thermalTripBody (_sensor : Nat) (s : State) : State :=
  let s := s.contain .device 0
  s.setMgr { s.mgr with trip := true }
/-- THERMAL_RECOVERY: below 95 °C everywhere, a device warm start; what was asked for meanwhile follows it. -/
def thermalRecoveryBody (temps : List Nat) (s : State) : State :=
  if s.mgr.trip && temps.all (fun t => t < 380) then
    s.setMgr { s.mgr with trip := false, temps := temps, ready := false, restarting := true, pending := mergeStart s.mgr.pending (.warm false) }
  else s

/-! The register BAR (R410, R449). -/
/-- BAR_REGISTER_WRITE: STARTCTL and the doorbells act; a write to an offset with no register, or to one that is read only, is ignored. -/
def barRegisterWriteBody (off : Nat) (v : Word) (s : State) : State :=
  if off = 0 then
    (if v.getLsbD 2 then s.requestStart .cold else if v.getLsbD 0 then s.requestStart (.warm (v.getLsbD 1)) else s)
  else if 0x80000 ≤ off && off < 0x88000 && off % 8 = 0 then wakeBody ((off - 0x80000) / 8) s
  else s

/-! Firmware contexts (R373, R451). -/
/-- In a cycle the contexts change that stand at a block boundary, with a block ready (log entries 1, 25). -/
def Manager.contextsTurn (m : Manager) (cycle : Nat) : Manager := m.coresChange (fun c => Config.firmwareReady c cycle)

/-! Rows that the count of cycles brings, one step being one cycle. -/
/-- A charge is due for what has been held since a cycle (R370). -/
def chargeDue (n since : Nat) : Bool := since < n && (n - since) % microsecond == 0
/-- The charge of a thread's region for a budget. -/
def State.chargeRow (s : State) (t : Thread) (k : Nat) : Instr := .budgetCharge (s.teamAsid t.team t.asid) t.region k 1
/-- The charges due for a thread's granted lane groups, and for the claim where it holds it. -/
def State.chargesOf (s : State) (n : Nat) (e : Nat × Thread) : List Instr :=
  let x := s.tile e.2.tile
  if !e.2.here then []
  else ((groupList e.2.lanes).filter (fun g => chargeDue n (mget 0 x.held g))).map (fun _ => s.chargeRow e.2 0) ++
    (if x.claimant = some e.1 && chargeDue n x.claimSince then [s.chargeRow e.2 1] else [])
/-- The rows due at cycle n: the ceiling's (R300), the time broadcasts (R302), the lease sweep (R303), charges (R370). -/
def State.dueRows (s : State) (n : Nat) : List Instr :=
  (if n % microsecond = 0 then [.ceilingAdvance] else []) ++
  (if n % 4096 = 0 then (List.range 8).map .clusterTimeBroadcast else []) ++
  (if n % 2 ^ 30 = 0 then [.leaseSweep] else []) ++ s.threads.flatMap (s.chargesOf n)

def execBarRegisterWrite (off : Nat) (v : Word) (s : State) : Host.Outcome State Fault Refusal := .next (barRegisterWriteBody off v s)
def execMctpControl (body : List (BitVec 8)) (s : State) : Host.Outcome State Fault Refusal := .next (mctpControlBody body s)
def execGetVersion (body : List (BitVec 8)) (s : State) : Host.Outcome State Fault Refusal := .next (getVersionBody body s)
def execGetCapabilities (body : List (BitVec 8)) (s : State) : Host.Outcome State Fault Refusal := .next (getCapabilitiesBody body s)
def execNegotiateAlgorithms (body : List (BitVec 8)) (s : State) : Host.Outcome State Fault Refusal := .next (negotiateAlgorithmsBody body s)
def execGetDigests (body : List (BitVec 8)) (s : State) : Host.Outcome State Fault Refusal := .next (getDigestsBody body s)
def execGetCertificate (body : List (BitVec 8)) (s : State) : Host.Outcome State Fault Refusal := .next (getCertificateBody body s)
def execChallenge (body : List (BitVec 8)) (s : State) : Host.Outcome State Fault Refusal := .next (challengeBody body s)
def execGetMeasurements (body : List (BitVec 8)) (s : State) : Host.Outcome State Fault Refusal := .next (getMeasurementsBody body s)
def execKeyExchange (body : List (BitVec 8)) (s : State) : Host.Outcome State Fault Refusal := .next (keyExchangeBody body s)
def execFinish (body : List (BitVec 8)) (s : State) : Host.Outcome State Fault Refusal := .next (finishBody body s)
def execEndSession (body : List (BitVec 8)) (s : State) : Host.Outcome State Fault Refusal := .next (endSessionBody body s)
def execReadLog (cluster : Nat) (s : State) : Host.Outcome State Fault Refusal := .next (readLogBody cluster s)
def execReadStatus (s : State) : Host.Outcome State Fault Refusal := .next (readStatusBody s)
def execSetPlimit (watts : Nat) (s : State) : Host.Outcome State Fault Refusal := .next (setPlimitBody watts s)
def execRestart (warm zero cold : Bool) (s : State) : Host.Outcome State Fault Refusal := .next (restartBody warm zero cold s)
def execCommitSvn (kind : Nat) (s : State) : Host.Outcome State Fault Refusal := .next (commitSvnBody kind s)
def execFirmwareUpdate (img : Image) (s : State) : Host.Outcome State Fault Refusal := .next (firmwareUpdateBody img s)
def execThrottleTick (power : Nat) (temps : List Nat) (s : State) : Host.Outcome State Fault Refusal := .next (throttleTickBody power temps s)
def execStatusBlockWrite (s : State) : Host.Outcome State Fault Refusal := .next (statusBlockWriteBody s)
def execThermalTrip (sensor : Nat) (s : State) : Host.Outcome State Fault Refusal := .next (thermalTripBody sensor s)
def execThermalRecovery (temps : List Nat) (s : State) : Host.Outcome State Fault Refusal := .next (thermalRecoveryBody temps s)

end Sys2Proof.Machine
end

