-- ==== Sys2Proof/Machine/Scalar.lean ====
section
/-! DEFINITION. Scalar integer instructions, tests and address windows (R127 to R134). A result is a function of the operand words;
`Firing.value` gives it to every target. -/
namespace Sys2Proof.Machine

/-! The values (R48, R128, R129). -/
def sh (b : Word) : Nat := bitsAt b 0 6
def sint (a : Word) : Int := a.toInt
/-- The high 64 bits of an exact product. -/
def high (p : Int) : Word := BitVec.ofInt 64 (p / 2 ^ 64)
def truth (b : Bool) : Word := if b then 1 else 0
/-- Quotients and remainders (R48): divisor 0 gives all ones and the dividend; signed minimum by -1 wraps. -/
def sdiv (a b : Word) : Word := if b = 0 then BitVec.allOnes 64 else BitVec.ofInt 64 (Int.tdiv a.toInt b.toInt)
def srem (a b : Word) : Word := if b = 0 then a else BitVec.ofInt 64 (Int.tmod a.toInt b.toInt)
def udiv (a b : Word) : Word := if b = 0 then BitVec.allOnes 64 else BitVec.ofNat 64 (a.toNat / b.toNat)
def urem (a b : Word) : Word := if b = 0 then a else BitVec.ofNat 64 (a.toNat % b.toNat)
/-- The lowest i from k at which a bit is set, of n. -/
def scanUp (a : Word) : Nat → Nat → Nat
  | 0, k => k
  | n + 1, k => if a.getLsbD k then k else scanUp a n (k + 1)
def ctz (a : Word) : Nat := scanUp a 64 0
def scanDown (a : Word) : Nat → Nat
  | 0 => 64
  | n + 1 => if a.getLsbD n then 63 - n else scanDown a n
def clz (a : Word) : Nat := scanDown a 64
/-- BFI (R128): p := B[5:0], n := min(B[14:8], 64). -/
def bfi (a b c : Word) : Word :=
  let p := bitsAt b 0 6
  let n := Nat.min (Nat.min (bitsAt b 8 7) 64) (64 - p)
  let m : Word := (BitVec.ofNat 64 (2 ^ n - 1)) <<< p
  (a &&& ~~~m) ||| ((c <<< p) &&& m)

/-! The instructions. Each has one body for all its forms: B comes from a token, word 2 or the literal (R127). -/
/-- ADD's result (R128, R129). -/
def addValue (a b : Word) : Word := a + b
/-- SUB's result (R128, R129). -/
def subValue (a b : Word) : Word := a - b
/-- MUL's result (R128, R129). -/
def mulValue (a b : Word) : Word := a * b
/-- MULH's result (R128, R129). -/
def mulhValue (a b : Word) : Word := high ((sint a) * (sint b))
/-- MULHN's result (R128, R129). -/
def mulhnValue (a b : Word) : Word := high ((a.toNat : Int) * b.toNat)
/-- DIV's result (R128, R129). -/
def divValue (a b : Word) : Word := sdiv a b
/-- DIVN's result (R128, R129). -/
def divnValue (a b : Word) : Word := udiv a b
/-- REM's result (R128, R129). -/
def remValue (a b : Word) : Word := srem a b
/-- REMN's result (R128, R129). -/
def remnValue (a b : Word) : Word := urem a b
/-- AND's result (R128, R129). -/
def andValue (a b : Word) : Word := a &&& b
/-- OR's result (R128, R129). -/
def orValue (a b : Word) : Word := a ||| b
/-- XOR's result (R128, R129). -/
def xorValue (a b : Word) : Word := a ^^^ b
/-- ANDN's result (R128, R129). -/
def andnValue (a b : Word) : Word := a &&& ~~~b
/-- SHL's result (R128, R129). -/
def shlValue (a b : Word) : Word := a <<< sh b
/-- SHR's result (R128, R129). -/
def shrValue (a b : Word) : Word := a >>> sh b
/-- SRA's result (R128, R129). -/
def sraValue (a b : Word) : Word := a.sshiftRight (sh b)
/-- ROTL's result (R128, R129). -/
def rotlValue (a b : Word) : Word := (a <<< sh b) ||| (a >>> (64 - sh b))
/-- MIN's result (R128, R129). -/
def minValue (a b : Word) : Word := if a.slt b then a else b
/-- MAX's result (R128, R129). -/
def maxValue (a b : Word) : Word := if a.slt b then b else a
/-- MINN's result (R128, R129). -/
def minnValue (a b : Word) : Word := if a.ult b then a else b
/-- MAXN's result (R128, R129). -/
def maxnValue (a b : Word) : Word := if a.ult b then b else a
/-- SEXT's result (R128, R129). -/
def sextValue (a b : Word) : Word := sextW a (bitsAt b 0 7)
/-- ZEXT's result (R128, R129). -/
def zextValue (a b : Word) : Word := zextW a (bitsAt b 0 7)
/-- BFX's result (R128, R129). -/
def bfxValue (a b : Word) : Word := zextW (a >>> bitsAt b 0 6) (Nat.min (bitsAt b 8 7) 64)
/-- TEQ's result (R128, R129). -/
def teqValue (a b : Word) : Word := truth (a == b)
/-- TNE's result (R128, R129). -/
def tneValue (a b : Word) : Word := truth (a != b)
/-- TLT's result (R128, R129). -/
def tltValue (a b : Word) : Word := truth (a.slt b)
/-- TLE's result (R128, R129). -/
def tleValue (a b : Word) : Word := truth (a.sle b)
/-- TLTN's result (R128, R129). -/
def tltnValue (a b : Word) : Word := truth (a.ult b)
/-- TLEN's result (R128, R129). -/
def tlenValue (a b : Word) : Word := truth (a.ule b)
/-- TBIT's result (R128, R129). -/
def tbitValue (a b : Word) : Word := truth (a.getLsbD (bitsAt b 0 6))
/-- CLZ's result (R128). -/
def clzValue (a : Word) : Word := BitVec.ofNat 64 (clz a)
/-- CTZ's result (R128). -/
def ctzValue (a : Word) : Word := BitVec.ofNat 64 (ctz a)
/-- POPC's result (R128). -/
def popcValue (a : Word) : Word := BitVec.ofNat 64 (countBits 64 a.toNat)
/-- BSWAP's result (R128). -/
def bswapValue (a : Word) : Word := BitVec.ofNat 64 (leNat (leBytes 8 a.toNat).reverse)
/-- BFI's result (R128). -/
def bfiValue (a b c : Word) : Word := bfi a b c
/-- SEL's result (R128). -/
def selValue (a b c : Word) : Word := if c.getLsbD 0 then a else b
def execAdd (b : BForm) (s : State) : Host.Outcome State Fault Refusal :=
  .next (runSlot ⟨.add, .b b⟩ (fun x => x.value (addValue x.a.word x.b.word)) s)
def execAddImm (b : BForm) (m : Imm) (s : State) : Host.Outcome State Fault Refusal :=
  .next (runSlot ⟨.add, .imm b m⟩ (fun x => x.value (addValue x.a.word x.b.word)) s)
def execSub (b : BForm) (s : State) : Host.Outcome State Fault Refusal :=
  .next (runSlot ⟨.sub, .b b⟩ (fun x => x.value (subValue x.a.word x.b.word)) s)
def execSubImm (b : BForm) (m : Imm) (s : State) : Host.Outcome State Fault Refusal :=
  .next (runSlot ⟨.sub, .imm b m⟩ (fun x => x.value (subValue x.a.word x.b.word)) s)
def execMul (b : BForm) (s : State) : Host.Outcome State Fault Refusal :=
  .next (runSlot ⟨.mul, .b b⟩ (fun x => x.value (mulValue x.a.word x.b.word)) s)
def execMulImm (b : BForm) (m : Imm) (s : State) : Host.Outcome State Fault Refusal :=
  .next (runSlot ⟨.mul, .imm b m⟩ (fun x => x.value (mulValue x.a.word x.b.word)) s)
def execMulh (b : BForm) (s : State) : Host.Outcome State Fault Refusal :=
  .next (runSlot ⟨.mulh, .b b⟩ (fun x => x.value (mulhValue x.a.word x.b.word)) s)
def execMulhImm (b : BForm) (m : Imm) (s : State) : Host.Outcome State Fault Refusal :=
  .next (runSlot ⟨.mulh, .imm b m⟩ (fun x => x.value (mulhValue x.a.word x.b.word)) s)
def execMulhn (b : BForm) (s : State) : Host.Outcome State Fault Refusal :=
  .next (runSlot ⟨.mulhn, .b b⟩ (fun x => x.value (mulhnValue x.a.word x.b.word)) s)
def execMulhnImm (b : BForm) (m : Imm) (s : State) : Host.Outcome State Fault Refusal :=
  .next (runSlot ⟨.mulhn, .imm b m⟩ (fun x => x.value (mulhnValue x.a.word x.b.word)) s)
def execDiv (b : BForm) (s : State) : Host.Outcome State Fault Refusal :=
  .next (runSlot ⟨.div, .b b⟩ (fun x => x.value (divValue x.a.word x.b.word)) s)
def execDivImm (b : BForm) (m : Imm) (s : State) : Host.Outcome State Fault Refusal :=
  .next (runSlot ⟨.div, .imm b m⟩ (fun x => x.value (divValue x.a.word x.b.word)) s)
def execDivn (b : BForm) (s : State) : Host.Outcome State Fault Refusal :=
  .next (runSlot ⟨.divn, .b b⟩ (fun x => x.value (divnValue x.a.word x.b.word)) s)
def execDivnImm (b : BForm) (m : Imm) (s : State) : Host.Outcome State Fault Refusal :=
  .next (runSlot ⟨.divn, .imm b m⟩ (fun x => x.value (divnValue x.a.word x.b.word)) s)
def execRem (b : BForm) (s : State) : Host.Outcome State Fault Refusal :=
  .next (runSlot ⟨.rem, .b b⟩ (fun x => x.value (remValue x.a.word x.b.word)) s)
def execRemImm (b : BForm) (m : Imm) (s : State) : Host.Outcome State Fault Refusal :=
  .next (runSlot ⟨.rem, .imm b m⟩ (fun x => x.value (remValue x.a.word x.b.word)) s)
def execRemn (b : BForm) (s : State) : Host.Outcome State Fault Refusal :=
  .next (runSlot ⟨.remn, .b b⟩ (fun x => x.value (remnValue x.a.word x.b.word)) s)
def execRemnImm (b : BForm) (m : Imm) (s : State) : Host.Outcome State Fault Refusal :=
  .next (runSlot ⟨.remn, .imm b m⟩ (fun x => x.value (remnValue x.a.word x.b.word)) s)
def execAnd (b : BForm) (s : State) : Host.Outcome State Fault Refusal :=
  .next (runSlot ⟨.and, .b b⟩ (fun x => x.value (andValue x.a.word x.b.word)) s)
def execAndImm (b : BForm) (m : Imm) (s : State) : Host.Outcome State Fault Refusal :=
  .next (runSlot ⟨.and, .imm b m⟩ (fun x => x.value (andValue x.a.word x.b.word)) s)
def execOr (b : BForm) (s : State) : Host.Outcome State Fault Refusal :=
  .next (runSlot ⟨.or, .b b⟩ (fun x => x.value (orValue x.a.word x.b.word)) s)
def execOrImm (b : BForm) (m : Imm) (s : State) : Host.Outcome State Fault Refusal :=
  .next (runSlot ⟨.or, .imm b m⟩ (fun x => x.value (orValue x.a.word x.b.word)) s)
def execXor (b : BForm) (s : State) : Host.Outcome State Fault Refusal :=
  .next (runSlot ⟨.xor, .b b⟩ (fun x => x.value (xorValue x.a.word x.b.word)) s)
def execXorImm (b : BForm) (m : Imm) (s : State) : Host.Outcome State Fault Refusal :=
  .next (runSlot ⟨.xor, .imm b m⟩ (fun x => x.value (xorValue x.a.word x.b.word)) s)
def execAndn (b : BForm) (s : State) : Host.Outcome State Fault Refusal :=
  .next (runSlot ⟨.andn, .b b⟩ (fun x => x.value (andnValue x.a.word x.b.word)) s)
def execAndnImm (b : BForm) (m : Imm) (s : State) : Host.Outcome State Fault Refusal :=
  .next (runSlot ⟨.andn, .imm b m⟩ (fun x => x.value (andnValue x.a.word x.b.word)) s)
def execShl (b : BForm) (s : State) : Host.Outcome State Fault Refusal :=
  .next (runSlot ⟨.shl, .b b⟩ (fun x => x.value (shlValue x.a.word x.b.word)) s)
def execShlImm (b : BForm) (m : Imm) (s : State) : Host.Outcome State Fault Refusal :=
  .next (runSlot ⟨.shl, .imm b m⟩ (fun x => x.value (shlValue x.a.word x.b.word)) s)
def execShr (b : BForm) (s : State) : Host.Outcome State Fault Refusal :=
  .next (runSlot ⟨.shr, .b b⟩ (fun x => x.value (shrValue x.a.word x.b.word)) s)
def execShrImm (b : BForm) (m : Imm) (s : State) : Host.Outcome State Fault Refusal :=
  .next (runSlot ⟨.shr, .imm b m⟩ (fun x => x.value (shrValue x.a.word x.b.word)) s)
def execSra (b : BForm) (s : State) : Host.Outcome State Fault Refusal :=
  .next (runSlot ⟨.sra, .b b⟩ (fun x => x.value (sraValue x.a.word x.b.word)) s)
def execSraImm (b : BForm) (m : Imm) (s : State) : Host.Outcome State Fault Refusal :=
  .next (runSlot ⟨.sra, .imm b m⟩ (fun x => x.value (sraValue x.a.word x.b.word)) s)
def execRotl (b : BForm) (s : State) : Host.Outcome State Fault Refusal :=
  .next (runSlot ⟨.rotl, .b b⟩ (fun x => x.value (rotlValue x.a.word x.b.word)) s)
def execRotlImm (b : BForm) (m : Imm) (s : State) : Host.Outcome State Fault Refusal :=
  .next (runSlot ⟨.rotl, .imm b m⟩ (fun x => x.value (rotlValue x.a.word x.b.word)) s)
def execMin (b : BForm) (s : State) : Host.Outcome State Fault Refusal :=
  .next (runSlot ⟨.min, .b b⟩ (fun x => x.value (minValue x.a.word x.b.word)) s)
def execMinImm (b : BForm) (m : Imm) (s : State) : Host.Outcome State Fault Refusal :=
  .next (runSlot ⟨.min, .imm b m⟩ (fun x => x.value (minValue x.a.word x.b.word)) s)
def execMax (b : BForm) (s : State) : Host.Outcome State Fault Refusal :=
  .next (runSlot ⟨.max, .b b⟩ (fun x => x.value (maxValue x.a.word x.b.word)) s)
def execMaxImm (b : BForm) (m : Imm) (s : State) : Host.Outcome State Fault Refusal :=
  .next (runSlot ⟨.max, .imm b m⟩ (fun x => x.value (maxValue x.a.word x.b.word)) s)
def execMinn (b : BForm) (s : State) : Host.Outcome State Fault Refusal :=
  .next (runSlot ⟨.minn, .b b⟩ (fun x => x.value (minnValue x.a.word x.b.word)) s)
def execMinnImm (b : BForm) (m : Imm) (s : State) : Host.Outcome State Fault Refusal :=
  .next (runSlot ⟨.minn, .imm b m⟩ (fun x => x.value (minnValue x.a.word x.b.word)) s)
def execMaxn (b : BForm) (s : State) : Host.Outcome State Fault Refusal :=
  .next (runSlot ⟨.maxn, .b b⟩ (fun x => x.value (maxnValue x.a.word x.b.word)) s)
def execMaxnImm (b : BForm) (m : Imm) (s : State) : Host.Outcome State Fault Refusal :=
  .next (runSlot ⟨.maxn, .imm b m⟩ (fun x => x.value (maxnValue x.a.word x.b.word)) s)
def execSext (b : BForm) (s : State) : Host.Outcome State Fault Refusal :=
  .next (runSlot ⟨.sext, .b b⟩ (fun x => x.value (sextValue x.a.word x.b.word)) s)
def execSextImm (b : BForm) (m : Imm) (s : State) : Host.Outcome State Fault Refusal :=
  .next (runSlot ⟨.sext, .imm b m⟩ (fun x => x.value (sextValue x.a.word x.b.word)) s)
def execZext (b : BForm) (s : State) : Host.Outcome State Fault Refusal :=
  .next (runSlot ⟨.zext, .b b⟩ (fun x => x.value (zextValue x.a.word x.b.word)) s)
def execZextImm (b : BForm) (m : Imm) (s : State) : Host.Outcome State Fault Refusal :=
  .next (runSlot ⟨.zext, .imm b m⟩ (fun x => x.value (zextValue x.a.word x.b.word)) s)
def execBfx (b : BForm) (s : State) : Host.Outcome State Fault Refusal :=
  .next (runSlot ⟨.bfx, .b b⟩ (fun x => x.value (bfxValue x.a.word x.b.word)) s)
def execBfxImm (b : BForm) (m : Imm) (s : State) : Host.Outcome State Fault Refusal :=
  .next (runSlot ⟨.bfx, .imm b m⟩ (fun x => x.value (bfxValue x.a.word x.b.word)) s)
def execTeq (b : BForm) (s : State) : Host.Outcome State Fault Refusal :=
  .next (runSlot ⟨.teq, .b b⟩ (fun x => x.value (teqValue x.a.word x.b.word)) s)
def execTeqImm (b : BForm) (m : Imm) (s : State) : Host.Outcome State Fault Refusal :=
  .next (runSlot ⟨.teq, .imm b m⟩ (fun x => x.value (teqValue x.a.word x.b.word)) s)
def execTne (b : BForm) (s : State) : Host.Outcome State Fault Refusal :=
  .next (runSlot ⟨.tne, .b b⟩ (fun x => x.value (tneValue x.a.word x.b.word)) s)
def execTneImm (b : BForm) (m : Imm) (s : State) : Host.Outcome State Fault Refusal :=
  .next (runSlot ⟨.tne, .imm b m⟩ (fun x => x.value (tneValue x.a.word x.b.word)) s)
def execTlt (b : BForm) (s : State) : Host.Outcome State Fault Refusal :=
  .next (runSlot ⟨.tlt, .b b⟩ (fun x => x.value (tltValue x.a.word x.b.word)) s)
def execTltImm (b : BForm) (m : Imm) (s : State) : Host.Outcome State Fault Refusal :=
  .next (runSlot ⟨.tlt, .imm b m⟩ (fun x => x.value (tltValue x.a.word x.b.word)) s)
def execTle (b : BForm) (s : State) : Host.Outcome State Fault Refusal :=
  .next (runSlot ⟨.tle, .b b⟩ (fun x => x.value (tleValue x.a.word x.b.word)) s)
def execTleImm (b : BForm) (m : Imm) (s : State) : Host.Outcome State Fault Refusal :=
  .next (runSlot ⟨.tle, .imm b m⟩ (fun x => x.value (tleValue x.a.word x.b.word)) s)
def execTltn (b : BForm) (s : State) : Host.Outcome State Fault Refusal :=
  .next (runSlot ⟨.tltn, .b b⟩ (fun x => x.value (tltnValue x.a.word x.b.word)) s)
def execTltnImm (b : BForm) (m : Imm) (s : State) : Host.Outcome State Fault Refusal :=
  .next (runSlot ⟨.tltn, .imm b m⟩ (fun x => x.value (tltnValue x.a.word x.b.word)) s)
def execTlen (b : BForm) (s : State) : Host.Outcome State Fault Refusal :=
  .next (runSlot ⟨.tlen, .b b⟩ (fun x => x.value (tlenValue x.a.word x.b.word)) s)
def execTlenImm (b : BForm) (m : Imm) (s : State) : Host.Outcome State Fault Refusal :=
  .next (runSlot ⟨.tlen, .imm b m⟩ (fun x => x.value (tlenValue x.a.word x.b.word)) s)
def execTbit (b : BForm) (s : State) : Host.Outcome State Fault Refusal :=
  .next (runSlot ⟨.tbit, .b b⟩ (fun x => x.value (tbitValue x.a.word x.b.word)) s)
def execTbitImm (b : BForm) (m : Imm) (s : State) : Host.Outcome State Fault Refusal :=
  .next (runSlot ⟨.tbit, .imm b m⟩ (fun x => x.value (tbitValue x.a.word x.b.word)) s)
def execClz (b : BForm) (s : State) : Host.Outcome State Fault Refusal :=
  .next (runSlot ⟨.clz, .b b⟩ (fun x => x.value (clzValue x.a.word)) s)
def execClzExt (b : BForm) (x : Ext) (s : State) : Host.Outcome State Fault Refusal :=
  .next (runSlot ⟨.clz, .x b x 0⟩ (fun x => x.value (clzValue x.a.word)) s)
def execCtz (b : BForm) (s : State) : Host.Outcome State Fault Refusal :=
  .next (runSlot ⟨.ctz, .b b⟩ (fun x => x.value (ctzValue x.a.word)) s)
def execCtzExt (b : BForm) (x : Ext) (s : State) : Host.Outcome State Fault Refusal :=
  .next (runSlot ⟨.ctz, .x b x 0⟩ (fun x => x.value (ctzValue x.a.word)) s)
def execPopc (b : BForm) (s : State) : Host.Outcome State Fault Refusal :=
  .next (runSlot ⟨.popc, .b b⟩ (fun x => x.value (popcValue x.a.word)) s)
def execPopcExt (b : BForm) (x : Ext) (s : State) : Host.Outcome State Fault Refusal :=
  .next (runSlot ⟨.popc, .x b x 0⟩ (fun x => x.value (popcValue x.a.word)) s)
def execBswap (b : BForm) (s : State) : Host.Outcome State Fault Refusal :=
  .next (runSlot ⟨.bswap, .b b⟩ (fun x => x.value (bswapValue x.a.word)) s)
def execBswapExt (b : BForm) (x : Ext) (s : State) : Host.Outcome State Fault Refusal :=
  .next (runSlot ⟨.bswap, .x b x 0⟩ (fun x => x.value (bswapValue x.a.word)) s)
def execBfi (b : BForm) (s : State) : Host.Outcome State Fault Refusal :=
  .next (runSlot ⟨.bfi, .b b⟩ (fun x => x.value (bfiValue x.a.word x.b.word x.c.word)) s)
def execBfiImm (b : BForm) (m : Imm) (s : State) : Host.Outcome State Fault Refusal :=
  .next (runSlot ⟨.bfi, .imm b m⟩ (fun x => x.value (bfiValue x.a.word x.b.word x.c.word)) s)
def execSel (b : BForm) (s : State) : Host.Outcome State Fault Refusal :=
  .next (runSlot ⟨.sel, .b b⟩ (fun x => x.value (selValue x.a.word x.b.word x.c.word)) s)
def execSelImm (b : BForm) (m : Imm) (s : State) : Host.Outcome State Fault Refusal :=
  .next (runSlot ⟨.sel, .imm b m⟩ (fun x => x.value (selValue x.a.word x.b.word x.c.word)) s)

/-! Address windows (R131 to R134). -/
def sptestValue (a : Word) : Word := BitVec.ofNat 64 (sptest a)
def spcastBody (x : Firing) : Fired := x.value (spcast x.st x.thread x.tid x.a.word x.b.word)
/-- PADD (R134). -/
def paddBody (x : Firing) : Fired :=
  x.whole (Out.tok .null) (match decodePtr x.a.word with
    | none => x.failAt cNONCANON 0 x.a.word
    | some p => match p.add x.b.word.toInt with
      | none => x.failAt cNONCANON 1 x.a.word
      | some q => .give x.st (Out.tok (.scalar q.encode)))
def execSptest (b : BForm) (s : State) : Host.Outcome State Fault Refusal :=
  .next (runSlot ⟨.sptest, .b b⟩ (fun x => x.value (sptestValue x.a.word)) s)
def execSptestExt (b : BForm) (x : Ext) (s : State) : Host.Outcome State Fault Refusal :=
  .next (runSlot ⟨.sptest, .x b x 0⟩ (fun x => x.value (sptestValue x.a.word)) s)
def execSpcast (b : BForm) (s : State) : Host.Outcome State Fault Refusal :=
  .next (runSlot ⟨.spcast, .b b⟩ spcastBody s)
def execSpcastImm (b : BForm) (m : Imm) (s : State) : Host.Outcome State Fault Refusal :=
  .next (runSlot ⟨.spcast, .imm b m⟩ spcastBody s)
def execPadd (b : BForm) (s : State) : Host.Outcome State Fault Refusal :=
  .next (runSlot ⟨.padd, .b b⟩ paddBody s)
def execPaddImm (b : BForm) (m : Imm) (s : State) : Host.Outcome State Fault Refusal :=
  .next (runSlot ⟨.padd, .imm b m⟩ paddBody s)

end Sys2Proof.Machine
end

