-- ==== Sys2Proof/Machine/Witness.lean ====
section
/-! DEFINITION. Witness instructions and BAR (R187 to R190, R192, R193, R299). -/
namespace Sys2Proof.Machine

/-- WJOIN (R187). -/
def wjoinBody (x : Firing) : Fired :=
  x.whole (Out.tok .null) (
    if wKind x.a.word = 3 then x.failInfo cWRESV 0
    else if wKind x.b.word = 3 then x.failInfo cWRESV 1
    else .give x.st (Out.tok (.scalar (joinWitness (x.st.tile x.tile).horizon x.a.word x.b.word))))
/-- WFLOOR (R188). -/
def wfloorBody (x : Firing) : Fired :=
  x.whole {} (match x.badWitness 0 x.a.word with
    | some f => .fault x.st f
    | none => match x.timeOf x.a.word with
      | some t => .give x.st (Out.eff (.wfloor t))
      | none => .give x.st {})
/-- WNOW (R189). -/
def wnowBody (x : Firing) : Fired := x.value (timeWitness (x.st.tile x.tile).horizon)
/-- WTEST's answer (R190): m, the reference time of m = 1 or 2, HORIZON, the witness. -/
def wtestOf (m : Nat) (ref h : Time) (w : Word) : Bool :=
  if m = 0 then wKind w == 1
  else if wKind w = 1 then false
  else if wKind w = 0 && implausible h w then false
  else match contributes h w with
    | none => true
    | some t => serialLe t ref
def wtestBody (x : Firing) : Fired :=
  x.whole (Out.tok .null) (
    let h := (x.st.tile x.tile).horizon
    let m := x.raw.w2.toNat % 4
    if wKind x.a.word = 3 then x.failInfo cWRESV 0
    else .give x.st (Out.tok (.scalar (if wtestOf m (if m = 1 then x.thread.floor else h) h x.a.word then 1 else 0))))
/-- BAR's barrier, its count with 0 for 32, and NA (R192). -/
def barId (x : Firing) : Nat := x.raw.w2.toNat % 16
def barCount (x : Firing) : Nat := let n := x.raw.w2.toNat / 16 % 64; if n = 0 then 32 else n
def barNa (x : Firing) : Bool := x.raw.w2.getLsbD 15
def barBody (x : Firing) : Fired :=
  x.whole (Out.tok .null) (
    if barNa x then x.deferring (.bar (barId x) (barCount x) satisfied)
    else match x.badWitness 0 x.a.word with
      | some f => .fault x.st f
      | none => x.deferring (.bar (barId x) (barCount x) x.a.word))

def execWjoin (b : BForm) (s : State) : Host.Outcome State Fault Refusal := .next (runSlot ⟨.wjoin, .b b⟩ wjoinBody s)
def execWjoinImm (b : BForm) (m : Imm) (s : State) : Host.Outcome State Fault Refusal := .next (runSlot ⟨.wjoin, .imm b m⟩ wjoinBody s)
def execWfloor (p : Pred) (s : State) : Host.Outcome State Fault Refusal := .next (runSlot ⟨.wfloor, .p p⟩ wfloorBody s)
def execWfloorExt (p : Pred) (s : State) : Host.Outcome State Fault Refusal := .next (runSlot ⟨.wfloor, .px p 0⟩ wfloorBody s)
def execWnow (b : BForm) (s : State) : Host.Outcome State Fault Refusal := .next (runSlot ⟨.wnow, .b b⟩ wnowBody s)
def execWnowExt (b : BForm) (x : Ext) (s : State) : Host.Outcome State Fault Refusal := .next (runSlot ⟨.wnow, .x b x 0⟩ wnowBody s)
def execWtest (b : BForm) (s : State) : Host.Outcome State Fault Refusal := .next (runSlot ⟨.wtest, .b b⟩ wtestBody s)
def execWtestExt (b : BForm) (x : Ext) (test : BitVec 2) (s : State) : Host.Outcome State Fault Refusal := .next (runSlot ⟨.wtest, .x b x (test.setWidth 32)⟩ wtestBody s)
def execBar (b : BForm) (s : State) : Host.Outcome State Fault Refusal := .next (runSlot ⟨.bar, .b b⟩ barBody s)
def execBarExt (b : BForm) (x : Ext) (id : BitVec 4) (count : BitVec 6) (na : Bool) (s : State) : Host.Outcome State Fault Refusal :=
  .next (runSlot ⟨.bar, .x b x (BitVec.ofNat 32 (id.toNat + 16 * count.toNat + 32768 * encBool na))⟩ barBody s)

end Sys2Proof.Machine
end

