-- ==== Sys2Proof/Machine/Dispatch.lean ====
section
/-! DEFINITION. The dispatch: one arm per step of the table, each one direct call of its meaning. -/
namespace Sys2Proof.Machine

def exec (i : Instr) (s : State) : Host.Outcome State Fault Refusal :=
  match i with
  | .blockFetch tid guess => Sys2Proof.Machine.execBlockFetch tid guess s
  | .blockDecode tid => Sys2Proof.Machine.execBlockDecode tid s
  | .blockCommit tid => Sys2Proof.Machine.execBlockCommit tid s
  | .deferredResultWrite gid => Sys2Proof.Machine.execDeferredResultWrite gid s
  | .trapEntry tid => Sys2Proof.Machine.execTrapEntry tid s
  | .matrixClaimGrant tile => Sys2Proof.Machine.execMatrixClaimGrant tile s
  | .fillAccept tid => Sys2Proof.Machine.execFillAccept tid s
  | .wloadaAccept tid => Sys2Proof.Machine.execWloadaAccept tid s
  | .fillEnd tile => Sys2Proof.Machine.execFillEnd tile s
  | .preempt tid => Sys2Proof.Machine.execPreempt tid s
  | .preemptGraceExpiry tid => Sys2Proof.Machine.execPreemptGraceExpiry tid s
  | .contextSaveEnd tid => Sys2Proof.Machine.execContextSaveEnd tid s
  | .resume tid => Sys2Proof.Machine.execResume tid s
  | .laneResidueFailure tid slot elem lane => Sys2Proof.Machine.execLaneResidueFailure tid slot elem lane s
  | .laneSelfTestEnd tile group pass => Sys2Proof.Machine.execLaneSelfTestEnd tile group pass s
  | .homeLoad req => Sys2Proof.Machine.execHomeLoad req s
  | .homeStore req => Sys2Proof.Machine.execHomeStore req s
  | .homeAtomic req => Sys2Proof.Machine.execHomeAtomic req s
  | .claimelAtHome req => Sys2Proof.Machine.execClaimelAtHome req s
  | .mwaitWake req => Sys2Proof.Machine.execMwaitWake req s
  | .mwaitExpiry req => Sys2Proof.Machine.execMwaitExpiry req s
  | .l1Renewal req => Sys2Proof.Machine.execL1Renewal req s
  | .rdcRenewal req => Sys2Proof.Machine.execRdcRenewal req s
  | .leaseSweep => Sys2Proof.Machine.execLeaseSweep s
  | .ceilingAdvance => Sys2Proof.Machine.execCeilingAdvance s
  | .clusterTimeBroadcast cluster => Sys2Proof.Machine.execClusterTimeBroadcast cluster s
  | .pageWalkEnd walk => Sys2Proof.Machine.execPageWalkEnd walk s
  | .plockGrant req => Sys2Proof.Machine.execPlockGrant req s
  | .lockedTimeout req => Sys2Proof.Machine.execLockedTimeout req s
  | .fieldOpStart cluster seq => Sys2Proof.Machine.execFieldOpStart cluster seq s
  | .refreshIntervalEnd bank => Sys2Proof.Machine.execRefreshIntervalEnd bank s
  | .refresh bank => Sys2Proof.Machine.execRefresh bank s
  | .refreshManagement bank => Sys2Proof.Machine.execRefreshManagement bank s
  | .dramRequest bank => Sys2Proof.Machine.execDramRequest bank s
  | .insertion bank => Sys2Proof.Machine.execInsertion bank s
  | .patrolRead bank => Sys2Proof.Machine.execPatrolRead bank s
  | .copyStrip tile queue => Sys2Proof.Machine.execCopyStrip tile queue s
  | .copyStripEnd tile queue => Sys2Proof.Machine.execCopyStripEnd tile queue s
  | .copyStampWrite tile queue => Sys2Proof.Machine.execCopyStampWrite tile queue s
  | .copyFenceRelease tile queue => Sys2Proof.Machine.execCopyFenceRelease tile queue s
  | .trainElement train => Sys2Proof.Machine.execTrainElement train s
  | .trainTail train => Sys2Proof.Machine.execTrainTail train s
  | .trainAck train => Sys2Proof.Machine.execTrainAck train s
  | .trainAckTimeout train => Sys2Proof.Machine.execTrainAckTimeout train s
  | .queueDoorbell queue value => Sys2Proof.Machine.execQueueDoorbell queue value s
  | .queueHeadWake queue => Sys2Proof.Machine.execQueueHeadWake queue s
  | .packetFetch queue => Sys2Proof.Machine.execPacketFetch queue s
  | .start queue => Sys2Proof.Machine.execStart queue s
  | .startPlacement queue => Sys2Proof.Machine.execStartPlacement queue s
  | .startWaitTimeout queue => Sys2Proof.Machine.execStartWaitTimeout queue s
  | .regionAttach queue => Sys2Proof.Machine.execRegionAttach queue s
  | .regionReload queue => Sys2Proof.Machine.execRegionReload queue s
  | .regionDetach queue => Sys2Proof.Machine.execRegionDetach queue s
  | .cisternAllocate queue => Sys2Proof.Machine.execCisternAllocate queue s
  | .cisternFree queue => Sys2Proof.Machine.execCisternFree queue s
  | .wait queue => Sys2Proof.Machine.execWait queue s
  | .stamp queue => Sys2Proof.Machine.execStamp queue s
  | .copy queue => Sys2Proof.Machine.execCopy queue s
  | .plane queue => Sys2Proof.Machine.execPlane queue s
  | .kill queue => Sys2Proof.Machine.execKill queue s
  | .nop queue => Sys2Proof.Machine.execNop queue s
  | .packetComplete queue seq => Sys2Proof.Machine.execPacketComplete queue seq s
  | .budgetCharge asid rcb budget amount => Sys2Proof.Machine.execBudgetCharge asid rcb budget amount s
  | .hostMemrd pa size => Sys2Proof.Machine.execHostMemrd pa size s
  | .hostMemrdOwnership pa exclusive => Sys2Proof.Machine.execHostMemrdOwnership pa exclusive s
  | .hostMemwr pa bytes => Sys2Proof.Machine.execHostMemwr pa bytes s
  | .birsp line bytes => Sys2Proof.Machine.execBirsp line bytes s
  | .msgTrainBeats m => Sys2Proof.Machine.execMsgTrainBeats m s
  | .msgTrainAck m => Sys2Proof.Machine.execMsgTrainAck m s
  | .msgReadRequest m => Sys2Proof.Machine.execMsgReadRequest m s
  | .msgReadResponse m => Sys2Proof.Machine.execMsgReadResponse m s
  | .msgAtomicRequest m => Sys2Proof.Machine.execMsgAtomicRequest m s
  | .msgAtomicResponse m => Sys2Proof.Machine.execMsgAtomicResponse m s
  | .msgTime m => Sys2Proof.Machine.execMsgTime m s
  | .msgRetransmit tile dev => Sys2Proof.Machine.execMsgRetransmit tile dev s
  | .msgUnreachable tile dev => Sys2Proof.Machine.execMsgUnreachable tile dev s
  | .idleTimeSend port => Sys2Proof.Machine.execIdleTimeSend port s
  | .ilaWrite tid v => Sys2Proof.Machine.execIlaWrite tid v s
  | .ptrootWrite tid v => Sys2Proof.Machine.execPtrootWrite tid v s
  | .mthWrite tid v => Sys2Proof.Machine.execMthWrite tid v s
  | .refctlWrite tid v => Sys2Proof.Machine.execRefctlWrite tid v s
  | .fwshareWrite tid v => Sys2Proof.Machine.execFwshareWrite tid v s
  | .frmWrite tid v => Sys2Proof.Machine.execFrmWrite tid v s
  | .leaseWrite tid v => Sys2Proof.Machine.execLeaseWrite tid v s
  | .csrRegisterWrite tid csr v => Sys2Proof.Machine.execCsrRegisterWrite tid csr v s
  | .startWarm => Sys2Proof.Machine.execStartWarm s
  | .startWarmZero => Sys2Proof.Machine.execStartWarmZero s
  | .startCold => Sys2Proof.Machine.execStartCold s
  | .deviceStart failStep => Sys2Proof.Machine.execDeviceStart failStep s
  | .barRegisterWrite off v => Sys2Proof.Machine.execBarRegisterWrite off v s
  | .rowSpare bank row => Sys2Proof.Machine.execRowSpare bank row s
  | .bankRetireMove cluster entry => Sys2Proof.Machine.execBankRetireMove cluster entry s
  | .tileRetire tile => Sys2Proof.Machine.execTileRetire tile s
  | .linkRetrain link lanes => Sys2Proof.Machine.execLinkRetrain link lanes s
  | .unitFailure unit => Sys2Proof.Machine.execUnitFailure unit s
  | .clusterWarmRestart cluster => Sys2Proof.Machine.execClusterWarmRestart cluster s
  | .mctpControl body => Sys2Proof.Machine.execMctpControl body s
  | .getVersion body => Sys2Proof.Machine.execGetVersion body s
  | .getCapabilities body => Sys2Proof.Machine.execGetCapabilities body s
  | .negotiateAlgorithms body => Sys2Proof.Machine.execNegotiateAlgorithms body s
  | .getDigests body => Sys2Proof.Machine.execGetDigests body s
  | .getCertificate body => Sys2Proof.Machine.execGetCertificate body s
  | .challenge body => Sys2Proof.Machine.execChallenge body s
  | .getMeasurements body => Sys2Proof.Machine.execGetMeasurements body s
  | .keyExchange body => Sys2Proof.Machine.execKeyExchange body s
  | .finish body => Sys2Proof.Machine.execFinish body s
  | .endSession body => Sys2Proof.Machine.execEndSession body s
  | .readLog cluster => Sys2Proof.Machine.execReadLog cluster s
  | .readStatus => Sys2Proof.Machine.execReadStatus s
  | .setPlimit watts => Sys2Proof.Machine.execSetPlimit watts s
  | .restart warm zero cold => Sys2Proof.Machine.execRestart warm zero cold s
  | .commitSvn kind => Sys2Proof.Machine.execCommitSvn kind s
  | .firmwareUpdate img => Sys2Proof.Machine.execFirmwareUpdate img s
  | .throttleTick power temps => Sys2Proof.Machine.execThrottleTick power temps s
  | .statusBlockWrite => Sys2Proof.Machine.execStatusBlockWrite s
  | .thermalTrip sensor => Sys2Proof.Machine.execThermalTrip sensor s
  | .thermalRecovery temps => Sys2Proof.Machine.execThermalRecovery temps s
  | .hostSnoop pa => Sys2Proof.Machine.execHostSnoop pa s
  | .hostCompletion req bytes => Sys2Proof.Machine.execHostCompletion req bytes s
  | .peerTableWrite k v => Sys2Proof.Machine.execPeerTableWrite k v s
  | .fabricEnumeration id => Sys2Proof.Machine.execFabricEnumeration id s
  | .encodePassEnd cluster seq => Sys2Proof.Machine.execEncodePassEnd cluster seq s
  | .qcopy src d => Sys2Proof.Machine.execQcopy src d s
  | .qnot src d => Sys2Proof.Machine.execQnot src d s
  | .qmaj t => Sys2Proof.Machine.execQmaj t s
  | .qshl src d => Sys2Proof.Machine.execQshl src d s
  | .qshr src d => Sys2Proof.Machine.execQshr src d s
  | .qset ix d par bit => Sys2Proof.Machine.execQset ix d par bit s
  | .qvmc src d lay => Sys2Proof.Machine.execQvmc src d lay s
  | .qloop n => Sys2Proof.Machine.execQloop n s
  | .qloopPar par => Sys2Proof.Machine.execQloopPar par s
  | .qend => Sys2Proof.Machine.execQend s
  | .qskip cnt ix v par bit => Sys2Proof.Machine.execQskip cnt ix v par bit s
  | .qsafe => Sys2Proof.Machine.execQsafe s
  | .qret => Sys2Proof.Machine.execQret s
  | .rds f => Sys2Proof.Machine.execRds f s
  | .rdv f => Sys2Proof.Machine.execRdv f s
  | .rdm f => Sys2Proof.Machine.execRdm f s
  | .wrs f => Sys2Proof.Machine.execWrs f s
  | .wrv f => Sys2Proof.Machine.execWrv f s
  | .wrm f => Sys2Proof.Machine.execWrm f s
  | .mov b => Sys2Proof.Machine.execMov b s
  | .movExt b x => Sys2Proof.Machine.execMovExt b x s
  | .null b => Sys2Proof.Machine.execNull b s
  | .nullExt b x => Sys2Proof.Machine.execNullExt b x s
  | .lit b m => Sys2Proof.Machine.execLit b m s
  | .pcb b => Sys2Proof.Machine.execPcb b s
  | .pcbExt b m => Sys2Proof.Machine.execPcbExt b m s
  | .br j => Sys2Proof.Machine.execBr j s
  | .bri p => Sys2Proof.Machine.execBri p s
  | .call j => Sys2Proof.Machine.execCall j s
  | .calli p => Sys2Proof.Machine.execCalli p s
  | .yield j => Sys2Proof.Machine.execYield j s
  | .halt p => Sys2Proof.Machine.execHalt p s
  | .sysc j => Sys2Proof.Machine.execSysc j s
  | .trap p code => Sys2Proof.Machine.execTrap p code s
  | .eret p => Sys2Proof.Machine.execEret p s
  | .csrr b x csr => Sys2Proof.Machine.execCsrr b x csr s
  | .csrw p csr => Sys2Proof.Machine.execCsrw p csr s
  | .icinv p => Sys2Proof.Machine.execIcinv p s
  | .tlbinv p => Sys2Proof.Machine.execTlbinv p s
  | .setvl b => Sys2Proof.Machine.execSetvl b s
  | .lclaim b => Sys2Proof.Machine.execLclaim b s
  | .add b => Sys2Proof.Machine.execAdd b s
  | .addImm b m => Sys2Proof.Machine.execAddImm b m s
  | .sub b => Sys2Proof.Machine.execSub b s
  | .subImm b m => Sys2Proof.Machine.execSubImm b m s
  | .mul b => Sys2Proof.Machine.execMul b s
  | .mulImm b m => Sys2Proof.Machine.execMulImm b m s
  | .mulh b => Sys2Proof.Machine.execMulh b s
  | .mulhImm b m => Sys2Proof.Machine.execMulhImm b m s
  | .mulhn b => Sys2Proof.Machine.execMulhn b s
  | .mulhnImm b m => Sys2Proof.Machine.execMulhnImm b m s
  | .div b => Sys2Proof.Machine.execDiv b s
  | .divImm b m => Sys2Proof.Machine.execDivImm b m s
  | .divn b => Sys2Proof.Machine.execDivn b s
  | .divnImm b m => Sys2Proof.Machine.execDivnImm b m s
  | .rem b => Sys2Proof.Machine.execRem b s
  | .remImm b m => Sys2Proof.Machine.execRemImm b m s
  | .remn b => Sys2Proof.Machine.execRemn b s
  | .remnImm b m => Sys2Proof.Machine.execRemnImm b m s
  | .and b => Sys2Proof.Machine.execAnd b s
  | .andImm b m => Sys2Proof.Machine.execAndImm b m s
  | .or b => Sys2Proof.Machine.execOr b s
  | .orImm b m => Sys2Proof.Machine.execOrImm b m s
  | .xor b => Sys2Proof.Machine.execXor b s
  | .xorImm b m => Sys2Proof.Machine.execXorImm b m s
  | .andn b => Sys2Proof.Machine.execAndn b s
  | .andnImm b m => Sys2Proof.Machine.execAndnImm b m s
  | .shl b => Sys2Proof.Machine.execShl b s
  | .shlImm b m => Sys2Proof.Machine.execShlImm b m s
  | .shr b => Sys2Proof.Machine.execShr b s
  | .shrImm b m => Sys2Proof.Machine.execShrImm b m s
  | .sra b => Sys2Proof.Machine.execSra b s
  | .sraImm b m => Sys2Proof.Machine.execSraImm b m s
  | .rotl b => Sys2Proof.Machine.execRotl b s
  | .rotlImm b m => Sys2Proof.Machine.execRotlImm b m s
  | .min b => Sys2Proof.Machine.execMin b s
  | .minImm b m => Sys2Proof.Machine.execMinImm b m s
  | .max b => Sys2Proof.Machine.execMax b s
  | .maxImm b m => Sys2Proof.Machine.execMaxImm b m s
  | .minn b => Sys2Proof.Machine.execMinn b s
  | .minnImm b m => Sys2Proof.Machine.execMinnImm b m s
  | .maxn b => Sys2Proof.Machine.execMaxn b s
  | .maxnImm b m => Sys2Proof.Machine.execMaxnImm b m s
  | .clz b => Sys2Proof.Machine.execClz b s
  | .clzExt b x => Sys2Proof.Machine.execClzExt b x s
  | .ctz b => Sys2Proof.Machine.execCtz b s
  | .ctzExt b x => Sys2Proof.Machine.execCtzExt b x s
  | .popc b => Sys2Proof.Machine.execPopc b s
  | .popcExt b x => Sys2Proof.Machine.execPopcExt b x s
  | .bswap b => Sys2Proof.Machine.execBswap b s
  | .bswapExt b x => Sys2Proof.Machine.execBswapExt b x s
  | .sext b => Sys2Proof.Machine.execSext b s
  | .sextImm b m => Sys2Proof.Machine.execSextImm b m s
  | .zext b => Sys2Proof.Machine.execZext b s
  | .zextImm b m => Sys2Proof.Machine.execZextImm b m s
  | .bfx b => Sys2Proof.Machine.execBfx b s
  | .bfxImm b m => Sys2Proof.Machine.execBfxImm b m s
  | .bfi b => Sys2Proof.Machine.execBfi b s
  | .bfiImm b m => Sys2Proof.Machine.execBfiImm b m s
  | .sel b => Sys2Proof.Machine.execSel b s
  | .selImm b m => Sys2Proof.Machine.execSelImm b m s
  | .teq b => Sys2Proof.Machine.execTeq b s
  | .teqImm b m => Sys2Proof.Machine.execTeqImm b m s
  | .tne b => Sys2Proof.Machine.execTne b s
  | .tneImm b m => Sys2Proof.Machine.execTneImm b m s
  | .tlt b => Sys2Proof.Machine.execTlt b s
  | .tltImm b m => Sys2Proof.Machine.execTltImm b m s
  | .tle b => Sys2Proof.Machine.execTle b s
  | .tleImm b m => Sys2Proof.Machine.execTleImm b m s
  | .tltn b => Sys2Proof.Machine.execTltn b s
  | .tltnImm b m => Sys2Proof.Machine.execTltnImm b m s
  | .tlen b => Sys2Proof.Machine.execTlen b s
  | .tlenImm b m => Sys2Proof.Machine.execTlenImm b m s
  | .tbit b => Sys2Proof.Machine.execTbit b s
  | .tbitImm b m => Sys2Proof.Machine.execTbitImm b m s
  | .sptest b => Sys2Proof.Machine.execSptest b s
  | .sptestExt b x => Sys2Proof.Machine.execSptestExt b x s
  | .spcast b => Sys2Proof.Machine.execSpcast b s
  | .spcastImm b m => Sys2Proof.Machine.execSpcastImm b m s
  | .padd b => Sys2Proof.Machine.execPadd b s
  | .paddImm b m => Sys2Proof.Machine.execPaddImm b m s
  | .vadd b => Sys2Proof.Machine.execVadd b s
  | .vaddExt b v => Sys2Proof.Machine.execVaddExt b v s
  | .vsub b => Sys2Proof.Machine.execVsub b s
  | .vsubExt b v => Sys2Proof.Machine.execVsubExt b v s
  | .vmul b => Sys2Proof.Machine.execVmul b s
  | .vmulExt b v => Sys2Proof.Machine.execVmulExt b v s
  | .vmulw b => Sys2Proof.Machine.execVmulw b s
  | .vmulwExt b v odd => Sys2Proof.Machine.execVmulwExt b v odd s
  | .vfma b => Sys2Proof.Machine.execVfma b s
  | .vfmaExt b v => Sys2Proof.Machine.execVfmaExt b v s
  | .vfms b => Sys2Proof.Machine.execVfms b s
  | .vfmsExt b v => Sys2Proof.Machine.execVfmsExt b v s
  | .vdiv b => Sys2Proof.Machine.execVdiv b s
  | .vdivExt b v => Sys2Proof.Machine.execVdivExt b v s
  | .vsqrt b => Sys2Proof.Machine.execVsqrt b s
  | .vsqrtExt b v => Sys2Proof.Machine.execVsqrtExt b v s
  | .vrcp b => Sys2Proof.Machine.execVrcp b s
  | .vrcpExt b v => Sys2Proof.Machine.execVrcpExt b v s
  | .vrsq b => Sys2Proof.Machine.execVrsq b s
  | .vrsqExt b v => Sys2Proof.Machine.execVrsqExt b v s
  | .vexp2 b => Sys2Proof.Machine.execVexp2 b s
  | .vexp2Ext b v => Sys2Proof.Machine.execVexp2Ext b v s
  | .vlog2 b => Sys2Proof.Machine.execVlog2 b s
  | .vlog2Ext b v => Sys2Proof.Machine.execVlog2Ext b v s
  | .vmin b => Sys2Proof.Machine.execVmin b s
  | .vminExt b v => Sys2Proof.Machine.execVminExt b v s
  | .vmax b => Sys2Proof.Machine.execVmax b s
  | .vmaxExt b v => Sys2Proof.Machine.execVmaxExt b v s
  | .vabs b => Sys2Proof.Machine.execVabs b s
  | .vabsExt b v => Sys2Proof.Machine.execVabsExt b v s
  | .vneg b => Sys2Proof.Machine.execVneg b s
  | .vnegExt b v => Sys2Proof.Machine.execVnegExt b v s
  | .vand b => Sys2Proof.Machine.execVand b s
  | .vandExt b v => Sys2Proof.Machine.execVandExt b v s
  | .vor b => Sys2Proof.Machine.execVor b s
  | .vorExt b v => Sys2Proof.Machine.execVorExt b v s
  | .vxor b => Sys2Proof.Machine.execVxor b s
  | .vxorExt b v => Sys2Proof.Machine.execVxorExt b v s
  | .vnot b => Sys2Proof.Machine.execVnot b s
  | .vnotExt b v => Sys2Proof.Machine.execVnotExt b v s
  | .vshl b => Sys2Proof.Machine.execVshl b s
  | .vshlExt b v n => Sys2Proof.Machine.execVshlExt b v n s
  | .vshr b => Sys2Proof.Machine.execVshr b s
  | .vshrExt b v n => Sys2Proof.Machine.execVshrExt b v n s
  | .vsra b => Sys2Proof.Machine.execVsra b s
  | .vsraExt b v n => Sys2Proof.Machine.execVsraExt b v n s
  | .vceq b => Sys2Proof.Machine.execVceq b s
  | .vceqExt b v => Sys2Proof.Machine.execVceqExt b v s
  | .vcne b => Sys2Proof.Machine.execVcne b s
  | .vcneExt b v => Sys2Proof.Machine.execVcneExt b v s
  | .vclt b => Sys2Proof.Machine.execVclt b s
  | .vcltExt b v => Sys2Proof.Machine.execVcltExt b v s
  | .vcle b => Sys2Proof.Machine.execVcle b s
  | .vcleExt b v => Sys2Proof.Machine.execVcleExt b v s
  | .vcun b => Sys2Proof.Machine.execVcun b s
  | .vcunExt b v => Sys2Proof.Machine.execVcunExt b v s
  | .vclass b => Sys2Proof.Machine.execVclass b s
  | .vclassExt b v cls => Sys2Proof.Machine.execVclassExt b v cls s
  | .vsel b => Sys2Proof.Machine.execVsel b s
  | .vselExt b v => Sys2Proof.Machine.execVselExt b v s
  | .vfill b v tag l => Sys2Proof.Machine.execVfill b v tag l s
  | .vbcast b v tag l => Sys2Proof.Machine.execVbcast b v tag l s
  | .vid b v tag => Sys2Proof.Machine.execVid b v tag s
  | .vcvt b v tag => Sys2Proof.Machine.execVcvt b v tag s
  | .vscale b => Sys2Proof.Machine.execVscale b s
  | .vscaleExt b v sc => Sys2Proof.Machine.execVscaleExt b v sc s
  | .vtag b v tag => Sys2Proof.Machine.execVtag b v tag s
  | .vsum b => Sys2Proof.Machine.execVsum b s
  | .vsumExt b v => Sys2Proof.Machine.execVsumExt b v s
  | .vrmax b => Sys2Proof.Machine.execVrmax b s
  | .vrmaxExt b v => Sys2Proof.Machine.execVrmaxExt b v s
  | .vrmin b => Sys2Proof.Machine.execVrmin b s
  | .vrminExt b v => Sys2Proof.Machine.execVrminExt b v s
  | .vdot b => Sys2Proof.Machine.execVdot b s
  | .vdotExt b v acc => Sys2Proof.Machine.execVdotExt b v acc s
  | .vperm b => Sys2Proof.Machine.execVperm b s
  | .vpermExt b v => Sys2Proof.Machine.execVpermExt b v s
  | .vrot b => Sys2Proof.Machine.execVrot b s
  | .vrotExt b v n => Sys2Proof.Machine.execVrotExt b v n s
  | .vslide b => Sys2Proof.Machine.execVslide b s
  | .vslideExt b v n down => Sys2Proof.Machine.execVslideExt b v n down s
  | .vcomp b => Sys2Proof.Machine.execVcomp b s
  | .vcompExt b v => Sys2Proof.Machine.execVcompExt b v s
  | .vexpd b => Sys2Proof.Machine.execVexpd b s
  | .vexpdExt b v => Sys2Proof.Machine.execVexpdExt b v s
  | .vext b => Sys2Proof.Machine.execVext b s
  | .vextExt b v n => Sys2Proof.Machine.execVextExt b v n s
  | .vins b => Sys2Proof.Machine.execVins b s
  | .vinsExt b v n => Sys2Proof.Machine.execVinsExt b v n s
  | .mand b => Sys2Proof.Machine.execMand b s
  | .mandExt b x => Sys2Proof.Machine.execMandExt b x s
  | .mor b => Sys2Proof.Machine.execMor b s
  | .morExt b x => Sys2Proof.Machine.execMorExt b x s
  | .mxor b => Sys2Proof.Machine.execMxor b s
  | .mxorExt b x => Sys2Proof.Machine.execMxorExt b x s
  | .mnot b => Sys2Proof.Machine.execMnot b s
  | .mnotExt b x => Sys2Proof.Machine.execMnotExt b x s
  | .mpop b => Sys2Proof.Machine.execMpop b s
  | .mpopExt b x => Sys2Proof.Machine.execMpopExt b x s
  | .mfirst b => Sys2Proof.Machine.execMfirst b s
  | .mfirstExt b x => Sys2Proof.Machine.execMfirstExt b x s
  | .ld b m => Sys2Proof.Machine.execLd b m s
  | .st b m l => Sys2Proof.Machine.execSt b m l s
  | .vld b m tag => Sys2Proof.Machine.execVld b m tag s
  | .vlds b m tag => Sys2Proof.Machine.execVlds b m tag s
  | .vldx b m tag => Sys2Proof.Machine.execVldx b m tag s
  | .vldff b m tag => Sys2Proof.Machine.execVldff b m tag s
  | .vst b m => Sys2Proof.Machine.execVst b m s
  | .vsts b m => Sys2Proof.Machine.execVsts b m s
  | .vstx b m => Sys2Proof.Machine.execVstx b m s
  | .vsadd b m => Sys2Proof.Machine.execVsadd b m s
  | .aadd b m l => Sys2Proof.Machine.execAadd b m l s
  | .aswap b m l => Sys2Proof.Machine.execAswap b m l s
  | .acas b m l => Sys2Proof.Machine.execAcas b m l s
  | .amin b m l => Sys2Proof.Machine.execAmin b m l s
  | .amax b m l => Sys2Proof.Machine.execAmax b m l s
  | .aand b m l => Sys2Proof.Machine.execAand b m l s
  | .aor b m l => Sys2Proof.Machine.execAor b m l s
  | .axor b m l => Sys2Proof.Machine.execAxor b m l s
  | .wjoin b => Sys2Proof.Machine.execWjoin b s
  | .wjoinImm b m => Sys2Proof.Machine.execWjoinImm b m s
  | .wfloor p => Sys2Proof.Machine.execWfloor p s
  | .wfloorExt p => Sys2Proof.Machine.execWfloorExt p s
  | .wnow b => Sys2Proof.Machine.execWnow b s
  | .wnowExt b x => Sys2Proof.Machine.execWnowExt b x s
  | .wtest b => Sys2Proof.Machine.execWtest b s
  | .wtestExt b x test => Sys2Proof.Machine.execWtestExt b x test s
  | .mwait b m l => Sys2Proof.Machine.execMwait b m l s
  | .bar b => Sys2Proof.Machine.execBar b s
  | .barExt b x id count na => Sys2Proof.Machine.execBarExt b x id count na s
  | .claimel b m l => Sys2Proof.Machine.execClaimel b m l s
  | .pref b m => Sys2Proof.Machine.execPref b m s
  | .mclaim b => Sys2Proof.Machine.execMclaim b s
  | .mrel p => Sys2Proof.Machine.execMrel p s
  | .mmul k arow acc slice dual => Sys2Proof.Machine.execMmul k arow acc slice dual s
  | .mrd k b arow nrow pos => Sys2Proof.Machine.execMrd k b arow nrow pos s
  | .mwr k arow nrow pos => Sys2Proof.Machine.execMwr k arow nrow pos s
  | .mzero k arow nrow => Sys2Proof.Machine.execMzero k arow nrow s
  | .mdecay k => Sys2Proof.Machine.execMdecay k s
  | .mspill k u => Sys2Proof.Machine.execMspill k u s
  | .mfill k u wi => Sys2Proof.Machine.execMfill k u wi s
  | .wcfg k => Sys2Proof.Machine.execWcfg k s
  | .wtable k => Sys2Proof.Machine.execWtable k s
  | .wload k ff => Sys2Proof.Machine.execWload k ff s
  | .wloada k arow => Sys2Proof.Machine.execWloada k arow s
  | .wswap k => Sys2Proof.Machine.execWswap k s
  | .wexp k b => Sys2Proof.Machine.execWexp k b s
  | .wstat k b wait => Sys2Proof.Machine.execWstat k b wait s
  | .plock b => Sys2Proof.Machine.execPlock b s
  | .plockExt b x wr tries => Sys2Proof.Machine.execPlockExt b x wr tries s
  | .punlock p => Sys2Proof.Machine.execPunlock p s
  | .plaunch b => Sys2Proof.Machine.execPlaunch b s
  | .plaunchExt b x => Sys2Proof.Machine.execPlaunchExt b x s
  | .pfence b => Sys2Proof.Machine.execPfence b s
  | .pfenceExt b x => Sys2Proof.Machine.execPfenceExt b x s
  | .pstat b => Sys2Proof.Machine.execPstat b s
  | .pstatExt b x bank => Sys2Proof.Machine.execPstatExt b x bank s
  | .vldp b m tag => Sys2Proof.Machine.execVldp b m tag s
  | .vstp b m => Sys2Proof.Machine.execVstp b m s
  | .cpset p => Sys2Proof.Machine.execCpset p s
  | .cpsetExt p index => Sys2Proof.Machine.execCpsetExt p index s
  | .cpgo b => Sys2Proof.Machine.execCpgo b s
  | .cpgoExt b x => Sys2Proof.Machine.execCpgoExt b x s
  | .cpqf p => Sys2Proof.Machine.execCpqf p s
  | .cpqfExt p queue mask => Sys2Proof.Machine.execCpqfExt p queue mask s
  | .cpstat b => Sys2Proof.Machine.execCpstat b s
  | .cpstatExt b x => Sys2Proof.Machine.execCpstatExt b x s
  | .cpabort p => Sys2Proof.Machine.execCpabort p s

end Sys2Proof.Machine
end

