-- ==== Sys2Proof/Machine/Step.lean ====
section
/-! DEFINITION. One step of the device: the next row of the agenda; else the slot or op in focus; else the first row that can act, in a fixed order
(log entries 1 and 2). Each step is one row of the table. -/
namespace Sys2Proof.Machine

/-! What a step may run. -/
/-- A row and those that follow it at once; a slot of a block; a word of an op. -/
inductive Cand where
  | rows (i : Instr) (rest : List Instr)
  | at (f : Focus)
  deriving DecidableEq, Repr
def one (i : Instr) : Cand := .rows i []

/-- Between two rows: CYCLE counts, firmware contexts change to a new image, the rows due follow what is on the agenda, and the next row acts where the focus stands. -/
def State.prepare (s : State) (f : Focus) (agenda : List Instr) : State :=
  { s with focus := f, cycle := s.cycle + 1, agenda := agenda ++ s.dueRows (s.cycle + 1), mgr := s.mgr.contextsTurn s.cycle }
/-- After a row nothing is in focus. -/
def afterRow (r : Host.Outcome State Fault Refusal) : Host.Outcome State Fault Refusal :=
  match r with
  | .next s => .next { s with focus := .none }
  | .fault f => .fault f
  | .refused q => .refused q

/-! The instruction in focus. -/
/-- The words at a slot of a block in flight (R77). -/
def State.slotWords (s : State) (tid serial slot : Nat) : List Word32 :=
  match (s.thread tid).block serial with
  | none => []
  | some b => match b.offs[slot]? with | some o => b.words.drop o | none => []
/-- The furrow word an op stands at (R255). -/
def State.opWord (s : State) (c seq : Nat) : Option Word32 := (s.findOp c seq).bind (fun o => o.launch.words[o.pc]?)
/-- The instruction that the words in focus decode to. -/
noncomputable def State.focused (s : State) (f : Focus) : Option Instr :=
  match f with
  | .none => none
  | .slot tid serial slot => (decodeInstr (s.slotWords tid serial slot)).map (·.1)
  | .op c seq => (s.opWord c seq).bind decodeFurrow
/-- The step that runs what is in focus. -/
noncomputable def State.stepAt (s : State) (f : Focus) : Host.Outcome State Fault Refusal :=
  match s.focused f with
  | some i => afterRow (exec i (s.prepare f s.agenda))
  | none => .fault .undecodable
def stepRow (s : State) (i : Instr) (rest : List Instr) : Host.Outcome State Fault Refusal :=
  afterRow (exec i (s.prepare .none (rest ++ s.agenda)))
noncomputable def State.runCand (s : State) (c : Cand) : Host.Outcome State Fault Refusal :=
  match c with
  | .rows i rest => stepRow s i rest
  | .at f => s.stepAt f
/-- The row does something here. -/
noncomputable def State.moves (s : State) (c : Cand) : Bool :=
  match s.runCand c with
  | .next t => t != s.prepare .none (match c with | .rows _ rest => rest ++ s.agenda | .at _ => s.agenda)
  | _ => true

/-! The order in which rows are tried. -/
/-- A load on its way. -/
def loadCands (l : LoadReq) : List Cand :=
  match l.stage with
  | .atHome | .dramDone => [one (.homeLoad l.id)]
  | .toRdc => [one (.rdcRenewal l.id)]
  | .toL1 => [one (.l1Renewal l.id)]
  | .armed => [one (.mwaitWake l.id)]
  | _ => []
def storeCands (r : StoreReq) : List Cand :=
  match r.kind with
  | .atomic .. => [one (.homeAtomic r.id)]
  | .claimel .. => [one (.claimelAtHome r.id)]
  | _ => [one (.homeStore r.id)]
def trainCands (t : Train) : List Cand := [one (.trainElement t.id), one (.trainTail t.id), one (.trainAck t.id)]
def tileCands (s : State) (n : Nat) (t : Tile) : List Cand :=
  [one (.fillEnd n), one (.matrixClaimGrant n)] ++
  (sortOn (fun q => q.2.since * 8 + q.1) t.queues).flatMap (fun q => [one (.copyStripEnd n q.1), one (.copyStampWrite n q.1), one (.copyFenceRelease n q.1), one (.copyStrip n q.1)]) ++
  (if t.retired || s.tileFailing n then [one (.tileRetire n)] else [])
def bankCands (cycle n : Nat) (b : Bank) : List Cand :=
  (if (match b.managing with | some t => decide (t + managementCycles ≤ cycle) | none => !b.alerts.isEmpty) then [one (.refreshManagement n)] else []) ++ (if 1 ≤ b.debt then [one (.refresh n)] else []) ++
  (if b.queue.isEmpty then [] else [one (.dramRequest n), one (.insertion n)])
def opCands (c : Nat) (o : FieldOp) : List Cand :=
  match o.state with
  | .queued => [one (.fieldOpStart c o.seq)]
  | .running => [.at (.op c o.seq)]
  | .encoding => [one (.encodePassEnd c o.seq)]
  | .done => []
def clusterCands (c : Nat) (k : Cluster) : List Cand :=
  k.lockReqs.map (fun q => one (.plockGrant q.id)) ++ k.ops.flatMap (opCands c) ++
  (k.remap.filter (fun e => brState e.2 == 1)).map (fun e => one (.bankRetireMove c e.1)) ++ k.rowsOwed.map (fun r => one (.rowSpare r.1 r.2))
/-- The message a stream has kept for its turn (R415). -/
def streamCands (x : Stream) : List Cand :=
  match x.held.find? (fun m => m.seq == x.expected) with
  | none => []
  | some m => match m.type with
    | 1 => [one (.msgTrainBeats m)]
    | 3 => [one (.msgReadRequest m)]
    | _ => [one (.msgAtomicRequest m)]
/-- A queue's packets (R356 to R368). -/
def headCands (q : Nat) (p : PacketRec) : List Cand :=
  match p.type with
  | 1 => if p.waited then [one (.startPlacement q)] else [one (.start q)]
  | 2 => [one (.regionAttach q), one (.regionReload q), one (.regionDetach q), one (.cisternAllocate q), one (.cisternFree q)]
  | 3 => [one (.wait q)]
  | 4 => [one (.stamp q)]
  | 5 => [one (.copy q)]
  | 6 => [one (.plane q)]
  | 7 => [one (.kill q)]
  | _ => [one (.nop q)]
def queueCands (q : Nat) (h : HostQueue) : List Cand :=
  h.active.map (fun p => one (.packetComplete q p.seq)) ++
  (match h.head with
   | some p => headCands q p
   | none => if h.awake then [one (.packetFetch q)] else [])
/-- The slots of a block that can fire (R20). -/
def slotCands (tid : Nat) (b : BlockExec) : List Cand :=
  if b.decoded && b.held.isNone then (b.openSlots.filter (fun e => b.canFire e.1 e.2)).map (fun e => .at (.slot tid b.serial e.1)) else []
/-- The CSR writes of a block that commits, in slot order, then the commit (R32, R118); a write of ASID is the commit's own, which makes it last (R384). -/
def csrRows (tid : Nat) (b : BlockExec) : List Instr :=
  (sortOn (·.slot) b.effects).filterMap (fun e => match e.eff with | .csrw c v => if c = 0x110 then none else some (csrInstr tid c v) | _ => none)
def commitCands (tid : Nat) (s : State) : List Cand :=
  match s.commitHead tid with
  | none => if (s.entersHead tid).isSome then [one (.blockCommit tid)] else []
  | some b =>
    if b.effs.any Effect.isLoad then [one (.fillAccept tid), one (.wloadaAccept tid)]
    else match csrRows tid b with
      | [] => [one (.blockCommit tid)]
      | i :: r => [.rows i (r ++ [.blockCommit tid])]
def threadCands (s : State) (tid : Nat) (t : Thread) : List Cand :=
  if t.flight.isEmpty && t.status = .stopping then [one (.contextSaveEnd tid)]
  else t.flight.flatMap (slotCands tid) ++ commitCands tid s ++ (if t.flight.isEmpty then [] else [one (.trapEntry tid), one (.blockDecode tid)]) ++
    (if s.pick t.core = some tid then [one (.blockFetch tid none)] else [])
/-- The threads after the one that ran last, then the others. -/
def State.inTurns (s : State) : NMap Thread := s.threads.filter (fun e => s.turn < e.1) ++ s.threads.filter (fun e => e.1 ≤ s.turn)
/-- What happens where nothing else can: the end of a pre-emption's grace, of refresh management, of an MWAIT's limit, of the wait on another's lock, of a START's wait; the next
microsecond. -/
def idleCands (s : State) : List Cand :=
  (s.threads.filter (fun e => e.2.status == .stopping)).map (fun e => one (.preemptGraceExpiry e.1)) ++
  (s.loads.filter (fun l => l.stage == .armed || (l.route == .peer && l.form.waits))).map (fun l => one (.mwaitExpiry l.id)) ++
  (s.banks.filter (fun e => e.2.managing.isSome)).map (fun e => one (.refreshManagement e.1)) ++
  s.loads.map (fun l => one (.lockedTimeout l.id)) ++ s.waiting.map (fun q => one (.startWaitTimeout q)) ++ [one .ceilingAdvance]
def State.candidates (s : State) : List Cand :=
  if s.mgr.trip then []
  else if s.mgr.pending.isSome then [one (.deviceStart none)]
  else
    s.walks.map (fun w => one (.pageWalkEnd w.id)) ++ s.stores.flatMap storeCands ++ s.loads.flatMap loadCands ++ s.trains.flatMap trainCands ++
    s.groups.map (fun g => one (.deferredResultWrite g.gid)) ++ s.banks.flatMap (fun e => bankCands s.cycle e.1 e.2) ++
    s.clusters.flatMap (fun e => clusterCands e.1 e.2) ++ s.tiles.flatMap (fun e => tileCands s e.1 e.2) ++ s.hostHeld.map one ++
    s.streams.flatMap streamCands ++ s.saved.map (fun e => one (.resume e.1)) ++ (s.regions.filter (·.owes)).map (fun r => one (.budgetCharge r.asid r.addr 0 0)) ++
     s.hostQ.flatMap (fun e => queueCands e.1 e.2) ++
    s.inTurns.flatMap (fun e => threadCands s e.1 e.2) ++ idleCands s

/-- The thread that a row is of. -/
def Cand.thread : Cand → Option Nat
  | .at (.slot tid _ _) => some tid
  | .rows (.blockCommit tid) _ | .rows (.trapEntry tid) _ | .rows (.blockDecode tid) _ | .rows (.blockFetch tid _) _ => some tid
  | _ => none
/-- After a thread's row the next thread has its turn. -/
def passTurn (c : Cand) (r : Host.Outcome State Fault Refusal) : Host.Outcome State Fault Refusal :=
  match r, c.thread with
  | .next s, some tid => .next { s with turn := tid }
  | r, _ => r

/-- One step. Where nothing at all can act (a device that has tripped), only CYCLE counts. -/
noncomputable def step (s : State) : Host.Outcome State Fault Refusal :=
  match s.agenda with
  | i :: r => afterRow (exec i (s.prepare .none r))
  | [] => match s.focus with
    | .none => (match s.candidates.find? s.moves with
      | some c => passTurn c (s.runCand c)
      | none => .next (s.prepare .none []))
    | f => s.stepAt f

/-! A bare word as the next instruction. -/
/-- The words of a bare instruction, the bits above `nbits` zero. -/
def bareWords (nbits w : Nat) : List Word32 :=
  let n := w % 2 ^ nbits
  [BitVec.ofNat 32 n, BitVec.ofNat 32 (n / 2 ^ 32), BitVec.ofNat 32 (n / 2 ^ 64), BitVec.ofNat 32 (n / 2 ^ 96), BitVec.ofNat 32 (n / 2 ^ 128)]
/-- An empty token of the type an operand asks for. -/
def Want.token : Want → Token
  | .vector => .vector 0x0FE0 [] [] []
  | .mask => .mask []
  | _ => .scalar 0
/-- A device that has started, with one running thread whose one block in flight has the word as its slot 0 and a token at every operand. -/
def State.withSlot (s : State) (ws : List Word32) (r : Raw) : State :=
  let pTok : List TokAt := if r.pr = .always then [] else [⟨0, .p, .scalar (if r.pr = .onTrue then 1 else 0)⟩]
  let b : BlockExec := { emptyBlock 0 0x1000 with
    words := ws, offs := [0], decoded := true, toks := pTok ++ r.takes.map (fun e => ⟨0, e.1, Want.token e.2⟩) }
  let t : Thread := { Thread.absent with status := .running, pc := 0x1000, ceil := 4096, lanes := 1, flight := [b] }
  { s with agenda := [], focus := .slot 0 0 0, fresh := s.fresh + 1, threads := (s.setThread 0 t).threads,
           mgr := { s.mgr with ready := true, restarting := false, pending := none } }
/-- A device that has started, with one running furrow op whose one word is the word. -/
def State.withOp (s : State) (w : Word32) : State :=
  let l : Launch := { asid := 0, region := 0, cluster := 0, image := 0, words := [w], bases := [], pars := [], keep := false, subs := [], reads := [], writes := [],
                      wts := none, floor := 0 }
  let o : FieldOp := { seq := 0, owner := 0, launch := l, state := .running, pass := 0, safe := true, pc := 0, loops := [], steps := 0, witness := none,
                       abandoned := false, packet := none, encoded := 0, encTime := none }
  { (s.setCluster 0 { s.cluster 0 with ops := [o], opSeq := 1 }) with
    agenda := [], focus := .op 0 0, mgr := { s.mgr with ready := true, restarting := false, pending := none } }
/-- The state whose next step runs a bare word (log entry 2): a word the block decoder takes as a slot of a thread's block, any other as a furrow
word. -/
def State.withFetchWord (s : State) (nbits w : Nat) : State :=
  match decodeSlot (bareWords nbits w) with
  | .ok r _ => s.withSlot (bareWords nbits w) r
  | _ => s.withOp (BitVec.ofNat 32 (w % 2 ^ nbits))

end Sys2Proof.Machine
end

