-- ==== Sys2Proof/Laws/PerInstr.lean ====
section
/-! SUPPORT. Facts made per instruction. Family Encoding: the operand form of an instruction (R77 to R86) names that instruction
again, so that no operand is lost between the two. -/
set_option Elab.async false
set_option linter.unusedSimpArgs false
set_option linter.unusedVariables false
namespace Sys2Proof.Laws

/-! Fields of word 2. -/
theorem bitOf_ofNat (n k : Nat) (hk : k < 32) : bitOf (BitVec.ofNat 32 n) k = decide (n / 2 ^ k % 2 = 1) := by
  unfold bitOf
  rw [BitVec.getLsbD_ofNat, Nat.testBit_eq_decide_div_mod_eq]
  simp [hk]
theorem bool_enc (b : Bool) : encBool b < 2 := by cases b <;> simp [encBool]
theorem bool_dec (b : Bool) : (encBool b == 1) = b := by cases b <;> rfl
theorem decide_bit {m : Nat} {b : Bool} (h : m = encBool b) : decide (m = 1) = b := by subst h; cases b <;> rfl
theorem setWidth_ofNat_mod (k n : Nat) (hk : k ≤ 32) : (BitVec.ofNat 32 n).setWidth k = BitVec.ofNat k n := by
  apply BitVec.eq_of_toNat_eq
  simp only [BitVec.toNat_setWidth, BitVec.toNat_ofNat]
  exact Nat.mod_mod_of_dvd _ (pow_dvd_pow 2 hk)
theorem extract_ofNat (a k n : Nat) (h : a + k ≤ 32) : (BitVec.ofNat 32 n).extractLsb' a k = BitVec.ofNat k (n / 2 ^ a) := by
  apply BitVec.eq_of_toNat_eq
  simp only [BitVec.extractLsb'_toNat, BitVec.toNat_ofNat, Nat.shiftRight_eq_div_pow]
  have : n % 2 ^ 32 / 2 ^ a % 2 ^ k = n / 2 ^ a % 2 ^ k := by
    rw [show (2:Nat) ^ 32 = 2 ^ a * 2 ^ (32 - a) by rw [← pow_add]; congr 1; omega, Nat.mod_mul_right_div_self]
    exact Nat.mod_mod_of_dvd _ (pow_dvd_pow 2 (by omega))
  exact this
theorem ofNat_of_mod {k : Nat} (v : BitVec k) (n : Nat) (h : n % 2 ^ k = v.toNat) : BitVec.ofNat k n = v := by
  apply BitVec.eq_of_toNat_eq; simpa using h
theorem ibOf_encIb {k : Nat} (hk : k ≤ 30) (n : Option (BitVec k)) : ibOf k (encIb n) = n := by
  cases n with
  | none => simp [ibOf, encIb, BitVec.msb_eq_decide]
  | some v =>
    have hv : v.toNat < 2 ^ 30 := lt_of_lt_of_le v.isLt (Nat.pow_le_pow_right (by decide) hk)
    have hm : (BitVec.ofNat 32 (2147483648 + v.toNat)).msb = true := by simp [BitVec.msb_eq_decide]; omega
    simp only [ibOf, encIb, hm, if_true]
    rw [setWidth_ofNat_mod k _ (by omega), ofNat_of_mod]
    rw [show (2147483648 : Nat) = 2 ^ k * 2 ^ (31 - k) by rw [← pow_add, show k + (31 - k) = 31 by omega]; norm_num]
    simp [Nat.mod_eq_of_lt v.isLt]

theorem slide_toNat (n : Option (BitVec 14)) (d : Bool) :
    (encIb n + BitVec.ofNat 32 (1073741824 * encBool d)).toNat = (match n with | none => 0 | some v => 2147483648 + v.toNat) + 1073741824 * encBool d := by
  have hb := bool_enc d
  cases n with
  | none => simp [encIb]; omega
  | some v => have := v.isLt; simp [encIb]; omega
theorem ibOf_slide (n : Option (BitVec 14)) (d : Bool) : ibOf 14 (encIb n + BitVec.ofNat 32 (1073741824 * encBool d)) = n := by
  have ht := slide_toNat n d
  have hb := bool_enc d
  cases n with
  | none =>
    have : (encIb (none : Option (BitVec 14)) + BitVec.ofNat 32 (1073741824 * encBool d)).msb = false := by
      rw [BitVec.msb_eq_decide, ht]; simp; omega
    simp only [ibOf, this]; rfl
  | some v =>
    have hv := v.isLt
    have : (encIb (some v) + BitVec.ofNat 32 (1073741824 * encBool d)).msb = true := by
      rw [BitVec.msb_eq_decide, ht]; simp; omega
    simp only [ibOf, this, if_true, Option.some.injEq]
    apply BitVec.eq_of_toNat_eq
    rw [BitVec.toNat_setWidth, ht]
    simp only; omega
theorem bitOf_slide (n : Option (BitVec 14)) (d : Bool) : bitOf (encIb n + BitVec.ofNat 32 (1073741824 * encBool d)) 30 = d := by
  have ht := slide_toNat n d
  have hb := bool_enc d
  unfold bitOf BitVec.getLsbD
  rw [Nat.testBit_eq_decide_div_mod_eq]
  refine decide_bit ?_
  rw [ht]
  cases n with
  | none => simp only; omega
  | some v => have := v.isLt; simp only; omega
theorem unitOf_enc (u : MxUnit) (b : Nat) (hb : b < 2) : unitOf (BitVec.ofNat 32 (encUnit u + 4 * b)) = u := by
  unfold unitOf fld
  cases u with
  | bank v =>
    have hv := v.isLt
    simp only [encUnit, BitVec.toNat_ofNat]
    rw [if_pos (by omega), setWidth_ofNat_mod 2 _ (by decide), ofNat_of_mod v _ (by omega)]
  | front => simp only [encUnit, BitVec.toNat_ofNat]; rw [if_neg (by omega), if_pos (by omega)]
  | back => simp only [encUnit, BitVec.toNat_ofNat]; rw [if_neg (by omega), if_neg (by omega)]

end Sys2Proof.Laws
namespace Sys2Proof.Laws.Encoding

def Statement (i : Instr) : Prop := ∀ r, rawOf i = some r → r.instr = some i

theorem blockFetch : ∀ x0 x1, Statement (.blockFetch x0 x1) := fun _ _ => fun _ h => by cases h
theorem blockDecode : ∀ x0, Statement (.blockDecode x0) := fun _ => fun _ h => by cases h
theorem blockCommit : ∀ x0, Statement (.blockCommit x0) := fun _ => fun _ h => by cases h
theorem deferredResultWrite : ∀ x0, Statement (.deferredResultWrite x0) := fun _ => fun _ h => by cases h
theorem trapEntry : ∀ x0, Statement (.trapEntry x0) := fun _ => fun _ h => by cases h
theorem matrixClaimGrant : ∀ x0, Statement (.matrixClaimGrant x0) := fun _ => fun _ h => by cases h
theorem fillAccept : ∀ x0, Statement (.fillAccept x0) := fun _ => fun _ h => by cases h
theorem wloadaAccept : ∀ x0, Statement (.wloadaAccept x0) := fun _ => fun _ h => by cases h
theorem fillEnd : ∀ x0, Statement (.fillEnd x0) := fun _ => fun _ h => by cases h
theorem preempt : ∀ x0, Statement (.preempt x0) := fun _ => fun _ h => by cases h
theorem preemptGraceExpiry : ∀ x0, Statement (.preemptGraceExpiry x0) := fun _ => fun _ h => by cases h
theorem contextSaveEnd : ∀ x0, Statement (.contextSaveEnd x0) := fun _ => fun _ h => by cases h
theorem resume : ∀ x0, Statement (.resume x0) := fun _ => fun _ h => by cases h
theorem laneResidueFailure : ∀ x0 x1 x2 x3, Statement (.laneResidueFailure x0 x1 x2 x3) := fun _ _ _ _ => fun _ h => by cases h
theorem laneSelfTestEnd : ∀ x0 x1 x2, Statement (.laneSelfTestEnd x0 x1 x2) := fun _ _ _ => fun _ h => by cases h
theorem homeLoad : ∀ x0, Statement (.homeLoad x0) := fun _ => fun _ h => by cases h
theorem homeStore : ∀ x0, Statement (.homeStore x0) := fun _ => fun _ h => by cases h
theorem homeAtomic : ∀ x0, Statement (.homeAtomic x0) := fun _ => fun _ h => by cases h
theorem claimelAtHome : ∀ x0, Statement (.claimelAtHome x0) := fun _ => fun _ h => by cases h
theorem mwaitWake : ∀ x0, Statement (.mwaitWake x0) := fun _ => fun _ h => by cases h
theorem mwaitExpiry : ∀ x0, Statement (.mwaitExpiry x0) := fun _ => fun _ h => by cases h
theorem l1Renewal : ∀ x0, Statement (.l1Renewal x0) := fun _ => fun _ h => by cases h
theorem rdcRenewal : ∀ x0, Statement (.rdcRenewal x0) := fun _ => fun _ h => by cases h
theorem leaseSweep : Statement .leaseSweep := fun _ h => by cases h
theorem ceilingAdvance : Statement .ceilingAdvance := fun _ h => by cases h
theorem clusterTimeBroadcast : ∀ x0, Statement (.clusterTimeBroadcast x0) := fun _ => fun _ h => by cases h
theorem pageWalkEnd : ∀ x0, Statement (.pageWalkEnd x0) := fun _ => fun _ h => by cases h
theorem plockGrant : ∀ x0, Statement (.plockGrant x0) := fun _ => fun _ h => by cases h
theorem lockedTimeout : ∀ x0, Statement (.lockedTimeout x0) := fun _ => fun _ h => by cases h
theorem fieldOpStart : ∀ x0 x1, Statement (.fieldOpStart x0 x1) := fun _ _ => fun _ h => by cases h
theorem refreshIntervalEnd : ∀ x0, Statement (.refreshIntervalEnd x0) := fun _ => fun _ h => by cases h
theorem refresh : ∀ x0, Statement (.refresh x0) := fun _ => fun _ h => by cases h
theorem refreshManagement : ∀ x0, Statement (.refreshManagement x0) := fun _ => fun _ h => by cases h
theorem dramRequest : ∀ x0, Statement (.dramRequest x0) := fun _ => fun _ h => by cases h
theorem insertion : ∀ x0, Statement (.insertion x0) := fun _ => fun _ h => by cases h
theorem patrolRead : ∀ x0, Statement (.patrolRead x0) := fun _ => fun _ h => by cases h
theorem copyStrip : ∀ x0 x1, Statement (.copyStrip x0 x1) := fun _ _ => fun _ h => by cases h
theorem copyStripEnd : ∀ x0 x1, Statement (.copyStripEnd x0 x1) := fun _ _ => fun _ h => by cases h
theorem copyStampWrite : ∀ x0 x1, Statement (.copyStampWrite x0 x1) := fun _ _ => fun _ h => by cases h
theorem copyFenceRelease : ∀ x0 x1, Statement (.copyFenceRelease x0 x1) := fun _ _ => fun _ h => by cases h
theorem trainElement : ∀ x0, Statement (.trainElement x0) := fun _ => fun _ h => by cases h
theorem trainTail : ∀ x0, Statement (.trainTail x0) := fun _ => fun _ h => by cases h
theorem trainAck : ∀ x0, Statement (.trainAck x0) := fun _ => fun _ h => by cases h
theorem trainAckTimeout : ∀ x0, Statement (.trainAckTimeout x0) := fun _ => fun _ h => by cases h
theorem queueDoorbell : ∀ x0 x1, Statement (.queueDoorbell x0 x1) := fun _ _ => fun _ h => by cases h
theorem queueHeadWake : ∀ x0, Statement (.queueHeadWake x0) := fun _ => fun _ h => by cases h
theorem packetFetch : ∀ x0, Statement (.packetFetch x0) := fun _ => fun _ h => by cases h
theorem start : ∀ x0, Statement (.start x0) := fun _ => fun _ h => by cases h
theorem startPlacement : ∀ x0, Statement (.startPlacement x0) := fun _ => fun _ h => by cases h
theorem startWaitTimeout : ∀ x0, Statement (.startWaitTimeout x0) := fun _ => fun _ h => by cases h
theorem regionAttach : ∀ x0, Statement (.regionAttach x0) := fun _ => fun _ h => by cases h
theorem regionReload : ∀ x0, Statement (.regionReload x0) := fun _ => fun _ h => by cases h
theorem regionDetach : ∀ x0, Statement (.regionDetach x0) := fun _ => fun _ h => by cases h
theorem cisternAllocate : ∀ x0, Statement (.cisternAllocate x0) := fun _ => fun _ h => by cases h
theorem cisternFree : ∀ x0, Statement (.cisternFree x0) := fun _ => fun _ h => by cases h
theorem wait : ∀ x0, Statement (.wait x0) := fun _ => fun _ h => by cases h
theorem stamp : ∀ x0, Statement (.stamp x0) := fun _ => fun _ h => by cases h
theorem copy : ∀ x0, Statement (.copy x0) := fun _ => fun _ h => by cases h
theorem plane : ∀ x0, Statement (.plane x0) := fun _ => fun _ h => by cases h
theorem kill : ∀ x0, Statement (.kill x0) := fun _ => fun _ h => by cases h
theorem nop : ∀ x0, Statement (.nop x0) := fun _ => fun _ h => by cases h
theorem packetComplete : ∀ x0 x1, Statement (.packetComplete x0 x1) := fun _ _ => fun _ h => by cases h
theorem budgetCharge : ∀ x0 x1 x2 x3, Statement (.budgetCharge x0 x1 x2 x3) := fun _ _ _ _ => fun _ h => by cases h
theorem hostMemrd : ∀ x0 x1, Statement (.hostMemrd x0 x1) := fun _ _ => fun _ h => by cases h
theorem hostMemrdOwnership : ∀ x0 x1, Statement (.hostMemrdOwnership x0 x1) := fun _ _ => fun _ h => by cases h
theorem hostMemwr : ∀ x0 x1, Statement (.hostMemwr x0 x1) := fun _ _ => fun _ h => by cases h
theorem birsp : ∀ x0 x1, Statement (.birsp x0 x1) := fun _ _ => fun _ h => by cases h
theorem msgTrainBeats : ∀ x0, Statement (.msgTrainBeats x0) := fun _ => fun _ h => by cases h
theorem msgTrainAck : ∀ x0, Statement (.msgTrainAck x0) := fun _ => fun _ h => by cases h
theorem msgReadRequest : ∀ x0, Statement (.msgReadRequest x0) := fun _ => fun _ h => by cases h
theorem msgReadResponse : ∀ x0, Statement (.msgReadResponse x0) := fun _ => fun _ h => by cases h
theorem msgAtomicRequest : ∀ x0, Statement (.msgAtomicRequest x0) := fun _ => fun _ h => by cases h
theorem msgAtomicResponse : ∀ x0, Statement (.msgAtomicResponse x0) := fun _ => fun _ h => by cases h
theorem msgTime : ∀ x0, Statement (.msgTime x0) := fun _ => fun _ h => by cases h
theorem msgRetransmit : ∀ x0 x1, Statement (.msgRetransmit x0 x1) := fun _ _ => fun _ h => by cases h
theorem msgUnreachable : ∀ x0 x1, Statement (.msgUnreachable x0 x1) := fun _ _ => fun _ h => by cases h
theorem idleTimeSend : ∀ x0, Statement (.idleTimeSend x0) := fun _ => fun _ h => by cases h
theorem ilaWrite : ∀ x0 x1, Statement (.ilaWrite x0 x1) := fun _ _ => fun _ h => by cases h
theorem ptrootWrite : ∀ x0 x1, Statement (.ptrootWrite x0 x1) := fun _ _ => fun _ h => by cases h
theorem mthWrite : ∀ x0 x1, Statement (.mthWrite x0 x1) := fun _ _ => fun _ h => by cases h
theorem refctlWrite : ∀ x0 x1, Statement (.refctlWrite x0 x1) := fun _ _ => fun _ h => by cases h
theorem fwshareWrite : ∀ x0 x1, Statement (.fwshareWrite x0 x1) := fun _ _ => fun _ h => by cases h
theorem frmWrite : ∀ x0 x1, Statement (.frmWrite x0 x1) := fun _ _ => fun _ h => by cases h
theorem leaseWrite : ∀ x0 x1, Statement (.leaseWrite x0 x1) := fun _ _ => fun _ h => by cases h
theorem csrRegisterWrite : ∀ x0 x1 x2, Statement (.csrRegisterWrite x0 x1 x2) := fun _ _ _ => fun _ h => by cases h
theorem startWarm : Statement .startWarm := fun _ h => by cases h
theorem startWarmZero : Statement .startWarmZero := fun _ h => by cases h
theorem startCold : Statement .startCold := fun _ h => by cases h
theorem deviceStart : ∀ x0, Statement (.deviceStart x0) := fun _ => fun _ h => by cases h
theorem barRegisterWrite : ∀ x0 x1, Statement (.barRegisterWrite x0 x1) := fun _ _ => fun _ h => by cases h
theorem rowSpare : ∀ x0 x1, Statement (.rowSpare x0 x1) := fun _ _ => fun _ h => by cases h
theorem bankRetireMove : ∀ x0 x1, Statement (.bankRetireMove x0 x1) := fun _ _ => fun _ h => by cases h
theorem tileRetire : ∀ x0, Statement (.tileRetire x0) := fun _ => fun _ h => by cases h
theorem linkRetrain : ∀ x0 x1, Statement (.linkRetrain x0 x1) := fun _ _ => fun _ h => by cases h
theorem unitFailure : ∀ x0, Statement (.unitFailure x0) := fun _ => fun _ h => by cases h
theorem clusterWarmRestart : ∀ x0, Statement (.clusterWarmRestart x0) := fun _ => fun _ h => by cases h
theorem mctpControl : ∀ x0, Statement (.mctpControl x0) := fun _ => fun _ h => by cases h
theorem getVersion : ∀ x0, Statement (.getVersion x0) := fun _ => fun _ h => by cases h
theorem getCapabilities : ∀ x0, Statement (.getCapabilities x0) := fun _ => fun _ h => by cases h
theorem negotiateAlgorithms : ∀ x0, Statement (.negotiateAlgorithms x0) := fun _ => fun _ h => by cases h
theorem getDigests : ∀ x0, Statement (.getDigests x0) := fun _ => fun _ h => by cases h
theorem getCertificate : ∀ x0, Statement (.getCertificate x0) := fun _ => fun _ h => by cases h
theorem challenge : ∀ x0, Statement (.challenge x0) := fun _ => fun _ h => by cases h
theorem getMeasurements : ∀ x0, Statement (.getMeasurements x0) := fun _ => fun _ h => by cases h
theorem keyExchange : ∀ x0, Statement (.keyExchange x0) := fun _ => fun _ h => by cases h
theorem finish : ∀ x0, Statement (.finish x0) := fun _ => fun _ h => by cases h
theorem endSession : ∀ x0, Statement (.endSession x0) := fun _ => fun _ h => by cases h
theorem readLog : ∀ x0, Statement (.readLog x0) := fun _ => fun _ h => by cases h
theorem readStatus : Statement .readStatus := fun _ h => by cases h
theorem setPlimit : ∀ x0, Statement (.setPlimit x0) := fun _ => fun _ h => by cases h
theorem restart : ∀ x0 x1 x2, Statement (.restart x0 x1 x2) := fun _ _ _ => fun _ h => by cases h
theorem commitSvn : ∀ x0, Statement (.commitSvn x0) := fun _ => fun _ h => by cases h
theorem firmwareUpdate : ∀ x0, Statement (.firmwareUpdate x0) := fun _ => fun _ h => by cases h
theorem throttleTick : ∀ x0 x1, Statement (.throttleTick x0 x1) := fun _ _ => fun _ h => by cases h
theorem statusBlockWrite : Statement .statusBlockWrite := fun _ h => by cases h
theorem thermalTrip : ∀ x0, Statement (.thermalTrip x0) := fun _ => fun _ h => by cases h
theorem thermalRecovery : ∀ x0, Statement (.thermalRecovery x0) := fun _ => fun _ h => by cases h
theorem hostSnoop : ∀ x0, Statement (.hostSnoop x0) := fun _ => fun _ h => by cases h
theorem hostCompletion : ∀ x0 x1, Statement (.hostCompletion x0 x1) := fun _ _ => fun _ h => by cases h
theorem peerTableWrite : ∀ x0 x1, Statement (.peerTableWrite x0 x1) := fun _ _ => fun _ h => by cases h
theorem fabricEnumeration : ∀ x0, Statement (.fabricEnumeration x0) := fun _ => fun _ h => by cases h
theorem encodePassEnd : ∀ x0 x1, Statement (.encodePassEnd x0 x1) := fun _ _ => fun _ h => by cases h
theorem qcopy : ∀ x0 x1, Statement (.qcopy x0 x1) := fun _ _ => fun _ h => by cases h
theorem qnot : ∀ x0 x1, Statement (.qnot x0 x1) := fun _ _ => fun _ h => by cases h
theorem qmaj : ∀ x0, Statement (.qmaj x0) := fun _ => fun _ h => by cases h
theorem qshl : ∀ x0 x1, Statement (.qshl x0 x1) := fun _ _ => fun _ h => by cases h
theorem qshr : ∀ x0 x1, Statement (.qshr x0 x1) := fun _ _ => fun _ h => by cases h
theorem qset : ∀ x0 x1 x2 x3, Statement (.qset x0 x1 x2 x3) := fun _ _ _ _ => fun _ h => by cases h
theorem qvmc : ∀ x0 x1 x2, Statement (.qvmc x0 x1 x2) := fun _ _ _ => fun _ h => by cases h
theorem qloop : ∀ x0, Statement (.qloop x0) := fun _ => fun _ h => by cases h
theorem qloopPar : ∀ x0, Statement (.qloopPar x0) := fun _ => fun _ h => by cases h
theorem qend : Statement .qend := fun _ h => by cases h
theorem qskip : ∀ x0 x1 x2 x3 x4, Statement (.qskip x0 x1 x2 x3 x4) := fun _ _ _ _ _ => fun _ h => by cases h
theorem qsafe : Statement .qsafe := fun _ h => by cases h
theorem qret : Statement .qret := fun _ h => by cases h
theorem rds : ∀ x0, Statement (.rds x0) := fun _ => fun _ h => by cases h; rfl
theorem rdv : ∀ x0, Statement (.rdv x0) := fun _ => fun _ h => by cases h; rfl
theorem rdm : ∀ x0, Statement (.rdm x0) := fun _ => fun _ h => by cases h; rfl
theorem wrs : ∀ x0, Statement (.wrs x0) := fun _ => fun _ h => by cases h; rfl
theorem wrv : ∀ x0, Statement (.wrv x0) := fun _ => fun _ h => by cases h; rfl
theorem wrm : ∀ x0, Statement (.wrm x0) := fun _ => fun _ h => by cases h; rfl
theorem mov : ∀ x0, Statement (.mov x0) := fun _ => fun _ h => by cases h; rfl
theorem movExt : ∀ x0 x1, Statement (.movExt x0 x1) := fun _ _ => fun _ h => by cases h; rfl
theorem null : ∀ x0, Statement (.null x0) := fun _ => fun _ h => by cases h; rfl
theorem nullExt : ∀ x0 x1, Statement (.nullExt x0 x1) := fun _ _ => fun _ h => by cases h; rfl
theorem lit : ∀ x0 x1, Statement (.lit x0 x1) := fun _ _ => fun _ h => by cases h; rfl
theorem pcb : ∀ x0, Statement (.pcb x0) := fun _ => fun _ h => by cases h; rfl
theorem pcbExt : ∀ x0 x1, Statement (.pcbExt x0 x1) := fun _ _ => fun _ h => by cases h; rfl
theorem br : ∀ x0, Statement (.br x0) := fun _ => fun _ h => by cases h; rfl
theorem bri : ∀ x0, Statement (.bri x0) := fun _ => fun _ h => by cases h; rfl
theorem call : ∀ x0, Statement (.call x0) := fun _ => fun _ h => by cases h; rfl
theorem calli : ∀ x0, Statement (.calli x0) := fun _ => fun _ h => by cases h; rfl
theorem yield : ∀ x0, Statement (.yield x0) := fun _ => fun _ h => by cases h; rfl
theorem halt : ∀ x0, Statement (.halt x0) := fun _ => fun _ h => by cases h; rfl
theorem sysc : ∀ x0, Statement (.sysc x0) := fun _ => fun _ h => by cases h; rfl
theorem trap : ∀ x0 x1, Statement (.trap x0 x1) := by
  rintro x0 x1 r h
  cases h
  simp [Raw.instr, asPX, asX, asBV, asV, asM, asBX, asPP, asK, ibOf_encIb, bitOf_ofNat, setWidth_ofNat_mod, extract_ofNat, bool_dec]
theorem eret : ∀ x0, Statement (.eret x0) := fun _ => fun _ h => by cases h; rfl
theorem csrr : ∀ x0 x1 x2, Statement (.csrr x0 x1 x2) := by
  rintro x0 x1 x2 r h
  cases h
  simp [Raw.instr, asPX, asX, asBV, asV, asM, asBX, asPP, asK, ibOf_encIb, bitOf_ofNat, setWidth_ofNat_mod, extract_ofNat, bool_dec]
theorem csrw : ∀ x0 x1, Statement (.csrw x0 x1) := by
  rintro x0 x1 r h
  cases h
  simp [Raw.instr, asPX, asX, asBV, asV, asM, asBX, asPP, asK, ibOf_encIb, bitOf_ofNat, setWidth_ofNat_mod, extract_ofNat, bool_dec]
theorem icinv : ∀ x0, Statement (.icinv x0) := fun _ => fun _ h => by cases h; rfl
theorem tlbinv : ∀ x0, Statement (.tlbinv x0) := fun _ => fun _ h => by cases h; rfl
theorem setvl : ∀ x0, Statement (.setvl x0) := fun _ => fun _ h => by cases h; rfl
theorem lclaim : ∀ x0, Statement (.lclaim x0) := fun _ => fun _ h => by cases h; rfl
theorem add : ∀ x0, Statement (.add x0) := fun _ => fun _ h => by cases h; rfl
theorem addImm : ∀ x0 x1, Statement (.addImm x0 x1) := fun _ _ => fun _ h => by cases h; rfl
theorem sub : ∀ x0, Statement (.sub x0) := fun _ => fun _ h => by cases h; rfl
theorem subImm : ∀ x0 x1, Statement (.subImm x0 x1) := fun _ _ => fun _ h => by cases h; rfl
theorem mul : ∀ x0, Statement (.mul x0) := fun _ => fun _ h => by cases h; rfl
theorem mulImm : ∀ x0 x1, Statement (.mulImm x0 x1) := fun _ _ => fun _ h => by cases h; rfl
theorem mulh : ∀ x0, Statement (.mulh x0) := fun _ => fun _ h => by cases h; rfl
theorem mulhImm : ∀ x0 x1, Statement (.mulhImm x0 x1) := fun _ _ => fun _ h => by cases h; rfl
theorem mulhn : ∀ x0, Statement (.mulhn x0) := fun _ => fun _ h => by cases h; rfl
theorem mulhnImm : ∀ x0 x1, Statement (.mulhnImm x0 x1) := fun _ _ => fun _ h => by cases h; rfl
theorem div : ∀ x0, Statement (.div x0) := fun _ => fun _ h => by cases h; rfl
theorem divImm : ∀ x0 x1, Statement (.divImm x0 x1) := fun _ _ => fun _ h => by cases h; rfl
theorem divn : ∀ x0, Statement (.divn x0) := fun _ => fun _ h => by cases h; rfl
theorem divnImm : ∀ x0 x1, Statement (.divnImm x0 x1) := fun _ _ => fun _ h => by cases h; rfl
theorem rem : ∀ x0, Statement (.rem x0) := fun _ => fun _ h => by cases h; rfl
theorem remImm : ∀ x0 x1, Statement (.remImm x0 x1) := fun _ _ => fun _ h => by cases h; rfl
theorem remn : ∀ x0, Statement (.remn x0) := fun _ => fun _ h => by cases h; rfl
theorem remnImm : ∀ x0 x1, Statement (.remnImm x0 x1) := fun _ _ => fun _ h => by cases h; rfl
theorem and : ∀ x0, Statement (.and x0) := fun _ => fun _ h => by cases h; rfl
theorem andImm : ∀ x0 x1, Statement (.andImm x0 x1) := fun _ _ => fun _ h => by cases h; rfl
theorem or : ∀ x0, Statement (.or x0) := fun _ => fun _ h => by cases h; rfl
theorem orImm : ∀ x0 x1, Statement (.orImm x0 x1) := fun _ _ => fun _ h => by cases h; rfl
theorem xor : ∀ x0, Statement (.xor x0) := fun _ => fun _ h => by cases h; rfl
theorem xorImm : ∀ x0 x1, Statement (.xorImm x0 x1) := fun _ _ => fun _ h => by cases h; rfl
theorem andn : ∀ x0, Statement (.andn x0) := fun _ => fun _ h => by cases h; rfl
theorem andnImm : ∀ x0 x1, Statement (.andnImm x0 x1) := fun _ _ => fun _ h => by cases h; rfl
theorem shl : ∀ x0, Statement (.shl x0) := fun _ => fun _ h => by cases h; rfl
theorem shlImm : ∀ x0 x1, Statement (.shlImm x0 x1) := fun _ _ => fun _ h => by cases h; rfl
theorem shr : ∀ x0, Statement (.shr x0) := fun _ => fun _ h => by cases h; rfl
theorem shrImm : ∀ x0 x1, Statement (.shrImm x0 x1) := fun _ _ => fun _ h => by cases h; rfl
theorem sra : ∀ x0, Statement (.sra x0) := fun _ => fun _ h => by cases h; rfl
theorem sraImm : ∀ x0 x1, Statement (.sraImm x0 x1) := fun _ _ => fun _ h => by cases h; rfl
theorem rotl : ∀ x0, Statement (.rotl x0) := fun _ => fun _ h => by cases h; rfl
theorem rotlImm : ∀ x0 x1, Statement (.rotlImm x0 x1) := fun _ _ => fun _ h => by cases h; rfl
theorem min : ∀ x0, Statement (.min x0) := fun _ => fun _ h => by cases h; rfl
theorem minImm : ∀ x0 x1, Statement (.minImm x0 x1) := fun _ _ => fun _ h => by cases h; rfl
theorem max : ∀ x0, Statement (.max x0) := fun _ => fun _ h => by cases h; rfl
theorem maxImm : ∀ x0 x1, Statement (.maxImm x0 x1) := fun _ _ => fun _ h => by cases h; rfl
theorem minn : ∀ x0, Statement (.minn x0) := fun _ => fun _ h => by cases h; rfl
theorem minnImm : ∀ x0 x1, Statement (.minnImm x0 x1) := fun _ _ => fun _ h => by cases h; rfl
theorem maxn : ∀ x0, Statement (.maxn x0) := fun _ => fun _ h => by cases h; rfl
theorem maxnImm : ∀ x0 x1, Statement (.maxnImm x0 x1) := fun _ _ => fun _ h => by cases h; rfl
theorem clz : ∀ x0, Statement (.clz x0) := fun _ => fun _ h => by cases h; rfl
theorem clzExt : ∀ x0 x1, Statement (.clzExt x0 x1) := fun _ _ => fun _ h => by cases h; rfl
theorem ctz : ∀ x0, Statement (.ctz x0) := fun _ => fun _ h => by cases h; rfl
theorem ctzExt : ∀ x0 x1, Statement (.ctzExt x0 x1) := fun _ _ => fun _ h => by cases h; rfl
theorem popc : ∀ x0, Statement (.popc x0) := fun _ => fun _ h => by cases h; rfl
theorem popcExt : ∀ x0 x1, Statement (.popcExt x0 x1) := fun _ _ => fun _ h => by cases h; rfl
theorem bswap : ∀ x0, Statement (.bswap x0) := fun _ => fun _ h => by cases h; rfl
theorem bswapExt : ∀ x0 x1, Statement (.bswapExt x0 x1) := fun _ _ => fun _ h => by cases h; rfl
theorem sext : ∀ x0, Statement (.sext x0) := fun _ => fun _ h => by cases h; rfl
theorem sextImm : ∀ x0 x1, Statement (.sextImm x0 x1) := fun _ _ => fun _ h => by cases h; rfl
theorem zext : ∀ x0, Statement (.zext x0) := fun _ => fun _ h => by cases h; rfl
theorem zextImm : ∀ x0 x1, Statement (.zextImm x0 x1) := fun _ _ => fun _ h => by cases h; rfl
theorem bfx : ∀ x0, Statement (.bfx x0) := fun _ => fun _ h => by cases h; rfl
theorem bfxImm : ∀ x0 x1, Statement (.bfxImm x0 x1) := fun _ _ => fun _ h => by cases h; rfl
theorem bfi : ∀ x0, Statement (.bfi x0) := fun _ => fun _ h => by cases h; rfl
theorem bfiImm : ∀ x0 x1, Statement (.bfiImm x0 x1) := fun _ _ => fun _ h => by cases h; rfl
theorem sel : ∀ x0, Statement (.sel x0) := fun _ => fun _ h => by cases h; rfl
theorem selImm : ∀ x0 x1, Statement (.selImm x0 x1) := fun _ _ => fun _ h => by cases h; rfl
theorem teq : ∀ x0, Statement (.teq x0) := fun _ => fun _ h => by cases h; rfl
theorem teqImm : ∀ x0 x1, Statement (.teqImm x0 x1) := fun _ _ => fun _ h => by cases h; rfl
theorem tne : ∀ x0, Statement (.tne x0) := fun _ => fun _ h => by cases h; rfl
theorem tneImm : ∀ x0 x1, Statement (.tneImm x0 x1) := fun _ _ => fun _ h => by cases h; rfl
theorem tlt : ∀ x0, Statement (.tlt x0) := fun _ => fun _ h => by cases h; rfl
theorem tltImm : ∀ x0 x1, Statement (.tltImm x0 x1) := fun _ _ => fun _ h => by cases h; rfl
theorem tle : ∀ x0, Statement (.tle x0) := fun _ => fun _ h => by cases h; rfl
theorem tleImm : ∀ x0 x1, Statement (.tleImm x0 x1) := fun _ _ => fun _ h => by cases h; rfl
theorem tltn : ∀ x0, Statement (.tltn x0) := fun _ => fun _ h => by cases h; rfl
theorem tltnImm : ∀ x0 x1, Statement (.tltnImm x0 x1) := fun _ _ => fun _ h => by cases h; rfl
theorem tlen : ∀ x0, Statement (.tlen x0) := fun _ => fun _ h => by cases h; rfl
theorem tlenImm : ∀ x0 x1, Statement (.tlenImm x0 x1) := fun _ _ => fun _ h => by cases h; rfl
theorem tbit : ∀ x0, Statement (.tbit x0) := fun _ => fun _ h => by cases h; rfl
theorem tbitImm : ∀ x0 x1, Statement (.tbitImm x0 x1) := fun _ _ => fun _ h => by cases h; rfl
theorem sptest : ∀ x0, Statement (.sptest x0) := fun _ => fun _ h => by cases h; rfl
theorem sptestExt : ∀ x0 x1, Statement (.sptestExt x0 x1) := fun _ _ => fun _ h => by cases h; rfl
theorem spcast : ∀ x0, Statement (.spcast x0) := fun _ => fun _ h => by cases h; rfl
theorem spcastImm : ∀ x0 x1, Statement (.spcastImm x0 x1) := fun _ _ => fun _ h => by cases h; rfl
theorem padd : ∀ x0, Statement (.padd x0) := fun _ => fun _ h => by cases h; rfl
theorem paddImm : ∀ x0 x1, Statement (.paddImm x0 x1) := fun _ _ => fun _ h => by cases h; rfl
theorem vadd : ∀ x0, Statement (.vadd x0) := fun _ => fun _ h => by cases h; rfl
theorem vaddExt : ∀ x0 x1, Statement (.vaddExt x0 x1) := fun _ _ => fun _ h => by cases h; rfl
theorem vsub : ∀ x0, Statement (.vsub x0) := fun _ => fun _ h => by cases h; rfl
theorem vsubExt : ∀ x0 x1, Statement (.vsubExt x0 x1) := fun _ _ => fun _ h => by cases h; rfl
theorem vmul : ∀ x0, Statement (.vmul x0) := fun _ => fun _ h => by cases h; rfl
theorem vmulExt : ∀ x0 x1, Statement (.vmulExt x0 x1) := fun _ _ => fun _ h => by cases h; rfl
theorem vmulw : ∀ x0, Statement (.vmulw x0) := fun _ => fun _ h => by cases h; rfl
theorem vmulwExt : ∀ x0 x1 x2, Statement (.vmulwExt x0 x1 x2) := by
  rintro x0 x1 x2 r h
  cases h
  simp [Raw.instr, asPX, asX, asBV, asV, asM, asBX, asPP, asK, ibOf_encIb, bitOf_ofNat, setWidth_ofNat_mod, extract_ofNat, bool_dec]
  cases x2 <;> rfl
theorem vfma : ∀ x0, Statement (.vfma x0) := fun _ => fun _ h => by cases h; rfl
theorem vfmaExt : ∀ x0 x1, Statement (.vfmaExt x0 x1) := fun _ _ => fun _ h => by cases h; rfl
theorem vfms : ∀ x0, Statement (.vfms x0) := fun _ => fun _ h => by cases h; rfl
theorem vfmsExt : ∀ x0 x1, Statement (.vfmsExt x0 x1) := fun _ _ => fun _ h => by cases h; rfl
theorem vdiv : ∀ x0, Statement (.vdiv x0) := fun _ => fun _ h => by cases h; rfl
theorem vdivExt : ∀ x0 x1, Statement (.vdivExt x0 x1) := fun _ _ => fun _ h => by cases h; rfl
theorem vsqrt : ∀ x0, Statement (.vsqrt x0) := fun _ => fun _ h => by cases h; rfl
theorem vsqrtExt : ∀ x0 x1, Statement (.vsqrtExt x0 x1) := fun _ _ => fun _ h => by cases h; rfl
theorem vrcp : ∀ x0, Statement (.vrcp x0) := fun _ => fun _ h => by cases h; rfl
theorem vrcpExt : ∀ x0 x1, Statement (.vrcpExt x0 x1) := fun _ _ => fun _ h => by cases h; rfl
theorem vrsq : ∀ x0, Statement (.vrsq x0) := fun _ => fun _ h => by cases h; rfl
theorem vrsqExt : ∀ x0 x1, Statement (.vrsqExt x0 x1) := fun _ _ => fun _ h => by cases h; rfl
theorem vexp2 : ∀ x0, Statement (.vexp2 x0) := fun _ => fun _ h => by cases h; rfl
theorem vexp2Ext : ∀ x0 x1, Statement (.vexp2Ext x0 x1) := fun _ _ => fun _ h => by cases h; rfl
theorem vlog2 : ∀ x0, Statement (.vlog2 x0) := fun _ => fun _ h => by cases h; rfl
theorem vlog2Ext : ∀ x0 x1, Statement (.vlog2Ext x0 x1) := fun _ _ => fun _ h => by cases h; rfl
theorem vmin : ∀ x0, Statement (.vmin x0) := fun _ => fun _ h => by cases h; rfl
theorem vminExt : ∀ x0 x1, Statement (.vminExt x0 x1) := fun _ _ => fun _ h => by cases h; rfl
theorem vmax : ∀ x0, Statement (.vmax x0) := fun _ => fun _ h => by cases h; rfl
theorem vmaxExt : ∀ x0 x1, Statement (.vmaxExt x0 x1) := fun _ _ => fun _ h => by cases h; rfl
theorem vabs : ∀ x0, Statement (.vabs x0) := fun _ => fun _ h => by cases h; rfl
theorem vabsExt : ∀ x0 x1, Statement (.vabsExt x0 x1) := fun _ _ => fun _ h => by cases h; rfl
theorem vneg : ∀ x0, Statement (.vneg x0) := fun _ => fun _ h => by cases h; rfl
theorem vnegExt : ∀ x0 x1, Statement (.vnegExt x0 x1) := fun _ _ => fun _ h => by cases h; rfl
theorem vand : ∀ x0, Statement (.vand x0) := fun _ => fun _ h => by cases h; rfl
theorem vandExt : ∀ x0 x1, Statement (.vandExt x0 x1) := fun _ _ => fun _ h => by cases h; rfl
theorem vor : ∀ x0, Statement (.vor x0) := fun _ => fun _ h => by cases h; rfl
theorem vorExt : ∀ x0 x1, Statement (.vorExt x0 x1) := fun _ _ => fun _ h => by cases h; rfl
theorem vxor : ∀ x0, Statement (.vxor x0) := fun _ => fun _ h => by cases h; rfl
theorem vxorExt : ∀ x0 x1, Statement (.vxorExt x0 x1) := fun _ _ => fun _ h => by cases h; rfl
theorem vnot : ∀ x0, Statement (.vnot x0) := fun _ => fun _ h => by cases h; rfl
theorem vnotExt : ∀ x0 x1, Statement (.vnotExt x0 x1) := fun _ _ => fun _ h => by cases h; rfl
theorem vshl : ∀ x0, Statement (.vshl x0) := fun _ => fun _ h => by cases h; rfl
theorem vshlExt : ∀ x0 x1 x2, Statement (.vshlExt x0 x1 x2) := by
  rintro x0 x1 x2 r h
  cases h
  simp [Raw.instr, asPX, asX, asBV, asV, asM, asBX, asPP, asK, ibOf_encIb, bitOf_ofNat, setWidth_ofNat_mod, extract_ofNat, bool_dec]
theorem vshr : ∀ x0, Statement (.vshr x0) := fun _ => fun _ h => by cases h; rfl
theorem vshrExt : ∀ x0 x1 x2, Statement (.vshrExt x0 x1 x2) := by
  rintro x0 x1 x2 r h
  cases h
  simp [Raw.instr, asPX, asX, asBV, asV, asM, asBX, asPP, asK, ibOf_encIb, bitOf_ofNat, setWidth_ofNat_mod, extract_ofNat, bool_dec]
theorem vsra : ∀ x0, Statement (.vsra x0) := fun _ => fun _ h => by cases h; rfl
theorem vsraExt : ∀ x0 x1 x2, Statement (.vsraExt x0 x1 x2) := by
  rintro x0 x1 x2 r h
  cases h
  simp [Raw.instr, asPX, asX, asBV, asV, asM, asBX, asPP, asK, ibOf_encIb, bitOf_ofNat, setWidth_ofNat_mod, extract_ofNat, bool_dec]
theorem vceq : ∀ x0, Statement (.vceq x0) := fun _ => fun _ h => by cases h; rfl
theorem vceqExt : ∀ x0 x1, Statement (.vceqExt x0 x1) := fun _ _ => fun _ h => by cases h; rfl
theorem vcne : ∀ x0, Statement (.vcne x0) := fun _ => fun _ h => by cases h; rfl
theorem vcneExt : ∀ x0 x1, Statement (.vcneExt x0 x1) := fun _ _ => fun _ h => by cases h; rfl
theorem vclt : ∀ x0, Statement (.vclt x0) := fun _ => fun _ h => by cases h; rfl
theorem vcltExt : ∀ x0 x1, Statement (.vcltExt x0 x1) := fun _ _ => fun _ h => by cases h; rfl
theorem vcle : ∀ x0, Statement (.vcle x0) := fun _ => fun _ h => by cases h; rfl
theorem vcleExt : ∀ x0 x1, Statement (.vcleExt x0 x1) := fun _ _ => fun _ h => by cases h; rfl
theorem vcun : ∀ x0, Statement (.vcun x0) := fun _ => fun _ h => by cases h; rfl
theorem vcunExt : ∀ x0 x1, Statement (.vcunExt x0 x1) := fun _ _ => fun _ h => by cases h; rfl
theorem vclass : ∀ x0, Statement (.vclass x0) := fun _ => fun _ h => by cases h; rfl
theorem vclassExt : ∀ x0 x1 x2, Statement (.vclassExt x0 x1 x2) := by
  rintro x0 x1 x2 r h
  cases h
  simp [Raw.instr, asPX, asX, asBV, asV, asM, asBX, asPP, asK, ibOf_encIb, bitOf_ofNat, setWidth_ofNat_mod, extract_ofNat, bool_dec]
theorem vsel : ∀ x0, Statement (.vsel x0) := fun _ => fun _ h => by cases h; rfl
theorem vselExt : ∀ x0 x1, Statement (.vselExt x0 x1) := fun _ _ => fun _ h => by cases h; rfl
theorem vfill : ∀ x0 x1 x2 x3, Statement (.vfill x0 x1 x2 x3) := by
  rintro x0 x1 x2 x3 r h
  cases h
  simp [Raw.instr, asPX, asX, asBV, asV, asM, asBX, asPP, asK, ibOf_encIb, bitOf_ofNat, setWidth_ofNat_mod, extract_ofNat, bool_dec]
theorem vbcast : ∀ x0 x1 x2 x3, Statement (.vbcast x0 x1 x2 x3) := by
  rintro x0 x1 x2 x3 r h
  cases h
  simp [Raw.instr, asPX, asX, asBV, asV, asM, asBX, asPP, asK, ibOf_encIb, bitOf_ofNat, setWidth_ofNat_mod, extract_ofNat, bool_dec]
theorem vid : ∀ x0 x1 x2, Statement (.vid x0 x1 x2) := by
  rintro x0 x1 x2 r h
  cases h
  simp [Raw.instr, asPX, asX, asBV, asV, asM, asBX, asPP, asK, ibOf_encIb, bitOf_ofNat, setWidth_ofNat_mod, extract_ofNat, bool_dec]
theorem vcvt : ∀ x0 x1 x2, Statement (.vcvt x0 x1 x2) := by
  rintro x0 x1 x2 r h
  cases h
  simp [Raw.instr, asPX, asX, asBV, asV, asM, asBX, asPP, asK, ibOf_encIb, bitOf_ofNat, setWidth_ofNat_mod, extract_ofNat, bool_dec]
theorem vscale : ∀ x0, Statement (.vscale x0) := fun _ => fun _ h => by cases h; rfl
theorem vscaleExt : ∀ x0 x1 x2, Statement (.vscaleExt x0 x1 x2) := by
  rintro x0 x1 x2 r h
  cases h
  simp [Raw.instr, asPX, asX, asBV, asV, asM, asBX, asPP, asK, ibOf_encIb, bitOf_ofNat, setWidth_ofNat_mod, extract_ofNat, bool_dec]
theorem vtag : ∀ x0 x1 x2, Statement (.vtag x0 x1 x2) := by
  rintro x0 x1 x2 r h
  cases h
  simp [Raw.instr, asPX, asX, asBV, asV, asM, asBX, asPP, asK, ibOf_encIb, bitOf_ofNat, setWidth_ofNat_mod, extract_ofNat, bool_dec]
theorem vsum : ∀ x0, Statement (.vsum x0) := fun _ => fun _ h => by cases h; rfl
theorem vsumExt : ∀ x0 x1, Statement (.vsumExt x0 x1) := fun _ _ => fun _ h => by cases h; rfl
theorem vrmax : ∀ x0, Statement (.vrmax x0) := fun _ => fun _ h => by cases h; rfl
theorem vrmaxExt : ∀ x0 x1, Statement (.vrmaxExt x0 x1) := fun _ _ => fun _ h => by cases h; rfl
theorem vrmin : ∀ x0, Statement (.vrmin x0) := fun _ => fun _ h => by cases h; rfl
theorem vrminExt : ∀ x0 x1, Statement (.vrminExt x0 x1) := fun _ _ => fun _ h => by cases h; rfl
theorem vdot : ∀ x0, Statement (.vdot x0) := fun _ => fun _ h => by cases h; rfl
theorem vdotExt : ∀ x0 x1 x2, Statement (.vdotExt x0 x1 x2) := by
  rintro x0 x1 x2 r h
  cases h
  simp [Raw.instr, asPX, asX, asBV, asV, asM, asBX, asPP, asK, ibOf_encIb, bitOf_ofNat, setWidth_ofNat_mod, extract_ofNat, bool_dec]
  cases x2 <;> rfl
theorem vperm : ∀ x0, Statement (.vperm x0) := fun _ => fun _ h => by cases h; rfl
theorem vpermExt : ∀ x0 x1, Statement (.vpermExt x0 x1) := fun _ _ => fun _ h => by cases h; rfl
theorem vrot : ∀ x0, Statement (.vrot x0) := fun _ => fun _ h => by cases h; rfl
theorem vrotExt : ∀ x0 x1 x2, Statement (.vrotExt x0 x1 x2) := by
  rintro x0 x1 x2 r h
  cases h
  simp [Raw.instr, asPX, asX, asBV, asV, asM, asBX, asPP, asK, ibOf_encIb, bitOf_ofNat, setWidth_ofNat_mod, extract_ofNat, bool_dec]
theorem vslide : ∀ x0, Statement (.vslide x0) := fun _ => fun _ h => by cases h; rfl
theorem vslideExt : ∀ x0 x1 x2 x3, Statement (.vslideExt x0 x1 x2 x3) := by
  rintro x0 x1 x2 x3 r h
  cases h
  simp [Raw.instr, asPX, asX, asBV, asV, asM, asBX, asPP, asK, ibOf_encIb, bitOf_ofNat, setWidth_ofNat_mod, extract_ofNat, bool_dec]
  exact ⟨ibOf_slide x2 x3, bitOf_slide x2 x3⟩
theorem vcomp : ∀ x0, Statement (.vcomp x0) := fun _ => fun _ h => by cases h; rfl
theorem vcompExt : ∀ x0 x1, Statement (.vcompExt x0 x1) := fun _ _ => fun _ h => by cases h; rfl
theorem vexpd : ∀ x0, Statement (.vexpd x0) := fun _ => fun _ h => by cases h; rfl
theorem vexpdExt : ∀ x0 x1, Statement (.vexpdExt x0 x1) := fun _ _ => fun _ h => by cases h; rfl
theorem vext : ∀ x0, Statement (.vext x0) := fun _ => fun _ h => by cases h; rfl
theorem vextExt : ∀ x0 x1 x2, Statement (.vextExt x0 x1 x2) := by
  rintro x0 x1 x2 r h
  cases h
  simp [Raw.instr, asPX, asX, asBV, asV, asM, asBX, asPP, asK, ibOf_encIb, bitOf_ofNat, setWidth_ofNat_mod, extract_ofNat, bool_dec]
theorem vins : ∀ x0, Statement (.vins x0) := fun _ => fun _ h => by cases h; rfl
theorem vinsExt : ∀ x0 x1 x2, Statement (.vinsExt x0 x1 x2) := by
  rintro x0 x1 x2 r h
  cases h
  simp [Raw.instr, asPX, asX, asBV, asV, asM, asBX, asPP, asK, ibOf_encIb, bitOf_ofNat, setWidth_ofNat_mod, extract_ofNat, bool_dec]
theorem mand : ∀ x0, Statement (.mand x0) := fun _ => fun _ h => by cases h; rfl
theorem mandExt : ∀ x0 x1, Statement (.mandExt x0 x1) := fun _ _ => fun _ h => by cases h; rfl
theorem mor : ∀ x0, Statement (.mor x0) := fun _ => fun _ h => by cases h; rfl
theorem morExt : ∀ x0 x1, Statement (.morExt x0 x1) := fun _ _ => fun _ h => by cases h; rfl
theorem mxor : ∀ x0, Statement (.mxor x0) := fun _ => fun _ h => by cases h; rfl
theorem mxorExt : ∀ x0 x1, Statement (.mxorExt x0 x1) := fun _ _ => fun _ h => by cases h; rfl
theorem mnot : ∀ x0, Statement (.mnot x0) := fun _ => fun _ h => by cases h; rfl
theorem mnotExt : ∀ x0 x1, Statement (.mnotExt x0 x1) := fun _ _ => fun _ h => by cases h; rfl
theorem mpop : ∀ x0, Statement (.mpop x0) := fun _ => fun _ h => by cases h; rfl
theorem mpopExt : ∀ x0 x1, Statement (.mpopExt x0 x1) := fun _ _ => fun _ h => by cases h; rfl
theorem mfirst : ∀ x0, Statement (.mfirst x0) := fun _ => fun _ h => by cases h; rfl
theorem mfirstExt : ∀ x0 x1, Statement (.mfirstExt x0 x1) := fun _ _ => fun _ h => by cases h; rfl
theorem ld : ∀ x0 x1, Statement (.ld x0 x1) := fun _ _ => fun _ h => by cases h; rfl
theorem st : ∀ x0 x1 x2, Statement (.st x0 x1 x2) := fun _ _ _ => fun _ h => by cases h; rfl
theorem vld : ∀ x0 x1 x2, Statement (.vld x0 x1 x2) := by
  rintro x0 x1 x2 r h
  cases h
  simp [Raw.instr, asPX, asX, asBV, asV, asM, asBX, asPP, asK, ibOf_encIb, bitOf_ofNat, setWidth_ofNat_mod, extract_ofNat, bool_dec]
theorem vlds : ∀ x0 x1 x2, Statement (.vlds x0 x1 x2) := by
  rintro x0 x1 x2 r h
  cases h
  simp [Raw.instr, asPX, asX, asBV, asV, asM, asBX, asPP, asK, ibOf_encIb, bitOf_ofNat, setWidth_ofNat_mod, extract_ofNat, bool_dec]
theorem vldx : ∀ x0 x1 x2, Statement (.vldx x0 x1 x2) := by
  rintro x0 x1 x2 r h
  cases h
  simp [Raw.instr, asPX, asX, asBV, asV, asM, asBX, asPP, asK, ibOf_encIb, bitOf_ofNat, setWidth_ofNat_mod, extract_ofNat, bool_dec]
theorem vldff : ∀ x0 x1 x2, Statement (.vldff x0 x1 x2) := by
  rintro x0 x1 x2 r h
  cases h
  simp [Raw.instr, asPX, asX, asBV, asV, asM, asBX, asPP, asK, ibOf_encIb, bitOf_ofNat, setWidth_ofNat_mod, extract_ofNat, bool_dec]
theorem vst : ∀ x0 x1, Statement (.vst x0 x1) := fun _ _ => fun _ h => by cases h; rfl
theorem vsts : ∀ x0 x1, Statement (.vsts x0 x1) := fun _ _ => fun _ h => by cases h; rfl
theorem vstx : ∀ x0 x1, Statement (.vstx x0 x1) := fun _ _ => fun _ h => by cases h; rfl
theorem vsadd : ∀ x0 x1, Statement (.vsadd x0 x1) := fun _ _ => fun _ h => by cases h; rfl
theorem aadd : ∀ x0 x1 x2, Statement (.aadd x0 x1 x2) := fun _ _ _ => fun _ h => by cases h; rfl
theorem aswap : ∀ x0 x1 x2, Statement (.aswap x0 x1 x2) := fun _ _ _ => fun _ h => by cases h; rfl
theorem acas : ∀ x0 x1 x2, Statement (.acas x0 x1 x2) := fun _ _ _ => fun _ h => by cases h; rfl
theorem amin : ∀ x0 x1 x2, Statement (.amin x0 x1 x2) := fun _ _ _ => fun _ h => by cases h; rfl
theorem amax : ∀ x0 x1 x2, Statement (.amax x0 x1 x2) := fun _ _ _ => fun _ h => by cases h; rfl
theorem aand : ∀ x0 x1 x2, Statement (.aand x0 x1 x2) := fun _ _ _ => fun _ h => by cases h; rfl
theorem aor : ∀ x0 x1 x2, Statement (.aor x0 x1 x2) := fun _ _ _ => fun _ h => by cases h; rfl
theorem axor : ∀ x0 x1 x2, Statement (.axor x0 x1 x2) := fun _ _ _ => fun _ h => by cases h; rfl
theorem wjoin : ∀ x0, Statement (.wjoin x0) := fun _ => fun _ h => by cases h; rfl
theorem wjoinImm : ∀ x0 x1, Statement (.wjoinImm x0 x1) := fun _ _ => fun _ h => by cases h; rfl
theorem wfloor : ∀ x0, Statement (.wfloor x0) := fun _ => fun _ h => by cases h; rfl
theorem wfloorExt : ∀ x0, Statement (.wfloorExt x0) := fun _ => fun _ h => by cases h; rfl
theorem wnow : ∀ x0, Statement (.wnow x0) := fun _ => fun _ h => by cases h; rfl
theorem wnowExt : ∀ x0 x1, Statement (.wnowExt x0 x1) := fun _ _ => fun _ h => by cases h; rfl
theorem wtest : ∀ x0, Statement (.wtest x0) := fun _ => fun _ h => by cases h; rfl
theorem wtestExt : ∀ x0 x1 x2, Statement (.wtestExt x0 x1 x2) := by
  rintro x0 x1 x2 r h
  cases h
  simp [Raw.instr, asPX, asX, asBV, asV, asM, asBX, asPP, asK, ibOf_encIb, bitOf_ofNat, setWidth_ofNat_mod, extract_ofNat, bool_dec]
theorem mwait : ∀ x0 x1 x2, Statement (.mwait x0 x1 x2) := fun _ _ _ => fun _ h => by cases h; rfl
theorem bar : ∀ x0, Statement (.bar x0) := fun _ => fun _ h => by cases h; rfl
theorem barExt : ∀ x0 x1 x2 x3 x4, Statement (.barExt x0 x1 x2 x3 x4) := by
  rintro x0 x1 x2 x3 x4 r h
  cases h
  simp [Raw.instr, asPX, asX, asBV, asV, asM, asBX, asPP, asK, ibOf_encIb, bitOf_ofNat, setWidth_ofNat_mod, extract_ofNat, bool_dec]
  have hb := bool_enc x4
  have h2 := x2.isLt
  have h3 := x3.isLt
  refine ⟨ofNat_of_mod _ _ (by omega), ofNat_of_mod _ _ (by omega), decide_bit (by omega)⟩
theorem claimel : ∀ x0 x1 x2, Statement (.claimel x0 x1 x2) := fun _ _ _ => fun _ h => by cases h; rfl
theorem pref : ∀ x0 x1, Statement (.pref x0 x1) := fun _ _ => fun _ h => by cases h; rfl
theorem mclaim : ∀ x0, Statement (.mclaim x0) := fun _ => fun _ h => by cases h; rfl
theorem mrel : ∀ x0, Statement (.mrel x0) := fun _ => fun _ h => by cases h; rfl
theorem mmul : ∀ x0 x1 x2 x3 x4, Statement (.mmul x0 x1 x2 x3 x4) := by
  rintro x0 x1 x2 x3 x4 r h
  cases h
  simp [Raw.instr, asPX, asX, asBV, asV, asM, asBX, asPP, asK, ibOf_encIb, bitOf_ofNat, setWidth_ofNat_mod, extract_ofNat, bool_dec]
  have hb := bool_enc x4
  have h1 := x1.isLt
  have h3 := x3.isLt
  have ha : encAcc x2 < 3 := by cases x2 <;> decide
  refine ⟨ofNat_of_mod _ _ (by omega), ?_, ofNat_of_mod _ _ (by omega), ?_⟩
  · have : fld ((x1.toNat + 512 * encAcc x2 + 2048 * x3.toNat + 131072 * encBool x4) % 4294967296) 9 4 = encAcc x2 := by unfold fld; omega
    rw [this]; cases x2 <;> rfl
  · exact decide_bit (by omega)
theorem mrd : ∀ x0 x1 x2 x3 x4, Statement (.mrd x0 x1 x2 x3 x4) := by
  rintro x0 x1 x2 x3 x4 r h
  cases h
  simp [Raw.instr, asPX, asX, asBV, asV, asM, asBX, asPP, asK, ibOf_encIb, bitOf_ofNat, setWidth_ofNat_mod, extract_ofNat, bool_dec]
  have h2 := x2.isLt
  have h3 := x3.isLt
  have h4 := x4.isLt
  exact ⟨ofNat_of_mod _ _ (by omega), ofNat_of_mod _ _ (by omega), ofNat_of_mod _ _ (by omega)⟩
theorem mwr : ∀ x0 x1 x2 x3, Statement (.mwr x0 x1 x2 x3) := by
  rintro x0 x1 x2 x3 r h
  cases h
  simp [Raw.instr, asPX, asX, asBV, asV, asM, asBX, asPP, asK, ibOf_encIb, bitOf_ofNat, setWidth_ofNat_mod, extract_ofNat, bool_dec]
  have h1 := x1.isLt
  have h2 := x2.isLt
  have h3 := x3.isLt
  exact ⟨ofNat_of_mod _ _ (by omega), ofNat_of_mod _ _ (by omega), ofNat_of_mod _ _ (by omega)⟩
theorem mzero : ∀ x0 x1 x2, Statement (.mzero x0 x1 x2) := by
  rintro x0 x1 x2 r h
  cases h
  simp [Raw.instr, asPX, asX, asBV, asV, asM, asBX, asPP, asK, ibOf_encIb, bitOf_ofNat, setWidth_ofNat_mod, extract_ofNat, bool_dec]
  have h1 := x1.isLt
  have h2 := x2.isLt
  exact ⟨ofNat_of_mod _ _ (by omega), ofNat_of_mod _ _ (by omega)⟩
theorem mdecay : ∀ x0, Statement (.mdecay x0) := fun _ => fun _ h => by cases h; rfl
theorem mspill : ∀ x0 x1, Statement (.mspill x0 x1) := by
  rintro x0 x1 r h
  cases h
  simp [Raw.instr, asPX, asX, asBV, asV, asM, asBX, asPP, asK, ibOf_encIb, bitOf_ofNat, setWidth_ofNat_mod, extract_ofNat, bool_dec]
  exact (unitOf_enc x1 0 (by decide))
theorem mfill : ∀ x0 x1 x2, Statement (.mfill x0 x1 x2) := by
  rintro x0 x1 x2 r h
  cases h
  simp [Raw.instr, asPX, asX, asBV, asV, asM, asBX, asPP, asK, ibOf_encIb, bitOf_ofNat, setWidth_ofNat_mod, extract_ofNat, bool_dec]
  have hu := unitOf_enc x1 (encBool x2) (bool_enc x2)
  refine ⟨hu, ?_⟩
  have hx : encUnit x1 / 4 % 2 = 0 ∧ encUnit x1 % 4 < 4 := by
    cases x1 with
    | bank b => simp only [encUnit]; omega
    | front => decide
    | back => decide
  have hb := bool_enc x2
  exact decide_bit (by omega)
theorem wcfg : ∀ x0, Statement (.wcfg x0) := fun _ => fun _ h => by cases h; rfl
theorem wtable : ∀ x0, Statement (.wtable x0) := fun _ => fun _ h => by cases h; rfl
theorem wload : ∀ x0 x1, Statement (.wload x0 x1) := by
  rintro x0 x1 r h
  cases h
  simp [Raw.instr, asPX, asX, asBV, asV, asM, asBX, asPP, asK, ibOf_encIb, bitOf_ofNat, setWidth_ofNat_mod, extract_ofNat, bool_dec]
  cases x1 <;> rfl
theorem wloada : ∀ x0 x1, Statement (.wloada x0 x1) := by
  rintro x0 x1 r h
  cases h
  simp [Raw.instr, asPX, asX, asBV, asV, asM, asBX, asPP, asK, ibOf_encIb, bitOf_ofNat, setWidth_ofNat_mod, extract_ofNat, bool_dec]
theorem wswap : ∀ x0, Statement (.wswap x0) := fun _ => fun _ h => by cases h; rfl
theorem wexp : ∀ x0 x1, Statement (.wexp x0 x1) := fun _ _ => fun _ h => by cases h; rfl
theorem wstat : ∀ x0 x1 x2, Statement (.wstat x0 x1 x2) := by
  rintro x0 x1 x2 r h
  cases h
  simp [Raw.instr, asPX, asX, asBV, asV, asM, asBX, asPP, asK, ibOf_encIb, bitOf_ofNat, setWidth_ofNat_mod, extract_ofNat, bool_dec]
  cases x2 <;> rfl
theorem plock : ∀ x0, Statement (.plock x0) := fun _ => fun _ h => by cases h; rfl
theorem plockExt : ∀ x0 x1 x2 x3, Statement (.plockExt x0 x1 x2 x3) := by
  rintro x0 x1 x2 x3 r h
  cases h
  simp [Raw.instr, asPX, asX, asBV, asV, asM, asBX, asPP, asK, ibOf_encIb, bitOf_ofNat, setWidth_ofNat_mod, extract_ofNat, bool_dec]
  cases x2 <;> cases x3 <;> exact ⟨rfl, rfl⟩
theorem punlock : ∀ x0, Statement (.punlock x0) := fun _ => fun _ h => by cases h; rfl
theorem plaunch : ∀ x0, Statement (.plaunch x0) := fun _ => fun _ h => by cases h; rfl
theorem plaunchExt : ∀ x0 x1, Statement (.plaunchExt x0 x1) := fun _ _ => fun _ h => by cases h; rfl
theorem pfence : ∀ x0, Statement (.pfence x0) := fun _ => fun _ h => by cases h; rfl
theorem pfenceExt : ∀ x0 x1, Statement (.pfenceExt x0 x1) := fun _ _ => fun _ h => by cases h; rfl
theorem pstat : ∀ x0, Statement (.pstat x0) := fun _ => fun _ h => by cases h; rfl
theorem pstatExt : ∀ x0 x1 x2, Statement (.pstatExt x0 x1 x2) := by
  rintro x0 x1 x2 r h
  cases h
  simp [Raw.instr, asPX, asX, asBV, asV, asM, asBX, asPP, asK, ibOf_encIb, bitOf_ofNat, setWidth_ofNat_mod, extract_ofNat, bool_dec]
  cases x2 <;> rfl
theorem vldp : ∀ x0 x1 x2, Statement (.vldp x0 x1 x2) := by
  rintro x0 x1 x2 r h
  cases h
  simp [Raw.instr, asPX, asX, asBV, asV, asM, asBX, asPP, asK, ibOf_encIb, bitOf_ofNat, setWidth_ofNat_mod, extract_ofNat, bool_dec]
theorem vstp : ∀ x0 x1, Statement (.vstp x0 x1) := fun _ _ => fun _ h => by cases h; rfl
theorem cpset : ∀ x0, Statement (.cpset x0) := fun _ => fun _ h => by cases h; rfl
theorem cpsetExt : ∀ x0 x1, Statement (.cpsetExt x0 x1) := by
  rintro x0 x1 r h
  cases h
  simp [Raw.instr, asPX, asX, asBV, asV, asM, asBX, asPP, asK, ibOf_encIb, bitOf_ofNat, setWidth_ofNat_mod, extract_ofNat, bool_dec]
theorem cpgo : ∀ x0, Statement (.cpgo x0) := fun _ => fun _ h => by cases h; rfl
theorem cpgoExt : ∀ x0 x1, Statement (.cpgoExt x0 x1) := fun _ _ => fun _ h => by cases h; rfl
theorem cpqf : ∀ x0, Statement (.cpqf x0) := fun _ => fun _ h => by cases h; rfl
theorem cpqfExt : ∀ x0 x1 x2, Statement (.cpqfExt x0 x1 x2) := by
  rintro x0 x1 x2 r h
  cases h
  simp [Raw.instr, asPX, asX, asBV, asV, asM, asBX, asPP, asK, ibOf_encIb, bitOf_ofNat, setWidth_ofNat_mod, extract_ofNat, bool_dec]
  have h1 := x1.isLt
  have h2 := x2.isLt
  exact ⟨ofNat_of_mod _ _ (by omega), ofNat_of_mod _ _ (by omega)⟩
theorem cpstat : ∀ x0, Statement (.cpstat x0) := fun _ => fun _ h => by cases h; rfl
theorem cpstatExt : ∀ x0 x1, Statement (.cpstatExt x0 x1) := fun _ _ => fun _ h => by cases h; rfl
theorem cpabort : ∀ x0, Statement (.cpabort x0) := fun _ => fun _ h => by cases h; rfl

end Sys2Proof.Laws.Encoding
end

