-- ==== Sys2Proof/Safety.lean ====
section
/-! DEFINITION. The terms in which statements are made: the firing of an instruction in its block, what firing leaves alone, and the
invariant of the whole device. -/
namespace Sys2Proof.Machine

/-! Firing (R20 to R25). -/
/-- The instruction `r` stands in focus and fires: its block is decoded and the slot unresolved, its operands have arrived with the types
it asks for, and its P lets it act. The firing, with its operands. -/
def State.firing (s : State) (r : Raw) : Option Firing :=
  match s.site r with
  | none => none
  | some x =>
    match decisionOf r (x.block.tok x.slot .p) with
    | .fires p => if x.ready && x.typed then some { x with p := p } else none
    | _ => none
/-- It acts: no operand is null, and P selects the whole instruction (R22, R23, R130). -/
def Firing.acts (x : Firing) : Bool := !x.anyNull && x.p.live
/-- The operands its results go to are free, and are distinct (else DUPTOKEN, R24). -/
def Firing.clear (x : Firing) : Bool :=
  let l := (x.raw.targets.filterMap id).map (fun t => (t.slot.toNat, t.opnd))
  decide l.Nodup && l.all (fun e => (x.block.tok e.1 e.2).isNone)
/-- The block in flight after the firing: the slot has fired, its effects, flags and exit are noted, its results stand at their targets. -/
def Firing.after (x : Firing) (o : Out) (b : BlockExec) : BlockExec :=
  { b with fired := b.fired ++ [x.slot], stuck := [], effects := b.effects ++ o.effs.map (fun e => ⟨x.slot, e⟩), flags := b.flags ||| o.flags,
           exit := (match o.exit with | some e => some (x.slot, e) | none => b.exit),
           toks := b.toks ++ (x.raw.sends o.main o.alt).map (fun e => ⟨e.1.slot.toNat, e.1.opnd, e.2⟩) }
/-- The device after the firing: only the block in flight has changed. -/
def Firing.done (x : Firing) (s : State) (o : Out) : State := s.updBlock x.tid x.serial (x.after o)
/-- No operand is null and P selects the instruction: what `ok` asks of a scalar one. -/
def Acts (x : Firing) : Prop := x.acts = true
/-- A scalar result, the same for every target. -/
def scalarOut (v : Word) : Out := Out.tok (.scalar v)
/-- `i` completes: wherever it fires with free targets and `ok` holds of its operands and its thread, the next state is the firing's, with
the outputs `o` gives. -/
def Completes (i : Instr) (r : Raw) (ok : Firing → Prop) (o : Firing → Out) : Prop :=
  ∀ (s : State) (x : Firing), s.firing r = some x → x.clear = true → ok x → exec i s = .next (x.done s (o x))
/-- As `Completes`, for a scalar result that a property describes. -/
def Yields (i : Instr) (r : Raw) (ok : Firing → Prop) (good : Firing → Word → Prop) : Prop :=
  ∀ (s : State) (x : Firing), s.firing r = some x → x.clear = true → ok x →
    ∃ v, exec i s = .next (x.done s (scalarOut v)) ∧ good x v
/-- As `Completes`, where firing also changes the device, as `t` gives. -/
def CompletesWith (i : Instr) (r : Raw) (ok : Firing → Prop) (t : Firing → State) (o : Firing → Out) : Prop :=
  ∀ (s : State) (x : Firing), s.firing r = some x → x.clear = true → ok x → exec i s = .next (x.done (t x) (o x))
/-- What an instruction may change besides its block as it fires: the loads and PREF ask for lines, reads of memory and of rows are served at their
homes, PFENCE raises the HORIZON, PSTAT may take a free value. All others leave everything to the commit. -/
def actsAside : Opcode → Bool
  | .ld | .vld | .vlds | .vldx | .vldff | .mwait | .pref | .wtable | .mfill | .wexp | .plock | .punlock | .plaunch | .pfence | .pstat | .vldp | .vstp => true
  | _ => false
/-- As it fires it changes no more than its block: no opcode of those, no VSTX that settles on one of equal addresses (R183), no operand with cells in
error, whose find is logged (R143). -/
def Firing.keepsToBlock (x : Firing) : Bool :=
  !actsAside x.raw.op && (x.raw.op != .vstx || x.raw.mword.ord) && [x.a, x.b, x.c].all (fun k => k.badCells.isEmpty)
/-- From `s` to `t` nothing has changed but block `serial` of thread `tid`, which is the same block. -/
def State.onlyBlock (s t : State) (tid serial : Nat) : Prop :=
  t = { s with threads := t.threads } ∧ (∀ n, n ≠ tid → t.thread n = s.thread n) ∧
  t.thread tid = { s.thread tid with flight := (t.thread tid).flight } ∧
  (∀ k, k ≠ serial → (t.thread tid).block k = (s.thread tid).block k) ∧
  (∀ b, (s.thread tid).block serial = some b → ∃ c, (t.thread tid).block serial = some c ∧ c.serial = b.serial ∧ c.addr = b.addr ∧ c.words = b.words)
/-- The slot has fired and waits for its result. -/
def Firing.waits (x : Firing) (s : State) : State :=
  s.updBlock x.tid x.serial (fun b => { b with fired := b.fired ++ [x.slot], awaiting := b.awaiting ++ [x.slot] })

/-- The word an immediate stands for (R86). -/
def immWord : Imm → Word
  | .word _ v => v.signExtend 64
  | .lit v => v
  | .litX _ v => v
/-- From `s` to `t` thread `tid` takes a trap that is not fatal (R387): the record stands in its CSRs, it is in supervisor mode at TVEC with
no block in flight; its registers, memory and every other thread are as they were. -/
def State.trapsTo (s t : State) (tid cause : Nat) (block slot addr : Word) (elem : Nat) (info : Word) : Prop :=
  let u := s.thread tid
  let v := t.thread tid
  v.flight = [] ∧ v.supervisor = true ∧ v.pc = u.tvec ∧
  v.tcause = BitVec.ofNat 64 (cause + (if u.supervisor then 256 else 0)) ∧ v.tblock = block ∧ v.tslot = slot ∧ v.taddr = addr ∧
  v.telem = BitVec.ofNat 64 elem ∧ v.tinfo = info ∧
  v.sregs = u.sregs ∧ v.vregs = u.vregs ∧ v.mregs = u.mregs ∧ v.tvec = u.tvec ∧ v.tsave = u.tsave ∧ v.vl = u.vl ∧ v.fflags = u.fflags ∧ v.frm = u.frm ∧
  v.floor = u.floor ∧ v.asid = u.asid ∧ t.mem = s.mem ∧ ∀ n, n ≠ tid → t.thread n = s.thread n
/-- The firing's block is its thread's oldest, and its trap is not fatal: a trap is taken as the instruction fires (R33, R389). -/
def Firing.mayTrap (x : Firing) : Prop := x.oldest = true ∧ x.thread.fatal x.block.addr = false

/-! Vector operands. -/
/-- The thread holds lane groups, and no SETVL, LCLAIM or CLAIMEL of an older block is outstanding (R38, R126). -/
def Firing.laned (x : Firing) : Prop := x.thread.groups ≠ 0 ∧ x.thread.vlOut = 0
/-- No operand is wholly null, nor is P (R22, R23). -/
def Firing.given (x : Firing) : Prop := x.anyNull = false ∧ x.p ≠ .null
/-- A vector operand that passes the checks of R56, R143 and R37: a tag of an accepted format and scale, no element read from a slot that
carries the none mark or from a bad cell, and room for VL elements. -/
def Firing.fine (x : Firing) (t : Token) (ok : Nat → Bool) (scaled : Bool) : Prop :=
  ∃ tag e m, t = .vector tag e m [] ∧ tagFmt tag ≠ 0 ∧ ok (tagFmt tag) = true ∧
    (tagScale tag = 127 ∨ (scaled = true ∧ isScaled (tagFmt tag) = true)) ∧
    (∀ k, (t.vec.at k).isSome = true → t.vec.isMarked k = false) ∧ x.vl ≤ capacity x.thread.vlmax (fmtOf (tagFmt tag)).width
/-- A and B, or A, B and C, are fine and of one format. -/
def Firing.vec1Ok (ok : Nat → Bool) (x : Firing) : Prop := x.laned ∧ x.given ∧ x.fine x.a ok false
def Firing.vec2Ok (ok : Nat → Bool) (x : Firing) : Prop := x.vec1Ok ok ∧ x.fine x.b ok false ∧ x.b.vec.code = x.a.vec.code
def Firing.vec3Ok (ok : Nat → Bool) (x : Firing) : Prop := x.vec2Ok ok ∧ x.fine x.c ok false ∧ x.c.vec.code = x.a.vec.code
/-- The value of a CSR at the start of the block (R117); `now` where none was taken then. -/
def Firing.startValue (x : Firing) (n : Nat) (now : Word) : Word := ((x.block.csrs.find? (fun e => e.1 == n)).map (·.2)).getD now
/-- The same blocks in the same order, but for the CSR values their CSRRs start from. -/
def sameBlocks (l m : List BlockExec) : Prop := l.map (fun b => { b with csrs := [] }) = m.map (fun b => { b with csrs := [] })
/-- What a vector instruction gives: its elements with their flags, the exception mask under XM (R71, R73). -/
def Firing.vecOut (x : Firing) (tag : BitVec 16) (r : List (Option (Word × Flags))) : Out :=
  { main := some (.vector tag (r.map (fun e => e.map (·.1))) [] []),
    alt := if x.raw.vword.xm then some (.mask (r.map (fun e => e.map (fun y => x.selects y.2)))) else none,
    flags := gatherFlags (r.map (fun e => e.map (·.2))) }
/-- What a compare gives. -/
def Firing.maskOut (x : Firing) (r : List (Option (Bool × Flags))) : Out :=
  { main := some (.mask (r.map (fun e => e.map (·.1)))),
    alt := if x.raw.vword.xm then some (.mask (r.map (fun e => e.map (fun y => x.selects y.2)))) else none,
    flags := gatherFlags (r.map (fun e => e.map (·.2))) }
/-- Elementwise results under the tag of A with SCALE 127 (R58, R145). -/
def Firing.out1 (f : Firing → Word → Word × Flags) (x : Firing) : Out := x.vecOut (plainTag x.a.vec.code) (x.map1 (f x))
def Firing.out2 (f : Firing → Word → Word → Word × Flags) (x : Firing) : Out := x.vecOut (plainTag x.a.vec.code) (x.map2 (f x))
def Firing.out3 (f : Firing → Word → Word → Word → Word × Flags) (x : Firing) : Out := x.vecOut (plainTag x.a.vec.code) (x.map3 (f x))

/-- A scalar result of a vector instruction; its exception mask has one element (R142), null where the result is (R73). -/
def Firing.sout (x : Firing) (t : Token) (f : Flags) (bits : Nat) : Out :=
  { main := some t,
    alt := if x.raw.vword.xm then some (.mask ((if t = .null then none else some (x.selects f)) :: List.replicate bits none)) else none, flags := f }
/-- Elements moved: result element e is A's element `src e`, the zero encoding, or null (R161). -/
def Firing.moved (x : Firing) (src : Nat → Option (Option Nat)) : Out :=
  x.vecOut (plainTag x.a.vec.code) ((List.range x.vl).map (fun e => match (if x.p.on e then src e else none) with
    | none => none
    | some none => some (0, 0)
    | some (some i) => (x.a.vec.at i).map (fun a => (a, 0))))
/-- A's bits, counted across its slots, as elements of another format (R157). -/
def Firing.retagged (x : Firing) (tag : BitVec 16) : Out :=
  let w := (fmtOf (tagFmt tag)).width
  let r := (List.range x.vl).map (fun e => if x.p.on e then (x.a.vec.bits (e * w) w).map (fun n => (BitVec.ofNat 64 n : Word)) else none)
  { main := some (.vector tag r x.a.vec.marked x.a.vec.bad),
    alt := if x.raw.vword.xm then some (.mask (r.map (fun e => e.map (fun _ => false)))) else none }
/-- `r` is the exact integer `v` reduced to a format (R47): clamped with the SAT flag where it does not fit, or the value of the format
that is `v` modulo 2^w, with no flag. -/
def reducedTo (f : Fmt) (sat : Bool) (v : Int) (r : Word × Flags) : Prop :=
  if sat = true ∧ v < f.minInt then intVal f r.1.toNat = f.minInt ∧ r.2 = fSAT
  else if sat = true ∧ f.maxInt < v then intVal f r.1.toNat = f.maxInt ∧ r.2 = fSAT
  else f.minInt ≤ intVal f r.1.toNat ∧ intVal f r.1.toNat ≤ f.maxInt ∧ (v - intVal f r.1.toNat) % 2 ^ f.width = 0 ∧ r.2 = 0

/-! Memory operands. -/
/-- C under WI passes R175 and R299, and the time it contributes. -/
def Firing.wOk (x : Firing) : Prop := x.raw.mword.wi = true → x.badWitness 2 x.c.word = none
def Firing.wTime (x : Firing) : Option Time := if x.raw.mword.wi then x.timeOf x.c.word else none
/-- A load's bound (R172). -/
def Firing.ldBound (x : Firing) : Time := x.bound x.wTime
/-- What a load asks for at a location: n bytes of element 0. -/
def Firing.partAt (_x : Firing) (n : Nat) (l : Loc) : LoadPart := ⟨0, l.key, n, l.va, [], l.route, l.compress, none⟩
/-- Nothing holds these reads of n bytes back (R17, R170, R171, R173), and neither the L1 nor a store of the thread has their bytes. -/
def Firing.unheld (x : Firing) (fresh forwards : Bool) (n : Nat) (oks : List (Nat × Loc)) : Prop :=
  (∀ a ∈ oks, a.2.route = .nocache ∨ a.2.route = .host → x.oldest = true) ∧
  (forwards = true → x.heldBy (oks.map (fun a => (a.2.key, n))) x.lower = .no) ∧
  x.st.ownBlocks x.tid (fresh || !forwards) (oks.map (fun a => lineOf a.2.key)) = false ∧
  x.olderHolds (fresh || !forwards) (oks.map (fun a => lineOf a.2.key)) = false ∧
  ∀ a ∈ oks, 0 < n ∧ x.st.l1Hit x.tile a.2 x.ldBound fresh = none ∧
    (forwards = true → forwarded (x.block.storesBelow (lsidNo x.raw) x.st.mem (if fresh then [] else x.olderCells)) a.2.key n = [])
/-- A scalar load of n bytes passes its checks at `l`, and its bytes must come from their home. -/
def Firing.readsAt (x : Firing) (host fresh forwards : Bool) (n : Nat) (l : Loc) : Prop :=
  x.access .read host n n 0 x.base = .ok 0 l ∧ x.unreadable [⟨0, l.key, n, l.va, [], l.route, l.compress, none⟩] = none ∧
  x.unheld fresh forwards n [(0, l)]
/-- The same of a vector load's elements. -/
def Firing.sweepsAt (x : Firing) (addrs : List (Nat × EAddr)) (n : Nat) (fresh : Bool) (oks : List (Nat × Loc)) : Prop :=
  oks ≠ [] ∧ sweep (addrs.map (fun e => x.access .read true n n e.1 e.2)) = ⟨oks, [], none⟩ ∧
  x.unreadable (oks.map (fun a => ⟨a.1, a.2.key, n, a.2.va, [], a.2.route, a.2.compress, none⟩)) = none ∧
  x.unheld fresh true n oks
/-- A prefetch at a pointer finds a cached line that the L1 lacks and room for its request (R195). -/
def Firing.prefAt (x : Firing) (p : Ptr) (l : Loc) : Prop :=
  checkPtr x.st x.who .read true p 1 1 = .ok l ∧ l.route = .cached ∧ readError x.st l.key 1 = none ∧
  x.st.l1Hit x.tile l x.thread.floor false = none ∧
  (x.st.loads.filter (fun r => x.st.tileOf r.tid == x.tile)).length < 64 ∧ x.st.ownBlocks x.tid true [lineOf l.key] = false
/-- A vector store's elements pass their checks at `oks`. -/
def Firing.storesAt (x : Firing) (kind : AccKind) (host : Bool) (oks : List (Nat × Loc)) : Prop :=
  let n := x.b.vec.fmt.width / 8
  x.storeAddrs x.b.vec.fmt.width x.active ≠ [] ∧
  sweep ((x.storeAddrs x.b.vec.fmt.width x.active).map (fun e => x.access kind host n n e.1 e.2)) = ⟨oks, [], none⟩
def Firing.storeEl (x : Firing) (a : Nat × Loc) : StoreEl :=
  ⟨a.1, a.2.key, leBytes (x.b.vec.fmt.width / 8) ((x.b.vec.at a.1).getD 0).toNat, a.2.route, a.2.compress⟩
/-- The sum of the elements of one address, in ascending order, with its flags (R185). -/
def Firing.addsAt (x : Firing) (oks : List (Nat × Loc)) (key : Nat) : Word × Flags :=
  combine x.b.vec.fmt ((oks.filter (fun b => b.2.key == key)).map (fun b => (x.b.vec.at b.1).getD 0))

/-! The matrix unit, ranges read, planes. -/
/-- The thread holds the claim, no MCLAIM of it is outstanding, and no lower-MSID instruction it depends on is open (R45, R202). -/
def Firing.claims (x : Firing) : Prop := x.thread.mclaimOut = false ∧ (x.st.tile x.tile).claimant = some x.tid ∧ x.mxWaits = false
/-- Nothing before it in program order holds the read of the n bytes at `a` back, its bound is under the ceiling, and they are `l`
(R17, R170, R171, R172). -/
def Firing.readsGive (x : Firing) (a : Word) (n : Nat) (b : Time) (l : List Byte) : Prop :=
  x.readHeld a n b = false ∧ x.lowerHold a n = .no ∧ x.st.peek (x.reader b) a n = .ok l
/-- A structure at an aligned global pointer reads so, bounded by FLOOR (R201, R241). -/
def Firing.structGives (x : Firing) (a : Word) (align n : Nat) (l : List Byte) : Prop :=
  a.extractLsb' 56 8 = 0 ∧ a.toNat % align = 0 ∧ x.readsGive a n x.thread.floor l
/-- WEXP's stream decodes to these codes (with the bytes it took) and its blocks have these entries (R236). -/
def Firing.expands (x : Firing) (codes : List Nat × Nat) (es : List (List Byte)) : Prop :=
  let m := x.view
  let rd := x.streamReader
  let size := (x.vl + 127) / 128 * entrySize m.cfg
  (x.a.word.extractLsb' 56 8 = 0 ∧ x.a.word.toNat % (if cfgWfmt m.cfg = 2 then 8 else if cfgWfmt m.cfg = 1 then 4 else 1) = 0) ∧
  (cfgWfmt m.cfg ≠ 0 ∧ cfgSp m.cfg = false ∧ tableBad m.cfg m.ftab = 0 ∧ m.backSt ≠ .filling) ∧
  x.st.underCeiling x.thread.floor = true ∧ x.readHeld x.a.word codes.2 x.thread.floor = false ∧ x.readHeld m.fp size x.thread.floor = false ∧
  (if cfgWfmt m.cfg = 2 then ransSegment rd m.cfg (m.ftab.getD []) x.a.word 0 x.vl
   else (packedSegment rd m.cfg x.a.word x.vl).map (fun c => (c, (x.vl * codeWidth m.cfg + 7) / 8))) = .ok codes ∧
  readEntries rd m.cfg m.fp (List.range ((x.vl + 127) / 128)) = .ok es
/-- A valid descriptor reads at `a`, in the region `r` (R315). -/
def Firing.descGives (x : Firing) (a : Word) (l : List Byte) (r : Region') : Prop :=
  x.structGives a 64 64 l ∧ descReserved l = false ∧ (descOf l).region x.st (clusterOfTile x.tile) = some r
/-- A and B name a valid range of a valid descriptor, whose rows translate as `use` asks (R243, R316). -/
def Firing.lockGives (x : Firing) (l : List Byte) (r : Region') (use : RowUse) : Prop :=
  x.descGives x.a.word l r ∧ rangeInfo (descOf l) x.b.word = none ∧
  (rangePairs x.b.word).any (fun e => x.st.rowWalkHeld x.who ((descOf l).va r e.1 e.2)) = false ∧
  (rangePairs x.b.word).findSome? (fun e => x.rowFault (descOf l) r use e) = none
/-- The homes serve an image read 64 bytes at a time, up to n times 64 (R254). -/
def Firing.imageRead (x : Firing) (s : State) (a : Word) (b : Time) : Nat → State
  | 0 => s
  | n + 1 => x.imageRead (x.readAt s a (64 * (n + 1)) b) a b n
/-- Rows of a launch: those its image may write, those it may read, and what each must be to the thread. -/
def launchWrites (bl : List Byte) (w : QWalk) : List (Nat × Nat) :=
  rowPairs ((List.range (bindingOf bl).nsub).map (· + (bindingOf bl).sub)) (reachRows (bindingOf bl) w.writes)
def launchReads (bl : List Byte) (w : QWalk) : List (Nat × Nat) :=
  rowPairs ((List.range (bindingOf bl).nsub).map (· + (bindingOf bl).sub))
    ((reachRows (bindingOf bl) w.reads).filter (fun k => !(reachRows (bindingOf bl) w.writes).contains k))
/-- The launch a PLAUNCH leaves to the commit. -/
def Firing.launchOf (x : Firing) (bl dl : List Byte) (r : Region') (ws : List Word32) (w : QWalk) : Launch :=
  let b := bindingOf bl
  ⟨x.thread.asid, x.thread.region, (descOf dl).cluster, x.a.word.toNat + x.thread.asid.toNat * 2 ^ 56, ws, b.bases, b.pars, b.keep,
   ((List.range b.nsub).map (· + b.sub)).map (fun i => ((descOf dl).sub i, x.rowKey (descOf dl) r (i, 0))), reachRows b w.reads, reachRows b w.writes,
   x.imageWts ws.length, x.thread.floor⟩
/-- The image at A is valid and ends within n times 64 bytes, the binding at B and its descriptor are valid, its rows lie in the window,
translate and are locked (R247, R248, R254). -/
def Firing.launchGives (x : Firing) (bl dl : List Byte) (r : Region') (n : Nat) (ws : List Word32) (w : QWalk) : Prop :=
  let b := bindingOf bl
  let d := descOf dl
  x.st.lockPending x.party = false ∧ (∃ l, x.structGives x.a.word 64 64 l) ∧ x.structGives x.b.word 64 64 bl ∧ b.bad = false ∧
  x.descGives b.desc dl r ∧ b.sub + b.nsub ≤ d.size ∧
  (1 ≤ n ∧ n ≤ 32 ∧ ∀ k, 1 ≤ k → k ≤ n → ∃ l, x.structGives x.a.word 64 (64 * k) l ∧
    (if k = n then ws = wordsFrom (16 * n) l ∧ checkImage ws b.pars = .done w ∧ worstOffence w.offences = none
     else checkImage (wordsFrom (16 * k) l) b.pars = .more)) ∧
  (w.reads ++ w.writes).all (reachOk d b) = true ∧
  (launchWrites bl w ++ launchReads bl w).any (fun e => x.st.rowWalkHeld x.who (d.va r e.1 e.2)) = false ∧
  ((launchWrites bl w).map (fun e => (e, RowUse.write)) ++ (launchReads bl w).map (fun e => (e, RowUse.read))).findSome?
    (fun e => x.rowFault d r e.2 e.1) = none ∧
  (∀ e ∈ launchWrites bl w, x.st.holdsRow d.cluster x.party (d.sub e.1) e.2 true = true) ∧
  ∀ e ∈ launchReads bl w, x.st.holdsRow d.cluster x.party (d.sub e.1) e.2 false = true
/-- The rows of a plane reference that elements `live` lie in. -/
def planePairs (q : PlaneRef) (vl : Nat) (live : List Nat) : List (Nat × Nat) :=
  rowPairs ((q.indices vl).filter (fun i => live.any (fun e => (q.first + e) / 8192 == i))) ((List.range q.width).map (· + q.row))
/-- The plane reference at the base and its descriptor are valid for elements of format f, the rows of the elements `live` translate and
are locked (R261, R315, R316). -/
def Firing.planeGives (x : Firing) (f : Fmt) (write : Bool) (live : List Nat) (p : Ptr) (rl dl : List Byte) (r : Region') : Prop :=
  let q := refOf rl
  let d := descOf dl
  x.base = .inside p ∧ x.structGives p.encode 16 16 rl ∧ refReserved rl = false ∧ q.illegal = false ∧ x.descGives q.desc dl r ∧
  (x.vl ≠ 0 → q.first + x.vl ≤ d.size * 8192 ∧ d.inWindow q.row q.width = true ∧ q.width ≤ f.width ∧ (q.tern = true → f.signed = true)) ∧
  (planePairs q x.vl live).any (fun e => x.st.rowWalkHeld x.who (d.va r e.1 e.2)) = false ∧
  (planePairs q x.vl live).findSome? (fun e => x.rowFault d r (if write then .write else .read) e) = none ∧
  ∀ e ∈ planePairs q x.vl live, x.st.holdsRow d.cluster x.party (d.sub e.1) e.2 write = true
/-- The state with the load's own lock wait ended. -/
def Firing.cleared (x : Firing) : State := { x.st with loads := x.st.loads.filter (fun l => !l.of x.tid x.serial x.slot) }
def Firing.rowsRead (x : Firing) (q : PlaneRef) (d : Desc) (r : Region') : State × List (Nat × Nat × BitVec 8192) × Option Time :=
  { x with st := x.cleared }.readRows d r x.ldBound (planePairs q x.vl x.accessed)
/-- The rows a VLDP reads hold no error, its bound is under the ceiling, no store before it is open on them, no row is locked by another
thread, and nothing at their homes holds a line back. -/
def Firing.rowsReadable (x : Firing) (q : PlaneRef) (d : Desc) (r : Region') : Prop :=
  let pairs := planePairs q x.vl x.accessed
  pairs.findSome? (x.rowError d r) = none ∧ x.st.underCeiling x.ldBound = true ∧ vstpBelow x = false ∧
  x.st.ownBlocks x.tid true (pairs.flatMap (fun e => linesOf (x.rowKey d r e) 1024)) = false ∧
  x.olderHolds true (pairs.flatMap (fun e => linesOf (x.rowKey d r e) 1024)) = false ∧
  pairs.any (fun e => (x.st.place (x.rowKey d r e)).any (fun p => x.st.rowBlocked (some x.party) p false)) = false ∧
  x.cleared.engineGate (some x.party) false .cached
    ((pairs.flatMap (fun e => linesOf (x.rowKey d r e) 1024)).map (· * 128)) = none
/-- After the rows are read HORIZON takes the greatest write time, and the block notes the versions (R308). -/
def Firing.afterRows (x : Firing) (q : PlaneRef) (d : Desc) (r : Region') : State :=
  (match (x.rowsRead q d r).2.2 with
   | some t => (x.rowsRead q d r).1.raiseHorizon x.tile t
   | none => (x.rowsRead q d r).1).updBlock x.tid x.serial
    (fun k => { k with reads := k.reads ++ { x with st := x.cleared }.rowVersions d r (planePairs q x.vl x.accessed) })

/-! Threads and loads across events. -/
/-- What a thread computes with is unchanged. -/
def Thread.sameRegs (u v : Thread) : Prop :=
  v.sregs = u.sregs ∧ v.vregs = u.vregs ∧ v.mregs = u.mregs ∧ v.vl = u.vl ∧ v.pc = u.pc ∧ v.supervisor = u.supervisor ∧ v.asid = u.asid ∧
  v.fflags = u.fflags ∧ v.frm = u.frm ∧ v.pending = u.pending ∧ v.shadow = u.shadow
/-- Its trap record is unchanged. -/
def Thread.sameTrap (u v : Thread) : Prop :=
  v.tcause = u.tcause ∧ v.tblock = u.tblock ∧ v.tslot = u.tslot ∧ v.taddr = u.taddr ∧ v.telem = u.telem ∧ v.tinfo = u.tinfo ∧ v.tvec = u.tvec ∧ v.tsave = u.tsave
/-- Both, and FLOOR, its place and its grant. -/
def Thread.keeps (u v : Thread) : Prop :=
  u.sameRegs v ∧ u.sameTrap v ∧ v.floor = u.floor ∧ v.status = u.status ∧ v.lanes = u.lanes ∧ v.team = u.team ∧ v.tile = u.tile
/-- No thread's registers, trap record, FLOOR or grant change. -/
def State.threadsKeep (s t : State) : Prop := ∀ n, (s.thread n).keeps (t.thread n)
/-- Every byte outside the cells reads as before; a cell's byte is the last one written there. -/
def Memory.writes (m m' : Memory) (cells : List Host.Cell) : Prop :=
  (∀ k, (∀ c ∈ cells, c.1 ≠ k) → readByte m' k = readByte m k) ∧ m' = writeCells m cells
/-- n bytes of memory as a load of that size delivers them (R165). -/
def loadValue (m : Memory) (k n : Nat) (sx : Bool) : Word :=
  if sx then sextW (BitVec.ofNat 64 (readNat m k n)) (8 * n) else zextW (BitVec.ofNat 64 (readNat m k n)) (8 * n)
/-- The load is the only one on its way, of n bytes within a line; its block is its thread's only one, waits for it, and its one target is free; no
committed block has returned a version that it could fall behind (R308). -/
def State.awaits (s : State) (l : LoadReq) (p : LoadPart) (b : BlockExec) (tr : TargetRef) : Prop :=
  s.loads = [l] ∧ l.parts = [p] ∧ 0 < p.size ∧ p.key % 128 + p.size ≤ 128 ∧ p.fwd = [] ∧ p.got = none ∧ (s.thread l.tid).flight = [b] ∧ b.serial = l.serial ∧
  l.slot ∈ b.awaiting ∧ b.reads = [] ∧ (s.thread l.tid).seen = [] ∧ (∃ r, b.raw l.slot = some r ∧ r.targets = [some tr, none, none]) ∧ b.tok tr.slot.toNat tr.opnd = none
/-- Its value has reached its target; the thread's registers and memory stand, and every other thread. -/
def State.loaded (s t : State) (l : LoadReq) (tr : TargetRef) (v : Word) : Prop :=
  (∃ b, (t.thread l.tid).flight = [b] ∧ l.slot ∉ b.awaiting ∧ b.tok tr.slot.toNat tr.opnd = some (.scalar v)) ∧ t.loads = [] ∧ t.mem = s.mem ∧
  (s.thread l.tid).keeps (t.thread l.tid) ∧ ∀ n, n ≠ l.tid → t.thread n = s.thread n

/-- The block that the thread commits next has one effect, of slot k, and leaves for `a`. -/
def State.commitsOne (s : State) (tid : Nat) (b : BlockExec) (k : Nat) (e : Effect) (a : Word) : Prop :=
  s.commitReady tid = some b ∧ b.effects = [⟨k, e⟩] ∧ ∃ slot, b.exit = some (slot, .goto a)
/-- The block has committed and left for `a`: the commit pointer, BLOCKS, the scalar registers of its fired register writes and FFLAGS are what it leaves,
and every byte of memory and every other thread stand. -/
def State.committed (s t : State) (tid : Nat) (b : BlockExec) (a : Word) : Prop :=
  (t.thread tid).pc = a ∧ (t.thread tid).blocks = (s.thread tid).blocks + 1 ∧ (t.thread tid).sregs = ((s.thread tid).writeRegs b s.fresh).sregs ∧
  (t.thread tid).pending = ((s.thread tid).writeRegs b s.fresh).pending ∧ (t.thread tid).fflags = fflagsAfter (s.thread tid).fflags none b.flags ∧
  t.mem = s.mem ∧ ∀ n, n ≠ tid → t.thread n = s.thread n
/-- The vector length, the vector and mask registers, FLOOR and FRM are those of a block without such an effect. -/
def State.plainly (s t : State) (tid : Nat) (b : BlockExec) : Prop :=
  (t.thread tid).vregs = ((s.thread tid).writeRegs b s.fresh).vregs ∧ (t.thread tid).mregs = ((s.thread tid).writeRegs b s.fresh).mregs ∧
  (t.thread tid).vl = (s.thread tid).vl ∧ (t.thread tid).lanes = (s.thread tid).lanes ∧ (t.thread tid).floor = (s.thread tid).floor ∧
  (t.thread tid).frm = (s.thread tid).frm
/-- Slot k's deferred result is known, and is `v`. -/
def State.knows (s t : State) (tid : Nat) (b : BlockExec) (k : Nat) (v : Word) : Prop :=
  ∃ g ∈ t.groups, g.gid = s.fresh ∧ g.tid = tid ∧ g.dests = b.destsOf k ∧ g.ready = true ∧ g.value = some v
/-- One store-class request more has left, with the thread's FLOOR. -/
def State.issues (s t : State) (tid : Nat) (kind : ReqKind) (route : Route) (w : Option Time) : Prop :=
  ∃ q, t.stores = s.stores ++ [q] ∧ q.kind = kind ∧ q.route = route ∧ q.w = joinTimes [w, (s.thread tid).spill] ∧ q.floor = some (s.thread tid).floor ∧
    q.tid = some tid ∧ q.gid = some s.fresh

/-- The block that the thread commits next holds this CSR write (R118). -/
def State.csrDue (s : State) (tid : Nat) (csr : BitVec 12) (v : Word) : Prop := ∃ b, s.commitHead tid = some b ∧ b.effs.contains (.csrw csr v) = true

/-- The write goes from among that block's effects. -/
def State.csrTaken (s : State) (tid : Nat) (csr : BitVec 12) (v : Word) : State :=
  match s.commitHead tid with
  | none => s
  | some b => s.setThread tid { s.thread tid with flight := { b with effects := dropEffect (.csrw csr v) b.effects } :: (s.thread tid).flight.drop 1 }

/-- The walk has a walker and nothing at its lines' homes holds it back (R245, R323, R412), and what it reads there (R381). -/
def State.walkOpen (s : State) (w : Walk) : Bool :=
  s.walking w && (s.engineGate none false .cached ((s.linesOfWalk w).map (· * 128))).isNone
def State.walked (s : State) (w : Walk) : WalkResult :=
  walk ((s.fetchLines false (s.linesOfWalk w)).walkPackets w.tiles (s.linesOfWalk w)) w.cluster w.asid w.va

/-! Furrow ops. -/
/-- A lock request, with the cluster whose home has it. -/
def State.lockReq (s : State) (id : Nat) : Option (Nat × LockReq) :=
  (List.range 8).findSome? (fun c => ((s.cluster c).lockReqs.find? (·.id == id)).map (fun q => (c, q)))
/-- A request meets no lock, no earlier request, room, and nothing at its rows' home to wait for (R244). -/
def State.mayGrant (s : State) (c : Nat) (q : LockReq) : Bool :=
  let k := s.cluster c
  (k.conflict q.lock).isNone && !k.earlier q && decide (k.locks.length < 1024) && q.launch.all (fun e => k.hasRoom e.1) && !s.arrivedStore c q.lock &&
    !s.unripe q.lock.lines &&
    (s.snoopWait q.lock.lines true).isNone && (s.rowsWait c q.lock).isNone
/-- The times the next rows of an op's encode pass take (R250). -/
def State.encodeTimes (s : State) (c : Nat) (o : FieldOp) : List Time := o.encodeNext.map (fun x => s.encodeTime c o.launch.floor x.1 x.2)
/-- The op runs, in focus, with one subarray `e` in its pass. -/
def State.opRuns (s : State) (c : Nat) (o : FieldOp) (e : Nat × Nat) : Prop :=
  s.focus = .op c o.seq ∧ s.findOp c o.seq = some o ∧ o.state = .running ∧ o.passSubs = [e]
/-- After a word of `n` steps the op stands at the next word, at a safe point only where the word takes no step. -/
def State.opStands (t : State) (c : Nat) (o : FieldOp) (n pc : Nat) (loops : List (Nat × Nat × Nat)) : Prop :=
  ∃ p, t.findOp c o.seq = some p ∧ p.state = .running ∧ p.pc = pc ∧ p.loops = loops ∧ p.steps = o.steps + n ∧ p.safe = (if n = 0 then o.safe else false) ∧
    p.launch = o.launch ∧ p.pass = o.pass
/-- A row that a word may write: a data row, or one of B0 to N1 (R255). -/
def writableRow (d : BitVec 10) : Prop := ∀ c, rowOp d.toNat = .special c → c < 10
/-- Only row d of the subarray `e` differs, in memory and among the special rows. -/
def State.onlyRow (s t : State) (o : FieldOp) (e : Nat × Nat) (d : BitVec 10) : Prop :=
  match rowOp d.toNat with
  | .special c => t.mem = s.mem ∧ ∀ k, k ≠ e.1 * 16 + c → mget 0 t.specials k = mget 0 s.specials k
  | .data k l off => t.specials = s.specials ∧
      ∀ j, (j < e.2 + o.dataRow k l off * 1024 ∨ e.2 + o.dataRow k l off * 1024 + 1024 ≤ j) → readByte t.mem j = readByte s.mem j
/-- Only row d of the subarrays `l` differs. -/
def State.onlyRows (s t : State) (o : FieldOp) (l : List (Nat × Nat)) (d : BitVec 10) : Prop :=
  match rowOp d.toNat with
  | .special c => t.mem = s.mem ∧ ∀ k, (∀ e ∈ l, k ≠ e.1 * 16 + c) → mget 0 t.specials k = mget 0 s.specials k
  | .data k n off => t.specials = s.specials ∧
      ∀ j, (∀ e ∈ l, j < e.2 + o.dataRow k n off * 1024 ∨ e.2 + o.dataRow k n off * 1024 + 1024 ≤ j) → readByte t.mem j = readByte s.mem j

/-! Errors in DRAM (R431, R435). -/
/-- A log of less than 4,096 records takes the record of an error of a class in line l, whose place is p. -/
def State.notes (s t : State) (p : Place) (cls l : Nat) : Prop :=
  ∃ info, (t.cluster p.cluster).log = (s.cluster p.cluster).log ++
    [logWords s.cycle cls 0 (p.cluster * 8192 + logPc p.pc % 8192) (logWhere p) (l * 128) info]
/-- A patrol read of a row has met its marked lines: a correctable one is good, an uncorrectable one poisoned. -/
def State.scrubbed (s t : State) (bank row : Nat) : Prop :=
  (∀ l ∈ s.markedLines bank row, t.errOf l = (match s.errOf l with | .correctable _ => .ok | .uncorrectable => .poisoned | m => m)) ∧
  ∀ l, l ∉ s.markedLines bank row → t.errOf l = s.errOf l
/-- The request stands first in a bank that serves it: no op computes there, and no refresh and no refresh management is due (R426). -/
def State.serves (s : State) (bank : Nat) (q : DramReq) (rest : List DramReq) : Prop :=
  (s.bank bank).queue = q :: rest ∧ (s.bank bank).backoff = false ∧ (s.bank bank).debt = 0 ∧ s.computing bank = false ∧ s.codeOf bank q.row = .ok
/-- The request is the oldest that the op in the bank lets in, and nothing stands before an insertion (R323). -/
def State.inserts (s : State) (bank : Nat) (q : DramReq) : Prop :=
  (s.bank bank).backoff = false ∧ (s.bank bank).inserted = false ∧ s.codeOf bank q.row = .ok ∧
  ∃ o, s.opIn bank = some o ∧ (s.bank bank).queue.find? (mayInsert o bank) = some q ∧ s.refreshDue o = false
/-- One activation of a bank's row has been counted (R428). -/
def State.counted (s t : State) (bank row : Nat) : Prop := t.counter bank row = Nat.min 65535 (s.counter bank row + 1)

/-! Copies. -/
/-- The entry stands first in its queue, and no other transfer there has its sequence number. -/
def State.copyHead (s : State) (tile queue : Nat) (e : CopyEntry) (rest : List CopyEntry) : Prop :=
  (s.copyQueue tile queue).entries = e :: rest ∧ e.fence = none ∧ ∀ x ∈ rest, x.seq ≠ e.seq

/-- The first entry of a queue has a strip to begin: nothing ends or holds its transfer, the engine has a slot, and its bound, which is `b`, is under the
ceiling (R329, R330, R340, R341). -/
def State.stripNext (s : State) (tile queue : Nat) (e : CopyEntry) (b : Time) : Prop :=
  e.inFlight = false ∧ e.stamping = none ∧ e.abort = none ∧ e.failWit = none ∧ e.strip < Shadow.strips e.view ∧ (s.tile tile).stripsInFlight < 4 ∧
  s.entryHeld e = false ∧ s.ownerStops e.owner = false ∧ b = s.entryBoundOf (s.copyQueue tile queue) e ∧ s.underCeiling b = true
/-- So, and its tags stand, with no free of an allocation under them under way (R333). -/
def State.stripDue (s : State) (tile queue : Nat) (e : CopyEntry) (b : Time) : Prop :=
  s.stripNext tile queue e b ∧ (e.begun = true → e.tags = s.tagsOf e.view) ∧ s.freesUnder (s.tagsOf e.view) = false
/-- Its elements, each with where it is read and written, pass their checks, their sources lie on this device and nothing at their homes holds them back,
and no other queue comes first. -/
def State.stripReads (s : State) (tile queue : Nat) (e : CopyEntry) (b : Time) (l : List (Loc × Loc)) : Prop :=
  checkStrip s ⟨tile, e.asid, e.supervisor⟩ b e.view e.strip (Shadow.stripEls e.view e.strip) = .ok l ∧ s.outwaited tile queue = false ∧
  s.sourcesWait tile e b (l.map (·.1)) = none ∧
  ∀ y ∈ l, isFarLoc y.1 = false ∧ y.2.route ≠ .host ∧ y.2.key % 128 + Shadow.esz e.view ≤ 128
/-- The value of an element as it is read. -/
def State.elVal (s : State) (e : CopyEntry) (y : Loc × Loc) : Word := bytesWord (readBytes s.mem y.1.key (Shadow.esz e.view))
/-- The entry after its strip has begun under the bound `b`. -/
def CopyEntry.goesOn (e x : CopyEntry) (b : Time) : Prop :=
  x.inFlight = true ∧ x.begun = true ∧ x.strip = e.strip ∧ x.bound = some b ∧ x.seq = e.seq
/-- A store-class request of a copy, timed above `b`. -/
def StoreReq.copies (q : StoreReq) (tile queue : Nat) (b : Time) : Prop := q.w = some b ∧ q.floor = some b ∧ q.copy = some (tile, queue) ∧ q.tid = none
/-- The cells a request writes, and the elements it folds. -/
def ReqKind.cells : ReqKind → List Host.Cell | .write c => c | _ => []
def ReqKind.folded : ReqKind → List FoldEl | .folds l => l | _ => []
/-- It has ended its strips, or stops, and its stamp is to be written (R270, R334). -/
def State.stampDue (s : State) (e : CopyEntry) : Prop :=
  e.stamping = none ∧ e.inFlight = false ∧ (Shadow.strips e.view ≤ e.strip ∨ e.failWit.isSome = true ∨ e.abort.isSome = true) ∧
  s.entryHeld e = false ∧ s.ownerStops e.owner = false
/-- A train's next elements `e :: r`, all of one line, may be performed at their home `h` (R304, R338, R339). -/
def State.trainDue (s : State) (u : Train) (e : TrainEl) (r : List TrainEl) (h : Nat) : Prop :=
  u.here = true ∧ u.ready = true ∧ u.lineEls = e :: r ∧ s.trainTurn u (lineOf e.key) = true ∧ s.trainHome u e.key = some h ∧
  (e :: r).all (s.trainOwns u) = true ∧ s.underCeiling (s.storeTime h (lineOf e.key) u.w u.floor (nocacheRoute e.route)) = true ∧
  s.underCeiling ((s.packetTo u.tile h).storeTime h (lineOf e.key) u.w u.floor (nocacheRoute e.route)) = true ∧
  s.engineGate u.who true e.route [e.key] = none ∧ (s.line (lineOf e.key)).bad = false ∧ s.lineBad e.key = false

/-! Queues. -/
/-- The packet is the first in progress with this SEQ that has had its effect (R359). -/
def State.completes (s : State) (q seq : Nat) (p : PacketRec) : Prop :=
  (s.queue q).active.find? (fun p => p.seq == seq && (s.packetResult q p).isSome) = some p
/-- A team of lower priority that runs on a tile, or is being pre-empted there (R372). -/
def State.lower (s : State) (n tile : Nat) (x : Team) : Bool := (x.runsOn s tile || x.stopsOn s tile) && s.prioOf x.asid x.region < n
/-- A packet of a type stands at the queue's head and passes its checks: reserved bytes zero, fields in range, FENCE satisfied (R357, R358),
the queue bound under the ceiling (R360). -/
def State.headIs (s : State) (q : Nat) (p : PacketRec) (type : Nat) (rsv : List (Nat × Nat)) (range : PacketRec → Bool) : Prop :=
  (s.queue q).head = some p ∧ p.type = type ∧ (∀ r ∈ rsv, p.dirty r.1 r.2 = false) ∧ p.cstamp % 8 = 0 ∧ range p = true ∧
  (p.fenced = true → (s.queue q).active = []) ∧ s.underCeiling (s.queueBound q) = true
/-- A region that is attached, under the queue's attached ROOT, and not killed. -/
def State.regionIs (s : State) (q : Nat) (a : Word) (r : Region) : Prop :=
  (s.region (s.queue q).asid (s.queue q).root).isSome = true ∧ s.region (s.queue q).asid a = some r ∧ s.underRoot q a = true ∧ r.killed = false
/-- Nothing holds back the store of the queue's control block and those at `extra`, and `u` is the device after it (R356). -/
def State.advances (s : State) (q : Nat) (extra : List Loc) (u : State) : Prop :=
  s.frontGate (s.qcbLoc q :: extra) = none ∧ s.advance q none = some u
/-- The packet has started and stands among those in progress. -/
def State.startedAs (t u : State) (q : Nat) (p : PacketRec) : Prop := (t.queue q).active = (u.queue q).active ++ [{ p with started := true }]
/-- n bytes read for the queue at a pointer: aligned, readable. -/
def State.givesBytes (s : State) (q : Nat) (w : Who) (a : Word) (align n : Nat) (l : List Byte) : Prop :=
  a.toNat % align = 0 ∧ s.peek (s.frontReader q w) a n = .ok l
/-- The queue's control block and head slot can be read, and the block, once read, is `c` with nothing wrong with it (R353, R354). -/
def State.qcbReads (s : State) (q : Nat) (c : Qcb) : Prop :=
  s.frontWait q (s.qcbKey q) = none ∧ ((s.readQcb q).queue q).view = c ∧ ((s.readQcb q).queue q).awake = true ∧ (s.readQcb q).qcbCode q = none

/-! Peers. -/
/-- A message of a type that nothing refuses, the next of its stream where it has one; `s.heard m` is the device once the ceiling
and the clock of the slice that receives for the device have risen (R300, R302; log entry 22). -/
def State.heard (s : State) (m : Msg) : State := State.raiseClock { s with ceiling := serialMax s.ceiling m.time } 0 m.time
def State.hears (s : State) (m : Msg) (type : Nat) : Prop := s.refuses m = false ∧ m.type = type
def State.next (s : State) (m : Msg) (type : Nat) : Prop := s.hears m type ∧ (s.stream m.dev m.tile).expected = m.seq
/-- A request of a peer for an address of this device, at its home (R416, R417), where nothing holds it back; `u` is the device once the clock there
has risen to the message's time. -/
def State.peerServed (s : State) (m : Msg) (write : Bool) (h : Nat) (u : State) : Prop :=
  s.asidServed m.asid = true ∧ m.pa < Config.dramBytes ∧ homeOf s m.pa = some h ∧ u = (s.raiseClock h m.time).scrubHeld h (lineOf m.pa) ∧
  u.streamWrites m (lineOf m.pa) = false ∧ u.engineGate none write .cached [m.pa] = none ∧ u.lineBad m.pa = false

/-! The device. -/
/-- Memory stands in its canonical form. -/
def State.memOk (s : State) : Prop := s.mem.wf = true

end Sys2Proof.Machine
end

