-- ==== Sys2Proof/Certificates/Slice0/Obligations.lean ====
section
/-! DEFINITION. The statements for the provers. -/
open Sys2Proof Sys2Proof.Machine

/-- R128 and R48: the results of ADD, SUB, MUL, MULH, MULHN, DIV, DIVN, REM and REMN in both their forms. -/
def Obligations.ScalarArithmetic : Prop :=
  (∀ b, Completes (.add b) ⟨.add, .b b⟩ (Acts) (fun x => scalarOut (x.a.word + x.b.word))) ∧
  (∀ b m, Completes (.addImm b m) ⟨.add, .imm b m⟩ (Acts) (fun x => scalarOut (x.a.word + x.b.word))) ∧
  (∀ b, Completes (.sub b) ⟨.sub, .b b⟩ (Acts) (fun x => scalarOut (x.a.word - x.b.word))) ∧
  (∀ b m, Completes (.subImm b m) ⟨.sub, .imm b m⟩ (Acts) (fun x => scalarOut (x.a.word - x.b.word))) ∧
  (∀ b, Completes (.mul b) ⟨.mul, .b b⟩ (Acts) (fun x => scalarOut (x.a.word * x.b.word))) ∧
  (∀ b m, Completes (.mulImm b m) ⟨.mul, .imm b m⟩ (Acts) (fun x => scalarOut (x.a.word * x.b.word))) ∧
  (∀ b, Completes (.mulh b) ⟨.mulh, .b b⟩ (Acts) (fun x => scalarOut (BitVec.ofInt 64 (x.a.word.toInt * x.b.word.toInt / 2 ^ 64)))) ∧
  (∀ b m, Completes (.mulhImm b m) ⟨.mulh, .imm b m⟩ (Acts) (fun x => scalarOut (BitVec.ofInt 64 (x.a.word.toInt * x.b.word.toInt / 2 ^ 64)))) ∧
  (∀ b, Completes (.mulhn b) ⟨.mulhn, .b b⟩ (Acts) (fun x => scalarOut (BitVec.ofNat 64 (x.a.word.toNat * x.b.word.toNat / 2 ^ 64)))) ∧
  (∀ b m, Completes (.mulhnImm b m) ⟨.mulhn, .imm b m⟩ (Acts) (fun x => scalarOut (BitVec.ofNat 64 (x.a.word.toNat * x.b.word.toNat / 2 ^ 64)))) ∧
  (∀ b, Completes (.div b) ⟨.div, .b b⟩ (Acts) (fun x => scalarOut (if x.b.word = 0 then BitVec.allOnes 64 else x.a.word.sdiv x.b.word))) ∧
  (∀ b m, Completes (.divImm b m) ⟨.div, .imm b m⟩ (Acts) (fun x => scalarOut (if x.b.word = 0 then BitVec.allOnes 64 else x.a.word.sdiv x.b.word))) ∧
  (∀ b, Completes (.divn b) ⟨.divn, .b b⟩ (Acts) (fun x => scalarOut (if x.b.word = 0 then BitVec.allOnes 64 else x.a.word / x.b.word))) ∧
  (∀ b m, Completes (.divnImm b m) ⟨.divn, .imm b m⟩ (Acts) (fun x => scalarOut (if x.b.word = 0 then BitVec.allOnes 64 else x.a.word / x.b.word))) ∧
  (∀ b, Completes (.rem b) ⟨.rem, .b b⟩ (Acts) (fun x => scalarOut (if x.b.word = 0 then x.a.word else x.a.word.srem x.b.word))) ∧
  (∀ b m, Completes (.remImm b m) ⟨.rem, .imm b m⟩ (Acts) (fun x => scalarOut (if x.b.word = 0 then x.a.word else x.a.word.srem x.b.word))) ∧
  (∀ b, Completes (.remn b) ⟨.remn, .b b⟩ (Acts) (fun x => scalarOut (if x.b.word = 0 then x.a.word else x.a.word % x.b.word))) ∧
  (∀ b m, Completes (.remnImm b m) ⟨.remn, .imm b m⟩ (Acts) (fun x => scalarOut (if x.b.word = 0 then x.a.word else x.a.word % x.b.word)))

/-- R128: the results of AND, OR, XOR, ANDN, SHL, SHR, SRA and ROTL in both their forms. -/
def Obligations.ScalarLogicAndShifts : Prop :=
  (∀ b, Completes (.and b) ⟨.and, .b b⟩ (Acts) (fun x => scalarOut (x.a.word &&& x.b.word))) ∧
  (∀ b m, Completes (.andImm b m) ⟨.and, .imm b m⟩ (Acts) (fun x => scalarOut (x.a.word &&& x.b.word))) ∧
  (∀ b, Completes (.or b) ⟨.or, .b b⟩ (Acts) (fun x => scalarOut (x.a.word ||| x.b.word))) ∧
  (∀ b m, Completes (.orImm b m) ⟨.or, .imm b m⟩ (Acts) (fun x => scalarOut (x.a.word ||| x.b.word))) ∧
  (∀ b, Completes (.xor b) ⟨.xor, .b b⟩ (Acts) (fun x => scalarOut (x.a.word ^^^ x.b.word))) ∧
  (∀ b m, Completes (.xorImm b m) ⟨.xor, .imm b m⟩ (Acts) (fun x => scalarOut (x.a.word ^^^ x.b.word))) ∧
  (∀ b, Completes (.andn b) ⟨.andn, .b b⟩ (Acts) (fun x => scalarOut (x.a.word &&& ~~~x.b.word))) ∧
  (∀ b m, Completes (.andnImm b m) ⟨.andn, .imm b m⟩ (Acts) (fun x => scalarOut (x.a.word &&& ~~~x.b.word))) ∧
  (∀ b, Completes (.shl b) ⟨.shl, .b b⟩ (Acts) (fun x => scalarOut (x.a.word <<< (x.b.word.toNat % 64)))) ∧
  (∀ b m, Completes (.shlImm b m) ⟨.shl, .imm b m⟩ (Acts) (fun x => scalarOut (x.a.word <<< (x.b.word.toNat % 64)))) ∧
  (∀ b, Completes (.shr b) ⟨.shr, .b b⟩ (Acts) (fun x => scalarOut (x.a.word >>> (x.b.word.toNat % 64)))) ∧
  (∀ b m, Completes (.shrImm b m) ⟨.shr, .imm b m⟩ (Acts) (fun x => scalarOut (x.a.word >>> (x.b.word.toNat % 64)))) ∧
  (∀ b, Completes (.sra b) ⟨.sra, .b b⟩ (Acts) (fun x => scalarOut (x.a.word.sshiftRight (x.b.word.toNat % 64)))) ∧
  (∀ b m, Completes (.sraImm b m) ⟨.sra, .imm b m⟩ (Acts) (fun x => scalarOut (x.a.word.sshiftRight (x.b.word.toNat % 64)))) ∧
  (∀ b, Completes (.rotl b) ⟨.rotl, .b b⟩ (Acts) (fun x => scalarOut (x.a.word.rotateLeft (x.b.word.toNat % 64)))) ∧
  (∀ b m, Completes (.rotlImm b m) ⟨.rotl, .imm b m⟩ (Acts) (fun x => scalarOut (x.a.word.rotateLeft (x.b.word.toNat % 64))))

/-- R128 and R129: the results of MIN, MAX, MINN, MAXN, SEL and the tests in both their forms. -/
def Obligations.ScalarComparesAndSelects : Prop :=
  (∀ b, Completes (.min b) ⟨.min, .b b⟩ (Acts) (fun x => scalarOut (if x.a.word.toInt ≤ x.b.word.toInt then x.a.word else x.b.word))) ∧
  (∀ b m, Completes (.minImm b m) ⟨.min, .imm b m⟩ (Acts) (fun x => scalarOut (if x.a.word.toInt ≤ x.b.word.toInt then x.a.word else x.b.word))) ∧
  (∀ b, Completes (.max b) ⟨.max, .b b⟩ (Acts) (fun x => scalarOut (if x.a.word.toInt ≤ x.b.word.toInt then x.b.word else x.a.word))) ∧
  (∀ b m, Completes (.maxImm b m) ⟨.max, .imm b m⟩ (Acts) (fun x => scalarOut (if x.a.word.toInt ≤ x.b.word.toInt then x.b.word else x.a.word))) ∧
  (∀ b, Completes (.minn b) ⟨.minn, .b b⟩ (Acts) (fun x => scalarOut (if x.a.word.toNat ≤ x.b.word.toNat then x.a.word else x.b.word))) ∧
  (∀ b m, Completes (.minnImm b m) ⟨.minn, .imm b m⟩ (Acts) (fun x => scalarOut (if x.a.word.toNat ≤ x.b.word.toNat then x.a.word else x.b.word))) ∧
  (∀ b, Completes (.maxn b) ⟨.maxn, .b b⟩ (Acts) (fun x => scalarOut (if x.a.word.toNat ≤ x.b.word.toNat then x.b.word else x.a.word))) ∧
  (∀ b m, Completes (.maxnImm b m) ⟨.maxn, .imm b m⟩ (Acts) (fun x => scalarOut (if x.a.word.toNat ≤ x.b.word.toNat then x.b.word else x.a.word))) ∧
  (∀ b, Completes (.teq b) ⟨.teq, .b b⟩ (Acts) (fun x => scalarOut (if x.a.word = x.b.word then 1 else 0))) ∧
  (∀ b m, Completes (.teqImm b m) ⟨.teq, .imm b m⟩ (Acts) (fun x => scalarOut (if x.a.word = x.b.word then 1 else 0))) ∧
  (∀ b, Completes (.tne b) ⟨.tne, .b b⟩ (Acts) (fun x => scalarOut (if x.a.word = x.b.word then 0 else 1))) ∧
  (∀ b m, Completes (.tneImm b m) ⟨.tne, .imm b m⟩ (Acts) (fun x => scalarOut (if x.a.word = x.b.word then 0 else 1))) ∧
  (∀ b, Completes (.tlt b) ⟨.tlt, .b b⟩ (Acts) (fun x => scalarOut (if x.a.word.toInt < x.b.word.toInt then 1 else 0))) ∧
  (∀ b m, Completes (.tltImm b m) ⟨.tlt, .imm b m⟩ (Acts) (fun x => scalarOut (if x.a.word.toInt < x.b.word.toInt then 1 else 0))) ∧
  (∀ b, Completes (.tle b) ⟨.tle, .b b⟩ (Acts) (fun x => scalarOut (if x.a.word.toInt ≤ x.b.word.toInt then 1 else 0))) ∧
  (∀ b m, Completes (.tleImm b m) ⟨.tle, .imm b m⟩ (Acts) (fun x => scalarOut (if x.a.word.toInt ≤ x.b.word.toInt then 1 else 0))) ∧
  (∀ b, Completes (.tltn b) ⟨.tltn, .b b⟩ (Acts) (fun x => scalarOut (if x.a.word.toNat < x.b.word.toNat then 1 else 0))) ∧
  (∀ b m, Completes (.tltnImm b m) ⟨.tltn, .imm b m⟩ (Acts) (fun x => scalarOut (if x.a.word.toNat < x.b.word.toNat then 1 else 0))) ∧
  (∀ b, Completes (.tlen b) ⟨.tlen, .b b⟩ (Acts) (fun x => scalarOut (if x.a.word.toNat ≤ x.b.word.toNat then 1 else 0))) ∧
  (∀ b m, Completes (.tlenImm b m) ⟨.tlen, .imm b m⟩ (Acts) (fun x => scalarOut (if x.a.word.toNat ≤ x.b.word.toNat then 1 else 0))) ∧
  (∀ b, Completes (.tbit b) ⟨.tbit, .b b⟩ (Acts) (fun x => scalarOut (if x.a.word.getLsbD (x.b.word.toNat % 64) then 1 else 0))) ∧
  (∀ b m, Completes (.tbitImm b m) ⟨.tbit, .imm b m⟩ (Acts) (fun x => scalarOut (if x.a.word.getLsbD (x.b.word.toNat % 64) then 1 else 0))) ∧
  (∀ b, Completes (.sel b) ⟨.sel, .b b⟩ (Acts) (fun x => scalarOut (if x.c.word.getLsbD 0 then x.a.word else x.b.word))) ∧
  (∀ b m, Completes (.selImm b m) ⟨.sel, .imm b m⟩ (Acts) (fun x => scalarOut (if x.c.word.getLsbD 0 then x.a.word else x.b.word)))

/-- R128: the results of CLZ, CTZ, POPC, BSWAP, SEXT, ZEXT, BFX and BFI in both their forms. -/
def Obligations.ScalarBits : Prop :=
  (∀ b, Yields (.clz b) ⟨.clz, .b b⟩ (Acts) (fun x v => if x.a.word = 0 then v = 64 else v.toNat < 64 ∧ x.a.word.getLsbD (63 - v.toNat) = true ∧ ∀ j, j < v.toNat → x.a.word.getLsbD (63 - j) = false)) ∧
  (∀ b e, Yields (.clzExt b e) ⟨.clz, .x b e 0⟩ (Acts) (fun x v => if x.a.word = 0 then v = 64 else v.toNat < 64 ∧ x.a.word.getLsbD (63 - v.toNat) = true ∧ ∀ j, j < v.toNat → x.a.word.getLsbD (63 - j) = false)) ∧
  (∀ b, Yields (.ctz b) ⟨.ctz, .b b⟩ (Acts) (fun x v => if x.a.word = 0 then v = 64 else v.toNat < 64 ∧ x.a.word.getLsbD v.toNat = true ∧ ∀ j, j < v.toNat → x.a.word.getLsbD j = false)) ∧
  (∀ b e, Yields (.ctzExt b e) ⟨.ctz, .x b e 0⟩ (Acts) (fun x v => if x.a.word = 0 then v = 64 else v.toNat < 64 ∧ x.a.word.getLsbD v.toNat = true ∧ ∀ j, j < v.toNat → x.a.word.getLsbD j = false)) ∧
  (∀ b, Completes (.popc b) ⟨.popc, .b b⟩ (Acts) (fun x => scalarOut (BitVec.ofNat 64 ((List.range 64).countP (fun j => x.a.word.getLsbD j))))) ∧
  (∀ b e, Completes (.popcExt b e) ⟨.popc, .x b e 0⟩ (Acts) (fun x => scalarOut (BitVec.ofNat 64 ((List.range 64).countP (fun j => x.a.word.getLsbD j))))) ∧
  (∀ b, Yields (.bswap b) ⟨.bswap, .b b⟩ (Acts) (fun x v => ∀ j, j < 8 → v.extractLsb' (8 * j) 8 = x.a.word.extractLsb' (8 * (7 - j)) 8)) ∧
  (∀ b e, Yields (.bswapExt b e) ⟨.bswap, .x b e 0⟩ (Acts) (fun x v => ∀ j, j < 8 → v.extractLsb' (8 * j) 8 = x.a.word.extractLsb' (8 * (7 - j)) 8)) ∧
  (∀ b, Completes (.sext b) ⟨.sext, .b b⟩ (Acts) (fun x => scalarOut ((x.a.word.setWidth (x.b.word.toNat % 128)).signExtend 64))) ∧
  (∀ b m, Completes (.sextImm b m) ⟨.sext, .imm b m⟩ (Acts) (fun x => scalarOut ((x.a.word.setWidth (x.b.word.toNat % 128)).signExtend 64))) ∧
  (∀ b, Completes (.zext b) ⟨.zext, .b b⟩ (Acts) (fun x => scalarOut ((x.a.word.setWidth (x.b.word.toNat % 128)).setWidth 64))) ∧
  (∀ b m, Completes (.zextImm b m) ⟨.zext, .imm b m⟩ (Acts) (fun x => scalarOut ((x.a.word.setWidth (x.b.word.toNat % 128)).setWidth 64))) ∧
  (∀ b, Completes (.bfx b) ⟨.bfx, .b b⟩ (Acts) (fun x => scalarOut (((x.a.word >>> (x.b.word.toNat % 64)).setWidth (Nat.min (x.b.word.toNat / 256 % 128) 64)).setWidth 64))) ∧
  (∀ b m, Completes (.bfxImm b m) ⟨.bfx, .imm b m⟩ (Acts) (fun x => scalarOut (((x.a.word >>> (x.b.word.toNat % 64)).setWidth (Nat.min (x.b.word.toNat / 256 % 128) 64)).setWidth 64))) ∧
  (∀ b, Yields (.bfi b) ⟨.bfi, .b b⟩ (Acts) (fun x v => ∀ j, j < 64 → v.getLsbD j = if x.b.word.toNat % 64 ≤ j ∧ j < x.b.word.toNat % 64 + Nat.min (x.b.word.toNat / 256 % 128) 64 then x.c.word.getLsbD (j - x.b.word.toNat % 64) else x.a.word.getLsbD j)) ∧
  (∀ b m, Yields (.bfiImm b m) ⟨.bfi, .imm b m⟩ (Acts) (fun x v => ∀ j, j < 64 → v.getLsbD j = if x.b.word.toNat % 64 ≤ j ∧ j < x.b.word.toNat % 64 + Nat.min (x.b.word.toNat / 256 % 128) 64 then x.c.word.getLsbD (j - x.b.word.toNat % 64) else x.a.word.getLsbD j))

/-- R131 to R134: SPTEST, SPCAST and PADD in both their forms. -/
def Obligations.AddressWindows : Prop :=
  (∀ b, Completes (.sptest b) ⟨.sptest, .b b⟩ (Acts) (fun x => scalarOut (if x.a.word.extractLsb' 56 8 = 0 then 0 else if x.a.word.extractLsb' 56 8 = 0xFC ∧ (x.a.word.extractLsb' 40 16).toNat < 2048 then 1 else if x.a.word.extractLsb' 56 8 = 0xFE ∧ x.a.word.extractLsb' 22 18 = 0 then 2 else if x.a.word.extractLsb' 56 8 = 0xFD ∧ x.a.word.extractLsb' 51 5 = 0 ∧ x.a.word.extractLsb' 26 22 = 0 then 3 else 7))) ∧
  (∀ b e, Completes (.sptestExt b e) ⟨.sptest, .x b e 0⟩ (Acts) (fun x => scalarOut (if x.a.word.extractLsb' 56 8 = 0 then 0 else if x.a.word.extractLsb' 56 8 = 0xFC ∧ (x.a.word.extractLsb' 40 16).toNat < 2048 then 1 else if x.a.word.extractLsb' 56 8 = 0xFE ∧ x.a.word.extractLsb' 22 18 = 0 then 2 else if x.a.word.extractLsb' 56 8 = 0xFD ∧ x.a.word.extractLsb' 51 5 = 0 ∧ x.a.word.extractLsb' 26 22 = 0 then 3 else 7))) ∧
  (∀ b, Completes (.padd b) ⟨.padd, .b b⟩ (fun x => Acts x ∧ ∃ p q, decodePtr x.a.word = some p ∧ p.add x.b.word.toInt = some q) (fun x => scalarOut (x.a.word + x.b.word))) ∧
  (∀ b m, Completes (.paddImm b m) ⟨.padd, .imm b m⟩ (fun x => Acts x ∧ ∃ p q, decodePtr x.a.word = some p ∧ p.add x.b.word.toInt = some q) (fun x => scalarOut (x.a.word + x.b.word))) ∧
  (∀ b, Completes (.spcast b) ⟨.spcast, .b b⟩ (fun x => Acts x ∧ x.b.word = 0 ∧ x.a.word.toNat < 2 ^ 56) (fun x => scalarOut (x.a.word))) ∧
  (∀ b m, Completes (.spcastImm b m) ⟨.spcast, .imm b m⟩ (fun x => Acts x ∧ x.b.word = 0 ∧ x.a.word.toNat < 2 ^ 56) (fun x => scalarOut (x.a.word))) ∧
  (∀ b, Completes (.spcast b) ⟨.spcast, .b b⟩ (fun x => Acts x ∧ x.b.word = 1 ∧ x.a.word.toNat < 2 ^ 40) (fun x => scalarOut (BitVec.ofNat 64 (0xFC * 2 ^ 56 + x.tid * 2 ^ 40 + x.a.word.toNat)))) ∧
  (∀ b m, Completes (.spcastImm b m) ⟨.spcast, .imm b m⟩ (fun x => Acts x ∧ x.b.word = 1 ∧ x.a.word.toNat < 2 ^ 40) (fun x => scalarOut (BitVec.ofNat 64 (0xFC * 2 ^ 56 + x.tid * 2 ^ 40 + x.a.word.toNat)))) ∧
  (∀ b, Completes (.spcast b) ⟨.spcast, .b b⟩ (fun x => Acts x ∧ x.b.word = 2 ∧ x.a.word.toNat < 2 ^ 22) (fun x => scalarOut (BitVec.ofNat 64 (0xFE * 2 ^ 56 + x.thread.alloc.toNat * 2 ^ 40 + x.a.word.toNat)))) ∧
  (∀ b m, Completes (.spcastImm b m) ⟨.spcast, .imm b m⟩ (fun x => Acts x ∧ x.b.word = 2 ∧ x.a.word.toNat < 2 ^ 22) (fun x => scalarOut (BitVec.ofNat 64 (0xFE * 2 ^ 56 + x.thread.alloc.toNat * 2 ^ 40 + x.a.word.toNat)))) ∧
  (∀ b, Completes (.spcast b) ⟨.spcast, .b b⟩ (fun x => Acts x ∧ x.b.word = 3 ∧ x.a.word.toNat < 2 ^ 26) (fun x => scalarOut (BitVec.ofNat 64 (0xFD * 2 ^ 56 + x.thread.tile / 8 * 2 ^ 48 + x.a.word.toNat)))) ∧
  (∀ b m, Completes (.spcastImm b m) ⟨.spcast, .imm b m⟩ (fun x => Acts x ∧ x.b.word = 3 ∧ x.a.word.toNat < 2 ^ 26) (fun x => scalarOut (BitVec.ofNat 64 (0xFD * 2 ^ 56 + x.thread.tile / 8 * 2 ^ 48 + x.a.word.toNat)))) ∧
  (∀ b, Completes (.spcast b) ⟨.spcast, .b b⟩ (fun x => Acts x ∧ x.b.word = 0x101 ∧ decodePtr x.a.word = some ⟨.priv x.tid, (x.a.word.extractLsb' 0 40).toNat⟩) (fun x => scalarOut ((x.a.word.extractLsb' 0 40).setWidth 64))) ∧
  (∀ b m, Completes (.spcastImm b m) ⟨.spcast, .imm b m⟩ (fun x => Acts x ∧ x.b.word = 0x101 ∧ decodePtr x.a.word = some ⟨.priv x.tid, (x.a.word.extractLsb' 0 40).toNat⟩) (fun x => scalarOut ((x.a.word.extractLsb' 0 40).setWidth 64))) ∧
  (∀ b, Completes (.spcast b) ⟨.spcast, .b b⟩ (fun x => Acts x ∧ x.b.word.extractLsb' 9 55 ≠ 0) (fun x => scalarOut (BitVec.allOnes 64))) ∧
  (∀ b m, Completes (.spcastImm b m) ⟨.spcast, .imm b m⟩ (fun x => Acts x ∧ x.b.word.extractLsb' 9 55 ≠ 0) (fun x => scalarOut (BitVec.allOnes 64)))

/-- R104 to R107 with R28: register reads and writes as they fire, and tokens without a register. -/
def Obligations.RegisterAndTokenMoves : Prop :=
  (∀ f, Completes (.rds f) ⟨.rds, .rr f⟩ (fun x => Acts x ∧ (x.thread.sregAt x.serial f.reg.toNat).isSome = true) (fun x => scalarOut ((x.thread.sregAt x.serial f.reg.toNat).getD 0))) ∧
  (∀ f, Completes (.rdv f) ⟨.rdv, .rr f⟩ (fun x => x.laned ∧ x.p = .all) (fun x => Out.tok ((mget VReg.start x.thread.vregs f.reg.toNat).token ((x.thread.cellErr.filter (·.1 == f.reg.toNat)).map (·.2)) x.vl x.thread.vlmax))) ∧
  (∀ f, Completes (.rdm f) ⟨.rdm, .rr f⟩ (fun x => x.laned ∧ x.p = .all) (fun x => Out.tok (.mask ((List.range x.vl).map (fun e => if e < 1024 * x.thread.groups then some ((mget 0 x.thread.mregs f.reg.toNat).getLsbD e) else none))))) ∧
  (∀ f, Completes (.wrs f) ⟨.wrs, .rw f⟩ (Acts) (fun _ => {})) ∧
  (∀ f, Completes (.wrv f) ⟨.wrv, .rw f⟩ (fun x => x.laned ∧ x.a.badCells = []) (fun _ => {})) ∧
  (∀ f, CompletesWith (.wrv f) ⟨.wrv, .rw f⟩ (fun x => x.laned ∧ x.a.badCells ≠ [] ∧ x.a.elemAt x.p x.a.badCells.contains = none) (fun x => x.logLatent x.st) (fun _ => {})) ∧
  (∀ f, Completes (.wrm f) ⟨.wrm, .rw f⟩ (fun x => x.laned) (fun _ => {})) ∧
  (∀ b, Completes (.mov b) ⟨.mov, .b b⟩ (fun x => Acts x ∧ ∃ v, x.a = .scalar v) (fun x => Out.tok x.a)) ∧
  (∀ b, Completes (.mov b) ⟨.mov, .b b⟩ (fun x => x.given ∧ ∃ t l m k, x.a = .vector t l m k) (fun x => Out.tok (x.a.under x.p))) ∧
  (∀ b, Completes (.mov b) ⟨.mov, .b b⟩ (fun x => x.given ∧ ∃ l, x.a = .mask l) (fun x => Out.tok (x.a.under x.p))) ∧
  (∀ b e, Completes (.movExt b e) ⟨.mov, .x b e 0⟩ (fun x => Acts x ∧ ∃ v, x.a = .scalar v) (fun x => Out.tok x.a)) ∧
  (∀ b e, Completes (.movExt b e) ⟨.mov, .x b e 0⟩ (fun x => x.given ∧ ∃ t l m k, x.a = .vector t l m k) (fun x => Out.tok (x.a.under x.p))) ∧
  (∀ b e, Completes (.movExt b e) ⟨.mov, .x b e 0⟩ (fun x => x.given ∧ ∃ l, x.a = .mask l) (fun x => Out.tok (x.a.under x.p))) ∧
  (∀ b, Completes (.null b) ⟨.null, .b b⟩ (Acts) (fun _ => Out.tok .null)) ∧
  (∀ b e, Completes (.nullExt b e) ⟨.null, .x b e 0⟩ (Acts) (fun _ => Out.tok .null)) ∧
  (∀ b m, Completes (.lit b m) ⟨.lit, .imm b m⟩ (Acts) (fun _ => scalarOut (immWord m))) ∧
  (∀ b, Completes (.pcb b) ⟨.pcb, .b b⟩ (Acts) (fun x => scalarOut x.block.addr)) ∧
  (∀ b m, Completes (.pcbExt b m) ⟨.pcb, .imm b m⟩ (Acts) (fun x => scalarOut (x.block.addr + immWord m)))

/-- R108 to R113: the exits of a block as they fire. -/
def Obligations.BlockExits : Prop :=
  (∀ j, Completes (.br j) ⟨.br, .j j⟩ (fun x => Acts x ∧ x.block.exit = none) (fun x => { exit := some (.goto (x.block.addr + j.offset.signExtend 64 * 64)) })) ∧
  (∀ j, Completes (.call j) ⟨.call, .j j⟩ (fun x => Acts x ∧ x.block.exit = none) (fun x => { exit := some (.call (x.block.addr + j.offset.signExtend 64 * 64) (x.block.addr + BitVec.ofNat 64 (64 * ((x.block.words.length + 15) / 16)))) })) ∧
  (∀ j, Completes (.yield j) ⟨.yield, .j j⟩ (fun x => Acts x ∧ x.block.exit = none) (fun x => { exit := some (.yield (x.block.addr + j.offset.signExtend 64 * 64)) })) ∧
  (∀ j, Completes (.sysc j) ⟨.sysc, .j j⟩ (fun x => Acts x ∧ x.block.exit = none) (fun x => { exit := some (.sysc (x.block.addr + j.offset.signExtend 64 * 64)) })) ∧
  (∀ p, Completes (.bri p) ⟨.bri, .p p⟩ (fun x => Acts x ∧ x.block.exit = none ∧ x.a.word.extractLsb' 56 8 = 0 ∧ x.a.word.extractLsb' 0 6 = 0) (fun x => { exit := some (.goto x.a.word) })) ∧
  (∀ p, Completes (.calli p) ⟨.calli, .p p⟩ (fun x => Acts x ∧ x.block.exit = none ∧ x.a.word.extractLsb' 56 8 = 0 ∧ x.a.word.extractLsb' 0 6 = 0) (fun x => { exit := some (.call x.a.word (x.block.addr + BitVec.ofNat 64 (64 * ((x.block.words.length + 15) / 16)))) })) ∧
  (∀ p, Completes (.halt p) ⟨.halt, .p p⟩ (fun x => Acts x ∧ x.block.exit = none) (fun _ => { exit := some .halt }))

/-- R114, R386 to R389: TRAP takes the TRAPI trap; a fatal one stops the thread for its save. -/
def Obligations.TrapInstructionTraps : Prop :=
  (∀ p code s x, s.firing ⟨.trap, .px p (code.setWidth 32)⟩ = some x → Acts x → x.oldest = true → x.thread.fatal x.block.addr = false →
    ∃ t, exec (.trap p code) s = .next t ∧ s.trapsTo t x.tid 0x0C x.block.addr (BitVec.ofNat 64 x.slot) 0 0 (code.setWidth 64)) ∧
  (∀ p code s x, s.firing ⟨.trap, .px p (code.setWidth 32)⟩ = some x → Acts x → x.oldest = true → x.thread.fatal x.block.addr = true →
    ∃ t, exec (.trap p code) s = .next t ∧ (t.thread x.tid).status = .stopping ∧ (t.thread x.tid).flight = [] ∧
      (t.thread x.tid).dying = some (errWitness 5 (0x0C * 2 ^ 48 + x.block.addr.toNat % 2 ^ 48)) ∧
      (t.thread x.tid).tcause = BitVec.ofNat 64 (0x0C + (if x.thread.supervisor then 256 else 0)) ∧ (t.thread x.tid).tblock = x.block.addr ∧
      (t.thread x.tid).tslot = BitVec.ofNat 64 x.slot ∧ (t.thread x.tid).tinfo = code.setWidth 64 ∧ (t.thread x.tid).pc = x.thread.pc ∧
      (t.thread x.tid).supervisor = x.thread.supervisor ∧ t.mem = s.mem ∧ ∀ n, n ≠ x.tid → t.thread n = s.thread n)

/-- R114: what a user-mode thread may not do takes the PRIV trap. -/
def Obligations.UserModePrivilegeTraps : Prop :=
  (∀ b e csr s x, s.firing ⟨.csrr, .x b e (csr.setWidth 32)⟩ = some x → Acts x → x.oldest = true → x.thread.fatal x.block.addr = false → x.thread.supervisor = false → 0x100 ≤ csr.toNat →
    ∃ t, exec (.csrr b e csr) s = .next t ∧ s.trapsTo t x.tid 0x0A x.block.addr (BitVec.ofNat 64 x.slot) 0 0 (BitVec.ofNat 64 (0x1000 + csr.toNat))) ∧
  (∀ p csr s x, s.firing ⟨.csrw, .px p (csr.setWidth 32)⟩ = some x → Acts x → x.oldest = true → x.thread.fatal x.block.addr = false → x.thread.supervisor = false → 0x100 ≤ csr.toNat →
    ∃ t, exec (.csrw p csr) s = .next t ∧ s.trapsTo t x.tid 0x0A x.block.addr (BitVec.ofNat 64 x.slot) 0 0 (BitVec.ofNat 64 (0x1000 + csr.toNat))) ∧
  (∀ p s x, s.firing ⟨.eret, .p p⟩ = some x → Acts x → x.oldest = true → x.thread.fatal x.block.addr = false → x.thread.supervisor = false →
    ∃ t, exec (.eret p) s = .next t ∧ s.trapsTo t x.tid 0x0A x.block.addr (BitVec.ofNat 64 x.slot) 0 0 (0x13)) ∧
  (∀ p s x, s.firing ⟨.tlbinv, .p p⟩ = some x → Acts x → x.oldest = true → x.thread.fatal x.block.addr = false → x.thread.supervisor = false →
    ∃ t, exec (.tlbinv p) s = .next t ∧ s.trapsTo t x.tid 0x0A x.block.addr (BitVec.ofNat 64 x.slot) 0 0 (0x17))

/-- R117, R119, R121, R384, R433: what CSRR delivers for each register. -/
def Obligations.CsrReads : Prop :=
  (∀ b e, Completes (.csrr b e 0x000) ⟨.csrr, .x b e 0x000⟩ (Acts) (fun x => scalarOut (x.startValue 0x000 (BitVec.ofNat 64 x.tid)))) ∧
  (∀ b e, Completes (.csrr b e 0x001) ⟨.csrr, .x b e 0x001⟩ (Acts) (fun x => scalarOut (x.startValue 0x001 (BitVec.ofNat 64 x.thread.tile)))) ∧
  (∀ b e, Completes (.csrr b e 0x002) ⟨.csrr, .x b e 0x002⟩ (Acts) (fun x => scalarOut (x.startValue 0x002 (BitVec.ofNat 64 (x.thread.tile / 8))))) ∧
  (∀ b e, Completes (.csrr b e 0x003) ⟨.csrr, .x b e 0x003⟩ (Acts) (fun x => scalarOut (x.startValue 0x003 (x.st.deviceNo.setWidth 64)))) ∧
  (∀ b e, Completes (.csrr b e 0x004) ⟨.csrr, .x b e 0x004⟩ (Acts) (fun x => scalarOut (x.startValue 0x004 (x.thread.region)))) ∧
  (∀ b e, Completes (.csrr b e 0x005) ⟨.csrr, .x b e 0x005⟩ (Acts) (fun x => scalarOut (x.startValue 0x005 (x.thread.teamCsr)))) ∧
  (∀ b e, Completes (.csrr b e 0x020) ⟨.csrr, .x b e 0x020⟩ (Acts) (fun x => scalarOut (x.startValue 0x020 (x.thread.floor.setWidth 64)))) ∧
  (∀ b e, Completes (.csrr b e 0x021) ⟨.csrr, .x b e 0x021⟩ (Acts) (fun x => scalarOut ((x.st.tile x.thread.tile).horizon.setWidth 64))) ∧
  (∀ b e, Completes (.csrr b e 0x031) ⟨.csrr, .x b e 0x031⟩ (Acts) (fun x => scalarOut (x.startValue 0x031 (x.thread.frm.setWidth 64)))) ∧
  (∀ b e, Completes (.csrr b e 0x040) ⟨.csrr, .x b e 0x040⟩ (Acts) (fun x => scalarOut (x.startValue 0x040 ((x.st.mxOf x.tid).wprog)))) ∧
  (∀ b e, Completes (.csrr b e 0x041) ⟨.csrr, .x b e 0x041⟩ (Acts) (fun x => scalarOut (x.startValue 0x041 ((x.st.mxOf x.tid).wstat)))) ∧
  (∀ b e, Completes (.csrr b e 0x050) ⟨.csrr, .x b e 0x050⟩ (Acts) (fun x => scalarOut (BitVec.ofNat 64 x.st.cycle))) ∧
  (∀ b e, Completes (.csrr b e 0x010) ⟨.csrr, .x b e 0x010⟩ (fun x => Acts x ∧ x.thread.vlOut = 0) (fun x => scalarOut (BitVec.ofNat 64 x.thread.vl))) ∧
  (∀ b e, Completes (.csrr b e 0x011) ⟨.csrr, .x b e 0x011⟩ (fun x => Acts x ∧ x.thread.vlOut = 0) (fun x => scalarOut (BitVec.ofNat 64 x.thread.vlmax))) ∧
  (∀ b e, Completes (.csrr b e 0x012) ⟨.csrr, .x b e 0x012⟩ (fun x => Acts x ∧ x.thread.vlOut = 0) (fun x => scalarOut (x.thread.lanes.setWidth 64))) ∧
  (∀ b e, Completes (.csrr b e 0x030) ⟨.csrr, .x b e 0x030⟩ (fun x => Acts x ∧ x.oldest = true) (fun x => scalarOut (x.thread.fflags.setWidth 64))) ∧
  (∀ b e, Completes (.csrr b e 0x051) ⟨.csrr, .x b e 0x051⟩ (fun x => Acts x ∧ x.oldest = true) (fun x => scalarOut (x.thread.blocks))) ∧
  (∀ b e, Completes (.csrr b e 0x100) ⟨.csrr, .x b e 0x100⟩ (fun x => Acts x ∧ x.thread.supervisor = true) (fun x => scalarOut (x.startValue 0x100 (x.thread.tcause)))) ∧
  (∀ b e, Completes (.csrr b e 0x101) ⟨.csrr, .x b e 0x101⟩ (fun x => Acts x ∧ x.thread.supervisor = true) (fun x => scalarOut (x.startValue 0x101 (x.thread.tblock)))) ∧
  (∀ b e, Completes (.csrr b e 0x102) ⟨.csrr, .x b e 0x102⟩ (fun x => Acts x ∧ x.thread.supervisor = true) (fun x => scalarOut (x.startValue 0x102 (x.thread.tslot)))) ∧
  (∀ b e, Completes (.csrr b e 0x103) ⟨.csrr, .x b e 0x103⟩ (fun x => Acts x ∧ x.thread.supervisor = true) (fun x => scalarOut (x.startValue 0x103 (x.thread.taddr)))) ∧
  (∀ b e, Completes (.csrr b e 0x104) ⟨.csrr, .x b e 0x104⟩ (fun x => Acts x ∧ x.thread.supervisor = true) (fun x => scalarOut (x.startValue 0x104 (x.thread.telem)))) ∧
  (∀ b e, Completes (.csrr b e 0x105) ⟨.csrr, .x b e 0x105⟩ (fun x => Acts x ∧ x.thread.supervisor = true) (fun x => scalarOut (x.startValue 0x105 (x.thread.tvec)))) ∧
  (∀ b e, Completes (.csrr b e 0x106) ⟨.csrr, .x b e 0x106⟩ (fun x => Acts x ∧ x.thread.supervisor = true) (fun x => scalarOut (x.startValue 0x106 (x.thread.tsave)))) ∧
  (∀ b e, Completes (.csrr b e 0x107) ⟨.csrr, .x b e 0x107⟩ (fun x => Acts x ∧ x.thread.supervisor = true) (fun x => scalarOut (x.startValue 0x107 (x.thread.tinfo)))) ∧
  (∀ b e, Completes (.csrr b e 0x108) ⟨.csrr, .x b e 0x108⟩ (fun x => Acts x ∧ x.thread.supervisor = true) (fun x => scalarOut (x.startValue 0x108 (x.thread.savea)))) ∧
  (∀ b e, Completes (.csrr b e 0x110) ⟨.csrr, .x b e 0x110⟩ (fun x => Acts x ∧ x.thread.supervisor = true) (fun x => scalarOut (x.startValue 0x110 (x.thread.asid.setWidth 64)))) ∧
  (∀ b e, Completes (.csrr b e 0x111) ⟨.csrr, .x b e 0x111⟩ (fun x => Acts x ∧ x.thread.supervisor = true) (fun x => scalarOut (x.startValue 0x111 (BitVec.ofNat 64 ((mget none x.st.asidTab x.thread.asid.toNat).getD 0))))) ∧
  (∀ b e, Completes (.csrr b e 0x112) ⟨.csrr, .x b e 0x112⟩ (fun x => Acts x ∧ x.thread.supervisor = true) (fun x => scalarOut (x.startValue 0x112 (x.thread.lease.setWidth 64)))) ∧
  (∀ b e, Completes (.csrr b e 0x120) ⟨.csrr, .x b e 0x120⟩ (fun x => Acts x ∧ x.thread.supervisor = true) (fun x => scalarOut (x.startValue 0x120 (BitVec.ofNat 64 (x.st.core x.thread.core).fwshare)))) ∧
  (∀ b e, Completes (.csrr b e 0x130) ⟨.csrr, .x b e 0x130⟩ (fun x => Acts x ∧ x.thread.supervisor = true) (fun x => scalarOut (x.startValue 0x130 (BitVec.ofNat 64 (x.st.cluster (x.thread.tile / 8)).mth)))) ∧
  (∀ b e, Completes (.csrr b e 0x131) ⟨.csrr, .x b e 0x131⟩ (fun x => Acts x ∧ x.thread.supervisor = true) (fun x => scalarOut (x.startValue 0x131 (BitVec.ofNat 64 ((if (x.st.cluster (x.thread.tile / 8)).poff then 1 else 0) + (x.st.cluster (x.thread.tile / 8)).patrol * 256))))) ∧
  (∀ b e, Completes (.csrr b e 0x133) ⟨.csrr, .x b e 0x133⟩ (fun x => Acts x ∧ x.thread.supervisor = true) (fun x => scalarOut (x.startValue 0x133 (BitVec.ofNat 64 (x.st.cluster (x.thread.tile / 8)).ilsel)))) ∧
  (∀ b e, Completes (.csrr b e 0x134) ⟨.csrr, .x b e 0x134⟩ (fun x => Acts x ∧ x.thread.supervisor = true) (fun x => scalarOut (x.startValue 0x134 ((mget (0, 0) (x.st.cluster (x.thread.tile / 8)).il (x.st.cluster (x.thread.tile / 8)).ilsel).1)))) ∧
  (∀ b e, Completes (.csrr b e 0x135) ⟨.csrr, .x b e 0x135⟩ (fun x => Acts x ∧ x.thread.supervisor = true) (fun x => scalarOut (x.startValue 0x135 ((mget (0, 0) (x.st.cluster (x.thread.tile / 8)).il (x.st.cluster (x.thread.tile / 8)).ilsel).2)))) ∧
  (∀ b e, Completes (.csrr b e 0x136) ⟨.csrr, .x b e 0x136⟩ (fun x => Acts x ∧ x.thread.supervisor = true) (fun x => scalarOut (x.startValue 0x136 (BitVec.ofNat 64 (x.st.cluster (x.thread.tile / 8)).brsel)))) ∧
  (∀ b e, Completes (.csrr b e 0x137) ⟨.csrr, .x b e 0x137⟩ (fun x => Acts x ∧ x.thread.supervisor = true) (fun x => scalarOut (x.startValue 0x137 (mget 0 (x.st.cluster (x.thread.tile / 8)).remap (x.st.cluster (x.thread.tile / 8)).brsel)))) ∧
  (∀ b e, Completes (.csrr b e 0x138) ⟨.csrr, .x b e 0x138⟩ (fun x => Acts x ∧ x.thread.supervisor = true) (fun x => scalarOut (x.startValue 0x138 (BitVec.ofNat 64 ((x.st.cluster (x.thread.tile / 8)).logged % 2 ^ 32 + (x.st.cluster (x.thread.tile / 8)).dropped % 2 ^ 32 * 2 ^ 32))))) ∧
  (∀ b e, Completes (.csrr b e 0x139) ⟨.csrr, .x b e 0x139⟩ (fun x => Acts x ∧ x.thread.supervisor = true) (fun x => scalarOut (x.startValue 0x139 (repairWord (x.st.cluster (x.thread.tile / 8))))))

/-- R116, R118, R122 to R125: instructions whose effect waits for the commit. -/
def Obligations.ControlEffectsAtFiring : Prop :=
  (∀ p csr, Completes (.csrw p csr) ⟨.csrw, .px p (csr.setWidth 32)⟩ (fun x => Acts x ∧ (csr.toNat < 0x100 ∨ x.thread.supervisor = true)) (fun x => { effs := [.csrw csr x.a.word] })) ∧
  (∀ p, Completes (.icinv p) ⟨.icinv, .p p⟩ (Acts) (fun _ => { effs := [.icinv] })) ∧
  (∀ p, Completes (.tlbinv p) ⟨.tlbinv, .p p⟩ (fun x => Acts x ∧ x.thread.supervisor = true ∧ x.b.word.extractLsb' 14 50 = 0 ∧ x.b.word.extractLsb' 12 2 ≠ 3 ∧ (x.b.word.extractLsb' 12 2 = 0 → x.a.word.extractLsb' 56 8 = 0)) (fun x => { effs := [.tlbinv x.a.word x.b.word] })) ∧
  (∀ p, Completes (.eret p) ⟨.eret, .p p⟩ (fun x => Acts x ∧ x.thread.supervisor = true) (fun _ => { effs := [.eret] })) ∧
  (∀ b, Completes (.setvl b) ⟨.setvl, .b b⟩ (fun x => Acts x ∧ (x.b.word = 8 ∨ x.b.word = 16 ∨ x.b.word = 32 ∨ x.b.word = 64)) (fun x => { main := some (.deferred x.slot 0), effs := [.setvl x.a.word.toNat x.b.word.toNat] })) ∧
  (∀ b, Completes (.lclaim b) ⟨.lclaim, .b b⟩ (fun x => Acts x ∧ x.a.word.toNat ≤ 16) (fun x => { main := some (.deferred x.slot 0), effs := [.lclaim x.a.word.toNat] }))

/-- R145 with R56, R58, R71 and R73: elementwise arithmetic and logic on two and three operands. -/
def Obligations.VectorArithmetic : Prop :=
  (∀ b, Completes (.vadd b) ⟨.vadd, .b b⟩ (Firing.vec2Ok isArith) (Firing.out2 (fun x => addEl x.sat x.rm x.a.vec.fmt))) ∧
  (∀ b v, Completes (.vaddExt b v) ⟨.vadd, .v b v 0 none⟩ (Firing.vec2Ok isArith) (Firing.out2 (fun x => addEl x.sat x.rm x.a.vec.fmt))) ∧
  (∀ b, Completes (.vsub b) ⟨.vsub, .b b⟩ (Firing.vec2Ok isArith) (Firing.out2 (fun x => subEl x.sat x.rm x.a.vec.fmt))) ∧
  (∀ b v, Completes (.vsubExt b v) ⟨.vsub, .v b v 0 none⟩ (Firing.vec2Ok isArith) (Firing.out2 (fun x => subEl x.sat x.rm x.a.vec.fmt))) ∧
  (∀ b, Completes (.vmul b) ⟨.vmul, .b b⟩ (Firing.vec2Ok isArith) (Firing.out2 (fun x => mulEl x.sat x.rm x.a.vec.fmt))) ∧
  (∀ b v, Completes (.vmulExt b v) ⟨.vmul, .v b v 0 none⟩ (Firing.vec2Ok isArith) (Firing.out2 (fun x => mulEl x.sat x.rm x.a.vec.fmt))) ∧
  (∀ b, Completes (.vdiv b) ⟨.vdiv, .b b⟩ (Firing.vec2Ok isArith) (Firing.out2 (fun x => divEl x.sat x.rm x.a.vec.fmt))) ∧
  (∀ b v, Completes (.vdivExt b v) ⟨.vdiv, .v b v 0 none⟩ (Firing.vec2Ok isArith) (Firing.out2 (fun x => divEl x.sat x.rm x.a.vec.fmt))) ∧
  (∀ b, Completes (.vmin b) ⟨.vmin, .b b⟩ (Firing.vec2Ok isArith) (Firing.out2 (fun x => minEl false x.a.vec.fmt))) ∧
  (∀ b v, Completes (.vminExt b v) ⟨.vmin, .v b v 0 none⟩ (Firing.vec2Ok isArith) (Firing.out2 (fun x => minEl false x.a.vec.fmt))) ∧
  (∀ b, Completes (.vmax b) ⟨.vmax, .b b⟩ (Firing.vec2Ok isArith) (Firing.out2 (fun x => minEl true x.a.vec.fmt))) ∧
  (∀ b v, Completes (.vmaxExt b v) ⟨.vmax, .v b v 0 none⟩ (Firing.vec2Ok isArith) (Firing.out2 (fun x => minEl true x.a.vec.fmt))) ∧
  (∀ b, Completes (.vfma b) ⟨.vfma, .b b⟩ (Firing.vec3Ok isArith) (Firing.out3 (fun x => fmaEl x.sat x.rm x.a.vec.fmt))) ∧
  (∀ b v, Completes (.vfmaExt b v) ⟨.vfma, .v b v 0 none⟩ (Firing.vec3Ok isArith) (Firing.out3 (fun x => fmaEl x.sat x.rm x.a.vec.fmt))) ∧
  (∀ b, Completes (.vfms b) ⟨.vfms, .b b⟩ (Firing.vec3Ok isArith) (Firing.out3 (fun x => fmsEl x.sat x.rm x.a.vec.fmt))) ∧
  (∀ b v, Completes (.vfmsExt b v) ⟨.vfms, .v b v 0 none⟩ (Firing.vec3Ok isArith) (Firing.out3 (fun x => fmsEl x.sat x.rm x.a.vec.fmt))) ∧
  (∀ b, Completes (.vand b) ⟨.vand, .b b⟩ (Firing.vec2Ok isInt) (Firing.out2 (fun _ a b => (a &&& b, 0)))) ∧
  (∀ b v, Completes (.vandExt b v) ⟨.vand, .v b v 0 none⟩ (Firing.vec2Ok isInt) (Firing.out2 (fun _ a b => (a &&& b, 0)))) ∧
  (∀ b, Completes (.vor b) ⟨.vor, .b b⟩ (Firing.vec2Ok isInt) (Firing.out2 (fun _ a b => (a ||| b, 0)))) ∧
  (∀ b v, Completes (.vorExt b v) ⟨.vor, .v b v 0 none⟩ (Firing.vec2Ok isInt) (Firing.out2 (fun _ a b => (a ||| b, 0)))) ∧
  (∀ b, Completes (.vxor b) ⟨.vxor, .b b⟩ (Firing.vec2Ok isInt) (Firing.out2 (fun _ a b => (a ^^^ b, 0)))) ∧
  (∀ b v, Completes (.vxorExt b v) ⟨.vxor, .v b v 0 none⟩ (Firing.vec2Ok isInt) (Firing.out2 (fun _ a b => (a ^^^ b, 0))))

/-- R145, R147 and R148: elementwise functions of one operand. -/
def Obligations.VectorUnary : Prop :=
  (∀ b, Completes (.vsqrt b) ⟨.vsqrt, .b b⟩ (Firing.vec1Ok isFloat) (Firing.out1 (fun x a => toW (fSqrt x.a.vec.fmt x.rm (dec x.a.vec.fmt a))))) ∧
  (∀ b v, Completes (.vsqrtExt b v) ⟨.vsqrt, .v b v 0 none⟩ (Firing.vec1Ok isFloat) (Firing.out1 (fun x a => toW (fSqrt x.a.vec.fmt x.rm (dec x.a.vec.fmt a))))) ∧
  (∀ b, Completes (.vrcp b) ⟨.vrcp, .b b⟩ (Firing.vec1Ok isSpecial) (Firing.out1 (fun x a => toW (fRcp x.a.vec.fmt x.rm (dec x.a.vec.fmt a))))) ∧
  (∀ b v, Completes (.vrcpExt b v) ⟨.vrcp, .v b v 0 none⟩ (Firing.vec1Ok isSpecial) (Firing.out1 (fun x a => toW (fRcp x.a.vec.fmt x.rm (dec x.a.vec.fmt a))))) ∧
  (∀ b, Completes (.vrsq b) ⟨.vrsq, .b b⟩ (Firing.vec1Ok isSpecial) (Firing.out1 (fun x a => toW (fRsq x.a.vec.fmt x.rm (dec x.a.vec.fmt a))))) ∧
  (∀ b v, Completes (.vrsqExt b v) ⟨.vrsq, .v b v 0 none⟩ (Firing.vec1Ok isSpecial) (Firing.out1 (fun x a => toW (fRsq x.a.vec.fmt x.rm (dec x.a.vec.fmt a))))) ∧
  (∀ b, Completes (.vexp2 b) ⟨.vexp2, .b b⟩ (Firing.vec1Ok isSpecial) (Firing.out1 (fun x a => toW (fExp2 x.a.vec.fmt x.rm (dec x.a.vec.fmt a))))) ∧
  (∀ b v, Completes (.vexp2Ext b v) ⟨.vexp2, .v b v 0 none⟩ (Firing.vec1Ok isSpecial) (Firing.out1 (fun x a => toW (fExp2 x.a.vec.fmt x.rm (dec x.a.vec.fmt a))))) ∧
  (∀ b, Completes (.vlog2 b) ⟨.vlog2, .b b⟩ (Firing.vec1Ok isSpecial) (Firing.out1 (fun x a => toW (fLog2 x.a.vec.fmt x.rm (dec x.a.vec.fmt a))))) ∧
  (∀ b v, Completes (.vlog2Ext b v) ⟨.vlog2, .v b v 0 none⟩ (Firing.vec1Ok isSpecial) (Firing.out1 (fun x a => toW (fLog2 x.a.vec.fmt x.rm (dec x.a.vec.fmt a))))) ∧
  (∀ b, Completes (.vabs b) ⟨.vabs, .b b⟩ (Firing.vec1Ok (fun c => isArith c || isScaled c)) (Firing.out1 (fun x => absEl x.sat x.a.vec.fmt))) ∧
  (∀ b v, Completes (.vabsExt b v) ⟨.vabs, .v b v 0 none⟩ (Firing.vec1Ok (fun c => isArith c || isScaled c)) (Firing.out1 (fun x => absEl x.sat x.a.vec.fmt))) ∧
  (∀ b, Completes (.vneg b) ⟨.vneg, .b b⟩ (Firing.vec1Ok (fun c => isArith c || isScaled c)) (Firing.out1 (fun x => negEl x.sat x.a.vec.fmt))) ∧
  (∀ b v, Completes (.vnegExt b v) ⟨.vneg, .v b v 0 none⟩ (Firing.vec1Ok (fun c => isArith c || isScaled c)) (Firing.out1 (fun x => negEl x.sat x.a.vec.fmt))) ∧
  (∀ b, Completes (.vnot b) ⟨.vnot, .b b⟩ (Firing.vec1Ok isInt) (Firing.out1 (fun x a => ((~~~a) &&& BitVec.ofNat 64 (2 ^ x.a.vec.fmt.width - 1), 0)))) ∧
  (∀ b v, Completes (.vnotExt b v) ⟨.vnot, .v b v 0 none⟩ (Firing.vec1Ok isInt) (Firing.out1 (fun x a => ((~~~a) &&& BitVec.ofNat 64 (2 ^ x.a.vec.fmt.width - 1), 0))))

/-- R150 to R152: compares, classes and selection. -/
def Obligations.VectorComparesAndSelect : Prop :=
  (∀ b, Completes (.vceq b) ⟨.vceq, .b b⟩ (Firing.vec2Ok isArith) (fun x => x.maskOut ((List.range x.vl).map (fun e => if x.p.on e then (match x.a.vec.at e, x.b.vec.at e with | some a, some b => some (cmpEl (fun n => decide (n = 0)) false false x.a.vec.fmt a b) | _, _ => none) else none)))) ∧
  (∀ b v, Completes (.vceqExt b v) ⟨.vceq, .v b v 0 none⟩ (Firing.vec2Ok isArith) (fun x => x.maskOut ((List.range x.vl).map (fun e => if x.p.on e then (match x.a.vec.at e, x.b.vec.at e with | some a, some b => some (cmpEl (fun n => decide (n = 0)) false false x.a.vec.fmt a b) | _, _ => none) else none)))) ∧
  (∀ b, Completes (.vcne b) ⟨.vcne, .b b⟩ (Firing.vec2Ok isArith) (fun x => x.maskOut ((List.range x.vl).map (fun e => if x.p.on e then (match x.a.vec.at e, x.b.vec.at e with | some a, some b => some (cmpEl (fun n => decide (n ≠ 0)) true false x.a.vec.fmt a b) | _, _ => none) else none)))) ∧
  (∀ b v, Completes (.vcneExt b v) ⟨.vcne, .v b v 0 none⟩ (Firing.vec2Ok isArith) (fun x => x.maskOut ((List.range x.vl).map (fun e => if x.p.on e then (match x.a.vec.at e, x.b.vec.at e with | some a, some b => some (cmpEl (fun n => decide (n ≠ 0)) true false x.a.vec.fmt a b) | _, _ => none) else none)))) ∧
  (∀ b, Completes (.vclt b) ⟨.vclt, .b b⟩ (Firing.vec2Ok isArith) (fun x => x.maskOut ((List.range x.vl).map (fun e => if x.p.on e then (match x.a.vec.at e, x.b.vec.at e with | some a, some b => some (cmpEl (fun n => decide (n < 0)) false true x.a.vec.fmt a b) | _, _ => none) else none)))) ∧
  (∀ b v, Completes (.vcltExt b v) ⟨.vclt, .v b v 0 none⟩ (Firing.vec2Ok isArith) (fun x => x.maskOut ((List.range x.vl).map (fun e => if x.p.on e then (match x.a.vec.at e, x.b.vec.at e with | some a, some b => some (cmpEl (fun n => decide (n < 0)) false true x.a.vec.fmt a b) | _, _ => none) else none)))) ∧
  (∀ b, Completes (.vcle b) ⟨.vcle, .b b⟩ (Firing.vec2Ok isArith) (fun x => x.maskOut ((List.range x.vl).map (fun e => if x.p.on e then (match x.a.vec.at e, x.b.vec.at e with | some a, some b => some (cmpEl (fun n => decide (n ≤ 0)) false true x.a.vec.fmt a b) | _, _ => none) else none)))) ∧
  (∀ b v, Completes (.vcleExt b v) ⟨.vcle, .v b v 0 none⟩ (Firing.vec2Ok isArith) (fun x => x.maskOut ((List.range x.vl).map (fun e => if x.p.on e then (match x.a.vec.at e, x.b.vec.at e with | some a, some b => some (cmpEl (fun n => decide (n ≤ 0)) false true x.a.vec.fmt a b) | _, _ => none) else none)))) ∧
  (∀ b, Completes (.vcun b) ⟨.vcun, .b b⟩ (Firing.vec2Ok isArith) (fun x => x.maskOut ((List.range x.vl).map (fun e => if x.p.on e then (match x.a.vec.at e, x.b.vec.at e with | some a, some b => some (cmpEl (fun n => decide (False)) true false x.a.vec.fmt a b) | _, _ => none) else none)))) ∧
  (∀ b v, Completes (.vcunExt b v) ⟨.vcun, .v b v 0 none⟩ (Firing.vec2Ok isArith) (fun x => x.maskOut ((List.range x.vl).map (fun e => if x.p.on e then (match x.a.vec.at e, x.b.vec.at e with | some a, some b => some (cmpEl (fun n => decide (False)) true false x.a.vec.fmt a b) | _, _ => none) else none)))) ∧
  (∀ b, Completes (.vclass b) ⟨.vclass, .b b⟩ (Firing.vec1Ok isFloat) (fun x => x.maskOut ((List.range x.vl).map (fun e => if x.p.on e then (x.a.vec.at e).map (fun a => (false, 0)) else none)))) ∧
  (∀ b v k, Completes (.vclassExt b v k) ⟨.vclass, .v b v (k.setWidth 32) none⟩ (Firing.vec1Ok isFloat) (fun x => x.maskOut ((List.range x.vl).map (fun e => if x.p.on e then (x.a.vec.at e).map (fun a => (k.getLsbD (classOf x.a.vec.fmt a), 0)) else none)))) ∧
  (∀ b, Completes (.vsel b) ⟨.vsel, .b b⟩ (Firing.vec2Ok isAny) (fun x => x.vecOut (plainTag x.a.vec.code) ((List.range x.vl).map (fun e => if x.p.on e then (match x.a.vec.at e, x.b.vec.at e, maskAt x.c e with | some a, some b, some c => some (if c then a else b, 0) | _, _, _ => none) else none)))) ∧
  (∀ b v, Completes (.vselExt b v) ⟨.vsel, .v b v 0 none⟩ (Firing.vec2Ok isAny) (fun x => x.vecOut (plainTag x.a.vec.code) ((List.range x.vl).map (fun e => if x.p.on e then (match x.a.vec.at e, x.b.vec.at e, maskAt x.c e with | some a, some b, some c => some (if c then a else b, 0) | _, _, _ => none) else none))))

/-- R146, R149, R153 and R154: shifts, widening products and constants. -/
def Obligations.VectorShiftsAndConstants : Prop :=
  (∀ b, Completes (.vshl b) ⟨.vshl, .b b⟩ (fun x => x.vec1Ok isInt ∧ ((∃ n, x.b = .scalar n) ∨ (x.fine x.b isInt false ∧ x.b.vec.code = x.a.vec.code))) (fun x => x.vecOut (plainTag x.a.vec.code) ((List.range x.vl).map (fun e => if x.p.on e then (match x.a.vec.at e, x.count e with | some a, some n => some (shlEl x.sat x.a.vec.fmt a n) | _, _ => none) else none)))) ∧
  (∀ b v n, Completes (.vshlExt b v n) ⟨.vshl, .v b v (encIb n) none⟩ (fun x => x.vec1Ok isInt ∧ ((∃ n, x.b = .scalar n) ∨ (x.fine x.b isInt false ∧ x.b.vec.code = x.a.vec.code))) (fun x => x.vecOut (plainTag x.a.vec.code) ((List.range x.vl).map (fun e => if x.p.on e then (match x.a.vec.at e, x.count e with | some a, some n => some (shlEl x.sat x.a.vec.fmt a n) | _, _ => none) else none)))) ∧
  (∀ b, Completes (.vshr b) ⟨.vshr, .b b⟩ (fun x => x.vec1Ok isInt ∧ ((∃ n, x.b = .scalar n) ∨ (x.fine x.b isInt false ∧ x.b.vec.code = x.a.vec.code))) (fun x => x.vecOut (plainTag x.a.vec.code) ((List.range x.vl).map (fun e => if x.p.on e then (match x.a.vec.at e, x.count e with | some a, some n => some (shrEl x.a.vec.fmt a n) | _, _ => none) else none)))) ∧
  (∀ b v n, Completes (.vshrExt b v n) ⟨.vshr, .v b v (encIb n) none⟩ (fun x => x.vec1Ok isInt ∧ ((∃ n, x.b = .scalar n) ∨ (x.fine x.b isInt false ∧ x.b.vec.code = x.a.vec.code))) (fun x => x.vecOut (plainTag x.a.vec.code) ((List.range x.vl).map (fun e => if x.p.on e then (match x.a.vec.at e, x.count e with | some a, some n => some (shrEl x.a.vec.fmt a n) | _, _ => none) else none)))) ∧
  (∀ b, Completes (.vsra b) ⟨.vsra, .b b⟩ (fun x => x.vec1Ok isInt ∧ ((∃ n, x.b = .scalar n) ∨ (x.fine x.b isInt false ∧ x.b.vec.code = x.a.vec.code))) (fun x => x.vecOut (plainTag x.a.vec.code) ((List.range x.vl).map (fun e => if x.p.on e then (match x.a.vec.at e, x.count e with | some a, some n => some (sraEl x.a.vec.fmt a n) | _, _ => none) else none)))) ∧
  (∀ b v n, Completes (.vsraExt b v n) ⟨.vsra, .v b v (encIb n) none⟩ (fun x => x.vec1Ok isInt ∧ ((∃ n, x.b = .scalar n) ∨ (x.fine x.b isInt false ∧ x.b.vec.code = x.a.vec.code))) (fun x => x.vecOut (plainTag x.a.vec.code) ((List.range x.vl).map (fun e => if x.p.on e then (match x.a.vec.at e, x.count e with | some a, some n => some (sraEl x.a.vec.fmt a n) | _, _ => none) else none)))) ∧
  (∀ b, Completes (.vmulw b) ⟨.vmulw, .b b⟩ (fun x => x.vec2Ok mulwOk ∧ x.vl ≤ capacity x.thread.vlmax (fmtOf (wideCode x.a.vec.code)).width) (fun x => x.vecOut (plainTag (wideCode x.a.vec.code)) ((List.range x.vl).map (fun e => if x.p.on e then (match x.a.vec.at (2 * e), x.b.vec.at (2 * e) with | some a, some b => some (mulwEl x.rm x.a.vec.fmt (fmtOf (wideCode x.a.vec.code)) a b) | _, _ => none) else none)))) ∧
  (∀ b v odd, Completes (.vmulwExt b v odd) ⟨.vmulw, .v b v (BitVec.ofNat 32 (encBool odd)) none⟩ (fun x => x.vec2Ok mulwOk ∧ x.vl ≤ capacity x.thread.vlmax (fmtOf (wideCode x.a.vec.code)).width) (fun x => x.vecOut (plainTag (wideCode x.a.vec.code)) ((List.range x.vl).map (fun e => if x.p.on e then (match x.a.vec.at (2 * e + encBool odd), x.b.vec.at (2 * e + encBool odd) with | some a, some b => some (mulwEl x.rm x.a.vec.fmt (fmtOf (wideCode x.a.vec.code)) a b) | _, _ => none) else none)))) ∧
  (∀ b v tag l, Completes (.vfill b v tag l) ⟨.vfill, .v b v (tag.setWidth 32) l⟩ (fun x => x.laned ∧ x.given ∧ x.vl ≤ capacity x.thread.vlmax (fmtOf (tagFmt tag)).width) (fun x => x.vecOut tag ((List.range x.vl).map (fun e => if x.p.on e then some (zextW (x.a.word >>> (e * (fmtOf (tagFmt tag)).width % 64)) (fmtOf (tagFmt tag)).width, 0) else none)))) ∧
  (∀ b v tag l, Completes (.vbcast b v tag l) ⟨.vbcast, .v b v (tag.setWidth 32) l⟩ (fun x => x.laned ∧ x.given ∧ x.vl ≤ capacity x.thread.vlmax (fmtOf (tagFmt tag)).width) (fun x => x.vecOut tag ((List.range x.vl).map (fun e => if x.p.on e then some (zextW x.a.word (fmtOf (tagFmt tag)).width, 0) else none)))) ∧
  (∀ b v tag, Completes (.vid b v tag) ⟨.vid, .v b v (tag.setWidth 32) none⟩ (fun x => x.laned ∧ x.given ∧ x.vl ≤ capacity x.thread.vlmax (fmtOf (tagFmt tag)).width) (fun x => x.vecOut tag ((List.range x.vl).map (fun e => if x.p.on e then some (BitVec.ofNat 64 (e % 2 ^ (fmtOf (tagFmt tag)).width), 0) else none))))

/-- R155 to R159: conversions, retagging, reductions and the dot product. -/
def Obligations.VectorConversionsAndReductions : Prop :=
  (∀ b v tag, Completes (.vcvt b v tag) ⟨.vcvt, .v b v (tag.setWidth 32) none⟩ (fun x => x.laned ∧ x.given ∧ x.fine x.a isAny true ∧ x.vl ≤ capacity x.thread.vlmax (fmtOf (tagFmt tag)).width) (fun x => x.vecOut tag (x.map1 (fun a => toW (convert x.a.vec.fmt x.a.vec.scale (fmtOf (tagFmt tag)) (tagScale tag) x.rm x.sat a.toNat))))) ∧
  (∀ b v tag, Completes (.vtag b v tag) ⟨.vtag, .v b v (tag.setWidth 32) none⟩ (fun x => x.laned ∧ x.given ∧ x.fine x.a isAny true ∧ x.vl ≤ capacity x.thread.vlmax (fmtOf (tagFmt tag)).width) (fun x => x.retagged tag)) ∧
  (∀ b, Completes (.vscale b) ⟨.vscale, .b b⟩ (fun x => x.laned ∧ x.given ∧ x.fine x.a isScaled true) (fun x => x.vecOut (mkTag x.a.vec.code 0) (x.map1 (fun a => (a, 0))))) ∧
  (∀ b v n, Completes (.vscaleExt b v n) ⟨.vscale, .v b v (n.setWidth 32) none⟩ (fun x => x.laned ∧ x.given ∧ x.fine x.a isScaled true) (fun x => x.vecOut (mkTag x.a.vec.code n.toNat) (x.map1 (fun a => (a, 0))))) ∧
  (∀ b, Completes (.vsum b) ⟨.vsum, .b b⟩ (Firing.vec1Ok isArith) (fun x => x.sout (.scalar (elemScalar x.a.vec.fmt (BitVec.ofNat 64 (reduceTree x.a.vec.fmt (fun a b => (((addEl x.sat x.rm) x.a.vec.fmt (BitVec.ofNat 64 a) (BitVec.ofNat 64 b)).1.toNat, ((addEl x.sat x.rm) x.a.vec.fmt (BitVec.ofNat 64 a) (BitVec.ofNat 64 b)).2)) x.present (0)).1))) (reduceTree x.a.vec.fmt (fun a b => (((addEl x.sat x.rm) x.a.vec.fmt (BitVec.ofNat 64 a) (BitVec.ofNat 64 b)).1.toNat, ((addEl x.sat x.rm) x.a.vec.fmt (BitVec.ofNat 64 a) (BitVec.ofNat 64 b)).2)) x.present (0)).2 (x.vl - 1))) ∧
  (∀ b v, Completes (.vsumExt b v) ⟨.vsum, .v b v 0 none⟩ (Firing.vec1Ok isArith) (fun x => x.sout (.scalar (elemScalar x.a.vec.fmt (BitVec.ofNat 64 (reduceTree x.a.vec.fmt (fun a b => (((addEl x.sat x.rm) x.a.vec.fmt (BitVec.ofNat 64 a) (BitVec.ofNat 64 b)).1.toNat, ((addEl x.sat x.rm) x.a.vec.fmt (BitVec.ofNat 64 a) (BitVec.ofNat 64 b)).2)) x.present (0)).1))) (reduceTree x.a.vec.fmt (fun a b => (((addEl x.sat x.rm) x.a.vec.fmt (BitVec.ofNat 64 a) (BitVec.ofNat 64 b)).1.toNat, ((addEl x.sat x.rm) x.a.vec.fmt (BitVec.ofNat 64 a) (BitVec.ofNat 64 b)).2)) x.present (0)).2 (x.vl - 1))) ∧
  (∀ b, Completes (.vrmax b) ⟨.vrmax, .b b⟩ (Firing.vec1Ok isArith) (fun x => x.sout (.scalar (elemScalar x.a.vec.fmt (BitVec.ofNat 64 (reduceTree x.a.vec.fmt (fun a b => (((minEl true) x.a.vec.fmt (BitVec.ofNat 64 a) (BitVec.ofNat 64 b)).1.toNat, ((minEl true) x.a.vec.fmt (BitVec.ofNat 64 a) (BitVec.ofNat 64 b)).2)) x.present (rmaxEmpty x.a.vec.fmt)).1))) (reduceTree x.a.vec.fmt (fun a b => (((minEl true) x.a.vec.fmt (BitVec.ofNat 64 a) (BitVec.ofNat 64 b)).1.toNat, ((minEl true) x.a.vec.fmt (BitVec.ofNat 64 a) (BitVec.ofNat 64 b)).2)) x.present (rmaxEmpty x.a.vec.fmt)).2 (x.vl - 1))) ∧
  (∀ b v, Completes (.vrmaxExt b v) ⟨.vrmax, .v b v 0 none⟩ (Firing.vec1Ok isArith) (fun x => x.sout (.scalar (elemScalar x.a.vec.fmt (BitVec.ofNat 64 (reduceTree x.a.vec.fmt (fun a b => (((minEl true) x.a.vec.fmt (BitVec.ofNat 64 a) (BitVec.ofNat 64 b)).1.toNat, ((minEl true) x.a.vec.fmt (BitVec.ofNat 64 a) (BitVec.ofNat 64 b)).2)) x.present (rmaxEmpty x.a.vec.fmt)).1))) (reduceTree x.a.vec.fmt (fun a b => (((minEl true) x.a.vec.fmt (BitVec.ofNat 64 a) (BitVec.ofNat 64 b)).1.toNat, ((minEl true) x.a.vec.fmt (BitVec.ofNat 64 a) (BitVec.ofNat 64 b)).2)) x.present (rmaxEmpty x.a.vec.fmt)).2 (x.vl - 1))) ∧
  (∀ b, Completes (.vrmin b) ⟨.vrmin, .b b⟩ (Firing.vec1Ok isArith) (fun x => x.sout (.scalar (elemScalar x.a.vec.fmt (BitVec.ofNat 64 (reduceTree x.a.vec.fmt (fun a b => (((minEl false) x.a.vec.fmt (BitVec.ofNat 64 a) (BitVec.ofNat 64 b)).1.toNat, ((minEl false) x.a.vec.fmt (BitVec.ofNat 64 a) (BitVec.ofNat 64 b)).2)) x.present (rminEmpty x.a.vec.fmt)).1))) (reduceTree x.a.vec.fmt (fun a b => (((minEl false) x.a.vec.fmt (BitVec.ofNat 64 a) (BitVec.ofNat 64 b)).1.toNat, ((minEl false) x.a.vec.fmt (BitVec.ofNat 64 a) (BitVec.ofNat 64 b)).2)) x.present (rminEmpty x.a.vec.fmt)).2 (x.vl - 1))) ∧
  (∀ b v, Completes (.vrminExt b v) ⟨.vrmin, .v b v 0 none⟩ (Firing.vec1Ok isArith) (fun x => x.sout (.scalar (elemScalar x.a.vec.fmt (BitVec.ofNat 64 (reduceTree x.a.vec.fmt (fun a b => (((minEl false) x.a.vec.fmt (BitVec.ofNat 64 a) (BitVec.ofNat 64 b)).1.toNat, ((minEl false) x.a.vec.fmt (BitVec.ofNat 64 a) (BitVec.ofNat 64 b)).2)) x.present (rminEmpty x.a.vec.fmt)).1))) (reduceTree x.a.vec.fmt (fun a b => (((minEl false) x.a.vec.fmt (BitVec.ofNat 64 a) (BitVec.ofNat 64 b)).1.toNat, ((minEl false) x.a.vec.fmt (BitVec.ofNat 64 a) (BitVec.ofNat 64 b)).2)) x.present (rminEmpty x.a.vec.fmt)).2 (x.vl - 1))) ∧
  (∀ b, Completes (.vdot b) ⟨.vdot, .b b⟩ (fun x => x.laned ∧ x.given ∧ x.fine x.a isScaled true ∧ x.fine x.b (fun c => c == 11) false) (fun x => x.vecOut (plainTag 13) ((List.range x.vl).map (fun g => if (x.vl + 127) / 128 ≤ g then none else some (toW (gridDot ⟨x.pairs g, none, []⟩)))))) ∧
  (∀ b v, Completes (.vdotExt b v false) ⟨.vdot, .v b v 0 none⟩ (fun x => x.laned ∧ x.given ∧ x.fine x.a isScaled true ∧ x.fine x.b (fun c => c == 11) false) (fun x => x.vecOut (plainTag 13) ((List.range x.vl).map (fun g => if (x.vl + 127) / 128 ≤ g then none else some (toW (gridDot ⟨x.pairs g, none, []⟩)))))) ∧
  (∀ b v, Completes (.vdotExt b v true) ⟨.vdot, .v b v 1 none⟩ (fun x => x.laned ∧ x.given ∧ x.fine x.a isScaled true ∧ x.fine x.b (fun c => c == 11) false ∧ x.fine x.c (fun c => c == 13) false) (fun x => x.vecOut (plainTag 13) ((List.range x.vl).map (fun g => if (x.vl + 127) / 128 ≤ g then none else (x.c.vec.at g).map (fun c => toW (gridDot ⟨x.pairs g, some (decodeFloat fp32 c.toNat), [decodeFloat fp32 c.toNat]⟩))))))

/-- R161 and R162: instructions that move elements. -/
def Obligations.VectorMoves : Prop :=
  (∀ b, Completes (.vperm b) ⟨.vperm, .b b⟩ (fun x => x.vec1Ok isAny ∧ x.fine x.b isIndex false) (fun x => x.moved (fun e => (x.b.vec.at e).map (fun i => if i.toNat < x.vl then some i.toNat else none)))) ∧
  (∀ b v, Completes (.vpermExt b v) ⟨.vperm, .v b v 0 none⟩ (fun x => x.vec1Ok isAny ∧ x.fine x.b isIndex false) (fun x => x.moved (fun e => (x.b.vec.at e).map (fun i => if i.toNat < x.vl then some i.toNat else none)))) ∧
  (∀ b, Completes (.vrot b) ⟨.vrot, .b b⟩ (Firing.vec1Ok isAny) (fun x => x.moved (fun e => some (some ((e + (x.vl - x.b.word.toNat % Nat.max x.vl 1)) % Nat.max x.vl 1))))) ∧
  (∀ b v n, Completes (.vrotExt b v n) ⟨.vrot, .v b v (encIb n) none⟩ (Firing.vec1Ok isAny) (fun x => x.moved (fun e => some (some ((e + (x.vl - x.b.word.toNat % Nat.max x.vl 1)) % Nat.max x.vl 1))))) ∧
  (∀ b, Completes (.vslide b) ⟨.vslide, .b b⟩ (Firing.vec1Ok isAny) (fun x => x.moved (fun e => if x.b.word.toNat ≤ e then some (some (e - x.b.word.toNat)) else none))) ∧
  (∀ b v n down, Completes (.vslideExt b v n down) ⟨.vslide, .v b v (encIb n + BitVec.ofNat 32 (1073741824 * encBool down)) none⟩ (Firing.vec1Ok isAny) (fun x => x.moved (fun e => if down then (if e + x.b.word.toNat < x.vl then some (some (e + x.b.word.toNat)) else none) else if x.b.word.toNat ≤ e then some (some (e - x.b.word.toNat)) else none))) ∧
  (∀ b, Completes (.vcomp b) ⟨.vcomp, .b b⟩ (Firing.vec1Ok isAny) (fun x => x.moved (fun e => (((List.range x.firstNull).filter (fun i => maskAt x.b i == some true && (x.a.vec.at i).isSome))[e]?).map some))) ∧
  (∀ b v, Completes (.vcompExt b v) ⟨.vcomp, .v b v 0 none⟩ (Firing.vec1Ok isAny) (fun x => x.moved (fun e => (((List.range x.firstNull).filter (fun i => maskAt x.b i == some true && (x.a.vec.at i).isSome))[e]?).map some))) ∧
  (∀ b, Completes (.vexpd b) ⟨.vexpd, .b b⟩ (Firing.vec1Ok isAny) (fun x => x.moved (fun e => if e < x.firstNull && maskAt x.b e == some true then some (some ((List.range e).filter (fun i => maskAt x.b i == some true)).length) else none))) ∧
  (∀ b v, Completes (.vexpdExt b v) ⟨.vexpd, .v b v 0 none⟩ (Firing.vec1Ok isAny) (fun x => x.moved (fun e => if e < x.firstNull && maskAt x.b e == some true then some (some ((List.range e).filter (fun i => maskAt x.b i == some true)).length) else none))) ∧
  (∀ b, Completes (.vext b) ⟨.vext, .b b⟩ (fun x => x.vec1Ok isArith ∧ x.b.word.toNat < x.vl) (fun x => x.sout (if x.p.on x.b.word.toNat then (match x.a.vec.at x.b.word.toNat with | some a => .scalar (elemScalar x.a.vec.fmt a) | none => .null) else .null) 0 (x.vl - 1))) ∧
  (∀ b v n, Completes (.vextExt b v n) ⟨.vext, .v b v (encIb n) none⟩ (fun x => x.vec1Ok isArith ∧ x.b.word.toNat < x.vl) (fun x => x.sout (if x.p.on x.b.word.toNat then (match x.a.vec.at x.b.word.toNat with | some a => .scalar (elemScalar x.a.vec.fmt a) | none => .null) else .null) 0 (x.vl - 1))) ∧
  (∀ b, Completes (.vins b) ⟨.vins, .b b⟩ (fun x => x.vec1Ok isArith ∧ x.b.word.toNat < x.vl) (fun x => x.vecOut (plainTag x.a.vec.code) ((List.range x.vl).map (fun e => if !x.p.on e then none else if e = x.b.word.toNat then (match x.c with | .scalar c => some (zextW c x.a.vec.fmt.width, 0) | _ => none) else (x.a.vec.at e).map (fun a => (a, 0)))))) ∧
  (∀ b v n, Completes (.vinsExt b v n) ⟨.vins, .v b v (encIb n) none⟩ (fun x => x.vec1Ok isArith ∧ x.b.word.toNat < x.vl) (fun x => x.vecOut (plainTag x.a.vec.code) ((List.range x.vl).map (fun e => if !x.p.on e then none else if e = x.b.word.toNat then (match x.c with | .scalar c => some (zextW c x.a.vec.fmt.width, 0) | _ => none) else (x.a.vec.at e).map (fun a => (a, 0))))))

/-- R163: instructions on masks. -/
def Obligations.MaskInstructions : Prop :=
  (∀ b, Completes (.mand b) ⟨.mand, .b b⟩ (fun x => x.laned ∧ x.given) (fun x => Out.tok (.mask ((List.range x.vl).map (fun e => if x.p.on e then (match maskAt x.a e, maskAt x.b e with | some a, some b => some (a && b) | _, _ => none) else none))))) ∧
  (∀ b e, Completes (.mandExt b e) ⟨.mand, .x b e 0⟩ (fun x => x.laned ∧ x.given) (fun x => Out.tok (.mask ((List.range x.vl).map (fun e => if x.p.on e then (match maskAt x.a e, maskAt x.b e with | some a, some b => some (a && b) | _, _ => none) else none))))) ∧
  (∀ b, Completes (.mor b) ⟨.mor, .b b⟩ (fun x => x.laned ∧ x.given) (fun x => Out.tok (.mask ((List.range x.vl).map (fun e => if x.p.on e then (match maskAt x.a e, maskAt x.b e with | some a, some b => some (a || b) | _, _ => none) else none))))) ∧
  (∀ b e, Completes (.morExt b e) ⟨.mor, .x b e 0⟩ (fun x => x.laned ∧ x.given) (fun x => Out.tok (.mask ((List.range x.vl).map (fun e => if x.p.on e then (match maskAt x.a e, maskAt x.b e with | some a, some b => some (a || b) | _, _ => none) else none))))) ∧
  (∀ b, Completes (.mxor b) ⟨.mxor, .b b⟩ (fun x => x.laned ∧ x.given) (fun x => Out.tok (.mask ((List.range x.vl).map (fun e => if x.p.on e then (match maskAt x.a e, maskAt x.b e with | some a, some b => some (a != b) | _, _ => none) else none))))) ∧
  (∀ b e, Completes (.mxorExt b e) ⟨.mxor, .x b e 0⟩ (fun x => x.laned ∧ x.given) (fun x => Out.tok (.mask ((List.range x.vl).map (fun e => if x.p.on e then (match maskAt x.a e, maskAt x.b e with | some a, some b => some (a != b) | _, _ => none) else none))))) ∧
  (∀ b, Completes (.mnot b) ⟨.mnot, .b b⟩ (fun x => x.laned ∧ x.given) (fun x => Out.tok (.mask ((List.range x.vl).map (fun e => if x.p.on e then (maskAt x.a e).map (fun a => !a) else none))))) ∧
  (∀ b e, Completes (.mnotExt b e) ⟨.mnot, .x b e 0⟩ (fun x => x.laned ∧ x.given) (fun x => Out.tok (.mask ((List.range x.vl).map (fun e => if x.p.on e then (maskAt x.a e).map (fun a => !a) else none))))) ∧
  (∀ b, Completes (.mpop b) ⟨.mpop, .b b⟩ (fun x => x.laned ∧ x.given) (fun x => scalarOut (BitVec.ofNat 64 ((List.range x.vl).countP (fun e => x.p.on e && maskAt x.a e == some true))))) ∧
  (∀ b e, Completes (.mpopExt b e) ⟨.mpop, .x b e 0⟩ (fun x => x.laned ∧ x.given) (fun x => scalarOut (BitVec.ofNat 64 ((List.range x.vl).countP (fun e => x.p.on e && maskAt x.a e == some true))))) ∧
  (∀ b, Completes (.mfirst b) ⟨.mfirst, .b b⟩ (fun x => x.laned ∧ x.given) (fun x => scalarOut (match (List.range x.vl).find? (fun e => x.p.on e && maskAt x.a e == some true) with | some e => BitVec.ofNat 64 e | none => BitVec.allOnes 64))) ∧
  (∀ b e, Completes (.mfirstExt b e) ⟨.mfirst, .x b e 0⟩ (fun x => x.laned ∧ x.given) (fun x => scalarOut (match (List.range x.vl).find? (fun e => x.p.on e && maskAt x.a e == some true) with | some e => BitVec.ofNat 64 e | none => BitVec.allOnes 64)))

/-- R47: integer elements wrap modulo their width, or saturate. -/
def Obligations.IntegerElementsWrapOrSaturate : Prop :=
  ∀ k, isInt k = true → ∀ sat rm a b c,
    reducedTo (fmtOf k) sat (ival (fmtOf k) a + ival (fmtOf k) b) (addEl sat rm (fmtOf k) a b) ∧
    reducedTo (fmtOf k) sat (ival (fmtOf k) a - ival (fmtOf k) b) (subEl sat rm (fmtOf k) a b) ∧
    reducedTo (fmtOf k) sat (ival (fmtOf k) a * ival (fmtOf k) b) (mulEl sat rm (fmtOf k) a b) ∧
    reducedTo (fmtOf k) sat (ival (fmtOf k) a * ival (fmtOf k) b + ival (fmtOf k) c) (fmaEl sat rm (fmtOf k) a b c)

/-- R36: where the elements of a vector register lie. -/
def Obligations.VectorRegisterReadAfterWrite : Prop :=
  ∀ w, w = 8 ∨ w = 16 ∨ w = 32 ∨ w = 64 → ∀ slots e v,
    slotBits (putSlotBits slots w e v) w e = BitVec.ofNat 64 (v.toNat % 2 ^ w) ∧ ∀ k, k ≠ e → slotBits (putSlotBits slots w e v) w k = slotBits slots w k

/-- R177 to R181, R191 and R195 with R168 to R173: loads as they fire, and where a load traps (R169, R175, R431). -/
def Obligations.LoadsSendTheirRequests : Prop :=
  (∀ b m s x l, s.firing ⟨.ld, .m b m none⟩ = some x → Acts x → x.wOk → x.readsAt true m.fr true (2 ^ m.sz.toNat) l →
    exec (.ld b m) s = .next (x.waits (x.queueLoads (.scalar (2 ^ m.sz.toNat) m.sx m.rw) x.ldBound m.fr [x.partAt (2 ^ m.sz.toNat) l]) )) ∧
  (∀ b m k s x l, s.firing ⟨.mwait, .m b m k⟩ = some x → Acts x → x.wOk → x.readsAt false true false (2 ^ m.sz.toNat) l →
    exec (.mwait b m k) s = .next (x.waits (x.queueLoads (.wait (2 ^ m.sz.toNat) m.sx m.rw (Nat.min x.b.word.toNat (2 ^ 32 - 1))) x.ldBound true [x.partAt (2 ^ m.sz.toNat) l]))) ∧
  (∀ b m tag s x oks, s.firing ⟨.vld, .m b m (some (tag.setWidth 64))⟩ = some x → x.laned → x.given → x.vl ≤ capacity x.thread.vlmax (tagWidth tag) → x.wOk →
    x.sweepsAt (x.accessed.map (fun e => (e, x.base.move ((e * (tagWidth tag / 8) : Nat) : Int)))) (tagWidth tag / 8) m.fr oks →
    exec (.vld b m tag) s = .next (x.waits (x.queueLoads (.vector tag x.vl m.rw none) x.ldBound m.fr (oks.map (fun a => { x.partAt (tagWidth tag / 8) a.2 with elem := a.1 }))))) ∧
  (∀ b m tag s x oks, s.firing ⟨.vlds, .m b m (some (tag.setWidth 64))⟩ = some x → x.laned → x.given → x.vl ≤ capacity x.thread.vlmax (tagWidth tag) → x.wOk →
    x.sweepsAt (x.accessed.map (fun e => (e, x.base.move ((e : Int) * x.b.word.toInt)))) (tagWidth tag / 8) m.fr oks →
    exec (.vlds b m tag) s = .next (x.waits (x.queueLoads (if m.ff then .vector tag x.vl false (some x.vl) else .vector tag x.vl m.rw none) x.ldBound m.fr (oks.map (fun a => { x.partAt (tagWidth tag / 8) a.2 with elem := a.1 }))))) ∧
  (∀ b m tag s x oks, s.firing ⟨.vldx, .m b m (some (tag.setWidth 64))⟩ = some x → x.laned → x.given → x.fine x.b isInt false → x.vl ≤ capacity x.thread.vlmax (tagWidth tag) → x.wOk →
    x.sweepsAt (x.accessed.filterMap (fun e => (x.b.vec.index e).map (fun i => (e, x.base.move (i * ((tagWidth tag / 8 : Nat) : Int)))))) (tagWidth tag / 8) m.fr oks →
    exec (.vldx b m tag) s = .next (x.waits (x.queueLoads (if m.ff then .vector tag x.vl false (some x.vl) else .vector tag x.vl m.rw none) x.ldBound m.fr (oks.map (fun a => { x.partAt (tagWidth tag / 8) a.2 with elem := a.1 }))))) ∧
  (∀ b m tag s x oks, s.firing ⟨.vldff, .m b m (some (tag.setWidth 64))⟩ = some x → x.laned → x.given → x.vl ≤ capacity x.thread.vlmax (tagWidth tag) → x.wOk →
    x.sweepsAt (x.accessed.map (fun e => (e, x.base.move ((e * (tagWidth tag / 8) : Nat) : Int)))) (tagWidth tag / 8) m.fr oks →
    exec (.vldff b m tag) s = .next (x.waits (x.queueLoads (.vector tag x.vl false (some x.vl)) x.ldBound m.fr (oks.map (fun a => { x.partAt (tagWidth tag / 8) a.2 with elem := a.1 }))))) ∧
  (∀ b m p l, CompletesWith (.pref b m) ⟨.pref, .m b m none⟩ (fun x => Acts x ∧ x.base = .inside p ∧ x.prefAt p l) (fun x => x.queueLoads (.scalar 1 false false) x.thread.floor false [⟨0, l.key, 1, p.encode, [], .cached, l.compress, none⟩]) (fun _ => {})) ∧
  (∀ b m s x, s.firing ⟨.ld, .m b m none⟩ = some x → Acts x → x.mayTrap → m.wi = true → wKind x.c.word = 1 →
    ∃ t, exec (.ld b m) s = .next t ∧ s.trapsTo t x.tid cWERR x.block.addr (slotW x.slot) x.c.word 0 (BitVec.ofNat 64 (bitsAt x.c.word 56 6))) ∧
  (∀ b m s x, s.firing ⟨.ld, .m b m none⟩ = some x → Acts x → x.mayTrap → m.wi = true → wKind x.c.word = 3 →
    ∃ t, exec (.ld b m) s = .next t ∧ s.trapsTo t x.tid cWRESV x.block.addr (slotW x.slot) 0 0 2) ∧
  (∀ b m s x i w, s.firing ⟨.ld, .m b m none⟩ = some x → Acts x → x.mayTrap → x.wOk → x.base = .outside i w →
    ∃ t, exec (.ld b m) s = .next t ∧ s.trapsTo t x.tid cNONCANON x.block.addr (slotW x.slot) w 0 (BitVec.ofNat 64 i)) ∧
  (∀ b m s x p, s.firing ⟨.ld, .m b m none⟩ = some x → Acts x → x.mayTrap → x.wOk → x.base = .inside p → p.off % 2 ^ m.sz.toNat ≠ 0 →
    ∃ t, exec (.ld b m) s = .next t ∧ s.trapsTo t x.tid cALIGN x.block.addr (slotW x.slot) p.encode 0 0) ∧
  (∀ b m s x a c, s.firing ⟨.ld, .m b m none⟩ = some x → Acts x → x.mayTrap → x.wOk → x.base = .inside ⟨.global, a⟩ → a % 2 ^ m.sz.toNat = 0 →
    s.tlbHit x.tile x.thread.asid a = none → x.thread.walked a = some c → c ≠ walkedOk →
    ∃ t, exec (.ld b m) s = .next t ∧ s.trapsTo t x.tid cXLATE x.block.addr (slotW x.slot) (Ptr.encode ⟨.global, a⟩) 0 (BitVec.ofNat 64 c)) ∧
  (∀ b m s x a e, s.firing ⟨.ld, .m b m none⟩ = some x → Acts x → x.mayTrap → x.wOk → x.base = .inside ⟨.global, a⟩ → a % 2 ^ m.sz.toNat = 0 →
    s.tlbHit x.tile x.thread.asid a = some e → (paRoute s (clusterOfTile x.tile) (e.pa' a)).isSome = true →
    x.thread.supervisor = true ∨ bitsAt e.attrs 5 1 = 1 → bitsAt e.attrs 2 1 = 0 →
    ∃ t, exec (.ld b m) s = .next t ∧ s.trapsTo t x.tid cPERM x.block.addr (slotW x.slot) (Ptr.encode ⟨.global, a⟩) 0 0) ∧
  (∀ b m s x l, s.firing ⟨.ld, .m b m none⟩ = some x → Acts x → x.mayTrap → x.wOk → x.access .read true (2 ^ m.sz.toNat) (2 ^ m.sz.toNat) 0 x.base = .ok 0 l →
    x.unheld m.fr true (2 ^ m.sz.toNat) [(0, l)] → l.route ≠ .host → l.route ≠ .peer → s.errOf (lineOf l.key) = .poisoned →
    ∃ t, exec (.ld b m) s = .next t ∧ s.trapsTo t x.tid cPOISON x.block.addr (slotW x.slot) l.va 0 0) ∧
  (∀ b m s x l p l', s.firing ⟨.ld, .m b m none⟩ = some x → Acts x → x.mayTrap → x.wOk → x.access .read true (2 ^ m.sz.toNat) (2 ^ m.sz.toNat) 0 x.base = .ok 0 l →
    x.unheld m.fr true (2 ^ m.sz.toNat) [(0, l)] → l.route ≠ .host → l.route ≠ .peer → s.errOf (lineOf l.key) = .uncorrectable →
    lineOf (l.key + 2 ^ m.sz.toNat - 1) = lineOf l.key → decodePtr l.va = some p → checkPtr s x.who .read true p 1 1 = .ok l' → lineOf l'.key = lineOf l.key →
    (s.place (lineOf l.key * 128)).isSome = true →
    ∃ t, exec (.ld b m) s = .next t ∧ s.trapsTo t x.tid cUNCORR x.block.addr (slotW x.slot) l.va 0 0 ∧ t.errOf (lineOf l.key) = .poisoned) ∧
  (∀ b m tag s x f, s.firing ⟨.vld, .m b m (some (tag.setWidth 64))⟩ = some x → x.mayTrap → x.laned → x.given → x.vl ≤ capacity x.thread.vlmax (tagWidth tag) → x.wOk →
    sweep (x.accessed.map (fun e => x.access .read true (tagWidth tag / 8) (tagWidth tag / 8) e (x.base.move ((e * (tagWidth tag / 8) : Nat) : Int)))) = ⟨[], [], some f⟩ →
    ∃ t, exec (.vld b m tag) s = .next t ∧ s.trapsTo t x.tid f.cause x.block.addr f.slot f.addr (f.elem % 2 ^ 32) f.info)

/-- R169, R178, R182, R183 and R185: stores and scatters as they fire, and where a store traps. -/
def Obligations.StoresLeaveTheirWrite : Prop :=
  (∀ b m k l, Completes (.st b m k) ⟨.st, .m b m k⟩ (fun x => Acts x ∧ x.wOk ∧ x.access .write true (2 ^ m.sz.toNat) (2 ^ m.sz.toNat) 0 x.base = .ok 0 l) (fun x => { main := some (.deferred x.slot 0), effs := [.store m.lsid.toNat [⟨0, l.key, leBytes (2 ^ m.sz.toNat) x.b.word.toNat, l.route, l.compress⟩] x.wTime] })) ∧
  (∀ b m oks, Completes (.vst b m) ⟨.vst, .m b m none⟩ (fun x => x.laned ∧ x.given ∧ x.wOk ∧ x.fine x.b isAny true ∧ x.storesAt .write true oks) (fun x => { main := some (.deferred x.slot 0), effs := [.store m.lsid.toNat (oks.map (x.storeEl)) x.wTime] })) ∧
  (∀ b m oks, Completes (.vsts b m) ⟨.vsts, .m b m none⟩ (fun x => x.laned ∧ x.given ∧ x.wOk ∧ x.fine x.b isAny false ∧ x.storesAt .write true oks) (fun x => { main := some (.deferred x.slot 0), effs := [.store m.lsid.toNat (oks.map (x.storeEl)) x.wTime] })) ∧
  (∀ b m oks, m.ord = true → Completes (.vstx b m) ⟨.vstx, .m b m none⟩ (fun x => x.laned ∧ x.given ∧ x.wOk ∧ x.fine x.b isAny false ∧ x.fine x.c isInt false ∧ x.storesAt .write true oks) (fun x => { main := some (.deferred x.slot 0), effs := [.store m.lsid.toNat (oks.map (x.storeEl)) x.wTime] })) ∧
  (∀ b m oks, m.ord = false → CompletesWith (.vstx b m) ⟨.vstx, .m b m none⟩ (fun x => x.laned ∧ x.given ∧ x.wOk ∧ x.fine x.b isAny false ∧ x.fine x.c isInt false ∧ x.storesAt .write true oks) (fun x => x.st.tick.2) (fun x => { main := some (.deferred x.slot 0), effs := [.store m.lsid.toNat (settle (fun k => Config.scatterWinner (x.st.tick.1 + k)) (oks.map (x.storeEl))) x.wTime] })) ∧
  (∀ b m oks, Completes (.vsadd b m) ⟨.vsadd, .m b m none⟩ (fun x => x.laned ∧ x.given ∧ x.fine x.b vsaddOk false ∧ x.fine x.c isInt false ∧ x.storesAt .rmw false oks) (fun x => { main := some (.deferred x.slot 0), effs := [.adds m.lsid.toNat ((lastOf (fun (a : Nat × Loc) => a.2.key) oks).map (fun a => ⟨x.b.vec.code, 0, a.2.key, (x.addsAt oks a.2.key).1, a.2.route, a.2.compress⟩))], flags := (lastOf (fun (a : Nat × Loc) => a.2.key) oks).foldl (fun f a => f ||| (x.addsAt oks a.2.key).2) 0 })) ∧
  (∀ b m k s x p, s.firing ⟨.st, .m b m k⟩ = some x → Acts x → x.mayTrap → x.wOk → x.base = .inside p → p.off % 2 ^ m.sz.toNat ≠ 0 →
    ∃ t, exec (.st b m k) s = .next t ∧ s.trapsTo t x.tid cALIGN x.block.addr (slotW x.slot) p.encode 0 0) ∧
  (∀ b m k s x a e, s.firing ⟨.st, .m b m k⟩ = some x → Acts x → x.mayTrap → x.wOk → x.base = .inside ⟨.global, a⟩ → a % 2 ^ m.sz.toNat = 0 →
    s.tlbHit x.tile x.thread.asid a = some e → (paRoute s (clusterOfTile x.tile) (e.pa' a)).isSome = true →
    x.thread.supervisor = true ∨ bitsAt e.attrs 5 1 = 1 → bitsAt e.attrs 3 1 = 0 →
    ∃ t, exec (.st b m k) s = .next t ∧ s.trapsTo t x.tid cPERM x.block.addr (slotW x.slot) (Ptr.encode ⟨.global, a⟩) 0 1) ∧
  (∀ b m k s x f, s.firing ⟨.st, .m b m k⟩ = some x → Acts x → x.mayTrap → x.wOk → x.access .write true (2 ^ m.sz.toNat) (2 ^ m.sz.toNat) 0 x.base = .bad f → f.cause ≠ cUNCORR →
    ∃ t, exec (.st b m k) s = .next t ∧ s.trapsTo t x.tid f.cause x.block.addr f.slot f.addr (f.elem % 2 ^ 32) f.info)

/-- R186 and R194: atomics and CLAIMEL as they fire. -/
def Obligations.AtomicsLeaveTheirOperation : Prop :=
  (∀ b m k l, Completes (.aadd b m k) ⟨.aadd, .m b m k⟩ (fun x => Acts x ∧ x.wOk ∧ x.access .rmw false (2 ^ m.sz.toNat) (2 ^ m.sz.toNat) 0 x.base = .ok 0 l) (fun x => { main := some (.deferred x.slot 0), alt := if m.rw then some (.deferred x.slot 1) else none, effs := [.atomic m.lsid.toNat .add l.key (2 ^ m.sz.toNat) x.b.word x.c.word m.sx x.wTime l.route l.compress] })) ∧
  (∀ b m k l, Completes (.aswap b m k) ⟨.aswap, .m b m k⟩ (fun x => Acts x ∧ x.wOk ∧ x.access .rmw false (2 ^ m.sz.toNat) (2 ^ m.sz.toNat) 0 x.base = .ok 0 l) (fun x => { main := some (.deferred x.slot 0), alt := if m.rw then some (.deferred x.slot 1) else none, effs := [.atomic m.lsid.toNat .swap l.key (2 ^ m.sz.toNat) x.b.word x.c.word m.sx x.wTime l.route l.compress] })) ∧
  (∀ b m k l, Completes (.acas b m k) ⟨.acas, .m b m k⟩ (fun x => Acts x ∧ x.wOk ∧ x.access .rmw false (2 ^ m.sz.toNat) (2 ^ m.sz.toNat) 0 x.base = .ok 0 l) (fun x => { main := some (.deferred x.slot 0), alt := if m.rw then some (.deferred x.slot 1) else none, effs := [.atomic m.lsid.toNat .cas l.key (2 ^ m.sz.toNat) x.b.word x.c.word m.sx x.wTime l.route l.compress] })) ∧
  (∀ b m k l, Completes (.amin b m k) ⟨.amin, .m b m k⟩ (fun x => Acts x ∧ x.wOk ∧ x.access .rmw false (2 ^ m.sz.toNat) (2 ^ m.sz.toNat) 0 x.base = .ok 0 l) (fun x => { main := some (.deferred x.slot 0), alt := if m.rw then some (.deferred x.slot 1) else none, effs := [.atomic m.lsid.toNat .min l.key (2 ^ m.sz.toNat) x.b.word x.c.word m.sx x.wTime l.route l.compress] })) ∧
  (∀ b m k l, Completes (.amax b m k) ⟨.amax, .m b m k⟩ (fun x => Acts x ∧ x.wOk ∧ x.access .rmw false (2 ^ m.sz.toNat) (2 ^ m.sz.toNat) 0 x.base = .ok 0 l) (fun x => { main := some (.deferred x.slot 0), alt := if m.rw then some (.deferred x.slot 1) else none, effs := [.atomic m.lsid.toNat .max l.key (2 ^ m.sz.toNat) x.b.word x.c.word m.sx x.wTime l.route l.compress] })) ∧
  (∀ b m k l, Completes (.aand b m k) ⟨.aand, .m b m k⟩ (fun x => Acts x ∧ x.wOk ∧ x.access .rmw false (2 ^ m.sz.toNat) (2 ^ m.sz.toNat) 0 x.base = .ok 0 l) (fun x => { main := some (.deferred x.slot 0), alt := if m.rw then some (.deferred x.slot 1) else none, effs := [.atomic m.lsid.toNat .and l.key (2 ^ m.sz.toNat) x.b.word x.c.word m.sx x.wTime l.route l.compress] })) ∧
  (∀ b m k l, Completes (.aor b m k) ⟨.aor, .m b m k⟩ (fun x => Acts x ∧ x.wOk ∧ x.access .rmw false (2 ^ m.sz.toNat) (2 ^ m.sz.toNat) 0 x.base = .ok 0 l) (fun x => { main := some (.deferred x.slot 0), alt := if m.rw then some (.deferred x.slot 1) else none, effs := [.atomic m.lsid.toNat .or l.key (2 ^ m.sz.toNat) x.b.word x.c.word m.sx x.wTime l.route l.compress] })) ∧
  (∀ b m k l, Completes (.axor b m k) ⟨.axor, .m b m k⟩ (fun x => Acts x ∧ x.wOk ∧ x.access .rmw false (2 ^ m.sz.toNat) (2 ^ m.sz.toNat) 0 x.base = .ok 0 l) (fun x => { main := some (.deferred x.slot 0), alt := if m.rw then some (.deferred x.slot 1) else none, effs := [.atomic m.lsid.toNat .xor l.key (2 ^ m.sz.toNat) x.b.word x.c.word m.sx x.wTime l.route l.compress] })) ∧
  (∀ b m k l, Completes (.claimel b m k) ⟨.claimel, .m b m k⟩ (fun x => Acts x ∧ x.access .rmw false 16 16 0 x.base = .ok 0 l) (fun x => { main := some (.deferred x.slot 0), alt := if m.rw then some (.deferred x.slot 1) else none, effs := [.claimel m.lsid.toNat l.key (8 * 2 ^ m.sz.toNat) x.b.word l.route l.compress] }))

/-- R187 to R190 and R192: witness instructions and BAR as they fire. -/
def Obligations.WitnessInstructions : Prop :=
  (∀ b, Completes (.wjoin b) ⟨.wjoin, .b b⟩ (fun x => Acts x ∧ wKind x.a.word ≠ 3 ∧ wKind x.b.word ≠ 3) (fun x => scalarOut (joinWitness (x.st.tile x.thread.tile).horizon x.a.word x.b.word))) ∧
  (∀ b m, Completes (.wjoinImm b m) ⟨.wjoin, .imm b m⟩ (fun x => Acts x ∧ wKind x.a.word ≠ 3 ∧ wKind x.b.word ≠ 3) (fun x => scalarOut (joinWitness (x.st.tile x.thread.tile).horizon x.a.word x.b.word))) ∧
  (∀ p, Completes (.wfloor p) ⟨.wfloor, .p p⟩ (fun x => Acts x ∧ x.badWitness 0 x.a.word = none) (fun x => { effs := match contributes (x.st.tile x.thread.tile).horizon x.a.word with | some t => [.wfloor t] | none => [] })) ∧
  (∀ p, Completes (.wfloorExt p) ⟨.wfloor, .px p 0⟩ (fun x => Acts x ∧ x.badWitness 0 x.a.word = none) (fun x => { effs := match contributes (x.st.tile x.thread.tile).horizon x.a.word with | some t => [.wfloor t] | none => [] })) ∧
  (∀ b, Completes (.wnow b) ⟨.wnow, .b b⟩ (Acts) (fun x => scalarOut ((x.st.tile x.thread.tile).horizon.setWidth 64))) ∧
  (∀ b e, Completes (.wnowExt b e) ⟨.wnow, .x b e 0⟩ (Acts) (fun x => scalarOut ((x.st.tile x.thread.tile).horizon.setWidth 64))) ∧
  (∀ b, Completes (.wtest b) ⟨.wtest, .b b⟩ (fun x => Acts x ∧ wKind x.a.word ≠ 3) (fun x => scalarOut (if wKind x.a.word = 1 then 1 else 0))) ∧
  (∀ b e m, Completes (.wtestExt b e m) ⟨.wtest, .x b e (m.setWidth 32)⟩ (fun x => Acts x ∧ wKind x.a.word ≠ 3) (fun x => scalarOut (if wtestOf m.toNat (if m = 1 then x.thread.floor else (x.st.tile x.thread.tile).horizon) (x.st.tile x.thread.tile).horizon x.a.word then 1 else 0))) ∧
  (∀ b, Completes (.bar b) ⟨.bar, .b b⟩ (fun x => Acts x ∧ x.badWitness 0 x.a.word = none) (fun x => { main := some (.deferred x.slot 0), effs := [.bar 0 32 x.a.word] })) ∧
  (∀ b e id count na, Completes (.barExt b e id count na) ⟨.bar, .x b e (BitVec.ofNat 32 (id.toNat + 16 * count.toNat + 32768 * encBool na))⟩ (fun x => Acts x ∧ (na = true ∨ x.badWitness 0 x.a.word = none)) (fun x => { main := some (.deferred x.slot 0), effs := [.bar id.toNat (if count = 0 then 32 else count.toNat) (if na then 0x8000000000000000 else x.a.word)] }))

/-- R187 with R297 and R299: the join of two witnesses. -/
def Obligations.JoinIsTheLaterTime : Prop :=
  ∀ h a b, wKind a = 0 → wKind b = 0 → expired h a = false → implausible h a = false → expired h b = false → implausible h b = false →
    joinWitness h a b = (if serialLe (wTime a) (wTime b) then b else a) ∧ joinWitness h satisfied b = b ∧ joinWitness h a satisfied = a ∧
    ∀ e, wKind e = 1 → joinWitness h e b = e ∧ joinWitness h a e = e

/-- R197, R198 and R203 to R210: instructions of the matrix array as they fire. -/
def Obligations.MatrixInstructions : Prop :=
  (∀ b, Completes (.mclaim b) ⟨.mclaim, .b b⟩ (fun x => Acts x) (fun x => { main := some (.deferred x.slot 0), effs := [.mclaim (x.a.word.getLsbD 0)] })) ∧
  (∀ p, Completes (.mrel p) ⟨.mrel, .p p⟩ (fun x => Acts x) (fun x => { effs := [.mrel] })) ∧
  (∀ k arow acc slice dual, Completes (.mmul k arow acc slice dual) ⟨.mmul, .k k Machine.noRes (BitVec.ofNat 32 (arow.toNat + 512 * encAcc acc + 2048 * slice.toNat + 131072 * encBool dual))⟩ (fun x => x.claims ∧ x.laned ∧ x.given ∧ x.fine x.a (fun c => if dual then isEight c else isScaled c) true ∧ 128 * slice.toNat + (if dual then 256 else 128) ≤ capacity x.thread.vlmax x.a.vec.fmt.width ∧ ¬(dual = true ∧ arow.toNat = 511)) (fun x => { effs := [.mx k.msid.toNat (.cells (if dual then (mmulRow x.view x.a.vec x.p.on acc (128 * slice.toNat) arow.toNat).1 ++ (mmulRow x.view x.a.vec x.p.on acc (128 * slice.toNat + 128) (arow.toNat + 1)).1 else (mmulRow x.view x.a.vec x.p.on acc (128 * slice.toNat) arow.toNat).1))], flags := if dual then (mmulRow x.view x.a.vec x.p.on acc (128 * slice.toNat) arow.toNat).2 ||| (mmulRow x.view x.a.vec x.p.on acc (128 * slice.toNat + 128) (arow.toNat + 1)).2 else (mmulRow x.view x.a.vec x.p.on acc (128 * slice.toNat) arow.toNat).2 })) ∧
  (∀ k b arow nrow pos, Completes (.mrd k b arow nrow pos) ⟨.mrd, .k k b (BitVec.ofNat 32 (arow.toNat + 512 * nrow.toNat + 8192 * pos.toNat))⟩ (fun x => x.claims ∧ x.laned ∧ x.given ∧ 256 * (pos.toNat + nrow.toNat + 1) ≤ capacity x.thread.vlmax 32 ∧ arow.toNat + nrow.toNat ≤ 511 ∧ x.vl ≤ capacity x.thread.vlmax 32) (fun x => Out.tok (.vector (plainTag 13) ((List.range x.vl).map (fun e => if 256 * pos.toNat ≤ e ∧ e < 256 * pos.toNat + 256 * (nrow.toNat + 1) ∧ x.p.on e = true then some (BitVec.ofNat 64 (accAt x.view.acc (arow.toNat + (e - 256 * pos.toNat) / 256) ((e - 256 * pos.toNat) % 256))) else none)) [] []))) ∧
  (∀ k arow nrow pos, Completes (.mwr k arow nrow pos) ⟨.mwr, .k k Machine.noRes (BitVec.ofNat 32 (arow.toNat + 512 * nrow.toNat + 8192 * pos.toNat))⟩ (fun x => x.claims ∧ x.laned ∧ x.given ∧ 256 * (pos.toNat + nrow.toNat + 1) ≤ capacity x.thread.vlmax 32 ∧ arow.toNat + nrow.toNat ≤ 511 ∧ x.fine x.a mwrOk false) (fun x => { effs := [.mx k.msid.toNat (.cells ((List.range x.vl).filterMap (fun e => if 256 * pos.toNat ≤ e ∧ e < 256 * pos.toNat + 256 * (nrow.toNat + 1) ∧ x.p.on e = true then (x.a.vec.at e).map (fun a => (arow.toNat * 256 + (e - 256 * pos.toNat), BitVec.ofNat 32 (convert x.a.vec.fmt 127 fp32 127 .rne false a.toNat).1)) else none)))] })) ∧
  (∀ k arow nrow, Completes (.mzero k arow nrow) ⟨.mzero, .k k Machine.noRes (BitVec.ofNat 32 (arow.toNat + 512 * nrow.toNat))⟩ (fun x => x.claims ∧ Acts x ∧ arow.toNat + nrow.toNat ≤ 511) (fun x => { effs := [.mx k.msid.toNat (.zeroRows arow.toNat (nrow.toNat + 1))] })) ∧
  (∀ k, Completes (.mdecay k) ⟨.mdecay, .k k Machine.noRes 0⟩ (fun x => x.claims ∧ Acts x) (fun x => { effs := [.mx k.msid.toNat (.decay (x.a.word.setWidth 32))] })) ∧
  (∀ k u oks, Completes (.mspill k u) ⟨.mspill, .k k Machine.noRes (BitVec.ofNat 32 (encUnit u))⟩ (fun x => x.claims ∧ Acts x ∧ sweep (x.unitAccess .write (unitLines u)) = ⟨oks, [], none⟩) (fun x => { effs := [.mx k.msid.toNat (.spill (oks.zipIdx.map (fun e => ⟨e.2, e.1.2.key, x.view.unitLine u e.2, e.1.2.route, e.1.2.compress⟩)) (u == .back))] })) ∧
  (∀ k u wi oks bytes, CompletesWith (.mfill k u wi) ⟨.mfill, .k k Machine.noRes (BitVec.ofNat 32 (encUnit u + 4 * encBool wi))⟩ (fun x => x.claims ∧ Acts x ∧ (wi = true → x.badWitness 1 x.b.word = none) ∧ ¬(u = .back ∧ x.view.backSt = .filling) ∧ sweep (x.unitAccess .read (unitLines u)) = ⟨oks, [], none⟩ ∧ x.readsGive x.a.word (128 * unitLines u) (x.bound (if wi then x.timeOf x.b.word else none)) bytes) (fun x => x.readAt x.st x.a.word (128 * unitLines u) (x.bound (if wi then x.timeOf x.b.word else none))) (fun x => { effs := [.mx k.msid.toNat (unitLoad u bytes)] }))

/-- R212 to R236: instructions of the weight path as they fire. -/
def Obligations.WeightInstructions : Prop :=
  (∀ k, Completes (.wcfg k) ⟨.wcfg, .k k Machine.noRes 0⟩ (fun x => x.claims ∧ Acts x ∧ x.b.word.extractLsb' 56 8 = 0 ∧ x.b.word.toNat % 16 = 0 ∧ cfgBad x.a.word = false) (fun x => { effs := [.mx k.msid.toNat (.config (x.a.word.setWidth 16) x.b.word)] })) ∧
  (∀ k l, CompletesWith (.wtable k) ⟨.wtable, .k k Machine.noRes 0⟩ (fun x => x.claims ∧ Acts x ∧ x.structGives x.a.word 64 64 l ∧ (wordsOf 2 l).foldl (· + ·) 0 = 4096) (fun x => x.readAt x.st x.a.word 64 x.thread.floor) (fun x => { effs := [.mx k.msid.toNat (.table (wordsOf 2 l))] })) ∧
  (∀ k ff, Completes (.wload k ff) ⟨.wload, .k k Machine.noRes (BitVec.ofNat 32 (encBool ff))⟩ (fun x => x.claims ∧ Acts x ∧ x.badWitness 2 x.c.word = none ∧ x.a.word.extractLsb' 56 8 = 0 ∧ x.a.word.toNat % streamAlign x.view.cfg = 0 ∧ tableBad x.view.cfg x.view.ftab = 0) (fun x => { effs := [.mx k.msid.toNat (.wload ⟨x.a.word, x.view.cfg, x.view.ftab.getD [], x.view.fp, ff, x.bound (x.timeOf x.c.word), x.thread.asid, x.thread.supervisor, false, 0, [], x.c.word, none⟩)] })) ∧
  (∀ k arow, Completes (.wloada k arow) ⟨.wloada, .k k Machine.noRes (arow.setWidth 32)⟩ (fun x => x.claims ∧ Acts x ∧ arow.toNat ≤ 384) (fun x => { effs := [.mx k.msid.toNat (.wloada ⟨0, 0, [], 0, false, 0, x.thread.asid, x.thread.supervisor, true, arow.toNat, roundPlane x.view arow.toNat, satisfied, none⟩)] })) ∧
  (∀ k, Completes (.wswap k) ⟨.wswap, .k k Machine.noRes 0⟩ (fun x => x.claims ∧ Acts x ∧ x.loadBelow = false ∧ x.view.backSt = .idle) (fun x => { effs := [.mx k.msid.toNat (.swap)] })) ∧
  (∀ k b wait, Completes (.wstat k b wait) ⟨.wstat, .k k b (BitVec.ofNat 32 (encBool wait))⟩ (fun x => x.claims ∧ Acts x ∧ (wait = true → x.view.backSt ≠ .filling)) (fun x => scalarOut x.view.wstat)) ∧
  (∀ k b codes es, CompletesWith (.wexp k b) ⟨.wexp, .k k b 0⟩ (fun x => x.claims ∧ x.laned ∧ x.given ∧ 0 < x.vl ∧ x.vl ≤ capacity x.thread.vlmax 16 ∧ x.expands codes es) (fun x => x.loadAt (x.loadAt x.st.tick.2 x.a.word codes.2 x.thread.floor) x.view.fp (((x.vl + 127) / 128) * entrySize x.view.cfg) x.thread.floor) (fun x => { main := some (.vector (plainTag 11) (codes.1.zipIdx.map (fun q => if x.p.on q.2 then some (BitVec.ofNat 64 (codeWeight x.view.cfg (es[q.2 / 128]?.getD []) (q.2 % 128) q.1)) else none)) [] []), effs := [.mx k.msid.toNat (.fp (addW x.view.fp (((x.vl + 127) / 128) * entrySize x.view.cfg))), .mx k.msid.toNat (x.stallEffect (x.expandStall x.streamReader codes.2 ((x.vl + 127) / 128)))] })) ∧
  (∀ k b, Completes (.wexp k b) ⟨.wexp, .k k b 0⟩ (fun x => x.claims ∧ x.laned ∧ x.given ∧ x.vl = 0 ∧ x.a.word.extractLsb' 56 8 = 0 ∧ x.a.word.toNat % (if cfgWfmt x.view.cfg = 2 then 8 else if cfgWfmt x.view.cfg = 1 then 4 else 1) = 0 ∧ cfgWfmt x.view.cfg ≠ 0 ∧ cfgSp x.view.cfg = false ∧ tableBad x.view.cfg x.view.ftab = 0 ∧ x.view.backSt ≠ .filling) (fun x => { main := some (.vector (plainTag 11) [] [] []), effs := [.mx k.msid.toNat (.fp x.view.fp)] }))

/-- R241 to R252 with R315 and R316: row locks, launches, fences and status as they fire. -/
def Obligations.PlaneLocksAndLaunches : Prop :=
  (∀ b l r, CompletesWith (.plock b) ⟨.plock, .b b⟩ (fun x => Acts x ∧ x.lockGives l r .read ∧ x.st.lockPending x.party = false ∧ x.st.rangesHeld x.party + x.locksInBlock < 16) (fun x => x.readAt x.st x.a.word 64 x.thread.floor) (fun x => { main := some (.deferred x.slot 0), effs := [.plock (rangeRuns (descOf l) r x.b.word) false false (descOf l).cluster x.a.word x.b.word] })) ∧
  (∀ b e wr tries l r, CompletesWith (.plockExt b e wr tries) ⟨.plock, .x b e (BitVec.ofNat 32 (encBool wr + 2 * encBool tries))⟩ (fun x => Acts x ∧ x.lockGives l r (if wr then .write else .read) ∧ x.st.lockPending x.party = false ∧ x.st.rangesHeld x.party + x.locksInBlock < 16) (fun x => x.readAt x.st x.a.word 64 x.thread.floor) (fun x => { main := some (.deferred x.slot 0), effs := [.plock (rangeRuns (descOf l) r x.b.word) wr tries (descOf l).cluster x.a.word x.b.word] })) ∧
  (∀ p l r, CompletesWith (.punlock p) ⟨.punlock, .p p⟩ (fun x => Acts x ∧ x.lockGives l r .bare) (fun x => x.readAt x.st x.a.word 64 x.thread.floor) (fun x => { effs := [.punlock (rangeRuns (descOf l) r x.b.word)] })) ∧
  (∀ b bl dl r n ws w, CompletesWith (.plaunch b) ⟨.plaunch, .b b⟩ (fun x => Acts x ∧ x.launchGives bl dl r n ws w) (fun x => x.readAt (x.readAt (x.readAt (x.imageRead x.st x.a.word x.thread.floor n) (bindingOf bl).desc 64 x.thread.floor) x.b.word 64 x.thread.floor) x.a.word 64 x.thread.floor) (fun x => { main := some (.deferred x.slot 0), effs := [.plaunch (x.launchOf bl dl r ws w)] })) ∧
  (∀ b e bl dl r n ws w, CompletesWith (.plaunchExt b e) ⟨.plaunch, .x b e 0⟩ (fun x => Acts x ∧ x.launchGives bl dl r n ws w) (fun x => x.readAt (x.readAt (x.readAt (x.imageRead x.st x.a.word x.thread.floor n) (bindingOf bl).desc 64 x.thread.floor) x.b.word 64 x.thread.floor) x.a.word 64 x.thread.floor) (fun x => { main := some (.deferred x.slot 0), effs := [.plaunch (x.launchOf bl dl r ws w)] })) ∧
  (∀ b o w, CompletesWith (.pfence b) ⟨.pfence, .b b⟩ (fun x => Acts x ∧ handleFault x x.a.word = none ∧ x.st.opOf x.a.word = some o ∧ o.state = .done ∧ o.witness = some w) (fun x => x.st.raiseHorizonW x.tile w) (fun x => scalarOut w)) ∧
  (∀ b, CompletesWith (.pfence b) ⟨.pfence, .b b⟩ (fun x => Acts x ∧ handleFault x x.a.word = none ∧ x.st.opOf x.a.word = none) (fun x => x.st.raiseHorizonW x.tile (optWitness (x.st.cluster (handleCluster x.a.word)).planeHorizon)) (fun x => scalarOut (optWitness (x.st.cluster (handleCluster x.a.word)).planeHorizon))) ∧
  (∀ b e o w, CompletesWith (.pfenceExt b e) ⟨.pfence, .x b e 0⟩ (fun x => Acts x ∧ handleFault x x.a.word = none ∧ x.st.opOf x.a.word = some o ∧ o.state = .done ∧ o.witness = some w) (fun x => x.st.raiseHorizonW x.tile w) (fun x => scalarOut w)) ∧
  (∀ b e, CompletesWith (.pfenceExt b e) ⟨.pfence, .x b e 0⟩ (fun x => Acts x ∧ handleFault x x.a.word = none ∧ x.st.opOf x.a.word = none) (fun x => x.st.raiseHorizonW x.tile (optWitness (x.st.cluster (handleCluster x.a.word)).planeHorizon)) (fun x => scalarOut (optWitness (x.st.cluster (handleCluster x.a.word)).planeHorizon))) ∧
  (∀ b, Completes (.pstat b) ⟨.pstat, .b b⟩ (fun x => Acts x ∧ handleFault x x.a.word = none) (fun x => scalarOut (opStatus (x.st.opOf x.a.word)))) ∧
  (∀ b e, Completes (.pstatExt b e false) ⟨.pstat, .x b e 0⟩ (fun x => Acts x ∧ handleFault x x.a.word = none) (fun x => scalarOut (opStatus (x.st.opOf x.a.word)))) ∧
  (∀ b e l p, Completes (.pstatExt b e true) ⟨.pstat, .x b e 1⟩ (fun x => Acts x ∧ x.a.word.extractLsb' 56 8 = 0 ∧ x.access .read true 1 1 0 (.inside ⟨.global, x.a.word.toNat⟩) = .ok 0 l ∧ x.st.place l.key = some p) (fun x => scalarOut (x.st.bankStatus p)))

/-- R261 to R263: the plane port as it fires. -/
def Obligations.PlanePortInstructions : Prop :=
  (∀ b m tag p rl dl r, CompletesWith (.vldp b m tag) ⟨.vldp, .m b m (some (tag.setWidth 64))⟩ (fun x => x.laned ∧ x.given ∧ x.vl ≤ capacity x.thread.vlmax (tagWidth tag) ∧ x.wOk ∧ x.planeGives (fmtOf (tagFmt tag)) false x.accessed p rl dl r ∧ x.rowsReadable (refOf rl) (descOf dl) r) (fun x => x.readAt (x.readAt (x.afterRows (refOf rl) (descOf dl) r) (refOf rl).desc 64 x.thread.floor) p.encode 16 x.thread.floor) (fun x => { main := some (.vector tag ((List.range x.vl).map (fun e => if x.p.on e then some (planeElem (descOf dl) (refOf rl) (fmtOf (tagFmt tag)) (x.rowsRead (refOf rl) (descOf dl) r).2.1 ((refOf rl).first + e)) else none)) [] []), alt := if m.rw then some (.scalar (optWitness (x.rowsRead (refOf rl) (descOf dl) r).2.2)) else none })) ∧
  (∀ b m p rl dl r, CompletesWith (.vstp b m) ⟨.vstp, .m b m none⟩ (fun x => x.laned ∧ x.given ∧ x.wOk ∧ x.fine x.b isInt false ∧ (List.range x.vl).filter x.active ≠ [] ∧ x.planeGives x.b.vec.fmt true ((List.range x.vl).filter x.active) p rl dl r) (fun x => x.readAt (x.readAt x.st (refOf rl).desc 64 x.thread.floor) p.encode 16 x.thread.floor) (fun x => { main := some (.deferred x.slot 0), effs := [.planes m.lsid.toNat ((planePairs (refOf rl) x.vl ((List.range x.vl).filter x.active)).map (x.rowWrite (refOf rl) (descOf dl) r ((List.range x.vl).filter x.active))) x.wTime] }))

/-- R264 to R266, R269, R271 and R272: copy instructions as they fire. -/
def Obligations.CopyInstructions : Prop :=
  (∀ p, Completes (.cpset p) ⟨.cpset, .p p⟩ (fun x => Acts x) (fun x => { effs := [.cpset 0 x.a.word] })) ∧
  (∀ p i, Completes (.cpsetExt p i) ⟨.cpset, .px p (i.setWidth 32)⟩ (fun x => Acts x) (fun x => { effs := [.cpset i.toNat x.a.word] })) ∧
  (∀ b, Completes (.cpgo b) ⟨.cpgo, .b b⟩ (fun x => Acts x ∧ x.cpsetOpen = false ∧ Shadow.fault x.shadowView = none) (fun x => { main := some (.deferred x.slot 0), effs := [.cpgo x.shadowView] })) ∧
  (∀ b e, Completes (.cpgoExt b e) ⟨.cpgo, .x b e 0⟩ (fun x => Acts x ∧ x.cpsetOpen = false ∧ Shadow.fault x.shadowView = none) (fun x => { main := some (.deferred x.slot 0), effs := [.cpgo x.shadowView] })) ∧
  (∀ p, Completes (.cpqf p) ⟨.cpqf, .p p⟩ (fun x => Acts x) (fun x => { effs := [.cpqf 0 0] })) ∧
  (∀ p q m, Completes (.cpqfExt p q m) ⟨.cpqf, .px p (BitVec.ofNat 32 (q.toNat + 256 * m.toNat))⟩ (fun x => Acts x) (fun x => { effs := [.cpqf q.toNat m] })) ∧
  (∀ b, Completes (.cpstat b) ⟨.cpstat, .b b⟩ (fun x => Acts x ∧ x.st.idBad x.a.word = false) (fun x => scalarOut (x.st.copyStatus x.a.word))) ∧
  (∀ b e, Completes (.cpstatExt b e) ⟨.cpstat, .x b e 0⟩ (fun x => Acts x ∧ x.st.idBad x.a.word = false) (fun x => scalarOut (x.st.copyStatus x.a.word))) ∧
  (∀ p, Completes (.cpabort p) ⟨.cpabort, .p p⟩ (fun x => Acts x ∧ x.st.idBad x.a.word = false) (fun x => { effs := [.cpabort x.a.word] }))

/-- R16, R17, R27, R90, R373, R387: a block on its way in, and the oldest block's trap. -/
def Obligations.BlocksComeInAndTrap : Prop :=
  (∀ (s : State) tid guess a, s.eligible guess tid = true → (s.thread tid).nextBlock guess = some a →
    ∃ t, exec (.blockFetch tid guess) s = .next t ∧ (t.thread tid).flight = (s.thread tid).flight ++ [emptyBlock s.fresh a] ∧
      t.mem = s.mem ∧ ∀ n, (s.thread n).keeps (t.thread n) ∧ (n ≠ tid → (t.thread n).flight = (s.thread n).flight)) ∧
  (∀ (s u v : State) tid b l0 bytes offs, (s.thread tid).live = true → (s.thread tid).flight.find? (fun b => !b.decoded && b.held.isNone) = some b →
    s.codeLine tid b.addr = (u, .ok l0) → headerBad (leNat (l0.take 4)) = none →
    u.codeLines tid b.addr ((Nat.max (headWords (leNat (l0.take 4))) 2 + 15) / 16) [] = (v, .ok bytes) →
    decodeBlock b.addr (wordsFrom (headWords (leNat (l0.take 4))) bytes) = .ok offs →
    ∃ t, exec (.blockDecode tid) s = .next t ∧ t.mem = v.mem ∧ (∀ n, n ≠ tid → t.thread n = v.thread n) ∧
      (t.thread tid).flight = (v.thread tid).flight.map (fun x => if x.serial = b.serial then
        { x with words := wordsFrom (headWords (leNat (l0.take 4))) bytes, offs := offs, decoded := true,
                 csrs := v.startCsrs tid { b with words := wordsFrom (headWords (leNat (l0.take 4))) bytes, offs := offs, decoded := true } } else x)) ∧
  (∀ (s : State) tid b k r, b.raw k = some r → r.op = .csrr → (Raw.csr r, s.csrRead tid (Raw.csr r)) ∈ s.startCsrs tid b) ∧
  (∀ (s u : State) tid b rest l0 c, (s.thread tid).live = true → (s.thread tid).flight = b :: rest → b.decoded = false → b.held = none →
    s.codeLine tid b.addr = (u, .ok l0) → headerBad (leNat (l0.take 4)) = some c → (u.thread tid).flight = b :: rest →
    (u.thread tid).tvec ≠ 0 → (u.thread tid).tvec ≠ b.addr →
    ∃ t, exec (.blockDecode tid) s = .next t ∧ u.trapsTo t tid cBLOCKFMT b.addr (BitVec.allOnes 64) 0 0 (BitVec.ofNat 64 c)) ∧
  (∀ (s : State) tid b rest f, (s.thread tid).live = true → (s.thread tid).flight = b :: rest → b.held = some f →
    (s.thread tid).tvec ≠ 0 → (s.thread tid).tvec ≠ b.addr →
    ∃ t, exec (.trapEntry tid) s = .next t ∧ s.trapsTo t tid f.cause b.addr f.slot f.addr (f.elem % 2 ^ 32) f.info) ∧
  (∀ (s : State) tid b rest, (s.thread tid).live = true → (s.thread tid).flight = b :: rest → b.held = none → b.stalled = true →
    (s.thread tid).tvec ≠ 0 → (s.thread tid).tvec ≠ b.addr →
    ∃ t, exec (.trapEntry tid) s = .next t ∧ s.trapsTo t tid cBLOCKSTALL b.addr b.stallSlot 0 0 0)

/-- R29 to R32, R108 to R113, R116, R122 to R125, R174, R185, R188, R193, R194, R197, R198, R202, R210, R243 to R249, R263 to R272: what a commit and a
deferred result leave. That an ERET's block leaves for TBLOCK whatever its exit names is log entry 60. -/
def Obligations.BlockCommitsAndDeferredResults : Prop :=
  (∀ (s : State) tid b slot a, s.commitReady tid = some b → b.effects = [] → b.exit = some (slot, .goto a) →
    ∃ t, exec (.blockCommit tid) s = .next t ∧ (t.thread tid).pc = a ∧ (t.thread tid).supervisor = (s.thread tid).supervisor ∧
      (t.thread tid).blocks = (s.thread tid).blocks + 1 ∧ (t.thread tid).sregs = ((s.thread tid).writeRegs b s.fresh).sregs ∧
      (∀ n rest, (t.thread tid).flight = n :: rest → n.addr = a ∧ sameBlocks (n :: rest) ((s.thread tid).flight.drop 1)) ∧
      (t.thread tid).vregs = ((s.thread tid).writeRegs b s.fresh).vregs ∧
      (t.thread tid).mregs = ((s.thread tid).writeRegs b s.fresh).mregs ∧ (t.thread tid).fflags = fflagsAfter (s.thread tid).fflags none b.flags ∧
      (t.thread tid).floor = (s.thread tid).floor ∧ (t.thread tid).frm = (s.thread tid).frm ∧ (t.thread tid).vl = (s.thread tid).vl ∧ t.mem = s.mem ∧
      t.stores = s.stores ∧ ∀ n, n ≠ tid → t.thread n = s.thread n) ∧
  (∀ (s : State) tid b slot a l, s.commitReady tid = some b → b.effects = [] → b.exit = some (slot, .call a l) →
    ∃ t, exec (.blockCommit tid) s = .next t ∧ (t.thread tid).pc = a ∧ mget 0 (t.thread tid).sregs 63 = l ∧
      (∀ n, n ≠ 63 → mget 0 (t.thread tid).sregs n = mget 0 ((s.thread tid).writeRegs b s.fresh).sregs n) ∧
      (∀ n rest, (t.thread tid).flight = n :: rest → n.addr = a ∧ sameBlocks (n :: rest) ((s.thread tid).flight.drop 1)) ∧
      (t.thread tid).vregs = ((s.thread tid).writeRegs b s.fresh).vregs ∧
      (t.thread tid).mregs = ((s.thread tid).writeRegs b s.fresh).mregs ∧ (t.thread tid).fflags = fflagsAfter (s.thread tid).fflags none b.flags ∧
      (t.thread tid).floor = (s.thread tid).floor ∧ (t.thread tid).frm = (s.thread tid).frm ∧ (t.thread tid).vl = (s.thread tid).vl ∧ t.mem = s.mem ∧
      t.stores = s.stores ∧ ∀ n, n ≠ tid → t.thread n = s.thread n) ∧
  (∀ (s : State) tid b slot a, s.commitReady tid = some b → b.effects = [] → b.exit = some (slot, .sysc a) →
    (s.thread tid).tvec ≠ 0 → (s.thread tid).tvec ≠ b.addr →
    ∃ t, exec (.blockCommit tid) s = .next t ∧ (t.thread tid).flight = [] ∧ (t.thread tid).supervisor = true ∧ (t.thread tid).pc = (s.thread tid).tvec ∧
      (t.thread tid).tcause = BitVec.ofNat 64 (cSYSCALL + (if (s.thread tid).supervisor then 256 else 0)) ∧ (t.thread tid).tblock = a ∧
      (t.thread tid).tslot = slotW slot ∧ (t.thread tid).taddr = b.addr ∧ (t.thread tid).telem = 0 ∧ (t.thread tid).tinfo = 0 ∧
      (t.thread tid).sregs = ((s.thread tid).writeRegs b s.fresh).sregs ∧
      (t.thread tid).vregs = ((s.thread tid).writeRegs b s.fresh).vregs ∧
      (t.thread tid).mregs = ((s.thread tid).writeRegs b s.fresh).mregs ∧ (t.thread tid).fflags = fflagsAfter (s.thread tid).fflags none b.flags ∧
      (t.thread tid).floor = (s.thread tid).floor ∧ (t.thread tid).frm = (s.thread tid).frm ∧ (t.thread tid).vl = (s.thread tid).vl ∧ t.mem = s.mem ∧
      t.stores = s.stores ∧ ∀ n, n ≠ tid → t.thread n = s.thread n) ∧
  (∀ (s : State) tid b slot a k r v, s.commitReady tid = some b → b.effects = [] → b.exit = some (slot, .goto a) →
    b.slotsOf (fun r => r.op.writesReg) = [(k, r)] → r.op = .wrs → k ∈ b.fired → (b.pOf k r).live = true → b.tok k .a = some (.scalar v) →
    ∃ t, exec (.blockCommit tid) s = .next t ∧ mget 0 (t.thread tid).sregs r.reg = v ∧
      ∀ n, n ≠ r.reg → mget 0 (t.thread tid).sregs n = mget 0 (s.thread tid).sregs n) ∧
  (∀ (s : State) tid b slot a k lsid el w, s.commitReady tid = some b → b.effects = [⟨k, .store lsid [el] w⟩] → b.exit = some (slot, .goto a) →
    (b.raw k).any (fun r => r.op == .st) = true → el.route = .cached →
    ∃ t q, exec (.blockCommit tid) s = .next t ∧ t.stores = s.stores ++ [q] ∧ q.kind = .write (elCells [el]) ∧ q.w = joinTimes [w, (s.thread tid).spill] ∧ q.floor = some (s.thread tid).floor ∧
      q.tid = some tid ∧ q.gid = some s.fresh ∧ t.mem = s.mem ∧ (t.thread tid).pc = a) ∧
  -- the effects of R32, one at a time
  (∀ (s : State) tid b k a w, s.commitsOne tid b k (.wfloor w) a →
    ∃ t, exec (.blockCommit tid) s = .next t ∧ s.committed t tid b a ∧ (t.thread tid).floor = serialMax (s.thread tid).floor w ∧
      (t.tile (s.thread tid).tile).horizon = serialMax (s.tile (s.thread tid).tile).horizon (serialMax (s.thread tid).floor w) ∧ t.stores = s.stores) ∧
  (∀ (s : State) tid b k a n w, s.commitsOne tid b k (.setvl n w) a → (s.thread tid).lanes &&& (s.tile (s.thread tid).tile).doubled = 0 →
    ∃ t, exec (.blockCommit tid) s = .next t ∧ s.committed t tid b a ∧
      (t.thread tid).vl = Nat.min n (Nat.min (s.thread tid).vlmax (s.thread tid).ceil * 32 / w) ∧ (t.thread tid).vlOut = (s.thread tid).vlOut + 1 ∧
      (t.thread tid).lanes = (s.thread tid).lanes ∧
      s.knows t tid b k (BitVec.ofNat 64 (Nat.min n (Nat.min (s.thread tid).vlmax (s.thread tid).ceil * 32 / w)))) ∧
  (∀ (s : State) tid b k a n, s.commitsOne tid b k (.lclaim n) a → (s.thread tid).lanes &&& (s.tile (s.thread tid).tile).doubled = 0 → s.waiting = [] →
    ∃ t, exec (.blockCommit tid) s = .next t ∧ s.committed t tid b a ∧
      (t.thread tid).lanes = lclaimGrant (s.thread tid).lanes (s.tile (s.thread tid).tile).free n ∧
      (t.thread tid).vl = Nat.min (s.thread tid).vl (256 * groupsOf (lclaimGrant (s.thread tid).lanes (s.tile (s.thread tid).tile).free n)) ∧
      (t.thread tid).vlOut = (s.thread tid).vlOut + 1 ∧
      s.knows t tid b k ((lclaimGrant (s.thread tid).lanes (s.tile (s.thread tid).tile).free n).setWidth 64)) ∧
  (∀ (s : State) tid b k a, s.commitsOne tid b k .eret a →
    ∃ t, exec (.blockCommit tid) s = .next t ∧ s.committed t tid b (s.thread tid).tblock ∧ (t.thread tid).supervisor = (s.thread tid).tcause.getLsbD 8 ∧
      (t.thread tid).flight = [] ∧ s.plainly t tid b) ∧
  (∀ (s : State) tid b k a, s.commitsOne tid b k .icinv a →
    ∃ t, exec (.blockCommit tid) s = .next t ∧ s.committed t tid b a ∧ (t.tile (s.thread tid).tile).icache = [] ∧ (t.thread tid).flight = [] ∧ s.plainly t tid b) ∧
  (∀ (s : State) tid b k a va c, s.commitsOne tid b k (.tlbinv va c) a →
    ∃ t, exec (.blockCommit tid) s = .next t ∧ s.committed t tid b a ∧ (∀ n, (t.tile n).tlb = (s.tile n).tlb.filter (fun e => !e.hit (tlbScope va c))) ∧
      (∀ n, (t.cluster n).tlb = (s.cluster n).tlb.filter (fun e => !e.hit (tlbScope va c))) ∧ (t.thread tid).flight = [] ∧ s.plainly t tid b) ∧
  (∀ (s : State) tid b k a id n w x, s.commitsOne tid b k (.bar id n w) a → s.teamOf (s.thread tid) = some x →
    (mget Barrier.empty x.barriers id).arrivals.length + 1 < Nat.min (if (mget Barrier.empty x.barriers id).arrivals = [] then n else (mget Barrier.empty x.barriers id).count) (x.running s) →
    ∃ t y, exec (.blockCommit tid) s = .next t ∧ s.committed t tid b a ∧ y ∈ t.teams ∧ y.id = x.id ∧
      (mget Barrier.empty y.barriers id).arrivals = (mget Barrier.empty x.barriers id).arrivals ++ [(tid, w, s.fresh)] ∧
      id ∈ (t.thread tid).barred ∧ (t.thread tid).flight = [] ∧ s.plainly t tid b) ∧
  (∀ (s : State) tid b k a id n w x, s.commitsOne tid b k (.bar id n w) a → s.teamOf (s.thread tid) = some x → s.saved = [] →
    (mget Barrier.empty x.barriers id).arrivals = [] → Nat.min n (x.running s) ≤ 1 →
    ∃ t, exec (.blockCommit tid) s = .next t ∧ s.committed t tid b a ∧ s.knows t tid b k w ∧ id ∉ (t.thread tid).barred ∧
      (t.thread tid).floor = (if wKind w = 0 then serialMax (s.thread tid).floor (wTime w) else (s.thread tid).floor)) ∧
  (∀ (s : State) tid b k a n el, s.commitsOne tid b k (.adds n [el]) a → s.trainDest (s.thread tid).tile el.key el.route = none →
    ∃ t, exec (.blockCommit tid) s = .next t ∧ s.committed t tid b a ∧ s.plainly t tid b ∧ s.issues t tid (.folds [el]) el.route none) ∧
  (∀ (s : State) tid b k a n row w, s.commitsOne tid b k (.planes n [row] w) a →
    ∃ t, exec (.blockCommit tid) s = .next t ∧ s.committed t tid b a ∧ s.plainly t tid b ∧ s.issues t tid (.row row) .cached w) ∧
  (∀ (s : State) tid b k a n op key size y z sx w route compress, s.commitsOne tid b k (.atomic n op key size y z sx w route compress) a → route ≠ .peer →
    ∃ t, exec (.blockCommit tid) s = .next t ∧ s.committed t tid b a ∧ s.plainly t tid b ∧ s.issues t tid (.atomic op key size y z sx) route w) ∧
  (∀ (s : State) tid b k a n key width count route compress, s.commitsOne tid b k (.claimel n key width count route compress) a → route ≠ .peer →
    ∃ t, exec (.blockCommit tid) s = .next t ∧ s.committed t tid b a ∧ s.plainly t tid b ∧ (t.thread tid).vlOut = (s.thread tid).vlOut + 1 ∧
      s.issues t tid (.claimel key width count (Nat.min (s.thread tid).vlmax (s.thread tid).ceil * 32 / width)) route none) ∧
  (∀ (s : State) tid b k a tries, s.commitsOne tid b k (.mclaim tries) a → (s.tile (s.thread tid).tile).claimant = some tid →
    ∃ t, exec (.blockCommit tid) s = .next t ∧ s.committed t tid b a ∧ s.plainly t tid b ∧ s.knows t tid b k 1 ∧ t.tiles = s.tiles) ∧
  (∀ (s : State) tid b k a tries, s.commitsOne tid b k (.mclaim tries) a → (s.tile (s.thread tid).tile).claimant = none →
    (s.tile (s.thread tid).tile).claimQ = [] → s.saved = [] →
    ∃ t, exec (.blockCommit tid) s = .next t ∧ s.committed t tid b a ∧ s.plainly t tid b ∧ (t.tile (s.thread tid).tile).claimant = some tid ∧
      (t.tile (s.thread tid).tile).mx = MxState.grant ∧ (t.tile (s.thread tid).tile).claimQ = [(tid, s.fresh)] ∧
      ∀ n, n ≠ (s.thread tid).tile → t.tile n = s.tile n) ∧
  (∀ (s : State) tid b k a u, s.commitsOne tid b k (.mclaim true) a → (s.tile (s.thread tid).tile).claimant = some u → u ≠ tid →
    ∃ t, exec (.blockCommit tid) s = .next t ∧ s.committed t tid b a ∧ s.plainly t tid b ∧ s.knows t tid b k 0 ∧ t.tiles = s.tiles) ∧
  (∀ (s : State) tid b k a u, s.commitsOne tid b k (.mclaim false) a → (s.tile (s.thread tid).tile).claimant = some u → u ≠ tid →
    ∃ t, exec (.blockCommit tid) s = .next t ∧ s.committed t tid b a ∧ s.plainly t tid b ∧ (t.thread tid).mclaimOut = true ∧
      t.tile (s.thread tid).tile = { s.tile (s.thread tid).tile with claimQ := (s.tile (s.thread tid).tile).claimQ ++ [(tid, s.fresh)] }) ∧
  (∀ (s : State) tid b k a, s.commitsOne tid b k .mrel a → (s.tile (s.thread tid).tile).claimant = some tid →
    ∃ t, exec (.blockCommit tid) s = .next t ∧ s.committed t tid b a ∧ s.plainly t tid b ∧ (t.tile (s.thread tid).tile).claimant = none ∧
      (t.tile (s.thread tid).tile).mx = MxState.grant ∧ ∀ n, n ≠ (s.thread tid).tile → t.tile n = s.tile n) ∧
  (∀ (s : State) tid b k a n e, s.commitsOne tid b k (.mx n e) a → (∀ els back, e ≠ .spill els back) →
    ∃ t, exec (.blockCommit tid) s = .next t ∧ s.committed t tid b a ∧ s.plainly t tid b ∧
      t.tile (s.thread tid).tile = { s.tile (s.thread tid).tile with mx := (s.tile (s.thread tid).tile).mx.apply e } ∧
      (∀ n, n ≠ (s.thread tid).tile → t.tile n = s.tile n) ∧ t.stores = s.stores) ∧
  (∀ (s : State) tid b k a n el, s.commitsOne tid b k (.mx n (.spill [el] false)) a → el.route ≠ .peer →
    ∃ t q, exec (.blockCommit tid) s = .next t ∧ s.committed t tid b a ∧ s.plainly t tid b ∧ t.stores = s.stores ++ [q] ∧
      q.kind = .write (elCells [el]) ∧ q.route = el.route ∧ q.w = none ∧ q.spill = true ∧ q.tid = some tid ∧ q.gid = none) ∧
  (∀ (s : State) tid b k a runs wr tries c d r, s.commitsOne tid b k (.plock runs wr tries c d r) a →
    ∃ t q, exec (.blockCommit tid) s = .next t ∧ s.committed t tid b a ∧ s.plainly t tid b ∧
      t.cluster c = { s.cluster c with lockReqs := (s.cluster c).lockReqs ++ [q] } ∧ q.lock = ⟨s.party tid, wr, runs, d, r, []⟩ ∧ q.tries = tries ∧
      q.gid = some s.fresh ∧ ∀ n, n ≠ c → t.cluster n = s.cluster n) ∧
  (∀ (s : State) tid b k a runs, s.commitsOne tid b k (.punlock runs) a →
    ∃ t, exec (.blockCommit tid) s = .next t ∧ s.committed t tid b a ∧ s.plainly t tid b ∧
      t.cluster (runsCluster runs) = (s.cluster (runsCluster runs)).release (s.party tid) runs ∧ ∀ n, n ≠ runsCluster runs → t.cluster n = s.cluster n) ∧
  (∀ (s : State) tid b k a l, s.commitsOne tid b k (.plaunch l) a →
    ∃ t o, exec (.blockCommit tid) s = .next t ∧ s.committed t tid b a ∧ s.plainly t tid b ∧ s.knows t tid b k (opHandle l.cluster (s.cluster l.cluster).opSeq) ∧
      t.cluster l.cluster = { s.cluster l.cluster with opSeq := (s.cluster l.cluster).opSeq + 1, ops := (s.cluster l.cluster).ops ++ [o] } ∧
      o.seq = (s.cluster l.cluster).opSeq ∧ o.owner = s.party tid ∧ o.launch = { l with floor := (s.thread tid).floor } ∧ o.state = .queued ∧
      ∀ n, n ≠ l.cluster → t.cluster n = s.cluster n) ∧
  (∀ (s : State) tid b k a i v, s.commitsOne tid b k (.cpset i v) a →
    ∃ t, exec (.blockCommit tid) s = .next t ∧ s.committed t tid b a ∧ s.plainly t tid b ∧ (t.thread tid).shadow = setShadow (s.thread tid).shadow i v ∧
      t.tiles = s.tiles) ∧
  (∀ (s : State) tid b k a v, s.commitsOne tid b k (.cpgo v) a →
    ∃ t, exec (.blockCommit tid) s = .next t ∧ s.committed t tid b a ∧ s.plainly t tid b ∧
      (t.copyQueue (s.thread tid).tile (Shadow.queue v)).entries = (s.copyQueue (s.thread tid).tile (Shadow.queue v)).entries ++
        [copyEntry (s.copyQueue (s.thread tid).tile (Shadow.queue v)).nextSeq (.thread (s.party tid)) (s.thread tid).asid (s.thread tid).supervisor
          (s.thread tid).region (s.thread tid).floor v none []] ∧
      s.knows t tid b k (BitVec.ofNat 64 (transferId (s.thread tid).tile (Shadow.queue v) (s.copyQueue (s.thread tid).tile (Shadow.queue v)).nextSeq)) ∧
      ∀ n, n ≠ (s.thread tid).tile → t.tile n = s.tile n) ∧
  (∀ (s : State) tid b k a q m, s.commitsOne tid b k (.cpqf q m) a →
    ∃ t e, exec (.blockCommit tid) s = .next t ∧ s.committed t tid b a ∧ s.plainly t tid b ∧
      (t.copyQueue (s.thread tid).tile q).entries = (s.copyQueue (s.thread tid).tile q).entries ++ [e] ∧ e.fence = some m ∧ e.owner = .thread (s.party tid) ∧
      e.watch = ((List.range 8).filter (fun j => m.getLsbD j)).flatMap (fun j => (s.copyQueue (s.thread tid).tile j).entries.map (fun e => (j, e.seq))) ∧
      ∀ n, n ≠ (s.thread tid).tile → t.tile n = s.tile n) ∧
  (∀ (s : State) tid b k a w, s.commitsOne tid b k (.cpabort w) a →
    ∃ t, exec (.blockCommit tid) s = .next t ∧ s.committed t tid b a ∧ s.plainly t tid b ∧ t.tiles = (s.abortCopy (s.thread tid).asid w).tiles ∧
      t.saved = (s.abortCopy (s.thread tid).asid w).saved) ∧
  (∀ (s : State) tid b slot a, s.commitReady tid = some b → b.effects = [] → b.exit = some (slot, .yield a) → s.waiting = [] →
    ∃ t, exec (.blockCommit tid) s = .next t ∧ s.committed t tid b a ∧ s.plainly t tid b ∧ (t.thread tid).hold = .yielded [] ∧ (t.thread tid).flight = [] ∧
      t.stores = s.stores ∧ t.tiles = s.tiles) ∧
  (∀ (s : State) tid b slot x, s.commitReady tid = some b → b.effects = [] → b.exit = some (slot, .halt) → s.teamOf (s.thread tid) = some x → x.barriers = [] →
    ∃ t, exec (.blockCommit tid) s = .next t ∧ (t.thread tid).status = .ended ∧ (t.thread tid).flight = [] ∧ (t.thread tid).lanes = 0 ∧
      (t.thread tid).maxWrite = (s.thread tid).maxWrite ∧ (t.tile (s.thread tid).tile).claimant ≠ some tid ∧
      (t.tile (s.thread tid).tile).free = (s.tile (s.thread tid).tile).free ||| ((s.thread tid).lanes &&& ~~~(s.tile (s.thread tid).tile).lost) ∧
      t.stores = s.stores ∧ t.mem = s.mem ∧ ∀ n, n ≠ tid → t.thread n = s.thread n) ∧
  (∀ (s : State) g reg which, s.groups.find? (fun (x : Group) => x.gid == g.gid) = some g → g.ready = true → g.dests = [(reg, which)] → g.vl = false →
    (s.thread g.tid).team = g.team → (s.thread g.tid).status = .running → s.saved = [] →
    ∃ t, exec (.deferredResultWrite g.gid) s = .next t ∧ t.mem = s.mem ∧ (∀ x ∈ t.groups, x.gid ≠ g.gid) ∧
      (mget 0 (s.thread g.tid).pending reg = g.gid → mget 0 (t.thread g.tid).sregs reg = g.result which ∧ mget 0 (t.thread g.tid).pending reg = 0) ∧
      (mget 0 (s.thread g.tid).pending reg ≠ g.gid → (t.thread g.tid).sregs = (s.thread g.tid).sregs) ∧
      (∀ n, n ≠ reg → mget 0 (t.thread g.tid).sregs n = mget 0 (s.thread g.tid).sregs n) ∧ ∀ n, n ≠ g.tid → t.thread n = s.thread n)

/-- R196, R197, R212, R213, R229: the claim's grant and the life of a fill. -/
def Obligations.ClaimsAndWeightFills : Prop :=
  (∀ (s : State) tile tid g rest, (s.tile tile).claimant = none → (s.tile tile).claimQ = (tid, g) :: rest → tid < 8192 → s.claimAwaited tile = false → rest.any (·.1 == tid) = false →
    ∃ t, exec (.matrixClaimGrant tile) s = .next t ∧ (t.tile tile).claimant = some tid ∧ (t.tile tile).mx = MxState.grant ∧
      (t.tile tile).claimQ = rest ∧ t.groups = s.groups.map (fun x => if x.gid = g then { x with value := some 1, ready := true } else x) ∧
      t.threads = s.threads ∧ t.mem = s.mem ∧ ∀ n, n ≠ tile → t.tile n = s.tile n) ∧
  (∀ (s : State) tid b n f rest, s.commitHead tid = some b → b.mxEffects = (n, .wload f) :: rest → f.wla = false → (s.tile (s.tileOf tid)).mx.backSt ≠ .filling →
    ∃ t, exec (.fillAccept tid) s = .next t ∧ (t.tile (s.tileOf tid)).mx = { (s.tile (s.tileOf tid)).mx with fp := f.base + BitVec.ofNat 64 (256 * entrySize f.cfg), fill := some f, backSt := .filling, done := 0, active := true, progFF := f.ff, progWla := false, progAddr := f.addr.setWidth 56, failRec := none } ∧ t.mem = s.mem ∧ t.stores = s.stores ∧
      ∀ k, k ≠ s.tileOf tid → t.tile k = s.tile k) ∧
  (∀ (s : State) tid b n f rest, s.commitHead tid = some b → b.mxEffects = (n, .wloada f) :: rest → f.wla = true → (s.tile (s.tileOf tid)).mx.backSt ≠ .filling →
    ∃ t, exec (.wloadaAccept tid) s = .next t ∧ (t.tile (s.tileOf tid)).mx = { (s.tile (s.tileOf tid)).mx with fill := some f, backSt := .filling, done := 0, active := true, progFF := f.ff, progWla := true, progAddr := 0, failRec := none } ∧ t.mem = s.mem ∧ t.stores = s.stores ∧
      ∀ k, k ≠ s.tileOf tid → t.tile k = s.tile k) ∧
  (∀ (s : State) tile f m touched expands, (s.tile tile).mx.fill = some f → (s.tile tile).mx.backSt = .filling → s.underCeiling f.bound = true →
    runFill ⟨s, { who := ⟨tile, f.asid, f.supervisor⟩, owner := (s.tile tile).claimant.map s.party, bound := f.bound, cells := [] }⟩ f s.fresh (s.tile tile).mx = .ended m touched expands →
    ∃ t, exec (.fillEnd tile) s = .next t ∧ (expands = false → (t.tile tile).mx = m) ∧
      (expands = true → ∃ n, (t.tile tile).mx = { m with stall := Nat.min (2 ^ 32 - 1) (m.stall + n) }) ∧ t.mem = s.mem ∧ t.threads = s.threads) ∧
  (∀ (s : State) tile f, (s.tile tile).mx.fill = some f → (s.tile tile).mx.backSt = .filling → f.wla = true →
    f.plane = roundPlane (s.tile tile).mx f.arow →
    ∃ t, exec (.fillEnd tile) s = .next t ∧ (t.tile tile).mx.backSt = .idle ∧ (t.tile tile).mx.rows = 128 ∧ (t.tile tile).mx.active = false ∧ (t.tile tile).mx.done = 2 ∧
      (t.tile tile).mx.front = (s.tile tile).mx.front ∧ (t.tile tile).mx.acc = (s.tile tile).mx.acc ∧
      ∀ k c, k < 128 → c < 256 → planeAt (t.tile tile).mx.back k c =
        ((convert fp32 127 bf16 127 .rne false (accAt (s.tile tile).mx.acc (f.arow + k) c)).1 : Nat) % 2 ^ 16)

/-- R389, R391 to R393, R397, R400, R401: pre-emption, saving, resuming, and lanes that fail. What the save area does not lay out comes back from the
saved context (log entry 39), under the same thread number where that has a place (log entry 38); the claim passes on at the save's end, and not past a saved
thread of the tile that is to resume with it (log entry 62). -/
def Obligations.ContextsStopSaveAndResume : Prop :=
  (∀ (s : State) tid, (s.thread tid).status = .running →
    exec (.preempt tid) s = .next (s.setThread tid { s.thread tid with status := .stopping })) ∧
  (∀ (s : State) tid, (s.thread tid).status = .stopping → (s.thread tid).flight.any (·.accepted) = false →
    ∃ t, exec (.preemptGraceExpiry tid) s = .next t ∧ (t.thread tid).flight = [] ∧ s.threadsKeep t ∧ t.mem = s.mem ∧ t.stores = s.stores ∧
      ∀ n, n ≠ tid → t.thread n = s.thread n) ∧
  (∀ (s : State) tid, (s.thread tid).status = .stopping → (s.thread tid).flight = [] → (s.thread tid).vlOut = 0 →
    (s.tile (s.thread tid).tile).stripOf (s.party tid) = false → s.areaSnoop (s.thread tid).savea true = none → (s.thread tid).dying = none →
    ∃ t u, exec (.contextSaveEnd tid) s = .next t ∧ t.saved = s.saved ++ [(tid, u)] ∧ u.status = .saved ∧ (s.thread tid).sameRegs u ∧ (s.thread tid).sameTrap u ∧
      u.floor = (s.thread tid).floor ∧ u.lanes = (s.thread tid).lanes ∧ t.thread tid = Thread.absent ∧
      (t.tile (s.thread tid).tile).free = (s.tile (s.thread tid).tile).free ||| ((s.thread tid).lanes &&& ~~~(s.tile (s.thread tid).tile).lost) ∧
      ((s.tile (s.thread tid).tile).claimant = some tid → u.savedMx = some (s.tile (s.thread tid).tile).mx ∧
        ((s.tile (s.thread tid).tile).claimQ = [] → (t.tile (s.thread tid).tile).claimant = none) ∧
        ∀ k g rest, (s.tile (s.thread tid).tile).claimQ = (k, g) :: rest → k ≠ tid → k < 8192 → s.saved = [] → (t.tile (s.thread tid).tile).claimant = some k) ∧
      ∀ n, n ≠ tid → t.thread n = s.thread n) ∧
  (∀ (s : State) tid x w, (s.thread tid).status = .stopping → (s.thread tid).flight = [] → (s.thread tid).vlOut = 0 →
    (s.tile (s.thread tid).tile).stripOf (s.party tid) = false → s.areaSnoop (s.thread tid).savea true = none → (s.thread tid).dying = some w →
    s.teams.find? (·.id == (s.thread tid).team) = some x → x.done = false →
    ∃ t y, exec (.contextSaveEnd tid) s = .next t ∧ y ∈ t.teams ∧ y.id = x.id ∧ y.ending = some (x.ending.getD w) ∧ ∀ e ∈ t.saved, e.2.team ≠ x.id) ∧
  (∀ (s : State) tid kept u team core, s.saved.find? (·.1 == tid) = some (tid, kept) → s.areaSnoop kept.savea false = none → s.saveHeaderOk kept = true → u = s.restored kept →
    s.teams.find? (·.id == u.team) = some team → s.resumeCore team.tile tid = some core → s.resumable tid u team.tile = true →
    (u.mat = true → (s.tile team.tile).claimant = none) →
    ∃ t, exec (.resume tid) s = .next t ∧ u.pc = readWord s.mem (kept.savea.toNat + 8) ∧ u.tvec = readWord s.mem (kept.savea.toNat + 0x2D0) ∧ (t.thread tid).status = .running ∧ (t.thread tid).tile = team.tile ∧ (t.thread tid).core = core ∧
      u.sameRegs (t.thread tid) ∧ u.sameTrap (t.thread tid) ∧
      (t.thread tid).floor = (if lagging (s.tile team.tile).horizon u.floor then (s.tile team.tile).horizon - BitVec.ofNat 62 (2 ^ 58) else u.floor) ∧
      (t.thread tid).lanes = groupMask ((groupList (s.tile team.tile).free).take u.groups) ∧
      (u.mat = true → (t.tile team.tile).claimant = some tid ∧ (t.tile team.tile).mx = u.savedMx.getD MxState.grant) ∧
      t.mem = s.mem ∧ ∀ n, n ≠ tid → t.thread n = s.thread n) ∧
  (∀ (s : State) tid slot elem lane b rest, (s.thread tid).blockOfSlot slot = some b → (s.thread tid).flight = b :: rest →
    (s.thread tid).lanes.getLsbD (lane / 16) = true →
    ∃ t, exec (.laneResidueFailure tid slot elem lane) s = .next t ∧ (t.thread tid).flight = [b.restart] ∧ s.threadsKeep t ∧
      (t.tile (s.thread tid).tile).testing = (s.tile (s.thread tid).tile).testing ++ [⟨lane / 16, lane % 16, tid, b.serial, slot, elem⟩] ∧ t.mem = s.mem) ∧
  (∀ (s : State) tile group l, (s.tile tile).testing.find? (·.group == group) = some l →
    ∃ t, exec (.laneSelfTestEnd tile group false) s = .next t ∧ ((t.thread l.tid).block l.serial).all (fun k => k.strikes == 0) = true ∧ s.threadsKeep t ∧ t.mem = s.mem ∧
      ((s.tile tile).spares.getLsbD group = true → (t.tile tile).spares = (s.tile tile).spares &&& ~~~groupMask [group] ∧ (t.tile tile).doubled = (s.tile tile).doubled) ∧
      ((s.tile tile).spares.getLsbD group = false → (t.tile tile).spares = (s.tile tile).spares ∧ (t.tile tile).doubled = (s.tile tile).doubled ||| groupMask [group])) ∧
  (∀ (s : State) tile group l b, (s.tile tile).testing.find? (·.group == group) = some l → (s.thread l.tid).block l.serial = some b → b.strikes < 2 →
    ∃ t, exec (.laneSelfTestEnd tile group true) s = .next t ∧ (t.thread l.tid).block l.serial = some { b with strikes := b.strikes + 1 } ∧ s.threadsKeep t ∧
      t.mem = s.mem ∧ (t.tile tile).spares = (s.tile tile).spares ∧ (t.tile tile).doubled = (s.tile tile).doubled) ∧
  (∀ (s : State) tile group l b rest, (s.tile tile).testing.find? (·.group == group) = some l → (s.thread l.tid).flight = b :: rest → b.serial = l.serial →
    b.strikes = 2 → (s.thread l.tid).tvec ≠ 0 → (s.thread l.tid).tvec ≠ b.addr →
    ∃ t, exec (.laneSelfTestEnd tile group true) s = .next t ∧ s.trapsTo t l.tid cUNCORR b.addr (slotW l.slot) 0 (l.elem % 2 ^ 32) 2)

/-- R165, R177, R191, R281, R284, R286: loads at their homes and on their way back. -/
def Obligations.LoadsAreServed : Prop :=
  (∀ (s : State) id l h n sx rw, s.findLoad id = some l → s.lineTurn l = true → l.home = some h → s.underCeiling l.bound = true → s.underCeiling (s.wts h l.line) = true →
    s.gate (some (s.party l.tid)) l.key false = none → (s.line l.line).bad = false → s.loadMeetsError l = false → l.stage = .atHome ∨ l.stage = .dramDone → s.needsDram h l.line l.route = false ∨ l.stage = .dramDone →
    l.form = .scalar n sx rw → l.route = .cached → l.fresh = false →
    ∃ t q c, exec (.homeLoad id) s = .next t ∧ t.findLoad id = some q ∧ q.answer = some c ∧ c.line = l.line ∧ c.data = readBytes s.mem (l.line * 128) 128 ∧
      q.parts = l.parts ∧ (q.stage = .toL1 ∨ q.stage = .toRdc) ∧ t.mem = s.mem ∧ t.threads = s.threads) ∧
  (∀ (s : State) id l h p b tr sx, s.findLoad id = some l → l.home = some h → s.underCeiling l.bound = true → s.underCeiling (s.wts h l.line) = true →
    s.gate (some (s.party l.tid)) l.key false = none → (s.line l.line).bad = false → s.loadMeetsError l = false → l.stage = .dramDone → l.form = .scalar p.size sx false → l.fresh = true → l.route ≠ .host → l.route ≠ .peer → s.awaits l p b tr →
    ∃ t, exec (.homeLoad id) s = .next t ∧ s.loaded t l tr (loadValue s.mem p.key p.size sx)) ∧
  (∀ (s : State) id l c p b tr sx, s.findLoad id = some l → l.stage = .toL1 → l.answer = some c → l.form = .scalar p.size sx false → s.awaits l p b tr →
    l.toL1 = true → s.storing c.line (· == s.tileOf l.tid) = false →
    (∀ y ∈ (s.tile (s.tileOf l.tid)).l1, y.line = c.line → serialLe y.wts c.wts = true) →
    ∃ t, exec (.l1Renewal id) s = .next t ∧ c ∈ (t.tile (s.tileOf l.tid)).l1 ∧
      s.loaded t l tr (let w := BitVec.ofNat 64 (leNat ((c.data.drop (p.key % 128)).take p.size)); if sx then sextW w (8 * p.size) else zextW w (8 * p.size))) ∧
  (∀ (s : State) id l x, s.findLoad id = some l → l.stage = .toRdc → s.lineTurn l = true → l.answer = none →
    findCopy l.line (s.cluster (l.via s)).rdc = some x → x.bad = false → serialLe l.bound x.rts = true →
    ∃ t q, exec (.rdcRenewal id) s = .next t ∧ t.findLoad id = some q ∧ q.answer = some x ∧ q.stage = .toL1 ∧ t.mem = s.mem ∧ t.threads = s.threads) ∧
  (∀ (s : State) id l, s.findLoad id = some l → l.stage = .toRdc → s.lineTurn l = true → l.answer = none →
    (∀ x, findCopy l.line (s.cluster (l.via s)).rdc = some x → x.bad = false ∧ serialLe l.bound x.rts = false) →
    ∃ t q, exec (.rdcRenewal id) s = .next t ∧ t.findLoad id = some q ∧ q.answer = none ∧ q.stage = .atHome ∧ t.mem = s.mem ∧ t.threads = s.threads) ∧
  (∀ (s : State) id l x, s.findLoad id = some l → l.stage = .toRdc → s.lineTurn l = true → l.answer = some x → l.toRdc = true →
    s.storing x.line (fun n => clusterOfTile n == l.via s) = false →
    (∀ y ∈ (s.cluster (l.via s)).rdc, y.bad = false ∧ (y.line = x.line → serialLe y.wts x.wts = true)) →
    ∃ t q, exec (.rdcRenewal id) s = .next t ∧ t.findLoad id = some q ∧ q.answer = some x ∧ q.stage = .toL1 ∧ x ∈ (t.cluster (l.via s)).rdc ∧ t.mem = s.mem ∧
      t.threads = s.threads) ∧
  (∀ (s : State) id l h p b tr sx lim, s.findLoad id = some l → l.route ≠ .peer → l.home = some h → s.gate (some (s.party l.tid)) l.key false = none → s.loadMeetsError l = false → l.woken = true → l.form = .wait p.size sx false lim → s.awaits l p b tr →
    ∃ t, exec (.mwaitWake id) s = .next t ∧ s.loaded t l tr (loadValue s.mem p.key p.size sx)) ∧
  (∀ (s : State) id l h p b tr sx lim, s.findLoad id = some l → l.route ≠ .peer → l.home = some h → s.gate (some (s.party l.tid)) l.key false = none → s.loadMeetsError l = false → l.stage = .armed → l.form = .wait p.size sx false lim → s.awaits l p b tr →
    ∃ t, exec (.mwaitExpiry id) s = .next t ∧ s.loaded t l tr (loadValue s.mem p.key p.size sx))

/-- R174, R185, R186, R194, R263, R281, R288, R304: store-class requests at their homes, with the frame of memory. The exact time a store takes rests on
which packets inside the device raise a clock (log entry 55). -/
def Obligations.StoresAtomicsAndClaimsArePerformed : Prop :=
  (∀ (s : State) id r h cells, s.findStore id = some r → s.turnOf r = true → r.copy = none → r.home = some h → (s.line (lineOf r.kind.key)).bad = false → s.storeWaits r h = none → r.kind = .write cells → r.route ≠ .host → r.route ≠ .nocache → (∀ c ∈ cells, lineOf c.1 = lineOf r.kind.key) →
    s.lineBad r.kind.key = false → s.underCeiling ((s.packetTo r.tile h).storeTime h (lineOf r.kind.key) r.w r.floor) = true →
    ∃ t, exec (.homeStore id) s = .next t ∧ s.mem.writes t.mem cells ∧
      (t.line (lineOf r.kind.key)).wts = (s.packetTo r.tile h).storeTime h (lineOf r.kind.key) r.w r.floor ∧ (t.line (lineOf r.kind.key)).rts = (s.packetTo r.tile h).storeTime h (lineOf r.kind.key) r.w r.floor ∧ s.threadsKeep t ∧ ∀ q ∈ t.stores, q.id ≠ id) ∧
  (∀ (s : State) id r h cells, s.findStore id = some r → s.turnOf r = true → r.copy = none → r.home = some h → (∀ l ∈ r.lines, (s.line l).bad = false ∧ s.lineBad (l * 128) = false) → s.storeWaits r h = none → r.kind = .write cells → r.route = .nocache → isSlice h = true →
    (∀ c ∈ cells, lineOf c.1 = lineOf r.kind.key) → s.underCeiling ((s.packetTo r.tile h).storeTime h (lineOf r.kind.key) r.w r.floor true) = true →
    ∃ t m, exec (.homeStore id) s = .next t ∧ s.mem.writes t.mem cells ∧ (t.line (lineOf r.kind.key)).held = false ∧
      (t.cluster h).mts = serialMax m ((s.packetTo r.tile h).storeTime h (lineOf r.kind.key) r.w r.floor true) ∧ s.threadsKeep t ∧ ∀ q ∈ t.stores, q.id ≠ id) ∧
  (∀ (s : State) id r h e, s.findStore id = some r → s.turnOf r = true → r.copy = none → r.home = some h → (∀ l ∈ r.lines, (s.line l).bad = false ∧ s.lineBad (l * 128) = false) → s.storeWaits r h = none → r.kind = .folds [e] → e.fop = 0 → r.route ≠ .host → r.route ≠ .nocache →
    s.underCeiling ((s.packetTo r.tile h).storeTime h (lineOf e.key) r.w r.floor) = true →
    ∃ t, exec (.homeStore id) s = .next t ∧
      s.mem.writes t.mem (cellsOf e.key (leBytes (foldBytes e.fmt) (addEl false .rne (fmtOf e.fmt) (BitVec.ofNat 64 (readNat s.mem e.key (foldBytes e.fmt))) e.val).1.toNat)) ∧
      (t.line (lineOf e.key)).wts = (s.packetTo r.tile h).storeTime h (lineOf e.key) r.w r.floor ∧
      (∀ n, (t.thread n).fflags = (s.thread n).fflags) ∧ s.threadsKeep t ∧ ∀ q ∈ t.stores, q.id ≠ id) ∧
  (∀ (s : State) id r h w, s.findStore id = some r → s.turnOf r = true → r.copy = none → r.home = some h → (∀ l ∈ r.lines, (s.line l).bad = false ∧ s.lineBad (l * 128) = false) → s.storeWaits r h = none → r.kind = .row w → r.route = .cached →
    s.underCeiling (serialMaxL (r.lines.map (fun l => (s.packetTo r.tile h).storeTime h l r.w r.floor)) ((s.packetTo r.tile h).storeTime h (lineOf w.key) r.w r.floor)) = true →
    ∃ t, exec (.homeStore id) s = .next t ∧ s.mem.writes t.mem (w.merge (readByte s.mem)) ∧ s.threadsKeep t ∧ ∀ q ∈ t.stores, q.id ≠ id) ∧
  (∀ (s : State) id r h op key size b c sx gid v, s.findStore id = some r → s.turnOf r = true → r.copy = none → r.home = some h → (s.line (lineOf r.kind.key)).bad = false → s.storeWaits r h = none → r.kind = .atomic op key size b c sx → r.route ≠ .peer → r.gid = some gid → s.lineBad key = false →
    s.underCeiling ((s.packetTo r.tile h).storeTime h (lineOf r.kind.key) r.w r.floor (nocacheRoute r.route)) = true → atomicNew op size (BitVec.ofNat 64 (readNat s.mem key size)) b c sx = some v →
    ∃ t, exec (.homeAtomic id) s = .next t ∧ s.mem.writes t.mem (cellsOf key (leBytes size v.toNat)) ∧ s.threadsKeep t ∧ (∀ q ∈ t.stores, q.id ≠ id) ∧
      t.groups = s.groups.map (fun g => if g.gid = gid then g.take ⟨some ((s.packetTo r.tile h).storeTime h (lineOf r.kind.key) r.w r.floor (nocacheRoute r.route)), some (loadValue s.mem key size sx), none⟩ else g)) ∧
  (∀ (s : State) id r h op key size b c sx gid, s.findStore id = some r → s.turnOf r = true → r.copy = none → r.home = some h → (s.line (lineOf r.kind.key)).bad = false → s.storeWaits r h = none → r.kind = .atomic op key size b c sx → r.route ≠ .peer → r.gid = some gid → s.lineBad key = false →
    s.underCeiling ((s.packetTo r.tile h).storeTime h (lineOf r.kind.key) r.w r.floor (nocacheRoute r.route)) = true → atomicNew op size (BitVec.ofNat 64 (readNat s.mem key size)) b c sx = none →
    ∃ t, exec (.homeAtomic id) s = .next t ∧ t.mem = s.mem ∧ s.threadsKeep t ∧ (∀ q ∈ t.stores, q.id ≠ id) ∧
      t.groups = s.groups.map (fun g => if g.gid = gid then g.take ⟨some ((s.packetTo r.tile h).serveLoad h (lineOf key) ((s.packetTo r.tile h).readBound h (lineOf key) r.floor) none
          (nocacheRoute r.route) r.compress).wts, some (loadValue s.mem key size sx), none⟩ else g)) ∧
  (∀ (s : State) id r h key width count cap gid g, s.findStore id = some r → s.turnOf r = true → r.copy = none → r.home = some h → (s.line (lineOf r.kind.key)).bad = false → s.storeWaits r h = none → r.kind = .claimel key width count cap → r.route ≠ .peer → r.gid = some gid → s.lineBad key = false →
    s.underCeiling ((s.packetTo r.tile h).storeTime h (lineOf r.kind.key) r.w r.floor (nocacheRoute r.route)) = true → g = Nat.min count.toNat (Nat.min cap (readNat s.mem (key + 8) 8 - readNat s.mem key 8)) → 0 < g →
    ∃ t, exec (.claimelAtHome id) s = .next t ∧ s.mem.writes t.mem (cellsOf key (leBytes 8 (readNat s.mem key 8 + g))) ∧ s.threadsKeep t ∧
      (∀ q ∈ t.stores, q.id ≠ id) ∧
      t.groups = s.groups.map (fun x => if x.gid = gid then Group.take { x with setVl := some g } ⟨some ((s.packetTo r.tile h).storeTime h (lineOf r.kind.key) r.w r.floor (nocacheRoute r.route)), some (BitVec.ofNat 64 (readNat s.mem key 8)), none⟩ else x))

/-- R300, R302, R303, R381, R390: time as it advances and travels, walks, timeouts. -/
def Obligations.TimesWalksAndTimeouts : Prop :=
  (∀ (s : State), exec .ceilingAdvance s = .next { s with ceiling := s.ceiling + 2 ^ 17 }) ∧
  (∀ (s : State) c, ∃ t, exec (.clusterTimeBroadcast c) s = .next t ∧ t.mem = s.mem ∧ t.threads = s.threads ∧
      (∀ i, i < 8 → (t.tile (8 * c + i)).horizon = serialMax (s.tile (8 * c + i)).horizon (s.clusterClock c)) ∧ ∀ n, n / 8 ≠ c → t.tile n = s.tile n) ∧
  (∀ (s : State), ∃ t, exec .leaseSweep s = .next t ∧ t.mem = s.mem ∧ t.ceiling = s.ceiling ∧
      (∀ n, (s.thread n).sameRegs (t.thread n) ∧ (t.thread n).floor =
        (if ((s.thread n).status = .running ∨ (s.thread n).status = .stopping) ∧ lagging (s.tile (s.thread n).tile).horizon (s.thread n).floor = true
         then (s.tile (s.thread n).tile).horizon - BitVec.ofNat 62 (2 ^ 58) else (s.thread n).floor)) ∧
      (∀ n, (t.tile n).l1 = (s.tile n).l1.filter (fun c => !lagging (s.tile n).horizon c.rts)) ∧
      ∀ c, c < 8 → (t.cluster c).mts = (if lagging (s.clock c) (s.cluster c).mts then s.clock c - BitVec.ofNat 62 (2 ^ 58) else (s.cluster c).mts) ∧
        (t.cluster c).rdc = (s.cluster c).rdc.filter (fun x => !lagging (s.clusterClock c) x.rts)) ∧
  (∀ (s : State) id w tid e, s.walks.find? (·.id == id) = some w → s.walkOpen w = true → w.waiters = [tid] → s.walked w = .leaf e →
    ∃ t, exec (.pageWalkEnd id) s = .next t ∧ (∀ n ∈ w.tiles, e ∈ (t.tile n).tlb) ∧ e ∈ (t.cluster w.cluster).tlb ∧ t.walks = s.walks.filter (·.id != id) ∧ t.mem = s.mem ∧ s.threadsKeep t ∧
      (t.thread tid).walkFaults = (s.thread tid).walkFaults ++ [(w.asid.toNat, w.va, walkedOk)]) ∧
  (∀ (s : State) id w tid i, s.walks.find? (·.id == id) = some w → s.walkOpen w = true → w.waiters = [tid] → s.walked w = .fault i →
    ∃ t, exec (.pageWalkEnd id) s = .next t ∧ (∀ n, (t.tile n).tlb = (s.tile n).tlb) ∧ (t.cluster w.cluster).tlb = (s.cluster w.cluster).tlb ∧ t.walks = s.walks.filter (·.id != id) ∧ t.mem = s.mem ∧ s.threadsKeep t ∧
      (t.thread tid).walkFaults = (s.thread tid).walkFaults ++ [(w.asid.toNat, w.va, i)]) ∧
  (∀ (s : State) id l p q h b rest, s.findLoad id = some l → l.parts = [p] → s.place l.key = some q → s.rowHolder (some (s.party l.tid)) q false = some h →
    l.stage = .atHome ∨ l.stage = .dramDone ∨ l.stage = .lockWait → (s.thread l.tid).flight = b :: rest → b.serial = l.serial → (s.thread l.tid).tvec ≠ 0 → (s.thread l.tid).tvec ≠ b.addr →
    ∃ t, exec (.lockedTimeout id) s = .next t ∧ s.trapsTo t l.tid cLOCKED b.addr (slotW l.slot) p.va (p.elem % 2 ^ 32) (BitVec.ofNat 64 (partyTid h)))

/-- R244, R250, R251, R320, R321: locks, the start and the end of an op. -/
def Obligations.RowLocksAndPlaneOps : Prop :=
  (∀ (s : State) id c q gid, s.lockReq id = some (c, q) → s.mayGrant c q = true → (s.scrubRows c q.lock).badRow q.lock = none → q.gid = some gid →
    q.launch = none → isThreadParty q.lock.owner = true → s.endures q.lock.owner = true →
    ∃ t, exec (.plockGrant id) s = .next t ∧ (t.cluster c).locks = (s.cluster c).locks ++ [q.lock] ∧ (∀ r ∈ (t.cluster c).lockReqs, r.id ≠ id) ∧
      t.groups = s.groups.map (fun g => if g.gid = gid then
        g.take ⟨none, some (optWitness (joinTimes (q.lock.lines.map (fun l => some ((s.scrubRows c q.lock).wts c l))))), none⟩ else g) ∧
      t.mem = s.mem ∧ t.threads = s.threads) ∧
  (∀ (s : State) id c q gid a, s.lockReq id = some (c, q) → s.mayGrant c q = true → (s.scrubRows c q.lock).badRow q.lock = some a → q.gid = some gid →
    q.launch = none → isThreadParty q.lock.owner = true →
    ∃ t, exec (.plockGrant id) s = .next t ∧ (t.cluster c).locks = (s.cluster c).locks ∧ (∀ r ∈ (t.cluster c).lockReqs, r.id ≠ id) ∧
      t.groups = s.groups.map (fun g => if g.gid = gid then g.take ⟨none, some (errWitness 3 a), none⟩ else g) ∧ t.mem = s.mem ∧ t.threads = s.threads) ∧
  (∀ (s : State) id c q gid h, s.lockReq id = some (c, q) → (s.cluster c).conflict q.lock = some h → q.gid = some gid → q.tries = true →
    isThreadParty q.lock.owner = true →
    ∃ t, exec (.plockGrant id) s = .next t ∧ (t.cluster c).locks = (s.cluster c).locks ∧ (∀ r ∈ (t.cluster c).lockReqs, r.id ≠ id) ∧
      t.groups = s.groups.map (fun g => if g.gid = gid then g.take ⟨none, some (errWitness 1 (partyTid h)), none⟩ else g) ∧ t.mem = s.mem ∧ t.threads = s.threads) ∧
  (∀ (s : State) id c q h, s.lockReq id = some (c, q) → (s.cluster c).conflict q.lock = some h → q.tries = false → exec (.plockGrant id) s = .next s) ∧
  (∀ (s : State) id c q l p, s.lockReq id = some (c, q) → s.mayGrant c q = true → (s.scrubRows c q.lock).badRow q.lock = none → q.gid = none →
    q.launch = some (l, p) → isThreadParty q.lock.owner = false →
    ∃ t, exec (.plockGrant id) s = .next t ∧ q.lock ∈ (t.cluster c).locks ∧ (∀ r ∈ (t.cluster c).lockReqs, r.id ≠ id) ∧
      (∃ o ∈ (t.cluster l.cluster).ops, o.state = .queued ∧ o.launch = l ∧ o.owner = q.lock.owner ∧ o.packet = some p) ∧ t.mem = s.mem ∧ t.threads = s.threads) ∧
  (∀ (s : State) c o, s.findOp c o.seq = some o → (s.cluster c).mayStart o = true →
    ∃ t p, exec (.fieldOpStart c o.seq) s = .next t ∧ t.findOp c o.seq = some p ∧ p.state = .running ∧ p.pc = 0 ∧ p.loops = [] ∧ p.safe = true ∧
      p.steps = o.steps + 1 ∧ p.launch = o.launch ∧ p.pass = o.pass ∧
      (∀ e ∈ o.passSubs, ∀ k, k < 10 → mget 0 t.specials (e.1 * 16 + k) =
        (if o.launch.keep = true ∧ mget 0 s.keepOwner e.1 = o.owner + 1 then mget 0 s.specials (e.1 * 16 + k) else 0)) ∧
      t.mem = s.mem ∧ t.threads = s.threads) ∧
  (∀ (s : State) c o, s.findOp c o.seq = some o → o.state = .encoding → o.encodeDone = false →
    s.snoopWait (o.encodeNext.flatMap (fun x => linesOf (x.1.2 + x.2 * 1024) 1024)) true = none → (s.encodeTimes c o).all s.underCeiling = true →
    ∃ t, exec (.encodePassEnd c o.seq) s = .next t ∧ (∀ x ∈ o.encodeNext, mget false t.stale (x.1.1 * 512 + x.2) = false) ∧
      (({ o with encoded := o.encoded + 1 } : FieldOp).encodeDone = false → t.findOp c o.seq =
        some { o with encoded := o.encoded + 1, safe := true, encTime := joinTimes (o.encTime :: (s.encodeTimes c o).map some) }) ∧
      t.mem = s.mem ∧ t.threads = s.threads) ∧
  (∀ (s : State) c o, s.findOp c o.seq = some o → o.state = .encoding → o.encodeDone = true → o.packet = none → (s.cluster c).ops.length ≤ 4096 →
    ∃ t p, exec (.encodePassEnd c o.seq) s = .next t ∧ t.findOp c o.seq = some p ∧ p.state = .done ∧
      p.witness = some (optWitness (match o.encTime with | some x => some x | none => s.readTimes c o)) ∧ p.abandoned = false ∧ t.mem = s.mem ∧
      t.stale = s.stale ∧ t.threads = s.threads)

/-- R247, R250, R255, R256, R321, R324: the furrow words. -/
def Obligations.FurrowWords : Prop :=
  (∀ (s : State) c o e x d, s.opRuns c o e → writableRow d →
    ∃ t, exec (.qcopy x d) s = .next t ∧ t.furrowRow o e d = (s.furrowRow o e x) ∧ s.onlyRow t o e d ∧ t.opStands c o 1 (o.pc + 1) o.loops ∧ t.threads = s.threads) ∧
  (∀ (s : State) c o e x d, s.opRuns c o e → writableRow d →
    ∃ t, exec (.qnot x d) s = .next t ∧ t.furrowRow o e d = ~~~(s.furrowRow o e x) ∧ s.onlyRow t o e d ∧ t.opStands c o 1 (o.pc + 1) o.loops ∧ t.threads = s.threads) ∧
  (∀ (s : State) c o e x d, s.opRuns c o e → writableRow d →
    ∃ t, exec (.qshl x d) s = .next t ∧ t.furrowRow o e d = (s.furrowRow o e x) <<< 1 ∧ s.onlyRow t o e d ∧ t.opStands c o 2 (o.pc + 1) o.loops ∧ t.threads = s.threads) ∧
  (∀ (s : State) c o e x d, s.opRuns c o e → writableRow d →
    ∃ t, exec (.qshr x d) s = .next t ∧ t.furrowRow o e d = (s.furrowRow o e x) >>> 1 ∧ s.onlyRow t o e d ∧ t.opStands c o 2 (o.pc + 1) o.loops ∧ t.threads = s.threads) ∧
  (∀ (s : State) c o e i d par bit, s.opRuns c o e → writableRow d →
    ∃ t, exec (.qset i d par bit) s = .next t ∧ t.furrowRow o e d = (if o.parBit par.toNat bit.toNat i then BitVec.allOnes 8192 else 0) ∧ s.onlyRow t o e d ∧
      t.opStands c o 1 (o.pc + 1) o.loops ∧ t.threads = s.threads) ∧
  (∀ (s : State) c o e tr, s.opRuns c o e →
    ∃ t, exec (.qmaj tr) s = .next t ∧ t.mem = s.mem ∧ t.opStands c o 1 (o.pc + 1) o.loops ∧
      (∀ k ∈ triple tr, mget 0 t.specials (e.1 * 16 + k) = majority (mget 0 s.specials (e.1 * 16 + (triple tr)[0]?.getD 0))
        (mget 0 s.specials (e.1 * 16 + (triple tr)[1]?.getD 0)) (mget 0 s.specials (e.1 * 16 + (triple tr)[2]?.getD 0))) ∧
      ∀ k, (∀ j ∈ triple tr, k ≠ e.1 * 16 + j) → mget 0 t.specials k = mget 0 s.specials k) ∧
  (∀ (s : State) c o e q x d lay, s.focus = .op c o.seq → s.findOp c o.seq = some o → o.state = .running → o.passSubs = [e, q] → writableRow d →
    dieOf e.1 = lay.toNat → dieOf q.1 ≠ lay.toNat → sameVia q.1 e.1 = true → (e.2 + 1024 ≤ q.2 ∨ q.2 + 1024 ≤ e.2) →
    ∃ t, exec (.qvmc x d lay) s = .next t ∧ t.furrowRow o e d = s.furrowRow o e x ∧ t.furrowRow o q d = s.furrowRow o e x ∧ s.onlyRows t o [e, q] d ∧ t.opStands c o 3 (o.pc + 1) o.loops ∧ t.threads = s.threads) ∧
  (∀ (s : State) c o e q x d lay, s.focus = .op c o.seq → s.findOp c o.seq = some o → o.state = .running → o.passSubs = [e, q] → writableRow d →
    dieOf e.1 = lay.toNat → dieOf q.1 ≠ lay.toNat → sameVia q.1 e.1 = false →
    ∃ t, exec (.qvmc x d lay) s = .next t ∧ t.furrowRow o e d = s.furrowRow o e x ∧ s.onlyRow t o e d ∧ t.opStands c o 3 (o.pc + 1) o.loops ∧ t.threads = s.threads) ∧
  (∀ (s : State) c o e (n : BitVec 8), s.opRuns c o e → n.toNat ≠ 0 →
    ∃ t, exec (.qloop n) s = .next t ∧ t.opStands c o 0 (o.pc + 1) ((o.pc + 1, n.toNat, 0) :: o.loops) ∧ t.mem = s.mem ∧ t.specials = s.specials ∧ t.threads = s.threads) ∧
  (∀ (s : State) c o e (n : BitVec 8) k, s.opRuns c o e → n.toNat = 0 → qEndOf o.launch.words 512 (o.pc + 1) 0 = some k →
    ∃ t, exec (.qloop n) s = .next t ∧ t.opStands c o 0 k o.loops ∧ t.mem = s.mem ∧ t.specials = s.specials ∧ t.threads = s.threads) ∧
  (∀ (s : State) c o e (par : BitVec 3), s.opRuns c o e → (o.par par.toNat).toNat ≠ 0 →
    ∃ t, exec (.qloopPar par) s = .next t ∧ t.opStands c o 0 (o.pc + 1) ((o.pc + 1, (o.par par.toNat).toNat, 0) :: o.loops) ∧ t.mem = s.mem ∧ t.specials = s.specials ∧ t.threads = s.threads) ∧
  (∀ (s : State) c o e (par : BitVec 3) k, s.opRuns c o e → (o.par par.toNat).toNat = 0 → qEndOf o.launch.words 512 (o.pc + 1) 0 = some k →
    ∃ t, exec (.qloopPar par) s = .next t ∧ t.opStands c o 0 k o.loops ∧ t.mem = s.mem ∧ t.specials = s.specials ∧ t.threads = s.threads) ∧
  (∀ (s : State) c o e start n l rest, s.opRuns c o e → o.loops = (start, n, l) :: rest → l + 1 < n →
    ∃ t, exec .qend s = .next t ∧ t.opStands c o 0 start ((start, n, l + 1) :: rest) ∧ t.mem = s.mem ∧ t.specials = s.specials ∧ t.threads = s.threads) ∧
  (∀ (s : State) c o e start n l rest, s.opRuns c o e → o.loops = (start, n, l) :: rest → n ≤ l + 1 →
    ∃ t, exec .qend s = .next t ∧ t.opStands c o 0 (o.pc + 1) rest ∧ t.mem = s.mem ∧ t.specials = s.specials ∧ t.threads = s.threads) ∧
  (∀ (s : State) c o e cnt i v par bit, s.opRuns c o e →
    ∃ t, exec (.qskip cnt i v par bit) s = .next t ∧
      t.opStands c o 0 (if o.parBit par.toNat bit.toNat i = v then o.pc + cnt.toNat + 2 else o.pc + 1) o.loops ∧ t.mem = s.mem ∧ t.specials = s.specials ∧ t.threads = s.threads) ∧
  (∀ (s : State) c o e, s.opRuns c o e →
    ∃ t p, exec .qsafe s = .next t ∧ t.findOp c o.seq = some p ∧ p.pc = o.pc + 1 ∧ p.safe = true ∧ p.steps = o.steps ∧ p.state = .running ∧
      (∀ b ∈ o.banks, (t.bank b).debt = 0) ∧ t.mem = s.mem ∧ t.specials = s.specials ∧ t.threads = s.threads) ∧
  (∀ (s : State) c o e, s.opRuns c o e → o.passes ≤ o.pass + 1 →
    ∃ t p, exec .qret s = .next t ∧ t.findOp c o.seq = some p ∧ p.state = .encoding ∧ p.safe = true ∧ p.pass = o.pass ∧ t.mem = s.mem ∧ t.specials = s.specials ∧ t.threads = s.threads) ∧
  (∀ (s : State) c o e, s.opRuns c o e → o.pass + 1 < o.passes →
    ∃ t p, exec .qret s = .next t ∧ t.findOp c o.seq = some p ∧ p.state = .running ∧ p.pass = o.pass + 1 ∧ p.pc = 0 ∧ p.loops = [] ∧ p.safe = true ∧
      p.steps = o.steps + 1 ∧
      (∀ x ∈ o.subsOf (o.pass + 1), ∀ k, k < 10 → mget 0 t.specials (x.1 * 16 + k) =
        (if o.launch.keep = true ∧ mget 0 s.keepOwner x.1 = o.owner + 1 then mget 0 s.specials (x.1 * 16 + k) else 0)) ∧
      (∀ j, (∀ x ∈ o.subsOf (o.pass + 1), ∀ k, k < 10 → j ≠ x.1 * 16 + k) → mget 0 t.specials j = mget 0 s.specials j) ∧
      t.mem = s.mem ∧ t.threads = s.threads)

/-- R323 to R326, R426, R428, R431, R432, R435: banks, and what their reads do with errors. Of an error's record INFO is left open (log entry 72). -/
def Obligations.BanksRefreshAndServe : Prop :=
  (∀ (s : State) bank, 0 < (s.bank bank).credit →
    exec (.refreshIntervalEnd bank) s = .next (s.setBank bank { s.bank bank with credit := (s.bank bank).credit - 1 })) ∧
  (∀ (s : State) bank, (s.bank bank).credit = 0 →
    exec (.refreshIntervalEnd bank) s = .next (s.setBank bank { s.bank bank with debt := Nat.min 8 ((s.bank bank).debt + 1) })) ∧
  (∀ (s : State) bank o, s.opIn bank = some o → (∀ b ∈ o.banks, (s.bank b).backoff = false) → s.refreshDue o = true →
    ∃ t, exec (.refresh bank) s = .next t ∧ (∀ b ∈ o.banks, (t.bank b).debt = 0) ∧ (∀ n, n ∉ o.banks → t.bank n = s.bank n) ∧ t.mem = s.mem ∧ t.threads = s.threads) ∧
  (∀ (s : State) bank, s.opIn bank = none → (s.bank bank).backoff = false → 1 ≤ (s.bank bank).debt →
    ∃ t, exec (.refresh bank) s = .next t ∧ (t.bank bank).debt = (s.bank bank).debt - 1 ∧ (t.bank bank).rp = ((s.bank bank).rp + 1) % 528 ∧
      ((s.bank bank).rp < 512 → ∀ a, a < 32 → t.counter bank (a * 512 + (s.bank bank).rp) = 0) ∧ (∀ n, n ≠ bank → t.bank n = s.bank n) ∧ t.mem = s.mem ∧ t.threads = s.threads) ∧
  (∀ (s : State) bank row rest, (s.bank bank).managing = none → (s.bank bank).alerts = row :: rest →
    ∃ t, exec (.refreshManagement bank) s = .next t ∧ t.counter bank row = 0 ∧ (t.bank bank).alerts = rest ∧ (t.bank bank).managing = some s.cycle ∧
      (∀ n, n ≠ bank → t.bank n = (if (s.opIn bank).any (fun o => o.banks.contains n) then { s.bank n with inserted := false } else s.bank n)) ∧
      t.mem = s.mem ∧ t.threads = s.threads) ∧
  (∀ (s : State) bank, (s.bank bank).managing.isSome = true →
    exec (.refreshManagement bank) s = .next (s.setBank bank { s.bank bank with managing := none })) ∧
  (∀ (s : State) bank q rest n l, s.serves bank q rest → q.what = .load n → s.findLoad n = some l → l.stage = .inDram →
    ∃ t, exec (.dramRequest bank) s = .next t ∧ (t.bank bank).queue = rest ∧ s.counted t bank q.row ∧ t.findLoad n = some { l with stage := .dramDone } ∧
      t.mem = s.mem ∧ t.threads = s.threads) ∧
  (∀ (s : State) bank q rest n r, s.serves bank q rest → q.what = .store n → s.findStore n = some r →
    ∃ t, exec (.dramRequest bank) s = .next t ∧ (t.bank bank).queue = rest ∧ s.counted t bank q.row ∧ t.findStore n = some { r with dram := true } ∧
      t.mem = s.mem ∧ t.threads = s.threads) ∧
  (∀ (s : State) bank q rest, s.serves bank q rest → q.what = .engine →
    ∃ t, exec (.dramRequest bank) s = .next t ∧ (t.bank bank).queue = rest ∧ s.counted t bank q.row ∧ q.line ∈ t.opened ∧ t.mem = s.mem ∧ t.threads = s.threads) ∧
  (∀ (s : State) bank q rest bits p, s.serves bank q rest → q.what ≠ .patrol → s.errOf q.line = .correctable bits → s.place (q.line * 128) = some p →
    (s.cluster p.cluster).log.length < 4096 →
    ∃ t, exec (.dramRequest bank) s = .next t ∧ t.errOf q.line = .ok ∧ (∀ l, l ≠ q.line → t.errOf l = s.errOf l) ∧ s.notes t p 1 q.line ∧ t.mem = s.mem) ∧
  (∀ (s : State) bank q rest, s.serves bank q rest → q.what ≠ .patrol → s.errOf q.line = .uncorrectable ∨ s.errOf q.line = .poisoned →
    ∃ t, exec (.dramRequest bank) s = .next t ∧ (∀ l, t.errOf l = s.errOf l) ∧ (∀ c, (t.cluster c).log = (s.cluster c).log) ∧ t.mem = s.mem) ∧
  (∀ (s : State) bank q rest, s.serves bank q rest → q.what = .patrol → (s.rowStale bank q.row || s.rowLocked bank q.row) = false →
    ∃ t, exec (.dramRequest bank) s = .next t ∧ (t.bank bank).queue = rest ∧ s.counted t bank q.row ∧ s.scrubbed t bank q.row ∧ t.mem = s.mem ∧ t.threads = s.threads) ∧
  (∀ (s : State) bank q, s.inserts bank q → q.what ≠ .patrol →
    ∃ t, exec (.insertion bank) s = .next t ∧ (t.bank bank).queue = removeFirst q (s.bank bank).queue ∧ (t.bank bank).inserted = true ∧
      s.counted t bank q.row ∧ t.mem = s.mem ∧ t.threads = s.threads) ∧
  (∀ (s : State) bank q bits p, s.inserts bank q → q.what ≠ .patrol → s.errOf q.line = .correctable bits → s.place (q.line * 128) = some p →
    (s.cluster p.cluster).log.length < 4096 →
    ∃ t, exec (.insertion bank) s = .next t ∧ t.errOf q.line = .ok ∧ (∀ l, l ≠ q.line → t.errOf l = s.errOf l) ∧ s.notes t p 1 q.line ∧ t.mem = s.mem) ∧
  (∀ (s : State) bank q, s.inserts bank q → q.what ≠ .patrol → s.errOf q.line = .uncorrectable ∨ s.errOf q.line = .poisoned →
    ∃ t, exec (.insertion bank) s = .next t ∧ (∀ l, t.errOf l = s.errOf l) ∧ (∀ c, (t.cluster c).log = (s.cluster c).log) ∧ t.mem = s.mem) ∧
  (∀ (s : State) bank q, s.inserts bank q → q.what = .patrol → (s.rowStale bank q.row || s.rowLocked bank q.row) = false →
    ∃ t, exec (.insertion bank) s = .next t ∧ (t.bank bank).queue = removeFirst q (s.bank bank).queue ∧ (t.bank bank).inserted = true ∧
      s.counted t bank q.row ∧ s.scrubbed t bank q.row ∧ t.mem = s.mem ∧ t.threads = s.threads) ∧
  (∀ (s : State) bank, (s.cluster (clusterOfBank bank)).poff = false → s.rowStale bank (s.bank bank).patrol = false → s.rowLocked bank (s.bank bank).patrol = false →
    s.bankEngaged bank = false → s.codeOf bank (s.bank bank).patrol = .ok →
    ∃ t, exec (.patrolRead bank) s = .next t ∧ (t.bank bank).patrol = ((s.bank bank).patrol + 1) % 16384 ∧ s.counted t bank (s.bank bank).patrol ∧
      s.scrubbed t bank (s.bank bank).patrol ∧ t.mem = s.mem ∧ t.threads = s.threads) ∧
  (∀ (s : State) bank l bits p, (s.cluster (clusterOfBank bank)).poff = false → s.rowStale bank (s.bank bank).patrol = false → s.rowLocked bank (s.bank bank).patrol = false →
    s.bankEngaged bank = false → s.codeOf bank (s.bank bank).patrol = .ok → s.markedLines bank (s.bank bank).patrol = [l] → s.errOf l = .correctable bits →
    s.place (l * 128) = some p → (s.cluster p.cluster).log.length < 4096 →
    ∃ t, exec (.patrolRead bank) s = .next t ∧ s.notes t p 1 l) ∧
  (∀ (s : State) bank l p, (s.cluster (clusterOfBank bank)).poff = false → s.rowStale bank (s.bank bank).patrol = false → s.rowLocked bank (s.bank bank).patrol = false →
    s.bankEngaged bank = false → s.codeOf bank (s.bank bank).patrol = .ok → s.markedLines bank (s.bank bank).patrol = [l] → s.errOf l = .uncorrectable →
    s.place (l * 128) = some p → (s.cluster p.cluster).log.length < 4095 →
    ∃ t u, exec (.patrolRead bank) s = .next t ∧ s.notes u p 2 l ∧ u.cycle = s.cycle ∧ u.notes t p 3 l) ∧
  (∀ (s : State) bank, (s.cluster (clusterOfBank bank)).poff = false → (s.rowStale bank (s.bank bank).patrol || s.rowLocked bank (s.bank bank).patrol) = true →
    exec (.patrolRead bank) s = .next (s.setBank bank { s.bank bank with patrol := ((s.bank bank).patrol + 1) % 16384 })) ∧
  (∀ (s : State) bank, (s.cluster (clusterOfBank bank)).poff = false → s.rowStale bank (s.bank bank).patrol = false → s.rowLocked bank (s.bank bank).patrol = false →
    s.bankEngaged bank = true →
    exec (.patrolRead bank) s = .next (s.setBank bank { s.bank bank with
      patrol := ((s.bank bank).patrol + 1) % 16384,
      queue := (s.bank bank).queue ++ [⟨(s.bank bank).patrol, bank * 16384 + (s.bank bank).patrol, .patrol⟩] })) ∧
  (∀ (s : State) bank, (s.cluster (clusterOfBank bank)).poff = true → exec (.patrolRead bank) s = .next s)

/-- R267 to R270, R329, R330, R333, R334: the copy engine. -/
def Obligations.CopyStripsStampsAndFences : Prop :=
  (∀ (s : State) tile queue e rest b l, s.copyHead tile queue e rest → s.stripDue tile queue e b → s.stripReads tile queue e b l → Shadow.fold e.view = 0 →
    (∀ y ∈ l, s.trainDest tile y.2.key y.2.route = none) →
    ∃ t new x, exec (.copyStrip tile queue) s = .next t ∧ t.stores = s.stores ++ new ∧ (∀ q ∈ new, q.copies tile queue b ∧ q.kind = .write q.kind.cells) ∧
      (∀ n, (new.flatMap (fun q => q.kind.cells)).filter (fun c => lineOf c.1 == n) =
        (l.flatMap (fun y => cellsOf y.2.key (readBytes s.mem y.1.key (Shadow.esz e.view)))).filter (fun c => lineOf c.1 == n)) ∧
      (t.copyQueue tile queue).entries = x :: rest ∧ e.goesOn x b ∧ t.mem = s.mem ∧ t.threads = s.threads) ∧
  (∀ (s : State) tile queue e rest b l d, s.copyHead tile queue e rest → s.stripDue tile queue e b → s.stripReads tile queue e b l → Shadow.fold e.view = 0 →
    l ≠ [] → d < 8 → (∀ y ∈ l, s.trainDest tile y.2.key y.2.route = some d) →
    ∃ t u x, exec (.copyStrip tile queue) s = .next t ∧ t.stores = s.stores ∧ t.trains = s.trains ++ [u] ∧ u.dest = d ∧ u.kind = 1 ∧ u.w = some b ∧ u.floor = some b ∧
      u.copy = some (tile, queue) ∧ u.strip = e.strip ∧
      u.els = l.map (fun y => ⟨y.2.key, readBytes s.mem y.1.key (Shadow.esz e.view), none, y.2.route, y.2.compress, s.cisternTag y.2.key⟩) ∧
      (t.copyQueue tile queue).entries = x :: rest ∧ e.goesOn x b ∧ t.mem = s.mem ∧ t.threads = s.threads) ∧
  (∀ (s : State) tile queue e rest b l, s.copyHead tile queue e rest → s.stripDue tile queue e b → s.stripReads tile queue e b l →
    Shadow.fold e.view = 1 ∨ Shadow.fold e.view = 2 → (∀ y ∈ l, s.trainDest tile y.2.key y.2.route = none) →
    ∃ t new x, exec (.copyStrip tile queue) s = .next t ∧ t.stores = s.stores ++ new ∧ (∀ q ∈ new, q.copies tile queue b ∧ q.kind = .folds q.kind.folded) ∧
      (∀ n, (new.flatMap (fun q => q.kind.folded)).filter (fun f => lineOf f.key == n) =
        (l.map (fun y => (⟨Shadow.ffmt e.view, Shadow.fop e.view, y.2.key, s.elVal e y, y.2.route, y.2.compress⟩ : FoldEl))).filter (fun f => lineOf f.key == n)) ∧
      (t.copyQueue tile queue).entries = x :: rest ∧ e.goesOn x b ∧ t.mem = s.mem ∧ t.threads = s.threads) ∧
  (∀ (s : State) tile queue e rest b l, s.copyHead tile queue e rest → s.stripDue tile queue e b → s.stripReads tile queue e b l →
    Shadow.fold e.view = 3 ∨ Shadow.fold e.view = 4 → e.strip + 1 < Shadow.strips e.view →
    ∃ t x, exec (.copyStrip tile queue) s = .next t ∧ t.stores = s.stores ∧ t.trains = s.trains ∧ (t.copyQueue tile queue).entries = x :: rest ∧ e.goesOn x b ∧
      x.partials = (if Shadow.fold e.view = 3 then foldRun (Shadow.ffmt e.view) (Shadow.fop e.view) e.partials (l.map (s.elVal e))
        else e.partials ++ foldRun (Shadow.ffmt e.view) (Shadow.fop e.view) [] (l.map (s.elVal e))) ∧ t.mem = s.mem ∧ t.threads = s.threads) ∧
  (∀ (s : State) tile queue e rest b a d l p, s.copyHead tile queue e rest → s.stripDue tile queue e b → s.stripReads tile queue e b ((a, d) :: l) →
    Shadow.fold e.view = 3 → e.strip + 1 = Shadow.strips e.view →
    foldRun (Shadow.ffmt e.view) (Shadow.fop e.view) e.partials (((a, d) :: l).map (s.elVal e)) = [p] → s.trainDest tile d.key d.route = none →
    ∃ t q x, exec (.copyStrip tile queue) s = .next t ∧ t.stores = s.stores ++ [q] ∧ q.copies tile queue b ∧
      q.kind = .folds [⟨Shadow.ffmt e.view, Shadow.fop e.view, d.key, p, d.route, d.compress⟩] ∧
      (t.copyQueue tile queue).entries = x :: rest ∧ e.goesOn x b ∧ t.mem = s.mem ∧ t.threads = s.threads) ∧
  (∀ (s : State) tile queue e rest b, s.copyHead tile queue e rest → s.stripNext tile queue e b → e.begun = true →
    e.tags ≠ s.tagsOf e.view ∨ s.freesUnder e.tags = true →
    ∃ t x, exec (.copyStrip tile queue) s = .next t ∧ (t.copyQueue tile queue).entries = x :: rest ∧ x.failWit = some (errWitness 1 e.strip) ∧ x.inFlight = false ∧
      t.stores = s.stores ∧ t.mem = s.mem ∧ t.threads = s.threads) ∧
  (∀ (s : State) tile queue e rest b f, s.copyHead tile queue e rest → s.stripDue tile queue e b →
    checkStrip s ⟨tile, e.asid, e.supervisor⟩ b e.view e.strip (Shadow.stripEls e.view e.strip) = .error (.fails f) →
    ∃ t x, exec (.copyStrip tile queue) s = .next t ∧ (t.copyQueue tile queue).entries = x :: rest ∧ x.failWit = some f ∧ x.inFlight = false ∧ t.stores = s.stores ∧ t.mem = s.mem ∧ t.threads = s.threads) ∧
  (∀ (s : State) tile queue e rest, s.copyHead tile queue e rest → e.inFlight = true → e.stamping = none → s.copyOpen tile queue = false →
    ∃ t, exec (.copyStripEnd tile queue) s = .next t ∧ (t.copyQueue tile queue).entries = { e with inFlight := false, strip := e.strip + 1 } :: rest ∧ t.mem = s.mem ∧ t.threads = s.threads) ∧
  (∀ (s : State) tile queue e rest p, s.copyHead tile queue e rest → s.stampDue e → e.owner = .thread p → Shadow.stamp e.view = 0 →
    ∃ t, exec (.copyStampWrite tile queue) s = .next t ∧ (t.copyQueue tile queue).entries = rest ∧ t.mem = s.mem ∧ t.threads = s.threads) ∧
  (∀ (s : State) tile queue e rest p l h, s.copyHead tile queue e rest → s.stampDue e → e.owner = .thread p → Shadow.stamp e.view ≠ 0 →
    (e.begun = true → e.tags.getLast? = (s.tagsOf e.view).getLast?) →
    checkEl s ⟨tile, e.asid, e.supervisor⟩ .write e.strip 8 (decodePtr (Shadow.stamp e.view), Shadow.stamp e.view) = .ok l →
    s.trainDest tile l.key l.route = none → l.route ≠ .host → s.engineGate (some p) true l.route [l.key] = none → s.lineBad l.key = false →
    homeOf s l.key = some h →
    s.underCeiling (s.storeTime h (lineOf l.key) (if wKind e.stampValue = 0 then some (wTime e.stampValue) else none) (e.bound.getD e.floor) (nocacheRoute l.route)) = true →
    ∃ t, exec (.copyStampWrite tile queue) s = .next t ∧ (t.copyQueue tile queue).entries = rest ∧ s.mem.writes t.mem (cellsOf l.key (leBytes 8 e.stampValue.toNat)) ∧
      t.threads = s.threads) ∧
  (∀ (s : State) tile queue e rest, (s.copyQueue tile queue).entries = e :: rest → e.fence.isSome = true → s.entryHeld e = false →
    (∀ x ∈ e.watch, x.2 ≠ e.seq → s.watchOpen (e.origin tile).1 x = false) →
    ∃ t, exec (.copyFenceRelease tile queue) s = .next t ∧ (t.copyQueue tile queue).entries = rest ∧ t.mem = s.mem ∧ t.threads = s.threads)

/-- R336 to R339, R304: trains at their destination and back at their sender. -/
def Obligations.TrainsArePerformedAndAcknowledged : Prop :=
  (∀ (s : State) id u e r h, s.findTrain id = some u → s.trainDue u e r h → u.inbound = none →
    ∃ t v, exec (.trainElement id) s = .next t ∧ s.mem.writes t.mem (s.trainCells (e :: r)) ∧ t.findTrain id = some v ∧
      v.performed = u.performed + (e :: r).length ∧ v.done = u.done + (e :: r).length ∧
      v.time = joinTime u.time ((s.packetTo u.tile h).storeTime h (lineOf e.key) u.w u.floor (nocacheRoute e.route)) ∧ v.error = u.error ∧ t.threads = s.threads) ∧
  (∀ (s : State) id u e h f, s.findTrain id = some u → s.trainDue u e [] h → u.inbound = none → e.fold = some f →
    ∃ t v, exec (.trainElement id) s = .next t ∧ s.mem.writes t.mem (cellsOf e.key (leBytes (foldBytes f.fmt)
        (foldVal f.fmt f.fop (BitVec.ofNat 64 (readNat s.mem e.key (foldBytes f.fmt))) f.val).toNat)) ∧ t.findTrain id = some v ∧ v.performed = u.performed + 1 ∧
      t.threads = s.threads) ∧
  (∀ (s : State) id u e h, s.findTrain id = some u → u.here = true → u.ready = true → u.lineEls = [e] → u.inbound = none → s.trainTurn u (lineOf e.key) = true →
    s.trainHome u e.key = some h → s.trainOwns u e = false →
    ∃ t v, exec (.trainElement id) s = .next t ∧ t.findTrain id = some v ∧ v.performed = u.performed + 1 ∧ v.done = u.done ∧ v.time = u.time ∧
      v.error = joinError u.error (joinErrors [errWitness 1 u.strip]) ∧ t.mem = s.mem ∧ t.threads = s.threads) ∧
  (∀ (s : State) id u e, s.findTrain id = some u → u.here = true → u.ready = true → u.lineEls = [e] → (u.inbound.isSome = true → s.asidServed u.asid = true) →
    s.trainTurn u (lineOf e.key) = true → s.trainHome u e.key = none →
    ∃ t v, exec (.trainElement id) s = .next t ∧ t.findTrain id = some v ∧ v.performed = u.performed + 1 ∧ v.done = u.done ∧ v.time = u.time ∧
      v.error = joinError u.error (joinErrors [errWitness 5 e.key]) ∧ t.mem = s.mem ∧ t.threads = s.threads) ∧
  (∀ (s : State) id u, s.findTrain id = some u → u.here = true → u.whole = true → u.performed = u.els.length → u.tailed = false → u.inbound = none →
    ∃ t, exec (.trainTail id) s = .next t ∧ t.findTrain id = some { u with tailed := true } ∧ t.mem = s.mem ∧ t.threads = s.threads) ∧
  (∀ (s : State) id u dev, s.findTrain id = some u → u.whole = true → u.performed = u.els.length → u.tailed = false → u.inbound = some dev →
    ∃ t p, exec (.trainTail id) s = .next t ∧ (∀ x ∈ t.trains, x.id ≠ id) ∧ t.out = s.out ++ [.message dev 2 (msgOffset 1 (u.no.toNat / 2 ^ 26)) p] ∧
      p.drop 32 = u.ackBeat ∧ t.mem = s.mem ∧ t.threads = s.threads) ∧
  (∀ (s : State) id u gid, s.findTrain id = some u → u.tailed = true → u.copy = none → u.gid = some gid →
    ∃ t, exec (.trainAck id) s = .next t ∧ (∀ x ∈ t.trains, x.id ≠ id) ∧
      t.groups = s.groups.map (fun g => if g.gid = gid then g.take ⟨u.time, none, u.error.map u.localError⟩ else g) ∧ t.mem = s.mem ∧ s.threadsKeep t) ∧
  (∀ (s : State) id u gid, s.findTrain id = some u → u.tailed = false → u.inbound = none → u.copy = none → u.gid = some gid →
    ∃ t, exec (.trainAckTimeout id) s = .next t ∧ (∀ x ∈ t.trains, x.id ≠ id) ∧
      t.groups = s.groups.map (fun g => if g.gid = gid then g.take ⟨none, none, some (errWitness 2 u.address)⟩ else g) ∧ t.mem = s.mem ∧ t.threads = s.threads)

/-- R354 to R356, R358, R359, R370: host queues. That a control block with a reserved bit set or a field out of range puts its queue into error
with code 3 or 4 is the model's choice (log entry 69), that a CSTAMP holds the time of its own store is read so (log entry 47), and the queue bound is
log entry 19's. -/
def Obligations.QueuesAreReadAndStamped : Prop :=
  (∀ (s : State) q v, (s.queue q).head.isSome = true → exec (.queueDoorbell q v) s = .next s) ∧
  (∀ (s : State) q, (s.queue q).head.isSome = true → exec (.queueHeadWake q) s = .next s) ∧
  (∀ (s : State) q v, s.mgr.ready = true → q < 4096 → (s.queue q).head = none → s.frontWait q (s.qcbKey q) = none → (s.qcb q).state = 1 →
    ∃ t, exec (.queueDoorbell q v) s = .next t ∧ (t.queue q).awake = true ∧ (t.queue q).running = true ∧ (t.queue q).asid = (s.qcb q).asid ∧ (t.queue q).root = (s.qcb q).root ∧
      (t.queue q).view = s.qcb q ∧ t.mem = s.mem ∧ t.threads = s.threads) ∧
  (∀ (s : State) q v, s.mgr.ready = true → q < 4096 → (s.queue q).head = none → s.frontWait q (s.qcbKey q) = none → (s.qcb q).state ≠ 1 →
    ∃ t, exec (.queueDoorbell q v) s = .next t ∧ (t.queue q).awake = false ∧ (t.queue q).running = false ∧ t.mem = s.mem ∧ t.threads = s.threads) ∧
  (∀ (s : State) q, s.mgr.ready = true → q < 4096 → (s.queue q).head = none → s.frontWait q (s.qcbKey q) = none → (s.qcb q).state = 1 →
    ∃ t, exec (.queueHeadWake q) s = .next t ∧ (t.queue q).awake = true ∧ (t.queue q).running = true ∧ (t.queue q).asid = (s.qcb q).asid ∧ (t.queue q).root = (s.qcb q).root ∧
      (t.queue q).view = s.qcb q ∧ t.mem = s.mem ∧ t.threads = s.threads) ∧
  (∀ (s : State) q, s.mgr.ready = true → q < 4096 → (s.queue q).head = none → s.frontWait q (s.qcbKey q) = none → (s.qcb q).state ≠ 1 →
    ∃ t, exec (.queueHeadWake q) s = .next t ∧ (t.queue q).awake = false ∧ (t.queue q).running = false ∧ t.mem = s.mem ∧ t.threads = s.threads) ∧
  (∀ (s : State) q c l u, (s.queue q).awake = true → (s.queue q).head = none → s.qcbReads q c → (s.readQcb q).readPa q c.slot 128 = .bytes l u →
    (packetOf l).at 0 1 % 2 = c.phase % 2 → headerCode c (packetOf l) = none →
    ∃ t, exec (.packetFetch q) s = .next t ∧ (t.queue q).head = some { packetOf l with no := (s.queue q).count } ∧ (t.queue q).count = (s.queue q).count + 1 ∧
      t.waiting = (if (packetOf l).type = 1 then s.waiting ++ [q] else s.waiting) ∧ t.mem = s.mem ∧ t.threads = s.threads) ∧
  (∀ (s : State) q c l u, (s.queue q).awake = true → (s.queue q).head = none → s.qcbReads q c → (s.readQcb q).readPa q c.slot 128 = .bytes l u →
    (packetOf l).at 0 1 % 2 ≠ c.phase % 2 →
    ∃ t, exec (.packetFetch q) s = .next t ∧ (t.queue q).head = none ∧ (t.queue q).awake = false ∧ t.mem = s.mem ∧ t.threads = s.threads) ∧
  (∀ (s : State) q c l u e h, (s.queue q).awake = true → (s.queue q).head = none → s.qcbReads q c → (s.readQcb q).readPa q c.slot 128 = .bytes l u →
    (packetOf l).at 0 1 % 2 = c.phase % 2 → headerCode c (packetOf l) = some e → (packetOf l).cstamp = 0 →
    u.frontGate [u.qcbLoc q] = none → homeOf u (u.qcbKey q) = some h → u.underCeiling (u.storeTime h (lineOf (u.qcbKey q)) none (u.queueBound q)) = true →
    ∃ t, exec (.packetFetch q) s = .next t ∧ (t.queue q).head = none ∧ (t.queue q).awake = false ∧ (t.queue q).running = false ∧
      s.mem.writes t.mem (c.cells (s.qcbKey q) (some (3, e % 256 + c.head % 2 ^ 24 * 256 + e / 2 ^ 32 * 2 ^ 32))) ∧ t.threads = s.threads) ∧
  (∀ (s u : State) q e h, (s.queue q).awake = true → (s.queue q).head = none → s.frontWait q (s.qcbKey q) = none → (s.qcb q).state = 1 → u = s.readQcb q →
    s.qcbCode q = some e → u.frontGate [u.qcbLoc q] = none → homeOf u (u.qcbKey q) = some h →
    u.underCeiling (u.storeTime h (lineOf (u.qcbKey q)) none (u.queueBound q)) = true →
    ∃ t, exec (.packetFetch q) s = .next t ∧ (t.queue q).head = none ∧ (t.queue q).awake = false ∧ (t.queue q).running = false ∧
      s.mem.writes t.mem (cellsOf (s.qcbKey q + 9) (leBytes 1 3) ++ cellsOf (s.qcbKey q + 32) (leBytes 8 (e + (s.qcb q).head % 2 ^ 24 * 256))) ∧ t.threads = s.threads) ∧
  (∀ (s : State) q seq p w, s.completes q seq p → (p.type = 3 ∨ p.type = 4 ∨ p.type = 5 ∨ p.type = 6 ∨ p.type = 8) →
    p.done = true → p.time = w → p.error = none → p.cstamp = 0 →
    ∃ t, exec (.packetComplete q seq) s = .next t ∧ (t.queue q).active = (s.queue q).active.filter (fun k => k.no != p.no) ∧
      (t.queue q).stamp = joinTimes [(s.queue q).stamp, w] ∧ t.mem = s.mem ∧ t.threads = s.threads) ∧
  (∀ (s : State) q seq p w l h, s.completes q seq p → (p.type = 3 ∨ p.type = 4 ∨ p.type = 5 ∨ p.type = 6) →
    p.done = true → p.time = w → p.error = none → p.cstamp ≠ 0 → s.paLoc p.cstamp = some l → l.route = .cached → s.frontGate [l] = none →
    homeOf s l.key = some h → s.underCeiling (s.storeTime h (lineOf l.key) w (s.queueBound q)) = true →
    ∃ t, exec (.packetComplete q seq) s = .next t ∧ (t.queue q).active = (s.queue q).active.filter (fun k => k.no != p.no) ∧
      (t.queue q).stamp = joinTimes [(s.queue q).stamp, some (s.storeTime h (lineOf l.key) w (s.queueBound q))] ∧
      s.mem.writes t.mem (cellsOf l.key (leBytes 8 (timeWitness (s.storeTime h (lineOf l.key) w (s.queueBound q))).toNat)) ∧ t.threads = s.threads) ∧
  (∀ (s : State) asid rcb k n r, s.lineage asid rcb = [r] → r.addr = rcb → r.asid = asid → r.owes = false → n ≠ 0 → (r.charge k n).exhausted k = false →
    exec (.budgetCharge asid rcb k n) s = .next (s.setRegion (r.charge k n))) ∧
  (∀ (s : State) asid rcb k, (∀ r ∈ s.lineage asid rcb, r.owes = false) → exec (.budgetCharge asid rcb k 0) s = .next s)

/-- R356, R361 to R366, R368, R372: packets of a host queue. The model's own readings here: the lock owner of a PLANE packet, 4096 and its queue (log entry
46), NOP's end at the queue bound (47), a KILL with SCOPE 1 that asks no ROOT (48), the tile a START's wait pre-empts on (63). -/
def Obligations.PacketsStart : Prop :=
  (∀ (s : State) q p r, s.headIs q p 1 [(29, 32), (52, 128)] startRange → p.waited = false → s.regionIs q (startOf p.bytes).rcb r →
    exec (.start q) s = .next (s.setQueue q { s.queue q with head := some { p with waited := true } })) ∧
  (∀ (s u : State) q p asid x r tile c tid, (s.queue q).head = some p → s.waitingStart q = some (asid, x) → s.waiting.contains q = true →
    s.underCeiling (s.queueBound q) = true → s.region asid x.rcb = some r → r.killed = false → (bestStart s (s.waiting.filter s.servable)).map (·.1) = some q → s.advances q [] u →
    u.startTile asid x = some tile → x.nthr = 1 → u.startCore tile 0 = some c → (u.corePlaces c).head? = some tid →
    ∃ t team, exec (.startPlacement q) s = .next t ∧ t.teams = u.teams ++ [team] ∧ team.queue = q ∧ team.packet = p.no ∧ team.tile = tile ∧ team.members = [tid] ∧
      team.asid = asid ∧ (t.thread tid).status = .running ∧ (t.thread tid).pc = x.entry ∧ (t.thread tid).supervisor = true ∧ (t.thread tid).tile = tile ∧
      (t.thread tid).asid = asid ∧ (t.thread tid).team = team.id ∧
      (∀ n, mget 0 (t.thread tid).sregs n = if n = 0 then x.arg else if n = 2 then 1 else 0) ∧ (t.thread tid).vregs = [] ∧ (t.thread tid).mregs = [] ∧
      (t.thread tid).frm = 1 ∧ (t.thread tid).fflags = 0 ∧ (t.thread tid).lease = 64 ∧ t.startedAs u q p ∧ ∀ n, n ≠ tid → t.thread n = u.thread n) ∧
  (∀ (s : State) q asid p tile x tid, s.waitingStart q = some (asid, p) → s.waiting.contains q = true → s.servable q = false →
    (List.range 64).find? (fun k => p.admits k && s.teams.any (s.lower (s.prioOf asid p.rcb) k)) = some tile →
    s.teams.any (fun x => s.lower (s.prioOf asid p.rcb) tile x && x.stopsOn s tile) = false →
    lowestTeam s (s.teams.filter (s.lower (s.prioOf asid p.rcb) tile)) = some x →
    x.members = [tid] → (s.thread tid).team = x.id → (s.thread tid).status = .running →
    exec (.startWaitTimeout q) s = .next (s.setThread tid { s.thread tid with status := .stopping })) ∧
  (∀ (s u v : State) q p l, s.headIs q p 3 [(24, 128)] (fun p => p.at 16 8 % 8 == 0) → s.readPa q (p.at 16 8) 8 = .bytes l v →
    wKind (BitVec.ofNat 64 (leNat l)) = 0 → v.advances q [] u →
    ∃ t, exec (.wait q) s = .next t ∧ (t.queue q).bound = joinTime (u.queue q).bound (wTime (BitVec.ofNat 64 (leNat l))) ∧
      t.startedAs u q (p.ended (some (wTime (BitVec.ofNat 64 (leNat l))))) ∧ t.mem = u.mem ∧ t.threads = u.threads) ∧
  (∀ (s v : State) q p l, s.headIs q p 3 [(24, 128)] (fun p => p.at 16 8 % 8 == 0) → s.readPa q (p.at 16 8) 8 = .bytes l v →
    wKind (BitVec.ofNat 64 (leNat l)) = 2 → paRoute s 0 (p.at 16 8) = some .cached → exec (.wait q) s = .next s) ∧
  (∀ (s u : State) q p, s.headIs q p 4 [(16, 128)] (fun _ => true) → (s.queue q).active = [] → s.advances q [] u →
    ∃ t, exec (.stamp q) s = .next t ∧ t.startedAs u q (p.ended (u.queue q).stamp) ∧ t.mem = u.mem ∧ t.threads = u.threads) ∧
  (∀ (s u : State) q p r l, s.headIs q p 5 [(25, 32), (40, 128)] (fun p => p.at 24 1 < 64 && p.at 16 8 % 8 == 0) → s.regionIs q (p.word 32) r →
    s.givesBytes q ⟨p.at 24 1, r.asid, true⟩ (p.word 16) 8 144 l → Shadow.fault (viewOf l) = none →
    let v := (s.touchRange ⟨p.at 24 1, r.asid, true⟩ (p.word 16) 144 (s.queueBound q)).1
    v.drawsSpent r.asid r.addr = false → (v.copyQueue (p.at 24 1) (Shadow.queue (viewOf l))).entries.length < 16 → v.advances q [] u →
    ∃ t e, exec (.copy q) s = .next t ∧ (t.copyQueue (p.at 24 1) (Shadow.queue (viewOf l))).entries = (u.copyQueue (p.at 24 1) (Shadow.queue (viewOf l))).entries ++ [e] ∧
      e.owner = .packet q p.no ∧ e.view = viewOf l ∧ e.asid = r.asid ∧ e.region = r.addr ∧ e.fence = none ∧ t.startedAs u q p ∧ t.mem = u.mem ∧ t.threads = u.threads) ∧
  (∀ (s u : State) q p r l seen, s.headIs q p 6 [(40, 128)] (fun _ => true) → s.regionIs q (p.word 32) r →
    s.planeChecks (s.frontReader q (frontWho r.asid)) r.addr (p.word 16) (p.word 24) = .ok l seen → s.drawsSpent r.asid r.addr = false →
    (∀ k ∈ l.reads, k ∈ l.writes) → (s.serveRanges (s.frontReader q (frontWho r.asid)) seen).advances q [] u →
    ∃ t x, exec (.plane q) s = .next t ∧ (t.cluster l.cluster).lockReqs = (u.cluster l.cluster).lockReqs ++ [x] ∧ x.lock.owner = 4096 + q ∧ x.lock.write = true ∧
      x.lock.runs = launchRuns l l.writes ∧ x.tries = false ∧ x.launch = some (l, q, p.no) ∧ t.startedAs u q p ∧ t.mem = u.mem ∧ t.threads = u.threads) ∧
  (∀ (s u : State) q p r, s.headIs q p 7 [(25, 128)] (fun p => p.at 24 1 < 2) → p.at 24 1 = 0 → s.regionIs q (p.word 16) r → s.advances q [] u →
    u.region r.asid r.addr = some r → u.teams.filter (u.killNames q p) = [] →
    ∃ t, exec (.kill q) s = .next t ∧ t.region r.asid r.addr = some { r with killed := true } ∧ t.startedAs u q p ∧ t.mem = u.mem ∧ t.threads = u.threads) ∧
  (∀ (s u : State) q p x tid, s.headIs q p 7 [(25, 128)] (fun p => p.at 24 1 < 2) → p.at 24 1 = 1 → killTargetBad p = false → s.advances q [] u →
    u.teams.filter (u.killNames q p) = [x] → u.teams.find? (·.id == x.id) = some x → x.done = false → x.members = [tid] →
    (u.thread tid).team = x.id → (u.thread tid).status = .running → u.stripHolds (ownerTag x.alloc (mget 0 u.gens x.alloc)) = false →
    ∃ t, exec (.kill q) s = .next t ∧ (t.thread tid).status = .ended ∧ (t.thread tid).sregs = [] ∧ (∀ a ∈ t.allocs, a.id ≠ x.alloc) ∧ t.startedAs u q p ∧
      t.mem = u.mem ∧ ∀ n, n ≠ tid → t.thread n = u.thread n) ∧
  (∀ (s u : State) q p, s.headIs q p 8 [(16, 128)] (fun _ => true) → s.advances q [] u →
    ∃ t, exec (.nop q) s = .next t ∧ t.startedAs u q (p.ended (some (u.queueBound q))) ∧ t.mem = u.mem ∧ t.threads = u.threads) ∧
  (∀ (s u : State) q, s.advance q none = some u →
    s.mem.writes u.mem ((s.queue q).view.cells (s.qcbKey q) none) ∧ u.threads = s.threads ∧ (u.queue q).head = none ∧
      (u.queue q).view = (s.queue q).view.next none ∧ u.waiting = s.waiting.filter (· != q))

/-- R276, R279, R367, R369: REGION packets. -/
def Obligations.RegionsAndCisterns : Prop :=
  (∀ (s u : State) q p r l, s.headIs q p 2 [(25, 128)] (fun p => p.at 16 8 % 64 == 0 && true) → p.at 24 1 = 1 → s.regionIs q r.addr r → s.region (s.queue q).asid (p.word 16) = none →
    s.givesBytes q (frontWho (s.queue q).asid) (p.word 16) 64 128 l → rcbBad l = false → fieldAt l 80 8 % 8 = 0 → BitVec.ofNat 64 (fieldAt l 0 8) = r.addr → r.addr ≠ 0 →
    (nodeOf (s.queue q).asid (p.word 16) l).spent = false →
    ((s.touchRange (frontWho (s.queue q).asid) (p.word 16) 128 (s.queueBound q)).1).advances q [] u →
    ∃ t, exec (.regionAttach q) s = .next t ∧ t.regions = u.regions ++ [nodeOf (s.queue q).asid (p.word 16) l] ∧ t.startedAs u q (p.ended none) ∧
      t.mem = u.mem ∧ t.threads = u.threads) ∧
  (∀ (s u : State) q p r n l a h, s.headIs q p 2 [(25, 128)] (fun p => p.at 16 8 % 64 == 0 && true) → p.at 24 1 = 2 → s.regionIs q (p.word 16) r →
    s.givesBytes q (frontWho r.asid) r.addr 64 128 l → rcbBad l = false →
    n = { r with mask := BitVec.ofNat 16 (fieldAt l 8 2), prio := fieldAt l 10 1, fdom := fieldAt l 11 1, limit := dwordsAt l 16 } → n.spent = false →
    let v := (s.touchRange (frontWho r.asid) r.addr 128 (s.queueBound q)).1
    v.usedSpots r = .at [(a, r.usedBytes)] → a.route = .cached → v.advances q [a] u → homeOf u a.key = some h →
    u.underCeiling (u.storeTime h (lineOf a.key) none (u.queueBound q)) = true → u.regions = [r] →
    ∃ t, exec (.regionReload q) s = .next t ∧ t.regions = [n] ∧ u.mem.writes t.mem (cellsOf a.key r.usedBytes) ∧ t.threads = u.threads) ∧
  (∀ (s u : State) q p r, s.headIs q p 2 [(25, 128)] (fun p => p.at 16 8 % 64 == 0 && true) → p.at 24 1 = 3 → s.regionIs q (p.word 16) r → s.advances q [] u →
    ∃ t, exec (.regionDetach q) s = .next t ∧ t.startedAs u q p ∧ t.regions = u.regions ∧ t.mem = u.mem ∧ t.threads = u.threads) ∧
  (∀ (s u : State) q p r a base h, s.headIs q p 2 [(27, 28), (40, 128)] (fun p => p.at 16 8 % 64 == 0 && (p.at 25 1 < 8 && p.at 26 1 < 2 && 1 ≤ p.at 28 4 && p.at 32 8 % 8 == 0)) → p.at 24 1 = 4 → s.regionIs q (p.word 16) r →
    s.spotsOf (frontWho r.asid) (p.word 32) (List.replicate 8 0) = .at [(a, List.replicate 8 0)] → a.route = .cached → s.advances q [a] u →
    u.cisternRun (p.at 25 1) (p.at 28 4) = some base → a.key < 2 ^ 52 →
    let v := ((u.boundHome q (72 + p.at 25 1)).makeCistern (p.at 25 1) (p.at 28 4) (p.at 26 1 == 1) r).1
    homeOf v a.key = some h → v.underCeiling (v.storeTime h (lineOf a.key) none (v.queueBound q)) = true →
    ∃ t c, exec (.cisternAllocate q) s = .next t ∧ t.cisterns = u.cisterns ++ [c] ∧ c.cluster = p.at 25 1 ∧ c.base = base ∧ c.size = p.at 28 4 ∧ c.asid = r.asid ∧
      c.region = r.addr ∧ c.rw = (p.at 26 1 == 1) ∧
      (∀ k, cisternKey (p.at 25 1) (base * 65536) ≤ k → k < cisternKey (p.at 25 1) (base * 65536) + p.at 28 4 * 65536 → readByte t.mem k = 0) ∧
      readNat t.mem a.key 8 = (base * 65536 + c.id * 2 ^ 32 + c.gen * 2 ^ 48) % 2 ^ 64 ∧ t.threads = u.threads) ∧
  (∀ (s u : State) q p r c, s.headIs q p 2 [(26, 28), (32, 128)] (fun p => p.at 16 8 % 64 == 0 && p.at 25 1 < 8) → p.at 24 1 = 5 → s.regionIs q (p.word 16) r →
    s.cisterns.find? (fun c => c.cluster == p.at 25 1 && c.base * 65536 == p.at 28 4 && c.asid == r.asid && c.region == r.addr) = some c →
    s.cisternHeld c = false → s.advances q [] u →
    ∃ t, exec (.cisternFree q) s = .next t ∧ t.cisterns = u.cisterns.filter (· != c) ∧ mget 0 t.gens c.id = (mget 0 u.gens c.id + 1) % 65536 ∧
      t.startedAs u q (p.ended none) ∧ t.mem = u.mem ∧ t.threads = u.threads)

/-- R311, R312, R411, R412, R431: the host. That the snoop filter keeps a line as shared after BISnpCur is log entry 28's reading, and that a write of a whole
line takes the place of one that cannot be read log entry 29's. -/
def Obligations.HostAccesses : Prop :=
  (∀ (s : State) pa n h, s.mgr.restarting = false → pa < Config.dramBytes → homeOf s pa = some h → s.hostGate false [lineOf pa] = none →
    (s.line (lineOf pa)).bad = false → s.lineBad pa = false →
    ∃ t, exec (.hostMemrd pa n) s = .next t ∧ t.out = s.out ++ [.hostData pa (readBytes s.mem pa n) false] ∧ t.mem = s.mem ∧ t.threads = s.threads) ∧
  (∀ (s : State) pa n h, s.mgr.restarting = false → pa < Config.dramBytes → homeOf s pa = some h → s.hostGate false [lineOf pa] = none →
    (s.line (lineOf pa)).bad = false → s.lineBad pa = true →
    ∃ t, exec (.hostMemrd pa n) s = .next t ∧ t.out = s.out ++ [.hostData pa (List.replicate n 0) true] ∧
      (s.errOf (lineOf pa) = .uncorrectable → (s.place (lineOf pa * 128)).isSome = true → t.errOf (lineOf pa) = .poisoned) ∧ t.mem = s.mem ∧ t.threads = s.threads) ∧
  (∀ (s : State) pa n, s.mgr.restarting = true ∨ Config.dramBytes ≤ pa ∨ homeOf s pa = none →
    exec (.hostMemrd pa n) s = .next { s with out := s.out ++ [.hostData pa (List.replicate n 0) true] }) ∧
  (∀ (s : State) pa x h, s.mgr.restarting = false → pa < Config.dramBytes → homeOf s pa = some h → s.hostGate false [lineOf pa] = none →
    (s.line (lineOf pa)).bad = false → s.lineBad pa = false → ((s.cluster h).snoop.filter (·.1 != lineOf pa)).length < 262144 →
    ∃ t, exec (.hostMemrdOwnership pa x) s = .next t ∧ t.out = s.out ++ [.hostData (lineOf pa * 128) (readBytes s.mem (lineOf pa * 128) 128) false] ∧
      (lineOf pa, x) ∈ (t.cluster h).snoop ∧ t.mem = s.mem ∧ t.threads = s.threads) ∧
  (∀ (s : State) pa b h, s.mgr.restarting = false → b ≠ [] → pa % 128 + b.length ≤ 128 → pa + b.length ≤ Config.dramBytes → homeOf s (lineOf pa * 128) = some h →
    s.hostGate true [lineOf pa] = none → (s.line (lineOf pa)).bad = false → s.lineBad (lineOf pa * 128) = false ∨ b.length = 128 →
    s.underCeiling (s.storeTime h (lineOf pa) none s.hostLast) = true →
    ∃ t, exec (.hostMemwr pa b) s = .next t ∧ s.mem.writes t.mem (cellsOf pa b) ∧ t.out = s.out ++ [.hostDone pa] ∧
      t.hostLast = some (s.storeTime h (lineOf pa) none s.hostLast) ∧ t.threads = s.threads) ∧
  (∀ (s : State) pa b, s.mgr.restarting = true →
    ∃ t, exec (.hostMemwr pa b) s = .next t ∧ (t.cluster 0).logged = (s.cluster 0).logged + 1 ∧ t.out = s.out ∧ t.mem = s.mem ∧ t.threads = s.threads) ∧
  (∀ (s : State) line h, homeOf s (line * 128) = some h → (s.cluster h).bisnp.find? (·.1 == line) = some (line, false) →
    ∃ t, exec (.birsp line none) s = .next t ∧ (∀ e ∈ (t.cluster h).bisnp, e.1 ≠ line) ∧ (∀ e ∈ (t.cluster h).snoop, e.1 ≠ line) ∧ t.mem = s.mem ∧ t.threads = s.threads) ∧
  (∀ (s : State) line h b, homeOf s (line * 128) = some h → (s.cluster h).bisnp.find? (·.1 == line) = some (line, false) → b.length = 128 →
    s.dramWait .cached [line] = none → (s.line line).bad = false → s.underCeiling (s.storeTime h line none s.hostLast) = true →
    ∃ t, exec (.birsp line (some b)) s = .next t ∧ s.mem.writes t.mem (cellsOf (line * 128) b) ∧ (∀ e ∈ (t.cluster h).snoop, e.1 ≠ line) ∧ t.threads = s.threads) ∧
  (∀ (s : State) line h, homeOf s (line * 128) = some h → (s.cluster h).bisnp.find? (·.1 == line) = some (line, true) →
    ∃ t, exec (.birsp line none) s = .next t ∧ (∀ e ∈ (t.cluster h).bisnp, e.1 ≠ line) ∧
      (t.cluster h).snoop = (s.cluster h).snoop.map (fun e => if e.1 = line then (line, false) else e) ∧ t.mem = s.mem ∧ t.threads = s.threads) ∧
  (∀ (s : State) pa, exec (.hostSnoop pa) s = .next { s with out := s.out ++ [.snoopMiss pa] }) ∧
  (∀ (s : State) id x n l p b tr sx bytes, s.hostReqs.find? (·.id == id) = some x → x.what = .load n → s.findLoad n = some l → l.route = .host →
    l.form = .scalar p.size sx false → s.awaits l p b tr → bytes.length = 128 →
    ∃ t, exec (.hostCompletion id bytes) s = .next t ∧
      s.loaded t l tr (let w := BitVec.ofNat 64 (leNat ((bytes.drop (p.key % 128)).take p.size)); if sx then sextW w (8 * p.size) else zextW w (8 * p.size))) ∧
  (∀ (s : State) id x l a c bytes, s.hostReqs.find? (·.id == id) = some x → x.what = .line l a c → l * 128 < 2 ^ 51 →
    exec (.hostCompletion id bytes) s = .next { s with
      hostReqs := s.hostReqs.filter (·.id != id), farLines := s.farLines ++ [⟨l, a, c, (bytes ++ List.replicate 128 0).take 128, none⟩] }) ∧
  (∀ (s : State) id x n r gid bytes, s.hostReqs.find? (·.id == id) = some x → x.what = .store n → s.findStore n = some r → r.route = .host → r.gid = some gid → r.copy = none →
    ∃ t, exec (.hostCompletion id bytes) s = .next t ∧ (∀ q ∈ t.stores, q.id ≠ n) ∧ t.mem = s.mem ∧ s.threadsKeep t ∧
      t.groups = s.groups.map (fun g => if g.gid = gid then g.take ⟨some (s.tile r.tile).horizon, none, none⟩ else g))

/-- R300, R407, R413 to R418: messages of peers. -/
def Obligations.PeerMessages : Prop :=
  (∀ (s : State) m h, s.next m 1 → (s.stream m.dev m.tile).train = none → m.beats = [h] → trainBad h = false → s.asidServed m.asid = true →
    ∃ t u, exec (.msgTrainBeats m) s = .next t ∧ t.trains = s.trains ++ [u] ∧ u.id = s.fresh ∧ u.inbound = some m.dev ∧ u.asid = m.asid ∧ u.kind = beatAt h 0 1 ∧
      u.no = BitVec.ofNat 32 (beatAt h 4 4) ∧ u.error = none ∧ u.els = [] ∧ u.performed = 0 ∧ u.whole = false ∧ (t.stream m.dev m.tile).rx = [h, leBytes 8 0] ∧
      (t.stream m.dev m.tile).train = some u.id ∧ (t.stream m.dev m.tile).expected = m.seq + 1 ∧ t.ceiling = serialMax s.ceiling m.time ∧
      t.mem = s.mem ∧ t.threads = s.threads) ∧
  (∀ (s : State) m h, s.next m 1 → (s.stream m.dev m.tile).train = none → m.beats = [h] → trainBad h = true ∨ s.asidServed m.asid = false →
    ∃ t u, exec (.msgTrainBeats m) s = .next t ∧ t.trains = s.trains ++ [u] ∧ u.inbound = some m.dev ∧ u.kind = 0 ∧ u.els = [] ∧
      u.error = some (if trainBad h then errWitness 5 (beatAt h 4 4) else errWitness 1 (beatAt h 28 4)) ∧ t.mem = s.mem ∧ t.threads = s.threads) ∧
  (∀ (s : State) m h b e, s.next m 1 → (s.stream m.dev m.tile).train = none → m.beats = [h, b, e] → trainBad h = false → s.asidServed m.asid = true →
    isTail e (beatAt h 4 4) 1 (decide (m.at 1 1 < 7)) = true → countFits (beatAt e 0 4) 1 = true → (e.drop 8).any (· != 0) = false →
    ((entriesOf [b]).take (beatAt e 0 4)).any (entryBad h) = false → (∀ x ∈ s.trains, x.id ≠ s.fresh) →
    ∃ t u, exec (.msgTrainBeats m) s = .next t ∧ t.trains = s.trains ++ [u] ∧ u.inbound = some m.dev ∧ u.asid = m.asid ∧ u.kind = beatAt h 0 1 ∧
      u.els = ((entriesOf [b]).take (beatAt e 0 4)).map (elementOf h) ∧ u.count = beatAt e 0 4 ∧ u.whole = true ∧ u.performed = 0 ∧ u.error = none ∧
      (t.stream m.dev m.tile).train = none ∧ (t.stream m.dev m.tile).rx = [] ∧ (t.stream m.dev m.tile).expected = m.seq + 1 ∧
      t.mem = s.mem ∧ t.threads = s.threads) ∧
  (∀ (s : State) m u gid, s.hears m 2 → s.trains.find? (fun t => t.dest == 8 + m.dev && t.inbound.isNone && t.tile == m.tile && t.no.toNat == m.tag) = some u →
    u.copy = none → u.gid = some gid → wKind (BitVec.ofNat 64 (m.beat 8 8)) = 0 →
    ∃ t, exec (.msgTrainAck m) s = .next t ∧ (∀ x ∈ t.trains, x.id ≠ u.id) ∧ t.mem = s.mem ∧ s.threadsKeep t ∧
      t.groups = s.groups.map (fun g => if g.gid = gid then g.take ⟨some (wTime (BitVec.ofNat 64 (m.beat 8 8))), none, none⟩ else g)) ∧
  (∀ (s : State) m h u, s.next m 3 → (s.heard m).peerServed m false h u → u.underCeiling m.time = true →
    ∃ t time, exec (.msgReadRequest m) s = .next t ∧ t.mem = s.mem ∧ t.threads = s.threads ∧ (t.stream m.dev m.tile).expected = m.seq + 1 ∧
      t.out = s.out ++ [.message m.dev 4 (msgOffset 1 m.tile)
        (msgHeader 4 3 s.deviceNo.toNat m.asid.toNat time 0 m.tag 0 ++
          (readAnswer (readBytes s.mem (lineOf m.pa * 128) 128) (timeWitness (u.wts h (lineOf m.pa)))).flatten)]) ∧
  (∀ (s : State) m, s.next m 3 → s.asidServed m.asid = false →
    ∃ t time, exec (.msgReadRequest m) s = .next t ∧ t.mem = s.mem ∧ t.threads = s.threads ∧
      t.out = s.out ++ [.message m.dev 4 (msgOffset 1 m.tile)
        (msgHeader 4 3 s.deviceNo.toNat m.asid.toNat time 0 m.tag 0 ++ (readAnswer (List.replicate 128 0) (errWitness 1 m.pa)).flatten)]) ∧
  (∀ (s : State) m x n l p b tr sx, s.hears m 4 → s.hostReqs.find? (fun h => h.id % 2 ^ 32 == m.tag) = some x → x.what = .load n → s.findLoad n = some l →
    wKind (BitVec.ofNat 64 (m.beat 128 8)) ≠ 1 → l.form = .scalar p.size sx false → s.awaits l p b tr →
    ∃ t, exec (.msgReadResponse m) s = .next t ∧
      s.loaded t l tr (let w := BitVec.ofNat 64 (leNat (((fullLine (m.payload.drop 32)).drop (p.key % 128)).take p.size)); if sx then sextW w (8 * p.size) else zextW w (8 * p.size))) ∧
  (∀ (s : State) m h u o v, s.next m 5 → (s.heard m).peerServed m true h u →
    let size := 2 ^ (m.beat 4 4 / 32768 % 4)
    let sx := m.beat 4 4 / 16777216 % 2 == 1
    let w := if wKind (BitVec.ofNat 64 (m.beat 24 8)) = 0 then some (wTime (BitVec.ofNat 64 (m.beat 24 8))) else none
    let r := if u.needsDram h (lineOf m.pa) .cached then (u.openLine (lineOf m.pa)).correctLine (lineOf m.pa) else u
    atomicOf (m.beat 0 4 / 4 % 256) = some o → r.underCeiling (r.storeTime h (lineOf m.pa) w none) = true →
    atomicNew o size (BitVec.ofNat 64 (readNat s.mem m.pa size)) (BitVec.ofNat 64 (m.beat 8 8)) (BitVec.ofNat 64 (m.beat 16 8)) sx = some v →
    ∃ t time, exec (.msgAtomicRequest m) s = .next t ∧ s.mem.writes t.mem (cellsOf m.pa (leBytes size v.toNat)) ∧ t.threads = s.threads ∧
      t.out = s.out ++ [.message m.dev 6 (msgOffset 1 m.tile) (msgHeader 6 1 s.deviceNo.toNat m.asid.toNat time 0 m.tag 0 ++
        (atomicAnswer (loadValue s.mem m.pa size sx) (timeWitness (r.storeTime h (lineOf m.pa) w w)) 0).flatten)]) ∧
  (∀ (s : State) m r gid op key size b c sx, s.hears m 6 → s.stores.find? (fun r => r.route == .peer && r.id % 2 ^ 32 == m.tag) = some r → r.gid = some gid → r.copy = none →
    r.kind = .atomic op key size b c sx → wKind (BitVec.ofNat 64 (m.beat 8 8)) ≠ 1 →
    ∃ t, exec (.msgAtomicResponse m) s = .next t ∧ (∀ q ∈ t.stores, q.id ≠ r.id) ∧ t.mem = s.mem ∧ s.threadsKeep t ∧
      t.groups = s.groups.map (fun g => if g.gid = gid then
        g.take ⟨some (wTime (BitVec.ofNat 64 (m.beat 8 8))), some (BitVec.ofNat 64 (m.beat 0 8)), none⟩ else g)) ∧
  (∀ (s : State) m, s.hears m 7 →
    ∃ t, exec (.msgTime m) s = .next t ∧ t.ceiling = serialMax s.ceiling m.time ∧ (∀ h, h < 8 → t.clock h = serialMax (s.clock h) m.time) ∧ t.mem = s.mem ∧ t.threads = s.threads) ∧
  (∀ (s : State) m, s.refuses m = true → ∃ t, exec (.msgTime m) s = .next t ∧ t.ceiling = s.ceiling ∧ t.clocks = s.clocks ∧ t.out = s.out ∧ t.mem = s.mem ∧ t.threads = s.threads) ∧
  (∀ (s : State) tile dev, exec (.msgRetransmit tile dev) s = .next { s with
      out := s.out ++ (s.sent.filter (fun x => x.tile == tile && x.dev == dev)).map (fun x => .message dev x.type (msgOffset 0 tile) x.payload) }) ∧
  (∀ (s : State) tile dev x u gid, s.sent.filter (fun x => x.tile == tile && x.dev == dev) = [x] → x.type = 1 →
    s.trains.find? (fun t => t.dest == 8 + x.dev && t.inbound.isNone && t.tile == x.tile && t.no.toNat == x.tag) = some u → u.copy = none → u.gid = some gid →
    ∃ t, exec (.msgUnreachable tile dev) s = .next t ∧ t.sent = s.sent.filter (fun x => !(x.tile == tile && x.dev == dev)) ∧ (∀ y ∈ t.trains, y.id ≠ u.id) ∧
      t.groups = s.groups.map (fun g => if g.gid = gid then g.take ⟨none, none, some (errWitness 2 (u.address % 2 ^ 56))⟩ else g) ∧ t.mem = s.mem ∧ t.threads = s.threads) ∧
  (∀ (s : State) port k, s.nextPeer (mget 0 s.idleTurn port) = some k →
    ∃ t time, exec (.idleTimeSend port) s = .next t ∧ mget 0 t.idleTurn port = k + 1 ∧ time = s.clusterClock (portCluster port) ∧
      t.out = s.out ++ [.message (bitsAt (mget 0 s.peers k) 4 12) 7 (msgOffset 0 0) (msgHeader 7 0 s.deviceNo.toNat 0 time 0 0 0)] ∧ t.mem = s.mem ∧ t.threads = s.threads) ∧
  (∀ (s : State) k v, k < 2048 → exec (.peerTableWrite k v) s = .next { s with peers := mset 0 s.peers k (v &&& 0xFFF1) }) ∧
  (∀ (s : State) id, exec (.fabricEnumeration id) s = .next { s with deviceNo := id })

/-- R60, R118, R293, R294, R374, R376, R384, R385, R410, R434, R449: register writes. The ranges kept out of a register leave it unchanged. How firmware names
an ASID's entry is the model's (log entry 2). -/
def Obligations.RegisterWrites : Prop :=
  (∀ (s : State) tid v, s.csrDue tid 0x031 v → ∃ t, exec (.frmWrite tid v) s = .next t ∧ (t.thread tid).frm = (if 1 ≤ v.toNat % 8 ∧ v.toNat % 8 ≤ 5 then v.setWidth 3 else (s.thread tid).frm) ∧ (t.thread tid).sregs = (s.thread tid).sregs ∧ (t.thread tid).fflags = (s.thread tid).fflags ∧ (∀ n, n ≠ tid → t.thread n = s.thread n) ∧ t.mem = s.mem) ∧
  (∀ (s : State) tid v, s.csrDue tid 0x112 v → ∃ t, exec (.leaseWrite tid v) s = .next t ∧ (t.thread tid).lease = (if v.setWidth 16 = (0 : BitVec 16) then (s.thread tid).lease else v.setWidth 16) ∧ (t.thread tid).sregs = (s.thread tid).sregs ∧ (t.thread tid).frm = (s.thread tid).frm ∧ (∀ n, n ≠ tid → t.thread n = s.thread n) ∧ t.mem = s.mem) ∧
  (∀ (s : State) tid v, firmwareTid tid = false → s.csrDue tid 0x111 v → ∃ t, exec (.ptrootWrite tid v) s = .next t ∧ t.asidTab = mset none s.asidTab (s.thread tid).asid.toNat (some (v.toNat / 2 ^ 16 % 2 ^ 36 * 2 ^ 16)) ∧ (∀ n, n < 64 → ∀ e ∈ (t.tile n).tlb, e.asid ≠ (s.thread tid).asid) ∧ (∀ c, c < 8 → ∀ e ∈ (t.cluster c).tlb, e.asid ≠ (s.thread tid).asid) ∧ (s.thread tid).keeps (t.thread tid) ∧ (∀ n, n ≠ tid → t.thread n = s.thread n) ∧ t.mem = s.mem) ∧
  (∀ (s : State) tid v, s.csrDue tid 0x130 v → ∃ t, exec (.mthWrite tid v) s = .next t ∧ (t.cluster (clusterOfTile (s.thread tid).tile)).mth = (if 256 ≤ v.toNat % 2 ^ 14 ∧ v.toNat % 2 ^ 14 ≤ 8192 then v.toNat % 2 ^ 14 else (s.cluster (clusterOfTile (s.thread tid).tile)).mth) ∧ (∀ c, c ≠ clusterOfTile (s.thread tid).tile → t.cluster c = s.cluster c) ∧ (s.thread tid).keeps (t.thread tid) ∧ (∀ n, n ≠ tid → t.thread n = s.thread n) ∧ t.mem = s.mem) ∧
  (∀ (s : State) tid v, s.csrDue tid 0x131 v → ∃ t, exec (.refctlWrite tid v) s = .next t ∧ (t.cluster (clusterOfTile (s.thread tid).tile)).poff = v.getLsbD 0 ∧ (t.cluster (clusterOfTile (s.thread tid).tile)).patrol = (if v.toNat / 2 ^ 8 % 2 ^ 8 = 0 then (s.cluster (clusterOfTile (s.thread tid).tile)).patrol else v.toNat / 2 ^ 8 % 2 ^ 8) ∧ (t.cluster (clusterOfTile (s.thread tid).tile)).mth = (s.cluster (clusterOfTile (s.thread tid).tile)).mth ∧ (∀ c, c ≠ clusterOfTile (s.thread tid).tile → t.cluster c = s.cluster c) ∧ (s.thread tid).keeps (t.thread tid) ∧ (∀ n, n ≠ tid → t.thread n = s.thread n) ∧ t.mem = s.mem) ∧
  (∀ (s : State) tid v, s.csrDue tid 0x120 v → ∃ t, exec (.fwshareWrite tid v) s = .next t ∧ (t.core (s.thread tid).core).fwshare = (if v.toNat % 16 ≤ 8 then v.toNat % 16 else (s.core (s.thread tid).core).fwshare) ∧ t.clusters = s.clusters ∧ (∀ k, k ≠ (s.thread tid).core → t.core k = s.core k) ∧ (s.thread tid).keeps (t.thread tid) ∧ (∀ n, n ≠ tid → t.thread n = s.thread n) ∧ t.mem = s.mem) ∧
  (∀ (s : State) tid v, s.csrDue tid 0x134 v → ∃ t, exec (.ilaWrite tid v) s = .next t ∧ (t.cluster (clusterOfTile (s.thread tid).tile)).il = writeIla (s.cluster (clusterOfTile (s.thread tid).tile)).il (s.cluster (clusterOfTile (s.thread tid).tile)).ilsel v ∧ (∀ n, n ≠ (s.cluster (clusterOfTile (s.thread tid).tile)).ilsel → mget (0, 0) (t.cluster (clusterOfTile (s.thread tid).tile)).il n = mget (0, 0) (s.cluster (clusterOfTile (s.thread tid).tile)).il n) ∧ (t.cluster (clusterOfTile (s.thread tid).tile)).ilsel = (s.cluster (clusterOfTile (s.thread tid).tile)).ilsel ∧ (∀ c, c ≠ clusterOfTile (s.thread tid).tile → t.cluster c = (if clusterOfTile (s.thread tid).tile = 0 then { s.cluster c with lru := (t.cluster c).lru, rdc := (t.cluster c).rdc } else s.cluster c)) ∧ (s.thread tid).keeps (t.thread tid) ∧ (∀ n, n ≠ tid → t.thread n = s.thread n) ∧ t.mem = (if clusterOfTile (s.thread tid).tile = 0 ∧ (s.cluster 0).il ≠ (t.cluster 0).il then writeCells [] (s.mem.map (fun e => (movedKey (s.cluster 0).il (t.cluster 0).il e.1, e.2))) else s.mem)) ∧
  (∀ (il : NMap (Word × Word)) n (v : Word), v.getLsbD 0 = false → mget (0, 0) (writeIla il n v) n = (v &&& ilaMask, (mget (0, 0) il n).2)) ∧
  (∀ (il : NMap (Word × Word)) n (v : Word) r, regionOf (v &&& ilaMask, (mget (0, 0) il n).2) = some r → ((regionFits r && ((mdel il n).filterMap (fun e => regionOf e.2)).all (fun q => !r.meets q)) = true → mget (0, 0) (writeIla il n v) n = (v &&& ilaMask, (mget (0, 0) il n).2)) ∧ ((regionFits r && ((mdel il n).filterMap (fun e => regionOf e.2)).all (fun q => !r.meets q)) = false → (mget (0, 0) (writeIla il n v) n).1.getLsbD 0 = false ∧ (mget (0, 0) (writeIla il n v) n).1.getLsbD 4 = true)) ∧
  (∀ (s : State) tid v, s.csrDue tid 0x030 v → ∃ t, exec (.csrRegisterWrite tid 0x030 v) s = .next t ∧ (t.thread tid).fflags = v.setWidth 6 ∧ (t.thread tid).sregs = (s.thread tid).sregs ∧ (t.thread tid).frm = (s.thread tid).frm ∧ (t.thread tid).floor = (s.thread tid).floor ∧ (∀ n, n ≠ tid → t.thread n = s.thread n) ∧ t.mem = s.mem) ∧
  (∀ (s : State) tid v, s.csrDue tid 0x100 v → ∃ t, exec (.csrRegisterWrite tid 0x100 v) s = .next t ∧ (t.thread tid).tcause = v &&& 0x1FF ∧ (t.thread tid).sregs = (s.thread tid).sregs ∧ (t.thread tid).frm = (s.thread tid).frm ∧ (t.thread tid).floor = (s.thread tid).floor ∧ (∀ n, n ≠ tid → t.thread n = s.thread n) ∧ t.mem = s.mem) ∧
  (∀ (s : State) tid v, s.csrDue tid 0x101 v → ∃ t, exec (.csrRegisterWrite tid 0x101 v) s = .next t ∧ (t.thread tid).tblock = v &&& ~~~63 ∧ (t.thread tid).sregs = (s.thread tid).sregs ∧ (t.thread tid).frm = (s.thread tid).frm ∧ (t.thread tid).floor = (s.thread tid).floor ∧ (∀ n, n ≠ tid → t.thread n = s.thread n) ∧ t.mem = s.mem) ∧
  (∀ (s : State) tid v, s.csrDue tid 0x102 v → ∃ t, exec (.csrRegisterWrite tid 0x102 v) s = .next t ∧ (t.thread tid).tslot = v ∧ (t.thread tid).sregs = (s.thread tid).sregs ∧ (t.thread tid).frm = (s.thread tid).frm ∧ (t.thread tid).floor = (s.thread tid).floor ∧ (∀ n, n ≠ tid → t.thread n = s.thread n) ∧ t.mem = s.mem) ∧
  (∀ (s : State) tid v, s.csrDue tid 0x103 v → ∃ t, exec (.csrRegisterWrite tid 0x103 v) s = .next t ∧ (t.thread tid).taddr = v ∧ (t.thread tid).sregs = (s.thread tid).sregs ∧ (t.thread tid).frm = (s.thread tid).frm ∧ (t.thread tid).floor = (s.thread tid).floor ∧ (∀ n, n ≠ tid → t.thread n = s.thread n) ∧ t.mem = s.mem) ∧
  (∀ (s : State) tid v, s.csrDue tid 0x104 v → ∃ t, exec (.csrRegisterWrite tid 0x104 v) s = .next t ∧ (t.thread tid).telem = v &&& 0xFFFFFFFF ∧ (t.thread tid).sregs = (s.thread tid).sregs ∧ (t.thread tid).frm = (s.thread tid).frm ∧ (t.thread tid).floor = (s.thread tid).floor ∧ (∀ n, n ≠ tid → t.thread n = s.thread n) ∧ t.mem = s.mem) ∧
  (∀ (s : State) tid v, s.csrDue tid 0x105 v → ∃ t, exec (.csrRegisterWrite tid 0x105 v) s = .next t ∧ (t.thread tid).tvec = v &&& ~~~63 ∧ (t.thread tid).sregs = (s.thread tid).sregs ∧ (t.thread tid).frm = (s.thread tid).frm ∧ (t.thread tid).floor = (s.thread tid).floor ∧ (∀ n, n ≠ tid → t.thread n = s.thread n) ∧ t.mem = s.mem) ∧
  (∀ (s : State) tid v, s.csrDue tid 0x106 v → ∃ t, exec (.csrRegisterWrite tid 0x106 v) s = .next t ∧ (t.thread tid).tsave = v ∧ (t.thread tid).sregs = (s.thread tid).sregs ∧ (t.thread tid).frm = (s.thread tid).frm ∧ (t.thread tid).floor = (s.thread tid).floor ∧ (∀ n, n ≠ tid → t.thread n = s.thread n) ∧ t.mem = s.mem) ∧
  (∀ (s : State) tid v, s.csrDue tid 0x107 v → ∃ t, exec (.csrRegisterWrite tid 0x107 v) s = .next t ∧ (t.thread tid).tinfo = v ∧ (t.thread tid).sregs = (s.thread tid).sregs ∧ (t.thread tid).frm = (s.thread tid).frm ∧ (t.thread tid).floor = (s.thread tid).floor ∧ (∀ n, n ≠ tid → t.thread n = s.thread n) ∧ t.mem = s.mem) ∧
  (∀ (s : State) tid v, s.csrDue tid 0x110 v → ∃ t, exec (.csrRegisterWrite tid 0x110 v) s = .next t ∧ (t.thread tid).asid = v.setWidth 12 ∧ (t.thread tid).sregs = (s.thread tid).sregs ∧ (t.thread tid).frm = (s.thread tid).frm ∧ (t.thread tid).floor = (s.thread tid).floor ∧ (∀ n, n ≠ tid → t.thread n = s.thread n) ∧ t.mem = s.mem) ∧
  (∀ (s : State) tid v, s.csrDue tid 0x133 v → ∃ t, exec (.csrRegisterWrite tid 0x133 v) s = .next t ∧ (t.cluster (clusterOfTile (s.thread tid).tile)).ilsel = v.toNat % 16 ∧ (t.cluster (clusterOfTile (s.thread tid).tile)).il = (s.cluster (clusterOfTile (s.thread tid).tile)).il ∧ (s.thread tid).keeps (t.thread tid) ∧ (∀ n, n ≠ tid → t.thread n = s.thread n) ∧ t.mem = s.mem) ∧
  (∀ (s : State) tid v, s.csrDue tid 0x136 v → ∃ t, exec (.csrRegisterWrite tid 0x136 v) s = .next t ∧ (t.cluster (clusterOfTile (s.thread tid).tile)).brsel = v.toNat % 16 ∧ (t.cluster (clusterOfTile (s.thread tid).tile)).remap = (s.cluster (clusterOfTile (s.thread tid).tile)).remap ∧ (s.thread tid).keeps (t.thread tid) ∧ (∀ n, n ≠ tid → t.thread n = s.thread n) ∧ t.mem = s.mem) ∧
  (∀ (s : State) tid v, s.csrDue tid 0x135 v → ∃ t, exec (.csrRegisterWrite tid 0x135 v) s = .next t ∧ (t.cluster (clusterOfTile (s.thread tid).tile)).il = mset (0, 0) (s.cluster (clusterOfTile (s.thread tid).tile)).il (s.cluster (clusterOfTile (s.thread tid).tile)).ilsel ((mget (0, 0) (s.cluster (clusterOfTile (s.thread tid).tile)).il (s.cluster (clusterOfTile (s.thread tid).tile)).ilsel).1, v &&& ilbMask) ∧ (s.thread tid).keeps (t.thread tid) ∧ (∀ n, n ≠ tid → t.thread n = s.thread n) ∧ t.mem = (if clusterOfTile (s.thread tid).tile = 0 ∧ (s.cluster 0).il ≠ (t.cluster 0).il then writeCells [] (s.mem.map (fun e => (movedKey (s.cluster 0).il (t.cluster 0).il e.1, e.2))) else s.mem)) ∧
  (∀ (s : State) tid v, s.csrDue tid 0x031 v → exec (.frmWrite tid v) s = .next ((s.csrTaken tid 0x031 v).csrWrite tid 0x031 v)) ∧
  (∀ (s : State) tid v, ¬ s.csrDue tid 0x031 v → exec (.frmWrite tid v) s = .next s) ∧
  (∀ (s : State) tid v, s.csrDue tid 0x112 v → exec (.leaseWrite tid v) s = .next ((s.csrTaken tid 0x112 v).csrWrite tid 0x112 v)) ∧
  (∀ (s : State) tid v, ¬ s.csrDue tid 0x112 v → exec (.leaseWrite tid v) s = .next s) ∧
  (∀ (s : State) tid v, firmwareTid tid = true → s.walkPending (.asid (v.setWidth 12)) = false → ∃ t, exec (.ptrootWrite tid v) s = .next t ∧
    t.asidTab = mset none s.asidTab (v.toNat % 2 ^ 12) (if v.toNat / 2 ^ 16 % 2 ^ 36 = 0 then none else some (v.toNat / 2 ^ 16 % 2 ^ 36 * 2 ^ 16)) ∧
    (∀ n, n < 64 → ∀ e ∈ (t.tile n).tlb, e.asid ≠ v.setWidth 12) ∧ (∀ c, c < 8 → ∀ e ∈ (t.cluster c).tlb, e.asid ≠ v.setWidth 12) ∧ t.threads = s.threads ∧ t.mem = s.mem) ∧
  (∀ (s : State) tid v, firmwareTid tid = true → s.walkPending (.asid (v.setWidth 12)) = true → exec (.ptrootWrite tid v) s = .next s) ∧
  (∀ (s : State) tid v, firmwareTid tid = false → s.csrDue tid 0x111 v → exec (.ptrootWrite tid v) s = .next ((s.csrTaken tid 0x111 v).csrWrite tid 0x111 v)) ∧
  (∀ (s : State) tid v, firmwareTid tid = false → ¬ s.csrDue tid 0x111 v → exec (.ptrootWrite tid v) s = .next s) ∧
  (∀ (s : State) tid v, s.csrDue tid 0x130 v → exec (.mthWrite tid v) s = .next ((s.csrTaken tid 0x130 v).csrWrite tid 0x130 v)) ∧
  (∀ (s : State) tid v, ¬ s.csrDue tid 0x130 v → exec (.mthWrite tid v) s = .next s) ∧
  (∀ (s : State) tid v, s.csrDue tid 0x131 v → exec (.refctlWrite tid v) s = .next ((s.csrTaken tid 0x131 v).csrWrite tid 0x131 v)) ∧
  (∀ (s : State) tid v, ¬ s.csrDue tid 0x131 v → exec (.refctlWrite tid v) s = .next s) ∧
  (∀ (s : State) tid v, s.csrDue tid 0x120 v → exec (.fwshareWrite tid v) s = .next ((s.csrTaken tid 0x120 v).csrWrite tid 0x120 v)) ∧
  (∀ (s : State) tid v, ¬ s.csrDue tid 0x120 v → exec (.fwshareWrite tid v) s = .next s) ∧
  (∀ (s : State) tid v, s.csrDue tid 0x134 v → exec (.ilaWrite tid v) s = .next ((s.csrTaken tid 0x134 v).csrWrite tid 0x134 v)) ∧
  (∀ (s : State) tid v, ¬ s.csrDue tid 0x134 v → exec (.ilaWrite tid v) s = .next s) ∧
  (∀ (s : State) tid (csr : BitVec 12) v, ownRow csr.toNat = false → s.csrDue tid csr v →
    exec (.csrRegisterWrite tid csr v) s = .next ((s.csrTaken tid csr v).csrWrite tid csr.toNat v)) ∧
  (∀ (s : State) tid (csr : BitVec 12) v, ownRow csr.toNat = true ∨ ¬ s.csrDue tid csr v → exec (.csrRegisterWrite tid csr v) s = .next s) ∧
  (∀ (s : State) off v, (0x18 ≤ off ∧ off < 0x80000) ∨ (0x88000 ≤ off ∧ off < 0x100000) → exec (.barRegisterWrite off v) s = .next s) ∧
  (∀ (s : State) off v, off = 0x8 ∨ off = 0x10 → exec (.barRegisterWrite off v) s = .next s) ∧
  (∀ (s : State) v, v.getLsbD 2 = true → exec (.barRegisterWrite 0 v) s = exec .startCold s) ∧
  (∀ (s : State) v, v.getLsbD 2 = false → v.getLsbD 0 = true → exec (.barRegisterWrite 0 v) s = exec (if v.getLsbD 1 then .startWarmZero else .startWarm) s) ∧
  (∀ (s : State) v, v.getLsbD 2 = false → v.getLsbD 0 = false → exec (.barRegisterWrite 0 v) s = .next s) ∧
  (∀ (s : State) q v, q < 4096 → exec (.barRegisterWrite (0x80000 + 8 * q) v) s = exec (.queueDoorbell q v) s)

/-- R448, R449, R450: starts. The images of flash are values of Config (log entry 4); what a cold start clears before its steps, and that it keeps the error
log, is log entry 24's choice; what a warm start ends is R442's. -/
def Obligations.Starts : Prop :=
  (∀ (s : State), s.mgr.busy = false → s.mgr.failStep = 0 → exec .startWarm s = .next { s with mgr := { s.mgr with ready := false, restarting := true, pending := some (.warm false) } }) ∧
  (∀ (s : State), s.mgr.busy = false → s.mgr.failStep ≠ 0 → exec .startWarm s = .next s) ∧
  (∀ (s : State), s.mgr.busy = false → s.mgr.failStep = 0 → exec .startWarmZero s = .next { s with mgr := { s.mgr with ready := false, restarting := true, pending := some (.warm true) } }) ∧
  (∀ (s : State), s.mgr.busy = false → s.mgr.failStep ≠ 0 → exec .startWarmZero s = .next s) ∧
  (∀ (s : State), s.mgr.busy = false → exec .startCold s = .next { s with mgr := { s.mgr with ready := false, restarting := true, pending := some .cold } }) ∧
  (∀ (s : State), s.mgr.busy = true → exec .startCold s = .next { s with mgr := { s.mgr with next := some .cold } }) ∧
  (∀ (s : State) k, s.mgr.busy = true → s.mgr.next = some (.warm k) → exec .startWarmZero s = .next { s with mgr := { s.mgr with next := some (.warm true) } }) ∧
  (∀ (s : State) k, s.mgr.busy = true → s.mgr.next = some k → exec .startWarm s = .next s) ∧
  (∀ (s : State), s.mgr.busy = true → s.mgr.next = none → exec .startWarm s = .next { s with mgr := { s.mgr with next := some (.warm false) } }) ∧
  (∀ (s : State) f, s.mgr.pending = none → exec (.deviceStart f) s = .next s) ∧
  (∀ (s : State) f, s.mgr.trip = true → exec (.deviceStart f) s = .next s) ∧
  (∀ (s : State) f, s.mgr.pending = some .cold → s.mgr.trip = false → s.mgr.next = none →
    ∃ t, exec (.deviceStart f) s = .next t ∧ t.mgr.restarting = false ∧ t.mgr.pending = none ∧
      t.cycle = 0 ∧ t.asidTab = [] ∧ t.hostQ = [] ∧ t.threads = [] ∧ t.saved = [] ∧ t.teams = [] ∧ t.regions = [] ∧
      t.allocs = [] ∧ t.cisterns = [] ∧ t.loads = [] ∧ t.stores = [] ∧ t.counters = [] ∧ t.mem = [] ∧ t.err = [] ∧ t.mgr.session = false ∧ t.mgr.plimit = 1600 ∧ t.spared = s.spared ∧
      (∀ c, c < 8 → (t.cluster c).mth = 1024 ∧ (t.cluster c).patrol = 12 ∧ (t.cluster c).poff = false ∧ (t.cluster c).ops = [] ∧ (t.cluster c).locks = [] ∧
        (t.cluster c).remap = (s.cluster c).remap ∧ (t.cluster c).log = (s.cluster c).log) ∧
      match s.mgr.failing .cold f with
      | some n => t.mgr.ready = false ∧ t.mgr.failStep = n
      | none => t.mgr.ready = true ∧ t.mgr.failStep = 0 ∧ t.mgr.hdm = true ∧ t.training = trainedBy s.fresh ∧ ∀ c, c < 8 → (t.cluster c).il = bootMap) ∧
  (∀ (s : State) f, s.mgr.pending = some .cold → s.mgr.trip = false → s.mgr.next = none → f = some 1 →
    ∃ t, exec (.deviceStart f) s = .next t ∧ t.mgr.ready = false ∧ t.mgr.failStep = 1) ∧
  (∀ (s : State) f k, s.mgr.pending = some .cold → s.mgr.trip = false → s.mgr.next = some k → s.mgr.nextOob = true →
    ∃ t, exec (.deviceStart f) s = .next t ∧ t.mgr.ready = false ∧ t.mgr.restarting = true ∧ t.mgr.pending = some k ∧ t.mgr.next = none) ∧
  (∀ (s : State) z f, s.mgr.pending = some (.warm z) → s.mgr.trip = false → s.stampSnoop = none →
    ∃ t, exec (.deviceStart f) s = .next t ∧ t.threads = [] ∧ t.saved = [] ∧ t.teams = [] ∧ t.regions = [] ∧ t.allocs = [] ∧ t.cisterns = [] ∧ t.loads = [] ∧ t.stores = []) ∧
  (∀ (s : State) z f, s.mgr.pending = some (.warm z) → s.mgr.trip = false → s.stampSnoop = none → s.mgr.next = none →
    ∃ t, exec (.deviceStart f) s = .next t ∧ t.mgr.restarting = false ∧
      match s.mgr.failing (.warm z) f with
      | some n => t.mgr.ready = false ∧ t.mgr.failStep = n
      | none => t.mgr.ready = true ∧ t.mgr.failStep = 0 ∧ t.cycle = 0 ∧ t.asidTab = [] ∧ t.hostQ = [])

/-- R436 to R442: repairs and containment. -/
def Obligations.Repairs : Prop :=
  (∀ (s : State) bank row, s.rowLocked bank row = false → s.rowReached bank row = false → mget false s.spared (bank * 32 + row / 512) = false →
    ∃ t, exec (.rowSpare bank row) s = .next t ∧ mget false t.spared (bank * 32 + row / 512) = true ∧ t.counter bank row = 0 ∧
      (t.cluster (bank / 6144)).rowsSpared = (s.cluster (bank / 6144)).rowsSpared + 1 ∧ t.mem = s.mem ∧ t.threads = s.threads) ∧
  (∀ (s : State) bank row i r, s.rowLocked bank row = false → s.rowReached bank row = false → mget false s.spared (bank * 32 + row / 512) = true →
    (∀ e ∈ (s.cluster (bank / 6144)).remap, brState e.2 = 0 ∨ brFrom e.2 ≠ bank % 6144) → (s.cluster (bank / 6144)).freeEntry = some i → s.reserveFor (bank / 6144) = some r →
    ∃ t, exec (.rowSpare bank row) s = .next t ∧ brState (mget 0 (t.cluster (bank / 6144)).remap i) = 1 ∧ brFrom (mget 0 (t.cluster (bank / 6144)).remap i) = bank % 6144 ∧
      brMoved (mget 0 (t.cluster (bank / 6144)).remap i) = 0 ∧ t.spared = s.spared ∧ t.mem = s.mem ∧ t.threads = s.threads) ∧
  (∀ (s : State) bank row, s.rowLocked bank row = true ∨ s.rowReached bank row = true → exec (.rowSpare bank row) s = .next s) ∧
  (∀ (s : State) c i, brState (mget 0 (s.cluster c).remap i) = 1 → s.bankBusy (c * 6144 + brFrom (mget 0 (s.cluster c).remap i)) = false → brMoved (mget 0 (s.cluster c).remap i) < 32768 →
    ∃ t, exec (.bankRetireMove c i) s = .next t ∧ brMoved (mget 0 (t.cluster c).remap i) = brMoved (mget 0 (s.cluster c).remap i) + 1 ∧
      brFrom (mget 0 (t.cluster c).remap i) = brFrom (mget 0 (s.cluster c).remap i) ∧
      brState (mget 0 (t.cluster c).remap i) = (if brMoved (mget 0 (s.cluster c).remap i) = 32767 then 2 else 1) ∧ (∀ j, j ≠ i → mget 0 (t.cluster c).remap j = mget 0 (s.cluster c).remap j) ∧
      (t.cluster c).banksRetired = (s.cluster c).banksRetired + (if brMoved (mget 0 (s.cluster c).remap i) = 32767 then 1 else 0) ∧ t.lines = s.lines ∧ t.err = s.err ∧ t.mem = s.mem ∧ t.threads = s.threads) ∧
  (∀ (s : State) tile, (s.tile tile).retired = false → (∀ e ∈ s.threads, e.2.here = true → e.2.tile ≠ tile) →
    ∃ t, exec (.tileRetire tile) s = .next t ∧ (t.tile tile).retired = true ∧ (t.cluster (clusterOfTile tile)).tilesRetired = (s.cluster (clusterOfTile tile)).tilesRetired + 1 ∧ t.mem = s.mem ∧ t.threads = s.threads) ∧
  (∀ (s : State) tile, (s.tile tile).retired = true → (∀ e ∈ s.threads, e.2.here = true → e.2.tile ≠ tile) → s.tileWritten tile = false → (∀ a ∈ s.allocs, a.tile ≠ tile) →
    exec (.tileRetire tile) s = .next (s.setTile tile { s.tile tile with l1 := [], icache := [] })) ∧
  (∀ (s : State) tile a n u, (s.tile tile).retired = true → (∀ e ∈ s.threads, e.2.here = true → e.2.tile ≠ tile) → s.tileWritten tile = false → s.allocs = [a] → a.tile = tile →
    s.newHome tile a.units = some (n, u) → s.mem.wf = true → a.unit + a.units ≤ 256 → tile < 64 →
    ∃ t, exec (.tileRetire tile) s = .next t ∧ t.allocs = [{ a with tile := n, unit := u }] ∧
      (∀ i, i < a.units * 16384 → readByte t.mem (scratchKey n (u * 16384) + i) = readByte s.mem (scratchKey tile (a.unit * 16384) + i)) ∧
      (∀ k, k < 2 ^ 52 → readByte t.mem k = readByte s.mem k)) ∧
  (∀ (s : State) link lanes, link < 36 → s.linkLanes link - lanes ≤ s.sparesLeft link →
    ∃ t, exec (.linkRetrain link lanes) s = .next t ∧ t.links = s.links ∧ t.mgr = s.mgr ∧
      mget 0 t.linkSpares link = mget 0 s.linkSpares link + (s.linkLanes link - lanes) ∧ (∀ l, l ≠ link → mget 0 t.linkSpares l = mget 0 s.linkSpares l) ∧
      (t.cluster (linkCluster link)).logged = (s.cluster (linkCluster link)).logged + 1 ∧
      (t.cluster (linkCluster link)).linksDegraded = (s.cluster (linkCluster link)).linksDegraded ∧ t.mem = s.mem ∧ t.threads = s.threads) ∧
  (∀ (s : State) link lanes, link < 36 → s.sparesLeft link < s.linkLanes link - lanes → linkFull link / 4 ≤ lanes + s.sparesLeft link → linkFull link / 4 < s.linkLanes link →
    let n := if linkFull link / 2 ≤ lanes + s.sparesLeft link ∧ linkFull link / 2 < s.linkLanes link then linkFull link / 2 else linkFull link / 4
    ∃ t, exec (.linkRetrain link lanes) s = .next t ∧ t.linkLanes link = n ∧ (∀ l, l ≠ link → t.linkLanes l = s.linkLanes l) ∧ mget 0 t.linkSpares link = mget 0 s.linkSpares link + s.sparesLeft link ∧
      (t.cluster (linkCluster link)).logged = (s.cluster (linkCluster link)).logged + 1 ∧
      (t.cluster (linkCluster link)).linksDegraded = (s.cluster (linkCluster link)).linksDegraded + (if s.linkLanes link = linkFull link then 1 else 0) ∧
      t.mgr = s.mgr ∧ t.mem = s.mem ∧ t.threads = s.threads) ∧
  (∀ (s : State) link lanes, link < 20 → s.sparesLeft link < s.linkLanes link - lanes → lanes + s.sparesLeft link < 16 ∨ s.linkLanes link ≤ 16 → s.mgr.busy = false →
    ∃ t, exec (.linkRetrain link lanes) s = .next t ∧ t.links = s.links ∧ t.mgr = { s.mgr with ready := false, restarting := true, pending := some (.warm false) } ∧
      (t.cluster (linkCluster link)).logged = (s.cluster (linkCluster link)).logged + 1 ∧ t.mem = s.mem ∧ t.threads = s.threads) ∧
  (∀ (s : State) link lanes, 36 ≤ link ∨ (20 ≤ link ∧ s.sparesLeft link < s.linkLanes link - lanes ∧ (lanes + s.sparesLeft link < 4 ∨ s.linkLanes link ≤ 4)) →
    exec (.linkRetrain link lanes) s = .next s) ∧
  (∀ (s : State) u, s.doomed u = [] → (∀ c ∈ unitClusters u, ∀ o ∈ (s.cluster c).ops, o.state = .done ∨ unitOps u o = false) →
    ∃ t, exec (.unitFailure u) s = .next t ∧ (t.cluster (unitCluster u)).logged = (s.cluster (unitCluster u)).logged + 1 ∧ t.teams = s.teams ∧ t.mem = s.mem ∧ t.threads = s.threads) ∧
  (∀ (s : State) tile x i, s.teams = [x] → x.tile = tile → x.done = false → x.ending = none → x.members = [i] → (s.thread i).team = x.id → (s.thread i).status = .running → s.saved = [] → s.stripHolds (ownerTag x.alloc (mget 0 s.gens x.alloc)) = false →
    ∃ t, exec (.unitFailure (.tile tile)) s = .next t ∧ (t.thread i).status = .ended ∧ (∀ n, n ≠ i → t.thread n = s.thread n) ∧ t.mem = s.mem ∧
      (∀ y ∈ t.teams, y.done = true ∧ y.ending = some (errWitness 5 (0xFF * 2 ^ 48 + (s.cluster (tile / 8)).logged % 2 ^ 48))) ∧ t.alloc x.alloc = none) ∧
  (∀ (s : State) c, c < 8 → s.doomed (.cluster c) = [] → (∀ o ∈ (s.cluster c).ops, o.state = .done) → (∀ e ∈ s.lines, e.2.held = true → homeOf s (e.1 * 128) ≠ some c) →
    ∃ t, exec (.clusterWarmRestart c) s = .next t ∧ (∀ i, i < 8 → (t.tile (8 * c + i)).l1 = [] ∧ (t.tile (8 * c + i)).tlb = [] ∧ (t.tile (8 * c + i)).icache = []) ∧
      (t.cluster c).rdc = [] ∧ (t.cluster c).tlb = [] ∧ (∀ h ∈ clusterHomes c, t.clock h = serialMax (s.clock h) s.ceiling) ∧ t.mem = s.mem ∧ t.threads = s.threads)

/-- R450 to R457: Sollosor. The codes and layouts of SPDM are the model's (log entry 4). The prediction of power is the model's (log entry 25). -/
def Obligations.AttestationAndManagement : Prop :=
  (∀ (s : State) b, exec (.mctpControl b) s = .next { s with out := s.out ++ [.mctp (Config.spdmBody 0x100 b)] }) ∧
  (∀ (s : State) b, exec (.getVersion b) s = .next { s with mgr := { s.mgr with version := true, negotiated := false, session := false, handshake := none, sessionKey := [] }, out := s.out ++ [.spdm 0x04 (Config.spdmBody 0x04 (b))] }) ∧
  (∀ (s : State) b, exec (.getCapabilities b) s = .next (if s.mgr.version then { s with out := s.out ++ [.spdm 0x61 (Config.spdmBody 0x61 (b))] } else { s with out := s.out ++ [.spdm 0x7F (Config.spdmBody 0x7F (b))] })) ∧
  (∀ (s : State) b, exec (.negotiateAlgorithms b) s = .next (if s.mgr.version then { s with mgr := { s.mgr with negotiated := s.mgr.version }, out := s.out ++ [.spdm 0x63 (Config.spdmBody 0x63 (b))] } else { s with mgr := { s.mgr with negotiated := s.mgr.version }, out := s.out ++ [.spdm 0x7F (Config.spdmBody 0x7F (b))] })) ∧
  (∀ (s : State) b, exec (.getDigests b) s = .next (if s.mgr.negotiated then { s with out := s.out ++ [.spdm 0x01 (Config.spdmBody 0x01 (b ++ Config.sha3_512 s.mgr.chain))] } else { s with out := s.out ++ [.spdm 0x7F (Config.spdmBody 0x7F (b ++ Config.sha3_512 s.mgr.chain))] })) ∧
  (∀ (m : Manager), m.chain = Config.rootCertificate ++ Config.deviceCertificate (Config.ed448Public m.identity) ++ Config.ed448Public m.aliasKey ++
    Config.ed448Sign m.identity (Config.ed448Public m.aliasKey)) ∧
  (∀ (s : State) b, exec (.getCertificate b) s = .next (if s.mgr.negotiated then { s with out := s.out ++ [.spdm 0x02 (Config.spdmBody 0x02 (b ++ s.mgr.chain))] } else { s with out := s.out ++ [.spdm 0x7F (Config.spdmBody 0x7F (b ++ s.mgr.chain))] })) ∧
  (∀ (s : State) b, exec (.challenge b) s = .next (if s.mgr.negotiated then { s with out := s.out ++ [.spdm 0x03 (Config.spdmBody 0x03 (b ++ Config.ed448Sign s.mgr.aliasKey b))] } else { s with out := s.out ++ [.spdm 0x7F (Config.spdmBody 0x7F (b ++ Config.ed448Sign s.mgr.aliasKey b))] })) ∧
  (∀ (s : State) b, exec (.getMeasurements b) s = .next (if s.mgr.negotiated then { s with out := s.out ++ [.spdm 0x60 (Config.spdmBody 0x60 (b ++ selected s.measurements b))] } else { s with out := s.out ++ [.spdm 0x7F (Config.spdmBody 0x7F (b ++ selected s.measurements b))] })) ∧
  (∀ (s : State), s.measurements = [mget [] s.mgr.activeDigest 1, mget [] s.mgr.activeDigest 2, Config.shake256 s.repairMap, Config.shake256 s.mapTables]) ∧
  (∀ l i r, 1 ≤ i → i ≤ l.length → i < 256 → selected l (BitVec.ofNat 8 i :: r) = l[i - 1]?.getD []) ∧
  (∀ (s : State) b, s.mgr.negotiated = true → exec (.keyExchange b) s = .next { s with
    fresh := s.fresh + 1, mgr := { s.mgr with handshake := some (Config.secp384r1Secret s.fresh b) },
    out := s.out ++ [.spdm 0x64 (Config.spdmBody 0x64 (b ++ Config.secp384r1Share s.fresh ++ Config.ed448Sign s.mgr.aliasKey (b ++ Config.secp384r1Share s.fresh)))] }) ∧
  (∀ (s : State) b, s.mgr.negotiated = false → exec (.keyExchange b) s = .next { s with out := s.out ++ [.spdm 0x7F (Config.spdmBody 0x7F b)] }) ∧
  (∀ (s : State) b k, s.mgr.handshake = some k → exec (.finish b) s = .next { s with
    mgr := { s.mgr with session := true, handshake := none, sessionKey := Config.sha3_512 k }, out := s.out ++ [.spdm 0x65 (Config.spdmBody 0x65 b)] }) ∧
  (∀ (s : State) b, s.mgr.handshake = none → exec (.finish b) s = .next { s with out := s.out ++ [.spdm 0x7F (Config.spdmBody 0x7F b)] }) ∧
  (∀ (s : State) b, s.mgr.session = true → exec (.endSession b) s = .next { s with
    mgr := { s.mgr with session := false, sessionKey := [] }, out := s.out ++ [.spdm 0x6C (Config.spdmBody 0x6C (Config.aes256gcm s.mgr.sessionKey b))] }) ∧
  (∀ (s : State) b, s.mgr.session = false → ∃ t, exec (.endSession b) s = .next t ∧ t.mgr.session = false ∧ t.out = s.out ++ [.spdm 0x7F (Config.spdmBody 0x7F b)] ∧ t.mem = s.mem ∧ t.threads = s.threads) ∧
  (∀ (s : State) c, exec (.readLog c) s = .next { s with out := s.out ++ [.vendor 0 true (s.cluster c).log.flatten] }) ∧
  (∀ (s : State), exec .readStatus s = .next { s with out := s.out ++ [.vendor 1 true (dwordsOf s.statusBytes)] }) ∧
  (∀ (s : State) w, 600 ≤ w → w ≤ 1600 → exec (.setPlimit w) s = .next { s with mgr := { s.mgr with plimit := w }, out := s.out ++ [.vendor 2 true []] }) ∧
  (∀ (s : State) w, w < 600 ∨ 1600 < w → exec (.setPlimit w) s = .next { s with out := s.out ++ [.vendor 2 false []] }) ∧
  (∀ (s : State) w z, s.mgr.busy = true → exec (.restart w z true) s = .next { s with mgr := { s.mgr with next := some .cold, nextOob := true }, out := s.out ++ [.vendor 3 true []] }) ∧
  (∀ (s : State) z, s.mgr.busy = true → s.mgr.next = none → exec (.restart true z false) s = .next { s with mgr := { s.mgr with next := some (.warm z), nextOob := true }, out := s.out ++ [.vendor 3 true []] }) ∧
  (∀ (s : State) z, exec (.restart false z false) s = .next { s with out := s.out ++ [.vendor 3 false []] }) ∧
  (∀ (s : State) w z, s.mgr.busy = false → exec (.restart w z true) s = .next { s with mgr := { s.mgr with ready := false, restarting := true, pending := some .cold }, out := s.out ++ [.vendor 3 true []] }) ∧
  (∀ (s : State) z, s.mgr.busy = false → exec (.restart true z false) s = .next { s with mgr := { s.mgr with ready := false, restarting := true, pending := some (.warm z) }, out := s.out ++ [.vendor 3 true []] }) ∧
  (∀ (s : State) k, k = 1 ∨ k = 2 → exec (.commitSvn k) s = .next { s with mgr := { s.mgr with minSvn := mput s.mgr.minSvn k (Nat.max (s.mgr.minimum k) (mget 0 s.mgr.activeSvn k)) }, out := s.out ++ [.vendor 4 true []] }) ∧
  (∀ (s : State) k, k ≠ 1 → k ≠ 2 → exec (.commitSvn k) s = .next { s with out := s.out ++ [.vendor 4 false []] }) ∧
  (∀ (s : State) i, ∃ t, exec (.firmwareUpdate i) s = .next t ∧ t.mgr.ready = s.mgr.ready ∧ t.mgr.minSvn = s.mgr.minSvn ∧
      (if s.mgr.accepts i then t.mgr.switching = some ((i.header.drop 16).take 64, leNat ((i.header.drop 8).take 4)) ∧ t.mgr.changed = []
       else t.mgr = s.mgr ∧ (t.cluster 0).logged = (s.cluster 0).logged + 1) ∧ t.mem = s.mem ∧ t.threads = s.threads) ∧
  (∀ (m : Manager) i, leNat ((i.header.drop 8).take 4) < m.minimum 2 ∨ leNat ((i.header.drop 8).take 4) < mget 0 m.activeSvn 2 ∨ (i.header.drop 16).take 64 ≠ Config.shake256 i.body ∨ Config.ed448Verify i.key (i.header.take 142) (i.header.drop 142) = false ∨
    i.header.length ≠ 256 ∨ i.header.take 4 ≠ [0x47, 0x57, 0x46, 0x57] ∨ leNat ((i.header.drop 12).take 4) ≠ i.body.length ∨
    Config.keyRevoked (leNat ((i.header.drop 7).take 1)) = true ∨ Config.shake256 i.key ≠ Config.keyDigest (leNat ((i.header.drop 7).take 1)) → m.accepts i = false) ∧
  (∀ (m : Manager) k, m.slotValid k ((m.slotFor k).getD 0) = (m.slotFor k).isSome) ∧
  (∀ (s : State) p temps, ∃ t, exec (.throttleTick p temps) s = .next t ∧ t.mgr.temps = temps ∧ t.mgr.level ≤ 7 ∧ t.mgr.power = average t.mgr.powers ∧ t.mgr.powers.length ≤ 10 ∧
      (∀ k, k < t.mgr.level → powerAt t.mgr.power s.mgr.level k ≤ s.mgr.plimit * 1000 → temps.any (fun x => 420 < x) = true ∧ k ≤ s.mgr.level) ∧ t.mem = s.mem ∧ t.threads = s.threads) ∧
  (∀ (s : State) h, s.mgr.statusPa ≠ 0 → homeOf s s.mgr.statusPa = some h →
    (s.setMgr { s.mgr with statusSeq := s.mgr.statusSeq + 1 }).engineGate none true .cached [s.mgr.statusPa] = none →
    s.underCeiling (s.storeTime h (lineOf s.mgr.statusPa) none (some s.longAgo)) = true →
    ∃ t, exec .statusBlockWrite s = .next t ∧ t.mgr = { s.mgr with statusSeq := s.mgr.statusSeq + 1 } ∧
      s.mem.writes t.mem (cellsOf s.mgr.statusPa ({ s with mgr := { s.mgr with statusSeq := s.mgr.statusSeq + 1 } } : State).statusBytes) ∧ t.threads = s.threads) ∧
  (∀ (s : State), s.mgr.statusPa = 0 → exec .statusBlockWrite s = .next s) ∧
  (∀ (s : State), s.statusBytes.length = 128) ∧
  (∀ (s : State) n, s.doomed .device = [] → (∀ c, c < 8 → ∀ o ∈ (s.cluster c).ops, o.state = .done) →
    ∃ t, exec (.thermalTrip n) s = .next t ∧ t.mgr = { s.mgr with trip := true } ∧ t.mem = s.mem ∧ t.threads = s.threads) ∧
  (∀ (s : State) temps, s.mgr.trip = true → (∀ x ∈ temps, x < 380) → s.mgr.pending = none →
    exec (.thermalRecovery temps) s = .next { s with mgr := { s.mgr with trip := false, temps := temps, ready := false, restarting := true, pending := some (.warm false) } }) ∧
  (∀ (s : State) temps, s.mgr.trip = true → (∃ x ∈ temps, 380 ≤ x) → exec (.thermalRecovery temps) s = .next s)

/-- R77 to R86, R91: words against the tables. -/
def Obligations.WordsOfTheEncodingTables : Prop :=
  (decodeInstr [0x08044004] = some (.rds ⟨.always, 4, some ⟨.a, 1⟩⟩, 1)) ∧
  (decodeInstr [0xE1A0581C] = some (.mov ⟨.onTrue, some ⟨.a, 5⟩, some ⟨.p, 6⟩⟩, 1)) ∧
  (decodeInstr [0x00289026, 0x89ABCDEF, 0x01234567] = some (.lit ⟨.always, some ⟨.b, 9⟩, none⟩ (.lit 0x0123456789ABCDEF), 3)) ∧
  (decodeInstr [0xFFFFD034] = some (.call ⟨.always, 0xFFFFD⟩, 1)) ∧
  (decodeInstr [0x00283081, 0, 100] = some (.addImm ⟨.always, some ⟨.b, 3⟩, none⟩ (.word ⟨none, none⟩ 100), 3)) ∧
  (decodeInstr [0x00207D41, 0x0A000000, 0] = some (.vaddExt ⟨.onFalse, some ⟨.a, 7⟩, none⟩ ⟨none, none, 0, .rtz, true, false⟩, 3)) ∧
  (decodeInstr [0x002021C1, 0, 0xFE8] = some (.vid ⟨.always, some ⟨.a, 2⟩, none⟩ ⟨none, none, 0, .dyn, false, false⟩ 0xFE8, 3)) ∧
  (decodeInstr [0x00304241, 0x01458E08, 0xFFFFFFF8] = some (.ld ⟨.always, some ⟨.c, 4⟩, none⟩ ⟨some ⟨.a, 8⟩, 3, 3, .global, false, true, false, true, false, false, 0xFFFFFFF8⟩, 3)) ∧
  (decodeInstr [0x000002C9, 0x1400, 0x1207] = some (.mmul ⟨.always, 5⟩ 7 .accumulate 2 false, 3)) ∧
  (decodeInstr [0x000002ED, 0x400, 1] = some (.wload ⟨.always, 1⟩ true, 3)) ∧
  (decodeInstr [0x0020C308] = some (.plaunch ⟨.always, some ⟨.a, 12⟩, none⟩, 1)) ∧
  (decodeFurrow 0x0081AA00 = some (.qcopy 0x2A0 0x206)) ∧
  (decodeFurrow 0x01004209 = some (.qskip 0 true true 1 0)) ∧
  (decodeFurrow 0x05000007 = some (.qloop 5)) ∧
  (decodeFurrow 0x01000002 = some (.qmaj 1)) ∧
  (decodeFurrow 0x0000000C = none) ∧
  (decodeInstr [0] = none) ∧
  (decodeInstr [0x08044404] = none) ∧
  (decodeInstr [0x00000068] = none) ∧
  (decodeInstr [0x00283081, 0] = none) ∧
  (decodeInstr [0x00283081, 0x20000000, 100] = none)

/-- R77 to R91: decode of encode, for every encoded row of the table. -/
def Obligations.DecodingInvertsEncoding : Prop :=
  (∀ i, wellFormed i = true → (rawOf i).isSome = true → decodeInstr (encode i) = some (i, (encode i).length)) ∧
  (∀ i w, wellFormed i = true → rawOf i = none → encode i = [w] → decodeFurrow w = some i) ∧
  (∀ i ws, wellFormed i = true → (rawOf i).isSome = true → decodeInstr (encode i ++ ws) = some (i, (encode i).length))

/-- R20, R77, R90, R255: a step. The agenda, the focus and the order are the model's (log entries 1 and 2). -/
def Obligations.StepRunsTheDecodedInstruction : Prop :=
  (∀ (s : State) tid serial slot i n, s.agenda = [] → s.focus = .slot tid serial slot → decodeInstr (s.slotWords tid serial slot) = some (i, n) →
    step s = afterRow (exec i (s.prepare s.focus []))) ∧
  (∀ (s : State) c seq w i, s.agenda = [] → s.focus = .op c seq → s.opWord c seq = some w → decodeFurrow w = some i → step s = afterRow (exec i (s.prepare s.focus []))) ∧
  (∀ (s : State) tid serial slot, s.agenda = [] → s.focus = .slot tid serial slot → decodeInstr (s.slotWords tid serial slot) = none → step s = .fault .undecodable) ∧
  (∀ (s : State) i r, s.agenda = i :: r → step s = afterRow (exec i (s.prepare .none r))) ∧
  (∀ (s : State) c, s.agenda = [] → s.focus = .none → s.candidates.find? s.moves = some c → step s = passTurn c (s.runCand c)) ∧
  (∀ (s : State), s.agenda = [] → s.focus = .none → s.candidates.find? s.moves = none → step s = .next (s.prepare .none [])) ∧
  (∀ (s : State) f l, s.prepare f l = { s with focus := f, cycle := s.cycle + 1, agenda := l ++ s.dueRows (s.cycle + 1), mgr := s.mgr.contextsTurn s.cycle }) ∧
  (∀ (s : State), afterRow (.next s) = .next { s with focus := .none }) ∧
  (∀ (s : State) i r, s.runCand (.rows i r) = afterRow (exec i (s.prepare .none (r ++ s.agenda)))) ∧
  (∀ (s : State) tid serial slot, s.runCand (.at (.slot tid serial slot)) = s.stepAt (.slot tid serial slot))

/-- The model's form of memory (log entry 5), for the bytes of R273. -/
def Obligations.MemoryStaysCanonical : Prop :=
  (∀ (s t : State), s.memOk → step s = .next t → t.memOk) ∧
  (∀ (i : Instr) (s t : State), s.memOk → exec i s = .next t → t.memOk)

/-- R60, R374, R376, R384, R434, R448, R449, R455: reset. Memory, clocks and HORIZONs at 0 are the model's (log entry 5). -/
def Obligations.ResetState : Prop :=
  (State.reset.memOk) ∧
  (∀ k, readByte State.reset.mem k = 0) ∧
  (State.reset.mgr.ready = false ∧ State.reset.mgr.restarting = false ∧ State.reset.mgr.pending = some .cold ∧ State.reset.mgr.plimit = 1600 ∧ State.reset.mgr.level = 0) ∧
  (∀ n, (State.reset.thread n).status = .absent ∧ (State.reset.thread n).frm = 1 ∧ (State.reset.thread n).lease = 64 ∧ (State.reset.thread n).supervisor = true ∧ ∀ r, mget 0 (State.reset.thread n).sregs r = 0) ∧
  (∀ c, (State.reset.cluster c).mth = 1024 ∧ (State.reset.cluster c).patrol = 12 ∧ (State.reset.cluster c).poff = false ∧ (State.reset.cluster c).logged = 0) ∧
  (∀ c, (State.reset.core c).fwshare = 2) ∧
  (∀ a, mget none State.reset.asidTab a = none) ∧
  (∀ n, (State.reset.tile n).free = 0xFFFF ∧ (State.reset.tile n).claimant = none ∧ (State.reset.tile n).horizon = 0) ∧
  (∀ h, State.reset.clock h = 0)

/-- R15, R20, R22, R32: nothing takes effect before the commit. The first clause is a frame of `exec` at every firing that goes through (its slot
resolved after the step: it neither waited nor faulted) of every block instruction but those that ask the memory or the engines as they fire; the second of
a slot that P declines, the third of one whose P is still to come. -/
def Obligations.FiringChangesOnlyItsBlock : Prop :=
  (∀ (i : Instr) (r : Raw) (s t : State) (x : Firing), rawOf i = some r → s.firing r = some x → x.keepsToBlock = true → exec i s = .next t →
    ((t.thread x.tid).block x.serial).any (fun b => b.resolved x.slot) = true → s.onlyBlock t x.tid x.serial) ∧
  (∀ (i : Instr) (r : Raw) (s : State) (x : Firing), rawOf i = some r → s.site r = some x → decisionOf r (x.block.tok x.slot .p) = .declines →
    ∃ t, exec i s = .next t ∧ s.onlyBlock t x.tid x.serial) ∧
  (∀ (i : Instr) (r : Raw) (s : State) (x : Firing), rawOf i = some r → s.site r = some x →
    decisionOf r (x.block.tok x.slot .p) = .waits → exec i s = .next s) ∧
  (∀ (s : State) (x : Firing) o, x.done s o = { s with threads := (x.done s o).threads }) ∧
  (∀ (s : State) (x : Firing) o n, n ≠ x.tid → (x.done s o).thread n = s.thread n) ∧
  (∀ (s : State) (x : Firing) o, (x.done s o).thread x.tid = { s.thread x.tid with flight := ((x.done s o).thread x.tid).flight }) ∧
  (∀ (s : State) (x : Firing) o k, k ≠ x.serial → ((x.done s o).thread x.tid).block k = (s.thread x.tid).block k) ∧
  (∀ (s : State) (x : Firing) o, ((x.done s o).thread x.tid).block x.serial = ((s.thread x.tid).block x.serial).map (x.after o)) ∧
  (∀ (s : State) (x : Firing) o, (x.done s o).mem = s.mem ∧ (x.done s o).lines = s.lines ∧ (x.done s o).clusters = s.clusters ∧ (x.done s o).tiles = s.tiles) ∧
  (∀ (s : State) (x : Firing), x.waits s = { s with threads := (x.waits s).threads } ∧ (x.waits s).thread x.tid = { s.thread x.tid with flight := ((x.waits s).thread x.tid).flight } ∧ ∀ n, n ≠ x.tid → (x.waits s).thread n = s.thread n) ∧
  (∀ (s : State) (x : Firing), s.decline x = { s with threads := (s.decline x).threads } ∧ (s.decline x).thread x.tid = { s.thread x.tid with flight := ((s.decline x).thread x.tid).flight } ∧ ∀ n, n ≠ x.tid → (s.decline x).thread n = s.thread n) ∧
  (∀ (x : Firing) o (b : BlockExec), (x.after o b).serial = b.serial ∧ (x.after o b).addr = b.addr ∧ (x.after o b).words = b.words ∧ (x.after o b).held = b.held ∧ (x.after o b).declined = b.declined ∧ (o.exit = none → (x.after o b).exit = b.exit))

/-- R20, R21, R22: when an instruction fires. -/
def Obligations.PredicatesAndOperandsDecideFiring : Prop :=
  (∀ (i : Instr) (r : Raw) (s : State) (x : Firing), rawOf i = some r → s.site r = some x → decisionOf r (x.block.tok x.slot .p) = .declines → exec i s = .next (s.decline x)) ∧
  (∀ (i : Instr) (r : Raw) (s : State) (x : Firing), rawOf i = some r → s.site r = some x → decisionOf r (x.block.tok x.slot .p) = .waits → exec i s = .next s) ∧
  (∀ (i : Instr) (r : Raw) (s : State) (x : Firing), rawOf i = some r → s.site r = some x → decisionOf r (x.block.tok x.slot .p) = .wrong → exec i s = .next (s.raise x.tid x.serial (mkFault cTAGFMT x.slot 1 0 0))) ∧
  (∀ (i : Instr) (r : Raw) (s : State) (x : Firing), rawOf i = some r → s.site r = some x → ∀ p, decisionOf r (x.block.tok x.slot .p) = .fires p → x.ready = false → exec i s = .next s) ∧
  (∀ (i : Instr) (r : Raw) (s : State) (x : Firing), rawOf i = some r → s.site r = some x → ∀ p, decisionOf r (x.block.tok x.slot .p) = .fires p → x.ready = true → x.typed = false → r.op.tagged = false →
    exec i s = .next (s.raise x.tid x.serial (mkFault cTAGFMT x.slot 1 0 0))) ∧
  (∀ (r : Raw) t, (∀ l, t ≠ some (.mask l)) → decisionOf r t = decideP r.pr t) ∧
  (∀ (r : Raw) l, r.pr ≠ .always → r.op.elementwise = false → l[0]?.getD none = some (decide (r.pr ≠ .onTrue)) → decisionOf r (some (.mask l)) = .declines) ∧
  (∀ (r : Raw) l, r.op.elementwise = true ∨ l[0]?.getD none ≠ some (decide (r.pr ≠ .onTrue)) → decisionOf r (some (.mask l)) = decideP r.pr (some (.mask l))) ∧
  (∀ t, decideP .always t = .fires .all) ∧
  (∀ pr, pr ≠ .always → decideP pr none = .waits ∧ decideP pr (some .null) = .fires .null) ∧
  (∀ v : Word, decideP .onTrue (some (.scalar v)) = (if v.getLsbD 0 then .fires .all else .declines) ∧ decideP .onFalse (some (.scalar v)) = (if v.getLsbD 0 then .declines else .fires .all)) ∧
  (∀ l, decideP .onTrue (some (.mask l)) = .fires (.mask l) ∧ decideP .onFalse (some (.mask l)) = .fires (.mask (l.map (fun b => b.map not))))

/-- R256: QMAJ. -/
def Obligations.MajorityOfATriple : Prop :=
  (∀ (s : State) c (o : FieldOp) (tr : BitVec 2) (e : Nat × Nat) (k : Nat), s.focus = .op c o.seq → s.findOp c o.seq = some o → o.state = .running → e ∈ o.passSubs →
    (match tr with | 0 => k = 0 ∨ k = 1 ∨ k = 2 | 1 => k = 3 ∨ k = 4 ∨ k = 5 | 2 => k = 3 ∨ k = 6 ∨ k = 7 | 3 => k = 0 ∨ k = 6 ∨ k = 7) →
    ∃ t, exec (.qmaj tr) s = .next t ∧ ∀ i, i < 8192 →
      let row (j : Nat) : Bool := (mget 0 s.specials (e.1 * 16 + j)).getLsbD i
      let p : Bool × Bool × Bool := match tr with | 0 => (row 0, row 1, row 2) | 1 => (row 3, row 4, row 5) | 2 => (row 3, row 6, row 7) | 3 => (row 0, row 6, row 7)
      (mget 0 t.specials (e.1 * 16 + k)).getLsbD i = decide (2 ≤ p.1.toNat + p.2.1.toNat + p.2.2.toNat))

/-- R60: CSR FRM. -/
def Obligations.FrmHoldsItsRoundingMode : Prop :=
  (∀ (s : State) tid v, s.csrDue tid 0x031 v →
    ∃ t, exec (.frmWrite tid v) s = .next t ∧ (t.thread tid).frm = (match v.setWidth 3 with | (0 : BitVec 3) => (s.thread tid).frm | 6 => (s.thread tid).frm | 7 => (s.thread tid).frm | m => m)) ∧
  (∀ b e, Completes (.csrr b e 0x031) ⟨.csrr, .x b e 0x031⟩ Acts (fun x => scalarOut (x.startValue 0x031 (x.thread.frm.setWidth 64)))) ∧
  (∀ n, (State.reset.thread n).frm = 1) ∧
  (∀ p team tile core tid i asid alloc gen lanes floor now savea, (startThread p team tile core tid i asid alloc gen lanes floor now savea).frm = 1)
end

