-- ==== Sys2Proof/Laws/Maps.lean ====
section
/-! SUPPORT. What the sparse maps do: reading after setting, and the canonical form every operation keeps. -/
set_option Elab.async false
set_option linter.unusedSimpArgs false
set_option linter.unusedVariables false
namespace Sys2Proof.Machine

variable {α : Type}

theorem mget_mdel_same (d : α) (m : NMap α) (k : Nat) : mget d (mdel m k) k = d := by
  induction m with
  | nil => rfl
  | cons e r ih =>
    by_cases h : e.1 = k
    · simpa [mdel, h] using ih
    · have : mdel (e :: r) k = e :: mdel r k := by simp [mdel, h]
      rw [this]; simpa [mget, h] using ih

theorem mget_mdel_other (d : α) (m : NMap α) {k j : Nat} (hj : j ≠ k) : mget d (mdel m k) j = mget d m j := by
  induction m with
  | nil => rfl
  | cons e r ih =>
    by_cases h : e.1 = k
    · have hk : e.1 ≠ j := by omega
      have : mdel (e :: r) k = mdel r k := by simp [mdel, h]
      rw [this, ih]; simp [mget, hk]
    · have : mdel (e :: r) k = e :: mdel r k := by simp [mdel, h]
      rw [this]; by_cases he : e.1 = j <;> simp [mget, he, ih]

theorem mget_mins_same (d : α) (m : NMap α) (k : Nat) (v : α) (h : ∀ e ∈ m, e.1 ≠ k) : mget d (mins k v m) k = v := by
  induction m with
  | nil => simp [mins, mget]
  | cons e r ih =>
    have he : e.1 ≠ k := h e (by simp)
    by_cases hk : k < e.1
    · simp [mins, hk, mget]
    · simp only [mins, hk, if_false, mget, he]
      exact ih (fun x hx => h x (by simp [hx]))

theorem mget_mins_other (d : α) (m : NMap α) {k j : Nat} (v : α) (hj : j ≠ k) : mget d (mins k v m) j = mget d m j := by
  induction m with
  | nil => simp [mins, mget, Ne.symm hj]
  | cons e r ih =>
    by_cases hk : k < e.1
    · simp [mins, hk, mget, Ne.symm hj]
    · simp only [mins, hk, if_false, mget, ih]

theorem mem_mdel {m : NMap α} {k : Nat} {e : Nat × α} (h : e ∈ mdel m k) : e ∈ m ∧ e.1 ≠ k := by
  simpa [mdel] using h

/-- Reading a key after it is set gives the value set. -/
theorem mget_mset_same [DecidableEq α] (d : α) (m : NMap α) (k : Nat) (v : α) : mget d (mset d m k v) k = v := by
  unfold mset
  split
  · next h => rw [h]; exact mget_mdel_same d m k
  · exact mget_mins_same d _ k v (fun e he => (mem_mdel he).2)

/-- Setting a key leaves every other alone. -/
theorem mget_mset_other [DecidableEq α] (d : α) (m : NMap α) {k j : Nat} (v : α) (hj : j ≠ k) :
    mget d (mset d m k v) j = mget d m j := by
  unfold mset
  split
  · exact mget_mdel_other d m hj
  · rw [mput, mget_mins_other d _ v hj, mget_mdel_other d m hj]

theorem mdel_mins (m : NMap α) (k : Nat) (v : α) : mdel (mins k v m) k = mdel m k := by
  induction m with
  | nil => simp [mins, mdel]
  | cons e r ih =>
    by_cases hk : k < e.1
    · simp [mins, hk, mdel]
    · by_cases he : e.1 = k <;> simpa [mins, hk, mdel, he] using ih

theorem mdel_mdel (m : NMap α) (k : Nat) : mdel (mdel m k) k = mdel m k := by
  simp [mdel]

theorem mdel_mset [DecidableEq α] (d : α) (m : NMap α) (k : Nat) (v : α) : mdel (mset d m k v) k = mdel m k := by
  unfold mset
  split
  · exact mdel_mdel m k
  · rw [mput, mdel_mins, mdel_mdel]

/-- Setting a key twice leaves the last value. -/
theorem mset_mset [DecidableEq α] (d : α) (m : NMap α) (k : Nat) (v w : α) : mset d (mset d m k v) k w = mset d m k w := by
  by_cases h : w = d <;> simp [mset, h, mput] <;> (split <;> simp [mdel_mdel, mdel_mins])

/-! The canonical form. -/
theorem mwf_cons [DecidableEq α] (d : α) (e : Nat × α) (r : NMap α) :
    mwf d (e :: r) = true ↔ e.2 ≠ d ∧ (∀ x ∈ r, e.1 < x.1) ∧ mwf d r = true := by
  obtain ⟨a, v⟩ := e
  simp [mwf, and_assoc]

theorem mwf_filter [DecidableEq α] (d : α) (m : NMap α) (p : Nat × α → Bool) (h : mwf d m = true) : mwf d (m.filter p) = true := by
  induction m with
  | nil => rfl
  | cons e r ih =>
    obtain ⟨h1, h2, h3⟩ := (mwf_cons d e r).1 h
    by_cases hp : p e
    · rw [List.filter_cons_of_pos hp]
      exact (mwf_cons d _ _).2 ⟨h1, fun x hx => h2 x (List.mem_filter.1 hx).1, ih h3⟩
    · rw [List.filter_cons_of_neg hp]; exact ih h3

theorem mem_mins {m : NMap α} {k : Nat} {v : α} {e : Nat × α} (h : e ∈ mins k v m) : e = (k, v) ∨ e ∈ m := by
  induction m with
  | nil => simpa [mins] using h
  | cons a r ih =>
    by_cases hk : k < a.1
    · simpa [mins, hk] using h
    · simp only [mins, hk, if_false, List.mem_cons] at h ⊢
      rcases h with h | h
      · exact .inr (.inl h)
      · rcases ih h with h | h
        · exact .inl h
        · exact .inr (.inr h)

theorem mwf_mins [DecidableEq α] (d : α) (m : NMap α) (k : Nat) (v : α) (hv : v ≠ d) (hk : ∀ e ∈ m, e.1 ≠ k)
    (h : mwf d m = true) : mwf d (mins k v m) = true := by
  induction m with
  | nil => simp [mins, mwf, hv]
  | cons a r ih =>
    obtain ⟨h1, h2, h3⟩ := (mwf_cons d a r).1 h
    have ha := hk a (by simp)
    by_cases hlt : k < a.1
    · simp only [mins, hlt, if_true]
      refine (mwf_cons d _ _).2 ⟨hv, ?_, h⟩
      intro x hx
      rcases List.mem_cons.1 hx with hx | hx
      · simpa [hx] using hlt
      · exact lt_trans hlt (h2 x hx)
    · simp only [mins, hlt, if_false]
      refine (mwf_cons d _ _).2 ⟨h1, ?_, ih (fun e he => hk e (by simp [he])) h3⟩
      intro x hx
      rcases mem_mins hx with hx | hx
      · simp only [hx]; omega
      · exact h2 x hx

/-- Setting a key keeps the canonical form. -/
theorem mwf_mset [DecidableEq α] (d : α) (m : NMap α) (k : Nat) (v : α) (h : mwf d m = true) : mwf d (mset d m k v) = true := by
  have hd : mwf d (mdel m k) = true := mwf_filter d m _ h
  unfold mset
  split
  · exact hd
  · next hv => exact mwf_mins d _ k v hv (fun e he => (mem_mdel he).2) hd

end Sys2Proof.Machine
end

