-- ==== Sys2Proof/Laws/State.lean ====
section
/-! SUPPORT. The small lemmas of State: what each named update leaves alone, field by field, and what reading a part after it gives. -/
set_option Elab.async false
set_option linter.unusedSimpArgs false
set_option linter.unusedVariables false
namespace Sys2Proof.Machine

/-! setThread. -/
@[simp] theorem State.setThread_agenda (s : State) (n : Nat) (t : Thread) : (s.setThread n t).agenda = s.agenda := rfl
@[simp] theorem State.setThread_focus (s : State) (n : Nat) (t : Thread) : (s.setThread n t).focus = s.focus := rfl
@[simp] theorem State.setThread_turn (s : State) (n : Nat) (t : Thread) : (s.setThread n t).turn = s.turn := rfl
@[simp] theorem State.setThread_fresh (s : State) (n : Nat) (t : Thread) : (s.setThread n t).fresh = s.fresh := rfl
@[simp] theorem State.setThread_cycle (s : State) (n : Nat) (t : Thread) : (s.setThread n t).cycle = s.cycle := rfl
@[simp] theorem State.setThread_mem (s : State) (n : Nat) (t : Thread) : (s.setThread n t).mem = s.mem := rfl
@[simp] theorem State.setThread_err (s : State) (n : Nat) (t : Thread) : (s.setThread n t).err = s.err := rfl
@[simp] theorem State.setThread_lines (s : State) (n : Nat) (t : Thread) : (s.setThread n t).lines = s.lines := rfl
@[simp] theorem State.setThread_clocks (s : State) (n : Nat) (t : Thread) : (s.setThread n t).clocks = s.clocks := rfl
@[simp] theorem State.setThread_ceiling (s : State) (n : Nat) (t : Thread) : (s.setThread n t).ceiling = s.ceiling := rfl
@[simp] theorem State.setThread_tiles (s : State) (n : Nat) (t : Thread) : (s.setThread n t).tiles = s.tiles := rfl
@[simp] theorem State.setThread_clusters (s : State) (n : Nat) (t : Thread) : (s.setThread n t).clusters = s.clusters := rfl
@[simp] theorem State.setThread_cores (s : State) (n : Nat) (t : Thread) : (s.setThread n t).cores = s.cores := rfl
@[simp] theorem State.setThread_saved (s : State) (n : Nat) (t : Thread) : (s.setThread n t).saved = s.saved := rfl
@[simp] theorem State.setThread_loads (s : State) (n : Nat) (t : Thread) : (s.setThread n t).loads = s.loads := rfl
@[simp] theorem State.setThread_stores (s : State) (n : Nat) (t : Thread) : (s.setThread n t).stores = s.stores := rfl
@[simp] theorem State.setThread_groups (s : State) (n : Nat) (t : Thread) : (s.setThread n t).groups = s.groups := rfl
@[simp] theorem State.setThread_trains (s : State) (n : Nat) (t : Thread) : (s.setThread n t).trains = s.trains := rfl
@[simp] theorem State.setThread_hostReqs (s : State) (n : Nat) (t : Thread) : (s.setThread n t).hostReqs = s.hostReqs := rfl
@[simp] theorem State.setThread_farLines (s : State) (n : Nat) (t : Thread) : (s.setThread n t).farLines = s.farLines := rfl
@[simp] theorem State.setThread_walks (s : State) (n : Nat) (t : Thread) : (s.setThread n t).walks = s.walks := rfl
@[simp] theorem State.setThread_walkEnds (s : State) (n : Nat) (t : Thread) : (s.setThread n t).walkEnds = s.walkEnds := rfl
@[simp] theorem State.setThread_asidTab (s : State) (n : Nat) (t : Thread) : (s.setThread n t).asidTab = s.asidTab := rfl
@[simp] theorem State.setThread_peers (s : State) (n : Nat) (t : Thread) : (s.setThread n t).peers = s.peers := rfl
@[simp] theorem State.setThread_deviceNo (s : State) (n : Nat) (t : Thread) : (s.setThread n t).deviceNo = s.deviceNo := rfl
@[simp] theorem State.setThread_allocs (s : State) (n : Nat) (t : Thread) : (s.setThread n t).allocs = s.allocs := rfl
@[simp] theorem State.setThread_gens (s : State) (n : Nat) (t : Thread) : (s.setThread n t).gens = s.gens := rfl
@[simp] theorem State.setThread_nextAlloc (s : State) (n : Nat) (t : Thread) : (s.setThread n t).nextAlloc = s.nextAlloc := rfl
@[simp] theorem State.setThread_cisterns (s : State) (n : Nat) (t : Thread) : (s.setThread n t).cisterns = s.cisterns := rfl
@[simp] theorem State.setThread_banks (s : State) (n : Nat) (t : Thread) : (s.setThread n t).banks = s.banks := rfl
@[simp] theorem State.setThread_counters (s : State) (n : Nat) (t : Thread) : (s.setThread n t).counters = s.counters := rfl
@[simp] theorem State.setThread_counterErr (s : State) (n : Nat) (t : Thread) : (s.setThread n t).counterErr = s.counterErr := rfl
@[simp] theorem State.setThread_opened (s : State) (n : Nat) (t : Thread) : (s.setThread n t).opened = s.opened := rfl
@[simp] theorem State.setThread_specials (s : State) (n : Nat) (t : Thread) : (s.setThread n t).specials = s.specials := rfl
@[simp] theorem State.setThread_keepOwner (s : State) (n : Nat) (t : Thread) : (s.setThread n t).keepOwner = s.keepOwner := rfl
@[simp] theorem State.setThread_stale (s : State) (n : Nat) (t : Thread) : (s.setThread n t).stale = s.stale := rfl
@[simp] theorem State.setThread_spared (s : State) (n : Nat) (t : Thread) : (s.setThread n t).spared = s.spared := rfl
@[simp] theorem State.setThread_teams (s : State) (n : Nat) (t : Thread) : (s.setThread n t).teams = s.teams := rfl
@[simp] theorem State.setThread_regions (s : State) (n : Nat) (t : Thread) : (s.setThread n t).regions = s.regions := rfl
@[simp] theorem State.setThread_hostQ (s : State) (n : Nat) (t : Thread) : (s.setThread n t).hostQ = s.hostQ := rfl
@[simp] theorem State.setThread_waiting (s : State) (n : Nat) (t : Thread) : (s.setThread n t).waiting = s.waiting := rfl
@[simp] theorem State.setThread_sent (s : State) (n : Nat) (t : Thread) : (s.setThread n t).sent = s.sent := rfl
@[simp] theorem State.setThread_txSeq (s : State) (n : Nat) (t : Thread) : (s.setThread n t).txSeq = s.txSeq := rfl
@[simp] theorem State.setThread_streams (s : State) (n : Nat) (t : Thread) : (s.setThread n t).streams = s.streams := rfl
@[simp] theorem State.setThread_idleTurn (s : State) (n : Nat) (t : Thread) : (s.setThread n t).idleTurn = s.idleTurn := rfl
@[simp] theorem State.setThread_refused (s : State) (n : Nat) (t : Thread) : (s.setThread n t).refused = s.refused := rfl
@[simp] theorem State.setThread_hostHeld (s : State) (n : Nat) (t : Thread) : (s.setThread n t).hostHeld = s.hostHeld := rfl
@[simp] theorem State.setThread_links (s : State) (n : Nat) (t : Thread) : (s.setThread n t).links = s.links := rfl
@[simp] theorem State.setThread_linkSpares (s : State) (n : Nat) (t : Thread) : (s.setThread n t).linkSpares = s.linkSpares := rfl
@[simp] theorem State.setThread_training (s : State) (n : Nat) (t : Thread) : (s.setThread n t).training = s.training := rfl
@[simp] theorem State.setThread_freeing (s : State) (n : Nat) (t : Thread) : (s.setThread n t).freeing = s.freeing := rfl
@[simp] theorem State.setThread_hostLast (s : State) (n : Nat) (t : Thread) : (s.setThread n t).hostLast = s.hostLast := rfl
@[simp] theorem State.setThread_out (s : State) (n : Nat) (t : Thread) : (s.setThread n t).out = s.out := rfl
@[simp] theorem State.setThread_mgr (s : State) (n : Nat) (t : Thread) : (s.setThread n t).mgr = s.mgr := rfl
@[simp] theorem State.setThread_thread_same (s : State) (n : Nat) (t : Thread) : (s.setThread n t).thread n = t := mget_mset_same _ _ n t
theorem State.setThread_thread_other (s : State) {n k : Nat} (t : Thread) (h : k ≠ n) : (s.setThread n t).thread k = s.thread k := mget_mset_other _ _ t h

/-! setTile. -/
@[simp] theorem State.setTile_agenda (s : State) (n : Nat) (t : Tile) : (s.setTile n t).agenda = s.agenda := rfl
@[simp] theorem State.setTile_focus (s : State) (n : Nat) (t : Tile) : (s.setTile n t).focus = s.focus := rfl
@[simp] theorem State.setTile_turn (s : State) (n : Nat) (t : Tile) : (s.setTile n t).turn = s.turn := rfl
@[simp] theorem State.setTile_fresh (s : State) (n : Nat) (t : Tile) : (s.setTile n t).fresh = s.fresh := rfl
@[simp] theorem State.setTile_cycle (s : State) (n : Nat) (t : Tile) : (s.setTile n t).cycle = s.cycle := rfl
@[simp] theorem State.setTile_mem (s : State) (n : Nat) (t : Tile) : (s.setTile n t).mem = s.mem := rfl
@[simp] theorem State.setTile_err (s : State) (n : Nat) (t : Tile) : (s.setTile n t).err = s.err := rfl
@[simp] theorem State.setTile_lines (s : State) (n : Nat) (t : Tile) : (s.setTile n t).lines = s.lines := rfl
@[simp] theorem State.setTile_clocks (s : State) (n : Nat) (t : Tile) : (s.setTile n t).clocks = s.clocks := rfl
@[simp] theorem State.setTile_ceiling (s : State) (n : Nat) (t : Tile) : (s.setTile n t).ceiling = s.ceiling := rfl
@[simp] theorem State.setTile_clusters (s : State) (n : Nat) (t : Tile) : (s.setTile n t).clusters = s.clusters := rfl
@[simp] theorem State.setTile_cores (s : State) (n : Nat) (t : Tile) : (s.setTile n t).cores = s.cores := rfl
@[simp] theorem State.setTile_threads (s : State) (n : Nat) (t : Tile) : (s.setTile n t).threads = s.threads := rfl
@[simp] theorem State.setTile_saved (s : State) (n : Nat) (t : Tile) : (s.setTile n t).saved = s.saved := rfl
@[simp] theorem State.setTile_loads (s : State) (n : Nat) (t : Tile) : (s.setTile n t).loads = s.loads := rfl
@[simp] theorem State.setTile_stores (s : State) (n : Nat) (t : Tile) : (s.setTile n t).stores = s.stores := rfl
@[simp] theorem State.setTile_groups (s : State) (n : Nat) (t : Tile) : (s.setTile n t).groups = s.groups := rfl
@[simp] theorem State.setTile_trains (s : State) (n : Nat) (t : Tile) : (s.setTile n t).trains = s.trains := rfl
@[simp] theorem State.setTile_hostReqs (s : State) (n : Nat) (t : Tile) : (s.setTile n t).hostReqs = s.hostReqs := rfl
@[simp] theorem State.setTile_farLines (s : State) (n : Nat) (t : Tile) : (s.setTile n t).farLines = s.farLines := rfl
@[simp] theorem State.setTile_walks (s : State) (n : Nat) (t : Tile) : (s.setTile n t).walks = s.walks := rfl
@[simp] theorem State.setTile_walkEnds (s : State) (n : Nat) (t : Tile) : (s.setTile n t).walkEnds = s.walkEnds := rfl
@[simp] theorem State.setTile_asidTab (s : State) (n : Nat) (t : Tile) : (s.setTile n t).asidTab = s.asidTab := rfl
@[simp] theorem State.setTile_peers (s : State) (n : Nat) (t : Tile) : (s.setTile n t).peers = s.peers := rfl
@[simp] theorem State.setTile_deviceNo (s : State) (n : Nat) (t : Tile) : (s.setTile n t).deviceNo = s.deviceNo := rfl
@[simp] theorem State.setTile_allocs (s : State) (n : Nat) (t : Tile) : (s.setTile n t).allocs = s.allocs := rfl
@[simp] theorem State.setTile_gens (s : State) (n : Nat) (t : Tile) : (s.setTile n t).gens = s.gens := rfl
@[simp] theorem State.setTile_nextAlloc (s : State) (n : Nat) (t : Tile) : (s.setTile n t).nextAlloc = s.nextAlloc := rfl
@[simp] theorem State.setTile_cisterns (s : State) (n : Nat) (t : Tile) : (s.setTile n t).cisterns = s.cisterns := rfl
@[simp] theorem State.setTile_banks (s : State) (n : Nat) (t : Tile) : (s.setTile n t).banks = s.banks := rfl
@[simp] theorem State.setTile_counters (s : State) (n : Nat) (t : Tile) : (s.setTile n t).counters = s.counters := rfl
@[simp] theorem State.setTile_counterErr (s : State) (n : Nat) (t : Tile) : (s.setTile n t).counterErr = s.counterErr := rfl
@[simp] theorem State.setTile_opened (s : State) (n : Nat) (t : Tile) : (s.setTile n t).opened = s.opened := rfl
@[simp] theorem State.setTile_specials (s : State) (n : Nat) (t : Tile) : (s.setTile n t).specials = s.specials := rfl
@[simp] theorem State.setTile_keepOwner (s : State) (n : Nat) (t : Tile) : (s.setTile n t).keepOwner = s.keepOwner := rfl
@[simp] theorem State.setTile_stale (s : State) (n : Nat) (t : Tile) : (s.setTile n t).stale = s.stale := rfl
@[simp] theorem State.setTile_spared (s : State) (n : Nat) (t : Tile) : (s.setTile n t).spared = s.spared := rfl
@[simp] theorem State.setTile_teams (s : State) (n : Nat) (t : Tile) : (s.setTile n t).teams = s.teams := rfl
@[simp] theorem State.setTile_regions (s : State) (n : Nat) (t : Tile) : (s.setTile n t).regions = s.regions := rfl
@[simp] theorem State.setTile_hostQ (s : State) (n : Nat) (t : Tile) : (s.setTile n t).hostQ = s.hostQ := rfl
@[simp] theorem State.setTile_waiting (s : State) (n : Nat) (t : Tile) : (s.setTile n t).waiting = s.waiting := rfl
@[simp] theorem State.setTile_sent (s : State) (n : Nat) (t : Tile) : (s.setTile n t).sent = s.sent := rfl
@[simp] theorem State.setTile_txSeq (s : State) (n : Nat) (t : Tile) : (s.setTile n t).txSeq = s.txSeq := rfl
@[simp] theorem State.setTile_streams (s : State) (n : Nat) (t : Tile) : (s.setTile n t).streams = s.streams := rfl
@[simp] theorem State.setTile_idleTurn (s : State) (n : Nat) (t : Tile) : (s.setTile n t).idleTurn = s.idleTurn := rfl
@[simp] theorem State.setTile_refused (s : State) (n : Nat) (t : Tile) : (s.setTile n t).refused = s.refused := rfl
@[simp] theorem State.setTile_hostHeld (s : State) (n : Nat) (t : Tile) : (s.setTile n t).hostHeld = s.hostHeld := rfl
@[simp] theorem State.setTile_links (s : State) (n : Nat) (t : Tile) : (s.setTile n t).links = s.links := rfl
@[simp] theorem State.setTile_linkSpares (s : State) (n : Nat) (t : Tile) : (s.setTile n t).linkSpares = s.linkSpares := rfl
@[simp] theorem State.setTile_training (s : State) (n : Nat) (t : Tile) : (s.setTile n t).training = s.training := rfl
@[simp] theorem State.setTile_freeing (s : State) (n : Nat) (t : Tile) : (s.setTile n t).freeing = s.freeing := rfl
@[simp] theorem State.setTile_hostLast (s : State) (n : Nat) (t : Tile) : (s.setTile n t).hostLast = s.hostLast := rfl
@[simp] theorem State.setTile_out (s : State) (n : Nat) (t : Tile) : (s.setTile n t).out = s.out := rfl
@[simp] theorem State.setTile_mgr (s : State) (n : Nat) (t : Tile) : (s.setTile n t).mgr = s.mgr := rfl
@[simp] theorem State.setTile_tile_same (s : State) (n : Nat) (t : Tile) : (s.setTile n t).tile n = t := mget_mset_same _ _ n t
theorem State.setTile_tile_other (s : State) {n k : Nat} (t : Tile) (h : k ≠ n) : (s.setTile n t).tile k = s.tile k := mget_mset_other _ _ t h

/-! setCluster. -/
@[simp] theorem State.setCluster_agenda (s : State) (n : Nat) (c : Cluster) : (s.setCluster n c).agenda = s.agenda := rfl
@[simp] theorem State.setCluster_focus (s : State) (n : Nat) (c : Cluster) : (s.setCluster n c).focus = s.focus := rfl
@[simp] theorem State.setCluster_turn (s : State) (n : Nat) (c : Cluster) : (s.setCluster n c).turn = s.turn := rfl
@[simp] theorem State.setCluster_fresh (s : State) (n : Nat) (c : Cluster) : (s.setCluster n c).fresh = s.fresh := rfl
@[simp] theorem State.setCluster_cycle (s : State) (n : Nat) (c : Cluster) : (s.setCluster n c).cycle = s.cycle := rfl
@[simp] theorem State.setCluster_mem (s : State) (n : Nat) (c : Cluster) : (s.setCluster n c).mem = s.mem := rfl
@[simp] theorem State.setCluster_err (s : State) (n : Nat) (c : Cluster) : (s.setCluster n c).err = s.err := rfl
@[simp] theorem State.setCluster_lines (s : State) (n : Nat) (c : Cluster) : (s.setCluster n c).lines = s.lines := rfl
@[simp] theorem State.setCluster_clocks (s : State) (n : Nat) (c : Cluster) : (s.setCluster n c).clocks = s.clocks := rfl
@[simp] theorem State.setCluster_ceiling (s : State) (n : Nat) (c : Cluster) : (s.setCluster n c).ceiling = s.ceiling := rfl
@[simp] theorem State.setCluster_tiles (s : State) (n : Nat) (c : Cluster) : (s.setCluster n c).tiles = s.tiles := rfl
@[simp] theorem State.setCluster_cores (s : State) (n : Nat) (c : Cluster) : (s.setCluster n c).cores = s.cores := rfl
@[simp] theorem State.setCluster_threads (s : State) (n : Nat) (c : Cluster) : (s.setCluster n c).threads = s.threads := rfl
@[simp] theorem State.setCluster_saved (s : State) (n : Nat) (c : Cluster) : (s.setCluster n c).saved = s.saved := rfl
@[simp] theorem State.setCluster_loads (s : State) (n : Nat) (c : Cluster) : (s.setCluster n c).loads = s.loads := rfl
@[simp] theorem State.setCluster_stores (s : State) (n : Nat) (c : Cluster) : (s.setCluster n c).stores = s.stores := rfl
@[simp] theorem State.setCluster_groups (s : State) (n : Nat) (c : Cluster) : (s.setCluster n c).groups = s.groups := rfl
@[simp] theorem State.setCluster_trains (s : State) (n : Nat) (c : Cluster) : (s.setCluster n c).trains = s.trains := rfl
@[simp] theorem State.setCluster_hostReqs (s : State) (n : Nat) (c : Cluster) : (s.setCluster n c).hostReqs = s.hostReqs := rfl
@[simp] theorem State.setCluster_farLines (s : State) (n : Nat) (c : Cluster) : (s.setCluster n c).farLines = s.farLines := rfl
@[simp] theorem State.setCluster_walks (s : State) (n : Nat) (c : Cluster) : (s.setCluster n c).walks = s.walks := rfl
@[simp] theorem State.setCluster_walkEnds (s : State) (n : Nat) (c : Cluster) : (s.setCluster n c).walkEnds = s.walkEnds := rfl
@[simp] theorem State.setCluster_asidTab (s : State) (n : Nat) (c : Cluster) : (s.setCluster n c).asidTab = s.asidTab := rfl
@[simp] theorem State.setCluster_peers (s : State) (n : Nat) (c : Cluster) : (s.setCluster n c).peers = s.peers := rfl
@[simp] theorem State.setCluster_deviceNo (s : State) (n : Nat) (c : Cluster) : (s.setCluster n c).deviceNo = s.deviceNo := rfl
@[simp] theorem State.setCluster_allocs (s : State) (n : Nat) (c : Cluster) : (s.setCluster n c).allocs = s.allocs := rfl
@[simp] theorem State.setCluster_gens (s : State) (n : Nat) (c : Cluster) : (s.setCluster n c).gens = s.gens := rfl
@[simp] theorem State.setCluster_nextAlloc (s : State) (n : Nat) (c : Cluster) : (s.setCluster n c).nextAlloc = s.nextAlloc := rfl
@[simp] theorem State.setCluster_cisterns (s : State) (n : Nat) (c : Cluster) : (s.setCluster n c).cisterns = s.cisterns := rfl
@[simp] theorem State.setCluster_banks (s : State) (n : Nat) (c : Cluster) : (s.setCluster n c).banks = s.banks := rfl
@[simp] theorem State.setCluster_counters (s : State) (n : Nat) (c : Cluster) : (s.setCluster n c).counters = s.counters := rfl
@[simp] theorem State.setCluster_counterErr (s : State) (n : Nat) (c : Cluster) : (s.setCluster n c).counterErr = s.counterErr := rfl
@[simp] theorem State.setCluster_opened (s : State) (n : Nat) (c : Cluster) : (s.setCluster n c).opened = s.opened := rfl
@[simp] theorem State.setCluster_specials (s : State) (n : Nat) (c : Cluster) : (s.setCluster n c).specials = s.specials := rfl
@[simp] theorem State.setCluster_keepOwner (s : State) (n : Nat) (c : Cluster) : (s.setCluster n c).keepOwner = s.keepOwner := rfl
@[simp] theorem State.setCluster_stale (s : State) (n : Nat) (c : Cluster) : (s.setCluster n c).stale = s.stale := rfl
@[simp] theorem State.setCluster_spared (s : State) (n : Nat) (c : Cluster) : (s.setCluster n c).spared = s.spared := rfl
@[simp] theorem State.setCluster_teams (s : State) (n : Nat) (c : Cluster) : (s.setCluster n c).teams = s.teams := rfl
@[simp] theorem State.setCluster_regions (s : State) (n : Nat) (c : Cluster) : (s.setCluster n c).regions = s.regions := rfl
@[simp] theorem State.setCluster_hostQ (s : State) (n : Nat) (c : Cluster) : (s.setCluster n c).hostQ = s.hostQ := rfl
@[simp] theorem State.setCluster_waiting (s : State) (n : Nat) (c : Cluster) : (s.setCluster n c).waiting = s.waiting := rfl
@[simp] theorem State.setCluster_sent (s : State) (n : Nat) (c : Cluster) : (s.setCluster n c).sent = s.sent := rfl
@[simp] theorem State.setCluster_txSeq (s : State) (n : Nat) (c : Cluster) : (s.setCluster n c).txSeq = s.txSeq := rfl
@[simp] theorem State.setCluster_streams (s : State) (n : Nat) (c : Cluster) : (s.setCluster n c).streams = s.streams := rfl
@[simp] theorem State.setCluster_idleTurn (s : State) (n : Nat) (c : Cluster) : (s.setCluster n c).idleTurn = s.idleTurn := rfl
@[simp] theorem State.setCluster_refused (s : State) (n : Nat) (c : Cluster) : (s.setCluster n c).refused = s.refused := rfl
@[simp] theorem State.setCluster_hostHeld (s : State) (n : Nat) (c : Cluster) : (s.setCluster n c).hostHeld = s.hostHeld := rfl
@[simp] theorem State.setCluster_links (s : State) (n : Nat) (c : Cluster) : (s.setCluster n c).links = s.links := rfl
@[simp] theorem State.setCluster_linkSpares (s : State) (n : Nat) (c : Cluster) : (s.setCluster n c).linkSpares = s.linkSpares := rfl
@[simp] theorem State.setCluster_training (s : State) (n : Nat) (c : Cluster) : (s.setCluster n c).training = s.training := rfl
@[simp] theorem State.setCluster_freeing (s : State) (n : Nat) (c : Cluster) : (s.setCluster n c).freeing = s.freeing := rfl
@[simp] theorem State.setCluster_hostLast (s : State) (n : Nat) (c : Cluster) : (s.setCluster n c).hostLast = s.hostLast := rfl
@[simp] theorem State.setCluster_out (s : State) (n : Nat) (c : Cluster) : (s.setCluster n c).out = s.out := rfl
@[simp] theorem State.setCluster_mgr (s : State) (n : Nat) (c : Cluster) : (s.setCluster n c).mgr = s.mgr := rfl
@[simp] theorem State.setCluster_cluster_same (s : State) (n : Nat) (c : Cluster) : (s.setCluster n c).cluster n = c := mget_mset_same _ _ n c
theorem State.setCluster_cluster_other (s : State) {n k : Nat} (c : Cluster) (h : k ≠ n) : (s.setCluster n c).cluster k = s.cluster k := mget_mset_other _ _ c h

/-! setCore. -/
@[simp] theorem State.setCore_agenda (s : State) (n : Nat) (c : Core) : (s.setCore n c).agenda = s.agenda := rfl
@[simp] theorem State.setCore_focus (s : State) (n : Nat) (c : Core) : (s.setCore n c).focus = s.focus := rfl
@[simp] theorem State.setCore_turn (s : State) (n : Nat) (c : Core) : (s.setCore n c).turn = s.turn := rfl
@[simp] theorem State.setCore_fresh (s : State) (n : Nat) (c : Core) : (s.setCore n c).fresh = s.fresh := rfl
@[simp] theorem State.setCore_cycle (s : State) (n : Nat) (c : Core) : (s.setCore n c).cycle = s.cycle := rfl
@[simp] theorem State.setCore_mem (s : State) (n : Nat) (c : Core) : (s.setCore n c).mem = s.mem := rfl
@[simp] theorem State.setCore_err (s : State) (n : Nat) (c : Core) : (s.setCore n c).err = s.err := rfl
@[simp] theorem State.setCore_lines (s : State) (n : Nat) (c : Core) : (s.setCore n c).lines = s.lines := rfl
@[simp] theorem State.setCore_clocks (s : State) (n : Nat) (c : Core) : (s.setCore n c).clocks = s.clocks := rfl
@[simp] theorem State.setCore_ceiling (s : State) (n : Nat) (c : Core) : (s.setCore n c).ceiling = s.ceiling := rfl
@[simp] theorem State.setCore_tiles (s : State) (n : Nat) (c : Core) : (s.setCore n c).tiles = s.tiles := rfl
@[simp] theorem State.setCore_clusters (s : State) (n : Nat) (c : Core) : (s.setCore n c).clusters = s.clusters := rfl
@[simp] theorem State.setCore_threads (s : State) (n : Nat) (c : Core) : (s.setCore n c).threads = s.threads := rfl
@[simp] theorem State.setCore_saved (s : State) (n : Nat) (c : Core) : (s.setCore n c).saved = s.saved := rfl
@[simp] theorem State.setCore_loads (s : State) (n : Nat) (c : Core) : (s.setCore n c).loads = s.loads := rfl
@[simp] theorem State.setCore_stores (s : State) (n : Nat) (c : Core) : (s.setCore n c).stores = s.stores := rfl
@[simp] theorem State.setCore_groups (s : State) (n : Nat) (c : Core) : (s.setCore n c).groups = s.groups := rfl
@[simp] theorem State.setCore_trains (s : State) (n : Nat) (c : Core) : (s.setCore n c).trains = s.trains := rfl
@[simp] theorem State.setCore_hostReqs (s : State) (n : Nat) (c : Core) : (s.setCore n c).hostReqs = s.hostReqs := rfl
@[simp] theorem State.setCore_farLines (s : State) (n : Nat) (c : Core) : (s.setCore n c).farLines = s.farLines := rfl
@[simp] theorem State.setCore_walks (s : State) (n : Nat) (c : Core) : (s.setCore n c).walks = s.walks := rfl
@[simp] theorem State.setCore_walkEnds (s : State) (n : Nat) (c : Core) : (s.setCore n c).walkEnds = s.walkEnds := rfl
@[simp] theorem State.setCore_asidTab (s : State) (n : Nat) (c : Core) : (s.setCore n c).asidTab = s.asidTab := rfl
@[simp] theorem State.setCore_peers (s : State) (n : Nat) (c : Core) : (s.setCore n c).peers = s.peers := rfl
@[simp] theorem State.setCore_deviceNo (s : State) (n : Nat) (c : Core) : (s.setCore n c).deviceNo = s.deviceNo := rfl
@[simp] theorem State.setCore_allocs (s : State) (n : Nat) (c : Core) : (s.setCore n c).allocs = s.allocs := rfl
@[simp] theorem State.setCore_gens (s : State) (n : Nat) (c : Core) : (s.setCore n c).gens = s.gens := rfl
@[simp] theorem State.setCore_nextAlloc (s : State) (n : Nat) (c : Core) : (s.setCore n c).nextAlloc = s.nextAlloc := rfl
@[simp] theorem State.setCore_cisterns (s : State) (n : Nat) (c : Core) : (s.setCore n c).cisterns = s.cisterns := rfl
@[simp] theorem State.setCore_banks (s : State) (n : Nat) (c : Core) : (s.setCore n c).banks = s.banks := rfl
@[simp] theorem State.setCore_counters (s : State) (n : Nat) (c : Core) : (s.setCore n c).counters = s.counters := rfl
@[simp] theorem State.setCore_counterErr (s : State) (n : Nat) (c : Core) : (s.setCore n c).counterErr = s.counterErr := rfl
@[simp] theorem State.setCore_opened (s : State) (n : Nat) (c : Core) : (s.setCore n c).opened = s.opened := rfl
@[simp] theorem State.setCore_specials (s : State) (n : Nat) (c : Core) : (s.setCore n c).specials = s.specials := rfl
@[simp] theorem State.setCore_keepOwner (s : State) (n : Nat) (c : Core) : (s.setCore n c).keepOwner = s.keepOwner := rfl
@[simp] theorem State.setCore_stale (s : State) (n : Nat) (c : Core) : (s.setCore n c).stale = s.stale := rfl
@[simp] theorem State.setCore_spared (s : State) (n : Nat) (c : Core) : (s.setCore n c).spared = s.spared := rfl
@[simp] theorem State.setCore_teams (s : State) (n : Nat) (c : Core) : (s.setCore n c).teams = s.teams := rfl
@[simp] theorem State.setCore_regions (s : State) (n : Nat) (c : Core) : (s.setCore n c).regions = s.regions := rfl
@[simp] theorem State.setCore_hostQ (s : State) (n : Nat) (c : Core) : (s.setCore n c).hostQ = s.hostQ := rfl
@[simp] theorem State.setCore_waiting (s : State) (n : Nat) (c : Core) : (s.setCore n c).waiting = s.waiting := rfl
@[simp] theorem State.setCore_sent (s : State) (n : Nat) (c : Core) : (s.setCore n c).sent = s.sent := rfl
@[simp] theorem State.setCore_txSeq (s : State) (n : Nat) (c : Core) : (s.setCore n c).txSeq = s.txSeq := rfl
@[simp] theorem State.setCore_streams (s : State) (n : Nat) (c : Core) : (s.setCore n c).streams = s.streams := rfl
@[simp] theorem State.setCore_idleTurn (s : State) (n : Nat) (c : Core) : (s.setCore n c).idleTurn = s.idleTurn := rfl
@[simp] theorem State.setCore_refused (s : State) (n : Nat) (c : Core) : (s.setCore n c).refused = s.refused := rfl
@[simp] theorem State.setCore_hostHeld (s : State) (n : Nat) (c : Core) : (s.setCore n c).hostHeld = s.hostHeld := rfl
@[simp] theorem State.setCore_links (s : State) (n : Nat) (c : Core) : (s.setCore n c).links = s.links := rfl
@[simp] theorem State.setCore_linkSpares (s : State) (n : Nat) (c : Core) : (s.setCore n c).linkSpares = s.linkSpares := rfl
@[simp] theorem State.setCore_training (s : State) (n : Nat) (c : Core) : (s.setCore n c).training = s.training := rfl
@[simp] theorem State.setCore_freeing (s : State) (n : Nat) (c : Core) : (s.setCore n c).freeing = s.freeing := rfl
@[simp] theorem State.setCore_hostLast (s : State) (n : Nat) (c : Core) : (s.setCore n c).hostLast = s.hostLast := rfl
@[simp] theorem State.setCore_out (s : State) (n : Nat) (c : Core) : (s.setCore n c).out = s.out := rfl
@[simp] theorem State.setCore_mgr (s : State) (n : Nat) (c : Core) : (s.setCore n c).mgr = s.mgr := rfl
@[simp] theorem State.setCore_core_same (s : State) (n : Nat) (c : Core) : (s.setCore n c).core n = c := mget_mset_same _ _ n c
theorem State.setCore_core_other (s : State) {n k : Nat} (c : Core) (h : k ≠ n) : (s.setCore n c).core k = s.core k := mget_mset_other _ _ c h

/-! setBank. -/
@[simp] theorem State.setBank_agenda (s : State) (n : Nat) (b : Bank) : (s.setBank n b).agenda = s.agenda := rfl
@[simp] theorem State.setBank_focus (s : State) (n : Nat) (b : Bank) : (s.setBank n b).focus = s.focus := rfl
@[simp] theorem State.setBank_turn (s : State) (n : Nat) (b : Bank) : (s.setBank n b).turn = s.turn := rfl
@[simp] theorem State.setBank_fresh (s : State) (n : Nat) (b : Bank) : (s.setBank n b).fresh = s.fresh := rfl
@[simp] theorem State.setBank_cycle (s : State) (n : Nat) (b : Bank) : (s.setBank n b).cycle = s.cycle := rfl
@[simp] theorem State.setBank_mem (s : State) (n : Nat) (b : Bank) : (s.setBank n b).mem = s.mem := rfl
@[simp] theorem State.setBank_err (s : State) (n : Nat) (b : Bank) : (s.setBank n b).err = s.err := rfl
@[simp] theorem State.setBank_lines (s : State) (n : Nat) (b : Bank) : (s.setBank n b).lines = s.lines := rfl
@[simp] theorem State.setBank_clocks (s : State) (n : Nat) (b : Bank) : (s.setBank n b).clocks = s.clocks := rfl
@[simp] theorem State.setBank_ceiling (s : State) (n : Nat) (b : Bank) : (s.setBank n b).ceiling = s.ceiling := rfl
@[simp] theorem State.setBank_tiles (s : State) (n : Nat) (b : Bank) : (s.setBank n b).tiles = s.tiles := rfl
@[simp] theorem State.setBank_clusters (s : State) (n : Nat) (b : Bank) : (s.setBank n b).clusters = s.clusters := rfl
@[simp] theorem State.setBank_cores (s : State) (n : Nat) (b : Bank) : (s.setBank n b).cores = s.cores := rfl
@[simp] theorem State.setBank_threads (s : State) (n : Nat) (b : Bank) : (s.setBank n b).threads = s.threads := rfl
@[simp] theorem State.setBank_saved (s : State) (n : Nat) (b : Bank) : (s.setBank n b).saved = s.saved := rfl
@[simp] theorem State.setBank_loads (s : State) (n : Nat) (b : Bank) : (s.setBank n b).loads = s.loads := rfl
@[simp] theorem State.setBank_stores (s : State) (n : Nat) (b : Bank) : (s.setBank n b).stores = s.stores := rfl
@[simp] theorem State.setBank_groups (s : State) (n : Nat) (b : Bank) : (s.setBank n b).groups = s.groups := rfl
@[simp] theorem State.setBank_trains (s : State) (n : Nat) (b : Bank) : (s.setBank n b).trains = s.trains := rfl
@[simp] theorem State.setBank_hostReqs (s : State) (n : Nat) (b : Bank) : (s.setBank n b).hostReqs = s.hostReqs := rfl
@[simp] theorem State.setBank_farLines (s : State) (n : Nat) (b : Bank) : (s.setBank n b).farLines = s.farLines := rfl
@[simp] theorem State.setBank_walks (s : State) (n : Nat) (b : Bank) : (s.setBank n b).walks = s.walks := rfl
@[simp] theorem State.setBank_walkEnds (s : State) (n : Nat) (b : Bank) : (s.setBank n b).walkEnds = s.walkEnds := rfl
@[simp] theorem State.setBank_asidTab (s : State) (n : Nat) (b : Bank) : (s.setBank n b).asidTab = s.asidTab := rfl
@[simp] theorem State.setBank_peers (s : State) (n : Nat) (b : Bank) : (s.setBank n b).peers = s.peers := rfl
@[simp] theorem State.setBank_deviceNo (s : State) (n : Nat) (b : Bank) : (s.setBank n b).deviceNo = s.deviceNo := rfl
@[simp] theorem State.setBank_allocs (s : State) (n : Nat) (b : Bank) : (s.setBank n b).allocs = s.allocs := rfl
@[simp] theorem State.setBank_gens (s : State) (n : Nat) (b : Bank) : (s.setBank n b).gens = s.gens := rfl
@[simp] theorem State.setBank_nextAlloc (s : State) (n : Nat) (b : Bank) : (s.setBank n b).nextAlloc = s.nextAlloc := rfl
@[simp] theorem State.setBank_cisterns (s : State) (n : Nat) (b : Bank) : (s.setBank n b).cisterns = s.cisterns := rfl
@[simp] theorem State.setBank_counters (s : State) (n : Nat) (b : Bank) : (s.setBank n b).counters = s.counters := rfl
@[simp] theorem State.setBank_counterErr (s : State) (n : Nat) (b : Bank) : (s.setBank n b).counterErr = s.counterErr := rfl
@[simp] theorem State.setBank_opened (s : State) (n : Nat) (b : Bank) : (s.setBank n b).opened = s.opened := rfl
@[simp] theorem State.setBank_specials (s : State) (n : Nat) (b : Bank) : (s.setBank n b).specials = s.specials := rfl
@[simp] theorem State.setBank_keepOwner (s : State) (n : Nat) (b : Bank) : (s.setBank n b).keepOwner = s.keepOwner := rfl
@[simp] theorem State.setBank_stale (s : State) (n : Nat) (b : Bank) : (s.setBank n b).stale = s.stale := rfl
@[simp] theorem State.setBank_spared (s : State) (n : Nat) (b : Bank) : (s.setBank n b).spared = s.spared := rfl
@[simp] theorem State.setBank_teams (s : State) (n : Nat) (b : Bank) : (s.setBank n b).teams = s.teams := rfl
@[simp] theorem State.setBank_regions (s : State) (n : Nat) (b : Bank) : (s.setBank n b).regions = s.regions := rfl
@[simp] theorem State.setBank_hostQ (s : State) (n : Nat) (b : Bank) : (s.setBank n b).hostQ = s.hostQ := rfl
@[simp] theorem State.setBank_waiting (s : State) (n : Nat) (b : Bank) : (s.setBank n b).waiting = s.waiting := rfl
@[simp] theorem State.setBank_sent (s : State) (n : Nat) (b : Bank) : (s.setBank n b).sent = s.sent := rfl
@[simp] theorem State.setBank_txSeq (s : State) (n : Nat) (b : Bank) : (s.setBank n b).txSeq = s.txSeq := rfl
@[simp] theorem State.setBank_streams (s : State) (n : Nat) (b : Bank) : (s.setBank n b).streams = s.streams := rfl
@[simp] theorem State.setBank_idleTurn (s : State) (n : Nat) (b : Bank) : (s.setBank n b).idleTurn = s.idleTurn := rfl
@[simp] theorem State.setBank_refused (s : State) (n : Nat) (b : Bank) : (s.setBank n b).refused = s.refused := rfl
@[simp] theorem State.setBank_hostHeld (s : State) (n : Nat) (b : Bank) : (s.setBank n b).hostHeld = s.hostHeld := rfl
@[simp] theorem State.setBank_links (s : State) (n : Nat) (b : Bank) : (s.setBank n b).links = s.links := rfl
@[simp] theorem State.setBank_linkSpares (s : State) (n : Nat) (b : Bank) : (s.setBank n b).linkSpares = s.linkSpares := rfl
@[simp] theorem State.setBank_training (s : State) (n : Nat) (b : Bank) : (s.setBank n b).training = s.training := rfl
@[simp] theorem State.setBank_freeing (s : State) (n : Nat) (b : Bank) : (s.setBank n b).freeing = s.freeing := rfl
@[simp] theorem State.setBank_hostLast (s : State) (n : Nat) (b : Bank) : (s.setBank n b).hostLast = s.hostLast := rfl
@[simp] theorem State.setBank_out (s : State) (n : Nat) (b : Bank) : (s.setBank n b).out = s.out := rfl
@[simp] theorem State.setBank_mgr (s : State) (n : Nat) (b : Bank) : (s.setBank n b).mgr = s.mgr := rfl
@[simp] theorem State.setBank_bank_same (s : State) (n : Nat) (b : Bank) : (s.setBank n b).bank n = b := mget_mset_same _ _ n b
theorem State.setBank_bank_other (s : State) {n k : Nat} (b : Bank) (h : k ≠ n) : (s.setBank n b).bank k = s.bank k := mget_mset_other _ _ b h

/-! setQueue. -/
@[simp] theorem State.setQueue_agenda (s : State) (n : Nat) (q : HostQueue) : (s.setQueue n q).agenda = s.agenda := rfl
@[simp] theorem State.setQueue_focus (s : State) (n : Nat) (q : HostQueue) : (s.setQueue n q).focus = s.focus := rfl
@[simp] theorem State.setQueue_turn (s : State) (n : Nat) (q : HostQueue) : (s.setQueue n q).turn = s.turn := rfl
@[simp] theorem State.setQueue_fresh (s : State) (n : Nat) (q : HostQueue) : (s.setQueue n q).fresh = s.fresh := rfl
@[simp] theorem State.setQueue_cycle (s : State) (n : Nat) (q : HostQueue) : (s.setQueue n q).cycle = s.cycle := rfl
@[simp] theorem State.setQueue_mem (s : State) (n : Nat) (q : HostQueue) : (s.setQueue n q).mem = s.mem := rfl
@[simp] theorem State.setQueue_err (s : State) (n : Nat) (q : HostQueue) : (s.setQueue n q).err = s.err := rfl
@[simp] theorem State.setQueue_lines (s : State) (n : Nat) (q : HostQueue) : (s.setQueue n q).lines = s.lines := rfl
@[simp] theorem State.setQueue_clocks (s : State) (n : Nat) (q : HostQueue) : (s.setQueue n q).clocks = s.clocks := rfl
@[simp] theorem State.setQueue_ceiling (s : State) (n : Nat) (q : HostQueue) : (s.setQueue n q).ceiling = s.ceiling := rfl
@[simp] theorem State.setQueue_tiles (s : State) (n : Nat) (q : HostQueue) : (s.setQueue n q).tiles = s.tiles := rfl
@[simp] theorem State.setQueue_clusters (s : State) (n : Nat) (q : HostQueue) : (s.setQueue n q).clusters = s.clusters := rfl
@[simp] theorem State.setQueue_cores (s : State) (n : Nat) (q : HostQueue) : (s.setQueue n q).cores = s.cores := rfl
@[simp] theorem State.setQueue_threads (s : State) (n : Nat) (q : HostQueue) : (s.setQueue n q).threads = s.threads := rfl
@[simp] theorem State.setQueue_saved (s : State) (n : Nat) (q : HostQueue) : (s.setQueue n q).saved = s.saved := rfl
@[simp] theorem State.setQueue_loads (s : State) (n : Nat) (q : HostQueue) : (s.setQueue n q).loads = s.loads := rfl
@[simp] theorem State.setQueue_stores (s : State) (n : Nat) (q : HostQueue) : (s.setQueue n q).stores = s.stores := rfl
@[simp] theorem State.setQueue_groups (s : State) (n : Nat) (q : HostQueue) : (s.setQueue n q).groups = s.groups := rfl
@[simp] theorem State.setQueue_trains (s : State) (n : Nat) (q : HostQueue) : (s.setQueue n q).trains = s.trains := rfl
@[simp] theorem State.setQueue_hostReqs (s : State) (n : Nat) (q : HostQueue) : (s.setQueue n q).hostReqs = s.hostReqs := rfl
@[simp] theorem State.setQueue_farLines (s : State) (n : Nat) (q : HostQueue) : (s.setQueue n q).farLines = s.farLines := rfl
@[simp] theorem State.setQueue_walks (s : State) (n : Nat) (q : HostQueue) : (s.setQueue n q).walks = s.walks := rfl
@[simp] theorem State.setQueue_walkEnds (s : State) (n : Nat) (q : HostQueue) : (s.setQueue n q).walkEnds = s.walkEnds := rfl
@[simp] theorem State.setQueue_asidTab (s : State) (n : Nat) (q : HostQueue) : (s.setQueue n q).asidTab = s.asidTab := rfl
@[simp] theorem State.setQueue_peers (s : State) (n : Nat) (q : HostQueue) : (s.setQueue n q).peers = s.peers := rfl
@[simp] theorem State.setQueue_deviceNo (s : State) (n : Nat) (q : HostQueue) : (s.setQueue n q).deviceNo = s.deviceNo := rfl
@[simp] theorem State.setQueue_allocs (s : State) (n : Nat) (q : HostQueue) : (s.setQueue n q).allocs = s.allocs := rfl
@[simp] theorem State.setQueue_gens (s : State) (n : Nat) (q : HostQueue) : (s.setQueue n q).gens = s.gens := rfl
@[simp] theorem State.setQueue_nextAlloc (s : State) (n : Nat) (q : HostQueue) : (s.setQueue n q).nextAlloc = s.nextAlloc := rfl
@[simp] theorem State.setQueue_cisterns (s : State) (n : Nat) (q : HostQueue) : (s.setQueue n q).cisterns = s.cisterns := rfl
@[simp] theorem State.setQueue_banks (s : State) (n : Nat) (q : HostQueue) : (s.setQueue n q).banks = s.banks := rfl
@[simp] theorem State.setQueue_counters (s : State) (n : Nat) (q : HostQueue) : (s.setQueue n q).counters = s.counters := rfl
@[simp] theorem State.setQueue_counterErr (s : State) (n : Nat) (q : HostQueue) : (s.setQueue n q).counterErr = s.counterErr := rfl
@[simp] theorem State.setQueue_opened (s : State) (n : Nat) (q : HostQueue) : (s.setQueue n q).opened = s.opened := rfl
@[simp] theorem State.setQueue_specials (s : State) (n : Nat) (q : HostQueue) : (s.setQueue n q).specials = s.specials := rfl
@[simp] theorem State.setQueue_keepOwner (s : State) (n : Nat) (q : HostQueue) : (s.setQueue n q).keepOwner = s.keepOwner := rfl
@[simp] theorem State.setQueue_stale (s : State) (n : Nat) (q : HostQueue) : (s.setQueue n q).stale = s.stale := rfl
@[simp] theorem State.setQueue_spared (s : State) (n : Nat) (q : HostQueue) : (s.setQueue n q).spared = s.spared := rfl
@[simp] theorem State.setQueue_teams (s : State) (n : Nat) (q : HostQueue) : (s.setQueue n q).teams = s.teams := rfl
@[simp] theorem State.setQueue_regions (s : State) (n : Nat) (q : HostQueue) : (s.setQueue n q).regions = s.regions := rfl
@[simp] theorem State.setQueue_waiting (s : State) (n : Nat) (q : HostQueue) : (s.setQueue n q).waiting = s.waiting := rfl
@[simp] theorem State.setQueue_sent (s : State) (n : Nat) (q : HostQueue) : (s.setQueue n q).sent = s.sent := rfl
@[simp] theorem State.setQueue_txSeq (s : State) (n : Nat) (q : HostQueue) : (s.setQueue n q).txSeq = s.txSeq := rfl
@[simp] theorem State.setQueue_streams (s : State) (n : Nat) (q : HostQueue) : (s.setQueue n q).streams = s.streams := rfl
@[simp] theorem State.setQueue_idleTurn (s : State) (n : Nat) (q : HostQueue) : (s.setQueue n q).idleTurn = s.idleTurn := rfl
@[simp] theorem State.setQueue_refused (s : State) (n : Nat) (q : HostQueue) : (s.setQueue n q).refused = s.refused := rfl
@[simp] theorem State.setQueue_hostHeld (s : State) (n : Nat) (q : HostQueue) : (s.setQueue n q).hostHeld = s.hostHeld := rfl
@[simp] theorem State.setQueue_links (s : State) (n : Nat) (q : HostQueue) : (s.setQueue n q).links = s.links := rfl
@[simp] theorem State.setQueue_linkSpares (s : State) (n : Nat) (q : HostQueue) : (s.setQueue n q).linkSpares = s.linkSpares := rfl
@[simp] theorem State.setQueue_training (s : State) (n : Nat) (q : HostQueue) : (s.setQueue n q).training = s.training := rfl
@[simp] theorem State.setQueue_freeing (s : State) (n : Nat) (q : HostQueue) : (s.setQueue n q).freeing = s.freeing := rfl
@[simp] theorem State.setQueue_hostLast (s : State) (n : Nat) (q : HostQueue) : (s.setQueue n q).hostLast = s.hostLast := rfl
@[simp] theorem State.setQueue_out (s : State) (n : Nat) (q : HostQueue) : (s.setQueue n q).out = s.out := rfl
@[simp] theorem State.setQueue_mgr (s : State) (n : Nat) (q : HostQueue) : (s.setQueue n q).mgr = s.mgr := rfl
@[simp] theorem State.setQueue_queue_same (s : State) (n : Nat) (q : HostQueue) : (s.setQueue n q).queue n = q := mget_mset_same _ _ n q
theorem State.setQueue_queue_other (s : State) {n k : Nat} (q : HostQueue) (h : k ≠ n) : (s.setQueue n q).queue k = s.queue k := mget_mset_other _ _ q h

/-! setLine. -/
@[simp] theorem State.setLine_agenda (s : State) (n : Nat) (x : LineT) : (s.setLine n x).agenda = s.agenda := rfl
@[simp] theorem State.setLine_focus (s : State) (n : Nat) (x : LineT) : (s.setLine n x).focus = s.focus := rfl
@[simp] theorem State.setLine_turn (s : State) (n : Nat) (x : LineT) : (s.setLine n x).turn = s.turn := rfl
@[simp] theorem State.setLine_fresh (s : State) (n : Nat) (x : LineT) : (s.setLine n x).fresh = s.fresh := rfl
@[simp] theorem State.setLine_cycle (s : State) (n : Nat) (x : LineT) : (s.setLine n x).cycle = s.cycle := rfl
@[simp] theorem State.setLine_mem (s : State) (n : Nat) (x : LineT) : (s.setLine n x).mem = s.mem := rfl
@[simp] theorem State.setLine_err (s : State) (n : Nat) (x : LineT) : (s.setLine n x).err = s.err := rfl
@[simp] theorem State.setLine_clocks (s : State) (n : Nat) (x : LineT) : (s.setLine n x).clocks = s.clocks := rfl
@[simp] theorem State.setLine_ceiling (s : State) (n : Nat) (x : LineT) : (s.setLine n x).ceiling = s.ceiling := rfl
@[simp] theorem State.setLine_tiles (s : State) (n : Nat) (x : LineT) : (s.setLine n x).tiles = s.tiles := rfl
@[simp] theorem State.setLine_clusters (s : State) (n : Nat) (x : LineT) : (s.setLine n x).clusters = s.clusters := rfl
@[simp] theorem State.setLine_cores (s : State) (n : Nat) (x : LineT) : (s.setLine n x).cores = s.cores := rfl
@[simp] theorem State.setLine_threads (s : State) (n : Nat) (x : LineT) : (s.setLine n x).threads = s.threads := rfl
@[simp] theorem State.setLine_saved (s : State) (n : Nat) (x : LineT) : (s.setLine n x).saved = s.saved := rfl
@[simp] theorem State.setLine_loads (s : State) (n : Nat) (x : LineT) : (s.setLine n x).loads = s.loads := rfl
@[simp] theorem State.setLine_stores (s : State) (n : Nat) (x : LineT) : (s.setLine n x).stores = s.stores := rfl
@[simp] theorem State.setLine_groups (s : State) (n : Nat) (x : LineT) : (s.setLine n x).groups = s.groups := rfl
@[simp] theorem State.setLine_trains (s : State) (n : Nat) (x : LineT) : (s.setLine n x).trains = s.trains := rfl
@[simp] theorem State.setLine_hostReqs (s : State) (n : Nat) (x : LineT) : (s.setLine n x).hostReqs = s.hostReqs := rfl
@[simp] theorem State.setLine_farLines (s : State) (n : Nat) (x : LineT) : (s.setLine n x).farLines = s.farLines := rfl
@[simp] theorem State.setLine_walks (s : State) (n : Nat) (x : LineT) : (s.setLine n x).walks = s.walks := rfl
@[simp] theorem State.setLine_walkEnds (s : State) (n : Nat) (x : LineT) : (s.setLine n x).walkEnds = s.walkEnds := rfl
@[simp] theorem State.setLine_asidTab (s : State) (n : Nat) (x : LineT) : (s.setLine n x).asidTab = s.asidTab := rfl
@[simp] theorem State.setLine_peers (s : State) (n : Nat) (x : LineT) : (s.setLine n x).peers = s.peers := rfl
@[simp] theorem State.setLine_deviceNo (s : State) (n : Nat) (x : LineT) : (s.setLine n x).deviceNo = s.deviceNo := rfl
@[simp] theorem State.setLine_allocs (s : State) (n : Nat) (x : LineT) : (s.setLine n x).allocs = s.allocs := rfl
@[simp] theorem State.setLine_gens (s : State) (n : Nat) (x : LineT) : (s.setLine n x).gens = s.gens := rfl
@[simp] theorem State.setLine_nextAlloc (s : State) (n : Nat) (x : LineT) : (s.setLine n x).nextAlloc = s.nextAlloc := rfl
@[simp] theorem State.setLine_cisterns (s : State) (n : Nat) (x : LineT) : (s.setLine n x).cisterns = s.cisterns := rfl
@[simp] theorem State.setLine_banks (s : State) (n : Nat) (x : LineT) : (s.setLine n x).banks = s.banks := rfl
@[simp] theorem State.setLine_counters (s : State) (n : Nat) (x : LineT) : (s.setLine n x).counters = s.counters := rfl
@[simp] theorem State.setLine_counterErr (s : State) (n : Nat) (x : LineT) : (s.setLine n x).counterErr = s.counterErr := rfl
@[simp] theorem State.setLine_opened (s : State) (n : Nat) (x : LineT) : (s.setLine n x).opened = s.opened := rfl
@[simp] theorem State.setLine_specials (s : State) (n : Nat) (x : LineT) : (s.setLine n x).specials = s.specials := rfl
@[simp] theorem State.setLine_keepOwner (s : State) (n : Nat) (x : LineT) : (s.setLine n x).keepOwner = s.keepOwner := rfl
@[simp] theorem State.setLine_stale (s : State) (n : Nat) (x : LineT) : (s.setLine n x).stale = s.stale := rfl
@[simp] theorem State.setLine_spared (s : State) (n : Nat) (x : LineT) : (s.setLine n x).spared = s.spared := rfl
@[simp] theorem State.setLine_teams (s : State) (n : Nat) (x : LineT) : (s.setLine n x).teams = s.teams := rfl
@[simp] theorem State.setLine_regions (s : State) (n : Nat) (x : LineT) : (s.setLine n x).regions = s.regions := rfl
@[simp] theorem State.setLine_hostQ (s : State) (n : Nat) (x : LineT) : (s.setLine n x).hostQ = s.hostQ := rfl
@[simp] theorem State.setLine_waiting (s : State) (n : Nat) (x : LineT) : (s.setLine n x).waiting = s.waiting := rfl
@[simp] theorem State.setLine_sent (s : State) (n : Nat) (x : LineT) : (s.setLine n x).sent = s.sent := rfl
@[simp] theorem State.setLine_txSeq (s : State) (n : Nat) (x : LineT) : (s.setLine n x).txSeq = s.txSeq := rfl
@[simp] theorem State.setLine_streams (s : State) (n : Nat) (x : LineT) : (s.setLine n x).streams = s.streams := rfl
@[simp] theorem State.setLine_idleTurn (s : State) (n : Nat) (x : LineT) : (s.setLine n x).idleTurn = s.idleTurn := rfl
@[simp] theorem State.setLine_refused (s : State) (n : Nat) (x : LineT) : (s.setLine n x).refused = s.refused := rfl
@[simp] theorem State.setLine_hostHeld (s : State) (n : Nat) (x : LineT) : (s.setLine n x).hostHeld = s.hostHeld := rfl
@[simp] theorem State.setLine_links (s : State) (n : Nat) (x : LineT) : (s.setLine n x).links = s.links := rfl
@[simp] theorem State.setLine_linkSpares (s : State) (n : Nat) (x : LineT) : (s.setLine n x).linkSpares = s.linkSpares := rfl
@[simp] theorem State.setLine_training (s : State) (n : Nat) (x : LineT) : (s.setLine n x).training = s.training := rfl
@[simp] theorem State.setLine_freeing (s : State) (n : Nat) (x : LineT) : (s.setLine n x).freeing = s.freeing := rfl
@[simp] theorem State.setLine_hostLast (s : State) (n : Nat) (x : LineT) : (s.setLine n x).hostLast = s.hostLast := rfl
@[simp] theorem State.setLine_out (s : State) (n : Nat) (x : LineT) : (s.setLine n x).out = s.out := rfl
@[simp] theorem State.setLine_mgr (s : State) (n : Nat) (x : LineT) : (s.setLine n x).mgr = s.mgr := rfl
@[simp] theorem State.setLine_line_same (s : State) (n : Nat) (x : LineT) : (s.setLine n x).line n = x := mget_mset_same _ _ n x
theorem State.setLine_line_other (s : State) {n k : Nat} (x : LineT) (h : k ≠ n) : (s.setLine n x).line k = s.line k := mget_mset_other _ _ x h

/-! setErr. -/
@[simp] theorem State.setErr_agenda (s : State) (n : Nat) (m : ErrMark) : (s.setErr n m).agenda = s.agenda := rfl
@[simp] theorem State.setErr_focus (s : State) (n : Nat) (m : ErrMark) : (s.setErr n m).focus = s.focus := rfl
@[simp] theorem State.setErr_turn (s : State) (n : Nat) (m : ErrMark) : (s.setErr n m).turn = s.turn := rfl
@[simp] theorem State.setErr_fresh (s : State) (n : Nat) (m : ErrMark) : (s.setErr n m).fresh = s.fresh := rfl
@[simp] theorem State.setErr_cycle (s : State) (n : Nat) (m : ErrMark) : (s.setErr n m).cycle = s.cycle := rfl
@[simp] theorem State.setErr_mem (s : State) (n : Nat) (m : ErrMark) : (s.setErr n m).mem = s.mem := rfl
@[simp] theorem State.setErr_lines (s : State) (n : Nat) (m : ErrMark) : (s.setErr n m).lines = s.lines := rfl
@[simp] theorem State.setErr_clocks (s : State) (n : Nat) (m : ErrMark) : (s.setErr n m).clocks = s.clocks := rfl
@[simp] theorem State.setErr_ceiling (s : State) (n : Nat) (m : ErrMark) : (s.setErr n m).ceiling = s.ceiling := rfl
@[simp] theorem State.setErr_tiles (s : State) (n : Nat) (m : ErrMark) : (s.setErr n m).tiles = s.tiles := rfl
@[simp] theorem State.setErr_clusters (s : State) (n : Nat) (m : ErrMark) : (s.setErr n m).clusters = s.clusters := rfl
@[simp] theorem State.setErr_cores (s : State) (n : Nat) (m : ErrMark) : (s.setErr n m).cores = s.cores := rfl
@[simp] theorem State.setErr_threads (s : State) (n : Nat) (m : ErrMark) : (s.setErr n m).threads = s.threads := rfl
@[simp] theorem State.setErr_saved (s : State) (n : Nat) (m : ErrMark) : (s.setErr n m).saved = s.saved := rfl
@[simp] theorem State.setErr_loads (s : State) (n : Nat) (m : ErrMark) : (s.setErr n m).loads = s.loads := rfl
@[simp] theorem State.setErr_stores (s : State) (n : Nat) (m : ErrMark) : (s.setErr n m).stores = s.stores := rfl
@[simp] theorem State.setErr_groups (s : State) (n : Nat) (m : ErrMark) : (s.setErr n m).groups = s.groups := rfl
@[simp] theorem State.setErr_trains (s : State) (n : Nat) (m : ErrMark) : (s.setErr n m).trains = s.trains := rfl
@[simp] theorem State.setErr_hostReqs (s : State) (n : Nat) (m : ErrMark) : (s.setErr n m).hostReqs = s.hostReqs := rfl
@[simp] theorem State.setErr_farLines (s : State) (n : Nat) (m : ErrMark) : (s.setErr n m).farLines = s.farLines := rfl
@[simp] theorem State.setErr_walks (s : State) (n : Nat) (m : ErrMark) : (s.setErr n m).walks = s.walks := rfl
@[simp] theorem State.setErr_walkEnds (s : State) (n : Nat) (m : ErrMark) : (s.setErr n m).walkEnds = s.walkEnds := rfl
@[simp] theorem State.setErr_asidTab (s : State) (n : Nat) (m : ErrMark) : (s.setErr n m).asidTab = s.asidTab := rfl
@[simp] theorem State.setErr_peers (s : State) (n : Nat) (m : ErrMark) : (s.setErr n m).peers = s.peers := rfl
@[simp] theorem State.setErr_deviceNo (s : State) (n : Nat) (m : ErrMark) : (s.setErr n m).deviceNo = s.deviceNo := rfl
@[simp] theorem State.setErr_allocs (s : State) (n : Nat) (m : ErrMark) : (s.setErr n m).allocs = s.allocs := rfl
@[simp] theorem State.setErr_gens (s : State) (n : Nat) (m : ErrMark) : (s.setErr n m).gens = s.gens := rfl
@[simp] theorem State.setErr_nextAlloc (s : State) (n : Nat) (m : ErrMark) : (s.setErr n m).nextAlloc = s.nextAlloc := rfl
@[simp] theorem State.setErr_cisterns (s : State) (n : Nat) (m : ErrMark) : (s.setErr n m).cisterns = s.cisterns := rfl
@[simp] theorem State.setErr_banks (s : State) (n : Nat) (m : ErrMark) : (s.setErr n m).banks = s.banks := rfl
@[simp] theorem State.setErr_counters (s : State) (n : Nat) (m : ErrMark) : (s.setErr n m).counters = s.counters := rfl
@[simp] theorem State.setErr_counterErr (s : State) (n : Nat) (m : ErrMark) : (s.setErr n m).counterErr = s.counterErr := rfl
@[simp] theorem State.setErr_opened (s : State) (n : Nat) (m : ErrMark) : (s.setErr n m).opened = s.opened := rfl
@[simp] theorem State.setErr_specials (s : State) (n : Nat) (m : ErrMark) : (s.setErr n m).specials = s.specials := rfl
@[simp] theorem State.setErr_keepOwner (s : State) (n : Nat) (m : ErrMark) : (s.setErr n m).keepOwner = s.keepOwner := rfl
@[simp] theorem State.setErr_stale (s : State) (n : Nat) (m : ErrMark) : (s.setErr n m).stale = s.stale := rfl
@[simp] theorem State.setErr_spared (s : State) (n : Nat) (m : ErrMark) : (s.setErr n m).spared = s.spared := rfl
@[simp] theorem State.setErr_teams (s : State) (n : Nat) (m : ErrMark) : (s.setErr n m).teams = s.teams := rfl
@[simp] theorem State.setErr_regions (s : State) (n : Nat) (m : ErrMark) : (s.setErr n m).regions = s.regions := rfl
@[simp] theorem State.setErr_hostQ (s : State) (n : Nat) (m : ErrMark) : (s.setErr n m).hostQ = s.hostQ := rfl
@[simp] theorem State.setErr_waiting (s : State) (n : Nat) (m : ErrMark) : (s.setErr n m).waiting = s.waiting := rfl
@[simp] theorem State.setErr_sent (s : State) (n : Nat) (m : ErrMark) : (s.setErr n m).sent = s.sent := rfl
@[simp] theorem State.setErr_txSeq (s : State) (n : Nat) (m : ErrMark) : (s.setErr n m).txSeq = s.txSeq := rfl
@[simp] theorem State.setErr_streams (s : State) (n : Nat) (m : ErrMark) : (s.setErr n m).streams = s.streams := rfl
@[simp] theorem State.setErr_idleTurn (s : State) (n : Nat) (m : ErrMark) : (s.setErr n m).idleTurn = s.idleTurn := rfl
@[simp] theorem State.setErr_refused (s : State) (n : Nat) (m : ErrMark) : (s.setErr n m).refused = s.refused := rfl
@[simp] theorem State.setErr_hostHeld (s : State) (n : Nat) (m : ErrMark) : (s.setErr n m).hostHeld = s.hostHeld := rfl
@[simp] theorem State.setErr_links (s : State) (n : Nat) (m : ErrMark) : (s.setErr n m).links = s.links := rfl
@[simp] theorem State.setErr_linkSpares (s : State) (n : Nat) (m : ErrMark) : (s.setErr n m).linkSpares = s.linkSpares := rfl
@[simp] theorem State.setErr_training (s : State) (n : Nat) (m : ErrMark) : (s.setErr n m).training = s.training := rfl
@[simp] theorem State.setErr_freeing (s : State) (n : Nat) (m : ErrMark) : (s.setErr n m).freeing = s.freeing := rfl
@[simp] theorem State.setErr_hostLast (s : State) (n : Nat) (m : ErrMark) : (s.setErr n m).hostLast = s.hostLast := rfl
@[simp] theorem State.setErr_out (s : State) (n : Nat) (m : ErrMark) : (s.setErr n m).out = s.out := rfl
@[simp] theorem State.setErr_mgr (s : State) (n : Nat) (m : ErrMark) : (s.setErr n m).mgr = s.mgr := rfl
@[simp] theorem State.setErr_errOf_same (s : State) (n : Nat) (m : ErrMark) : (s.setErr n m).errOf n = m := mget_mset_same _ _ n m
theorem State.setErr_errOf_other (s : State) {n k : Nat} (m : ErrMark) (h : k ≠ n) : (s.setErr n m).errOf k = s.errOf k := mget_mset_other _ _ m h

/-! raiseClock. -/
@[simp] theorem State.raiseClock_agenda (s : State) (n : Nat) (t : Time) : (s.raiseClock n t).agenda = s.agenda := rfl
@[simp] theorem State.raiseClock_focus (s : State) (n : Nat) (t : Time) : (s.raiseClock n t).focus = s.focus := rfl
@[simp] theorem State.raiseClock_turn (s : State) (n : Nat) (t : Time) : (s.raiseClock n t).turn = s.turn := rfl
@[simp] theorem State.raiseClock_fresh (s : State) (n : Nat) (t : Time) : (s.raiseClock n t).fresh = s.fresh := rfl
@[simp] theorem State.raiseClock_cycle (s : State) (n : Nat) (t : Time) : (s.raiseClock n t).cycle = s.cycle := rfl
@[simp] theorem State.raiseClock_mem (s : State) (n : Nat) (t : Time) : (s.raiseClock n t).mem = s.mem := rfl
@[simp] theorem State.raiseClock_err (s : State) (n : Nat) (t : Time) : (s.raiseClock n t).err = s.err := rfl
@[simp] theorem State.raiseClock_lines (s : State) (n : Nat) (t : Time) : (s.raiseClock n t).lines = s.lines := rfl
@[simp] theorem State.raiseClock_ceiling (s : State) (n : Nat) (t : Time) : (s.raiseClock n t).ceiling = s.ceiling := rfl
@[simp] theorem State.raiseClock_tiles (s : State) (n : Nat) (t : Time) : (s.raiseClock n t).tiles = s.tiles := rfl
@[simp] theorem State.raiseClock_clusters (s : State) (n : Nat) (t : Time) : (s.raiseClock n t).clusters = s.clusters := rfl
@[simp] theorem State.raiseClock_cores (s : State) (n : Nat) (t : Time) : (s.raiseClock n t).cores = s.cores := rfl
@[simp] theorem State.raiseClock_threads (s : State) (n : Nat) (t : Time) : (s.raiseClock n t).threads = s.threads := rfl
@[simp] theorem State.raiseClock_saved (s : State) (n : Nat) (t : Time) : (s.raiseClock n t).saved = s.saved := rfl
@[simp] theorem State.raiseClock_loads (s : State) (n : Nat) (t : Time) : (s.raiseClock n t).loads = s.loads := rfl
@[simp] theorem State.raiseClock_stores (s : State) (n : Nat) (t : Time) : (s.raiseClock n t).stores = s.stores := rfl
@[simp] theorem State.raiseClock_groups (s : State) (n : Nat) (t : Time) : (s.raiseClock n t).groups = s.groups := rfl
@[simp] theorem State.raiseClock_trains (s : State) (n : Nat) (t : Time) : (s.raiseClock n t).trains = s.trains := rfl
@[simp] theorem State.raiseClock_hostReqs (s : State) (n : Nat) (t : Time) : (s.raiseClock n t).hostReqs = s.hostReqs := rfl
@[simp] theorem State.raiseClock_farLines (s : State) (n : Nat) (t : Time) : (s.raiseClock n t).farLines = s.farLines := rfl
@[simp] theorem State.raiseClock_walks (s : State) (n : Nat) (t : Time) : (s.raiseClock n t).walks = s.walks := rfl
@[simp] theorem State.raiseClock_walkEnds (s : State) (n : Nat) (t : Time) : (s.raiseClock n t).walkEnds = s.walkEnds := rfl
@[simp] theorem State.raiseClock_asidTab (s : State) (n : Nat) (t : Time) : (s.raiseClock n t).asidTab = s.asidTab := rfl
@[simp] theorem State.raiseClock_peers (s : State) (n : Nat) (t : Time) : (s.raiseClock n t).peers = s.peers := rfl
@[simp] theorem State.raiseClock_deviceNo (s : State) (n : Nat) (t : Time) : (s.raiseClock n t).deviceNo = s.deviceNo := rfl
@[simp] theorem State.raiseClock_allocs (s : State) (n : Nat) (t : Time) : (s.raiseClock n t).allocs = s.allocs := rfl
@[simp] theorem State.raiseClock_gens (s : State) (n : Nat) (t : Time) : (s.raiseClock n t).gens = s.gens := rfl
@[simp] theorem State.raiseClock_nextAlloc (s : State) (n : Nat) (t : Time) : (s.raiseClock n t).nextAlloc = s.nextAlloc := rfl
@[simp] theorem State.raiseClock_cisterns (s : State) (n : Nat) (t : Time) : (s.raiseClock n t).cisterns = s.cisterns := rfl
@[simp] theorem State.raiseClock_banks (s : State) (n : Nat) (t : Time) : (s.raiseClock n t).banks = s.banks := rfl
@[simp] theorem State.raiseClock_counters (s : State) (n : Nat) (t : Time) : (s.raiseClock n t).counters = s.counters := rfl
@[simp] theorem State.raiseClock_counterErr (s : State) (n : Nat) (t : Time) : (s.raiseClock n t).counterErr = s.counterErr := rfl
@[simp] theorem State.raiseClock_opened (s : State) (n : Nat) (t : Time) : (s.raiseClock n t).opened = s.opened := rfl
@[simp] theorem State.raiseClock_specials (s : State) (n : Nat) (t : Time) : (s.raiseClock n t).specials = s.specials := rfl
@[simp] theorem State.raiseClock_keepOwner (s : State) (n : Nat) (t : Time) : (s.raiseClock n t).keepOwner = s.keepOwner := rfl
@[simp] theorem State.raiseClock_stale (s : State) (n : Nat) (t : Time) : (s.raiseClock n t).stale = s.stale := rfl
@[simp] theorem State.raiseClock_spared (s : State) (n : Nat) (t : Time) : (s.raiseClock n t).spared = s.spared := rfl
@[simp] theorem State.raiseClock_teams (s : State) (n : Nat) (t : Time) : (s.raiseClock n t).teams = s.teams := rfl
@[simp] theorem State.raiseClock_regions (s : State) (n : Nat) (t : Time) : (s.raiseClock n t).regions = s.regions := rfl
@[simp] theorem State.raiseClock_hostQ (s : State) (n : Nat) (t : Time) : (s.raiseClock n t).hostQ = s.hostQ := rfl
@[simp] theorem State.raiseClock_waiting (s : State) (n : Nat) (t : Time) : (s.raiseClock n t).waiting = s.waiting := rfl
@[simp] theorem State.raiseClock_sent (s : State) (n : Nat) (t : Time) : (s.raiseClock n t).sent = s.sent := rfl
@[simp] theorem State.raiseClock_txSeq (s : State) (n : Nat) (t : Time) : (s.raiseClock n t).txSeq = s.txSeq := rfl
@[simp] theorem State.raiseClock_streams (s : State) (n : Nat) (t : Time) : (s.raiseClock n t).streams = s.streams := rfl
@[simp] theorem State.raiseClock_idleTurn (s : State) (n : Nat) (t : Time) : (s.raiseClock n t).idleTurn = s.idleTurn := rfl
@[simp] theorem State.raiseClock_refused (s : State) (n : Nat) (t : Time) : (s.raiseClock n t).refused = s.refused := rfl
@[simp] theorem State.raiseClock_hostHeld (s : State) (n : Nat) (t : Time) : (s.raiseClock n t).hostHeld = s.hostHeld := rfl
@[simp] theorem State.raiseClock_links (s : State) (n : Nat) (t : Time) : (s.raiseClock n t).links = s.links := rfl
@[simp] theorem State.raiseClock_linkSpares (s : State) (n : Nat) (t : Time) : (s.raiseClock n t).linkSpares = s.linkSpares := rfl
@[simp] theorem State.raiseClock_training (s : State) (n : Nat) (t : Time) : (s.raiseClock n t).training = s.training := rfl
@[simp] theorem State.raiseClock_freeing (s : State) (n : Nat) (t : Time) : (s.raiseClock n t).freeing = s.freeing := rfl
@[simp] theorem State.raiseClock_hostLast (s : State) (n : Nat) (t : Time) : (s.raiseClock n t).hostLast = s.hostLast := rfl
@[simp] theorem State.raiseClock_out (s : State) (n : Nat) (t : Time) : (s.raiseClock n t).out = s.out := rfl
@[simp] theorem State.raiseClock_mgr (s : State) (n : Nat) (t : Time) : (s.raiseClock n t).mgr = s.mgr := rfl

/-! Reading one kind of part after another has been set. -/
@[simp] theorem State.setThread_tile (s : State) (n k : Nat) (t : Thread) : (s.setThread n t).tile k = s.tile k := rfl
@[simp] theorem State.setThread_cluster (s : State) (n k : Nat) (t : Thread) : (s.setThread n t).cluster k = s.cluster k := rfl
@[simp] theorem State.setThread_core (s : State) (n k : Nat) (t : Thread) : (s.setThread n t).core k = s.core k := rfl
@[simp] theorem State.setThread_bank (s : State) (n k : Nat) (t : Thread) : (s.setThread n t).bank k = s.bank k := rfl
@[simp] theorem State.setThread_queue (s : State) (n k : Nat) (t : Thread) : (s.setThread n t).queue k = s.queue k := rfl
@[simp] theorem State.setThread_line (s : State) (n k : Nat) (t : Thread) : (s.setThread n t).line k = s.line k := rfl
@[simp] theorem State.setThread_errOf (s : State) (n k : Nat) (t : Thread) : (s.setThread n t).errOf k = s.errOf k := rfl
@[simp] theorem State.setTile_thread (s : State) (n k : Nat) (t : Tile) : (s.setTile n t).thread k = s.thread k := rfl
@[simp] theorem State.setTile_cluster (s : State) (n k : Nat) (t : Tile) : (s.setTile n t).cluster k = s.cluster k := rfl
@[simp] theorem State.setTile_core (s : State) (n k : Nat) (t : Tile) : (s.setTile n t).core k = s.core k := rfl
@[simp] theorem State.setTile_bank (s : State) (n k : Nat) (t : Tile) : (s.setTile n t).bank k = s.bank k := rfl
@[simp] theorem State.setTile_queue (s : State) (n k : Nat) (t : Tile) : (s.setTile n t).queue k = s.queue k := rfl
@[simp] theorem State.setTile_line (s : State) (n k : Nat) (t : Tile) : (s.setTile n t).line k = s.line k := rfl
@[simp] theorem State.setTile_errOf (s : State) (n k : Nat) (t : Tile) : (s.setTile n t).errOf k = s.errOf k := rfl
@[simp] theorem State.setCluster_thread (s : State) (n k : Nat) (c : Cluster) : (s.setCluster n c).thread k = s.thread k := rfl
@[simp] theorem State.setCluster_tile (s : State) (n k : Nat) (c : Cluster) : (s.setCluster n c).tile k = s.tile k := rfl
@[simp] theorem State.setCluster_core (s : State) (n k : Nat) (c : Cluster) : (s.setCluster n c).core k = s.core k := rfl
@[simp] theorem State.setCluster_bank (s : State) (n k : Nat) (c : Cluster) : (s.setCluster n c).bank k = s.bank k := rfl
@[simp] theorem State.setCluster_queue (s : State) (n k : Nat) (c : Cluster) : (s.setCluster n c).queue k = s.queue k := rfl
@[simp] theorem State.setCluster_line (s : State) (n k : Nat) (c : Cluster) : (s.setCluster n c).line k = s.line k := rfl
@[simp] theorem State.setCluster_errOf (s : State) (n k : Nat) (c : Cluster) : (s.setCluster n c).errOf k = s.errOf k := rfl
@[simp] theorem State.setCore_thread (s : State) (n k : Nat) (c : Core) : (s.setCore n c).thread k = s.thread k := rfl
@[simp] theorem State.setCore_tile (s : State) (n k : Nat) (c : Core) : (s.setCore n c).tile k = s.tile k := rfl
@[simp] theorem State.setCore_cluster (s : State) (n k : Nat) (c : Core) : (s.setCore n c).cluster k = s.cluster k := rfl
@[simp] theorem State.setCore_bank (s : State) (n k : Nat) (c : Core) : (s.setCore n c).bank k = s.bank k := rfl
@[simp] theorem State.setCore_queue (s : State) (n k : Nat) (c : Core) : (s.setCore n c).queue k = s.queue k := rfl
@[simp] theorem State.setCore_line (s : State) (n k : Nat) (c : Core) : (s.setCore n c).line k = s.line k := rfl
@[simp] theorem State.setCore_errOf (s : State) (n k : Nat) (c : Core) : (s.setCore n c).errOf k = s.errOf k := rfl
@[simp] theorem State.setBank_thread (s : State) (n k : Nat) (b : Bank) : (s.setBank n b).thread k = s.thread k := rfl
@[simp] theorem State.setBank_tile (s : State) (n k : Nat) (b : Bank) : (s.setBank n b).tile k = s.tile k := rfl
@[simp] theorem State.setBank_cluster (s : State) (n k : Nat) (b : Bank) : (s.setBank n b).cluster k = s.cluster k := rfl
@[simp] theorem State.setBank_core (s : State) (n k : Nat) (b : Bank) : (s.setBank n b).core k = s.core k := rfl
@[simp] theorem State.setBank_queue (s : State) (n k : Nat) (b : Bank) : (s.setBank n b).queue k = s.queue k := rfl
@[simp] theorem State.setBank_line (s : State) (n k : Nat) (b : Bank) : (s.setBank n b).line k = s.line k := rfl
@[simp] theorem State.setBank_errOf (s : State) (n k : Nat) (b : Bank) : (s.setBank n b).errOf k = s.errOf k := rfl
@[simp] theorem State.setQueue_thread (s : State) (n k : Nat) (q : HostQueue) : (s.setQueue n q).thread k = s.thread k := rfl
@[simp] theorem State.setQueue_tile (s : State) (n k : Nat) (q : HostQueue) : (s.setQueue n q).tile k = s.tile k := rfl
@[simp] theorem State.setQueue_cluster (s : State) (n k : Nat) (q : HostQueue) : (s.setQueue n q).cluster k = s.cluster k := rfl
@[simp] theorem State.setQueue_core (s : State) (n k : Nat) (q : HostQueue) : (s.setQueue n q).core k = s.core k := rfl
@[simp] theorem State.setQueue_bank (s : State) (n k : Nat) (q : HostQueue) : (s.setQueue n q).bank k = s.bank k := rfl
@[simp] theorem State.setQueue_line (s : State) (n k : Nat) (q : HostQueue) : (s.setQueue n q).line k = s.line k := rfl
@[simp] theorem State.setQueue_errOf (s : State) (n k : Nat) (q : HostQueue) : (s.setQueue n q).errOf k = s.errOf k := rfl
@[simp] theorem State.setLine_thread (s : State) (n k : Nat) (x : LineT) : (s.setLine n x).thread k = s.thread k := rfl
@[simp] theorem State.setLine_tile (s : State) (n k : Nat) (x : LineT) : (s.setLine n x).tile k = s.tile k := rfl
@[simp] theorem State.setLine_cluster (s : State) (n k : Nat) (x : LineT) : (s.setLine n x).cluster k = s.cluster k := rfl
@[simp] theorem State.setLine_core (s : State) (n k : Nat) (x : LineT) : (s.setLine n x).core k = s.core k := rfl
@[simp] theorem State.setLine_bank (s : State) (n k : Nat) (x : LineT) : (s.setLine n x).bank k = s.bank k := rfl
@[simp] theorem State.setLine_queue (s : State) (n k : Nat) (x : LineT) : (s.setLine n x).queue k = s.queue k := rfl
@[simp] theorem State.setLine_errOf (s : State) (n k : Nat) (x : LineT) : (s.setLine n x).errOf k = s.errOf k := rfl
@[simp] theorem State.setErr_thread (s : State) (n k : Nat) (m : ErrMark) : (s.setErr n m).thread k = s.thread k := rfl
@[simp] theorem State.setErr_tile (s : State) (n k : Nat) (m : ErrMark) : (s.setErr n m).tile k = s.tile k := rfl
@[simp] theorem State.setErr_cluster (s : State) (n k : Nat) (m : ErrMark) : (s.setErr n m).cluster k = s.cluster k := rfl
@[simp] theorem State.setErr_core (s : State) (n k : Nat) (m : ErrMark) : (s.setErr n m).core k = s.core k := rfl
@[simp] theorem State.setErr_bank (s : State) (n k : Nat) (m : ErrMark) : (s.setErr n m).bank k = s.bank k := rfl
@[simp] theorem State.setErr_queue (s : State) (n k : Nat) (m : ErrMark) : (s.setErr n m).queue k = s.queue k := rfl
@[simp] theorem State.setErr_line (s : State) (n k : Nat) (m : ErrMark) : (s.setErr n m).line k = s.line k := rfl
@[simp] theorem State.raiseClock_thread (s : State) (n k : Nat) (t : Time) : (s.raiseClock n t).thread k = s.thread k := rfl
@[simp] theorem State.raiseClock_tile (s : State) (n k : Nat) (t : Time) : (s.raiseClock n t).tile k = s.tile k := rfl
@[simp] theorem State.raiseClock_cluster (s : State) (n k : Nat) (t : Time) : (s.raiseClock n t).cluster k = s.cluster k := rfl
@[simp] theorem State.raiseClock_core (s : State) (n k : Nat) (t : Time) : (s.raiseClock n t).core k = s.core k := rfl
@[simp] theorem State.raiseClock_bank (s : State) (n k : Nat) (t : Time) : (s.raiseClock n t).bank k = s.bank k := rfl
@[simp] theorem State.raiseClock_queue (s : State) (n k : Nat) (t : Time) : (s.raiseClock n t).queue k = s.queue k := rfl
@[simp] theorem State.raiseClock_line (s : State) (n k : Nat) (t : Time) : (s.raiseClock n t).line k = s.line k := rfl
@[simp] theorem State.raiseClock_errOf (s : State) (n k : Nat) (t : Time) : (s.raiseClock n t).errOf k = s.errOf k := rfl
@[simp] theorem State.setThread_setThread (s : State) (n : Nat) (t u : Thread) : (s.setThread n t).setThread n u = s.setThread n u := by
  simp [State.setThread, mset_mset]

end Sys2Proof.Machine
end

