-- ==== Sys2Proof/Laws/Firing.lean ====
section
/-! SUPPORT. What firing does: the one lemma about `runSlot`, the one about how outputs take their places, and those about the ways P and
nulls act. Statements about an instruction cite these and unfold its body alone. -/
set_option Elab.async false
set_option linter.unusedSimpArgs false
set_option linter.unusedVariables false
namespace Sys2Proof.Machine

/-! updBlock. -/
theorem State.updBlock_eq (s : State) (tid serial : Nat) (f : BlockExec → BlockExec) :
    s.updBlock tid serial f = s.setThread tid ((s.thread tid).updBlock serial f) := rfl

@[simp] theorem State.updBlock_thread (s : State) (tid serial : Nat) (f : BlockExec → BlockExec) :
    (s.updBlock tid serial f).thread tid = (s.thread tid).updBlock serial f := by simp [State.updBlock]

@[simp] theorem State.updBlock_mem (s : State) (tid serial : Nat) (f : BlockExec → BlockExec) : (s.updBlock tid serial f).mem = s.mem := rfl

theorem Thread.updBlock_updBlock (t : Thread) (serial : Nat) (f g : BlockExec → BlockExec) (hf : ∀ b, (f b).serial = b.serial) :
    (t.updBlock serial f).updBlock serial g = t.updBlock serial (fun b => g (f b)) := by
  simp only [Thread.updBlock, List.map_map]
  congr 1
  apply List.map_congr_left
  intro b _
  by_cases h : b.serial = serial <;> simp [Function.comp, h, hf]

theorem State.updBlock_updBlock (s : State) (tid serial : Nat) (f g : BlockExec → BlockExec) (hf : ∀ b, (f b).serial = b.serial) :
    (s.updBlock tid serial f).updBlock tid serial g = s.updBlock tid serial (fun b => g (f b)) := by
  simp [State.updBlock, Thread.updBlock_updBlock _ _ _ _ hf]

theorem Thread.updBlock_block (t : Thread) (serial : Nat) (f : BlockExec → BlockExec) (hf : ∀ b, (f b).serial = b.serial) :
    (t.updBlock serial f).block serial = (t.block serial).map f := by
  unfold Thread.updBlock Thread.block
  simp only
  generalize t.flight = l
  induction l with
  | nil => rfl
  | cons b r ih =>
    by_cases h : b.serial = serial
    · simp [h, hf]
    · simp [h, ih]

theorem Thread.updBlock_congr (t : Thread) (serial : Nat) (f g : BlockExec → BlockExec) (h : ∀ b, f b = g b) :
    t.updBlock serial f = t.updBlock serial g := by
  rw [show f = g from funext h]

/-! Firing. -/
theorem State.firing_site (s : State) (r : Raw) (x : Firing) (h : s.firing r = some x) :
    ∃ y p, s.site r = some y ∧ decisionOf r (y.block.tok y.slot .p) = .fires p ∧ y.ready = true ∧ y.typed = true ∧ x = { y with p := p } := by
  unfold State.firing at h
  split at h
  · cases h
  · rename_i y hy
    split at h
    · rename_i p hp
      split at h
      · rename_i hr
        simp only [Bool.and_eq_true] at hr
        exact ⟨y, p, hy, hp, hr.1, hr.2, by simpa using h.symm⟩
      · cases h
    · cases h

/-- Where every operand fits its type, none is found wrong. -/
theorem Firing.misfit_none (x : Firing) (h : x.typed = true) : x.misfit = none := by
  simp only [Firing.typed, List.all_eq_true] at h
  simp only [Firing.misfit, Option.map_eq_none_iff, List.find?_eq_none]
  intro e he
  simp [h e he]

/-- Where the instruction fires, running its slot is running its body. -/
theorem runSlot_of_firing (r : Raw) (body : Firing → Fired) (s : State) (x : Firing) (h : s.firing r = some x) :
    runSlot r body s = (body x).run x := by
  obtain ⟨y, p, hy, hp, hr, ht, rfl⟩ := s.firing_site r x h
  simp only [runSlot, hy, hp, hr, y.misfit_none ht, ite_self, Bool.not_true, Bool.false_eq_true, if_false]
  rcases body { y with p := p } with _ | _ | _ | _ | _ | _ <;> rfl

/-- Where the slot does not stand ready, nothing happens. -/
theorem runSlot_none (r : Raw) (body : Firing → Fired) (s : State) (h : s.site r = none) : runSlot r body s = s := by
  simp [runSlot, h]

theorem State.site_some (s : State) (r : Raw) (x : Firing) (h : s.site r = some x) :
    s.focus = .slot x.tid x.serial x.slot ∧ x.st = s ∧ x.thread = s.thread x.tid ∧ x.thread.block x.serial = some x.block ∧ x.raw = r := by
  unfold State.site at h
  split at h
  · rename_i tid serial slot hf
    simp only at h
    split at h
    · cases h
    · rename_i b hb
      split at h
      · cases h
      · cases h; exact ⟨hf, rfl, rfl, hb, rfl⟩
  · cases h

theorem State.firing_some (s : State) (r : Raw) (x : Firing) (h : s.firing r = some x) :
    s.focus = .slot x.tid x.serial x.slot ∧ x.st = s ∧ x.thread = s.thread x.tid ∧ x.thread.block x.serial = some x.block ∧ x.raw = r := by
  obtain ⟨y, p, hy, -, -, -, rfl⟩ := s.firing_site r x h
  exact s.site_some r y hy

/-! How outputs take their places. -/
/-- A list of targets with what each is sent: a target that receives is one of the list, in its order. -/
theorem picks_sublist (g : Target × Nat → Option (TargetRef × Token)) (hg : ∀ e y, g e = some y → e.1 = some y.1) :
    ∀ (l : List Target) (k : Nat), List.Sublist (((l.zipIdx k).filterMap g).map (·.1)) (l.filterMap id) := by
  intro l
  induction l with
  | nil => intro k; simp
  | cons t r ih =>
    intro k
    rw [List.zipIdx_cons]
    cases h : g (t, k) with
    | none =>
      cases t with
      | none => simpa [h] using ih (k + 1)
      | some t => simpa [h] using (ih (k + 1)).trans (by simp)
    | some y =>
      have ht : t = some y.1 := hg _ _ h
      subst ht
      simpa [h] using ih (k + 1)

theorem sends_sublist (r : Raw) (m a : Option Token) : List.Sublist ((r.sends m a).map (·.1)) (r.targets.filterMap id) := by
  refine picks_sublist _ (fun e y h => ?_) r.targets 0
  split at h
  · rename_i h1 _; cases h; exact h1
  · cases h

theorem BlockExec.unstuck (b : BlockExec) (h : b.stuck = []) : { b with stuck := [] } = b := by
  cases b; simp only at h; subst h; rfl

/-- Tokens delivered to free and distinct operands all arrive. -/
theorem State.deliver1_fold (tid serial : Nat) : ∀ (l : List (TargetRef × Token)) (s : State) (f : BlockExec → BlockExec) (b : BlockExec),
    (∀ b, (f b).serial = b.serial) → (∀ b, (f b).toks = b.toks) → (∀ b, (f b).stuck = []) → (s.thread tid).block serial = some b →
    (∀ (done : List (TargetRef × Token)), (∀ e ∈ l, b.tok e.1.slot.toNat e.1.opnd = none) → (done ++ l).Pairwise (fun e e' => ¬(e.1.slot = e'.1.slot ∧ e.1.opnd = e'.1.opnd)) →
    l.foldl (fun s e => s.deliver1 tid serial e.1 e.2)
        (s.updBlock tid serial (fun b => { f b with toks := b.toks ++ done.map (fun e => ⟨e.1.slot.toNat, e.1.opnd, e.2⟩) })) =
      s.updBlock tid serial (fun b => { f b with toks := b.toks ++ (done ++ l).map (fun e => ⟨e.1.slot.toNat, e.1.opnd, e.2⟩) })) := by
  intro l
  induction l with
  | nil => intro s f b _ _ _ _ done _ _; simp
  | cons e r ih =>
    intro s f b hf ht hk hb done hfree hd
    set g : BlockExec → BlockExec := fun b => { f b with toks := b.toks ++ done.map (fun e => ⟨e.1.slot.toNat, e.1.opnd, e.2⟩) } with hg
    have hgs : ∀ b, (g b).serial = b.serial := fun b => by simp [hg, hf]
    have hblk : ((s.updBlock tid serial g).thread tid).block serial = some (g b) := by
      rw [State.updBlock_thread, Thread.updBlock_block _ _ _ hgs, hb]; rfl
    have hfree' : (g b).tok e.1.slot.toNat e.1.opnd = none := by
      have h0 := hfree e (by simp)
      simp only [BlockExec.tok, Option.map_eq_none_iff, List.find?_eq_none] at h0 ⊢
      intro t htm
      simp only [hg, List.mem_append, List.mem_map] at htm
      rcases htm with htm | ⟨d, hdm, rfl⟩
      · exact h0 t htm
      · have := (List.pairwise_append.1 hd).2.2 d hdm e (by simp)
        simp only [Bool.and_eq_true, beq_iff_eq, not_and] at this ⊢
        intro h1 h2
        exact this (BitVec.eq_of_toNat_eq h1) h2
    rw [List.foldl_cons]
    have hstep : (s.updBlock tid serial g).deliver1 tid serial e.1 e.2 =
        s.updBlock tid serial (fun b => { f b with toks := b.toks ++ (done ++ [e]).map (fun e => ⟨e.1.slot.toNat, e.1.opnd, e.2⟩) }) := by
      unfold State.deliver1
      simp only [hblk, hfree', Option.isSome_none, Bool.false_eq_true, if_false]
      rw [State.updBlock_updBlock _ _ _ _ _ hgs]
      congr 1
      funext b
      have h1 : (g b).stuck = [] := by simp [hg, hk]
      simp [hg, List.map_append, List.append_assoc, hk]
    rw [hstep, ih s f b hf ht hk hb (done ++ [e]) (fun x hx => hfree x (by simp [hx])) (by simpa using hd)]
    simp

theorem Firing.clear_spec (x : Firing) (h : x.clear = true) :
    (x.raw.targets.filterMap id).Pairwise (fun e e' => ¬(e.slot = e'.slot ∧ e.opnd = e'.opnd)) ∧
    ∀ e ∈ x.raw.targets.filterMap id, x.block.tok e.slot.toNat e.opnd = none := by
  unfold Firing.clear at h
  simp only [Bool.and_eq_true, decide_eq_true_eq, List.all_eq_true, Option.isNone_iff_eq_none] at h
  constructor
  · have := h.1
    rw [List.Nodup, List.pairwise_map] at this
    refine this.imp (fun {a b} hne hc => hne ?_)
    simp [hc.1, hc.2]
  · intro e he
    exact h.2 (e.slot.toNat, e.opnd) (List.mem_map.2 ⟨e, he, rfl⟩)

/-- The outputs of a firing whose targets are free take their places: only the block in flight changes. -/
theorem State.finish_eq_done (s : State) (x : Firing) (o : Out) (hb : (s.thread x.tid).block x.serial = some x.block)
    (hc : x.clear = true) (he : o.exit = none ∨ x.block.exit = none) : s.finish x o = x.done s o := by
  have hx : (o.exit.isSome && x.block.exit.isSome) = false := by rcases he with h | h <;> simp [h]
  unfold State.finish
  simp only [hx, Bool.false_eq_true, if_false]
  obtain ⟨hp, hfree⟩ := x.clear_spec hc
  have hsub := sends_sublist x.raw o.main o.alt
  have hpw : (x.raw.sends o.main o.alt).Pairwise (fun e e' => ¬(e.1.slot = e'.1.slot ∧ e.1.opnd = e'.1.opnd)) := by
    have := hp.sublist hsub
    rwa [List.pairwise_map] at this
  have hfr : ∀ e ∈ x.raw.sends o.main o.alt, x.block.tok e.1.slot.toNat e.1.opnd = none := fun e he =>
    hfree e.1 (hsub.subset (List.mem_map.2 ⟨e, he, rfl⟩))
  have key := State.deliver1_fold x.tid x.serial (x.raw.sends o.main o.alt) s
    (fun b => { b with fired := b.fired ++ [x.slot], stuck := [], effects := b.effects ++ o.effs.map (fun e => ⟨x.slot, e⟩), flags := b.flags ||| o.flags,
                       exit := (match o.exit with | some e => some (x.slot, e) | none => b.exit) }) x.block
    (fun _ => rfl) (fun _ => rfl) (fun _ => rfl) hb [] hfr (by simpa using hpw)
  simp only [List.map_nil, List.append_nil, List.nil_append] at key
  unfold State.deliver Firing.done Firing.after
  exact key

/-- A firing that gives its outputs at once, its targets free, completes. -/
theorem runSlot_gives (r : Raw) (body : Firing → Fired) (s t : State) (x : Firing) (o : Out) (h : s.firing r = some x)
    (hc : x.clear = true) (hg : body x = .give t o) (ht : t.thread x.tid = s.thread x.tid) (he : o.exit = none ∨ x.block.exit = none) :
    runSlot r body s = x.done t o := by
  obtain ⟨-, -, h3, h4, -⟩ := s.firing_some r x h
  rw [runSlot_of_firing r body s x h, hg]
  exact t.finish_eq_done x o (by rw [ht, ← h3]; exact h4) hc he

/-! The ways P and nulls act. -/
theorem Firing.whole_acts (x : Firing) (n : Out) (go : Fired) (h : x.acts = true) : x.whole n go = go := by
  unfold Firing.acts at h
  simp only [Bool.and_eq_true, Bool.not_eq_true'] at h
  unfold Firing.whole
  obtain ⟨h1, h2⟩ := h
  cases hp : x.p with
  | all => simp [h1]
  | null => simp [PMode.live, hp] at h2
  | mask l =>
    simp only [PMode.live, hp, beq_iff_eq] at h2
    simp [h2, h1]

end Sys2Proof.Machine
end

