-- ==== Sys2Proof/Laws/Completes.lean ====
section
/-! SUPPORT. How a statement of completion follows from the instruction's body alone; what a firing knows of its thread; what taking a trap
does where it is not fatal. -/
set_option Elab.async false
set_option linter.unusedSimpArgs false
set_option linter.unusedVariables false
namespace Sys2Proof.Machine

theorem State.firing_raw (s : State) (r : Raw) (x : Firing) (h : s.firing r = some x) : x.raw = r := (s.firing_some r x h).2.2.2.2
theorem State.firing_st (s : State) (r : Raw) (x : Firing) (h : s.firing r = some x) : x.st = s := (s.firing_some r x h).2.1
theorem State.firing_thread (s : State) (r : Raw) (x : Firing) (h : s.firing r = some x) : x.thread = s.thread x.tid := (s.firing_some r x h).2.2.1

/-- Bits of a word as a field of it. -/
theorem bitsAt_eq (a : Word) (lo n : Nat) : bitsAt a lo n = (a.extractLsb' lo n).toNat := by
  simp [bitsAt, BitVec.extractLsb'_toNat, Nat.shiftRight_eq_div_pow]

/-- An instruction whose body gives its outputs at once, the device as it was, completes. -/
theorem completes_give (i : Instr) (r : Raw) (body : Firing → Fired) (ok : Firing → Prop) (o : Firing → Out)
    (he : ∀ s : State, exec i s = .next (runSlot r body s))
    (hb : ∀ (s : State) (x : Firing), s.firing r = some x → ok x → body x = .give x.st (o x) ∧ ((o x).exit = none ∨ x.block.exit = none)) :
    Completes i r ok o := by
  intro s x h hc ha
  obtain ⟨h5, h6⟩ := hb s x h ha
  rw [he, runSlot_gives r body s s x (o x) h hc (by rw [h5, s.firing_st r x h]) rfl h6]

/-- As `completes_give`, where the device changes too and its threads do not. -/
theorem completesWith_give (i : Instr) (r : Raw) (body : Firing → Fired) (ok : Firing → Prop) (t : Firing → State) (o : Firing → Out)
    (he : ∀ s : State, exec i s = .next (runSlot r body s))
    (hb : ∀ (s : State) (x : Firing), s.firing r = some x → ok x →
      body x = .give (t x) (o x) ∧ (t x).thread x.tid = s.thread x.tid ∧ ((o x).exit = none ∨ x.block.exit = none)) :
    CompletesWith i r ok t o := by
  intro s x h hc ha
  obtain ⟨h5, h6, h7⟩ := hb s x h ha
  rw [he, runSlot_gives r body s (t x) x (o x) h hc h5 h6 h7]

/-- A scalar result that a property describes. -/
theorem yields_give (i : Instr) (r : Raw) (body : Firing → Fired) (ok : Firing → Prop) (good : Firing → Word → Prop)
    (he : ∀ s : State, exec i s = .next (runSlot r body s))
    (hb : ∀ (s : State) (x : Firing), s.firing r = some x → ok x → ∃ v, body x = .give x.st (scalarOut v) ∧ good x v) : Yields i r ok good := by
  intro s x h hc ha
  obtain ⟨v, h5, h6⟩ := hb s x h ha
  exact ⟨v, by rw [he, runSlot_gives r body s s x (scalarOut v) h hc (by rw [h5, s.firing_st r x h]) rfl (Or.inl rfl)], h6⟩

/-- A scalar value that P and nulls let through. -/
theorem Firing.value_acts (x : Firing) (v : Word) (h : x.acts = true) : x.value v = .give x.st (scalarOut v) := by
  unfold Firing.value; rw [Firing.whole_acts _ _ _ h]; rfl

/-- The one lemma for instructions that give every target a scalar computed from the firing. -/
theorem completes_value (i : Instr) (r : Raw) (f g : Firing → Word) (he : ∀ s : State, exec i s = .next (runSlot r (fun x => x.value (f x)) s))
    (hfg : ∀ x, f x = g x) : Completes i r Acts (fun x => scalarOut (g x)) :=
  completes_give i r _ _ _ he (fun _ x _ ha => ⟨by rw [x.value_acts _ ha, hfg], Or.inl rfl⟩)

/-! The oldest block. -/
theorem Thread.block_serial (t : Thread) (n : Nat) (b : BlockExec) (h : t.block n = some b) : b.serial = n := by
  have := List.find?_some h
  simpa using this

theorem State.site_oldest (s : State) (r : Raw) (x : Firing) (h : s.site r = some x) :
    x.oldest = ((s.thread x.tid).flight.head?.map (·.serial) == some x.serial) := by
  unfold State.site at h
  split at h
  · simp only at h
    split at h
    · cases h
    · split at h
      · cases h
      · cases h; rfl
  · cases h

/-- The block a firing in the oldest block stands in is the first in flight. -/
theorem State.firing_oldest (s : State) (r : Raw) (x : Firing) (h : s.firing r = some x) (ho : x.oldest = true) :
    ∃ fl, (s.thread x.tid).flight = x.block :: fl ∧ x.block.serial = x.serial := by
  obtain ⟨h1, h2, h3, h4, h5⟩ := s.firing_some r x h
  have hs := Thread.block_serial _ _ _ h4
  obtain ⟨y, p, hy, -, -, -, rfl⟩ := s.firing_site r x h
  have hh := s.site_oldest r y hy
  simp only at ho hs h3 h4 ⊢
  rw [ho] at hh
  cases hf : (s.thread y.tid).flight with
  | nil => simp [hf] at hh
  | cons b fl =>
    have hb : b.serial = y.serial := by simpa [hf] using hh.symm
    have : y.block = b := by
      have h6 := h4
      rw [h3] at h6
      simp only [Thread.block, hf, List.find?_cons, hb, beq_self_eq_true] at h6
      exact (Option.some.inj h6).symm
    exact ⟨fl, by rw [this], hs⟩

theorem State.dropLoads_thread (s : State) (tid : Nat) (k : Nat → Bool) (n : Nat) : (s.dropLoads tid k).thread n = s.thread n := rfl
theorem State.discardFlight_same (s : State) (tid : Nat) :
    (s.discardFlight tid).thread tid = { s.thread tid with flight := [], walkFaults := [] } := by
  unfold State.discardFlight
  rw [State.setThread_thread_same]; rfl
theorem State.discardFlight_other (s : State) (tid n : Nat) (h : n ≠ tid) : (s.discardFlight tid).thread n = s.thread n := by
  unfold State.discardFlight
  rw [State.setThread_thread_other _ _ h]; rfl
theorem State.discardFlight_mem (s : State) (tid : Nat) : (s.discardFlight tid).mem = s.mem := rfl

/-- A trap that is not fatal (R387). -/
theorem State.takeTrap_trapsTo (s : State) (tid : Nat) (f : FaultRec) (block faulting : Word) (h : (s.thread tid).fatal faulting = false) :
    s.trapsTo (s.takeTrap tid f block faulting) tid f.cause block f.slot f.addr (f.elem % 2 ^ 32) f.info := by
  have hf : Thread.fatal (((s.discardFlight tid).thread tid).record f block) faulting = false := by
    rw [State.discardFlight_same]; exact h
  unfold State.takeTrap
  simp only [hf, Bool.false_eq_true, if_false]
  unfold State.trapsTo
  have ho : ∀ n, n ≠ tid → ∀ t, ((s.discardFlight tid).setThread tid t).thread n = s.thread n := fun n hn t => by
    rw [State.setThread_thread_other _ _ hn, State.discardFlight_other _ _ _ hn]
  simp +contextual [State.discardFlight_same, ho, State.discardFlight_mem, Thread.record]

/-- A fault of the oldest block is taken at once (R17). -/
theorem State.raise_oldest (s : State) (r : Raw) (x : Firing) (h : s.firing r = some x) (ho : x.oldest = true) (f : FaultRec) :
    s.raise x.tid x.serial f = s.takeTrap x.tid f x.block.addr x.block.addr := by
  obtain ⟨fl, hfl, hs⟩ := s.firing_oldest r x h ho
  unfold State.raise
  simp [hfl, hs]

end Sys2Proof.Machine
end

