-- ==== Sys2Proof/Laws/Encoding.lean ====
section
/-! SUPPORT. The decoder reads back the words the encoder gives, for every operand form whose fields its opcode admits (R77 to R88). -/
set_option Elab.async false
set_option linter.unusedSimpArgs false
set_option linter.unusedVariables false
namespace Sys2Proof

/-! Fields. -/
theorem encPred_lt (p : Pred) : encPred p < 4 := by cases p <;> decide
theorem encOpnd_lt (o : Opnd) : encOpnd o < 4 := by cases o <;> decide
theorem encTgt_lt (t : Target) : encTgt t < 1024 := by
  cases t with
  | none => decide
  | some t => have := encOpnd_lt t.opnd; have := t.slot.isLt; simp only [encTgt]; omega
theorem encBool_lt (b : Bool) : encBool b < 2 := by cases b <;> decide
theorem encRound_lt (r : RoundMode) : encRound r < 6 := by cases r <;> decide
theorem encSpace_lt (s : Space) : encSpace s < 5 := by cases s <;> decide
theorem code_lt (op : Opcode) : op.code < 256 := by cases op <;> decide
theorem opcodeOf_code (op : Opcode) : opcodeOf op.code = some op := by cases op <;> rfl
@[simp] theorem decPred_enc (p : Pred) : decPred (encPred p) = p := by cases p <;> rfl
theorem encPred_ne (p : Pred) : encPred p ≠ 1 := by cases p <;> decide
@[simp] theorem decOpnd_enc (o : Opnd) : decOpnd (encOpnd o) = o := by cases o <;> rfl
@[simp] theorem decBool_enc (b : Bool) : decBool (encBool b) = b := by cases b <;> rfl
@[simp] theorem decRound_enc (r : RoundMode) : decRound (encRound r) = ⟨r, 0⟩ := by cases r <;> rfl
@[simp] theorem decSpace_enc (s : Space) : decSpace (encSpace s) = ⟨s, 0⟩ := by cases s <;> rfl
@[simp] theorem decTgt_enc (t : Target) : decTgt (encTgt t) = ⟨t, 0⟩ := by
  cases t with
  | none => rfl
  | some t =>
    have h1 := encOpnd_lt t.opnd; have h2 := t.slot.isLt
    have e1 : (512 + 128 * encOpnd t.opnd + t.slot.toNat) / 512 = 1 := by omega
    have e2 : (512 + 128 * encOpnd t.opnd + t.slot.toNat) / 128 % 4 = encOpnd t.opnd := by omega
    have e3 : (512 + 128 * encOpnd t.opnd + t.slot.toNat) % 128 = t.slot.toNat := by omega
    simp [encTgt, decTgt, e1, e2, e3]
@[simp] theorem worst_zero (a : Nat) : worst 0 a = a := rfl
@[simp] theorem worst_zero' (a : Nat) : worst a 0 = a := by unfold worst; split <;> simp_all
@[simp] theorem zero_zero : zero 0 = 0 := rfl
@[simp] theorem must_true : must true = 0 := rfl

/-- Nat words as bit vectors, read back. -/
theorem wordAt_ofNat {n : Nat} (h : n < 4294967296) (l : List Word32) : wordAt (BitVec.ofNat 32 n :: l) 0 = n := by
  simp [wordAt, Nat.mod_eq_of_lt h]
theorem wordAt_one (x y : Word32) (l : List Word32) : wordAt (x :: y :: l) 1 = y.toNat := rfl
theorem wordAt_two (x y z : Word32) (l : List Word32) : wordAt (x :: y :: z :: l) 2 = z.toNat := rfl
theorem wordAt_cons (x : Word32) (l : List Word32) : wordAt (x :: l) 0 = x.toNat := rfl
theorem litAt_cons (v : Word) (l : List Word32) :
    litAt (BitVec.ofNat 32 (v.toNat % 4294967296) :: BitVec.ofNat 32 (v.toNat / 4294967296) :: l) 0 = v.toNat := by
  have := v.isLt
  simp only [litAt, wordAt, List.getElem?_cons_zero, List.getElem?_cons_succ, Option.getD_some, BitVec.toNat_ofNat, Nat.zero_add]
  omega
theorem litAt_one (x : Word32) (l : List Word32) : litAt (x :: l) 1 = litAt l 0 := rfl
theorem litAt_three (x y z : Word32) (l : List Word32) : litAt (x :: y :: z :: l) 3 = litAt l 0 := rfl

/-! Words 0. -/
theorem encB_lt (op : Opcode) (len : Nat) (b : BForm) (h : len < 4) : encB op len b < 4294967296 := by
  have := code_lt op; have := encPred_lt b.pr; have := encTgt_lt b.t0; have := encTgt_lt b.t1
  simp only [encB]; omega
theorem encB_fields (op : Opcode) (len : Nat) (b : BForm) (h : len < 4) :
    encB op len b % 4 = len ∧ fld (encB op len b) 2 256 = op.code ∧ fld (encB op len b) 10 4 = encPred b.pr ∧
    fld (encB op len b) 12 1024 = encTgt b.t0 ∧ fld (encB op len b) 22 1024 = encTgt b.t1 := by
  have := code_lt op; have := encPred_lt b.pr; have := encTgt_lt b.t0; have := encTgt_lt b.t1
  simp only [encB, fld]
  norm_num only
  omega
theorem decB_enc (op : Opcode) (len : Nat) (b : BForm) (h : len < 4) : decB (encB op len b) = ⟨b, 0⟩ := by
  obtain ⟨-, -, h3, h4, h5⟩ := encB_fields op len b h
  simp [decB, h3, h4, h5]
theorem encP_lt (op : Opcode) (len : Nat) (p : Pred) (h : len < 4) : encP op len p < 4096 := by
  have := code_lt op; have := encPred_lt p
  simp only [encP]; omega
theorem encP_fields (op : Opcode) (len : Nat) (p : Pred) (h : len < 4) :
    encP op len p % 4 = len ∧ fld (encP op len p) 2 256 = op.code ∧ fld (encP op len p) 10 4 = encPred p ∧ fld (encP op len p) 12 1048576 = 0 := by
  have := code_lt op; have := encPred_lt p
  simp only [encP, fld]
  norm_num only
  omega
theorem decP_enc (op : Opcode) (len : Nat) (p : Pred) (h : len < 4) : decP (encP op len p) = ⟨p, 0⟩ := by
  obtain ⟨-, -, h3, h4⟩ := encP_fields op len p h
  simp [decP, h3, h4]

/-! Words 1. -/
theorem encExt_lt (x : Ext) : encExt x < 1048576 := by
  have := encTgt_lt x.t2; have := encTgt_lt x.t3
  simp only [encExt]; omega
theorem decExt_enc (x : Ext) : decExt (encExt x) = ⟨x, 0⟩ := by
  have h1 := encTgt_lt x.t2; have h2 := encTgt_lt x.t3
  have e1 : fld (encExt x) 0 1024 = encTgt x.t2 := by simp only [encExt, fld]; norm_num only; omega
  have e2 : fld (encExt x) 10 1024 = encTgt x.t3 := by simp only [encExt, fld]; norm_num only; omega
  have e3 : encExt x / 1048576 = 0 := by have := encExt_lt x; omega
  simp [decExt, e1, e2, e3]
theorem encV_lt (v : VWord) : encV v < 536870912 := by
  have := encTgt_lt v.t2; have := encTgt_lt v.t3; have := v.xsel.isLt; have := encRound_lt v.rm; have := encBool_lt v.sat; have := encBool_lt v.xm
  simp only [encV]; omega
theorem decV_enc (v : VWord) (h : vwordOk v = true) : decV (encV v) = ⟨v, 0⟩ := by
  have h1 := encTgt_lt v.t2; have h2 := encTgt_lt v.t3; have h3 := v.xsel.isLt; have h4 := encRound_lt v.rm
  have h5 := encBool_lt v.sat; have h6 := encBool_lt v.xm
  have e1 : fld (encV v) 0 1024 = encTgt v.t2 := by simp only [encV, fld]; norm_num only; omega
  have e2 : fld (encV v) 10 1024 = encTgt v.t3 := by simp only [encV, fld]; norm_num only; omega
  have e3 : fld (encV v) 20 16 = v.xsel.toNat := by simp only [encV, fld]; norm_num only; omega
  have e4 : fld (encV v) 24 8 = encRound v.rm := by simp only [encV, fld]; norm_num only; omega
  have e5 : fld (encV v) 27 2 = encBool v.sat := by simp only [encV, fld]; norm_num only; omega
  have e6 : fld (encV v) 28 2 = encBool v.xm := by simp only [encV, fld]; norm_num only; omega
  have e7 : fld (encV v) 29 8 = 0 := by simp only [encV, fld]; norm_num only; omega
  simp [decV, e1, e2, e3, e4, e5, e6, e7, h]
theorem encM_lt (m : MWord) : encM m < 134217728 := by
  have := encTgt_lt m.t2; have := m.lsid.isLt; have := m.sz.isLt; have := encSpace_lt m.sp; have := encBool_lt m.wi; have := encBool_lt m.rw
  have := encBool_lt m.fr; have := encBool_lt m.sx; have := encBool_lt m.ord; have := encBool_lt m.ff
  simp only [encM]; omega
theorem flagBad_ok (a v : Bool) (h : (a || !v) = true) : flagBad a v = 0 := by simp [flagBad, h]
theorem decM_enc (a : Accepts) (m : MWord) (h : mwordOk a m = true) : decM a (encM m) m.off.toNat = ⟨m, 0⟩ := by
  have h1 := encTgt_lt m.t2; have h2 := m.lsid.isLt; have h3 := m.sz.isLt; have h4 := encSpace_lt m.sp; have h5 := encBool_lt m.wi
  have h6 := encBool_lt m.rw; have h7 := encBool_lt m.fr; have h8 := encBool_lt m.sx; have h9 := encBool_lt m.ord; have h10 := encBool_lt m.ff
  have e1 : fld (encM m) 0 1024 = encTgt m.t2 := by simp only [encM, fld]; norm_num only; omega
  have e2 : fld (encM m) 10 32 = m.lsid.toNat := by simp only [encM, fld]; norm_num only; omega
  have e3 : fld (encM m) 15 8 = m.sz.toNat := by simp only [encM, fld]; norm_num only; omega
  have e4 : fld (encM m) 18 8 = encSpace m.sp := by simp only [encM, fld]; norm_num only; omega
  have e5 : fld (encM m) 21 2 = encBool m.wi := by simp only [encM, fld]; norm_num only; omega
  have e6 : fld (encM m) 22 2 = encBool m.rw := by simp only [encM, fld]; norm_num only; omega
  have e7 : fld (encM m) 23 2 = encBool m.fr := by simp only [encM, fld]; norm_num only; omega
  have e8 : fld (encM m) 24 2 = encBool m.sx := by simp only [encM, fld]; norm_num only; omega
  have e9 : fld (encM m) 25 2 = encBool m.ord := by simp only [encM, fld]; norm_num only; omega
  have e10 : fld (encM m) 26 2 = encBool m.ff := by simp only [encM, fld]; norm_num only; omega
  have e11 : encM m / 134217728 = 0 := by have := encM_lt m; omega
  simp only [mwordOk, Bool.and_eq_true] at h
  obtain ⟨⟨⟨⟨⟨⟨⟨⟨f1, f2⟩, f3⟩, f4⟩, f5⟩, f6⟩, f7⟩, f8⟩, f9⟩ := h
  have hs : (if a.sizes = .vector then zero m.sz.toNat else must (m.sz.toNat < 4 && (a.sizes == .all || 2 ≤ m.sz.toNat))) = 0 := by
    cases hz : a.sizes <;> simp only [hz] at f8
    · simp [h3]
    · simp only [decide_eq_true_eq] at f8; simp [h3, f8]
    · have : m.sz = 0 := by simpa using f8
      simp [this]
  have hv : (!(m.ff && m.rw) && (!a.planes || m.sp == .generic || m.sp == .global)) = true := by simp [f7, f9]
  simp only [decM, e1, e2, e3, e4, e5, e6, e7, e8, e9, e10, e11, decTgt_enc, decSpace_enc, decBool_enc, flagBad_ok _ _ f1, flagBad_ok _ _ f2,
    flagBad_ok _ _ f3, flagBad_ok _ _ f4, flagBad_ok _ _ f5, flagBad_ok _ _ f6, hs, hv, worst_zero, zero_zero, must_true, BitVec.ofNat_toNat,
    BitVec.setWidth_eq]

/-! Matrix words. -/
theorem encK_lt (op : Opcode) (k : KForm) (r : KRes) :
    1 + 4 * op.code + 1024 * encPred k.pr + 4096 * encTgt r.t0 + 4194304 * encTgt r.t1 < 4294967296 := by
  have := code_lt op; have := encPred_lt k.pr; have := encTgt_lt r.t0; have := encTgt_lt r.t1
  omega
theorem encK1_lt (k : KForm) (r : KRes) : encTgt r.t2 + 1024 * k.msid.toNat < 16384 := by
  have := encTgt_lt r.t2; have := k.msid.isLt
  omega
theorem encK_fields (op : Opcode) (k : KForm) (r : KRes) :
    let w := 1 + 4 * op.code + 1024 * encPred k.pr + 4096 * encTgt r.t0 + 4194304 * encTgt r.t1
    w % 4 = 1 ∧ fld w 2 256 = op.code ∧ fld w 10 4 = encPred k.pr ∧ fld w 12 1024 = encTgt r.t0 ∧ fld w 22 1024 = encTgt r.t1 ∧
    fld w 12 1048576 = encTgt r.t0 + 1024 * encTgt r.t1 := by
  have := code_lt op; have := encPred_lt k.pr; have := encTgt_lt r.t0; have := encTgt_lt r.t1
  simp only [fld]
  norm_num only
  omega
theorem encK1_fields (k : KForm) (r : KRes) :
    let w := encTgt r.t2 + 1024 * k.msid.toNat
    fld w 0 1024 = encTgt r.t2 ∧ fld w 10 16 = k.msid.toNat ∧ w / 16384 = 0 := by
  have := encTgt_lt r.t2; have := k.msid.isLt
  simp only [fld]
  norm_num only
  omega

/-! Whole slots. -/
/-- The form's LEN. -/
def Form.len : Form → Nat
  | .rr _ | .rw _ | .j _ | .b _ | .p _ => 0
  | .x .. | .px .. | .k .. => 1
  | .imm _ (.word ..) => 1
  | .imm _ (.lit _) => 2
  | .imm _ (.litX ..) => 3
  | .v _ _ _ l | .m _ _ l => if l.isSome then 3 else 1
/-- No target is named. -/
def noTargets (b : BForm) (t2 : Target) : Bool := b.t0.isNone && b.t1.isNone && t2.isNone
/-- The opcode admits the form with these fields. -/
def Raw.fits (r : Raw) : Bool :=
  r.op.lens.contains r.form.len &&
  match r.form with
  | .rr f => r.op.layout == .rr && decide (f.reg.toNat < r.op.regs)
  | .rw f => r.op.layout == .rw && decide (f.reg.toNat < r.op.regs)
  | .j _ => r.op.layout == .j
  | .b _ => r.op.layout == .vec || (r.op.layout == .gen && !r.op.noResult)
  | .p _ => r.op.layout == .gen && r.op.noResult
  | .x _ _ w2 => r.op.layout == .gen && !r.op.noResult && !r.op.hasImm && r.op.w2Bad w2.toNat == 0
  | .px _ w2 => r.op.layout == .gen && r.op.noResult && r.op.w2Bad w2.toNat == 0
  | .imm _ _ => r.op.layout == .gen && !r.op.noResult && r.op.hasImm
  | .v _ v w2 _ => r.op.layout == .vec && vwordOk v && r.op.w2Bad w2.toNat == 0
  | .m b m l => r.op.layout == .mem && mwordOk r.op.accepts m && (!r.op.noResult || noTargets b m.t2) &&
      (match l with | some v => r.op.litBad v.toNat == 0 | none => true)
  | .k _ x w2 => r.op.layout == .mx && (!r.op.noResult || (x.t0.isNone && x.t1.isNone && x.t2.isNone)) && r.op.w2Bad w2.toNat == 0

/-- What the decoder does with a first word whose OP, LEN and PR are in order. -/
theorem decodeSlot_of (ws : List Word32) (op : Opcode) (len : Nat) (x : Word32) (l : List Word32) (hw : ws = x :: l) (h1 : x.toNat % 4 = len)
    (h2 : fld x.toNat 2 256 = op.code) (h3 : fld x.toNat 10 4 ≠ 1) (h4 : op.lens.contains len = true) (h5 : lenWords len ≤ ws.length) (f : Form)
    (h6 : (if len = 0 then decForm op 0 x.toNat 0 0 0 else if len = 2 then decForm op 2 x.toNat 0 0 (litAt ws 1)
      else decForm op len x.toNat (wordAt ws 1) (wordAt ws 2) (if len = 3 then litAt ws 3 else 0)) = ⟨f, 0⟩) :
    decodeSlot ws = .ok ⟨op, f⟩ (lenWords len) := by
  subst hw
  unfold decodeSlot
  simp only [wordAt_cons, h1, h2, opcodeOf_code, h4, Bool.not_true, Bool.false_eq_true, if_false, h3, if_neg (Nat.not_lt.2 h5)]
  rw [h6]; rfl

theorem toNat_ofNat_lt {n : Nat} (h : n < 4294967296) : (BitVec.ofNat 32 n).toNat = n := by simp [Nat.mod_eq_of_lt h]
theorem lit_word (v : Word) (l : List Word32) :
    litAt (BitVec.ofNat 32 (v.toNat % 4294967296) :: BitVec.ofNat 32 (v.toNat / 4294967296) :: l) 0 = v.toNat := litAt_cons v l

/-- The decoder reads back what the encoder gives, whatever words follow. -/
theorem decodeSlot_encode (r : Raw) (ws : List Word32) (h : r.fits = true) :
    decodeSlot (encodeRaw r ++ ws) = .ok r (encodeRaw r).length := by
  obtain ⟨op, f⟩ := r
  simp only [Raw.fits, Bool.and_eq_true] at h
  obtain ⟨hl, hf⟩ := h
  have hc := code_lt op
  cases f with
  | rr f =>
    simp only [Form.len] at hl
    simp only [Bool.and_eq_true, beq_iff_eq, decide_eq_true_eq] at hf
    have h1 := encPred_lt f.pr; have h2 := f.reg.isLt; have h3 := encTgt_lt f.t0
    have hlt : 4 * op.code + 1024 * encPred f.pr + 4096 * f.reg.toNat + 262144 * encTgt f.t0 < 4294967296 := by omega
    refine decodeSlot_of _ op 0 _ _ rfl ?_ ?_ ?_ hl (by simp [encodeRaw, encForm, lenWords]) _ ?_
    · rw [toNat_ofNat_lt hlt]; omega
    · rw [toNat_ofNat_lt hlt]; simp only [fld]; norm_num only; omega
    · rw [toNat_ofNat_lt hlt]; have := encPred_ne f.pr; simp only [fld]; norm_num only; omega
    · rw [if_pos rfl, toNat_ofNat_lt hlt]
      have e1 : fld (4 * op.code + 1024 * encPred f.pr + 4096 * f.reg.toNat + 262144 * encTgt f.t0) 18 1024 = encTgt f.t0 := by
        simp only [fld]; norm_num only; omega
      have e2 : fld (4 * op.code + 1024 * encPred f.pr + 4096 * f.reg.toNat + 262144 * encTgt f.t0) 10 4 = encPred f.pr := by
        simp only [fld]; norm_num only; omega
      have e3 : fld (4 * op.code + 1024 * encPred f.pr + 4096 * f.reg.toNat + 262144 * encTgt f.t0) 12 64 = f.reg.toNat := by
        simp only [fld]; norm_num only; omega
      have e4 : fld (4 * op.code + 1024 * encPred f.pr + 4096 * f.reg.toNat + 262144 * encTgt f.t0) 28 16 = 0 := by
        simp only [fld]; norm_num only; omega
      simp [decForm, hf.1, e1, e2, e3, e4, hf.2]
  | rw f =>
    simp only [Form.len] at hl
    simp only [Bool.and_eq_true, beq_iff_eq, decide_eq_true_eq] at hf
    have h1 := encPred_lt f.pr; have h2 := f.reg.isLt
    have hlt : 4 * op.code + 1024 * encPred f.pr + 4096 * f.reg.toNat < 4294967296 := by omega
    refine decodeSlot_of _ op 0 _ _ rfl ?_ ?_ ?_ hl (by simp [encodeRaw, encForm, lenWords]) _ ?_
    · rw [toNat_ofNat_lt hlt]; omega
    · rw [toNat_ofNat_lt hlt]; simp only [fld]; norm_num only; omega
    · rw [toNat_ofNat_lt hlt]; have := encPred_ne f.pr; simp only [fld]; norm_num only; omega
    · rw [if_pos rfl, toNat_ofNat_lt hlt]
      have e2 : fld (4 * op.code + 1024 * encPred f.pr + 4096 * f.reg.toNat) 10 4 = encPred f.pr := by
        simp only [fld]; norm_num only; omega
      have e3 : fld (4 * op.code + 1024 * encPred f.pr + 4096 * f.reg.toNat) 12 64 = f.reg.toNat := by
        simp only [fld]; norm_num only; omega
      have e4 : fld (4 * op.code + 1024 * encPred f.pr + 4096 * f.reg.toNat) 18 16384 = 0 := by
        simp only [fld]; norm_num only; omega
      simp [decForm, hf.1, e2, e3, e4, hf.2]
  | j f =>
    simp only [Form.len] at hl
    simp only [beq_iff_eq] at hf
    have h1 := encPred_lt f.pr; have h2 := f.offset.isLt
    have hlt : 4 * op.code + 1024 * encPred f.pr + 4096 * f.offset.toNat < 4294967296 := by omega
    refine decodeSlot_of _ op 0 _ _ rfl ?_ ?_ ?_ hl (by simp [encodeRaw, encForm, lenWords]) _ ?_
    · rw [toNat_ofNat_lt hlt]; omega
    · rw [toNat_ofNat_lt hlt]; simp only [fld]; norm_num only; omega
    · rw [toNat_ofNat_lt hlt]; have := encPred_ne f.pr; simp only [fld]; norm_num only; omega
    · rw [if_pos rfl, toNat_ofNat_lt hlt]
      have e2 : fld (4 * op.code + 1024 * encPred f.pr + 4096 * f.offset.toNat) 10 4 = encPred f.pr := by
        simp only [fld]; norm_num only; omega
      have e3 : fld (4 * op.code + 1024 * encPred f.pr + 4096 * f.offset.toNat) 12 1048576 = f.offset.toNat := by
        simp only [fld]; norm_num only; omega
      simp [decForm, hf, e2, e3]
  | b b =>
    simp only [Form.len] at hl
    have hx := encB_fields op 0 b (by decide); have hlt := encB_lt op 0 b (by decide)
    refine decodeSlot_of _ op 0 _ _ rfl ?_ ?_ ?_ hl (by simp [encodeRaw, encForm, lenWords]) _ ?_
    · rw [toNat_ofNat_lt hlt]; exact hx.1
    · rw [toNat_ofNat_lt hlt]; exact hx.2.1
    · rw [toNat_ofNat_lt hlt, hx.2.2.1]; exact encPred_ne _
    · rw [if_pos rfl, toNat_ofNat_lt hlt]
      simp only [Bool.or_eq_true, beq_iff_eq, Bool.and_eq_true, Bool.not_eq_true'] at hf
      rcases hf with hf | ⟨hf, hn⟩
      · simp [decForm, hf, decB_enc]
      · simp [decForm, hf, hn, decB_enc]
  | p p =>
    simp only [Form.len] at hl
    simp only [Bool.and_eq_true, beq_iff_eq] at hf
    have hx := encP_fields op 0 p (by decide); have hlt : encP op 0 p < 4294967296 := lt_trans (encP_lt op 0 p (by decide)) (by decide)
    refine decodeSlot_of _ op 0 _ _ rfl ?_ ?_ ?_ hl (by simp [encodeRaw, encForm, lenWords]) _ ?_
    · rw [toNat_ofNat_lt hlt]; exact hx.1
    · rw [toNat_ofNat_lt hlt]; exact hx.2.1
    · rw [toNat_ofNat_lt hlt, hx.2.2.1]; exact encPred_ne _
    · rw [if_pos rfl, toNat_ofNat_lt hlt]
      simp [decForm, hf.1, hf.2, decP_enc]
  | x b x w2 =>
    simp only [Form.len] at hl
    simp only [Bool.and_eq_true, beq_iff_eq, Bool.not_eq_true'] at hf
    obtain ⟨⟨⟨h1, h2⟩, h3⟩, h4⟩ := hf
    have hx := encB_fields op 1 b (by decide); have hlt := encB_lt op 1 b (by decide)
    refine decodeSlot_of _ op 1 _ _ rfl ?_ ?_ ?_ hl (by simp [encodeRaw, encForm, lenWords]) _ ?_
    · rw [toNat_ofNat_lt hlt]; exact hx.1
    · rw [toNat_ofNat_lt hlt]; exact hx.2.1
    · rw [toNat_ofNat_lt hlt, hx.2.2.1]; exact encPred_ne _
    · rw [if_neg (by decide), if_neg (by decide), toNat_ofNat_lt hlt]
      have := encExt_lt x
      simp [decForm, encodeRaw, encForm, List.append_eq, h1, h2, h3, h4, decB_enc, decExt_enc, wordAt_one, wordAt_two, Nat.mod_eq_of_lt (show encExt x < 4294967296 by omega)]
  | px p w2 =>
    simp only [Form.len] at hl
    simp only [Bool.and_eq_true, beq_iff_eq] at hf
    obtain ⟨⟨h1, h2⟩, h3⟩ := hf
    have hx := encP_fields op 1 p (by decide); have hlt : encP op 1 p < 4294967296 := lt_trans (encP_lt op 1 p (by decide)) (by decide)
    refine decodeSlot_of _ op 1 _ _ rfl ?_ ?_ ?_ hl (by simp [encodeRaw, encForm, lenWords]) _ ?_
    · rw [toNat_ofNat_lt hlt]; exact hx.1
    · rw [toNat_ofNat_lt hlt]; exact hx.2.1
    · rw [toNat_ofNat_lt hlt, hx.2.2.1]; exact encPred_ne _
    · rw [if_neg (by decide), if_neg (by decide), toNat_ofNat_lt hlt]
      simp [decForm, encodeRaw, encForm, List.append_eq, h1, h2, h3, decP_enc, wordAt_one, wordAt_two]
  | imm b m =>
    simp only [Bool.and_eq_true, beq_iff_eq, Bool.not_eq_true'] at hf
    obtain ⟨⟨h1, h2⟩, h3⟩ := hf
    cases m with
    | word x v =>
      simp only [Form.len] at hl
      have hx := encB_fields op 1 b (by decide); have hlt := encB_lt op 1 b (by decide)
      refine decodeSlot_of _ op 1 _ _ rfl ?_ ?_ ?_ hl (by simp [encodeRaw, encForm, lenWords]) _ ?_
      · rw [toNat_ofNat_lt hlt]; exact hx.1
      · rw [toNat_ofNat_lt hlt]; exact hx.2.1
      · rw [toNat_ofNat_lt hlt, hx.2.2.1]; exact encPred_ne _
      · rw [if_neg (by decide), if_neg (by decide), toNat_ofNat_lt hlt]
        have := encExt_lt x
        simp [decForm, encodeRaw, encForm, List.append_eq, h1, h2, h3, decB_enc, decExt_enc, wordAt_one, wordAt_two, Nat.mod_eq_of_lt (show encExt x < 4294967296 by omega)]
    | lit v =>
      simp only [Form.len] at hl
      have hx := encB_fields op 2 b (by decide); have hlt := encB_lt op 2 b (by decide)
      refine decodeSlot_of _ op 2 _ _ rfl ?_ ?_ ?_ hl (by simp [encodeRaw, encForm, lenWords]) _ ?_
      · rw [toNat_ofNat_lt hlt]; exact hx.1
      · rw [toNat_ofNat_lt hlt]; exact hx.2.1
      · rw [toNat_ofNat_lt hlt, hx.2.2.1]; exact encPred_ne _
      · rw [if_neg (by decide), if_pos rfl, toNat_ofNat_lt hlt]
        simp only [encodeRaw, encForm, List.map_cons, List.map_nil, List.append_eq, List.cons_append, List.nil_append]
        rw [litAt_one, litAt_cons]
        simp [decForm, h1, h2, h3, decB_enc]
    | litX x v =>
      simp only [Form.len] at hl
      have hx := encB_fields op 3 b (by decide); have hlt := encB_lt op 3 b (by decide)
      refine decodeSlot_of _ op 3 _ _ rfl ?_ ?_ ?_ hl (by simp [encodeRaw, encForm, lenWords]) _ ?_
      · rw [toNat_ofNat_lt hlt]; exact hx.1
      · rw [toNat_ofNat_lt hlt]; exact hx.2.1
      · rw [toNat_ofNat_lt hlt, hx.2.2.1]; exact encPred_ne _
      · rw [if_neg (by decide), if_neg (by decide), if_pos rfl, toNat_ofNat_lt hlt]
        have := encExt_lt x
        simp only [encodeRaw, encForm, List.map_cons, List.map_nil, List.append_eq, List.cons_append, List.nil_append]
        rw [wordAt_one, wordAt_two, litAt_three, litAt_cons, toNat_ofNat_lt (show encExt x < 4294967296 by omega)]
        simp [decForm, h1, h2, h3, decB_enc, decExt_enc]
  | v b v w2 l =>
    simp only [Bool.and_eq_true, beq_iff_eq] at hf
    obtain ⟨⟨h1, h2⟩, h3⟩ := hf
    have hv := encV_lt v
    cases l with
    | none =>
      simp only [Form.len] at hl
      have hx := encB_fields op 1 b (by decide); have hlt := encB_lt op 1 b (by decide)
      refine decodeSlot_of _ op 1 _ _ rfl ?_ ?_ ?_ hl (by simp [encodeRaw, encForm, lenWords]) _ ?_
      · rw [toNat_ofNat_lt hlt]; exact hx.1
      · rw [toNat_ofNat_lt hlt]; exact hx.2.1
      · rw [toNat_ofNat_lt hlt, hx.2.2.1]; exact encPred_ne _
      · rw [if_neg (by decide), if_neg (by decide), toNat_ofNat_lt hlt]
        simp [decForm, encodeRaw, encForm, List.append_eq, h1, h3, decB_enc, decV_enc v h2, wordAt_one, wordAt_two, Nat.mod_eq_of_lt (show encV v < 4294967296 by omega)]
    | some v' =>
      simp only [Form.len] at hl
      have hx := encB_fields op 3 b (by decide); have hlt := encB_lt op 3 b (by decide)
      refine decodeSlot_of _ op 3 _ _ rfl ?_ ?_ ?_ hl (by simp [encodeRaw, encForm, lenWords]) _ ?_
      · rw [toNat_ofNat_lt hlt]; exact hx.1
      · rw [toNat_ofNat_lt hlt]; exact hx.2.1
      · rw [toNat_ofNat_lt hlt, hx.2.2.1]; exact encPred_ne _
      · rw [if_neg (by decide), if_neg (by decide), if_pos rfl, toNat_ofNat_lt hlt]
        simp only [encodeRaw, encForm, List.map_cons, List.map_nil, List.append_eq, List.cons_append, List.nil_append]
        rw [wordAt_one, wordAt_two, litAt_three, litAt_cons, toNat_ofNat_lt (show encV v < 4294967296 by omega)]
        simp only [BitVec.ofNat_toNat, BitVec.setWidth_eq]
        simp [decForm, h1, h3, decB_enc, decV_enc v h2]
  | m b m l =>
    simp only [Bool.and_eq_true, beq_iff_eq] at hf
    obtain ⟨⟨⟨h1, h2⟩, h3⟩, h4⟩ := hf
    have hm := encM_lt m
    have hn (len : Nat) (hlen : len < 4) : (if op.noResult = true then noRes (encB op len b) (encM m) else 0) = 0 := by
      cases hr : op.noResult with
      | false => rfl
      | true =>
        simp only [hr, Bool.not_true, Bool.false_or, noTargets, Bool.and_eq_true, Option.isNone_iff_eq_none] at h3
        obtain ⟨⟨i1, i2⟩, i3⟩ := h3
        have := encPred_lt b.pr
        have e1 : fld (encB op len b) 12 1048576 = 0 := by
          simp only [encB, i1, i2, encTgt, fld]; norm_num only; omega
        have e2 : fld (encM m) 0 1024 = 0 := by
          simp only [encM, i3, encTgt, fld]; norm_num only; omega
        simp [noRes, e1, e2]
    cases l with
    | none =>
      simp only [Form.len] at hl
      have hx := encB_fields op 1 b (by decide); have hlt := encB_lt op 1 b (by decide)
      refine decodeSlot_of _ op 1 _ _ rfl ?_ ?_ ?_ hl (by simp [encodeRaw, encForm, lenWords]) _ ?_
      · rw [toNat_ofNat_lt hlt]; exact hx.1
      · rw [toNat_ofNat_lt hlt]; exact hx.2.1
      · rw [toNat_ofNat_lt hlt, hx.2.2.1]; exact encPred_ne _
      · rw [if_neg (by decide), if_neg (by decide), toNat_ofNat_lt hlt]
        simp only [encodeRaw, encForm, List.map_cons, List.map_nil, List.append_eq, List.cons_append, List.nil_append]
        rw [wordAt_one, wordAt_two, toNat_ofNat_lt (show encM m < 4294967296 by omega)]
        simp only [BitVec.ofNat_toNat, BitVec.setWidth_eq]
        simp [decForm, h1, decB_enc, decM_enc _ m h2, hn 1 (by decide)]
    | some v' =>
      simp only [Form.len] at hl
      have hx := encB_fields op 3 b (by decide); have hlt := encB_lt op 3 b (by decide)
      refine decodeSlot_of _ op 3 _ _ rfl ?_ ?_ ?_ hl (by simp [encodeRaw, encForm, lenWords]) _ ?_
      · rw [toNat_ofNat_lt hlt]; exact hx.1
      · rw [toNat_ofNat_lt hlt]; exact hx.2.1
      · rw [toNat_ofNat_lt hlt, hx.2.2.1]; exact encPred_ne _
      · rw [if_neg (by decide), if_neg (by decide), if_pos rfl, toNat_ofNat_lt hlt]
        simp only [encodeRaw, encForm, List.map_cons, List.map_nil, List.append_eq, List.cons_append, List.nil_append]
        rw [wordAt_one, wordAt_two, litAt_three, litAt_cons, toNat_ofNat_lt (show encM m < 4294967296 by omega)]
        simp only [BitVec.ofNat_toNat, BitVec.setWidth_eq]
        simp only [beq_iff_eq] at h4
        simp [decForm, h1, decB_enc, decM_enc _ m h2, hn 3 (by decide), h4]
  | k k x w2 =>
    simp only [Form.len] at hl
    simp only [Bool.and_eq_true, beq_iff_eq] at hf
    obtain ⟨⟨h1, h2⟩, h3⟩ := hf
    have hx := encK_fields op k x; have hlt := encK_lt op k x; have hy := encK1_fields k x; have hlt1 := encK1_lt k x
    simp only at hx hy
    refine decodeSlot_of _ op 1 _ _ rfl ?_ ?_ ?_ hl (by simp [encodeRaw, encForm, lenWords]) _ ?_
    · rw [toNat_ofNat_lt hlt]; exact hx.1
    · rw [toNat_ofNat_lt hlt]; exact hx.2.1
    · rw [toNat_ofNat_lt hlt, hx.2.2.1]; exact encPred_ne _
    · rw [if_neg (by decide), if_neg (by decide), toNat_ofNat_lt hlt]
      simp only [encodeRaw, encForm, List.map_cons, List.map_nil, List.append_eq, List.cons_append, List.nil_append]
      rw [wordAt_one, wordAt_two, toNat_ofNat_lt (show encTgt x.t2 + 1024 * k.msid.toNat < 4294967296 by omega)]
      simp only [BitVec.ofNat_toNat, BitVec.setWidth_eq]
      cases hr : op.noResult with
      | false => simp [decForm, h1, hr, h3, decK, decKR, hx, hy]
      | true =>
        simp only [hr, Bool.not_true, Bool.false_or, Bool.and_eq_true, Option.isNone_iff_eq_none] at h2
        obtain ⟨⟨i1, i2⟩, i3⟩ := h2
        obtain ⟨x0, x1, x2⟩ := x
        simp only at i1 i2 i3
        subst i1 i2 i3
        simp only [encTgt, Nat.mul_zero, Nat.add_zero, Nat.zero_add] at hx hy ⊢
        simp [decForm, h1, hr, h3, decK, decKR, noRes, hx, hy, decTgt]

/-! When a form fits its opcode. -/
theorem fits_rr (op : Opcode) (f : RRead) (h : op.lens.contains 0 = true) (hl : op.layout = .rr) (hr : f.reg.toNat < op.regs) :
    Raw.fits ⟨op, .rr f⟩ = true := by unfold Raw.fits; simp only [Form.len, h, hl]; simp [hr]
theorem fits_rw (op : Opcode) (f : RWrite) (h : op.lens.contains 0 = true) (hl : op.layout = .rw) (hr : f.reg.toNat < op.regs) :
    Raw.fits ⟨op, .rw f⟩ = true := by unfold Raw.fits; simp only [Form.len, h, hl]; simp [hr]
theorem fits_j (op : Opcode) (f : JForm) (h : op.lens.contains 0 = true) (hl : op.layout = .j) : Raw.fits ⟨op, .j f⟩ = true := by
  unfold Raw.fits; simp only [Form.len, h, hl]; simp
theorem fits_b (op : Opcode) (f : BForm) (h : op.lens.contains 0 = true) (hl : op.layout = .vec ∨ (op.layout = .gen ∧ op.noResult = false)) :
    Raw.fits ⟨op, .b f⟩ = true := by
  unfold Raw.fits; simp only [Form.len, h]
  rcases hl with hl | ⟨hl, hn⟩
  · simp [hl]
  · simp [hl, hn]
theorem fits_p (op : Opcode) (p : Pred) (h : op.lens.contains 0 = true) (hl : op.layout = .gen) (hn : op.noResult = true) :
    Raw.fits ⟨op, .p p⟩ = true := by unfold Raw.fits; simp only [Form.len, h, hl, hn]; simp
theorem fits_x (op : Opcode) (b : BForm) (x : Ext) (w : Word32) (h : op.lens.contains 1 = true) (hl : op.layout = .gen) (hn : op.noResult = false)
    (hi : op.hasImm = false) (hw : op.w2Bad w.toNat = 0) : Raw.fits ⟨op, .x b x w⟩ = true := by
  unfold Raw.fits; simp only [Form.len, h, hl, hn, hi, hw]; simp
theorem fits_px (op : Opcode) (p : Pred) (w : Word32) (h : op.lens.contains 1 = true) (hl : op.layout = .gen) (hn : op.noResult = true)
    (hw : op.w2Bad w.toNat = 0) : Raw.fits ⟨op, .px p w⟩ = true := by
  unfold Raw.fits; simp only [Form.len, h, hl, hn, hw]; simp
theorem fits_imm (op : Opcode) (b : BForm) (m : Imm) (h : op.lens.contains 1 = true ∧ op.lens.contains 2 = true ∧ op.lens.contains 3 = true)
    (hl : op.layout = .gen) (hn : op.noResult = false) (hi : op.hasImm = true) : Raw.fits ⟨op, .imm b m⟩ = true := by
  unfold Raw.fits
  cases m <;> simp only [Form.len, h.1, h.2.1, h.2.2, hl, hn, hi] <;> simp
theorem fits_v (op : Opcode) (b : BForm) (v : VWord) (w : Word32) (l : Option Word) (h : op.lens.contains (if l.isSome then 3 else 1) = true)
    (hl : op.layout = .vec) (hv : vwordOk v = true) (hw : op.w2Bad w.toNat = 0) : Raw.fits ⟨op, .v b v w l⟩ = true := by
  unfold Raw.fits; simp only [Form.len, h, hl, hv, hw]; simp
theorem fits_m (op : Opcode) (b : BForm) (m : MWord) (l : Option Word) (h : op.lens.contains (if l.isSome then 3 else 1) = true)
    (hl : op.layout = .mem) (hm : mwordOk op.accepts m = true) (hn : op.noResult = true → noTargets b m.t2 = true)
    (hb : ∀ v, l = some v → op.litBad v.toNat = 0) : Raw.fits ⟨op, .m b m l⟩ = true := by
  unfold Raw.fits; simp only [Form.len, h, hl, hm]
  have h1 : (!op.noResult || noTargets b m.t2) = true := by cases hr : op.noResult <;> simp_all
  rw [h1]
  cases l with
  | none => rfl
  | some v => simp [hb v rfl]
theorem fits_k (op : Opcode) (k : KForm) (x : KRes) (w : Word32) (h : op.lens.contains 1 = true) (hl : op.layout = .mx)
    (hn : op.noResult = true → x = ⟨none, none, none⟩) (hw : op.w2Bad w.toNat = 0) : Raw.fits ⟨op, .k k x w⟩ = true := by
  unfold Raw.fits; simp only [Form.len, h, hl, hw]
  cases hr : op.noResult with
  | false => simp
  | true => simp [hn hr]

end Sys2Proof
end

