-- ==== Sys2Proof/Laws/Memory.lean ====
section
/-! SUPPORT. What each operation over memory does: it keeps the canonical form; a read after a write gives the byte written there, and
every other byte as it was. -/
set_option Elab.async false
set_option linter.unusedSimpArgs false
set_option linter.unusedVariables false
namespace Sys2Proof.Machine

theorem writeByte_wf (m : Memory) (k : Nat) (b : Byte) (h : m.wf = true) : (writeByte m k b).wf = true := mwf_mset _ m k b h

theorem writeBytes_wf (l : List Byte) : ∀ (m : Memory) (k : Nat), m.wf = true → (writeBytes m k l).wf = true := by
  induction l with
  | nil => intro m k h; exact h
  | cons b r ih => intro m k h; exact ih _ _ (writeByte_wf m k b h)

theorem foldl_wf {β : Type} (f : Memory → β → Memory) (hf : ∀ m b, m.wf = true → (f m b).wf = true) (l : List β) :
    ∀ (m : Memory), m.wf = true → (l.foldl f m).wf = true := by
  induction l with
  | nil => intro m h; exact h
  | cons b r ih => intro m h; exact ih _ (hf m b h)

theorem writeCells_wf (m : Memory) (l : List Host.Cell) (h : m.wf = true) : (writeCells m l).wf = true :=
  foldl_wf _ (fun m c h => writeByte_wf m c.1 c.2 h) l m h

theorem eraseRange_wf (m : Memory) (lo n : Nat) (h : m.wf = true) : (eraseRange m lo n).wf = true := mwf_filter _ m _ h

theorem filter_wf (m : Memory) (p : Host.Cell → Bool) (h : m.wf = true) : Memory.wf (m.filter p) = true := mwf_filter _ m p h

theorem readByte_writeByte_same (m : Memory) (k : Nat) (b : Byte) : readByte (writeByte m k b) k = b := mget_mset_same _ m k b

theorem readByte_writeByte_other (m : Memory) {k j : Nat} (b : Byte) (h : j ≠ k) : readByte (writeByte m k b) j = readByte m j :=
  mget_mset_other _ m b h

/-- A write of bytes leaves every byte outside them alone. -/
theorem readByte_writeBytes_other (l : List Byte) : ∀ (m : Memory) (k j : Nat), (j < k ∨ k + l.length ≤ j) →
    readByte (writeBytes m k l) j = readByte m j := by
  induction l with
  | nil => intro m k j _; rfl
  | cons b r ih =>
    intro m k j h
    simp only [List.length_cons] at h
    rw [writeBytes, ih _ _ _ (by omega), readByte_writeByte_other m b (by omega)]

/-- A write of bytes puts each in its place. -/
theorem readByte_writeBytes_at (l : List Byte) : ∀ (m : Memory) (k i : Nat) (h : i < l.length),
    readByte (writeBytes m k l) (k + i) = l[i] := by
  induction l with
  | nil => intro m k i h; simp at h
  | cons b r ih =>
    intro m k i h
    cases i with
    | zero => rw [writeBytes, readByte_writeBytes_other r _ _ _ (by omega)]; exact readByte_writeByte_same m k b
    | succ i =>
      have := ih (writeByte m k b) (k + 1) i (by simpa using h)
      rw [writeBytes]; rw [show k + (i + 1) = k + 1 + i by omega]; simpa using this

/-- Reading back the bytes written gives them. -/
theorem readBytes_writeBytes (l : List Byte) : ∀ (m : Memory) (k : Nat), readBytes (writeBytes m k l) k l.length = l := by
  have h : ∀ (n : Nat) (m : Memory) (k : Nat), readBytes m k n = (List.range n).map (fun i => readByte m (k + i)) := by
    intro n
    induction n with
    | zero => intro m k; rfl
    | succ n ih =>
      intro m k
      rw [readBytes, ih, List.range_succ_eq_map]
      simp [Function.comp_def, Nat.add_assoc, Nat.add_comm, Nat.add_left_comm]
  intro m k
  rw [h]
  apply List.ext_getElem
  · simp
  · intro i h1 h2
    simpa using readByte_writeBytes_at l m k i h2

/-- A write of cells leaves every byte that is not among them alone. -/
theorem readByte_writeCells_other (l : List Host.Cell) : ∀ (m : Memory) (j : Nat), (∀ c ∈ l, c.1 ≠ j) →
    readByte (writeCells m l) j = readByte m j := by
  induction l with
  | nil => intro m j _; rfl
  | cons c r ih =>
    intro m j h
    rw [writeCells, List.foldl_cons, ← writeCells, ih _ _ (fun x hx => h x (by simp [hx])),
      readByte_writeByte_other m c.2 (Ne.symm (h c (by simp)))]

/-- Reset's memory is in canonical form. -/
theorem reset_mem_wf : State.reset.mem.wf = true := rfl

end Sys2Proof.Machine
end

