-- ==== Sys2Proof/Laws/Interleave.lean ====
section
/-! SUPPORT. What a change of the interleave map does (R294): what is kept by address follows its DRAM place, memory in canonical form; threads,
and of a cluster all but the order of its superblocks and the places of its cached copies, stay. -/
set_option Elab.async false
set_option linter.unusedSimpArgs false
set_option linter.unusedVariables false
namespace Sys2Proof.Machine

theorem moveData_same (s : State) (il : NMap (Word × Word)) : s.moveData il il = s := by simp [State.moveData]

theorem moveData_mem (s : State) (il il' : NMap (Word × Word)) :
    (s.moveData il il').mem = (if il = il' then s.mem else writeCells [] (s.mem.map (fun e => (movedKey il il' e.1, e.2)))) := by
  unfold State.moveData; split <;> rfl

theorem moveData_wf (s : State) (il il' : NMap (Word × Word)) (h : s.mem.wf = true) : (s.moveData il il').mem.wf = true := by
  rw [moveData_mem]; split
  · exact h
  · exact writeCells_wf [] _ rfl

@[simp] theorem moveData_thread (s : State) (il il' : NMap (Word × Word)) (n : Nat) : (s.moveData il il').thread n = s.thread n := by
  unfold State.moveData; split <;> rfl

theorem mget_map {α : Type} (d : α) (g : α → α) (hg : g d = d) : ∀ (m : NMap α) (k : Nat), mget d (m.map (fun e => (e.1, g e.2))) k = g (mget d m k)
  | [], _ => hg.symm
  | (a, x) :: r, k => by
    have ih := mget_map d g hg r k
    simp only [List.map_cons, mget]
    repeat (first | split | assumption | exact hg.symm | rfl)

theorem moveData_cluster (s : State) (il il' : NMap (Word × Word)) (c : Nat) :
    (s.moveData il il').cluster c =
      { s.cluster c with lru := ((s.moveData il il').cluster c).lru, rdc := ((s.moveData il il').cluster c).rdc } := by
  obtain ⟨l, d, h⟩ : ∃ l d, (s.moveData il il').cluster c = { s.cluster c with lru := l, rdc := d } := by
    unfold State.moveData; split
    · exact ⟨_, _, rfl⟩
    · exact ⟨_, _, mget_map Cluster.start (fun k => { k with
        lru := k.lru.map (fun b => movedKey il il' (b * 512) / 512),
        rdc := k.rdc.map (fun c => { c with line := movedKey il il' (c.line * 128) / 128 }) }) rfl _ _⟩
  rw [h]

end Sys2Proof.Machine
end

