-- ==== Sys2Proof/Laws/Runs.lean ====
section
/-! SUPPORT. Each instruction of a block is its operand form fired by a body of its own, or so fired as a load: so that what is said of every
instruction at once needs one lemma about `runSlot`. -/
set_option Elab.async false
set_option linter.unusedSimpArgs false
set_option linter.unusedVariables false
set_option linter.unreachableTactic false
set_option linter.unusedTactic false
namespace Sys2Proof.Machine

/-- The instruction fires the slot in focus as the form `r`, by some body. -/
def Runs (i : Instr) (r : Raw) : Prop := ∃ body, (∀ s, exec i s = .next (runSlot r body s)) ∨ (∀ s, exec i s = .next (runLoad r body s))
theorem runs_rds f : Runs (.rds f) ⟨.rds, .rr f⟩ := by first | exact ⟨_, .inl (fun _ => rfl)⟩ | exact ⟨_, .inr (fun _ => rfl)⟩
theorem runs_rdv f : Runs (.rdv f) ⟨.rdv, .rr f⟩ := by first | exact ⟨_, .inl (fun _ => rfl)⟩ | exact ⟨_, .inr (fun _ => rfl)⟩
theorem runs_rdm f : Runs (.rdm f) ⟨.rdm, .rr f⟩ := by first | exact ⟨_, .inl (fun _ => rfl)⟩ | exact ⟨_, .inr (fun _ => rfl)⟩
theorem runs_wrs f : Runs (.wrs f) ⟨.wrs, .rw f⟩ := by first | exact ⟨_, .inl (fun _ => rfl)⟩ | exact ⟨_, .inr (fun _ => rfl)⟩
theorem runs_wrv f : Runs (.wrv f) ⟨.wrv, .rw f⟩ := by first | exact ⟨_, .inl (fun _ => rfl)⟩ | exact ⟨_, .inr (fun _ => rfl)⟩
theorem runs_wrm f : Runs (.wrm f) ⟨.wrm, .rw f⟩ := by first | exact ⟨_, .inl (fun _ => rfl)⟩ | exact ⟨_, .inr (fun _ => rfl)⟩
theorem runs_mov b : Runs (.mov b) ⟨.mov, .b b⟩ := by first | exact ⟨_, .inl (fun _ => rfl)⟩ | exact ⟨_, .inr (fun _ => rfl)⟩
theorem runs_movExt b x : Runs (.movExt b x) ⟨.mov, .x b x 0⟩ := by first | exact ⟨_, .inl (fun _ => rfl)⟩ | exact ⟨_, .inr (fun _ => rfl)⟩
theorem runs_null b : Runs (.null b) ⟨.null, .b b⟩ := by first | exact ⟨_, .inl (fun _ => rfl)⟩ | exact ⟨_, .inr (fun _ => rfl)⟩
theorem runs_nullExt b x : Runs (.nullExt b x) ⟨.null, .x b x 0⟩ := by first | exact ⟨_, .inl (fun _ => rfl)⟩ | exact ⟨_, .inr (fun _ => rfl)⟩
theorem runs_lit b m : Runs (.lit b m) ⟨.lit, .imm b m⟩ := by first | exact ⟨_, .inl (fun _ => rfl)⟩ | exact ⟨_, .inr (fun _ => rfl)⟩
theorem runs_pcb b : Runs (.pcb b) ⟨.pcb, .b b⟩ := by first | exact ⟨_, .inl (fun _ => rfl)⟩ | exact ⟨_, .inr (fun _ => rfl)⟩
theorem runs_pcbExt b m : Runs (.pcbExt b m) ⟨.pcb, .imm b m⟩ := by first | exact ⟨_, .inl (fun _ => rfl)⟩ | exact ⟨_, .inr (fun _ => rfl)⟩
theorem runs_br j : Runs (.br j) ⟨.br, .j j⟩ := by first | exact ⟨_, .inl (fun _ => rfl)⟩ | exact ⟨_, .inr (fun _ => rfl)⟩
theorem runs_bri p : Runs (.bri p) ⟨.bri, .p p⟩ := by first | exact ⟨_, .inl (fun _ => rfl)⟩ | exact ⟨_, .inr (fun _ => rfl)⟩
theorem runs_call j : Runs (.call j) ⟨.call, .j j⟩ := by first | exact ⟨_, .inl (fun _ => rfl)⟩ | exact ⟨_, .inr (fun _ => rfl)⟩
theorem runs_calli p : Runs (.calli p) ⟨.calli, .p p⟩ := by first | exact ⟨_, .inl (fun _ => rfl)⟩ | exact ⟨_, .inr (fun _ => rfl)⟩
theorem runs_yield j : Runs (.yield j) ⟨.yield, .j j⟩ := by first | exact ⟨_, .inl (fun _ => rfl)⟩ | exact ⟨_, .inr (fun _ => rfl)⟩
theorem runs_halt p : Runs (.halt p) ⟨.halt, .p p⟩ := by first | exact ⟨_, .inl (fun _ => rfl)⟩ | exact ⟨_, .inr (fun _ => rfl)⟩
theorem runs_sysc j : Runs (.sysc j) ⟨.sysc, .j j⟩ := by first | exact ⟨_, .inl (fun _ => rfl)⟩ | exact ⟨_, .inr (fun _ => rfl)⟩
theorem runs_trap p code : Runs (.trap p code) ⟨.trap, .px p (code.setWidth 32)⟩ := by first | exact ⟨_, .inl (fun _ => rfl)⟩ | exact ⟨_, .inr (fun _ => rfl)⟩
theorem runs_eret p : Runs (.eret p) ⟨.eret, .p p⟩ := by first | exact ⟨_, .inl (fun _ => rfl)⟩ | exact ⟨_, .inr (fun _ => rfl)⟩
theorem runs_csrr b x csr : Runs (.csrr b x csr) ⟨.csrr, .x b x (csr.setWidth 32)⟩ := by first | exact ⟨_, .inl (fun _ => rfl)⟩ | exact ⟨_, .inr (fun _ => rfl)⟩
theorem runs_csrw p csr : Runs (.csrw p csr) ⟨.csrw, .px p (csr.setWidth 32)⟩ := by first | exact ⟨_, .inl (fun _ => rfl)⟩ | exact ⟨_, .inr (fun _ => rfl)⟩
theorem runs_icinv p : Runs (.icinv p) ⟨.icinv, .p p⟩ := by first | exact ⟨_, .inl (fun _ => rfl)⟩ | exact ⟨_, .inr (fun _ => rfl)⟩
theorem runs_tlbinv p : Runs (.tlbinv p) ⟨.tlbinv, .p p⟩ := by first | exact ⟨_, .inl (fun _ => rfl)⟩ | exact ⟨_, .inr (fun _ => rfl)⟩
theorem runs_setvl b : Runs (.setvl b) ⟨.setvl, .b b⟩ := by first | exact ⟨_, .inl (fun _ => rfl)⟩ | exact ⟨_, .inr (fun _ => rfl)⟩
theorem runs_lclaim b : Runs (.lclaim b) ⟨.lclaim, .b b⟩ := by first | exact ⟨_, .inl (fun _ => rfl)⟩ | exact ⟨_, .inr (fun _ => rfl)⟩
theorem runs_add b : Runs (.add b) ⟨.add, .b b⟩ := by first | exact ⟨_, .inl (fun _ => rfl)⟩ | exact ⟨_, .inr (fun _ => rfl)⟩
theorem runs_addImm b m : Runs (.addImm b m) ⟨.add, .imm b m⟩ := by first | exact ⟨_, .inl (fun _ => rfl)⟩ | exact ⟨_, .inr (fun _ => rfl)⟩
theorem runs_sub b : Runs (.sub b) ⟨.sub, .b b⟩ := by first | exact ⟨_, .inl (fun _ => rfl)⟩ | exact ⟨_, .inr (fun _ => rfl)⟩
theorem runs_subImm b m : Runs (.subImm b m) ⟨.sub, .imm b m⟩ := by first | exact ⟨_, .inl (fun _ => rfl)⟩ | exact ⟨_, .inr (fun _ => rfl)⟩
theorem runs_mul b : Runs (.mul b) ⟨.mul, .b b⟩ := by first | exact ⟨_, .inl (fun _ => rfl)⟩ | exact ⟨_, .inr (fun _ => rfl)⟩
theorem runs_mulImm b m : Runs (.mulImm b m) ⟨.mul, .imm b m⟩ := by first | exact ⟨_, .inl (fun _ => rfl)⟩ | exact ⟨_, .inr (fun _ => rfl)⟩
theorem runs_mulh b : Runs (.mulh b) ⟨.mulh, .b b⟩ := by first | exact ⟨_, .inl (fun _ => rfl)⟩ | exact ⟨_, .inr (fun _ => rfl)⟩
theorem runs_mulhImm b m : Runs (.mulhImm b m) ⟨.mulh, .imm b m⟩ := by first | exact ⟨_, .inl (fun _ => rfl)⟩ | exact ⟨_, .inr (fun _ => rfl)⟩
theorem runs_mulhn b : Runs (.mulhn b) ⟨.mulhn, .b b⟩ := by first | exact ⟨_, .inl (fun _ => rfl)⟩ | exact ⟨_, .inr (fun _ => rfl)⟩
theorem runs_mulhnImm b m : Runs (.mulhnImm b m) ⟨.mulhn, .imm b m⟩ := by first | exact ⟨_, .inl (fun _ => rfl)⟩ | exact ⟨_, .inr (fun _ => rfl)⟩
theorem runs_div b : Runs (.div b) ⟨.div, .b b⟩ := by first | exact ⟨_, .inl (fun _ => rfl)⟩ | exact ⟨_, .inr (fun _ => rfl)⟩
theorem runs_divImm b m : Runs (.divImm b m) ⟨.div, .imm b m⟩ := by first | exact ⟨_, .inl (fun _ => rfl)⟩ | exact ⟨_, .inr (fun _ => rfl)⟩
theorem runs_divn b : Runs (.divn b) ⟨.divn, .b b⟩ := by first | exact ⟨_, .inl (fun _ => rfl)⟩ | exact ⟨_, .inr (fun _ => rfl)⟩
theorem runs_divnImm b m : Runs (.divnImm b m) ⟨.divn, .imm b m⟩ := by first | exact ⟨_, .inl (fun _ => rfl)⟩ | exact ⟨_, .inr (fun _ => rfl)⟩
theorem runs_rem b : Runs (.rem b) ⟨.rem, .b b⟩ := by first | exact ⟨_, .inl (fun _ => rfl)⟩ | exact ⟨_, .inr (fun _ => rfl)⟩
theorem runs_remImm b m : Runs (.remImm b m) ⟨.rem, .imm b m⟩ := by first | exact ⟨_, .inl (fun _ => rfl)⟩ | exact ⟨_, .inr (fun _ => rfl)⟩
theorem runs_remn b : Runs (.remn b) ⟨.remn, .b b⟩ := by first | exact ⟨_, .inl (fun _ => rfl)⟩ | exact ⟨_, .inr (fun _ => rfl)⟩
theorem runs_remnImm b m : Runs (.remnImm b m) ⟨.remn, .imm b m⟩ := by first | exact ⟨_, .inl (fun _ => rfl)⟩ | exact ⟨_, .inr (fun _ => rfl)⟩
theorem runs_and b : Runs (.and b) ⟨.and, .b b⟩ := by first | exact ⟨_, .inl (fun _ => rfl)⟩ | exact ⟨_, .inr (fun _ => rfl)⟩
theorem runs_andImm b m : Runs (.andImm b m) ⟨.and, .imm b m⟩ := by first | exact ⟨_, .inl (fun _ => rfl)⟩ | exact ⟨_, .inr (fun _ => rfl)⟩
theorem runs_or b : Runs (.or b) ⟨.or, .b b⟩ := by first | exact ⟨_, .inl (fun _ => rfl)⟩ | exact ⟨_, .inr (fun _ => rfl)⟩
theorem runs_orImm b m : Runs (.orImm b m) ⟨.or, .imm b m⟩ := by first | exact ⟨_, .inl (fun _ => rfl)⟩ | exact ⟨_, .inr (fun _ => rfl)⟩
theorem runs_xor b : Runs (.xor b) ⟨.xor, .b b⟩ := by first | exact ⟨_, .inl (fun _ => rfl)⟩ | exact ⟨_, .inr (fun _ => rfl)⟩
theorem runs_xorImm b m : Runs (.xorImm b m) ⟨.xor, .imm b m⟩ := by first | exact ⟨_, .inl (fun _ => rfl)⟩ | exact ⟨_, .inr (fun _ => rfl)⟩
theorem runs_andn b : Runs (.andn b) ⟨.andn, .b b⟩ := by first | exact ⟨_, .inl (fun _ => rfl)⟩ | exact ⟨_, .inr (fun _ => rfl)⟩
theorem runs_andnImm b m : Runs (.andnImm b m) ⟨.andn, .imm b m⟩ := by first | exact ⟨_, .inl (fun _ => rfl)⟩ | exact ⟨_, .inr (fun _ => rfl)⟩
theorem runs_shl b : Runs (.shl b) ⟨.shl, .b b⟩ := by first | exact ⟨_, .inl (fun _ => rfl)⟩ | exact ⟨_, .inr (fun _ => rfl)⟩
theorem runs_shlImm b m : Runs (.shlImm b m) ⟨.shl, .imm b m⟩ := by first | exact ⟨_, .inl (fun _ => rfl)⟩ | exact ⟨_, .inr (fun _ => rfl)⟩
theorem runs_shr b : Runs (.shr b) ⟨.shr, .b b⟩ := by first | exact ⟨_, .inl (fun _ => rfl)⟩ | exact ⟨_, .inr (fun _ => rfl)⟩
theorem runs_shrImm b m : Runs (.shrImm b m) ⟨.shr, .imm b m⟩ := by first | exact ⟨_, .inl (fun _ => rfl)⟩ | exact ⟨_, .inr (fun _ => rfl)⟩
theorem runs_sra b : Runs (.sra b) ⟨.sra, .b b⟩ := by first | exact ⟨_, .inl (fun _ => rfl)⟩ | exact ⟨_, .inr (fun _ => rfl)⟩
theorem runs_sraImm b m : Runs (.sraImm b m) ⟨.sra, .imm b m⟩ := by first | exact ⟨_, .inl (fun _ => rfl)⟩ | exact ⟨_, .inr (fun _ => rfl)⟩
theorem runs_rotl b : Runs (.rotl b) ⟨.rotl, .b b⟩ := by first | exact ⟨_, .inl (fun _ => rfl)⟩ | exact ⟨_, .inr (fun _ => rfl)⟩
theorem runs_rotlImm b m : Runs (.rotlImm b m) ⟨.rotl, .imm b m⟩ := by first | exact ⟨_, .inl (fun _ => rfl)⟩ | exact ⟨_, .inr (fun _ => rfl)⟩
theorem runs_min b : Runs (.min b) ⟨.min, .b b⟩ := by first | exact ⟨_, .inl (fun _ => rfl)⟩ | exact ⟨_, .inr (fun _ => rfl)⟩
theorem runs_minImm b m : Runs (.minImm b m) ⟨.min, .imm b m⟩ := by first | exact ⟨_, .inl (fun _ => rfl)⟩ | exact ⟨_, .inr (fun _ => rfl)⟩
theorem runs_max b : Runs (.max b) ⟨.max, .b b⟩ := by first | exact ⟨_, .inl (fun _ => rfl)⟩ | exact ⟨_, .inr (fun _ => rfl)⟩
theorem runs_maxImm b m : Runs (.maxImm b m) ⟨.max, .imm b m⟩ := by first | exact ⟨_, .inl (fun _ => rfl)⟩ | exact ⟨_, .inr (fun _ => rfl)⟩
theorem runs_minn b : Runs (.minn b) ⟨.minn, .b b⟩ := by first | exact ⟨_, .inl (fun _ => rfl)⟩ | exact ⟨_, .inr (fun _ => rfl)⟩
theorem runs_minnImm b m : Runs (.minnImm b m) ⟨.minn, .imm b m⟩ := by first | exact ⟨_, .inl (fun _ => rfl)⟩ | exact ⟨_, .inr (fun _ => rfl)⟩
theorem runs_maxn b : Runs (.maxn b) ⟨.maxn, .b b⟩ := by first | exact ⟨_, .inl (fun _ => rfl)⟩ | exact ⟨_, .inr (fun _ => rfl)⟩
theorem runs_maxnImm b m : Runs (.maxnImm b m) ⟨.maxn, .imm b m⟩ := by first | exact ⟨_, .inl (fun _ => rfl)⟩ | exact ⟨_, .inr (fun _ => rfl)⟩
theorem runs_clz b : Runs (.clz b) ⟨.clz, .b b⟩ := by first | exact ⟨_, .inl (fun _ => rfl)⟩ | exact ⟨_, .inr (fun _ => rfl)⟩
theorem runs_clzExt b x : Runs (.clzExt b x) ⟨.clz, .x b x 0⟩ := by first | exact ⟨_, .inl (fun _ => rfl)⟩ | exact ⟨_, .inr (fun _ => rfl)⟩
theorem runs_ctz b : Runs (.ctz b) ⟨.ctz, .b b⟩ := by first | exact ⟨_, .inl (fun _ => rfl)⟩ | exact ⟨_, .inr (fun _ => rfl)⟩
theorem runs_ctzExt b x : Runs (.ctzExt b x) ⟨.ctz, .x b x 0⟩ := by first | exact ⟨_, .inl (fun _ => rfl)⟩ | exact ⟨_, .inr (fun _ => rfl)⟩
theorem runs_popc b : Runs (.popc b) ⟨.popc, .b b⟩ := by first | exact ⟨_, .inl (fun _ => rfl)⟩ | exact ⟨_, .inr (fun _ => rfl)⟩
theorem runs_popcExt b x : Runs (.popcExt b x) ⟨.popc, .x b x 0⟩ := by first | exact ⟨_, .inl (fun _ => rfl)⟩ | exact ⟨_, .inr (fun _ => rfl)⟩
theorem runs_bswap b : Runs (.bswap b) ⟨.bswap, .b b⟩ := by first | exact ⟨_, .inl (fun _ => rfl)⟩ | exact ⟨_, .inr (fun _ => rfl)⟩
theorem runs_bswapExt b x : Runs (.bswapExt b x) ⟨.bswap, .x b x 0⟩ := by first | exact ⟨_, .inl (fun _ => rfl)⟩ | exact ⟨_, .inr (fun _ => rfl)⟩
theorem runs_sext b : Runs (.sext b) ⟨.sext, .b b⟩ := by first | exact ⟨_, .inl (fun _ => rfl)⟩ | exact ⟨_, .inr (fun _ => rfl)⟩
theorem runs_sextImm b m : Runs (.sextImm b m) ⟨.sext, .imm b m⟩ := by first | exact ⟨_, .inl (fun _ => rfl)⟩ | exact ⟨_, .inr (fun _ => rfl)⟩
theorem runs_zext b : Runs (.zext b) ⟨.zext, .b b⟩ := by first | exact ⟨_, .inl (fun _ => rfl)⟩ | exact ⟨_, .inr (fun _ => rfl)⟩
theorem runs_zextImm b m : Runs (.zextImm b m) ⟨.zext, .imm b m⟩ := by first | exact ⟨_, .inl (fun _ => rfl)⟩ | exact ⟨_, .inr (fun _ => rfl)⟩
theorem runs_bfx b : Runs (.bfx b) ⟨.bfx, .b b⟩ := by first | exact ⟨_, .inl (fun _ => rfl)⟩ | exact ⟨_, .inr (fun _ => rfl)⟩
theorem runs_bfxImm b m : Runs (.bfxImm b m) ⟨.bfx, .imm b m⟩ := by first | exact ⟨_, .inl (fun _ => rfl)⟩ | exact ⟨_, .inr (fun _ => rfl)⟩
theorem runs_bfi b : Runs (.bfi b) ⟨.bfi, .b b⟩ := by first | exact ⟨_, .inl (fun _ => rfl)⟩ | exact ⟨_, .inr (fun _ => rfl)⟩
theorem runs_bfiImm b m : Runs (.bfiImm b m) ⟨.bfi, .imm b m⟩ := by first | exact ⟨_, .inl (fun _ => rfl)⟩ | exact ⟨_, .inr (fun _ => rfl)⟩
theorem runs_sel b : Runs (.sel b) ⟨.sel, .b b⟩ := by first | exact ⟨_, .inl (fun _ => rfl)⟩ | exact ⟨_, .inr (fun _ => rfl)⟩
theorem runs_selImm b m : Runs (.selImm b m) ⟨.sel, .imm b m⟩ := by first | exact ⟨_, .inl (fun _ => rfl)⟩ | exact ⟨_, .inr (fun _ => rfl)⟩
theorem runs_teq b : Runs (.teq b) ⟨.teq, .b b⟩ := by first | exact ⟨_, .inl (fun _ => rfl)⟩ | exact ⟨_, .inr (fun _ => rfl)⟩
theorem runs_teqImm b m : Runs (.teqImm b m) ⟨.teq, .imm b m⟩ := by first | exact ⟨_, .inl (fun _ => rfl)⟩ | exact ⟨_, .inr (fun _ => rfl)⟩
theorem runs_tne b : Runs (.tne b) ⟨.tne, .b b⟩ := by first | exact ⟨_, .inl (fun _ => rfl)⟩ | exact ⟨_, .inr (fun _ => rfl)⟩
theorem runs_tneImm b m : Runs (.tneImm b m) ⟨.tne, .imm b m⟩ := by first | exact ⟨_, .inl (fun _ => rfl)⟩ | exact ⟨_, .inr (fun _ => rfl)⟩
theorem runs_tlt b : Runs (.tlt b) ⟨.tlt, .b b⟩ := by first | exact ⟨_, .inl (fun _ => rfl)⟩ | exact ⟨_, .inr (fun _ => rfl)⟩
theorem runs_tltImm b m : Runs (.tltImm b m) ⟨.tlt, .imm b m⟩ := by first | exact ⟨_, .inl (fun _ => rfl)⟩ | exact ⟨_, .inr (fun _ => rfl)⟩
theorem runs_tle b : Runs (.tle b) ⟨.tle, .b b⟩ := by first | exact ⟨_, .inl (fun _ => rfl)⟩ | exact ⟨_, .inr (fun _ => rfl)⟩
theorem runs_tleImm b m : Runs (.tleImm b m) ⟨.tle, .imm b m⟩ := by first | exact ⟨_, .inl (fun _ => rfl)⟩ | exact ⟨_, .inr (fun _ => rfl)⟩
theorem runs_tltn b : Runs (.tltn b) ⟨.tltn, .b b⟩ := by first | exact ⟨_, .inl (fun _ => rfl)⟩ | exact ⟨_, .inr (fun _ => rfl)⟩
theorem runs_tltnImm b m : Runs (.tltnImm b m) ⟨.tltn, .imm b m⟩ := by first | exact ⟨_, .inl (fun _ => rfl)⟩ | exact ⟨_, .inr (fun _ => rfl)⟩
theorem runs_tlen b : Runs (.tlen b) ⟨.tlen, .b b⟩ := by first | exact ⟨_, .inl (fun _ => rfl)⟩ | exact ⟨_, .inr (fun _ => rfl)⟩
theorem runs_tlenImm b m : Runs (.tlenImm b m) ⟨.tlen, .imm b m⟩ := by first | exact ⟨_, .inl (fun _ => rfl)⟩ | exact ⟨_, .inr (fun _ => rfl)⟩
theorem runs_tbit b : Runs (.tbit b) ⟨.tbit, .b b⟩ := by first | exact ⟨_, .inl (fun _ => rfl)⟩ | exact ⟨_, .inr (fun _ => rfl)⟩
theorem runs_tbitImm b m : Runs (.tbitImm b m) ⟨.tbit, .imm b m⟩ := by first | exact ⟨_, .inl (fun _ => rfl)⟩ | exact ⟨_, .inr (fun _ => rfl)⟩
theorem runs_sptest b : Runs (.sptest b) ⟨.sptest, .b b⟩ := by first | exact ⟨_, .inl (fun _ => rfl)⟩ | exact ⟨_, .inr (fun _ => rfl)⟩
theorem runs_sptestExt b x : Runs (.sptestExt b x) ⟨.sptest, .x b x 0⟩ := by first | exact ⟨_, .inl (fun _ => rfl)⟩ | exact ⟨_, .inr (fun _ => rfl)⟩
theorem runs_spcast b : Runs (.spcast b) ⟨.spcast, .b b⟩ := by first | exact ⟨_, .inl (fun _ => rfl)⟩ | exact ⟨_, .inr (fun _ => rfl)⟩
theorem runs_spcastImm b m : Runs (.spcastImm b m) ⟨.spcast, .imm b m⟩ := by first | exact ⟨_, .inl (fun _ => rfl)⟩ | exact ⟨_, .inr (fun _ => rfl)⟩
theorem runs_padd b : Runs (.padd b) ⟨.padd, .b b⟩ := by first | exact ⟨_, .inl (fun _ => rfl)⟩ | exact ⟨_, .inr (fun _ => rfl)⟩
theorem runs_paddImm b m : Runs (.paddImm b m) ⟨.padd, .imm b m⟩ := by first | exact ⟨_, .inl (fun _ => rfl)⟩ | exact ⟨_, .inr (fun _ => rfl)⟩
theorem runs_vadd b : Runs (.vadd b) ⟨.vadd, .b b⟩ := by first | exact ⟨_, .inl (fun _ => rfl)⟩ | exact ⟨_, .inr (fun _ => rfl)⟩
theorem runs_vaddExt b v : Runs (.vaddExt b v) ⟨.vadd, .v b v 0 none⟩ := by first | exact ⟨_, .inl (fun _ => rfl)⟩ | exact ⟨_, .inr (fun _ => rfl)⟩
theorem runs_vsub b : Runs (.vsub b) ⟨.vsub, .b b⟩ := by first | exact ⟨_, .inl (fun _ => rfl)⟩ | exact ⟨_, .inr (fun _ => rfl)⟩
theorem runs_vsubExt b v : Runs (.vsubExt b v) ⟨.vsub, .v b v 0 none⟩ := by first | exact ⟨_, .inl (fun _ => rfl)⟩ | exact ⟨_, .inr (fun _ => rfl)⟩
theorem runs_vmul b : Runs (.vmul b) ⟨.vmul, .b b⟩ := by first | exact ⟨_, .inl (fun _ => rfl)⟩ | exact ⟨_, .inr (fun _ => rfl)⟩
theorem runs_vmulExt b v : Runs (.vmulExt b v) ⟨.vmul, .v b v 0 none⟩ := by first | exact ⟨_, .inl (fun _ => rfl)⟩ | exact ⟨_, .inr (fun _ => rfl)⟩
theorem runs_vmulw b : Runs (.vmulw b) ⟨.vmulw, .b b⟩ := by first | exact ⟨_, .inl (fun _ => rfl)⟩ | exact ⟨_, .inr (fun _ => rfl)⟩
theorem runs_vmulwExt b v odd : Runs (.vmulwExt b v odd) ⟨.vmulw, .v b v (BitVec.ofNat 32 (encBool odd)) none⟩ := by first | exact ⟨_, .inl (fun _ => rfl)⟩ | exact ⟨_, .inr (fun _ => rfl)⟩
theorem runs_vfma b : Runs (.vfma b) ⟨.vfma, .b b⟩ := by first | exact ⟨_, .inl (fun _ => rfl)⟩ | exact ⟨_, .inr (fun _ => rfl)⟩
theorem runs_vfmaExt b v : Runs (.vfmaExt b v) ⟨.vfma, .v b v 0 none⟩ := by first | exact ⟨_, .inl (fun _ => rfl)⟩ | exact ⟨_, .inr (fun _ => rfl)⟩
theorem runs_vfms b : Runs (.vfms b) ⟨.vfms, .b b⟩ := by first | exact ⟨_, .inl (fun _ => rfl)⟩ | exact ⟨_, .inr (fun _ => rfl)⟩
theorem runs_vfmsExt b v : Runs (.vfmsExt b v) ⟨.vfms, .v b v 0 none⟩ := by first | exact ⟨_, .inl (fun _ => rfl)⟩ | exact ⟨_, .inr (fun _ => rfl)⟩
theorem runs_vdiv b : Runs (.vdiv b) ⟨.vdiv, .b b⟩ := by first | exact ⟨_, .inl (fun _ => rfl)⟩ | exact ⟨_, .inr (fun _ => rfl)⟩
theorem runs_vdivExt b v : Runs (.vdivExt b v) ⟨.vdiv, .v b v 0 none⟩ := by first | exact ⟨_, .inl (fun _ => rfl)⟩ | exact ⟨_, .inr (fun _ => rfl)⟩
theorem runs_vsqrt b : Runs (.vsqrt b) ⟨.vsqrt, .b b⟩ := by first | exact ⟨_, .inl (fun _ => rfl)⟩ | exact ⟨_, .inr (fun _ => rfl)⟩
theorem runs_vsqrtExt b v : Runs (.vsqrtExt b v) ⟨.vsqrt, .v b v 0 none⟩ := by first | exact ⟨_, .inl (fun _ => rfl)⟩ | exact ⟨_, .inr (fun _ => rfl)⟩
theorem runs_vrcp b : Runs (.vrcp b) ⟨.vrcp, .b b⟩ := by first | exact ⟨_, .inl (fun _ => rfl)⟩ | exact ⟨_, .inr (fun _ => rfl)⟩
theorem runs_vrcpExt b v : Runs (.vrcpExt b v) ⟨.vrcp, .v b v 0 none⟩ := by first | exact ⟨_, .inl (fun _ => rfl)⟩ | exact ⟨_, .inr (fun _ => rfl)⟩
theorem runs_vrsq b : Runs (.vrsq b) ⟨.vrsq, .b b⟩ := by first | exact ⟨_, .inl (fun _ => rfl)⟩ | exact ⟨_, .inr (fun _ => rfl)⟩
theorem runs_vrsqExt b v : Runs (.vrsqExt b v) ⟨.vrsq, .v b v 0 none⟩ := by first | exact ⟨_, .inl (fun _ => rfl)⟩ | exact ⟨_, .inr (fun _ => rfl)⟩
theorem runs_vexp2 b : Runs (.vexp2 b) ⟨.vexp2, .b b⟩ := by first | exact ⟨_, .inl (fun _ => rfl)⟩ | exact ⟨_, .inr (fun _ => rfl)⟩
theorem runs_vexp2Ext b v : Runs (.vexp2Ext b v) ⟨.vexp2, .v b v 0 none⟩ := by first | exact ⟨_, .inl (fun _ => rfl)⟩ | exact ⟨_, .inr (fun _ => rfl)⟩
theorem runs_vlog2 b : Runs (.vlog2 b) ⟨.vlog2, .b b⟩ := by first | exact ⟨_, .inl (fun _ => rfl)⟩ | exact ⟨_, .inr (fun _ => rfl)⟩
theorem runs_vlog2Ext b v : Runs (.vlog2Ext b v) ⟨.vlog2, .v b v 0 none⟩ := by first | exact ⟨_, .inl (fun _ => rfl)⟩ | exact ⟨_, .inr (fun _ => rfl)⟩
theorem runs_vmin b : Runs (.vmin b) ⟨.vmin, .b b⟩ := by first | exact ⟨_, .inl (fun _ => rfl)⟩ | exact ⟨_, .inr (fun _ => rfl)⟩
theorem runs_vminExt b v : Runs (.vminExt b v) ⟨.vmin, .v b v 0 none⟩ := by first | exact ⟨_, .inl (fun _ => rfl)⟩ | exact ⟨_, .inr (fun _ => rfl)⟩
theorem runs_vmax b : Runs (.vmax b) ⟨.vmax, .b b⟩ := by first | exact ⟨_, .inl (fun _ => rfl)⟩ | exact ⟨_, .inr (fun _ => rfl)⟩
theorem runs_vmaxExt b v : Runs (.vmaxExt b v) ⟨.vmax, .v b v 0 none⟩ := by first | exact ⟨_, .inl (fun _ => rfl)⟩ | exact ⟨_, .inr (fun _ => rfl)⟩
theorem runs_vabs b : Runs (.vabs b) ⟨.vabs, .b b⟩ := by first | exact ⟨_, .inl (fun _ => rfl)⟩ | exact ⟨_, .inr (fun _ => rfl)⟩
theorem runs_vabsExt b v : Runs (.vabsExt b v) ⟨.vabs, .v b v 0 none⟩ := by first | exact ⟨_, .inl (fun _ => rfl)⟩ | exact ⟨_, .inr (fun _ => rfl)⟩
theorem runs_vneg b : Runs (.vneg b) ⟨.vneg, .b b⟩ := by first | exact ⟨_, .inl (fun _ => rfl)⟩ | exact ⟨_, .inr (fun _ => rfl)⟩
theorem runs_vnegExt b v : Runs (.vnegExt b v) ⟨.vneg, .v b v 0 none⟩ := by first | exact ⟨_, .inl (fun _ => rfl)⟩ | exact ⟨_, .inr (fun _ => rfl)⟩
theorem runs_vand b : Runs (.vand b) ⟨.vand, .b b⟩ := by first | exact ⟨_, .inl (fun _ => rfl)⟩ | exact ⟨_, .inr (fun _ => rfl)⟩
theorem runs_vandExt b v : Runs (.vandExt b v) ⟨.vand, .v b v 0 none⟩ := by first | exact ⟨_, .inl (fun _ => rfl)⟩ | exact ⟨_, .inr (fun _ => rfl)⟩
theorem runs_vor b : Runs (.vor b) ⟨.vor, .b b⟩ := by first | exact ⟨_, .inl (fun _ => rfl)⟩ | exact ⟨_, .inr (fun _ => rfl)⟩
theorem runs_vorExt b v : Runs (.vorExt b v) ⟨.vor, .v b v 0 none⟩ := by first | exact ⟨_, .inl (fun _ => rfl)⟩ | exact ⟨_, .inr (fun _ => rfl)⟩
theorem runs_vxor b : Runs (.vxor b) ⟨.vxor, .b b⟩ := by first | exact ⟨_, .inl (fun _ => rfl)⟩ | exact ⟨_, .inr (fun _ => rfl)⟩
theorem runs_vxorExt b v : Runs (.vxorExt b v) ⟨.vxor, .v b v 0 none⟩ := by first | exact ⟨_, .inl (fun _ => rfl)⟩ | exact ⟨_, .inr (fun _ => rfl)⟩
theorem runs_vnot b : Runs (.vnot b) ⟨.vnot, .b b⟩ := by first | exact ⟨_, .inl (fun _ => rfl)⟩ | exact ⟨_, .inr (fun _ => rfl)⟩
theorem runs_vnotExt b v : Runs (.vnotExt b v) ⟨.vnot, .v b v 0 none⟩ := by first | exact ⟨_, .inl (fun _ => rfl)⟩ | exact ⟨_, .inr (fun _ => rfl)⟩
theorem runs_vshl b : Runs (.vshl b) ⟨.vshl, .b b⟩ := by first | exact ⟨_, .inl (fun _ => rfl)⟩ | exact ⟨_, .inr (fun _ => rfl)⟩
theorem runs_vshlExt b v n : Runs (.vshlExt b v n) ⟨.vshl, .v b v (encIb n) none⟩ := by first | exact ⟨_, .inl (fun _ => rfl)⟩ | exact ⟨_, .inr (fun _ => rfl)⟩
theorem runs_vshr b : Runs (.vshr b) ⟨.vshr, .b b⟩ := by first | exact ⟨_, .inl (fun _ => rfl)⟩ | exact ⟨_, .inr (fun _ => rfl)⟩
theorem runs_vshrExt b v n : Runs (.vshrExt b v n) ⟨.vshr, .v b v (encIb n) none⟩ := by first | exact ⟨_, .inl (fun _ => rfl)⟩ | exact ⟨_, .inr (fun _ => rfl)⟩
theorem runs_vsra b : Runs (.vsra b) ⟨.vsra, .b b⟩ := by first | exact ⟨_, .inl (fun _ => rfl)⟩ | exact ⟨_, .inr (fun _ => rfl)⟩
theorem runs_vsraExt b v n : Runs (.vsraExt b v n) ⟨.vsra, .v b v (encIb n) none⟩ := by first | exact ⟨_, .inl (fun _ => rfl)⟩ | exact ⟨_, .inr (fun _ => rfl)⟩
theorem runs_vceq b : Runs (.vceq b) ⟨.vceq, .b b⟩ := by first | exact ⟨_, .inl (fun _ => rfl)⟩ | exact ⟨_, .inr (fun _ => rfl)⟩
theorem runs_vceqExt b v : Runs (.vceqExt b v) ⟨.vceq, .v b v 0 none⟩ := by first | exact ⟨_, .inl (fun _ => rfl)⟩ | exact ⟨_, .inr (fun _ => rfl)⟩
theorem runs_vcne b : Runs (.vcne b) ⟨.vcne, .b b⟩ := by first | exact ⟨_, .inl (fun _ => rfl)⟩ | exact ⟨_, .inr (fun _ => rfl)⟩
theorem runs_vcneExt b v : Runs (.vcneExt b v) ⟨.vcne, .v b v 0 none⟩ := by first | exact ⟨_, .inl (fun _ => rfl)⟩ | exact ⟨_, .inr (fun _ => rfl)⟩
theorem runs_vclt b : Runs (.vclt b) ⟨.vclt, .b b⟩ := by first | exact ⟨_, .inl (fun _ => rfl)⟩ | exact ⟨_, .inr (fun _ => rfl)⟩
theorem runs_vcltExt b v : Runs (.vcltExt b v) ⟨.vclt, .v b v 0 none⟩ := by first | exact ⟨_, .inl (fun _ => rfl)⟩ | exact ⟨_, .inr (fun _ => rfl)⟩
theorem runs_vcle b : Runs (.vcle b) ⟨.vcle, .b b⟩ := by first | exact ⟨_, .inl (fun _ => rfl)⟩ | exact ⟨_, .inr (fun _ => rfl)⟩
theorem runs_vcleExt b v : Runs (.vcleExt b v) ⟨.vcle, .v b v 0 none⟩ := by first | exact ⟨_, .inl (fun _ => rfl)⟩ | exact ⟨_, .inr (fun _ => rfl)⟩
theorem runs_vcun b : Runs (.vcun b) ⟨.vcun, .b b⟩ := by first | exact ⟨_, .inl (fun _ => rfl)⟩ | exact ⟨_, .inr (fun _ => rfl)⟩
theorem runs_vcunExt b v : Runs (.vcunExt b v) ⟨.vcun, .v b v 0 none⟩ := by first | exact ⟨_, .inl (fun _ => rfl)⟩ | exact ⟨_, .inr (fun _ => rfl)⟩
theorem runs_vclass b : Runs (.vclass b) ⟨.vclass, .b b⟩ := by first | exact ⟨_, .inl (fun _ => rfl)⟩ | exact ⟨_, .inr (fun _ => rfl)⟩
theorem runs_vclassExt b v cls : Runs (.vclassExt b v cls) ⟨.vclass, .v b v (cls.setWidth 32) none⟩ := by first | exact ⟨_, .inl (fun _ => rfl)⟩ | exact ⟨_, .inr (fun _ => rfl)⟩
theorem runs_vsel b : Runs (.vsel b) ⟨.vsel, .b b⟩ := by first | exact ⟨_, .inl (fun _ => rfl)⟩ | exact ⟨_, .inr (fun _ => rfl)⟩
theorem runs_vselExt b v : Runs (.vselExt b v) ⟨.vsel, .v b v 0 none⟩ := by first | exact ⟨_, .inl (fun _ => rfl)⟩ | exact ⟨_, .inr (fun _ => rfl)⟩
theorem runs_vfill b v tag l : Runs (.vfill b v tag l) ⟨.vfill, .v b v (tag.setWidth 32) l⟩ := by first | exact ⟨_, .inl (fun _ => rfl)⟩ | exact ⟨_, .inr (fun _ => rfl)⟩
theorem runs_vbcast b v tag l : Runs (.vbcast b v tag l) ⟨.vbcast, .v b v (tag.setWidth 32) l⟩ := by first | exact ⟨_, .inl (fun _ => rfl)⟩ | exact ⟨_, .inr (fun _ => rfl)⟩
theorem runs_vid b v tag : Runs (.vid b v tag) ⟨.vid, .v b v (tag.setWidth 32) none⟩ := by first | exact ⟨_, .inl (fun _ => rfl)⟩ | exact ⟨_, .inr (fun _ => rfl)⟩
theorem runs_vcvt b v tag : Runs (.vcvt b v tag) ⟨.vcvt, .v b v (tag.setWidth 32) none⟩ := by first | exact ⟨_, .inl (fun _ => rfl)⟩ | exact ⟨_, .inr (fun _ => rfl)⟩
theorem runs_vscale b : Runs (.vscale b) ⟨.vscale, .b b⟩ := by first | exact ⟨_, .inl (fun _ => rfl)⟩ | exact ⟨_, .inr (fun _ => rfl)⟩
theorem runs_vscaleExt b v sc : Runs (.vscaleExt b v sc) ⟨.vscale, .v b v (sc.setWidth 32) none⟩ := by first | exact ⟨_, .inl (fun _ => rfl)⟩ | exact ⟨_, .inr (fun _ => rfl)⟩
theorem runs_vtag b v tag : Runs (.vtag b v tag) ⟨.vtag, .v b v (tag.setWidth 32) none⟩ := by first | exact ⟨_, .inl (fun _ => rfl)⟩ | exact ⟨_, .inr (fun _ => rfl)⟩
theorem runs_vsum b : Runs (.vsum b) ⟨.vsum, .b b⟩ := by first | exact ⟨_, .inl (fun _ => rfl)⟩ | exact ⟨_, .inr (fun _ => rfl)⟩
theorem runs_vsumExt b v : Runs (.vsumExt b v) ⟨.vsum, .v b v 0 none⟩ := by first | exact ⟨_, .inl (fun _ => rfl)⟩ | exact ⟨_, .inr (fun _ => rfl)⟩
theorem runs_vrmax b : Runs (.vrmax b) ⟨.vrmax, .b b⟩ := by first | exact ⟨_, .inl (fun _ => rfl)⟩ | exact ⟨_, .inr (fun _ => rfl)⟩
theorem runs_vrmaxExt b v : Runs (.vrmaxExt b v) ⟨.vrmax, .v b v 0 none⟩ := by first | exact ⟨_, .inl (fun _ => rfl)⟩ | exact ⟨_, .inr (fun _ => rfl)⟩
theorem runs_vrmin b : Runs (.vrmin b) ⟨.vrmin, .b b⟩ := by first | exact ⟨_, .inl (fun _ => rfl)⟩ | exact ⟨_, .inr (fun _ => rfl)⟩
theorem runs_vrminExt b v : Runs (.vrminExt b v) ⟨.vrmin, .v b v 0 none⟩ := by first | exact ⟨_, .inl (fun _ => rfl)⟩ | exact ⟨_, .inr (fun _ => rfl)⟩
theorem runs_vdot b : Runs (.vdot b) ⟨.vdot, .b b⟩ := by first | exact ⟨_, .inl (fun _ => rfl)⟩ | exact ⟨_, .inr (fun _ => rfl)⟩
theorem runs_vdotExt b v acc : Runs (.vdotExt b v acc) ⟨.vdot, .v b v (BitVec.ofNat 32 (encBool acc)) none⟩ := by first | exact ⟨_, .inl (fun _ => rfl)⟩ | exact ⟨_, .inr (fun _ => rfl)⟩
theorem runs_vperm b : Runs (.vperm b) ⟨.vperm, .b b⟩ := by first | exact ⟨_, .inl (fun _ => rfl)⟩ | exact ⟨_, .inr (fun _ => rfl)⟩
theorem runs_vpermExt b v : Runs (.vpermExt b v) ⟨.vperm, .v b v 0 none⟩ := by first | exact ⟨_, .inl (fun _ => rfl)⟩ | exact ⟨_, .inr (fun _ => rfl)⟩
theorem runs_vrot b : Runs (.vrot b) ⟨.vrot, .b b⟩ := by first | exact ⟨_, .inl (fun _ => rfl)⟩ | exact ⟨_, .inr (fun _ => rfl)⟩
theorem runs_vrotExt b v n : Runs (.vrotExt b v n) ⟨.vrot, .v b v (encIb n) none⟩ := by first | exact ⟨_, .inl (fun _ => rfl)⟩ | exact ⟨_, .inr (fun _ => rfl)⟩
theorem runs_vslide b : Runs (.vslide b) ⟨.vslide, .b b⟩ := by first | exact ⟨_, .inl (fun _ => rfl)⟩ | exact ⟨_, .inr (fun _ => rfl)⟩
theorem runs_vslideExt b v n down : Runs (.vslideExt b v n down) ⟨.vslide, .v b v (encIb n + BitVec.ofNat 32 (1073741824 * encBool down)) none⟩ := by first | exact ⟨_, .inl (fun _ => rfl)⟩ | exact ⟨_, .inr (fun _ => rfl)⟩
theorem runs_vcomp b : Runs (.vcomp b) ⟨.vcomp, .b b⟩ := by first | exact ⟨_, .inl (fun _ => rfl)⟩ | exact ⟨_, .inr (fun _ => rfl)⟩
theorem runs_vcompExt b v : Runs (.vcompExt b v) ⟨.vcomp, .v b v 0 none⟩ := by first | exact ⟨_, .inl (fun _ => rfl)⟩ | exact ⟨_, .inr (fun _ => rfl)⟩
theorem runs_vexpd b : Runs (.vexpd b) ⟨.vexpd, .b b⟩ := by first | exact ⟨_, .inl (fun _ => rfl)⟩ | exact ⟨_, .inr (fun _ => rfl)⟩
theorem runs_vexpdExt b v : Runs (.vexpdExt b v) ⟨.vexpd, .v b v 0 none⟩ := by first | exact ⟨_, .inl (fun _ => rfl)⟩ | exact ⟨_, .inr (fun _ => rfl)⟩
theorem runs_vext b : Runs (.vext b) ⟨.vext, .b b⟩ := by first | exact ⟨_, .inl (fun _ => rfl)⟩ | exact ⟨_, .inr (fun _ => rfl)⟩
theorem runs_vextExt b v n : Runs (.vextExt b v n) ⟨.vext, .v b v (encIb n) none⟩ := by first | exact ⟨_, .inl (fun _ => rfl)⟩ | exact ⟨_, .inr (fun _ => rfl)⟩
theorem runs_vins b : Runs (.vins b) ⟨.vins, .b b⟩ := by first | exact ⟨_, .inl (fun _ => rfl)⟩ | exact ⟨_, .inr (fun _ => rfl)⟩
theorem runs_vinsExt b v n : Runs (.vinsExt b v n) ⟨.vins, .v b v (encIb n) none⟩ := by first | exact ⟨_, .inl (fun _ => rfl)⟩ | exact ⟨_, .inr (fun _ => rfl)⟩
theorem runs_mand b : Runs (.mand b) ⟨.mand, .b b⟩ := by first | exact ⟨_, .inl (fun _ => rfl)⟩ | exact ⟨_, .inr (fun _ => rfl)⟩
theorem runs_mandExt b x : Runs (.mandExt b x) ⟨.mand, .x b x 0⟩ := by first | exact ⟨_, .inl (fun _ => rfl)⟩ | exact ⟨_, .inr (fun _ => rfl)⟩
theorem runs_mor b : Runs (.mor b) ⟨.mor, .b b⟩ := by first | exact ⟨_, .inl (fun _ => rfl)⟩ | exact ⟨_, .inr (fun _ => rfl)⟩
theorem runs_morExt b x : Runs (.morExt b x) ⟨.mor, .x b x 0⟩ := by first | exact ⟨_, .inl (fun _ => rfl)⟩ | exact ⟨_, .inr (fun _ => rfl)⟩
theorem runs_mxor b : Runs (.mxor b) ⟨.mxor, .b b⟩ := by first | exact ⟨_, .inl (fun _ => rfl)⟩ | exact ⟨_, .inr (fun _ => rfl)⟩
theorem runs_mxorExt b x : Runs (.mxorExt b x) ⟨.mxor, .x b x 0⟩ := by first | exact ⟨_, .inl (fun _ => rfl)⟩ | exact ⟨_, .inr (fun _ => rfl)⟩
theorem runs_mnot b : Runs (.mnot b) ⟨.mnot, .b b⟩ := by first | exact ⟨_, .inl (fun _ => rfl)⟩ | exact ⟨_, .inr (fun _ => rfl)⟩
theorem runs_mnotExt b x : Runs (.mnotExt b x) ⟨.mnot, .x b x 0⟩ := by first | exact ⟨_, .inl (fun _ => rfl)⟩ | exact ⟨_, .inr (fun _ => rfl)⟩
theorem runs_mpop b : Runs (.mpop b) ⟨.mpop, .b b⟩ := by first | exact ⟨_, .inl (fun _ => rfl)⟩ | exact ⟨_, .inr (fun _ => rfl)⟩
theorem runs_mpopExt b x : Runs (.mpopExt b x) ⟨.mpop, .x b x 0⟩ := by first | exact ⟨_, .inl (fun _ => rfl)⟩ | exact ⟨_, .inr (fun _ => rfl)⟩
theorem runs_mfirst b : Runs (.mfirst b) ⟨.mfirst, .b b⟩ := by first | exact ⟨_, .inl (fun _ => rfl)⟩ | exact ⟨_, .inr (fun _ => rfl)⟩
theorem runs_mfirstExt b x : Runs (.mfirstExt b x) ⟨.mfirst, .x b x 0⟩ := by first | exact ⟨_, .inl (fun _ => rfl)⟩ | exact ⟨_, .inr (fun _ => rfl)⟩
theorem runs_ld b m : Runs (.ld b m) ⟨.ld, .m b m none⟩ := by first | exact ⟨_, .inl (fun _ => rfl)⟩ | exact ⟨_, .inr (fun _ => rfl)⟩
theorem runs_st b m l : Runs (.st b m l) ⟨.st, .m b m l⟩ := by first | exact ⟨_, .inl (fun _ => rfl)⟩ | exact ⟨_, .inr (fun _ => rfl)⟩
theorem runs_vld b m tag : Runs (.vld b m tag) ⟨.vld, .m b m (some (tag.setWidth 64))⟩ := by first | exact ⟨_, .inl (fun _ => rfl)⟩ | exact ⟨_, .inr (fun _ => rfl)⟩
theorem runs_vlds b m tag : Runs (.vlds b m tag) ⟨.vlds, .m b m (some (tag.setWidth 64))⟩ := by first | exact ⟨_, .inl (fun _ => rfl)⟩ | exact ⟨_, .inr (fun _ => rfl)⟩
theorem runs_vldx b m tag : Runs (.vldx b m tag) ⟨.vldx, .m b m (some (tag.setWidth 64))⟩ := by first | exact ⟨_, .inl (fun _ => rfl)⟩ | exact ⟨_, .inr (fun _ => rfl)⟩
theorem runs_vldff b m tag : Runs (.vldff b m tag) ⟨.vldff, .m b m (some (tag.setWidth 64))⟩ := by first | exact ⟨_, .inl (fun _ => rfl)⟩ | exact ⟨_, .inr (fun _ => rfl)⟩
theorem runs_vst b m : Runs (.vst b m) ⟨.vst, .m b m none⟩ := by first | exact ⟨_, .inl (fun _ => rfl)⟩ | exact ⟨_, .inr (fun _ => rfl)⟩
theorem runs_vsts b m : Runs (.vsts b m) ⟨.vsts, .m b m none⟩ := by first | exact ⟨_, .inl (fun _ => rfl)⟩ | exact ⟨_, .inr (fun _ => rfl)⟩
theorem runs_vstx b m : Runs (.vstx b m) ⟨.vstx, .m b m none⟩ := by first | exact ⟨_, .inl (fun _ => rfl)⟩ | exact ⟨_, .inr (fun _ => rfl)⟩
theorem runs_vsadd b m : Runs (.vsadd b m) ⟨.vsadd, .m b m none⟩ := by first | exact ⟨_, .inl (fun _ => rfl)⟩ | exact ⟨_, .inr (fun _ => rfl)⟩
theorem runs_aadd b m l : Runs (.aadd b m l) ⟨.aadd, .m b m l⟩ := by first | exact ⟨_, .inl (fun _ => rfl)⟩ | exact ⟨_, .inr (fun _ => rfl)⟩
theorem runs_aswap b m l : Runs (.aswap b m l) ⟨.aswap, .m b m l⟩ := by first | exact ⟨_, .inl (fun _ => rfl)⟩ | exact ⟨_, .inr (fun _ => rfl)⟩
theorem runs_acas b m l : Runs (.acas b m l) ⟨.acas, .m b m l⟩ := by first | exact ⟨_, .inl (fun _ => rfl)⟩ | exact ⟨_, .inr (fun _ => rfl)⟩
theorem runs_amin b m l : Runs (.amin b m l) ⟨.amin, .m b m l⟩ := by first | exact ⟨_, .inl (fun _ => rfl)⟩ | exact ⟨_, .inr (fun _ => rfl)⟩
theorem runs_amax b m l : Runs (.amax b m l) ⟨.amax, .m b m l⟩ := by first | exact ⟨_, .inl (fun _ => rfl)⟩ | exact ⟨_, .inr (fun _ => rfl)⟩
theorem runs_aand b m l : Runs (.aand b m l) ⟨.aand, .m b m l⟩ := by first | exact ⟨_, .inl (fun _ => rfl)⟩ | exact ⟨_, .inr (fun _ => rfl)⟩
theorem runs_aor b m l : Runs (.aor b m l) ⟨.aor, .m b m l⟩ := by first | exact ⟨_, .inl (fun _ => rfl)⟩ | exact ⟨_, .inr (fun _ => rfl)⟩
theorem runs_axor b m l : Runs (.axor b m l) ⟨.axor, .m b m l⟩ := by first | exact ⟨_, .inl (fun _ => rfl)⟩ | exact ⟨_, .inr (fun _ => rfl)⟩
theorem runs_wjoin b : Runs (.wjoin b) ⟨.wjoin, .b b⟩ := by first | exact ⟨_, .inl (fun _ => rfl)⟩ | exact ⟨_, .inr (fun _ => rfl)⟩
theorem runs_wjoinImm b m : Runs (.wjoinImm b m) ⟨.wjoin, .imm b m⟩ := by first | exact ⟨_, .inl (fun _ => rfl)⟩ | exact ⟨_, .inr (fun _ => rfl)⟩
theorem runs_wfloor p : Runs (.wfloor p) ⟨.wfloor, .p p⟩ := by first | exact ⟨_, .inl (fun _ => rfl)⟩ | exact ⟨_, .inr (fun _ => rfl)⟩
theorem runs_wfloorExt p : Runs (.wfloorExt p) ⟨.wfloor, .px p 0⟩ := by first | exact ⟨_, .inl (fun _ => rfl)⟩ | exact ⟨_, .inr (fun _ => rfl)⟩
theorem runs_wnow b : Runs (.wnow b) ⟨.wnow, .b b⟩ := by first | exact ⟨_, .inl (fun _ => rfl)⟩ | exact ⟨_, .inr (fun _ => rfl)⟩
theorem runs_wnowExt b x : Runs (.wnowExt b x) ⟨.wnow, .x b x 0⟩ := by first | exact ⟨_, .inl (fun _ => rfl)⟩ | exact ⟨_, .inr (fun _ => rfl)⟩
theorem runs_wtest b : Runs (.wtest b) ⟨.wtest, .b b⟩ := by first | exact ⟨_, .inl (fun _ => rfl)⟩ | exact ⟨_, .inr (fun _ => rfl)⟩
theorem runs_wtestExt b x test : Runs (.wtestExt b x test) ⟨.wtest, .x b x (test.setWidth 32)⟩ := by first | exact ⟨_, .inl (fun _ => rfl)⟩ | exact ⟨_, .inr (fun _ => rfl)⟩
theorem runs_mwait b m l : Runs (.mwait b m l) ⟨.mwait, .m b m l⟩ := by first | exact ⟨_, .inl (fun _ => rfl)⟩ | exact ⟨_, .inr (fun _ => rfl)⟩
theorem runs_bar b : Runs (.bar b) ⟨.bar, .b b⟩ := by first | exact ⟨_, .inl (fun _ => rfl)⟩ | exact ⟨_, .inr (fun _ => rfl)⟩
theorem runs_barExt b x id count na : Runs (.barExt b x id count na) ⟨.bar, .x b x (BitVec.ofNat 32 (id.toNat + 16 * count.toNat + 32768 * encBool na))⟩ := by first | exact ⟨_, .inl (fun _ => rfl)⟩ | exact ⟨_, .inr (fun _ => rfl)⟩
theorem runs_claimel b m l : Runs (.claimel b m l) ⟨.claimel, .m b m l⟩ := by first | exact ⟨_, .inl (fun _ => rfl)⟩ | exact ⟨_, .inr (fun _ => rfl)⟩
theorem runs_pref b m : Runs (.pref b m) ⟨.pref, .m b m none⟩ := by first | exact ⟨_, .inl (fun _ => rfl)⟩ | exact ⟨_, .inr (fun _ => rfl)⟩
theorem runs_mclaim b : Runs (.mclaim b) ⟨.mclaim, .b b⟩ := by first | exact ⟨_, .inl (fun _ => rfl)⟩ | exact ⟨_, .inr (fun _ => rfl)⟩
theorem runs_mrel p : Runs (.mrel p) ⟨.mrel, .p p⟩ := by first | exact ⟨_, .inl (fun _ => rfl)⟩ | exact ⟨_, .inr (fun _ => rfl)⟩
theorem runs_mmul k arow acc slice dual : Runs (.mmul k arow acc slice dual) ⟨.mmul, .k k ⟨none, none, none⟩ (BitVec.ofNat 32 (arow.toNat + 512 * encAcc acc + 2048 * slice.toNat + 131072 * encBool dual))⟩ := by first | exact ⟨_, .inl (fun _ => rfl)⟩ | exact ⟨_, .inr (fun _ => rfl)⟩
theorem runs_mrd k b arow nrow pos : Runs (.mrd k b arow nrow pos) ⟨.mrd, .k k b (BitVec.ofNat 32 (arow.toNat + 512 * nrow.toNat + 8192 * pos.toNat))⟩ := by first | exact ⟨_, .inl (fun _ => rfl)⟩ | exact ⟨_, .inr (fun _ => rfl)⟩
theorem runs_mwr k arow nrow pos : Runs (.mwr k arow nrow pos) ⟨.mwr, .k k ⟨none, none, none⟩ (BitVec.ofNat 32 (arow.toNat + 512 * nrow.toNat + 8192 * pos.toNat))⟩ := by first | exact ⟨_, .inl (fun _ => rfl)⟩ | exact ⟨_, .inr (fun _ => rfl)⟩
theorem runs_mzero k arow nrow : Runs (.mzero k arow nrow) ⟨.mzero, .k k ⟨none, none, none⟩ (BitVec.ofNat 32 (arow.toNat + 512 * nrow.toNat))⟩ := by first | exact ⟨_, .inl (fun _ => rfl)⟩ | exact ⟨_, .inr (fun _ => rfl)⟩
theorem runs_mdecay k : Runs (.mdecay k) ⟨.mdecay, .k k ⟨none, none, none⟩ 0⟩ := by first | exact ⟨_, .inl (fun _ => rfl)⟩ | exact ⟨_, .inr (fun _ => rfl)⟩
theorem runs_mspill k u : Runs (.mspill k u) ⟨.mspill, .k k ⟨none, none, none⟩ (BitVec.ofNat 32 (encUnit u))⟩ := by first | exact ⟨_, .inl (fun _ => rfl)⟩ | exact ⟨_, .inr (fun _ => rfl)⟩
theorem runs_mfill k u wi : Runs (.mfill k u wi) ⟨.mfill, .k k ⟨none, none, none⟩ (BitVec.ofNat 32 (encUnit u + 4 * encBool wi))⟩ := by first | exact ⟨_, .inl (fun _ => rfl)⟩ | exact ⟨_, .inr (fun _ => rfl)⟩
theorem runs_wcfg k : Runs (.wcfg k) ⟨.wcfg, .k k ⟨none, none, none⟩ 0⟩ := by first | exact ⟨_, .inl (fun _ => rfl)⟩ | exact ⟨_, .inr (fun _ => rfl)⟩
theorem runs_wtable k : Runs (.wtable k) ⟨.wtable, .k k ⟨none, none, none⟩ 0⟩ := by first | exact ⟨_, .inl (fun _ => rfl)⟩ | exact ⟨_, .inr (fun _ => rfl)⟩
theorem runs_wload k ff : Runs (.wload k ff) ⟨.wload, .k k ⟨none, none, none⟩ (BitVec.ofNat 32 (encBool ff))⟩ := by first | exact ⟨_, .inl (fun _ => rfl)⟩ | exact ⟨_, .inr (fun _ => rfl)⟩
theorem runs_wloada k arow : Runs (.wloada k arow) ⟨.wloada, .k k ⟨none, none, none⟩ (arow.setWidth 32)⟩ := by first | exact ⟨_, .inl (fun _ => rfl)⟩ | exact ⟨_, .inr (fun _ => rfl)⟩
theorem runs_wswap k : Runs (.wswap k) ⟨.wswap, .k k ⟨none, none, none⟩ 0⟩ := by first | exact ⟨_, .inl (fun _ => rfl)⟩ | exact ⟨_, .inr (fun _ => rfl)⟩
theorem runs_wexp k b : Runs (.wexp k b) ⟨.wexp, .k k b 0⟩ := by first | exact ⟨_, .inl (fun _ => rfl)⟩ | exact ⟨_, .inr (fun _ => rfl)⟩
theorem runs_wstat k b wait : Runs (.wstat k b wait) ⟨.wstat, .k k b (BitVec.ofNat 32 (encBool wait))⟩ := by first | exact ⟨_, .inl (fun _ => rfl)⟩ | exact ⟨_, .inr (fun _ => rfl)⟩
theorem runs_plock b : Runs (.plock b) ⟨.plock, .b b⟩ := by first | exact ⟨_, .inl (fun _ => rfl)⟩ | exact ⟨_, .inr (fun _ => rfl)⟩
theorem runs_plockExt b x wr tries : Runs (.plockExt b x wr tries) ⟨.plock, .x b x (BitVec.ofNat 32 (encBool wr + 2 * encBool tries))⟩ := by first | exact ⟨_, .inl (fun _ => rfl)⟩ | exact ⟨_, .inr (fun _ => rfl)⟩
theorem runs_punlock p : Runs (.punlock p) ⟨.punlock, .p p⟩ := by first | exact ⟨_, .inl (fun _ => rfl)⟩ | exact ⟨_, .inr (fun _ => rfl)⟩
theorem runs_plaunch b : Runs (.plaunch b) ⟨.plaunch, .b b⟩ := by first | exact ⟨_, .inl (fun _ => rfl)⟩ | exact ⟨_, .inr (fun _ => rfl)⟩
theorem runs_plaunchExt b x : Runs (.plaunchExt b x) ⟨.plaunch, .x b x 0⟩ := by first | exact ⟨_, .inl (fun _ => rfl)⟩ | exact ⟨_, .inr (fun _ => rfl)⟩
theorem runs_pfence b : Runs (.pfence b) ⟨.pfence, .b b⟩ := by first | exact ⟨_, .inl (fun _ => rfl)⟩ | exact ⟨_, .inr (fun _ => rfl)⟩
theorem runs_pfenceExt b x : Runs (.pfenceExt b x) ⟨.pfence, .x b x 0⟩ := by first | exact ⟨_, .inl (fun _ => rfl)⟩ | exact ⟨_, .inr (fun _ => rfl)⟩
theorem runs_pstat b : Runs (.pstat b) ⟨.pstat, .b b⟩ := by first | exact ⟨_, .inl (fun _ => rfl)⟩ | exact ⟨_, .inr (fun _ => rfl)⟩
theorem runs_pstatExt b x bank : Runs (.pstatExt b x bank) ⟨.pstat, .x b x (BitVec.ofNat 32 (encBool bank))⟩ := by first | exact ⟨_, .inl (fun _ => rfl)⟩ | exact ⟨_, .inr (fun _ => rfl)⟩
theorem runs_vldp b m tag : Runs (.vldp b m tag) ⟨.vldp, .m b m (some (tag.setWidth 64))⟩ := by first | exact ⟨_, .inl (fun _ => rfl)⟩ | exact ⟨_, .inr (fun _ => rfl)⟩
theorem runs_vstp b m : Runs (.vstp b m) ⟨.vstp, .m b m none⟩ := by first | exact ⟨_, .inl (fun _ => rfl)⟩ | exact ⟨_, .inr (fun _ => rfl)⟩
theorem runs_cpset p : Runs (.cpset p) ⟨.cpset, .p p⟩ := by first | exact ⟨_, .inl (fun _ => rfl)⟩ | exact ⟨_, .inr (fun _ => rfl)⟩
theorem runs_cpsetExt p index : Runs (.cpsetExt p index) ⟨.cpset, .px p (index.setWidth 32)⟩ := by first | exact ⟨_, .inl (fun _ => rfl)⟩ | exact ⟨_, .inr (fun _ => rfl)⟩
theorem runs_cpgo b : Runs (.cpgo b) ⟨.cpgo, .b b⟩ := by first | exact ⟨_, .inl (fun _ => rfl)⟩ | exact ⟨_, .inr (fun _ => rfl)⟩
theorem runs_cpgoExt b x : Runs (.cpgoExt b x) ⟨.cpgo, .x b x 0⟩ := by first | exact ⟨_, .inl (fun _ => rfl)⟩ | exact ⟨_, .inr (fun _ => rfl)⟩
theorem runs_cpqf p : Runs (.cpqf p) ⟨.cpqf, .p p⟩ := by first | exact ⟨_, .inl (fun _ => rfl)⟩ | exact ⟨_, .inr (fun _ => rfl)⟩
theorem runs_cpqfExt p queue mask : Runs (.cpqfExt p queue mask) ⟨.cpqf, .px p (BitVec.ofNat 32 (queue.toNat + 256 * mask.toNat))⟩ := by first | exact ⟨_, .inl (fun _ => rfl)⟩ | exact ⟨_, .inr (fun _ => rfl)⟩
theorem runs_cpstat b : Runs (.cpstat b) ⟨.cpstat, .b b⟩ := by first | exact ⟨_, .inl (fun _ => rfl)⟩ | exact ⟨_, .inr (fun _ => rfl)⟩
theorem runs_cpstatExt b x : Runs (.cpstatExt b x) ⟨.cpstat, .x b x 0⟩ := by first | exact ⟨_, .inl (fun _ => rfl)⟩ | exact ⟨_, .inr (fun _ => rfl)⟩
theorem runs_cpabort p : Runs (.cpabort p) ⟨.cpabort, .p p⟩ := by first | exact ⟨_, .inl (fun _ => rfl)⟩ | exact ⟨_, .inr (fun _ => rfl)⟩
/-- Every instruction of a block runs so. -/
theorem exec_runs (i : Instr) : ∀ r, rawOf i = some r → Runs i r :=
  match i with
  | .blockFetch _ _ => fun _ h => nomatch h
  | .blockDecode _ => fun _ h => nomatch h
  | .blockCommit _ => fun _ h => nomatch h
  | .deferredResultWrite _ => fun _ h => nomatch h
  | .trapEntry _ => fun _ h => nomatch h
  | .matrixClaimGrant _ => fun _ h => nomatch h
  | .fillAccept _ => fun _ h => nomatch h
  | .wloadaAccept _ => fun _ h => nomatch h
  | .fillEnd _ => fun _ h => nomatch h
  | .preempt _ => fun _ h => nomatch h
  | .preemptGraceExpiry _ => fun _ h => nomatch h
  | .contextSaveEnd _ => fun _ h => nomatch h
  | .resume _ => fun _ h => nomatch h
  | .laneResidueFailure _ _ _ _ => fun _ h => nomatch h
  | .laneSelfTestEnd _ _ _ => fun _ h => nomatch h
  | .homeLoad _ => fun _ h => nomatch h
  | .homeStore _ => fun _ h => nomatch h
  | .homeAtomic _ => fun _ h => nomatch h
  | .claimelAtHome _ => fun _ h => nomatch h
  | .mwaitWake _ => fun _ h => nomatch h
  | .mwaitExpiry _ => fun _ h => nomatch h
  | .l1Renewal _ => fun _ h => nomatch h
  | .rdcRenewal _ => fun _ h => nomatch h
  | .leaseSweep  => fun _ h => nomatch h
  | .ceilingAdvance  => fun _ h => nomatch h
  | .clusterTimeBroadcast _ => fun _ h => nomatch h
  | .pageWalkEnd _ => fun _ h => nomatch h
  | .plockGrant _ => fun _ h => nomatch h
  | .lockedTimeout _ => fun _ h => nomatch h
  | .fieldOpStart _ _ => fun _ h => nomatch h
  | .refreshIntervalEnd _ => fun _ h => nomatch h
  | .refresh _ => fun _ h => nomatch h
  | .refreshManagement _ => fun _ h => nomatch h
  | .dramRequest _ => fun _ h => nomatch h
  | .insertion _ => fun _ h => nomatch h
  | .patrolRead _ => fun _ h => nomatch h
  | .copyStrip _ _ => fun _ h => nomatch h
  | .copyStripEnd _ _ => fun _ h => nomatch h
  | .copyStampWrite _ _ => fun _ h => nomatch h
  | .copyFenceRelease _ _ => fun _ h => nomatch h
  | .trainElement _ => fun _ h => nomatch h
  | .trainTail _ => fun _ h => nomatch h
  | .trainAck _ => fun _ h => nomatch h
  | .trainAckTimeout _ => fun _ h => nomatch h
  | .queueDoorbell _ _ => fun _ h => nomatch h
  | .queueHeadWake _ => fun _ h => nomatch h
  | .packetFetch _ => fun _ h => nomatch h
  | .start _ => fun _ h => nomatch h
  | .startPlacement _ => fun _ h => nomatch h
  | .startWaitTimeout _ => fun _ h => nomatch h
  | .regionAttach _ => fun _ h => nomatch h
  | .regionReload _ => fun _ h => nomatch h
  | .regionDetach _ => fun _ h => nomatch h
  | .cisternAllocate _ => fun _ h => nomatch h
  | .cisternFree _ => fun _ h => nomatch h
  | .wait _ => fun _ h => nomatch h
  | .stamp _ => fun _ h => nomatch h
  | .copy _ => fun _ h => nomatch h
  | .plane _ => fun _ h => nomatch h
  | .kill _ => fun _ h => nomatch h
  | .nop _ => fun _ h => nomatch h
  | .packetComplete _ _ => fun _ h => nomatch h
  | .budgetCharge _ _ _ _ => fun _ h => nomatch h
  | .hostMemrd _ _ => fun _ h => nomatch h
  | .hostMemrdOwnership _ _ => fun _ h => nomatch h
  | .hostMemwr _ _ => fun _ h => nomatch h
  | .birsp _ _ => fun _ h => nomatch h
  | .msgTrainBeats _ => fun _ h => nomatch h
  | .msgTrainAck _ => fun _ h => nomatch h
  | .msgReadRequest _ => fun _ h => nomatch h
  | .msgReadResponse _ => fun _ h => nomatch h
  | .msgAtomicRequest _ => fun _ h => nomatch h
  | .msgAtomicResponse _ => fun _ h => nomatch h
  | .msgTime _ => fun _ h => nomatch h
  | .msgRetransmit _ _ => fun _ h => nomatch h
  | .msgUnreachable _ _ => fun _ h => nomatch h
  | .idleTimeSend _ => fun _ h => nomatch h
  | .ilaWrite _ _ => fun _ h => nomatch h
  | .ptrootWrite _ _ => fun _ h => nomatch h
  | .mthWrite _ _ => fun _ h => nomatch h
  | .refctlWrite _ _ => fun _ h => nomatch h
  | .fwshareWrite _ _ => fun _ h => nomatch h
  | .frmWrite _ _ => fun _ h => nomatch h
  | .leaseWrite _ _ => fun _ h => nomatch h
  | .csrRegisterWrite _ _ _ => fun _ h => nomatch h
  | .startWarm  => fun _ h => nomatch h
  | .startWarmZero  => fun _ h => nomatch h
  | .startCold  => fun _ h => nomatch h
  | .deviceStart _ => fun _ h => nomatch h
  | .barRegisterWrite _ _ => fun _ h => nomatch h
  | .rowSpare _ _ => fun _ h => nomatch h
  | .bankRetireMove _ _ => fun _ h => nomatch h
  | .tileRetire _ => fun _ h => nomatch h
  | .linkRetrain _ _ => fun _ h => nomatch h
  | .unitFailure _ => fun _ h => nomatch h
  | .clusterWarmRestart _ => fun _ h => nomatch h
  | .mctpControl _ => fun _ h => nomatch h
  | .getVersion _ => fun _ h => nomatch h
  | .getCapabilities _ => fun _ h => nomatch h
  | .negotiateAlgorithms _ => fun _ h => nomatch h
  | .getDigests _ => fun _ h => nomatch h
  | .getCertificate _ => fun _ h => nomatch h
  | .challenge _ => fun _ h => nomatch h
  | .getMeasurements _ => fun _ h => nomatch h
  | .keyExchange _ => fun _ h => nomatch h
  | .finish _ => fun _ h => nomatch h
  | .endSession _ => fun _ h => nomatch h
  | .readLog _ => fun _ h => nomatch h
  | .readStatus  => fun _ h => nomatch h
  | .setPlimit _ => fun _ h => nomatch h
  | .restart _ _ _ => fun _ h => nomatch h
  | .commitSvn _ => fun _ h => nomatch h
  | .firmwareUpdate _ => fun _ h => nomatch h
  | .throttleTick _ _ => fun _ h => nomatch h
  | .statusBlockWrite  => fun _ h => nomatch h
  | .thermalTrip _ => fun _ h => nomatch h
  | .thermalRecovery _ => fun _ h => nomatch h
  | .hostSnoop _ => fun _ h => nomatch h
  | .hostCompletion _ _ => fun _ h => nomatch h
  | .peerTableWrite _ _ => fun _ h => nomatch h
  | .fabricEnumeration _ => fun _ h => nomatch h
  | .encodePassEnd _ _ => fun _ h => nomatch h
  | .qcopy _ _ => fun _ h => nomatch h
  | .qnot _ _ => fun _ h => nomatch h
  | .qmaj _ => fun _ h => nomatch h
  | .qshl _ _ => fun _ h => nomatch h
  | .qshr _ _ => fun _ h => nomatch h
  | .qset _ _ _ _ => fun _ h => nomatch h
  | .qvmc _ _ _ => fun _ h => nomatch h
  | .qloop _ => fun _ h => nomatch h
  | .qloopPar _ => fun _ h => nomatch h
  | .qend  => fun _ h => nomatch h
  | .qskip _ _ _ _ _ => fun _ h => nomatch h
  | .qsafe  => fun _ h => nomatch h
  | .qret  => fun _ h => nomatch h
  | .rds x0 => fun _ h => Option.some.inj h ▸ runs_rds x0
  | .rdv x0 => fun _ h => Option.some.inj h ▸ runs_rdv x0
  | .rdm x0 => fun _ h => Option.some.inj h ▸ runs_rdm x0
  | .wrs x0 => fun _ h => Option.some.inj h ▸ runs_wrs x0
  | .wrv x0 => fun _ h => Option.some.inj h ▸ runs_wrv x0
  | .wrm x0 => fun _ h => Option.some.inj h ▸ runs_wrm x0
  | .mov x0 => fun _ h => Option.some.inj h ▸ runs_mov x0
  | .movExt x0 x1 => fun _ h => Option.some.inj h ▸ runs_movExt x0 x1
  | .null x0 => fun _ h => Option.some.inj h ▸ runs_null x0
  | .nullExt x0 x1 => fun _ h => Option.some.inj h ▸ runs_nullExt x0 x1
  | .lit x0 x1 => fun _ h => Option.some.inj h ▸ runs_lit x0 x1
  | .pcb x0 => fun _ h => Option.some.inj h ▸ runs_pcb x0
  | .pcbExt x0 x1 => fun _ h => Option.some.inj h ▸ runs_pcbExt x0 x1
  | .br x0 => fun _ h => Option.some.inj h ▸ runs_br x0
  | .bri x0 => fun _ h => Option.some.inj h ▸ runs_bri x0
  | .call x0 => fun _ h => Option.some.inj h ▸ runs_call x0
  | .calli x0 => fun _ h => Option.some.inj h ▸ runs_calli x0
  | .yield x0 => fun _ h => Option.some.inj h ▸ runs_yield x0
  | .halt x0 => fun _ h => Option.some.inj h ▸ runs_halt x0
  | .sysc x0 => fun _ h => Option.some.inj h ▸ runs_sysc x0
  | .trap x0 x1 => fun _ h => Option.some.inj h ▸ runs_trap x0 x1
  | .eret x0 => fun _ h => Option.some.inj h ▸ runs_eret x0
  | .csrr x0 x1 x2 => fun _ h => Option.some.inj h ▸ runs_csrr x0 x1 x2
  | .csrw x0 x1 => fun _ h => Option.some.inj h ▸ runs_csrw x0 x1
  | .icinv x0 => fun _ h => Option.some.inj h ▸ runs_icinv x0
  | .tlbinv x0 => fun _ h => Option.some.inj h ▸ runs_tlbinv x0
  | .setvl x0 => fun _ h => Option.some.inj h ▸ runs_setvl x0
  | .lclaim x0 => fun _ h => Option.some.inj h ▸ runs_lclaim x0
  | .add x0 => fun _ h => Option.some.inj h ▸ runs_add x0
  | .addImm x0 x1 => fun _ h => Option.some.inj h ▸ runs_addImm x0 x1
  | .sub x0 => fun _ h => Option.some.inj h ▸ runs_sub x0
  | .subImm x0 x1 => fun _ h => Option.some.inj h ▸ runs_subImm x0 x1
  | .mul x0 => fun _ h => Option.some.inj h ▸ runs_mul x0
  | .mulImm x0 x1 => fun _ h => Option.some.inj h ▸ runs_mulImm x0 x1
  | .mulh x0 => fun _ h => Option.some.inj h ▸ runs_mulh x0
  | .mulhImm x0 x1 => fun _ h => Option.some.inj h ▸ runs_mulhImm x0 x1
  | .mulhn x0 => fun _ h => Option.some.inj h ▸ runs_mulhn x0
  | .mulhnImm x0 x1 => fun _ h => Option.some.inj h ▸ runs_mulhnImm x0 x1
  | .div x0 => fun _ h => Option.some.inj h ▸ runs_div x0
  | .divImm x0 x1 => fun _ h => Option.some.inj h ▸ runs_divImm x0 x1
  | .divn x0 => fun _ h => Option.some.inj h ▸ runs_divn x0
  | .divnImm x0 x1 => fun _ h => Option.some.inj h ▸ runs_divnImm x0 x1
  | .rem x0 => fun _ h => Option.some.inj h ▸ runs_rem x0
  | .remImm x0 x1 => fun _ h => Option.some.inj h ▸ runs_remImm x0 x1
  | .remn x0 => fun _ h => Option.some.inj h ▸ runs_remn x0
  | .remnImm x0 x1 => fun _ h => Option.some.inj h ▸ runs_remnImm x0 x1
  | .and x0 => fun _ h => Option.some.inj h ▸ runs_and x0
  | .andImm x0 x1 => fun _ h => Option.some.inj h ▸ runs_andImm x0 x1
  | .or x0 => fun _ h => Option.some.inj h ▸ runs_or x0
  | .orImm x0 x1 => fun _ h => Option.some.inj h ▸ runs_orImm x0 x1
  | .xor x0 => fun _ h => Option.some.inj h ▸ runs_xor x0
  | .xorImm x0 x1 => fun _ h => Option.some.inj h ▸ runs_xorImm x0 x1
  | .andn x0 => fun _ h => Option.some.inj h ▸ runs_andn x0
  | .andnImm x0 x1 => fun _ h => Option.some.inj h ▸ runs_andnImm x0 x1
  | .shl x0 => fun _ h => Option.some.inj h ▸ runs_shl x0
  | .shlImm x0 x1 => fun _ h => Option.some.inj h ▸ runs_shlImm x0 x1
  | .shr x0 => fun _ h => Option.some.inj h ▸ runs_shr x0
  | .shrImm x0 x1 => fun _ h => Option.some.inj h ▸ runs_shrImm x0 x1
  | .sra x0 => fun _ h => Option.some.inj h ▸ runs_sra x0
  | .sraImm x0 x1 => fun _ h => Option.some.inj h ▸ runs_sraImm x0 x1
  | .rotl x0 => fun _ h => Option.some.inj h ▸ runs_rotl x0
  | .rotlImm x0 x1 => fun _ h => Option.some.inj h ▸ runs_rotlImm x0 x1
  | .min x0 => fun _ h => Option.some.inj h ▸ runs_min x0
  | .minImm x0 x1 => fun _ h => Option.some.inj h ▸ runs_minImm x0 x1
  | .max x0 => fun _ h => Option.some.inj h ▸ runs_max x0
  | .maxImm x0 x1 => fun _ h => Option.some.inj h ▸ runs_maxImm x0 x1
  | .minn x0 => fun _ h => Option.some.inj h ▸ runs_minn x0
  | .minnImm x0 x1 => fun _ h => Option.some.inj h ▸ runs_minnImm x0 x1
  | .maxn x0 => fun _ h => Option.some.inj h ▸ runs_maxn x0
  | .maxnImm x0 x1 => fun _ h => Option.some.inj h ▸ runs_maxnImm x0 x1
  | .clz x0 => fun _ h => Option.some.inj h ▸ runs_clz x0
  | .clzExt x0 x1 => fun _ h => Option.some.inj h ▸ runs_clzExt x0 x1
  | .ctz x0 => fun _ h => Option.some.inj h ▸ runs_ctz x0
  | .ctzExt x0 x1 => fun _ h => Option.some.inj h ▸ runs_ctzExt x0 x1
  | .popc x0 => fun _ h => Option.some.inj h ▸ runs_popc x0
  | .popcExt x0 x1 => fun _ h => Option.some.inj h ▸ runs_popcExt x0 x1
  | .bswap x0 => fun _ h => Option.some.inj h ▸ runs_bswap x0
  | .bswapExt x0 x1 => fun _ h => Option.some.inj h ▸ runs_bswapExt x0 x1
  | .sext x0 => fun _ h => Option.some.inj h ▸ runs_sext x0
  | .sextImm x0 x1 => fun _ h => Option.some.inj h ▸ runs_sextImm x0 x1
  | .zext x0 => fun _ h => Option.some.inj h ▸ runs_zext x0
  | .zextImm x0 x1 => fun _ h => Option.some.inj h ▸ runs_zextImm x0 x1
  | .bfx x0 => fun _ h => Option.some.inj h ▸ runs_bfx x0
  | .bfxImm x0 x1 => fun _ h => Option.some.inj h ▸ runs_bfxImm x0 x1
  | .bfi x0 => fun _ h => Option.some.inj h ▸ runs_bfi x0
  | .bfiImm x0 x1 => fun _ h => Option.some.inj h ▸ runs_bfiImm x0 x1
  | .sel x0 => fun _ h => Option.some.inj h ▸ runs_sel x0
  | .selImm x0 x1 => fun _ h => Option.some.inj h ▸ runs_selImm x0 x1
  | .teq x0 => fun _ h => Option.some.inj h ▸ runs_teq x0
  | .teqImm x0 x1 => fun _ h => Option.some.inj h ▸ runs_teqImm x0 x1
  | .tne x0 => fun _ h => Option.some.inj h ▸ runs_tne x0
  | .tneImm x0 x1 => fun _ h => Option.some.inj h ▸ runs_tneImm x0 x1
  | .tlt x0 => fun _ h => Option.some.inj h ▸ runs_tlt x0
  | .tltImm x0 x1 => fun _ h => Option.some.inj h ▸ runs_tltImm x0 x1
  | .tle x0 => fun _ h => Option.some.inj h ▸ runs_tle x0
  | .tleImm x0 x1 => fun _ h => Option.some.inj h ▸ runs_tleImm x0 x1
  | .tltn x0 => fun _ h => Option.some.inj h ▸ runs_tltn x0
  | .tltnImm x0 x1 => fun _ h => Option.some.inj h ▸ runs_tltnImm x0 x1
  | .tlen x0 => fun _ h => Option.some.inj h ▸ runs_tlen x0
  | .tlenImm x0 x1 => fun _ h => Option.some.inj h ▸ runs_tlenImm x0 x1
  | .tbit x0 => fun _ h => Option.some.inj h ▸ runs_tbit x0
  | .tbitImm x0 x1 => fun _ h => Option.some.inj h ▸ runs_tbitImm x0 x1
  | .sptest x0 => fun _ h => Option.some.inj h ▸ runs_sptest x0
  | .sptestExt x0 x1 => fun _ h => Option.some.inj h ▸ runs_sptestExt x0 x1
  | .spcast x0 => fun _ h => Option.some.inj h ▸ runs_spcast x0
  | .spcastImm x0 x1 => fun _ h => Option.some.inj h ▸ runs_spcastImm x0 x1
  | .padd x0 => fun _ h => Option.some.inj h ▸ runs_padd x0
  | .paddImm x0 x1 => fun _ h => Option.some.inj h ▸ runs_paddImm x0 x1
  | .vadd x0 => fun _ h => Option.some.inj h ▸ runs_vadd x0
  | .vaddExt x0 x1 => fun _ h => Option.some.inj h ▸ runs_vaddExt x0 x1
  | .vsub x0 => fun _ h => Option.some.inj h ▸ runs_vsub x0
  | .vsubExt x0 x1 => fun _ h => Option.some.inj h ▸ runs_vsubExt x0 x1
  | .vmul x0 => fun _ h => Option.some.inj h ▸ runs_vmul x0
  | .vmulExt x0 x1 => fun _ h => Option.some.inj h ▸ runs_vmulExt x0 x1
  | .vmulw x0 => fun _ h => Option.some.inj h ▸ runs_vmulw x0
  | .vmulwExt x0 x1 x2 => fun _ h => Option.some.inj h ▸ runs_vmulwExt x0 x1 x2
  | .vfma x0 => fun _ h => Option.some.inj h ▸ runs_vfma x0
  | .vfmaExt x0 x1 => fun _ h => Option.some.inj h ▸ runs_vfmaExt x0 x1
  | .vfms x0 => fun _ h => Option.some.inj h ▸ runs_vfms x0
  | .vfmsExt x0 x1 => fun _ h => Option.some.inj h ▸ runs_vfmsExt x0 x1
  | .vdiv x0 => fun _ h => Option.some.inj h ▸ runs_vdiv x0
  | .vdivExt x0 x1 => fun _ h => Option.some.inj h ▸ runs_vdivExt x0 x1
  | .vsqrt x0 => fun _ h => Option.some.inj h ▸ runs_vsqrt x0
  | .vsqrtExt x0 x1 => fun _ h => Option.some.inj h ▸ runs_vsqrtExt x0 x1
  | .vrcp x0 => fun _ h => Option.some.inj h ▸ runs_vrcp x0
  | .vrcpExt x0 x1 => fun _ h => Option.some.inj h ▸ runs_vrcpExt x0 x1
  | .vrsq x0 => fun _ h => Option.some.inj h ▸ runs_vrsq x0
  | .vrsqExt x0 x1 => fun _ h => Option.some.inj h ▸ runs_vrsqExt x0 x1
  | .vexp2 x0 => fun _ h => Option.some.inj h ▸ runs_vexp2 x0
  | .vexp2Ext x0 x1 => fun _ h => Option.some.inj h ▸ runs_vexp2Ext x0 x1
  | .vlog2 x0 => fun _ h => Option.some.inj h ▸ runs_vlog2 x0
  | .vlog2Ext x0 x1 => fun _ h => Option.some.inj h ▸ runs_vlog2Ext x0 x1
  | .vmin x0 => fun _ h => Option.some.inj h ▸ runs_vmin x0
  | .vminExt x0 x1 => fun _ h => Option.some.inj h ▸ runs_vminExt x0 x1
  | .vmax x0 => fun _ h => Option.some.inj h ▸ runs_vmax x0
  | .vmaxExt x0 x1 => fun _ h => Option.some.inj h ▸ runs_vmaxExt x0 x1
  | .vabs x0 => fun _ h => Option.some.inj h ▸ runs_vabs x0
  | .vabsExt x0 x1 => fun _ h => Option.some.inj h ▸ runs_vabsExt x0 x1
  | .vneg x0 => fun _ h => Option.some.inj h ▸ runs_vneg x0
  | .vnegExt x0 x1 => fun _ h => Option.some.inj h ▸ runs_vnegExt x0 x1
  | .vand x0 => fun _ h => Option.some.inj h ▸ runs_vand x0
  | .vandExt x0 x1 => fun _ h => Option.some.inj h ▸ runs_vandExt x0 x1
  | .vor x0 => fun _ h => Option.some.inj h ▸ runs_vor x0
  | .vorExt x0 x1 => fun _ h => Option.some.inj h ▸ runs_vorExt x0 x1
  | .vxor x0 => fun _ h => Option.some.inj h ▸ runs_vxor x0
  | .vxorExt x0 x1 => fun _ h => Option.some.inj h ▸ runs_vxorExt x0 x1
  | .vnot x0 => fun _ h => Option.some.inj h ▸ runs_vnot x0
  | .vnotExt x0 x1 => fun _ h => Option.some.inj h ▸ runs_vnotExt x0 x1
  | .vshl x0 => fun _ h => Option.some.inj h ▸ runs_vshl x0
  | .vshlExt x0 x1 x2 => fun _ h => Option.some.inj h ▸ runs_vshlExt x0 x1 x2
  | .vshr x0 => fun _ h => Option.some.inj h ▸ runs_vshr x0
  | .vshrExt x0 x1 x2 => fun _ h => Option.some.inj h ▸ runs_vshrExt x0 x1 x2
  | .vsra x0 => fun _ h => Option.some.inj h ▸ runs_vsra x0
  | .vsraExt x0 x1 x2 => fun _ h => Option.some.inj h ▸ runs_vsraExt x0 x1 x2
  | .vceq x0 => fun _ h => Option.some.inj h ▸ runs_vceq x0
  | .vceqExt x0 x1 => fun _ h => Option.some.inj h ▸ runs_vceqExt x0 x1
  | .vcne x0 => fun _ h => Option.some.inj h ▸ runs_vcne x0
  | .vcneExt x0 x1 => fun _ h => Option.some.inj h ▸ runs_vcneExt x0 x1
  | .vclt x0 => fun _ h => Option.some.inj h ▸ runs_vclt x0
  | .vcltExt x0 x1 => fun _ h => Option.some.inj h ▸ runs_vcltExt x0 x1
  | .vcle x0 => fun _ h => Option.some.inj h ▸ runs_vcle x0
  | .vcleExt x0 x1 => fun _ h => Option.some.inj h ▸ runs_vcleExt x0 x1
  | .vcun x0 => fun _ h => Option.some.inj h ▸ runs_vcun x0
  | .vcunExt x0 x1 => fun _ h => Option.some.inj h ▸ runs_vcunExt x0 x1
  | .vclass x0 => fun _ h => Option.some.inj h ▸ runs_vclass x0
  | .vclassExt x0 x1 x2 => fun _ h => Option.some.inj h ▸ runs_vclassExt x0 x1 x2
  | .vsel x0 => fun _ h => Option.some.inj h ▸ runs_vsel x0
  | .vselExt x0 x1 => fun _ h => Option.some.inj h ▸ runs_vselExt x0 x1
  | .vfill x0 x1 x2 x3 => fun _ h => Option.some.inj h ▸ runs_vfill x0 x1 x2 x3
  | .vbcast x0 x1 x2 x3 => fun _ h => Option.some.inj h ▸ runs_vbcast x0 x1 x2 x3
  | .vid x0 x1 x2 => fun _ h => Option.some.inj h ▸ runs_vid x0 x1 x2
  | .vcvt x0 x1 x2 => fun _ h => Option.some.inj h ▸ runs_vcvt x0 x1 x2
  | .vscale x0 => fun _ h => Option.some.inj h ▸ runs_vscale x0
  | .vscaleExt x0 x1 x2 => fun _ h => Option.some.inj h ▸ runs_vscaleExt x0 x1 x2
  | .vtag x0 x1 x2 => fun _ h => Option.some.inj h ▸ runs_vtag x0 x1 x2
  | .vsum x0 => fun _ h => Option.some.inj h ▸ runs_vsum x0
  | .vsumExt x0 x1 => fun _ h => Option.some.inj h ▸ runs_vsumExt x0 x1
  | .vrmax x0 => fun _ h => Option.some.inj h ▸ runs_vrmax x0
  | .vrmaxExt x0 x1 => fun _ h => Option.some.inj h ▸ runs_vrmaxExt x0 x1
  | .vrmin x0 => fun _ h => Option.some.inj h ▸ runs_vrmin x0
  | .vrminExt x0 x1 => fun _ h => Option.some.inj h ▸ runs_vrminExt x0 x1
  | .vdot x0 => fun _ h => Option.some.inj h ▸ runs_vdot x0
  | .vdotExt x0 x1 x2 => fun _ h => Option.some.inj h ▸ runs_vdotExt x0 x1 x2
  | .vperm x0 => fun _ h => Option.some.inj h ▸ runs_vperm x0
  | .vpermExt x0 x1 => fun _ h => Option.some.inj h ▸ runs_vpermExt x0 x1
  | .vrot x0 => fun _ h => Option.some.inj h ▸ runs_vrot x0
  | .vrotExt x0 x1 x2 => fun _ h => Option.some.inj h ▸ runs_vrotExt x0 x1 x2
  | .vslide x0 => fun _ h => Option.some.inj h ▸ runs_vslide x0
  | .vslideExt x0 x1 x2 x3 => fun _ h => Option.some.inj h ▸ runs_vslideExt x0 x1 x2 x3
  | .vcomp x0 => fun _ h => Option.some.inj h ▸ runs_vcomp x0
  | .vcompExt x0 x1 => fun _ h => Option.some.inj h ▸ runs_vcompExt x0 x1
  | .vexpd x0 => fun _ h => Option.some.inj h ▸ runs_vexpd x0
  | .vexpdExt x0 x1 => fun _ h => Option.some.inj h ▸ runs_vexpdExt x0 x1
  | .vext x0 => fun _ h => Option.some.inj h ▸ runs_vext x0
  | .vextExt x0 x1 x2 => fun _ h => Option.some.inj h ▸ runs_vextExt x0 x1 x2
  | .vins x0 => fun _ h => Option.some.inj h ▸ runs_vins x0
  | .vinsExt x0 x1 x2 => fun _ h => Option.some.inj h ▸ runs_vinsExt x0 x1 x2
  | .mand x0 => fun _ h => Option.some.inj h ▸ runs_mand x0
  | .mandExt x0 x1 => fun _ h => Option.some.inj h ▸ runs_mandExt x0 x1
  | .mor x0 => fun _ h => Option.some.inj h ▸ runs_mor x0
  | .morExt x0 x1 => fun _ h => Option.some.inj h ▸ runs_morExt x0 x1
  | .mxor x0 => fun _ h => Option.some.inj h ▸ runs_mxor x0
  | .mxorExt x0 x1 => fun _ h => Option.some.inj h ▸ runs_mxorExt x0 x1
  | .mnot x0 => fun _ h => Option.some.inj h ▸ runs_mnot x0
  | .mnotExt x0 x1 => fun _ h => Option.some.inj h ▸ runs_mnotExt x0 x1
  | .mpop x0 => fun _ h => Option.some.inj h ▸ runs_mpop x0
  | .mpopExt x0 x1 => fun _ h => Option.some.inj h ▸ runs_mpopExt x0 x1
  | .mfirst x0 => fun _ h => Option.some.inj h ▸ runs_mfirst x0
  | .mfirstExt x0 x1 => fun _ h => Option.some.inj h ▸ runs_mfirstExt x0 x1
  | .ld x0 x1 => fun _ h => Option.some.inj h ▸ runs_ld x0 x1
  | .st x0 x1 x2 => fun _ h => Option.some.inj h ▸ runs_st x0 x1 x2
  | .vld x0 x1 x2 => fun _ h => Option.some.inj h ▸ runs_vld x0 x1 x2
  | .vlds x0 x1 x2 => fun _ h => Option.some.inj h ▸ runs_vlds x0 x1 x2
  | .vldx x0 x1 x2 => fun _ h => Option.some.inj h ▸ runs_vldx x0 x1 x2
  | .vldff x0 x1 x2 => fun _ h => Option.some.inj h ▸ runs_vldff x0 x1 x2
  | .vst x0 x1 => fun _ h => Option.some.inj h ▸ runs_vst x0 x1
  | .vsts x0 x1 => fun _ h => Option.some.inj h ▸ runs_vsts x0 x1
  | .vstx x0 x1 => fun _ h => Option.some.inj h ▸ runs_vstx x0 x1
  | .vsadd x0 x1 => fun _ h => Option.some.inj h ▸ runs_vsadd x0 x1
  | .aadd x0 x1 x2 => fun _ h => Option.some.inj h ▸ runs_aadd x0 x1 x2
  | .aswap x0 x1 x2 => fun _ h => Option.some.inj h ▸ runs_aswap x0 x1 x2
  | .acas x0 x1 x2 => fun _ h => Option.some.inj h ▸ runs_acas x0 x1 x2
  | .amin x0 x1 x2 => fun _ h => Option.some.inj h ▸ runs_amin x0 x1 x2
  | .amax x0 x1 x2 => fun _ h => Option.some.inj h ▸ runs_amax x0 x1 x2
  | .aand x0 x1 x2 => fun _ h => Option.some.inj h ▸ runs_aand x0 x1 x2
  | .aor x0 x1 x2 => fun _ h => Option.some.inj h ▸ runs_aor x0 x1 x2
  | .axor x0 x1 x2 => fun _ h => Option.some.inj h ▸ runs_axor x0 x1 x2
  | .wjoin x0 => fun _ h => Option.some.inj h ▸ runs_wjoin x0
  | .wjoinImm x0 x1 => fun _ h => Option.some.inj h ▸ runs_wjoinImm x0 x1
  | .wfloor x0 => fun _ h => Option.some.inj h ▸ runs_wfloor x0
  | .wfloorExt x0 => fun _ h => Option.some.inj h ▸ runs_wfloorExt x0
  | .wnow x0 => fun _ h => Option.some.inj h ▸ runs_wnow x0
  | .wnowExt x0 x1 => fun _ h => Option.some.inj h ▸ runs_wnowExt x0 x1
  | .wtest x0 => fun _ h => Option.some.inj h ▸ runs_wtest x0
  | .wtestExt x0 x1 x2 => fun _ h => Option.some.inj h ▸ runs_wtestExt x0 x1 x2
  | .mwait x0 x1 x2 => fun _ h => Option.some.inj h ▸ runs_mwait x0 x1 x2
  | .bar x0 => fun _ h => Option.some.inj h ▸ runs_bar x0
  | .barExt x0 x1 x2 x3 x4 => fun _ h => Option.some.inj h ▸ runs_barExt x0 x1 x2 x3 x4
  | .claimel x0 x1 x2 => fun _ h => Option.some.inj h ▸ runs_claimel x0 x1 x2
  | .pref x0 x1 => fun _ h => Option.some.inj h ▸ runs_pref x0 x1
  | .mclaim x0 => fun _ h => Option.some.inj h ▸ runs_mclaim x0
  | .mrel x0 => fun _ h => Option.some.inj h ▸ runs_mrel x0
  | .mmul x0 x1 x2 x3 x4 => fun _ h => Option.some.inj h ▸ runs_mmul x0 x1 x2 x3 x4
  | .mrd x0 x1 x2 x3 x4 => fun _ h => Option.some.inj h ▸ runs_mrd x0 x1 x2 x3 x4
  | .mwr x0 x1 x2 x3 => fun _ h => Option.some.inj h ▸ runs_mwr x0 x1 x2 x3
  | .mzero x0 x1 x2 => fun _ h => Option.some.inj h ▸ runs_mzero x0 x1 x2
  | .mdecay x0 => fun _ h => Option.some.inj h ▸ runs_mdecay x0
  | .mspill x0 x1 => fun _ h => Option.some.inj h ▸ runs_mspill x0 x1
  | .mfill x0 x1 x2 => fun _ h => Option.some.inj h ▸ runs_mfill x0 x1 x2
  | .wcfg x0 => fun _ h => Option.some.inj h ▸ runs_wcfg x0
  | .wtable x0 => fun _ h => Option.some.inj h ▸ runs_wtable x0
  | .wload x0 x1 => fun _ h => Option.some.inj h ▸ runs_wload x0 x1
  | .wloada x0 x1 => fun _ h => Option.some.inj h ▸ runs_wloada x0 x1
  | .wswap x0 => fun _ h => Option.some.inj h ▸ runs_wswap x0
  | .wexp x0 x1 => fun _ h => Option.some.inj h ▸ runs_wexp x0 x1
  | .wstat x0 x1 x2 => fun _ h => Option.some.inj h ▸ runs_wstat x0 x1 x2
  | .plock x0 => fun _ h => Option.some.inj h ▸ runs_plock x0
  | .plockExt x0 x1 x2 x3 => fun _ h => Option.some.inj h ▸ runs_plockExt x0 x1 x2 x3
  | .punlock x0 => fun _ h => Option.some.inj h ▸ runs_punlock x0
  | .plaunch x0 => fun _ h => Option.some.inj h ▸ runs_plaunch x0
  | .plaunchExt x0 x1 => fun _ h => Option.some.inj h ▸ runs_plaunchExt x0 x1
  | .pfence x0 => fun _ h => Option.some.inj h ▸ runs_pfence x0
  | .pfenceExt x0 x1 => fun _ h => Option.some.inj h ▸ runs_pfenceExt x0 x1
  | .pstat x0 => fun _ h => Option.some.inj h ▸ runs_pstat x0
  | .pstatExt x0 x1 x2 => fun _ h => Option.some.inj h ▸ runs_pstatExt x0 x1 x2
  | .vldp x0 x1 x2 => fun _ h => Option.some.inj h ▸ runs_vldp x0 x1 x2
  | .vstp x0 x1 => fun _ h => Option.some.inj h ▸ runs_vstp x0 x1
  | .cpset x0 => fun _ h => Option.some.inj h ▸ runs_cpset x0
  | .cpsetExt x0 x1 => fun _ h => Option.some.inj h ▸ runs_cpsetExt x0 x1
  | .cpgo x0 => fun _ h => Option.some.inj h ▸ runs_cpgo x0
  | .cpgoExt x0 x1 => fun _ h => Option.some.inj h ▸ runs_cpgoExt x0 x1
  | .cpqf x0 => fun _ h => Option.some.inj h ▸ runs_cpqf x0
  | .cpqfExt x0 x1 x2 => fun _ h => Option.some.inj h ▸ runs_cpqfExt x0 x1 x2
  | .cpstat x0 => fun _ h => Option.some.inj h ▸ runs_cpstat x0
  | .cpstatExt x0 x1 => fun _ h => Option.some.inj h ▸ runs_cpstatExt x0 x1
  | .cpabort x0 => fun _ h => Option.some.inj h ▸ runs_cpabort x0

end Sys2Proof.Machine
end

