-- ==== Sys2Proof/Laws/Vector.lean ====
section
/-! SUPPORT. The checks of vector instructions: a fine operand passes them, and an instruction all of whose operands pass gives what its
function of elements gives. -/
set_option Elab.async false
set_option linter.unusedSimpArgs false
set_option linter.unusedVariables false
namespace Sys2Proof.Machine

theorem check_fine (x : Firing) (r : Req) (a : Option Nat) (ok : Nat → Bool) (sc : Bool) (h : x.fine r.tok ok sc)
    (h1 : r.ok = ok) (h2 : r.scaled = sc) (h3 : r.agree = true → a = some r.tok.vec.code ∨ a = none) : r.check x.slot a = none := by
  obtain ⟨tag, e, m, ht, hf, hk, hs, hm, -⟩ := h
  have hvec : r.isVec = true := by simp [Req.isVec, ht]
  have hcode : r.tok.vec.code = tagFmt tag := by simp [ht, Token.vec, VTok.code]
  have hbad : (List.range r.tok.vec.elems.length).find? (fun e => r.used e && (r.tok.vec.at e).isSome && r.tok.vec.isMarked e) = none := by
    rw [List.find?_eq_none]
    intro k _
    by_cases hs : (r.tok.vec.at k).isSome = true
    · simp [hm k hs]
    · simp [hs]
  have hbad2 : (List.range r.tok.vec.elems.length).find? (fun e => r.used e && (r.tok.vec.at e).isSome && r.tok.vec.isBad e) = none := by
    rw [List.find?_eq_none]
    intro k _
    simp [VTok.isBad, ht, Token.vec]
  unfold Req.check
  simp only [hvec, Bool.not_true, Bool.false_eq_true, if_false, hbad, hbad2, Option.map_none, hcode, hf, h1, hk, h2]
  have hag : (r.agree && a.any (fun c => c != tagFmt tag)) = false := by
    by_cases hg : r.agree = true
    · rcases h3 hg with h | h <;> simp [h, hcode]
    · simp [hg]
  have hsc : ¬(r.tok.vec.scale ≠ 127 ∧ (!(sc && isScaled (tagFmt tag))) = true) := by
    rintro ⟨h1, h2⟩
    have : r.tok.vec.scale = tagScale tag := by simp [ht, Token.vec, VTok.scale]
    rcases hs with h | ⟨h, h'⟩
    · exact h1 (this.trans h)
    · simp [h, h'] at h2
  simp only [hag, Bool.false_eq_true, if_false]
  simp only [ne_eq, Bool.not_eq_true', not_and, Bool.not_eq_false] at hsc
  simpa using hsc

/-- A fine operand has no bad cell. -/
theorem Firing.fine_bad (x : Firing) (t : Token) (ok : Nat → Bool) (sc : Bool) (h : x.fine t ok sc) : t.vec.bad = [] := by
  obtain ⟨tag, e, m, ht, -⟩ := h
  simp [ht, Token.vec]

/-- A request that passes, with what the capacity check and the log ask of it. -/
def Req.passes (r : Req) (x : Firing) : Prop :=
  r.check x.slot (codeOfA x) = none ∧ (r.isVec = true → r.tok.vec.bad = [] ∧ (r.ranged = true → x.vl ≤ capacity x.thread.vlmax r.tok.vec.fmt.width))

theorem firstCheck_none (slot : Nat) (a : Option Nat) : ∀ l : List Req, (∀ r ∈ l, r.check slot a = none) → firstCheck slot a l = none := by
  intro l
  induction l with
  | nil => intro _; rfl
  | cons r t ih =>
    intro h
    simp only [firstCheck, h r (by simp)]
    exact ih (fun q hq => h q (by simp [hq]))

/-- Where every operand passes and the results have room, a vector instruction does what its body does. -/
theorem Firing.vector_go (x : Firing) (reqs : List Req) (widths : List Nat) (nullOut : Out) (s : State) (o : Out) (hl : x.laned) (hg : x.given) (ht : x.typed = true)
    (hr : ∀ r ∈ reqs, r.passes x) (hw : ∀ w ∈ widths, x.vl ≤ capacity x.thread.vlmax w) :
    x.vector reqs widths nullOut (.give s o) = .give s o := by
  obtain ⟨h1, h2⟩ := hl
  obtain ⟨h3, h4⟩ := hg
  unfold Firing.vector Firing.vectorIf Firing.needLanes Firing.vlKnown Firing.tagFault
  have hn : (decide (x.p = .null) || x.anyNull) = false := by simp [h3, h4]
  simp only [x.misfit_none ht, hn, Bool.false_eq_true, if_false]
  rw [firstCheck_none _ _ _ (fun r hr' => (hr r hr').1)]
  have hcap : ((widths ++ (reqs.filter (fun r => r.isVec && r.ranged)).map (fun r => r.tok.vec.fmt.width)).any
      (fun w => decide (capacity x.thread.vlmax w < x.vl))) = false := by
    rw [List.any_eq_false]
    intro w hw'
    simp only [List.mem_append, List.mem_map, List.mem_filter, Bool.and_eq_true] at hw'
    simp only [decide_eq_true_eq, Nat.not_lt]
    rcases hw' with h | ⟨r, ⟨hr1, hr2, hr3⟩, rfl⟩
    · exact hw w h
    · exact ((hr r hr1).2 hr2).2 hr3
  have hlat : x.latent reqs s = s := by
    unfold Firing.latent
    have : reqs.any (fun r => r.isVec && !r.tok.vec.bad.isEmpty) = false := by
      rw [List.any_eq_false]
      intro r hr'
      by_cases hv : r.isVec = true
      · simp [hv, ((hr r hr').2 hv).1]
      · simp [hv]
    simp [this]
  simp only [h1, h2, if_false, if_true, hcap, Bool.false_eq_true, h3, h4, or_self, hlat, Fired.onto, decide_false, Bool.or_self]

/-- A fine operand passes its request. -/
theorem Req.passes_fine (r : Req) (x : Firing) (ok : Nat → Bool) (sc : Bool) (h : x.fine r.tok ok sc) (h1 : r.ok = ok) (h2 : r.scaled = sc)
    (h3 : r.agree = true → codeOfA x = some r.tok.vec.code ∨ codeOfA x = none) : r.passes x := by
  refine ⟨check_fine x r _ ok sc h h1 h2 h3, fun _ => ⟨x.fine_bad _ _ _ h, fun _ => ?_⟩⟩
  obtain ⟨tag, e, m, ht, -, -, -, -, hc⟩ := h
  simpa [ht, Token.vec, VTok.fmt, VTok.code] using hc

/-- A scalar operand is not checked as a vector. -/
theorem Req.passes_scalar (r : Req) (x : Firing) (h : r.isVec = false) : r.passes x := by
  refine ⟨?_, fun hv => ?_⟩
  · simp [Req.check, h]
  · simp [h] at hv

/-- The code of a fine A. -/
theorem Firing.codeOfA_fine (x : Firing) (ok : Nat → Bool) (sc : Bool) (h : x.fine x.a ok sc) : codeOfA x = some x.a.vec.code := by
  obtain ⟨tag, e, m, ht, -⟩ := h
  simp [codeOfA, ht, Token.vec, VTok.code]

end Sys2Proof.Machine
end

