-- ==== Sys2Proof/Tests/Slice0.lean ====
section
/-! SUPPORT. Tests: what the checks refuse, words of every family, what single steps give, and for each statement with hypotheses a device and
operands that meet them (the theorems named witness_<statement>). -/
set_option Elab.async false
set_option linter.unusedSimpArgs false
set_option linter.unusedVariables false
set_option linter.unreachableTactic false
set_option linter.unusedTactic false
namespace Sys2Proof.Tests
open Sys2Proof.Machine

/-! A small device: cluster 0 maps the first 16 MiB of DRAM to itself; tile 0 translates its first 2 MiB one to one, readable, writable and
executable by both modes; thread 0 runs there in supervisor mode with one decoded block. -/
def bForm : BForm := ⟨.always, none, none⟩
def noExt : Ext := ⟨none, none⟩
def imm7 : Imm := .word noExt 7
def vWord : VWord := ⟨none, none, 0, .dyn, false, false⟩
def mWord : MWord := ⟨none, 1, 3, .global, false, false, false, true, false, false, 0⟩
def kForm : KForm := ⟨.always, 3⟩
def kRes : KRes := ⟨none, none, none⟩
def block (toks : List TokAt) : BlockExec := ⟨0, 0x1000, [], [0], true, toks, [], [], [], [], 0, none, none, [], false, [], [], 0⟩
def thread (toks : List TokAt) : Thread :=
  { Thread.absent with status := .running, lanes := 1, vl := 2, ceil := 256, tvec := 0x8000, alloc := 5, flight := [block toks] }
def mapped : Cluster := { Cluster.start with il := [(0, (0x80000001, 0x8000000))] }
def tile : Tile := { Tile.start with tlb := [⟨0, 2, 0, 0, 0x3F⟩] }
def device (toks : List TokAt) : State :=
  { State.reset with focus := .slot 0 0 0, fresh := 7, ceiling := 0x100000, threads := [(0, thread toks)], clusters := [(0, mapped)], tiles := [(0, tile)] }
/-- Tokens for what an instruction takes: the scalars v at A, w at B, u at C; vectors of two elements under a tag. -/
def tokOf (v w u : Word) (tag : BitVec 16) (e : Opnd × Want) : TokAt :=
  let s : Word := match e.1 with | .a => v | .b => w | _ => u
  ⟨0, e.1, match e.2 with | .vector => .vector tag [some 3, some 2] [] [] | .mask => .mask [some true, some false] | _ => .scalar s⟩
def fed (v w u : Word) (tag : BitVec 16) (r : Raw) : State := device (r.takes.map (tokOf v w u tag))
def plain (r : Raw) : State := fed 0x4000 7 0 0x2F0 r

/-- Some device where `r` fires with free targets has operands that meet `ok`. -/
def Met (r : Raw) (ok : Firing → Prop) : Prop := ∃ s x, State.firing s r = some x ∧ x.clear = true ∧ ok x
/-- A check that says so. -/
def Says (p : Firing → Bool) (ok : Firing → Prop) : Prop := ∀ x, p x = true → ok x
def met (p : Firing → Bool) (s : State) (r : Raw) : Bool := match s.firing r with | some x => x.clear && p x | none => false
theorem met_one {ok : Firing → Prop} {p : Firing → Bool} (hp : Says p ok) {r : Raw} (s : State) (h : met p s r = true) : Met r ok := by
  unfold met at h
  split at h
  · rename_i x hx
    simp only [Bool.and_eq_true] at h
    exact ⟨s, x, hx, h.1, hp x h.2⟩
  · cases h
theorem met_all {ok : Firing → Prop} {p : Firing → Bool} (hp : Says p ok) (f : Raw → State) {l : List Raw}
    (h : l.all (fun r => met p (f r) r) = true) : ∀ r ∈ l, Met r ok :=
  fun r hr => met_one hp (f r) (List.all_eq_true.mp h r hr)

theorem says_and {p q : Firing → Bool} {P Q : Firing → Prop} (h : Says p P) (k : Says q Q) : Says (fun x => p x && q x) (fun x => P x ∧ Q x) :=
  fun x e => ⟨h x (Bool.and_eq_true_iff.mp e).1, k x (Bool.and_eq_true_iff.mp e).2⟩
theorem says_dec {P : Firing → Prop} [DecidablePred P] : Says (fun x => decide (P x)) P := fun _ h => of_decide_eq_true h
theorem says_acts : Says Firing.acts Acts := fun _ h => h
def lanedB (x : Firing) : Bool := decide (x.thread.groups ≠ 0 ∧ x.thread.vlOut = 0)
def givenB (x : Firing) : Bool := decide (x.anyNull = false ∧ x.p ≠ .null)
def wOkB (x : Firing) : Bool := decide (x.raw.mword.wi = true → x.badWitness 2 x.c.word = none)
theorem says_laned : Says lanedB Firing.laned := by intro x h; show _ ∧ _; exact of_decide_eq_true h
theorem says_given : Says givenB Firing.given := by intro x h; show _ ∧ _; exact of_decide_eq_true h
theorem says_wOk : Says wOkB Firing.wOk := by intro x h; show _ → _; exact of_decide_eq_true h
def fineTok (x : Firing) (t : Token) (ok : Nat → Bool) (scaled : Bool) : Bool :=
  match t with
  | .vector tag _ [] [] => tagFmt tag != 0 && ok (tagFmt tag) && (tagScale tag == 127 || (scaled && isScaled (tagFmt tag))) &&
      decide (x.vl ≤ capacity x.thread.vlmax (fmtOf (tagFmt tag)).width)
  | _ => false
theorem says_fine (t : Firing → Token) (ok : Nat → Bool) (scaled : Bool) : Says (fun x => fineTok x (t x) ok scaled) (fun x => x.fine (t x) ok scaled) := by
  intro x h
  have h : fineTok x (t x) ok scaled = true := h
  unfold fineTok at h
  split at h
  · rename_i tag e ht
    simp only [Bool.and_eq_true, Bool.or_eq_true, bne_iff_ne, ne_eq, beq_iff_eq, decide_eq_true_eq] at h
    refine ⟨tag, e, [], ht, h.1.1.1, h.1.1.2, h.1.2, ?_, h.2⟩
    intro k hk
    simp [ht, Token.vec, VTok.isMarked]
  · cases h
def vec1 (ok : Nat → Bool) (x : Firing) : Bool := lanedB x && (givenB x && fineTok x x.a ok false)
def vec2 (ok : Nat → Bool) (x : Firing) : Bool := vec1 ok x && (fineTok x x.b ok false && decide (x.b.vec.code = x.a.vec.code))
def vec3 (ok : Nat → Bool) (x : Firing) : Bool := vec2 ok x && (fineTok x x.c ok false && decide (x.c.vec.code = x.a.vec.code))
theorem says_vec1 (ok : Nat → Bool) : Says (vec1 ok) (Firing.vec1Ok ok) := says_and says_laned (says_and says_given (says_fine Firing.a ok false))
theorem says_vec2 (ok : Nat → Bool) : Says (vec2 ok) (Firing.vec2Ok ok) := says_and (says_vec1 ok) (says_and (says_fine Firing.b ok false) says_dec)
theorem says_vec3 (ok : Nat → Bool) : Says (vec3 ok) (Firing.vec3Ok ok) := says_and (says_vec2 ok) (says_and (says_fine Firing.c ok false) says_dec)
theorem met_at {ok : Firing → Prop} (s : State) (r : Raw) (h : (s.firing r).isSome = true) (c : ((s.firing r).get h).clear = true)
    (k : ok ((s.firing r).get h)) : Met r ok := ⟨s, _, (Option.some_get h).symm, c, k⟩
def isScalar : Token → Bool | .scalar _ => true | _ => false
def isVector : Token → Bool | .vector .. => true | _ => false
def isMask : Token → Bool | .mask _ => true | _ => false
theorem says_scalar : Says (fun x => isScalar x.a) (fun x => ∃ v, x.a = .scalar v) := by
  intro x h; cases hx : x.a <;> simp [hx, isScalar] at h ⊢
theorem says_vector : Says (fun x => isVector x.a) (fun x => ∃ t l m k, x.a = .vector t l m k) := by
  intro x h; cases hx : x.a <;> simp [hx, isVector] at h ⊢
theorem says_mask : Says (fun x => isMask x.a) (fun x => ∃ l, x.a = .mask l) := by
  intro x h; cases hx : x.a <;> simp [hx, isMask] at h ⊢
theorem says_count {Q : Firing → Prop} : Says (fun x => isScalar x.b) (fun x => (∃ n, x.b = .scalar n) ∨ Q x) := by
  intro x h; cases hx : x.b <;> simp [hx, isScalar] at h ⊢
def paddB (x : Firing) : Bool := match decodePtr x.a.word with | some p => (p.add x.b.word.toInt).isSome | none => false
theorem says_padd : Says paddB (fun x => ∃ p q, decodePtr x.a.word = some p ∧ p.add x.b.word.toInt = some q) := by
  intro x h
  unfold paddB at h
  split at h
  · rename_i p hp
    exact ⟨p, _, hp, (Option.some_get h).symm⟩
  · cases h
def claimsB (x : Firing) : Bool := decide (x.thread.mclaimOut = false ∧ (x.st.tile x.tile).claimant = some x.tid ∧ x.mxWaits = false)
theorem says_claims : Says claimsB Firing.claims := by intro x h; show _ ∧ _; exact of_decide_eq_true h
def storesB (kind : AccKind) (host : Bool) (oks : List (Nat × Loc)) (x : Firing) : Bool :=
  let n := x.b.vec.fmt.width / 8
  decide (x.storeAddrs x.b.vec.fmt.width x.active ≠ [] ∧
    sweep ((x.storeAddrs x.b.vec.fmt.width x.active).map (fun e => x.access kind host n n e.1 e.2)) = ⟨oks, [], none⟩)
theorem says_stores (kind : AccKind) (host : Bool) (oks : List (Nat × Loc)) : Says (storesB kind host oks) (fun x => x.storesAt kind host oks) := by
  intro x h; show _ ∧ _; exact of_decide_eq_true h
/-- The same device with the claim held. -/
def claimed (s : State) : State := s.setTile 0 { s.tile 0 with claimant := some 0 }
def at4000 (off : Nat) : Loc := ⟨0x4000 + off, .cached, false, false, BitVec.ofNat 64 (0x4000 + off)⟩

/-! Plane sets: a descriptor at 0x200000 of two subarrays of bank 0, rows 16 and 17 of the first locked by thread 0; a plane reference, an image
(QSET, QRET) and a binding after it. -/
def descBytes : List Byte := leBytes 8 0 ++ leBytes 2 0 ++ leBytes 2 1 ++ leBytes 2 1 ++ leBytes 1 0 ++ leBytes 1 2 ++ leBytes 2 0 ++ leBytes 2 512 ++ List.replicate 44 0
def refBytes : List Byte := leBytes 8 0x200000 ++ leBytes 2 16 ++ leBytes 1 2 ++ leBytes 1 0 ++ leBytes 4 0
def imageBytes : List Byte := leBytes 4 0x00800005 ++ leBytes 4 0xB ++ List.replicate 56 0
def bindBytes : List Byte := leBytes 8 0x200000 ++ leBytes 2 0 ++ leBytes 2 1 ++ leBytes 2 16 ++ List.replicate 50 0
def planeMem : Memory :=
  writeBytes (writeBytes (writeBytes (writeBytes [] 0x200000 descBytes) 0x200100 refBytes) 0x200140 imageBytes) 0x200180 bindBytes
def planes (s : State) : State :=
  { s with mem := planeMem, tiles := [(0, { tile with tlb := [⟨0, 2, 0, 0, 0x23F⟩, ⟨0, 2, 1, 0x200000, 0x3F⟩] })],
           clusters := [(0, { mapped with locks := [⟨0, true, [⟨0, 16, 2, 0⟩], 0, 0, []⟩] })] }
def region0 : Region' := ⟨0, 0, 8, 0, 0, 0, 8⟩
def scalars (a b c : Word) : State := device [⟨0, .a, .scalar a⟩, ⟨0, .b, .scalar b⟩, ⟨0, .c, .scalar c⟩]
/-- Rows 16 and 17 of the set's first subarray. -/
def range16 : Word := 0x0001000000000410
def walk16 : QWalk := ⟨1, 2, [], [], [], [], [⟨0, 0, 1⟩]⟩

/-! What well-formedness refuses: one ill-formed term for each check. -/
theorem test_smoke : wellFormed (.qloop 0) = false := by decide
theorem test_refused : [Instr.rdv ⟨.always, 32, none⟩, .rdm ⟨.always, 16, none⟩, .wrv ⟨.always, 32⟩, .wrm ⟨.always, 16⟩, .csrr bForm noExt 0x109, .csrw .always 0,
    .vaddExt bForm { vWord with xsel := 1 }, .vfill bForm vWord 0xFE0 none, .vcvt bForm vWord 0x0FC1, .vid bForm vWord 0xFED, .vlds bForm { mWord with sx := false, sz := 0 } 0x0FCA,
    .barExt bForm noExt 0 33 0, .wtestExt bForm noExt 3, .cpsetExt .always 18, .qcopy 12 0, .qset false 0x1F0 0 0].all (fun i => !wellFormed i) = true := by decide +kernel
theorem test_refused_memory : [Instr.vsts bForm { mWord with sx := false, sz := 0, wi := true }, .st bForm { mWord with sx := false, rw := true } none,
    .st bForm { mWord with sx := false, fr := true } none, .st bForm mWord none, .ld bForm { mWord with ord := true }, .ld bForm { mWord with ff := true },
    .vlds bForm { mWord with sx := false, sz := 0, ff := true, rw := true } 0xFED, .aadd bForm { mWord with sz := 1 } none, .vld bForm { mWord with sx := false } 0xFED,
    .vldp bForm { mWord with sx := false, sz := 0, sp := .scratch } 0xFE5, .pref { bForm with t0 := some ⟨.a, 1⟩ } { mWord with sx := false, sz := 0 }].all (fun i => !wellFormed i) = true := by
  decide +kernel
theorem test_refused_rows : [Instr.preempt 2048, .fillEnd 64, .clusterTimeBroadcast 8, .refresh 49152, .wait 4096, .laneResidueFailure 0 128 0 0, .laneSelfTestEnd 0 16 true, .copyStrip 0 8,
    .hostMemrd (2 ^ 52) 1, .idleTimeSend 8, .rowSpare 0 16384, .bankRetireMove 0 16, .peerTableWrite 4096 0].all (fun i => !wellFormed i) = true := by decide +kernel

/-! Words of every family against the encoding tables (R77 to R86, R91), put together by hand field by field. -/
theorem test_decode_rds : decodeInstr [0x08044004] = some (.rds ⟨.always, 4, some ⟨.a, 1⟩⟩, 1) := by decide +kernel
theorem test_decode_mov : decodeInstr [0xE1A0581C] = some (.mov ⟨.onTrue, some ⟨.a, 5⟩, some ⟨.p, 6⟩⟩, 1) := by decide +kernel
theorem test_decode_lit : decodeInstr [0x00289026, 0x89ABCDEF, 0x01234567] = some (.lit ⟨.always, some ⟨.b, 9⟩, none⟩ (.lit 0x0123456789ABCDEF), 3) := by decide +kernel
theorem test_decode_call : decodeInstr [0xFFFFD034] = some (.call ⟨.always, 0xFFFFD⟩, 1) := by decide +kernel
theorem test_decode_add : decodeInstr [0x00283081, 0, 100] = some (.addImm ⟨.always, some ⟨.b, 3⟩, none⟩ (.word ⟨none, none⟩ 100), 3) := by decide +kernel
theorem test_decode_vadd : decodeInstr [0x00207D41, 0x0A000000, 0] = some (.vaddExt ⟨.onFalse, some ⟨.a, 7⟩, none⟩ ⟨none, none, 0, .rtz, true, false⟩, 3) := by decide +kernel
theorem test_decode_vid : decodeInstr [0x002021C1, 0, 0xFE8] = some (.vid ⟨.always, some ⟨.a, 2⟩, none⟩ ⟨none, none, 0, .dyn, false, false⟩ 0xFE8, 3) := by decide +kernel
theorem test_decode_ld : decodeInstr [0x00304241, 0x01458E08, 0xFFFFFFF8] =
    some (.ld ⟨.always, some ⟨.c, 4⟩, none⟩ ⟨some ⟨.a, 8⟩, 3, 3, .global, false, true, false, true, false, false, 0xFFFFFFF8⟩, 3) := by decide +kernel
theorem test_decode_mmul : decodeInstr [0x000002C9, 0x1400, 0x1207] = some (.mmul ⟨.always, 5⟩ 7 .accumulate 2 false, 3) := by decide +kernel
theorem test_decode_wload : decodeInstr [0x000002ED, 0x400, 1] = some (.wload ⟨.always, 1⟩ true, 3) := by decide +kernel
theorem test_decode_plaunch : decodeInstr [0x0020C308] = some (.plaunch ⟨.always, some ⟨.a, 12⟩, none⟩, 1) := by decide +kernel
theorem test_decode_qcopy : decodeFurrow 0x0081AA00 = some (.qcopy 0x2A0 0x206) := by decide +kernel
theorem test_decode_qskip : decodeFurrow 0x01004209 = some (.qskip 0 true true 1 0) := by decide +kernel
theorem test_decode_none : [decodeInstr [0], decodeInstr [0x08044404], decodeInstr [0x00000068], decodeInstr [0x00283081, 0], decodeInstr [0x00283081, 0x20000000, 100]] = [none, none, none, none, none] ∧
    decodeFurrow 0x0000000C = none := by decide +kernel


/-! Firing. -/
theorem witness_ScalarArithmetic :
  (∀ r ∈ ([⟨.add, .b bForm⟩, ⟨.add, .imm bForm imm7⟩, ⟨.sub, .b bForm⟩, ⟨.sub, .imm bForm imm7⟩, ⟨.mul, .b bForm⟩, ⟨.mul, .imm bForm imm7⟩, ⟨.mulh, .b bForm⟩, ⟨.mulh, .imm bForm imm7⟩, ⟨.mulhn, .b bForm⟩, ⟨.mulhn, .imm bForm imm7⟩, ⟨.div, .b bForm⟩, ⟨.div, .imm bForm imm7⟩, ⟨.divn, .b bForm⟩, ⟨.divn, .imm bForm imm7⟩, ⟨.rem, .b bForm⟩, ⟨.rem, .imm bForm imm7⟩, ⟨.remn, .b bForm⟩, ⟨.remn, .imm bForm imm7⟩] : List Raw), Met r Acts) :=
  met_all says_acts plain (by decide +kernel)
theorem witness_ScalarLogicAndShifts :
  (∀ r ∈ ([⟨.and, .b bForm⟩, ⟨.and, .imm bForm imm7⟩, ⟨.or, .b bForm⟩, ⟨.or, .imm bForm imm7⟩, ⟨.xor, .b bForm⟩, ⟨.xor, .imm bForm imm7⟩, ⟨.andn, .b bForm⟩, ⟨.andn, .imm bForm imm7⟩, ⟨.shl, .b bForm⟩, ⟨.shl, .imm bForm imm7⟩, ⟨.shr, .b bForm⟩, ⟨.shr, .imm bForm imm7⟩, ⟨.sra, .b bForm⟩, ⟨.sra, .imm bForm imm7⟩, ⟨.rotl, .b bForm⟩, ⟨.rotl, .imm bForm imm7⟩] : List Raw), Met r Acts) :=
  met_all says_acts plain (by decide +kernel)
theorem witness_ScalarComparesAndSelects :
  (∀ r ∈ ([⟨.min, .b bForm⟩, ⟨.min, .imm bForm imm7⟩, ⟨.max, .b bForm⟩, ⟨.max, .imm bForm imm7⟩, ⟨.minn, .b bForm⟩, ⟨.minn, .imm bForm imm7⟩, ⟨.maxn, .b bForm⟩, ⟨.maxn, .imm bForm imm7⟩, ⟨.teq, .b bForm⟩, ⟨.teq, .imm bForm imm7⟩, ⟨.tne, .b bForm⟩, ⟨.tne, .imm bForm imm7⟩, ⟨.tlt, .b bForm⟩, ⟨.tlt, .imm bForm imm7⟩, ⟨.tle, .b bForm⟩, ⟨.tle, .imm bForm imm7⟩, ⟨.tltn, .b bForm⟩, ⟨.tltn, .imm bForm imm7⟩, ⟨.tlen, .b bForm⟩, ⟨.tlen, .imm bForm imm7⟩, ⟨.tbit, .b bForm⟩, ⟨.tbit, .imm bForm imm7⟩, ⟨.sel, .b bForm⟩, ⟨.sel, .imm bForm imm7⟩] : List Raw), Met r Acts) :=
  met_all says_acts plain (by decide +kernel)
theorem witness_ScalarBits :
  (∀ r ∈ ([⟨.clz, .b bForm⟩, ⟨.clz, .x bForm noExt 0⟩, ⟨.ctz, .b bForm⟩, ⟨.ctz, .x bForm noExt 0⟩, ⟨.popc, .b bForm⟩, ⟨.popc, .x bForm noExt 0⟩, ⟨.bswap, .b bForm⟩, ⟨.bswap, .x bForm noExt 0⟩, ⟨.sext, .b bForm⟩, ⟨.sext, .imm bForm imm7⟩, ⟨.zext, .b bForm⟩, ⟨.zext, .imm bForm imm7⟩, ⟨.bfx, .b bForm⟩, ⟨.bfx, .imm bForm imm7⟩, ⟨.bfi, .b bForm⟩, ⟨.bfi, .imm bForm imm7⟩] : List Raw), Met r Acts) :=
  met_all says_acts plain (by decide +kernel)
theorem witness_AddressWindows :
  (∀ r ∈ ([⟨.sptest, .b bForm⟩, ⟨.sptest, .x bForm noExt 0⟩] : List Raw), Met r Acts) ∧
  (∀ r ∈ ([⟨.padd, .b bForm⟩, ⟨.padd, .imm bForm imm7⟩] : List Raw), Met r (fun x => Acts x ∧ ∃ p q, decodePtr x.a.word = some p ∧ p.add x.b.word.toInt = some q)) ∧
  (∀ r ∈ ([⟨.spcast, .b bForm⟩, ⟨.spcast, .imm bForm (.word noExt 0)⟩] : List Raw), Met r (fun x => Acts x ∧ x.b.word = 0 ∧ x.a.word.toNat < 2 ^ 56)) ∧
  (∀ r ∈ ([⟨.spcast, .b bForm⟩, ⟨.spcast, .imm bForm (.word noExt 1)⟩] : List Raw), Met r (fun x => Acts x ∧ x.b.word = 1 ∧ x.a.word.toNat < 2 ^ 40)) ∧
  (∀ r ∈ ([⟨.spcast, .b bForm⟩, ⟨.spcast, .imm bForm (.word noExt 2)⟩] : List Raw), Met r (fun x => Acts x ∧ x.b.word = 2 ∧ x.a.word.toNat < 2 ^ 22)) ∧
  (∀ r ∈ ([⟨.spcast, .b bForm⟩, ⟨.spcast, .imm bForm (.word noExt 3)⟩] : List Raw), Met r (fun x => Acts x ∧ x.b.word = 3 ∧ x.a.word.toNat < 2 ^ 26)) ∧
  (∀ r ∈ ([⟨.spcast, .b bForm⟩, ⟨.spcast, .imm bForm (.word noExt 0x101)⟩] : List Raw), Met r (fun x => Acts x ∧ x.b.word = 0x101 ∧ decodePtr x.a.word = some ⟨.priv x.tid, (x.a.word.extractLsb' 0 40).toNat⟩)) ∧
  (∀ r ∈ ([⟨.spcast, .b bForm⟩, ⟨.spcast, .imm bForm (.word noExt 0x200)⟩] : List Raw), Met r (fun x => Acts x ∧ x.b.word.extractLsb' 9 55 ≠ 0)) :=
  ⟨met_all says_acts plain (by decide +kernel),
  met_all (says_and says_acts says_padd) plain (by decide +kernel),
  met_all (says_and says_acts (says_and says_dec says_dec)) (fed 0x4000 0 0 (plainTag 13)) (by decide +kernel),
  met_all (says_and says_acts (says_and says_dec says_dec)) (fed 0x4000 1 0 (plainTag 13)) (by decide +kernel),
  met_all (says_and says_acts (says_and says_dec says_dec)) (fed 0x4000 2 0 (plainTag 13)) (by decide +kernel),
  met_all (says_and says_acts (says_and says_dec says_dec)) (fed 0x4000 3 0 (plainTag 13)) (by decide +kernel),
  met_all (says_and says_acts (says_and says_dec says_dec)) (fed 0xFC00000000004000 0x101 0 (plainTag 13)) (by decide +kernel),
  met_all (says_and says_acts says_dec) (fed 0x4000 0x200 0 (plainTag 13)) (by decide +kernel)⟩
theorem witness_RegisterAndTokenMoves :
  Met ⟨.rds, .rr (⟨.always, 4, none⟩ : RRead)⟩ (fun x => Acts x ∧ (x.thread.sregAt x.serial (⟨.always, 4, none⟩ : RRead).reg.toNat).isSome = true) ∧
  (∀ r ∈ ([⟨.rdv, .rr (⟨.always, 4, none⟩ : RRead)⟩, ⟨.rdm, .rr (⟨.always, 4, none⟩ : RRead)⟩] : List Raw), Met r (fun x => x.laned ∧ x.p = .all)) ∧
  (∀ r ∈ ([⟨.wrs, .rw (⟨.always, 4⟩ : RWrite)⟩, ⟨.null, .b bForm⟩, ⟨.null, .x bForm noExt 0⟩, ⟨.lit, .imm bForm imm7⟩, ⟨.pcb, .b bForm⟩, ⟨.pcb, .imm bForm imm7⟩] : List Raw), Met r Acts) ∧
  Met ⟨.wrv, .rw (⟨.always, 4⟩ : RWrite)⟩ (fun x => x.laned ∧ x.a.badCells = []) ∧
  Met ⟨.wrv, .rw (⟨.always, 4⟩ : RWrite)⟩ (fun x => x.laned ∧ x.a.badCells ≠ [] ∧ x.a.elemAt x.p x.a.badCells.contains = none) ∧
  Met ⟨.wrm, .rw (⟨.always, 4⟩ : RWrite)⟩ (fun x => x.laned) ∧
  (∀ r ∈ ([⟨.mov, .b bForm⟩, ⟨.mov, .x bForm noExt 0⟩] : List Raw), Met r (fun x => Acts x ∧ ∃ v, x.a = .scalar v)) ∧
  (∀ r ∈ ([⟨.mov, .b bForm⟩, ⟨.mov, .x bForm noExt 0⟩] : List Raw), Met r (fun x => x.given ∧ ∃ t l m k, x.a = .vector t l m k)) ∧
  (∀ r ∈ ([⟨.mov, .b bForm⟩, ⟨.mov, .x bForm noExt 0⟩] : List Raw), Met r (fun x => x.given ∧ ∃ l, x.a = .mask l)) :=
  ⟨met_one (says_and says_acts says_dec) (plain ⟨.rds, .rr (⟨.always, 4, none⟩ : RRead)⟩) (by decide +kernel),
  met_all (says_and says_laned says_dec) plain (by decide +kernel),
  met_all says_acts plain (by decide +kernel),
  met_one (says_and says_laned says_dec) (plain ⟨.wrv, .rw (⟨.always, 4⟩ : RWrite)⟩) (by decide +kernel),
  met_one (says_and says_laned (says_and says_dec says_dec)) ((fun (_ : Raw) => device [⟨0, .a, .vector 0xFED [none, some 2] [] [0]⟩]) ⟨.wrv, .rw (⟨.always, 4⟩ : RWrite)⟩) (by decide +kernel),
  met_one says_laned (plain ⟨.wrm, .rw (⟨.always, 4⟩ : RWrite)⟩) (by decide +kernel),
  met_all (says_and says_acts says_scalar) plain (by decide +kernel),
  met_all (says_and says_given says_vector) (fun (_ : Raw) => device [⟨0, .a, .vector 0xFED [some 3, none] [] []⟩]) (by decide +kernel),
  met_all (says_and says_given says_mask) (fun (_ : Raw) => device [⟨0, .a, .mask [some true, none]⟩]) (by decide +kernel)⟩
theorem witness_BlockExits :
  (∀ r ∈ ([⟨.br, .j (⟨.always, 4⟩ : JForm)⟩, ⟨.call, .j (⟨.always, 4⟩ : JForm)⟩, ⟨.yield, .j (⟨.always, 4⟩ : JForm)⟩, ⟨.sysc, .j (⟨.always, 4⟩ : JForm)⟩, ⟨.halt, .p .always⟩] : List Raw), Met r (fun x => Acts x ∧ x.block.exit = none)) ∧
  (∀ r ∈ ([⟨.bri, .p .always⟩, ⟨.calli, .p .always⟩] : List Raw), Met r (fun x => Acts x ∧ x.block.exit = none ∧ x.a.word.extractLsb' 56 8 = 0 ∧ x.a.word.extractLsb' 0 6 = 0)) :=
  ⟨met_all (says_and says_acts says_dec) plain (by decide +kernel),
  met_all (says_and says_acts (says_and says_dec (says_and says_dec says_dec))) plain (by decide +kernel)⟩
theorem witness_CsrReads :
  (∀ r ∈ ([⟨.csrr, .x bForm noExt 0x000⟩, ⟨.csrr, .x bForm noExt 0x001⟩, ⟨.csrr, .x bForm noExt 0x002⟩, ⟨.csrr, .x bForm noExt 0x003⟩, ⟨.csrr, .x bForm noExt 0x004⟩, ⟨.csrr, .x bForm noExt 0x005⟩, ⟨.csrr, .x bForm noExt 0x020⟩, ⟨.csrr, .x bForm noExt 0x021⟩, ⟨.csrr, .x bForm noExt 0x031⟩, ⟨.csrr, .x bForm noExt 0x040⟩, ⟨.csrr, .x bForm noExt 0x041⟩, ⟨.csrr, .x bForm noExt 0x050⟩] : List Raw), Met r Acts) ∧
  (∀ r ∈ ([⟨.csrr, .x bForm noExt 0x010⟩, ⟨.csrr, .x bForm noExt 0x011⟩, ⟨.csrr, .x bForm noExt 0x012⟩] : List Raw), Met r (fun x => Acts x ∧ x.thread.vlOut = 0)) ∧
  (∀ r ∈ ([⟨.csrr, .x bForm noExt 0x030⟩, ⟨.csrr, .x bForm noExt 0x051⟩] : List Raw), Met r (fun x => Acts x ∧ x.oldest = true)) ∧
  (∀ r ∈ ([⟨.csrr, .x bForm noExt 0x100⟩, ⟨.csrr, .x bForm noExt 0x101⟩, ⟨.csrr, .x bForm noExt 0x102⟩, ⟨.csrr, .x bForm noExt 0x103⟩, ⟨.csrr, .x bForm noExt 0x104⟩, ⟨.csrr, .x bForm noExt 0x105⟩, ⟨.csrr, .x bForm noExt 0x106⟩, ⟨.csrr, .x bForm noExt 0x107⟩, ⟨.csrr, .x bForm noExt 0x108⟩, ⟨.csrr, .x bForm noExt 0x110⟩, ⟨.csrr, .x bForm noExt 0x111⟩, ⟨.csrr, .x bForm noExt 0x112⟩, ⟨.csrr, .x bForm noExt 0x120⟩, ⟨.csrr, .x bForm noExt 0x130⟩, ⟨.csrr, .x bForm noExt 0x131⟩, ⟨.csrr, .x bForm noExt 0x133⟩, ⟨.csrr, .x bForm noExt 0x134⟩, ⟨.csrr, .x bForm noExt 0x135⟩, ⟨.csrr, .x bForm noExt 0x136⟩, ⟨.csrr, .x bForm noExt 0x137⟩, ⟨.csrr, .x bForm noExt 0x138⟩, ⟨.csrr, .x bForm noExt 0x139⟩] : List Raw), Met r (fun x => Acts x ∧ x.thread.supervisor = true)) :=
  ⟨met_all says_acts plain (by decide +kernel),
  met_all (says_and says_acts says_dec) plain (by decide +kernel),
  met_all (says_and says_acts says_dec) plain (by decide +kernel),
  met_all (says_and says_acts says_dec) plain (by decide +kernel)⟩
theorem witness_ControlEffectsAtFiring :
  Met ⟨.csrw, .px .always ((0x031 : BitVec 12).setWidth 32)⟩ (fun x => Acts x ∧ ((0x031 : BitVec 12).toNat < 0x100 ∨ x.thread.supervisor = true)) ∧
  Met ⟨.icinv, .p .always⟩ Acts ∧
  Met ⟨.tlbinv, .p .always⟩ (fun x => Acts x ∧ x.thread.supervisor = true ∧ x.b.word.extractLsb' 14 50 = 0 ∧ x.b.word.extractLsb' 12 2 ≠ 3 ∧ (x.b.word.extractLsb' 12 2 = 0 → x.a.word.extractLsb' 56 8 = 0)) ∧
  Met ⟨.eret, .p .always⟩ (fun x => Acts x ∧ x.thread.supervisor = true) ∧
  Met ⟨.setvl, .b bForm⟩ (fun x => Acts x ∧ (x.b.word = 8 ∨ x.b.word = 16 ∨ x.b.word = 32 ∨ x.b.word = 64)) ∧
  Met ⟨.lclaim, .b bForm⟩ (fun x => Acts x ∧ x.a.word.toNat ≤ 16) :=
  ⟨met_one (says_and says_acts says_dec) (plain ⟨.csrw, .px .always ((0x031 : BitVec 12).setWidth 32)⟩) (by decide +kernel),
  met_one says_acts (plain ⟨.icinv, .p .always⟩) (by decide +kernel),
  met_one (says_and says_acts (says_and says_dec (says_and says_dec (says_and says_dec says_dec)))) (plain ⟨.tlbinv, .p .always⟩) (by decide +kernel),
  met_one (says_and says_acts says_dec) (plain ⟨.eret, .p .always⟩) (by decide +kernel),
  met_one (says_and says_acts says_dec) ((fed 100 32 0 (plainTag 13)) ⟨.setvl, .b bForm⟩) (by decide +kernel),
  met_one (says_and says_acts says_dec) ((fed 4 7 0 (plainTag 13)) ⟨.lclaim, .b bForm⟩) (by decide +kernel)⟩
theorem witness_VectorArithmetic :
  (∀ r ∈ ([⟨.vadd, .b bForm⟩, ⟨.vadd, .v bForm vWord 0 none⟩, ⟨.vsub, .b bForm⟩, ⟨.vsub, .v bForm vWord 0 none⟩, ⟨.vmul, .b bForm⟩, ⟨.vmul, .v bForm vWord 0 none⟩, ⟨.vdiv, .b bForm⟩, ⟨.vdiv, .v bForm vWord 0 none⟩, ⟨.vmin, .b bForm⟩, ⟨.vmin, .v bForm vWord 0 none⟩, ⟨.vmax, .b bForm⟩, ⟨.vmax, .v bForm vWord 0 none⟩] : List Raw), Met r (Firing.vec2Ok isArith)) ∧
  (∀ r ∈ ([⟨.vfma, .b bForm⟩, ⟨.vfma, .v bForm vWord 0 none⟩, ⟨.vfms, .b bForm⟩, ⟨.vfms, .v bForm vWord 0 none⟩] : List Raw), Met r (Firing.vec3Ok isArith)) ∧
  (∀ r ∈ ([⟨.vand, .b bForm⟩, ⟨.vand, .v bForm vWord 0 none⟩, ⟨.vor, .b bForm⟩, ⟨.vor, .v bForm vWord 0 none⟩, ⟨.vxor, .b bForm⟩, ⟨.vxor, .v bForm vWord 0 none⟩] : List Raw), Met r (Firing.vec2Ok isInt)) :=
  ⟨met_all (says_vec2 isArith) (fed 0x4000 7 0 (plainTag 13)) (by decide +kernel),
  met_all (says_vec3 isArith) (fed 0x4000 7 0 (plainTag 13)) (by decide +kernel),
  met_all (says_vec2 isInt) (fed 0x4000 7 0 (plainTag 3)) (by decide +kernel)⟩
theorem witness_VectorUnary :
  (∀ r ∈ ([⟨.vsqrt, .b bForm⟩, ⟨.vsqrt, .v bForm vWord 0 none⟩] : List Raw), Met r (Firing.vec1Ok isFloat)) ∧
  (∀ r ∈ ([⟨.vrcp, .b bForm⟩, ⟨.vrcp, .v bForm vWord 0 none⟩, ⟨.vrsq, .b bForm⟩, ⟨.vrsq, .v bForm vWord 0 none⟩, ⟨.vexp2, .b bForm⟩, ⟨.vexp2, .v bForm vWord 0 none⟩, ⟨.vlog2, .b bForm⟩, ⟨.vlog2, .v bForm vWord 0 none⟩] : List Raw), Met r (Firing.vec1Ok isSpecial)) ∧
  (∀ r ∈ ([⟨.vabs, .b bForm⟩, ⟨.vabs, .v bForm vWord 0 none⟩, ⟨.vneg, .b bForm⟩, ⟨.vneg, .v bForm vWord 0 none⟩] : List Raw), Met r (Firing.vec1Ok (fun c => isArith c || isScaled c))) ∧
  (∀ r ∈ ([⟨.vnot, .b bForm⟩, ⟨.vnot, .v bForm vWord 0 none⟩] : List Raw), Met r (Firing.vec1Ok isInt)) :=
  ⟨met_all (says_vec1 isFloat) (fed 0x4000 7 0 (plainTag 13)) (by decide +kernel),
  met_all (says_vec1 isSpecial) (fed 0x4000 7 0 (plainTag 13)) (by decide +kernel),
  met_all (says_vec1 (fun c => isArith c || isScaled c)) (fed 0x4000 7 0 (plainTag 13)) (by decide +kernel),
  met_all (says_vec1 isInt) (fed 0x4000 7 0 (plainTag 3)) (by decide +kernel)⟩
theorem witness_VectorComparesAndSelect :
  (∀ r ∈ ([⟨.vceq, .b bForm⟩, ⟨.vceq, .v bForm vWord 0 none⟩, ⟨.vcne, .b bForm⟩, ⟨.vcne, .v bForm vWord 0 none⟩, ⟨.vclt, .b bForm⟩, ⟨.vclt, .v bForm vWord 0 none⟩, ⟨.vcle, .b bForm⟩, ⟨.vcle, .v bForm vWord 0 none⟩, ⟨.vcun, .b bForm⟩, ⟨.vcun, .v bForm vWord 0 none⟩] : List Raw), Met r (Firing.vec2Ok isArith)) ∧
  (∀ r ∈ ([⟨.vclass, .b bForm⟩, ⟨.vclass, .v bForm vWord ((3 : BitVec 10).setWidth 32) none⟩] : List Raw), Met r (Firing.vec1Ok isFloat)) ∧
  (∀ r ∈ ([⟨.vsel, .b bForm⟩, ⟨.vsel, .v bForm vWord 0 none⟩] : List Raw), Met r (Firing.vec2Ok isAny)) :=
  ⟨met_all (says_vec2 isArith) (fed 0x4000 7 0 (plainTag 13)) (by decide +kernel),
  met_all (says_vec1 isFloat) (fed 0x4000 7 0 (plainTag 13)) (by decide +kernel),
  met_all (says_vec2 isAny) (fed 0x4000 7 0 (plainTag 13)) (by decide +kernel)⟩
theorem witness_VectorShiftsAndConstants :
  (∀ r ∈ ([⟨.vshl, .b bForm⟩, ⟨.vshl, .v bForm vWord (encIb (none : Option (BitVec 8))) none⟩, ⟨.vshr, .b bForm⟩, ⟨.vshr, .v bForm vWord (encIb (none : Option (BitVec 8))) none⟩, ⟨.vsra, .b bForm⟩, ⟨.vsra, .v bForm vWord (encIb (none : Option (BitVec 8))) none⟩] : List Raw), Met r (fun x => x.vec1Ok isInt ∧ ((∃ n, x.b = .scalar n) ∨ (x.fine x.b isInt false ∧ x.b.vec.code = x.a.vec.code)))) ∧
  (∀ r ∈ ([⟨.vmulw, .b bForm⟩, ⟨.vmulw, .v bForm vWord (BitVec.ofNat 32 (encBool true)) none⟩] : List Raw), Met r (fun x => x.vec2Ok mulwOk ∧ x.vl ≤ capacity x.thread.vlmax (fmtOf (wideCode x.a.vec.code)).width)) ∧
  (∀ r ∈ ([⟨.vfill, .v bForm vWord ((plainTag 13).setWidth 32) none⟩, ⟨.vbcast, .v bForm vWord ((plainTag 13).setWidth 32) none⟩, ⟨.vid, .v bForm vWord ((plainTag 13).setWidth 32) none⟩] : List Raw), Met r (fun x => x.laned ∧ x.given ∧ x.vl ≤ capacity x.thread.vlmax (fmtOf (tagFmt (plainTag 13))).width)) :=
  ⟨met_all (says_and (says_vec1 isInt) says_count) (fed 0x4000 7 0 (plainTag 3)) (by decide +kernel),
  met_all (says_and (says_vec2 mulwOk) says_dec) (fed 0x4000 7 0 (plainTag 3)) (by decide +kernel),
  met_all (says_and says_laned (says_and says_given says_dec)) (fed 0x4000 7 0 (plainTag 13)) (by decide +kernel)⟩
theorem witness_VectorConversionsAndReductions :
  (∀ r ∈ ([⟨.vcvt, .v bForm vWord ((plainTag 13).setWidth 32) none⟩, ⟨.vtag, .v bForm vWord ((plainTag 13).setWidth 32) none⟩] : List Raw), Met r (fun x => x.laned ∧ x.given ∧ x.fine x.a isAny true ∧ x.vl ≤ capacity x.thread.vlmax (fmtOf (tagFmt (plainTag 13))).width)) ∧
  (∀ r ∈ ([⟨.vscale, .b bForm⟩, ⟨.vscale, .v bForm vWord ((3 : BitVec 8).setWidth 32) none⟩] : List Raw), Met r (fun x => x.laned ∧ x.given ∧ x.fine x.a isScaled true)) ∧
  (∀ r ∈ ([⟨.vsum, .b bForm⟩, ⟨.vsum, .v bForm vWord 0 none⟩, ⟨.vrmax, .b bForm⟩, ⟨.vrmax, .v bForm vWord 0 none⟩, ⟨.vrmin, .b bForm⟩, ⟨.vrmin, .v bForm vWord 0 none⟩] : List Raw), Met r (Firing.vec1Ok isArith)) ∧
  (∀ r ∈ ([⟨.vdot, .b bForm⟩, ⟨.vdot, .v bForm vWord 0 none⟩] : List Raw), Met r (fun x => x.laned ∧ x.given ∧ x.fine x.a isScaled true ∧ x.fine x.b (fun c => c == 11) false)) ∧
  Met ⟨.vdot, .v bForm vWord 1 none⟩ (fun x => x.laned ∧ x.given ∧ x.fine x.a isScaled true ∧ x.fine x.b (fun c => c == 11) false ∧ x.fine x.c (fun c => c == 13) false) :=
  ⟨met_all (says_and says_laned (says_and says_given (says_and (says_fine Firing.a isAny true) says_dec))) (fed 0x4000 7 0 (plainTag 13)) (by decide +kernel),
  met_all (says_and says_laned (says_and says_given (says_fine Firing.a isScaled true))) (fed 0x4000 7 0 (plainTag 9)) (by decide +kernel),
  met_all (says_vec1 isArith) (fed 0x4000 7 0 (plainTag 13)) (by decide +kernel),
  met_all (says_and says_laned (says_and says_given (says_and (says_fine Firing.a isScaled true) (says_fine Firing.b (fun c => c == 11) false)))) (fun (_ : Raw) => device ([⟨0, .a, .vector (plainTag 9) [some 3, some 2] [] []⟩, ⟨0, .b, .vector (plainTag 11) [some 3, some 2] [] []⟩, ⟨0, .c, .vector (plainTag 13) [some 3, some 2] [] []⟩])) (by decide +kernel),
  met_one (says_and says_laned (says_and says_given (says_and (says_fine Firing.a isScaled true) (says_and (says_fine Firing.b (fun c => c == 11) false) (says_fine Firing.c (fun c => c == 13) false))))) ((fun (_ : Raw) => device ([⟨0, .a, .vector (plainTag 9) [some 3, some 2] [] []⟩, ⟨0, .b, .vector (plainTag 11) [some 3, some 2] [] []⟩, ⟨0, .c, .vector (plainTag 13) [some 3, some 2] [] []⟩])) ⟨.vdot, .v bForm vWord 1 none⟩) (by decide +kernel)⟩
theorem witness_VectorMoves :
  (∀ r ∈ ([⟨.vperm, .b bForm⟩, ⟨.vperm, .v bForm vWord 0 none⟩] : List Raw), Met r (fun x => x.vec1Ok isAny ∧ x.fine x.b isIndex false)) ∧
  (∀ r ∈ ([⟨.vrot, .b bForm⟩, ⟨.vrot, .v bForm vWord (encIb (none : Option (BitVec 8))) none⟩, ⟨.vslide, .b bForm⟩, ⟨.vslide, .v bForm vWord (encIb (none : Option (BitVec 8)) + BitVec.ofNat 32 (1073741824 * encBool false)) none⟩, ⟨.vcomp, .b bForm⟩, ⟨.vcomp, .v bForm vWord 0 none⟩, ⟨.vexpd, .b bForm⟩, ⟨.vexpd, .v bForm vWord 0 none⟩] : List Raw), Met r (Firing.vec1Ok isAny)) ∧
  (∀ r ∈ ([⟨.vext, .b bForm⟩, ⟨.vext, .v bForm vWord (encIb (none : Option (BitVec 8))) none⟩, ⟨.vins, .b bForm⟩, ⟨.vins, .v bForm vWord (encIb (none : Option (BitVec 8))) none⟩] : List Raw), Met r (fun x => x.vec1Ok isArith ∧ x.b.word.toNat < x.vl)) :=
  ⟨met_all (says_and (says_vec1 isAny) (says_fine Firing.b isIndex false)) (fed 0x4000 7 0 (plainTag 7)) (by decide +kernel),
  met_all (says_vec1 isAny) (fed 0x4000 7 0 (plainTag 13)) (by decide +kernel),
  met_all (says_and (says_vec1 isArith) says_dec) (fed 0x4000 1 0 (plainTag 13)) (by decide +kernel)⟩
theorem witness_MaskInstructions :
  (∀ r ∈ ([⟨.mand, .b bForm⟩, ⟨.mand, .x bForm noExt 0⟩, ⟨.mor, .b bForm⟩, ⟨.mor, .x bForm noExt 0⟩, ⟨.mxor, .b bForm⟩, ⟨.mxor, .x bForm noExt 0⟩, ⟨.mnot, .b bForm⟩, ⟨.mnot, .x bForm noExt 0⟩, ⟨.mpop, .b bForm⟩, ⟨.mpop, .x bForm noExt 0⟩, ⟨.mfirst, .b bForm⟩, ⟨.mfirst, .x bForm noExt 0⟩] : List Raw), Met r (fun x => x.laned ∧ x.given)) :=
  met_all (says_and says_laned says_given) plain (by decide +kernel)
theorem witness_StoresLeaveTheirWrite :
  Met ⟨.st, .m bForm mWord none⟩ (fun x => Acts x ∧ x.wOk ∧ x.access .write true (2 ^ mWord.sz.toNat) (2 ^ mWord.sz.toNat) 0 x.base = .ok 0 (at4000 0)) ∧
  Met ⟨.vst, .m bForm mWord none⟩ (fun x => x.laned ∧ x.given ∧ x.wOk ∧ x.fine x.b isAny true ∧ x.storesAt .write true [(0, at4000 0), (1, at4000 4)]) ∧
  Met ⟨.vsts, .m bForm mWord none⟩ (fun x => x.laned ∧ x.given ∧ x.wOk ∧ x.fine x.b isAny false ∧ x.storesAt .write true [(0, at4000 0), (1, at4000 4)]) ∧
  (∀ r ∈ ([⟨.vstx, .m bForm { mWord with ord := true } none⟩, ⟨.vstx, .m bForm mWord none⟩] : List Raw), Met r (fun x => x.laned ∧ x.given ∧ x.wOk ∧ x.fine x.b isAny false ∧ x.fine x.c isInt false ∧ x.storesAt .write true [(0, at4000 12), (1, at4000 8)])) ∧
  Met ⟨.vsadd, .m bForm mWord none⟩ (fun x => x.laned ∧ x.given ∧ x.fine x.b vsaddOk false ∧ x.fine x.c isInt false ∧ x.storesAt .rmw false [(0, at4000 12), (1, at4000 8)]) :=
  ⟨met_one (says_and says_acts (says_and says_wOk says_dec)) ((fed 0x4000 7 0 (plainTag 13)) ⟨.st, .m bForm mWord none⟩) (by decide +kernel),
  met_one (says_and says_laned (says_and says_given (says_and says_wOk (says_and (says_fine Firing.b isAny true) (says_stores .write true [(0, at4000 0), (1, at4000 4)]))))) ((fed 0x4000 7 4 (plainTag 13)) ⟨.vst, .m bForm mWord none⟩) (by decide +kernel),
  met_one (says_and says_laned (says_and says_given (says_and says_wOk (says_and (says_fine Firing.b isAny false) (says_stores .write true [(0, at4000 0), (1, at4000 4)]))))) ((fed 0x4000 7 4 (plainTag 13)) ⟨.vsts, .m bForm mWord none⟩) (by decide +kernel),
  met_all (says_and says_laned (says_and says_given (says_and says_wOk (says_and (says_fine Firing.b isAny false) (says_and (says_fine Firing.c isInt false) (says_stores .write true [(0, at4000 12), (1, at4000 8)])))))) (fed 0x4000 7 0 (plainTag 7)) (by decide +kernel),
  met_one (says_and says_laned (says_and says_given (says_and (says_fine Firing.b vsaddOk false) (says_and (says_fine Firing.c isInt false) (says_stores .rmw false [(0, at4000 12), (1, at4000 8)]))))) ((fed 0x4000 7 0 (plainTag 3)) ⟨.vsadd, .m bForm mWord none⟩) (by decide +kernel)⟩
theorem witness_AtomicsLeaveTheirOperation :
  (∀ r ∈ ([⟨.aadd, .m bForm mWord none⟩, ⟨.aswap, .m bForm mWord none⟩, ⟨.acas, .m bForm mWord none⟩, ⟨.amin, .m bForm mWord none⟩, ⟨.amax, .m bForm mWord none⟩, ⟨.aand, .m bForm mWord none⟩, ⟨.aor, .m bForm mWord none⟩, ⟨.axor, .m bForm mWord none⟩] : List Raw), Met r (fun x => Acts x ∧ x.wOk ∧ x.access .rmw false (2 ^ mWord.sz.toNat) (2 ^ mWord.sz.toNat) 0 x.base = .ok 0 (at4000 0))) ∧
  Met ⟨.claimel, .m bForm mWord none⟩ (fun x => Acts x ∧ x.access .rmw false 16 16 0 x.base = .ok 0 (at4000 0)) :=
  ⟨met_all (says_and says_acts (says_and says_wOk says_dec)) plain (by decide +kernel),
  met_one (says_and says_acts says_dec) (plain ⟨.claimel, .m bForm mWord none⟩) (by decide +kernel)⟩
theorem witness_WitnessInstructions :
  (∀ r ∈ ([⟨.wjoin, .b bForm⟩, ⟨.wjoin, .imm bForm imm7⟩] : List Raw), Met r (fun x => Acts x ∧ wKind x.a.word ≠ 3 ∧ wKind x.b.word ≠ 3)) ∧
  (∀ r ∈ ([⟨.wfloor, .p .always⟩, ⟨.wfloor, .px .always 0⟩, ⟨.bar, .b bForm⟩] : List Raw), Met r (fun x => Acts x ∧ x.badWitness 0 x.a.word = none)) ∧
  (∀ r ∈ ([⟨.wnow, .b bForm⟩, ⟨.wnow, .x bForm noExt 0⟩] : List Raw), Met r Acts) ∧
  (∀ r ∈ ([⟨.wtest, .b bForm⟩, ⟨.wtest, .x bForm noExt ((3 : BitVec 14).setWidth 32)⟩] : List Raw), Met r (fun x => Acts x ∧ wKind x.a.word ≠ 3)) ∧
  Met ⟨.bar, .x bForm noExt (BitVec.ofNat 32 ((2 : BitVec 4).toNat + 16 * (3 : BitVec 11).toNat + 32768 * encBool false))⟩ (fun x => Acts x ∧ (false = true ∨ x.badWitness 0 x.a.word = none)) :=
  ⟨met_all (says_and says_acts (says_and says_dec says_dec)) plain (by decide +kernel),
  met_all (says_and says_acts says_dec) plain (by decide +kernel),
  met_all says_acts plain (by decide +kernel),
  met_all (says_and says_acts says_dec) plain (by decide +kernel),
  met_one (says_and says_acts says_dec) (plain ⟨.bar, .x bForm noExt (BitVec.ofNat 32 ((2 : BitVec 4).toNat + 16 * (3 : BitVec 11).toNat + 32768 * encBool false))⟩) (by decide +kernel)⟩
theorem witness_MatrixInstructions :
  (∀ r ∈ ([⟨.mclaim, .b bForm⟩, ⟨.mrel, .p .always⟩] : List Raw), Met r (fun x => Acts x)) ∧
  Met ⟨.mmul, .k kForm Machine.noRes (BitVec.ofNat 32 ((5 : BitVec 9).toNat + 512 * encAcc .accumulate + 2048 * (1 : BitVec 6).toNat + 131072 * encBool false))⟩ (fun x => x.claims ∧ x.laned ∧ x.given ∧ x.fine x.a (fun c => if false then isEight c else isScaled c) true ∧ 128 * (1 : BitVec 6).toNat + (if false then 256 else 128) ≤ capacity x.thread.vlmax x.a.vec.fmt.width ∧ ¬(false = true ∧ (5 : BitVec 9).toNat = 511)) ∧
  Met ⟨.mrd, .k kForm kRes (BitVec.ofNat 32 ((5 : BitVec 9).toNat + 512 * (0 : BitVec 4).toNat + 8192 * (0 : BitVec 4).toNat))⟩ (fun x => x.claims ∧ x.laned ∧ x.given ∧ 256 * ((0 : BitVec 4).toNat + (0 : BitVec 4).toNat + 1) ≤ capacity x.thread.vlmax 32 ∧ (5 : BitVec 9).toNat + (0 : BitVec 4).toNat ≤ 511 ∧ x.vl ≤ capacity x.thread.vlmax 32) ∧
  Met ⟨.mwr, .k kForm Machine.noRes (BitVec.ofNat 32 ((5 : BitVec 9).toNat + 512 * (0 : BitVec 4).toNat + 8192 * (0 : BitVec 4).toNat))⟩ (fun x => x.claims ∧ x.laned ∧ x.given ∧ 256 * ((0 : BitVec 4).toNat + (0 : BitVec 4).toNat + 1) ≤ capacity x.thread.vlmax 32 ∧ (5 : BitVec 9).toNat + (0 : BitVec 4).toNat ≤ 511 ∧ x.fine x.a mwrOk false) ∧
  Met ⟨.mzero, .k kForm Machine.noRes (BitVec.ofNat 32 ((5 : BitVec 9).toNat + 512 * (0 : BitVec 4).toNat))⟩ (fun x => x.claims ∧ Acts x ∧ (5 : BitVec 9).toNat + (0 : BitVec 4).toNat ≤ 511) ∧
  Met ⟨.mdecay, .k kForm Machine.noRes 0⟩ (fun x => x.claims ∧ Acts x) :=
  ⟨met_all says_acts plain (by decide +kernel),
  met_one (says_and says_claims (says_and says_laned (says_and says_given (says_and (says_fine Firing.a (fun c => if false then isEight c else isScaled c) true) (says_and says_dec says_dec))))) ((fun (r : Raw) => claimed (fed 0x4000 7 0 (plainTag 9) r)) ⟨.mmul, .k kForm Machine.noRes (BitVec.ofNat 32 ((5 : BitVec 9).toNat + 512 * encAcc .accumulate + 2048 * (1 : BitVec 6).toNat + 131072 * encBool false))⟩) (by decide +kernel),
  met_one (says_and says_claims (says_and says_laned (says_and says_given (says_and says_dec (says_and says_dec says_dec))))) ((fun (r : Raw) => claimed (fed 0x4000 7 0 (plainTag 13) r)) ⟨.mrd, .k kForm kRes (BitVec.ofNat 32 ((5 : BitVec 9).toNat + 512 * (0 : BitVec 4).toNat + 8192 * (0 : BitVec 4).toNat))⟩) (by decide +kernel),
  met_one (says_and says_claims (says_and says_laned (says_and says_given (says_and says_dec (says_and says_dec (says_fine Firing.a mwrOk false)))))) ((fun (r : Raw) => claimed (fed 0x4000 7 0 (plainTag 13) r)) ⟨.mwr, .k kForm Machine.noRes (BitVec.ofNat 32 ((5 : BitVec 9).toNat + 512 * (0 : BitVec 4).toNat + 8192 * (0 : BitVec 4).toNat))⟩) (by decide +kernel),
  met_one (says_and says_claims (says_and says_acts says_dec)) ((fun (r : Raw) => claimed (fed 0x4000 7 0 (plainTag 13) r)) ⟨.mzero, .k kForm Machine.noRes (BitVec.ofNat 32 ((5 : BitVec 9).toNat + 512 * (0 : BitVec 4).toNat))⟩) (by decide +kernel),
  met_one (says_and says_claims says_acts) ((fun (r : Raw) => claimed (fed 0x4000 7 0 (plainTag 13) r)) ⟨.mdecay, .k kForm Machine.noRes 0⟩) (by decide +kernel)⟩
theorem witness_WeightInstructions :
  Met ⟨.wcfg, .k kForm Machine.noRes 0⟩ (fun x => x.claims ∧ Acts x ∧ x.b.word.extractLsb' 56 8 = 0 ∧ x.b.word.toNat % 16 = 0 ∧ cfgBad x.a.word = false) ∧
  Met ⟨.wload, .k kForm Machine.noRes (BitVec.ofNat 32 (encBool false))⟩ (fun x => x.claims ∧ Acts x ∧ x.badWitness 2 x.c.word = none ∧ x.a.word.extractLsb' 56 8 = 0 ∧ x.a.word.toNat % streamAlign x.view.cfg = 0 ∧ tableBad x.view.cfg x.view.ftab = 0) ∧
  Met ⟨.wloada, .k kForm Machine.noRes ((5 : BitVec 9).setWidth 32)⟩ (fun x => x.claims ∧ Acts x ∧ (5 : BitVec 9).toNat ≤ 384) ∧
  Met ⟨.wswap, .k kForm Machine.noRes 0⟩ (fun x => x.claims ∧ Acts x ∧ x.loadBelow = false ∧ x.view.backSt = .idle) ∧
  Met ⟨.wstat, .k kForm kRes (BitVec.ofNat 32 (encBool false))⟩ (fun x => x.claims ∧ Acts x ∧ (false = true → x.view.backSt ≠ .filling)) :=
  ⟨met_one (says_and says_claims (says_and says_acts (says_and says_dec (says_and says_dec says_dec)))) ((fun (r : Raw) => claimed (fed 0 0x4000 0 (plainTag 13) r)) ⟨.wcfg, .k kForm Machine.noRes 0⟩) (by decide +kernel),
  met_one (says_and says_claims (says_and says_acts (says_and says_dec (says_and says_dec (says_and says_dec says_dec))))) ((fun (r : Raw) => claimed (fed 0x4000 7 0 (plainTag 13) r)) ⟨.wload, .k kForm Machine.noRes (BitVec.ofNat 32 (encBool false))⟩) (by decide +kernel),
  met_one (says_and says_claims (says_and says_acts says_dec)) ((fun (r : Raw) => claimed (fed 0x4000 7 0 (plainTag 13) r)) ⟨.wloada, .k kForm Machine.noRes ((5 : BitVec 9).setWidth 32)⟩) (by decide +kernel),
  met_one (says_and says_claims (says_and says_acts (says_and says_dec says_dec))) ((fun (r : Raw) => claimed (fed 0x4000 7 0 (plainTag 13) r)) ⟨.wswap, .k kForm Machine.noRes 0⟩) (by decide +kernel),
  met_one (says_and says_claims (says_and says_acts says_dec)) ((fun (r : Raw) => claimed (fed 0x4000 7 0 (plainTag 13) r)) ⟨.wstat, .k kForm kRes (BitVec.ofNat 32 (encBool false))⟩) (by decide +kernel)⟩
theorem witness_CopyInstructions :
  (∀ r ∈ ([⟨.cpset, .p .always⟩, ⟨.cpset, .px .always ((3 : BitVec 5).setWidth 32)⟩, ⟨.cpqf, .p .always⟩, ⟨.cpqf, .px .always (BitVec.ofNat 32 ((1 : BitVec 3).toNat + 256 * (6 : BitVec 8).toNat))⟩] : List Raw), Met r (fun x => Acts x)) :=
  met_all says_acts plain (by decide +kernel)
theorem witness_FrmHoldsItsRoundingMode :
  Met ⟨.csrr, .x bForm noExt 0x031⟩ Acts :=
  met_one says_acts (plain ⟨.csrr, .x bForm noExt 0x031⟩) (by decide +kernel)
theorem witness_LoadsSendTheirRequests :
  (∃ s x l, State.firing s ⟨.ld, .m bForm mWord none⟩ = some x ∧ Acts x ∧ x.wOk ∧ x.readsAt true mWord.fr true (2 ^ mWord.sz.toNat) l) ∧
  (∃ s x l, State.firing s ⟨.mwait, .m bForm mWord (some 9)⟩ = some x ∧ Acts x ∧ x.wOk ∧ x.readsAt false true false (2 ^ mWord.sz.toNat) l) ∧
  (∃ (tag : BitVec 16) (s : State) (x : Firing) (oks : _), State.firing s ⟨.vld, .m bForm mWord (some (tag.setWidth 64))⟩ = some x ∧ x.laned ∧ x.given ∧ x.vl ≤ capacity x.thread.vlmax (tagWidth tag) ∧ x.wOk ∧
    x.sweepsAt (x.accessed.map (fun e => (e, x.base.move ((e * (tagWidth tag / 8) : Nat) : Int)))) (tagWidth tag / 8) mWord.fr oks) ∧
  (∃ (tag : BitVec 16) (s : State) (x : Firing) (oks : _), State.firing s ⟨.vlds, .m bForm mWord (some (tag.setWidth 64))⟩ = some x ∧ x.laned ∧ x.given ∧ x.vl ≤ capacity x.thread.vlmax (tagWidth tag) ∧ x.wOk ∧
    x.sweepsAt (x.accessed.map (fun e => (e, x.base.move ((e : Int) * x.b.word.toInt)))) (tagWidth tag / 8) mWord.fr oks) ∧
  (∃ (tag : BitVec 16) (s : State) (x : Firing) (oks : _), State.firing s ⟨.vldx, .m bForm mWord (some (tag.setWidth 64))⟩ = some x ∧ x.laned ∧ x.given ∧ x.fine x.b isInt false ∧ x.vl ≤ capacity x.thread.vlmax (tagWidth tag) ∧ x.wOk ∧
    x.sweepsAt (x.accessed.filterMap (fun e => (x.b.vec.index e).map (fun i => (e, x.base.move (i * ((tagWidth tag / 8 : Nat) : Int)))))) (tagWidth tag / 8) mWord.fr oks) ∧
  (∃ (tag : BitVec 16) (s : State) (x : Firing) (oks : _), State.firing s ⟨.vldff, .m bForm mWord (some (tag.setWidth 64))⟩ = some x ∧ x.laned ∧ x.given ∧ x.vl ≤ capacity x.thread.vlmax (tagWidth tag) ∧ x.wOk ∧
    x.sweepsAt (x.accessed.map (fun e => (e, x.base.move ((e * (tagWidth tag / 8) : Nat) : Int)))) (tagWidth tag / 8) mWord.fr oks) ∧
  Met ⟨.pref, .m bForm mWord none⟩ (fun x => Acts x ∧ x.base = .inside ⟨.global, 0x4000⟩ ∧ x.prefAt ⟨.global, 0x4000⟩ ⟨0x4000, .cached, false, false, 0⟩) := by
  refine ⟨⟨scalars 0x4000 8 0, _, at4000 0, (Option.some_get (by decide +kernel)).symm, ?_, ?_, ?_⟩, ⟨scalars 0x4000 8 0, _, at4000 0, (Option.some_get (by decide +kernel)).symm, ?_, ?_, ?_⟩,
    ⟨0xFED, scalars 0x4000 8 0, _, [(0, at4000 0), (1, at4000 4)], (Option.some_get (by decide +kernel)).symm, ?_, ?_, ?_, ?_, ?_⟩,
    ⟨0xFED, scalars 0x4000 8 0, _, [(0, at4000 0), (1, at4000 8)], (Option.some_get (by decide +kernel)).symm, ?_, ?_, ?_, ?_, ?_⟩,
    ⟨0xFED, device [⟨0, .a, .scalar 0x4000⟩, ⟨0, .b, .vector 0xFE3 [some 3, some 2] [] []⟩], _, [(0, at4000 12), (1, at4000 8)], (Option.some_get (by decide +kernel)).symm, ?_, ?_, ?_, ?_, ?_, ?_⟩,
    ⟨0xFED, scalars 0x4000 8 0, _, [(0, at4000 0), (1, at4000 4)], (Option.some_get (by decide +kernel)).symm, ?_, ?_, ?_, ?_, ?_⟩,
    met_at (scalars 0x4000 8 0) _ (by decide +kernel) (by decide +kernel) ⟨?_, ?_, ?_⟩⟩
  case refine_19 => exact says_fine Firing.b isInt false _ (by decide +kernel)
  all_goals first | (unfold Acts; decide +kernel) | decide +kernel | (unfold Firing.wOk; decide +kernel) | (unfold Firing.laned; decide +kernel) | (unfold Firing.given; decide +kernel) |
    (unfold Firing.readsAt Firing.unheld; decide +kernel) | (unfold Firing.sweepsAt Firing.unheld; decide +kernel) | (unfold Firing.prefAt; decide +kernel)
/-- The firing exists. -/
theorem fires_at {ok : Firing → Prop} (s : State) (r : Raw) (h : (s.firing r).isSome = true) (k : ok ((s.firing r).get h)) : ∃ (s : State) (x : Firing), s.firing r = some x ∧ ok x :=
  ⟨s, _, (Option.some_get h).symm, k⟩
/-- A load or store that traps: thread 0's tile with another page, error marks in cluster 0's DRAM. -/
def trapping (a c : Word) (attrs : Nat) (err : NMap ErrMark) : State :=
  { scalars a 8 c with tiles := [(0, { tile with tlb := [⟨0, 2, 0, 0, attrs⟩] })], err := err }
/-- A page whose walk came to XLATE, TINFO 1. -/
def unwalked : State :=
  { scalars 0x4000 8 0 with tiles := [(0, { tile with tlb := [] })], threads := [(0, { thread [⟨0, .a, .scalar 0x4000⟩, ⟨0, .b, .scalar 8⟩, ⟨0, .c, .scalar 0⟩] with walkFaults := [(0, 0, 0x100)] })] }
def mWi : MWord := { mWord with wi := true }
def badTag : FaultRec := ⟨cALIGN, 0, 0x4002, 0, 0⟩
theorem witness_LoadsSendTheirRequests_traps :
  (∃ (s : State) (x : Firing), s.firing ⟨.ld, .m bForm mWi none⟩ = some x ∧ (Acts x ∧ x.mayTrap ∧ mWi.wi = true ∧ wKind x.c.word = 1)) ∧
  (∃ (s : State) (x : Firing), s.firing ⟨.ld, .m bForm mWi none⟩ = some x ∧ (Acts x ∧ x.mayTrap ∧ mWi.wi = true ∧ wKind x.c.word = 3)) ∧
  (∃ (s : State) (x : Firing), s.firing ⟨.ld, .m bForm mWord none⟩ = some x ∧ (Acts x ∧ x.mayTrap ∧ x.wOk ∧ x.base = .outside 1 0x0100000000004000)) ∧
  (∃ (s : State) (x : Firing), s.firing ⟨.ld, .m bForm mWord none⟩ = some x ∧ (Acts x ∧ x.mayTrap ∧ x.wOk ∧ x.base = .inside ⟨.global, 0x4001⟩ ∧ (Ptr.mk .global 0x4001).off % 2 ^ mWord.sz.toNat ≠ 0)) ∧
  (∃ (s : State) (x : Firing), s.firing ⟨.ld, .m bForm mWord none⟩ = some x ∧ (Acts x ∧ x.mayTrap ∧ x.wOk ∧ x.base = .inside ⟨.global, 0x4000⟩ ∧ 0x4000 % 2 ^ mWord.sz.toNat = 0 ∧
    x.st.tlbHit x.tile x.thread.asid 0x4000 = none ∧ x.thread.walked 0x4000 = some 0x100 ∧ 0x100 ≠ walkedOk)) ∧
  (∃ (s : State) (x : Firing), s.firing ⟨.ld, .m bForm mWord none⟩ = some x ∧ (Acts x ∧ x.mayTrap ∧ x.wOk ∧ x.base = .inside ⟨.global, 0x4000⟩ ∧ 0x4000 % 2 ^ mWord.sz.toNat = 0 ∧
    x.st.tlbHit x.tile x.thread.asid 0x4000 = some ⟨0, 2, 0, 0, 0x3B⟩ ∧ (paRoute x.st (clusterOfTile x.tile) ((TlbEntry.mk 0 2 0 0 0x3B).pa' 0x4000)).isSome = true ∧
    (x.thread.supervisor = true ∨ bitsAt 0x3B 5 1 = 1) ∧ bitsAt 0x3B 2 1 = 0)) ∧
  (∃ (s : State) (x : Firing), s.firing ⟨.ld, .m bForm mWord none⟩ = some x ∧ (Acts x ∧ x.mayTrap ∧ x.wOk ∧ x.access .read true (2 ^ mWord.sz.toNat) (2 ^ mWord.sz.toNat) 0 x.base = .ok 0 (at4000 0) ∧
    x.unheld mWord.fr true (2 ^ mWord.sz.toNat) [(0, at4000 0)] ∧ (at4000 0).route ≠ .host ∧ (at4000 0).route ≠ .peer ∧ x.st.errOf (lineOf (at4000 0).key) = .poisoned)) ∧
  (∃ (s : State) (x : Firing), s.firing ⟨.ld, .m bForm mWord none⟩ = some x ∧ (Acts x ∧ x.mayTrap ∧ x.wOk ∧ x.access .read true (2 ^ mWord.sz.toNat) (2 ^ mWord.sz.toNat) 0 x.base = .ok 0 (at4000 0) ∧
    x.unheld mWord.fr true (2 ^ mWord.sz.toNat) [(0, at4000 0)] ∧ (at4000 0).route ≠ .host ∧ (at4000 0).route ≠ .peer ∧ x.st.errOf (lineOf (at4000 0).key) = .uncorrectable ∧
    lineOf ((at4000 0).key + 2 ^ mWord.sz.toNat - 1) = lineOf (at4000 0).key ∧ decodePtr (at4000 0).va = some ⟨.global, 0x4000⟩ ∧
    checkPtr x.st x.who .read true ⟨.global, 0x4000⟩ 1 1 = .ok ⟨0x4000, .cached, false, false, 0⟩ ∧ (x.st.place (lineOf (at4000 0).key * 128)).isSome = true)) ∧
  (∃ (s : State) (x : Firing), s.firing ⟨.vld, .m bForm mWord (some ((0xFED : BitVec 16).setWidth 64))⟩ = some x ∧ (x.mayTrap ∧ x.laned ∧ x.given ∧ x.vl ≤ capacity x.thread.vlmax (tagWidth 0xFED) ∧ x.wOk ∧
    sweep (x.accessed.map (fun e => x.access .read true (tagWidth 0xFED / 8) (tagWidth 0xFED / 8) e (x.base.move ((e * (tagWidth 0xFED / 8) : Nat) : Int)))) = ⟨[], [], some badTag⟩)) :=
  ⟨fires_at (trapping 0x4000 0x7F00000000000000 0x3F []) _ (by decide +kernel) (by unfold Acts Firing.mayTrap; decide +kernel),
   fires_at (trapping 0x4000 0xC000000000000000 0x3F []) _ (by decide +kernel) (by unfold Acts Firing.mayTrap; decide +kernel),
   fires_at (trapping 0x0100000000004000 0 0x3F []) _ (by decide +kernel) (by unfold Acts Firing.mayTrap Firing.wOk; decide +kernel),
   fires_at (trapping 0x4001 0 0x3F []) _ (by decide +kernel) (by unfold Acts Firing.mayTrap Firing.wOk; decide +kernel),
   fires_at unwalked _ (by decide +kernel) (by unfold Acts Firing.mayTrap Firing.wOk; decide +kernel),
   fires_at (trapping 0x4000 0 0x3B []) _ (by decide +kernel) (by unfold Acts Firing.mayTrap Firing.wOk; decide +kernel),
   fires_at (trapping 0x4000 0 0x3F [(128, .poisoned)]) _ (by decide +kernel) (by unfold Acts Firing.mayTrap Firing.wOk Firing.unheld; decide +kernel),
   fires_at (trapping 0x4000 0 0x3F [(128, .uncorrectable)]) _ (by decide +kernel) (by unfold Acts Firing.mayTrap Firing.wOk Firing.unheld; decide +kernel),
   fires_at (trapping 0x4002 0 0x3F []) _ (by decide +kernel) (by unfold Firing.laned Firing.given Firing.mayTrap Firing.wOk; decide +kernel)⟩
theorem witness_StoresLeaveTheirWrite_traps :
  (∃ (s : State) (x : Firing), s.firing ⟨.st, .m bForm mWord none⟩ = some x ∧ (Acts x ∧ x.mayTrap ∧ x.wOk ∧ x.base = .inside ⟨.global, 0x4001⟩ ∧ (Ptr.mk .global 0x4001).off % 2 ^ mWord.sz.toNat ≠ 0)) ∧
  (∃ (s : State) (x : Firing), s.firing ⟨.st, .m bForm mWord none⟩ = some x ∧ (Acts x ∧ x.mayTrap ∧ x.wOk ∧ x.base = .inside ⟨.global, 0x4000⟩ ∧ 0x4000 % 2 ^ mWord.sz.toNat = 0 ∧
    x.st.tlbHit x.tile x.thread.asid 0x4000 = some ⟨0, 2, 0, 0, 0x37⟩ ∧ (paRoute x.st (clusterOfTile x.tile) ((TlbEntry.mk 0 2 0 0 0x37).pa' 0x4000)).isSome = true ∧
    (x.thread.supervisor = true ∨ bitsAt 0x37 5 1 = 1) ∧ bitsAt 0x37 3 1 = 0)) ∧
  (∃ (s : State) (x : Firing), s.firing ⟨.st, .m bForm mWord none⟩ = some x ∧ (Acts x ∧ x.mayTrap ∧ x.wOk ∧
    x.access .write true (2 ^ mWord.sz.toNat) (2 ^ mWord.sz.toNat) 0 x.base = .bad ⟨cALIGN, 0, 0x4001, 0, 0⟩ ∧ cALIGN ≠ cUNCORR)) :=
  ⟨fires_at (trapping 0x4001 0 0x3F []) _ (by decide +kernel) (by unfold Acts Firing.mayTrap Firing.wOk; decide +kernel),
   fires_at (trapping 0x4000 0 0x37 []) _ (by decide +kernel) (by unfold Acts Firing.mayTrap Firing.wOk; decide +kernel),
   fires_at (trapping 0x4001 0 0x3F []) _ (by decide +kernel) (by unfold Acts Firing.mayTrap Firing.wOk; decide +kernel)⟩
/-- The read gives bytes. -/
def gives : Peek → Bool | .ok _ => true | _ => false
theorem gives_ok (p : Peek) (h : gives p = true) : ∃ l, p = .ok l := by cases p <;> simp [gives] at h ⊢
theorem witness_MatrixInstructions_units :
  (∃ oks, Met ⟨.mspill, .k kForm Machine.noRes (BitVec.ofNat 32 (encUnit .front))⟩ (fun x => x.claims ∧ Acts x ∧ sweep (x.unitAccess .write (unitLines .front)) = ⟨oks, [], none⟩)) ∧
  (∃ oks bytes, Met ⟨.mfill, .k kForm Machine.noRes (BitVec.ofNat 32 (encUnit .front + 4 * encBool false))⟩
    (fun x => x.claims ∧ Acts x ∧ (false = true → x.badWitness 1 x.b.word = none) ∧ ¬(MxUnit.front = .back ∧ x.view.backSt = .filling) ∧
      sweep (x.unitAccess .read (unitLines .front)) = ⟨oks, [], none⟩ ∧
      x.readsGive x.a.word (128 * unitLines .front) (x.bound (if false then x.timeOf x.b.word else none)) bytes)) := by
  obtain ⟨fillBytes, hb⟩ := gives_ok ((claimed (scalars 0x4000 0 0)).peek ⟨⟨0, 0, true⟩, some 0, 0, [], false⟩ 0x4000 65536) (by decide +kernel)
  refine ⟨⟨(List.range 512).map (fun i => (0, at4000 (128 * i))), met_at (claimed (scalars 0x4000 0 0)) _ (by decide +kernel) (by decide +kernel) ⟨?_, ?_, ?_⟩⟩,
    ⟨(List.range 512).map (fun i => (0, at4000 (128 * i))), fillBytes, met_at (claimed (scalars 0x4000 0 0)) _ (by decide +kernel) (by decide +kernel)
      ⟨?_, ?_, by simp, by simp, ?_, ?_, ?_, hb⟩⟩⟩
  all_goals first | (unfold Firing.claims; decide +kernel) | (unfold Acts; decide +kernel) | decide +kernel | (unfold Firing.readsGive; decide +kernel)

theorem witness_WeightInstructions_streams :
  (∃ l, Met ⟨.wtable, .k kForm Machine.noRes 0⟩ (fun x => x.claims ∧ Acts x ∧ x.structGives x.a.word 64 64 l ∧ (wordsOf 2 l).foldl (· + ·) 0 = 4096)) ∧
  (∃ codes es, Met ⟨.wexp, .k kForm kRes 0⟩ (fun x => x.claims ∧ x.laned ∧ x.given ∧ 0 < x.vl ∧ x.vl ≤ capacity x.thread.vlmax 16 ∧ x.expands codes es)) ∧
  Met ⟨.wexp, .k kForm kRes 0⟩ (fun x => x.claims ∧ x.laned ∧ x.given ∧ x.vl = 0 ∧ x.a.word.extractLsb' 56 8 = 0 ∧
    x.a.word.toNat % (if cfgWfmt x.view.cfg = 2 then 8 else if cfgWfmt x.view.cfg = 1 then 4 else 1) = 0 ∧ cfgWfmt x.view.cfg ≠ 0 ∧ cfgSp x.view.cfg = false ∧
    tableBad x.view.cfg x.view.ftab = 0 ∧ x.view.backSt ≠ .filling) := by
  refine ⟨⟨0 :: 0x10 :: List.replicate 62 0, met_at { claimed (scalars 0x4000 0 0) with mem := [(0x4001, 0x10)] } _ (by decide +kernel) (by decide +kernel) ⟨?_, ?_, ?_, ?_⟩⟩,
    ⟨([2, 1], 1), [List.replicate 8 0], met_at
      { (scalars 0x4000 0 0).setTile 0 { tile with claimant := some 0, mx := { MxState.grant with cfg := 0x11, fp := 0x4100 } } with mem := [(0x4000, 6)] } _
      (by decide +kernel) (by decide +kernel) ⟨?_, ?_, ?_, ?_, ?_, ?_⟩⟩, met_at
      { ({ scalars 0x4000 0 0 with threads := [(0, { thread [⟨0, .a, .scalar 0x4000⟩] with vl := 0 })] } : State).setTile 0 { tile with claimant := some 0, mx := { MxState.grant with cfg := 0x11, fp := 0x4100 } } with mem := [(0x4000, 6)] } _
      (by decide +kernel) (by decide +kernel) ⟨?_, ?_, ?_, ?_, ?_, ?_, ?_, ?_, ?_, ?_⟩⟩
  all_goals first | (unfold Firing.claims; decide +kernel) | (unfold Acts; decide +kernel) | (unfold Firing.laned; decide +kernel) | (unfold Firing.given; decide +kernel) | decide +kernel |
    (unfold Firing.structGives Firing.readsGive; decide +kernel) | (unfold Firing.expands; decide +kernel)

theorem witness_PlaneLocksAndLaunches :
  (∃ l r, Met ⟨.plock, .b bForm⟩ (fun x => Acts x ∧ x.lockGives l r .read ∧ x.st.lockPending x.party = false ∧ x.st.rangesHeld x.party + x.locksInBlock < 16)) ∧
  (∃ l r, Met ⟨.plock, .x bForm noExt (BitVec.ofNat 32 (encBool true + 2 * encBool true))⟩
    (fun x => Acts x ∧ x.lockGives l r (if true then .write else .read) ∧ x.st.lockPending x.party = false ∧ x.st.rangesHeld x.party + x.locksInBlock < 16)) ∧
  (∃ l r, Met ⟨.punlock, .p .always⟩ (fun x => Acts x ∧ x.lockGives l r .bare)) := by
  refine ⟨⟨descBytes, region0, met_at (planes (scalars 0x200000 range16 0)) _ (by decide +kernel) (by decide +kernel) ?_⟩,
    ⟨descBytes, region0, met_at (planes (scalars 0x200000 range16 0)) _ (by decide +kernel) (by decide +kernel) ?_⟩,
    ⟨descBytes, region0, met_at (planes (scalars 0x200000 range16 0)) _ (by decide +kernel) (by decide +kernel) ?_⟩⟩
  all_goals (unfold Acts Firing.lockGives Firing.descGives Firing.structGives Firing.readsGive; decide +kernel)
theorem witness_PlaneLocksAndLaunches_launch :
  (∃ bl dl r n ws w, Met ⟨.plaunch, .b bForm⟩ (fun x => Acts x ∧ x.launchGives bl dl r n ws w)) ∧
  (∃ bl dl r n ws w, Met ⟨.plaunch, .x bForm noExt 0⟩ (fun x => Acts x ∧ x.launchGives bl dl r n ws w)) := by
  have img : ∀ x : Firing, x.structGives x.a.word 64 (64 * 1) imageBytes →
      (if (1 : Nat) = 1 then wordsFrom (16 * 1) imageBytes = wordsFrom (16 * 1) imageBytes ∧ checkImage (wordsFrom (16 * 1) imageBytes) (bindingOf bindBytes).pars = .done walk16 ∧ worstOffence walk16.offences = none
       else checkImage (wordsFrom (16 * 1) imageBytes) (bindingOf bindBytes).pars = .more) →
      ∀ k, 1 ≤ k → k ≤ 1 → ∃ l, x.structGives x.a.word 64 (64 * k) l ∧
        (if k = 1 then wordsFrom (16 * 1) imageBytes = wordsFrom (16 * 1) l ∧ checkImage (wordsFrom (16 * 1) imageBytes) (bindingOf bindBytes).pars = .done walk16 ∧ worstOffence walk16.offences = none
         else checkImage (wordsFrom (16 * k) l) (bindingOf bindBytes).pars = .more) := by
    intro x h g k h1 h2
    obtain rfl : k = 1 := by omega
    exact ⟨imageBytes, h, g⟩
  refine ⟨⟨bindBytes, descBytes, region0, 1, wordsFrom 16 imageBytes, walk16, met_at (planes (scalars 0x200140 0x200180 0)) _ (by decide +kernel) (by decide +kernel)
      ⟨?_, ?_, ⟨imageBytes, ?_⟩, ?_, ?_, ?_, ?_, ⟨by omega, by omega, img _ ?_ ?_⟩, ?_, ?_, ?_, ?_, ?_⟩⟩,
    ⟨bindBytes, descBytes, region0, 1, wordsFrom 16 imageBytes, walk16, met_at (planes (scalars 0x200140 0x200180 0)) _ (by decide +kernel) (by decide +kernel)
      ⟨?_, ?_, ⟨imageBytes, ?_⟩, ?_, ?_, ?_, ?_, ⟨by omega, by omega, img _ ?_ ?_⟩, ?_, ?_, ?_, ?_, ?_⟩⟩⟩
  all_goals first | (unfold Acts; decide +kernel) | decide +kernel | (unfold Firing.structGives Firing.readsGive; decide +kernel) |
    (unfold Firing.descGives Firing.structGives Firing.readsGive; decide +kernel)

/-- A field controller with one retained op, done with the time 9, and another no longer retained. -/
def doneOp : FieldOp := ⟨1, 0, ⟨0, 0, 0, 0, [], [], [], false, [], [], [], none, 0⟩, .done, 0, false, 0, [], 0, some 9, false, none, 0, none⟩
def fences (a : Word) : State := { scalars a 0 0 with clusters := [(0, { mapped with opSeq := 2, ops := [doneOp], planeHorizon := some 5 })] }
theorem witness_PlaneLocksAndLaunches_fences :
  (∀ r ∈ ([⟨.pfence, .b bForm⟩, ⟨.pfence, .x bForm noExt 0⟩] : List Raw),
    Met r (fun x => Acts x ∧ handleFault x x.a.word = none ∧ x.st.opOf x.a.word = some doneOp ∧ doneOp.state = .done ∧ doneOp.witness = some 9)) ∧
  (∀ r ∈ ([⟨.pfence, .b bForm⟩, ⟨.pfence, .x bForm noExt 0⟩] : List Raw), Met r (fun x => Acts x ∧ handleFault x x.a.word = none ∧ x.st.opOf x.a.word = none)) ∧
  (∀ r ∈ ([⟨.pstat, .b bForm⟩, ⟨.pstat, .x bForm noExt 0⟩] : List Raw), Met r (fun x => Acts x ∧ handleFault x x.a.word = none)) ∧
  Met ⟨.pstat, .x bForm noExt 1⟩ (fun x => Acts x ∧ x.a.word.extractLsb' 56 8 = 0 ∧ x.access .read true 1 1 0 (.inside ⟨.global, x.a.word.toNat⟩) = .ok 0 (at4000 0) ∧
    x.st.place (at4000 0).key = some ⟨0, 0, 0, 16, 0⟩) :=
  ⟨met_all (says_and says_acts says_dec) (fun (_ : Raw) => fences 1) (by decide +kernel), met_all (says_and says_acts says_dec) (fun (_ : Raw) => fences 0) (by decide +kernel),
   met_all (says_and says_acts says_dec) (fun (_ : Raw) => fences 1) (by decide +kernel), met_one (says_and says_acts says_dec) (scalars 0x4000 0 0) (by decide +kernel)⟩

theorem witness_PlanePortInstructions :
  (∃ (tag : BitVec 16) (p : _) (rl dl : List Byte) (r : Region'), Met ⟨.vldp, .m bForm mWord (some (tag.setWidth 64))⟩ (fun x => x.laned ∧ x.given ∧ x.vl ≤ capacity x.thread.vlmax (tagWidth tag) ∧ x.wOk ∧
    x.planeGives (fmtOf (tagFmt tag)) false x.accessed p rl dl r ∧ x.rowsReadable (refOf rl) (descOf dl) r)) ∧
  (∃ (p : _) (rl dl : List Byte) (r : Region'), Met ⟨.vstp, .m bForm mWord none⟩ (fun x => x.laned ∧ x.given ∧ x.wOk ∧ x.fine x.b isInt false ∧ (List.range x.vl).filter x.active ≠ [] ∧
    x.planeGives x.b.vec.fmt true ((List.range x.vl).filter x.active) p rl dl r)) := by
  refine ⟨⟨0xFE5, ⟨.global, 0x200100⟩, refBytes, descBytes, region0, met_at (planes (scalars 0x200100 0 0)) _ (by decide +kernel) (by decide +kernel)
      ⟨?_, ?_, ?_, ?_, ?_, ?_⟩⟩,
    ⟨⟨.global, 0x200100⟩, refBytes, descBytes, region0, met_at (planes (device [⟨0, .a, .scalar 0x200100⟩, ⟨0, .b, .vector 0xFE5 [some 3, some 2] [] []⟩])) _ (by decide +kernel) (by decide +kernel)
      ⟨?_, ?_, ?_, says_fine Firing.b isInt false _ (by decide +kernel), ?_, ?_⟩⟩⟩
  all_goals first | decide +kernel | (unfold Firing.laned; decide +kernel) | (unfold Firing.given; decide +kernel) | (unfold Firing.wOk; decide +kernel) |
    (unfold Firing.planeGives Firing.descGives Firing.structGives Firing.readsGive; decide +kernel) | (unfold Firing.rowsReadable; decide +kernel)

/-- A transfer of four bytes in queue 1, and one issued in queue 0. -/
def copies : State :=
  { scalars 0 0 0 with threads := [(0, { thread [⟨0, .a, .scalar 0⟩] with shadow := [(0, 0x4000), (1, 0x5000), (3, 1 + 2 * 8), (4, 4)] })],
                       tiles := [(0, { tile with queues := [(0, { CopyQueue.empty with nextSeq := 1 })] })] }
theorem witness_CopyInstructions_more :
  (∀ r ∈ ([⟨.cpgo, .b bForm⟩, ⟨.cpgo, .x bForm noExt 0⟩] : List Raw), Met r (fun x => Acts x ∧ x.cpsetOpen = false ∧ Shadow.fault x.shadowView = none)) ∧
  (∀ r ∈ ([⟨.cpstat, .b bForm⟩, ⟨.cpstat, .x bForm noExt 0⟩, ⟨.cpabort, .p .always⟩] : List Raw), Met r (fun x => Acts x ∧ x.st.idBad x.a.word = false)) :=
  ⟨met_all (says_and says_acts says_dec) (fun (_ : Raw) => copies) (by decide +kernel), met_all (says_and says_acts says_dec) (fun (_ : Raw) => copies) (by decide +kernel)⟩

/-! Events. A thread in supervisor mode at 0x1000 with the blocks given; what a device holds besides is given clause by clause. -/
def thr (l : List BlockExec) : Thread :=
  { Thread.absent with status := .running, lanes := 1, vl := 2, ceil := 256, tvec := 0x8000, pc := 0x1000, alloc := 5, floor := 3, flight := l }
def base (l : List BlockExec) : State :=
  { State.reset with fresh := 7, ceiling := 0x100000, threads := [(0, thr l)], clusters := [(0, mapped)], tiles := [(0, tile)] }
/-- Code at 0x1000: a block of one CALL, and a bad header. -/
def callBlock : List Byte := leBytes 4 0x1805A ++ leBytes 4 0 ++ leBytes 4 0xFFFFD034
def coded (l : List BlockExec) (c : List Byte) : State := { base l with mem := writeBytes [] 0x1000 c }
/-- A block with words, where its slots begin, its tokens, those that fired, its effects and its exit. -/
def blk (words : List Word32) (offs : List Nat) (toks : List TokAt) (fired : List Nat) (effs : List EffAt) (exit : Option (Nat × ExitKind)) : BlockExec :=
  ⟨0, 0x1000, words, offs, true, toks, fired, [], [], effs, 0, exit, none, [], false, [], [], 0⟩
theorem commits_of {s : State} {tid : Nat} {b : BlockExec} {k : Nat} {e : Effect} {a : Word} (h : s.commitReady tid = some b ∧ b.effects = [⟨k, e⟩] ∧ b.exit = some (0, .goto a)) :
    s.commitsOne tid b k e a := ⟨h.1, h.2.1, 0, h.2.2⟩
/-- A block of one effect, and the device where thread 0 commits it. -/
def effBlk (e : Effect) : BlockExec := blk [] [] [] [] [⟨0, e⟩] (some (0, .goto 0x2000))
def effDev (e : Effect) : State := base [effBlk e]
def team0 (l : List Nat) : Team := ⟨0, 0, 5, 0, 0, l, 9, 0, 0, [], none, none, false⟩
def launch0 : Launch := ⟨0, 0, 0, 0x3000, [], [0, 4], [5, 0], false, [(0, 0x200000)], [0, 1], [2], none, 0⟩
/-- A load of weights from the accumulator, rows 0 to 127 as claimed; and a load of weights of 16 bits each. -/
def fillC : Fill := ⟨0, 0, [], 0, false, 9, 0, true, true, 0, [], satisfied, none⟩
def fillA : Fill := ⟨0, 0, [], 0, false, 9, 0, true, true, 0, roundPlane MxState.grant 0, satisfied, none⟩
def fillB : Fill := ⟨0x4000, 0x12, [], 0, true, 9, 0, true, false, 0, [], satisfied, none⟩
theorem round_acc (m n : MxState) (row : Nat) (h : m.acc = n.acc) : roundPlane m row = roundPlane n row := by unfold roundPlane; rw [h]
/-- A block whose slot 0 loads for operand A of slot 1, and a load of it on its way for eight bytes at 0x4008. -/
def ldBlk : BlockExec := { blk [0x1805A, 0, 0x201241, 361472, 0] [2] [] [0] [] none with awaiting := [0] }
def ldTo : TargetRef := ⟨.a, 1⟩
def ldPart (key : Nat) (route : Route) : LoadPart := ⟨0, key, 8, BitVec.ofNat 64 key, [], route, false, none⟩
def ldReq (form : LoadForm) (p : LoadPart) (fresh : Bool) (st : LoadStage) (a : Option Copy) : LoadReq := ⟨1, 0, 0, 0, form, [p], 9, fresh, st, a, none, some 0, true, true⟩
def loading (l : LoadReq) : State := { base [ldBlk] with loads := [l], mem := writeBytes [] 0x4000 ((List.range 20).map (fun i => BitVec.ofNat 8 (i + 129))) }
def ldCopy : Copy := ⟨0x80, (List.range 128).map (fun i => BitVec.ofNat 8 (i + 129)), 5, 30, false⟩
theorem awaits_of {s : State} {l : LoadReq} {p : LoadPart} {b : BlockExec} {tr : TargetRef}
    (h : (decide (s.loads = [l] ∧ l.parts = [p] ∧ 0 < p.size ∧ p.key % 128 + p.size ≤ 128 ∧ p.fwd = [] ∧ p.got = none ∧ (s.thread l.tid).flight = [b] ∧
      b.serial = l.serial ∧ l.slot ∈ b.awaiting ∧ b.reads = [] ∧ (s.thread l.tid).seen = [] ∧ b.tok tr.slot.toNat tr.opnd = none) &&
      (match b.raw l.slot with | some r => decide (r.targets = [some tr, none, none]) | none => false)) = true) : s.awaits l p b tr := by
  simp only [Bool.and_eq_true, decide_eq_true_eq] at h
  obtain ⟨⟨h1, h2, h3, h4, h5, h6, h7, h8, h9, h10, h10b, h11⟩, k⟩ := h
  split at k
  · rename_i r hr
    exact ⟨h1, h2, h3, h4, h5, h6, h7, h8, h9, h10, h10b, ⟨r, hr, of_decide_eq_true k⟩, h11⟩
  · cases k
/-- An op of two words QLOOP and QEND over subarray 0, whose rows lie from 0x200000 on. -/
def opOf (sub : Nat) (st : OpState) (words : List Word32) (loops : List (Nat × Nat × Nat)) : FieldOp :=
  ⟨0, 0, ⟨0, 0, 0, 0x3000, words, [0, 4], [5, 0], false, [(sub, 0x200000)], [0, 1], [2], none, 0⟩, st, 0, true, 0, loops, 3, none, false, none, 0, none⟩
def running (o : FieldOp) : State :=
  { base [] with focus := .op 0 o.seq, clusters := [(0, { mapped with ops := [o] })], specials := [(0, 5), (1, 9), (2, 12), (16, 77)], mem := writeBytes [] 0x200000 [7, 8] }
theorem runs_of {s : State} {c : Nat} {o : FieldOp} {e : Nat × Nat}
    (h : s.focus = .op c o.seq ∧ s.findOp c o.seq = some o ∧ o.state = .running ∧ o.passSubs = [e]) : s.opRuns c o e := h
theorem writable_of (d : BitVec 10) (h : (match rowOp d.toNat with | .special c => decide (c < 10) | _ => true) = true) : writableRow d := by
  intro c hc
  rw [hc] at h
  exact of_decide_eq_true h
theorem inserts_of {s : State} {bank : Nat} {q : DramReq} (o : FieldOp) (h : (s.bank bank).backoff = false ∧ (s.bank bank).inserted = false ∧ s.codeOf bank q.row = .ok ∧
    s.opIn bank = some o ∧ (s.bank bank).queue.find? (mayInsert o bank) = some q ∧ s.refreshDue o = false) : s.inserts bank q := ⟨h.1, h.2.1, h.2.2.1, o, h.2.2.2⟩
/-- A transfer of thread 0 in queue 1 between two words of its scratchpad, id 5, with a stamp at 0x4010. -/
def cpView (stamp : Word) : NMap Word := [(0, 0xFE00050000000100), (1, 0xFE00050000000200), (2, stamp), (3, 1 + 2 * 8), (4, 1)]
def cpEntry (stamp : Word) (strip : Nat) : CopyEntry := { copyEntry 4 (.thread 0) 0 true 0 3 (cpView stamp) none [] with strip := strip }
def copying (e : CopyEntry) : State :=
  { base [] with allocs := [⟨5, 0, 0, 0, 4, 0⟩], mem := writeBytes [] (2 ^ 52 + 0x100) [1, 2, 3, 4],
                 tiles := [(0, { Tests.tile with queues := [(1, { CopyQueue.empty with entries := [e], nextSeq := 5 })] })] }
/-- A train from tile 8 of cluster 1 to cluster 0, of one element. -/
def trainWith (els : List TrainEl) (done : Nat) : Train := ⟨1, 6, 0, 1, els, some 12, some 3, 8, 0, 0, some 9, none, 0, done, none, none, none, none, 2, false, done, true, none⟩
def el4 (f : Option FoldEl) : TrainEl := ⟨0x4008, [1, 2, 3, 4], f, .cached, false, 0⟩
def carrying (t : Train) : State :=
  { base [] with trains := [t], groups := [⟨9, 0, 0, [(5, 0)], 1, none, none, none, none, false, false, false, false, none⟩], mem := writeBytes [] 0x4008 [9, 9],
                 clusters := [(0, mapped), (1, mapped)] }
/-- A transfer of n words by a view's control word, into the scratchpad or a cistern of cluster 1, and the elements of its strip. -/
def cpEntryV (ctl n dst : Word) (strip : Nat) : CopyEntry :=
  { copyEntry 4 (.thread 0) 0 true 0 3 [(0, 0xFE00050000000100), (1, dst), (3, ctl), (4, n)] none [] with strip := strip }
def copyingTo (e : CopyEntry) : State := { copying e with cisterns := [⟨1, 0, 2, 0, true, 4, 1, 0⟩], clusters := [(0, mapped), (1, mapped)] }
def elsOf (s : State) (e : CopyEntry) : List (Loc × Loc) :=
  match checkStrip s ⟨0, e.asid, e.supervisor⟩ (s.entryBoundOf (s.copyQueue 0 1) e) e.view e.strip (Shadow.stripEls e.view e.strip) with | .ok l => l | _ => []
/-- Queue 1 of a device that serves its host: the table of control blocks at 0x20000, the ring at 0x21000, ROOT at 0x24000. -/
def rootNode : Region := ⟨0, 0x24000, 0, 0, 3, 0, [0, 0, 0, 0], [0, 0, 0, 0], 0, false, false⟩
def served : Manager := { Manager.start with ready := true, restarting := false, pending := none, qcbtPa := 0x20000, statusPa := 0x28000 }
def hostq (head : Option PacketRec) (active : List PacketRec) : HostQueue := ⟨0, 0x24000, true, true, none, none, head, active, none, Qcb.start, 0⟩
def qcbAt (state : Nat) : List Byte :=
  leBytes 8 0x21000 ++ leBytes 1 4 ++ leBytes 1 state ++ leBytes 1 1 ++ leBytes 1 0 ++ leBytes 2 0 ++ leBytes 2 4 ++ leBytes 4 0 ++ leBytes 4 0 ++ leBytes 8 0x24000
/-- A packet's bytes: type and phase 1, SEQ 4, no CSTAMP, the rest as given. -/
def pktBytes (type : Nat) (rest : List Byte) : List Byte :=
  leBytes 1 (2 * type + 1) ++ leBytes 1 0 ++ leBytes 2 4 ++ leBytes 4 0 ++ leBytes 8 0 ++ rest ++ List.replicate (112 - rest.length) 0
def pkt (type : Nat) (rest : List Byte) : PacketRec := packetOf (pktBytes type rest)
def fronted (state : Nat) (h : HostQueue) (slot : List Byte) (more : Memory) : State :=
  { base [] with mgr := served, regions := [rootNode], hostQ := [(1, { h with view := { Qcb.start with ring := 0x21000, log2n := 4, state := state, phase := 1, seq := 4, root := 0x24000 } })],
                 mem := writeBytes (writeBytes (writeCells [] more) 0x20040 (qcbAt state)) 0x21000 slot }
def spotOf (s : Spots) : Loc := match s with | .at [(a, _)] => a | _ => ⟨0, .cached, false, false, 0⟩
/-- The same device with a PLANE packet at its queue's head, and the launch its checks give. -/
def planePkt : PacketRec := pkt 6 (leBytes 8 0x200140 ++ leBytes 8 0x200180 ++ leBytes 8 0x24000)
def planeHost : State := { planes (base []) with mgr := served, regions := [rootNode], hostQ := [(1, { hostq (some (pkt 6 (leBytes 8 0x200140 ++ leBytes 8 0x200180 ++ leBytes 8 0x24000))) [] with view := { Qcb.start with ring := 0x21000, log2n := 4, state := 1, phase := 1, seq := 4, root := 0x24000 } })], mem := writeBytes planeMem 0x20040 (qcbAt 1), clusters := [(0, mapped)] }
def planeLaunch : Launch := match planeHost.planeChecks (planeHost.frontReader 1 (frontWho 0)) 0x24000 0x200140 0x200180 with | .ok l _ => l | _ => ⟨0, 0, 0, 0, [], [], [], false, [], [], [], none, 0⟩
def planeSeen : List (Word × Nat) := match planeHost.planeChecks (planeHost.frontReader 1 (frontWho 0)) 0x24000 0x200140 0x200180 with | .ok _ l => l | _ => []
/-- Device 3's message of its tile 2, SEQ 0, TIME 50, ASID 0, in the sender's direction or in answer. -/
def msgOf (type dir : Nat) (tag addr : Nat) (beats : List Byte) : Msg := ⟨msgOffset dir 2, msgHeader type (beats.length / 64) 3 0 50 0 tag addr ++ beats, true⟩
def sentTo (type tag : Nat) : SentMsg := ⟨2, 3, 0, tag, type, []⟩
def trainHead : List Byte := leBytes 1 1 ++ leBytes 1 2 ++ leBytes 2 0 ++ leBytes 4 6 ++ leBytes 8 0 ++ leBytes 8 12 ++ List.replicate 40 0
def trainBeat : List Byte := leBytes 8 0x4008 ++ leBytes 4 77 ++ List.replicate 52 0
def trainTail : List Byte := leBytes 4 1 ++ leBytes 4 6 ++ List.replicate 56 0
/-- A complete block that writes a CSR. -/
def csrBlk (c : BitVec 12) (v : Word) : BlockExec := blk [] [] [] [] [⟨0, .csrw c v⟩] (some (0, .goto 0x2000))
theorem due_of {s : State} {tid : Nat} {c : BitVec 12} {v : Word} (h : (match s.commitHead tid with | some b => b.effs.contains (.csrw c v) | none => false) = true) :
    s.csrDue tid c v := by
  unfold State.csrDue
  split at h
  · rename_i b hb
    exact ⟨b, hb, h⟩
  · cases h
theorem not_due {s : State} {tid : Nat} {c : BitVec 12} {v : Word} (h : (s.commitHead tid).isNone = true) : ¬ s.csrDue tid c v := by
  rintro ⟨b, hb, _⟩
  rw [hb] at h
  cases h
/-- What holds of all clusters, one by one. -/
theorem below {P : Nat → Prop} (h : ∀ c ∈ List.range 8, P c) : ∀ c, c < 8 → P c := fun c hc => h c (List.mem_range.mpr hc)
theorem witness_BlocksComeInAndTrap :
  (∃ (s : State) (tid : Nat) (guess : Option Word) (a : _), s.eligible guess tid = true ∧ (s.thread tid).nextBlock guess = some a) ∧
  (∃ (s u v : State) (tid : Nat) (b : BlockExec) (l0 : _) (bytes : _) (offs : _), (s.thread tid).live = true ∧ (s.thread tid).flight.find? (fun b => !b.decoded && b.held.isNone) = some b ∧ s.codeLine tid b.addr = (u, .ok l0) ∧ headerBad (leNat (l0.take 4)) = none ∧ u.codeLines tid b.addr ((Nat.max (headWords (leNat (l0.take 4))) 2 + 15) / 16) [] = (v, .ok bytes) ∧ decodeBlock b.addr (wordsFrom (headWords (leNat (l0.take 4))) bytes) = .ok offs) ∧
  (∃ (s : State) (tid : Nat) (b : BlockExec) (k : _) (r : Raw), b.raw k = some r ∧ r.op = .csrr) ∧
  (∃ (s u : State) (tid : Nat) (b : BlockExec) (rest : List BlockExec) (l0 : _) (c : _), (s.thread tid).live = true ∧ (s.thread tid).flight = b :: rest ∧ b.decoded = false ∧ b.held = none ∧ s.codeLine tid b.addr = (u, .ok l0) ∧ headerBad (leNat (l0.take 4)) = some c ∧ (u.thread tid).flight = b :: rest ∧ (u.thread tid).tvec ≠ 0 ∧ (u.thread tid).tvec ≠ b.addr) ∧
  (∃ (s : State) (tid : Nat) (b : BlockExec) (rest : List BlockExec) (f : _), (s.thread tid).live = true ∧ (s.thread tid).flight = b :: rest ∧ b.held = some f ∧ (s.thread tid).tvec ≠ 0 ∧ (s.thread tid).tvec ≠ b.addr) ∧
  (∃ (s : State) (tid : Nat) (b : BlockExec) (rest : List BlockExec), (s.thread tid).live = true ∧ (s.thread tid).flight = b :: rest ∧ b.held = none ∧ b.stalled = true ∧ (s.thread tid).tvec ≠ 0 ∧ (s.thread tid).tvec ≠ b.addr) :=
  ⟨⟨base [], 0, none, 0x1000, by decide +kernel⟩,
   ⟨(coded [emptyBlock 3 0x1000] callBlock), ((coded [emptyBlock 3 0x1000] callBlock).codeLine 0 0x1000).1, (((coded [emptyBlock 3 0x1000] callBlock).codeLine 0 0x1000).1.codeLines 0 0x1000 1 []).1, 0, emptyBlock 3 0x1000, readBytes (coded [emptyBlock 3 0x1000] callBlock).mem 0x1000 64, readBytes (coded [emptyBlock 3 0x1000] callBlock).mem 0x1000 64, [2], by decide +kernel⟩,
   ⟨base [{ blk [0x1805A, 0, 0x51, 0, 0x20] [2] [] [] [] none with decoded := true }], 0, { blk [0x1805A, 0, 0x51, 0, 0x20] [2] [] [] [] none with decoded := true }, 0, ((BlockExec.raw { blk [0x1805A, 0, 0x51, 0, 0x20] [2] [] [] [] none with decoded := true } 0).get rfl), by decide +kernel⟩,
   ⟨(coded [emptyBlock 3 0x1000] (leBytes 4 0x5B)), ((coded [emptyBlock 3 0x1000] (leBytes 4 0x5B)).codeLine 0 0x1000).1, 0, emptyBlock 3 0x1000, [], readBytes (coded [emptyBlock 3 0x1000] (leBytes 4 0x5B)).mem 0x1000 64, 1, by decide +kernel⟩,
   ⟨base [{ blk [] [] [] [] [] none with held := some ⟨cALIGN, 2, 9, 1, 0⟩ }], 0, { blk [] [] [] [] [] none with held := some ⟨cALIGN, 2, 9, 1, 0⟩ }, [], ⟨cALIGN, 2, 9, 1, 0⟩, by decide +kernel⟩,
   ⟨base [blk [0x1805A, 0, 0x08044005] [2] [] [] [] none], 0, blk [0x1805A, 0, 0x08044005] [2] [] [] [] none, [], by decide +kernel⟩⟩
theorem witness_BlockCommitsAndDeferredResults :
  (∃ (s : State) (tid : _) (b : _) (slot : _) (a : _), s.commitReady tid = some b ∧ b.effects = [] ∧ b.exit = some (slot, .goto a)) ∧
  (∃ (s : State) (tid : _) (b : _) (slot : _) (a : _) (l : Word), s.commitReady tid = some b ∧ b.effects = [] ∧ b.exit = some (slot, .call a l)) ∧
  (∃ (s : State) (tid : _) (b : _) (slot : _) (a : _), s.commitReady tid = some b ∧ b.effects = [] ∧ b.exit = some (slot, .sysc a) ∧ (s.thread tid).tvec ≠ 0 ∧ (s.thread tid).tvec ≠ b.addr) ∧
  (∃ (s : State) (tid : _) (b : _) (slot : _) (a : _) (k : Nat) (r : _) (v : Word), s.commitReady tid = some b ∧ b.effects = [] ∧ b.exit = some (slot, .goto a) ∧ b.slotsOf (fun r => r.op.writesReg) = [(k, r)] ∧ r.op = .wrs ∧ k ∈ b.fired ∧ (b.pOf k r).live = true ∧ b.tok k .a = some (.scalar v)) ∧
  (∃ (s : State) (tid : _) (b : _) (slot : _) (a : _) (k : Nat) (lsid : Nat) (el : StoreEl) (w : Option Time), s.commitReady tid = some b ∧ b.effects = [⟨k, .store lsid [el] w⟩] ∧ b.exit = some (slot, .goto a) ∧ (b.raw k).any (fun r => r.op == .st) = true ∧ el.route = .cached) ∧
  (∃ (s : State) (tid : _) (b : _) (k : Nat) (a : _) (w : Time), s.commitsOne tid b k (.wfloor w) a) ∧
  (∃ (s : State) (tid : _) (b : _) (k : Nat) (a : _) (n : Nat) (w : Nat), s.commitsOne tid b k (.setvl n w) a ∧ (s.thread tid).lanes &&& (s.tile (s.thread tid).tile).doubled = 0) ∧
  (∃ (s : State) (tid : _) (b : _) (k : Nat) (a : _) (n : Nat), s.commitsOne tid b k (.lclaim n) a ∧ (s.thread tid).lanes &&& (s.tile (s.thread tid).tile).doubled = 0 ∧ s.waiting = []) ∧
  (∃ (s : State) (tid : _) (b : _) (k : Nat) (a : _), s.commitsOne tid b k .eret a) ∧
  (∃ (s : State) (tid : _) (b : _) (k : Nat) (a : _), s.commitsOne tid b k .icinv a) ∧
  (∃ (s : State) (tid : _) (b : _) (k : Nat) (a : _) (va : Word) (c : Word), s.commitsOne tid b k (.tlbinv va c) a) ∧
  (∃ (s : State) (tid : _) (b : _) (k : Nat) (a : _) (id : _) (n : Nat) (w : Word) (x : Team), s.commitsOne tid b k (.bar id n w) a ∧ s.teamOf (s.thread tid) = some x ∧ (mget Barrier.empty x.barriers id).arrivals.length + 1 < Nat.min (if (mget Barrier.empty x.barriers id).arrivals = [] then n else (mget Barrier.empty x.barriers id).count) (x.running s)) ∧
  (∃ (s : State) (tid : _) (b : _) (k : Nat) (a : _) (id : _) (n : Nat) (w : Word) (x : Team), s.commitsOne tid b k (.bar id n w) a ∧ s.teamOf (s.thread tid) = some x ∧ s.saved = [] ∧ (mget Barrier.empty x.barriers id).arrivals = [] ∧ Nat.min n (x.running s) ≤ 1) ∧
  (∃ (s : State) (tid : _) (b : _) (k : Nat) (a : _) (n : Nat) (el : FoldEl), s.commitsOne tid b k (.adds n [el]) a ∧ s.trainDest (s.thread tid).tile el.key el.route = none) ∧
  (∃ (s : State) (tid : _) (b : _) (k : Nat) (a : _) (n : Nat) (row : RowWrite) (w : Option Time), s.commitsOne tid b k (.planes n [row] w) a) ∧
  (∃ (s : State) (tid : _) (b : _) (k : Nat) (a : _) (n : Nat) (op : AtomicOp) (key : Nat) (size : Nat) (y : Word) (z : Word) (sx : _) (w : Option Time) (route : Route) (compress : Bool), s.commitsOne tid b k (.atomic n op key size y z sx w route compress) a ∧ route ≠ .peer) ∧
  (∃ (s : State) (tid : _) (b : _) (k : Nat) (a : _) (n : Nat) (key : Nat) (width : Nat) (count : Word) (route : Route) (compress : Bool), s.commitsOne tid b k (.claimel n key width count route compress) a ∧ route ≠ .peer) ∧
  (∃ (s : State) (tid : _) (b : _) (k : Nat) (a : _) (tries : Bool), s.commitsOne tid b k (.mclaim tries) a ∧ (s.tile (s.thread tid).tile).claimant = some tid) ∧
  (∃ (s : State) (tid : _) (b : _) (k : Nat) (a : _) (tries : Bool), s.commitsOne tid b k (.mclaim tries) a ∧ (s.tile (s.thread tid).tile).claimant = none ∧ (s.tile (s.thread tid).tile).claimQ = [] ∧ s.saved = []) ∧
  (∃ (s : State) (tid : _) (b : _) (k : Nat) (a : _) (u : Nat), s.commitsOne tid b k (.mclaim true) a ∧ (s.tile (s.thread tid).tile).claimant = some u ∧ u ≠ tid) ∧
  (∃ (s : State) (tid : _) (b : _) (k : Nat) (a : _) (u : Nat), s.commitsOne tid b k (.mclaim false) a ∧ (s.tile (s.thread tid).tile).claimant = some u ∧ u ≠ tid) ∧
  (∃ (s : State) (tid : _) (b : _) (k : Nat) (a : _), s.commitsOne tid b k .mrel a ∧ (s.tile (s.thread tid).tile).claimant = some tid) ∧
  (∃ (s : State) (tid : _) (b : _) (k : Nat) (a : _) (n : Nat) (e : MxEffect), s.commitsOne tid b k (.mx n e) a ∧ (∀ els back, e ≠ .spill els back)) ∧
  (∃ (s : State) (tid : _) (b : _) (k : Nat) (a : _) (n : Nat) (el : StoreEl), s.commitsOne tid b k (.mx n (.spill [el] false)) a ∧ el.route ≠ .peer) ∧
  (∃ (s : State) (tid : _) (b : _) (k : Nat) (a : _) (runs : List RowRun) (wr : Bool) (tries : Bool) (c : Nat) (d : Word) (r : Word), s.commitsOne tid b k (.plock runs wr tries c d r) a) ∧
  (∃ (s : State) (tid : _) (b : _) (k : Nat) (a : _) (runs : List RowRun), s.commitsOne tid b k (.punlock runs) a) ∧
  (∃ (s : State) (tid : _) (b : _) (k : Nat) (a : _) (l : Launch), s.commitsOne tid b k (.plaunch l) a) ∧
  (∃ (s : State) (tid : _) (b : _) (k : Nat) (a : _) (i : _) (v : Word), s.commitsOne tid b k (.cpset i v) a) ∧
  (∃ (s : State) (tid : _) (b : _) (k : Nat) (a : _) (v : NMap Word), s.commitsOne tid b k (.cpgo v) a) ∧
  (∃ (s : State) (tid : _) (b : _) (k : Nat) (a : _) (q : _) (m : BitVec 8), s.commitsOne tid b k (.cpqf q m) a) ∧
  (∃ (s : State) (tid : _) (b : _) (k : Nat) (a : _) (w : Word), s.commitsOne tid b k (.cpabort w) a) ∧
  (∃ (s : State) (tid : _) (b : _) (slot : _) (a : _), s.commitReady tid = some b ∧ b.effects = [] ∧ b.exit = some (slot, .yield a) ∧ s.waiting = []) ∧
  (∃ (s : State) (tid : _) (b : _) (slot : _) (x : Team), s.commitReady tid = some b ∧ b.effects = [] ∧ b.exit = some (slot, .halt) ∧ s.teamOf (s.thread tid) = some x ∧ x.barriers = []) ∧
  (∃ (s : State) (g : _) (reg : _) (which : _), s.groups.find? (fun (x : Group) => x.gid == g.gid) = some g ∧ g.ready = true ∧ g.dests = [(reg, which)] ∧ g.vl = false ∧ (s.thread g.tid).team = g.team ∧ (s.thread g.tid).status = .running ∧ s.saved = []) :=
  ⟨⟨base [blk [] [] [] [] [] (some (0, .goto 0x2000))], 0, blk [] [] [] [] [] (some (0, .goto 0x2000)), 0, 0x2000, by decide +kernel⟩,
   ⟨base [blk [] [] [] [] [] (some (0, .call 0x2000 0x1040))], 0, blk [] [] [] [] [] (some (0, .call 0x2000 0x1040)), 0, 0x2000, 0x1040, by decide +kernel⟩,
   ⟨base [blk [] [] [] [] [] (some (0, .sysc 0x2000))], 0, blk [] [] [] [] [] (some (0, .sysc 0x2000)), 0, 0x2000, by decide +kernel⟩,
   ⟨base [blk [0x1805A, 0, 0x5010] [2] [⟨0, .a, .scalar 77⟩] [0] [] (some (0, .goto 0x2000))], 0, blk [0x1805A, 0, 0x5010] [2] [⟨0, .a, .scalar 77⟩] [0] [] (some (0, .goto 0x2000)), 0, 0x2000, 0, ⟨.wrs, .rw ⟨.always, 5⟩⟩, 77, by decide +kernel⟩,
   ⟨base [blk [0x1805A, 0, 0x245, 361472, 0] [2] [] [0] [⟨0, .store 0 [⟨0, 0x4000, [1, 2, 3, 4], .cached, false⟩] (some 9)⟩] (some (0, .goto 0x2000))], 0, blk [0x1805A, 0, 0x245, 361472, 0] [2] [] [0] [⟨0, .store 0 [⟨0, 0x4000, [1, 2, 3, 4], .cached, false⟩] (some 9)⟩] (some (0, .goto 0x2000)), 0, 0x2000, 0, 0, ⟨0, 0x4000, [1, 2, 3, 4], .cached, false⟩, some 9, by decide +kernel⟩,
   ⟨effDev (.wfloor 9), 0, effBlk (.wfloor 9), 0, 0x2000, 9, commits_of (by decide +kernel)⟩,
   ⟨effDev (.setvl 100 32), 0, effBlk (.setvl 100 32), 0, 0x2000, 100, 32, commits_of (by decide +kernel), by decide +kernel⟩,
   ⟨effDev (.lclaim 4), 0, effBlk (.lclaim 4), 0, 0x2000, 4, commits_of (by decide +kernel), by decide +kernel⟩,
   ⟨effDev (.eret), 0, effBlk (.eret), 0, 0x2000, commits_of (by decide +kernel)⟩,
   ⟨(effDev (.icinv)).setTile 0 { Tests.tile with icache := [⟨0x20, 0, []⟩] }, 0, effBlk (.icinv), 0, 0x2000, commits_of (by decide +kernel)⟩,
   ⟨effDev (.tlbinv 0 0x1000), 0, effBlk (.tlbinv 0 0x1000), 0, 0x2000, 0, 0x1000, commits_of (by decide +kernel)⟩,
   ⟨{ effDev (.bar 2 2 0x50) with teams := [team0 [0, 1]], threads := [(0, thr [effBlk (.bar 2 2 0x50)]), (1, thr [])] }, 0, effBlk (.bar 2 2 0x50), 0, 0x2000, 2, 2, 0x50, team0 [0, 1], commits_of (by decide +kernel), by decide +kernel⟩,
   ⟨{ effDev (.bar 2 1 0x50) with teams := [team0 [0]] }, 0, effBlk (.bar 2 1 0x50), 0, 0x2000, 2, 1, 0x50, team0 [0], commits_of (by decide +kernel), by decide +kernel⟩,
   ⟨effDev (.adds 0 [⟨3, 0, 0x4008, 5, .cached, false⟩]), 0, effBlk (.adds 0 [⟨3, 0, 0x4008, 5, .cached, false⟩]), 0, 0x2000, 0, ⟨3, 0, 0x4008, 5, .cached, false⟩, commits_of (by decide +kernel), by decide +kernel⟩,
   ⟨effDev (.planes 0 [⟨0x4000, 0, 3, 1, 1⟩] (some 9)), 0, effBlk (.planes 0 [⟨0x4000, 0, 3, 1, 1⟩] (some 9)), 0, 0x2000, 0, ⟨0x4000, 0, 3, 1, 1⟩, some 9, commits_of (by decide +kernel)⟩,
   ⟨effDev (.atomic 0 .add 0x4008 8 5 6 false (some 9) .cached false), 0, effBlk (.atomic 0 .add 0x4008 8 5 6 false (some 9) .cached false), 0, 0x2000, 0, .add, 0x4008, 8, 5, 6, false, some 9, .cached, false, commits_of (by decide +kernel), by decide +kernel⟩,
   ⟨effDev (.claimel 0 0x4000 32 6 .cached false), 0, effBlk (.claimel 0 0x4000 32 6 .cached false), 0, 0x2000, 0, 0x4000, 32, 6, .cached, false, commits_of (by decide +kernel), by decide +kernel⟩,
   ⟨(effDev (.mclaim true)).setTile 0 { Tests.tile with claimant := some 0 }, 0, effBlk (.mclaim true), 0, 0x2000, true, commits_of (by decide +kernel), by decide +kernel⟩,
   ⟨effDev (.mclaim false), 0, effBlk (.mclaim false), 0, 0x2000, false, commits_of (by decide +kernel), by decide +kernel⟩,
   ⟨(effDev (.mclaim true)).setTile 0 { Tests.tile with claimant := some 7 }, 0, effBlk (.mclaim true), 0, 0x2000, 7, commits_of (by decide +kernel), by decide +kernel⟩,
   ⟨(effDev (.mclaim false)).setTile 0 { Tests.tile with claimant := some 7 }, 0, effBlk (.mclaim false), 0, 0x2000, 7, commits_of (by decide +kernel), by decide +kernel⟩,
   ⟨(effDev (.mrel)).setTile 0 { Tests.tile with claimant := some 0 }, 0, effBlk (.mrel), 0, 0x2000, commits_of (by decide +kernel), by decide +kernel⟩,
   ⟨(effDev (.mx 0 (.decay 7))).setTile 0 { Tests.tile with claimant := some 0 }, 0, effBlk (.mx 0 (.decay 7)), 0, 0x2000, 0, .decay 7, commits_of (by decide +kernel), fun _ _ h => nomatch h⟩,
   ⟨(effDev (.mx 0 (.spill [⟨0, 0x4000, [1, 2], .cached, false⟩] false))).setTile 0 { Tests.tile with claimant := some 0 }, 0, effBlk (.mx 0 (.spill [⟨0, 0x4000, [1, 2], .cached, false⟩] false)), 0, 0x2000, 0, ⟨0, 0x4000, [1, 2], .cached, false⟩, commits_of (by decide +kernel), by decide +kernel⟩,
   ⟨effDev (.plock [⟨0, 16, 2, 0x4000⟩] true false 0 0x30 0x40), 0, effBlk (.plock [⟨0, 16, 2, 0x4000⟩] true false 0 0x30 0x40), 0, 0x2000, [⟨0, 16, 2, 0x4000⟩], true, false, 0, 0x30, 0x40, commits_of (by decide +kernel)⟩,
   ⟨(effDev (.punlock [⟨0, 16, 2, 0x4000⟩])).setCluster 0 { mapped with locks := [⟨0, true, [⟨0, 16, 2, 0x4000⟩], 0, 0, []⟩] }, 0, effBlk (.punlock [⟨0, 16, 2, 0x4000⟩]), 0, 0x2000, [⟨0, 16, 2, 0x4000⟩], commits_of (by decide +kernel)⟩,
   ⟨effDev (.plaunch launch0), 0, effBlk (.plaunch launch0), 0, 0x2000, launch0, commits_of (by decide +kernel)⟩,
   ⟨effDev (.cpset 3 77), 0, effBlk (.cpset 3 77), 0, 0x2000, 3, 77, commits_of (by decide +kernel)⟩,
   ⟨effDev (.cpgo [(3, 1)]), 0, effBlk (.cpgo [(3, 1)]), 0, 0x2000, [(3, 1)], commits_of (by decide +kernel)⟩,
   ⟨effDev (.cpqf 1 6), 0, effBlk (.cpqf 1 6), 0, 0x2000, 1, 6, commits_of (by decide +kernel)⟩,
   ⟨(effDev (.cpabort 7)).setTile 0 { Tests.tile with queues := [(0, { CopyQueue.empty with entries := [{ copyEntry 7 (.thread 0) 0 true 0 3 [] none [] with region := 0 }], nextSeq := 8 })] }, 0, effBlk (.cpabort 7), 0, 0x2000, 7, commits_of (by decide +kernel)⟩,
   ⟨base [blk [] [] [] [] [] (some (0, .yield 0x2000))], 0, blk [] [] [] [] [] (some (0, .yield 0x2000)), 0, 0x2000, by decide +kernel⟩,
   ⟨{ base [blk [] [] [] [] [] (some (0, .halt))] with teams := [team0 [0]] }, 0, blk [] [] [] [] [] (some (0, .halt)), 0, team0 [0], by decide +kernel⟩,
   ⟨{ base [] with groups := [⟨9, 0, 0, [(5, 0)], 0, none, some 77, none, none, true, false, false, false, none⟩], threads := [(0, { thr [] with pending := [(5, 9)] })] }, (⟨9, 0, 0, [(5, 0)], 0, none, some 77, none, none, true, false, false, false, none⟩ : Group), 5, 0, by decide +kernel⟩⟩
theorem witness_ClaimsAndWeightFills :
  (∃ (s : State) (tile : _) (tid : _) (g : Nat) (rest : List (Nat × Nat)), (s.tile tile).claimant = none ∧ (s.tile tile).claimQ = (tid, g) :: rest ∧ tid < 8192 ∧ s.claimAwaited tile = false ∧ rest.any (·.1 == tid) = false) ∧
  (∃ (s : State) (tid : _) (b : _) (n : _) (f : Fill) (rest : List (Nat × MxEffect)), s.commitHead tid = some b ∧ b.mxEffects = (n, .wload f) :: rest ∧ f.wla = false ∧ (s.tile (s.tileOf tid)).mx.backSt ≠ .filling) ∧
  (∃ (s : State) (tid : _) (b : _) (n : _) (f : Fill) (rest : List (Nat × MxEffect)), s.commitHead tid = some b ∧ b.mxEffects = (n, .wloada f) :: rest ∧ f.wla = true ∧ (s.tile (s.tileOf tid)).mx.backSt ≠ .filling) ∧
  (∃ (s : State) (tile : _) (f : Fill) (m : _) (touched : _) (expands : _), (s.tile tile).mx.fill = some f ∧ (s.tile tile).mx.backSt = .filling ∧ s.underCeiling f.bound = true ∧ runFill ⟨s, { who := ⟨tile, f.asid, f.supervisor⟩, owner := (s.tile tile).claimant.map s.party, bound := f.bound, cells := [] }⟩ f s.fresh (s.tile tile).mx = .ended m touched expands) ∧
  (∃ (s : State) (tile : _) (f : Fill), (s.tile tile).mx.fill = some f ∧ (s.tile tile).mx.backSt = .filling ∧ f.wla = true ∧ f.plane = roundPlane (s.tile tile).mx f.arow) :=
  ⟨⟨{ base [] with tiles := [(0, { Tests.tile with claimQ := [(0, 9)] })], groups := [⟨9, 0, 0, [(5, 0)], 0, none, some 77, none, none, false, false, false, false, none⟩] }, 0, 0, 9, ([] : List (Nat × Nat)), by decide +kernel⟩,
   ⟨base [blk [] [] [] [] [⟨0, .mx 0 (.wload fillB)⟩] (some (0, .goto 0x2000))], 0, blk [] [] [] [] [⟨0, .mx 0 (.wload fillB)⟩] (some (0, .goto 0x2000)), 0, fillB, [], by decide +kernel⟩,
   ⟨base [blk [] [] [] [] [⟨0, .mx 0 (.wloada fillC)⟩] (some (0, .goto 0x2000))], 0, blk [] [] [] [] [⟨0, .mx 0 (.wloada fillC)⟩] (some (0, .goto 0x2000)), 0, fillC, [], by decide +kernel⟩,
   ⟨{ base [] with tiles := [(0, { Tests.tile with claimant := some 0, mx := { MxState.grant with fill := some fillB, backSt := .filling } })] }, 0, fillB, (match runFill ⟨{ base [] with tiles := [(0, { Tests.tile with claimant := some 0, mx := { MxState.grant with fill := some fillB, backSt := .filling } })] }, { who := ⟨0, 0, true⟩, owner := some (State.reset.party 0), bound := 0, cells := [] }⟩ fillB 7 { MxState.grant with fill := some fillB, backSt := .filling } with | .ended m _ _ => m | _ => MxState.grant), (match runFill ⟨{ base [] with tiles := [(0, { Tests.tile with claimant := some 0, mx := { MxState.grant with fill := some fillB, backSt := .filling } })] }, { who := ⟨0, 0, true⟩, owner := some (State.reset.party 0), bound := 0, cells := [] }⟩ fillB 7 { MxState.grant with fill := some fillB, backSt := .filling } with | .ended _ l _ => l | _ => []), (match runFill ⟨{ base [] with tiles := [(0, { Tests.tile with claimant := some 0, mx := { MxState.grant with fill := some fillB, backSt := .filling } })] }, { who := ⟨0, 0, true⟩, owner := some (State.reset.party 0), bound := 0, cells := [] }⟩ fillB 7 { MxState.grant with fill := some fillB, backSt := .filling } with | .ended _ _ b => b | _ => false), by decide +kernel⟩,
   ⟨{ base [] with tiles := [(0, { Tests.tile with claimant := some 0, mx := { MxState.grant with fill := some fillA, backSt := .filling } })] }, 0, fillA, rfl, rfl, rfl, round_acc _ _ _ rfl⟩⟩
theorem witness_ContextsStopSaveAndResume :
  (∃ (s : State) (tid : _), (s.thread tid).status = .running) ∧
  (∃ (s : State) (tid : _), (s.thread tid).status = .stopping ∧ (s.thread tid).flight.any (·.accepted) = false) ∧
  (∃ (s : State) (tid : _), (s.thread tid).status = .stopping ∧ (s.thread tid).flight = [] ∧ (s.thread tid).vlOut = 0 ∧ (s.tile (s.thread tid).tile).stripOf (s.party tid) = false ∧ s.areaSnoop (s.thread tid).savea true = none ∧ (s.thread tid).dying = none) ∧
  (∃ (s : State) (tid : _) (x : Team) (w : Word), (s.thread tid).status = .stopping ∧ (s.thread tid).flight = [] ∧ (s.thread tid).vlOut = 0 ∧ (s.tile (s.thread tid).tile).stripOf (s.party tid) = false ∧ s.areaSnoop (s.thread tid).savea true = none ∧ (s.thread tid).dying = some w ∧ s.teams.find? (·.id == (s.thread tid).team) = some x ∧ x.done = false) ∧
  (∃ (s : State) (tid : _) (kept : Thread) (u : Thread) (team : Team) (core : _), s.saved.find? (·.1 == tid) = some (tid, kept) ∧ s.areaSnoop kept.savea false = none ∧ s.saveHeaderOk kept = true ∧ u = s.restored kept ∧ s.teams.find? (·.id == u.team) = some team ∧ s.resumeCore team.tile tid = some core ∧ s.resumable tid u team.tile = true ∧ ((u.mat = true → (s.tile team.tile).claimant = none))) ∧
  (∃ (s : State) (tid : _) (slot : _) (elem : Nat) (lane : _) (b : BlockExec) (rest : List BlockExec), (s.thread tid).blockOfSlot slot = some b ∧ (s.thread tid).flight = b :: rest ∧ (s.thread tid).lanes.getLsbD (lane / 16) = true) ∧
  (∃ (s : State) (tile : _) (group : _) (l : LaneTest), (s.tile tile).testing.find? (·.group == group) = some l) ∧
  (∃ (s : State) (tile : _) (group : _) (l : LaneTest) (b : BlockExec), (s.tile tile).testing.find? (·.group == group) = some l ∧ (s.thread l.tid).block l.serial = some b ∧ b.strikes < 2) ∧
  (∃ (s : State) (tile : _) (group : _) (l : LaneTest) (b : BlockExec) (rest : List BlockExec), (s.tile tile).testing.find? (·.group == group) = some l ∧ (s.thread l.tid).flight = b :: rest ∧ b.serial = l.serial ∧ b.strikes = 2 ∧ (s.thread l.tid).tvec ≠ 0 ∧ (s.thread l.tid).tvec ≠ b.addr) :=
  ⟨⟨base [], 0, by decide +kernel⟩,
   ⟨{ base [emptyBlock 3 0x1000] with threads := [(0, { thr [emptyBlock 3 0x1000] with status := .stopping })] }, 0, by decide +kernel⟩,
   ⟨{ base [] with threads := [(0, { thr [] with status := .stopping, savea := 0x6000 })], tiles := [(0, { Tests.tile with claimant := some 0 })] }, 0, by decide +kernel⟩,
   ⟨{ base [] with threads := [(0, { thr [] with status := .stopping, savea := 0x6000, dying := some 77 })], teams := [⟨0, 0, 5, 0, 0, [0], 9, 0, 0, [], none, none, false⟩] }, 0, ⟨0, 0, 5, 0, 0, [0], 9, 0, 0, [], none, none, false⟩, 77, by decide +kernel⟩,
   ⟨{ base [] with threads := [], saved := [(0, { thr [] with status := .saved, savea := 0x6000, mat := true, savedMx := some { MxState.grant with decay := 5 } })], teams := [⟨0, 0, 5, 0, 0, [0], 9, 0, 0, [], none, none, false⟩], mem := writeBytes [] 0x6000 (leBytes 3 0x015E1A) }, 0, { thr [] with status := .saved, savea := 0x6000, mat := true, savedMx := some { MxState.grant with decay := 5 } }, ({ base [] with threads := [], saved := [(0, { thr [] with status := .saved, savea := 0x6000, mat := true, savedMx := some { MxState.grant with decay := 5 } })], teams := [⟨0, 0, 5, 0, 0, [0], 9, 0, 0, [], none, none, false⟩], mem := writeBytes [] 0x6000 (leBytes 3 0x015E1A) }).restored ({ thr [] with status := .saved, savea := 0x6000, mat := true, savedMx := some { MxState.grant with decay := 5 } }), ⟨0, 0, 5, 0, 0, [0], 9, 0, 0, [], none, none, false⟩, 0, by decide +kernel⟩,
   ⟨base [ldBlk], 0, 0, 1, 3, ldBlk, [], by decide +kernel⟩,
   ⟨(base []).setTile 0 { Tests.tile with testing := [(⟨0, 3, 0, 3, 0, 1⟩ : LaneTest)] }, 0, 0, (⟨0, 3, 0, 3, 0, 1⟩ : LaneTest), by decide +kernel⟩,
   ⟨(base [emptyBlock 3 0x1000]).setTile 0 { Tests.tile with testing := [(⟨0, 3, 0, 3, 0, 1⟩ : LaneTest)] }, 0, 0, (⟨0, 3, 0, 3, 0, 1⟩ : LaneTest), (emptyBlock 3 0x1000), by decide +kernel⟩,
   ⟨(base [{ emptyBlock 3 0x1000 with strikes := 2 }]).setTile 0 { Tests.tile with testing := [(⟨0, 3, 0, 3, 0, 1⟩ : LaneTest)] }, 0, 0, (⟨0, 3, 0, 3, 0, 1⟩ : LaneTest), { emptyBlock 3 0x1000 with strikes := 2 }, [], by decide +kernel⟩⟩
theorem witness_LoadsAreServed :
  (∃ (s : State) (id : _) (l : _) (h : _) (n : Nat) (sx : _) (rw : _), s.findLoad id = some l ∧ s.lineTurn l = true ∧ l.home = some h ∧ s.underCeiling l.bound = true ∧ s.underCeiling (s.wts h l.line) = true ∧ s.gate (some (s.party l.tid)) l.key false = none ∧ (s.line l.line).bad = false ∧ s.loadMeetsError l = false ∧ (l.stage = .atHome ∨ l.stage = .dramDone) ∧ (s.needsDram h l.line l.route = false ∨ l.stage = .dramDone) ∧ l.form = .scalar n sx rw ∧ l.route = .cached ∧ l.fresh = false) ∧
  (∃ (s : State) (id : _) (l : _) (h : _) (p : _) (b : _) (tr : _) (sx : _), s.awaits l p b tr ∧ s.findLoad id = some l ∧ l.home = some h ∧ s.underCeiling l.bound = true ∧ s.underCeiling (s.wts h l.line) = true ∧ s.gate (some (s.party l.tid)) l.key false = none ∧ (s.line l.line).bad = false ∧ s.loadMeetsError l = false ∧ l.stage = .dramDone ∧ l.form = .scalar p.size sx false ∧ l.fresh = true ∧ l.route ≠ .host ∧ l.route ≠ .peer) ∧
  (∃ (s : State) (id : _) (l : _) (c : Copy) (p : _) (b : _) (tr : _) (sx : _), s.awaits l p b tr ∧ s.findLoad id = some l ∧ l.stage = .toL1 ∧ l.answer = some c ∧ l.form = .scalar p.size sx false ∧ l.toL1 = true ∧ s.storing c.line (· == s.tileOf l.tid) = false ∧ ((∀ y ∈ (s.tile (s.tileOf l.tid)).l1, y.line = c.line → serialLe y.wts c.wts = true))) ∧
  (∃ (s : State) (id : _) (l : _) (x : Copy), s.findLoad id = some l ∧ l.stage = .toRdc ∧ s.lineTurn l = true ∧ l.answer = none ∧ findCopy l.line (s.cluster (l.via s)).rdc = some x ∧ x.bad = false ∧ serialLe l.bound x.rts = true) ∧
  (∃ (s : State) (id : _) (l : _), s.findLoad id = some l ∧ l.stage = .toRdc ∧ s.lineTurn l = true ∧ l.answer = none ∧ ((∀ x, findCopy l.line (s.cluster (l.via s)).rdc = some x → x.bad = false ∧ serialLe l.bound x.rts = false))) ∧
  (∃ (s : State) (id : _) (l : _) (x : Copy), s.findLoad id = some l ∧ l.stage = .toRdc ∧ s.lineTurn l = true ∧ l.answer = some x ∧ l.toRdc = true ∧ s.storing x.line (fun n => clusterOfTile n == l.via s) = false ∧ ((∀ y ∈ (s.cluster (l.via s)).rdc, y.bad = false ∧ (y.line = x.line → serialLe y.wts x.wts = true)))) ∧
  (∃ (s : State) (id : _) (l : _) (h : _) (p : _) (b : _) (tr : _) (sx : _) (lim : Nat), s.awaits l p b tr ∧ s.findLoad id = some l ∧ l.route ≠ .peer ∧ l.home = some h ∧ s.gate (some (s.party l.tid)) l.key false = none ∧ s.loadMeetsError l = false ∧ l.woken = true ∧ l.form = .wait p.size sx false lim) ∧
  (∃ (s : State) (id : _) (l : _) (h : _) (p : _) (b : _) (tr : _) (sx : _) (lim : Nat), s.awaits l p b tr ∧ s.findLoad id = some l ∧ l.route ≠ .peer ∧ l.home = some h ∧ s.gate (some (s.party l.tid)) l.key false = none ∧ s.loadMeetsError l = false ∧ l.stage = .armed ∧ l.form = .wait p.size sx false lim) :=
  ⟨⟨loading (ldReq (.scalar 8 false false) (ldPart 0x4008 .cached) false .dramDone (none)), 1, (ldReq (.scalar 8 false false) (ldPart 0x4008 .cached) false .dramDone (none)), 0, 8, false, false, by decide +kernel⟩,
   ⟨loading (ldReq (.scalar 8 false false) (ldPart 0x4008 .cached) true .dramDone (none)), 1, (ldReq (.scalar 8 false false) (ldPart 0x4008 .cached) true .dramDone (none)), 0, ldPart 0x4008 .cached, ldBlk, ldTo, false, awaits_of (by decide +kernel), by decide +kernel⟩,
   ⟨loading (ldReq (.scalar 8 false false) (ldPart 0x4008 .cached) false .toL1 (some ldCopy)), 1, (ldReq (.scalar 8 false false) (ldPart 0x4008 .cached) false .toL1 (some ldCopy)), ldCopy, ldPart 0x4008 .cached, ldBlk, ldTo, false, awaits_of (by decide +kernel), by decide +kernel⟩,
   ⟨(loading (ldReq (.scalar 8 false false) (ldPart 0x4008 .cached) false .toRdc (none))).setCluster 0 { mapped with rdc := [ldCopy] }, 1, (ldReq (.scalar 8 false false) (ldPart 0x4008 .cached) false .toRdc (none)), ldCopy, by decide +kernel⟩,
   ⟨loading (ldReq (.scalar 8 false false) (ldPart 0x4008 .cached) false .toRdc (none)), 1, (ldReq (.scalar 8 false false) (ldPart 0x4008 .cached) false .toRdc (none)), by decide +kernel, by decide +kernel, by decide +kernel, by decide +kernel, fun x h => absurd (show (findCopy _ []) = some x from h) (by simp [findCopy])⟩,
   ⟨loading (ldReq (.scalar 8 false false) (ldPart 0x4008 .cached) false .toRdc (some ldCopy)), 1, (ldReq (.scalar 8 false false) (ldPart 0x4008 .cached) false .toRdc (some ldCopy)), ldCopy, by decide +kernel⟩,
   ⟨loading { ldReq (.wait 8 false false 3) (ldPart 0x4008 .cached) true .armed none with armedAt := none }, 1, { ldReq (.wait 8 false false 3) (ldPart 0x4008 .cached) true .armed none with armedAt := none }, 0, ldPart 0x4008 .cached, ldBlk, ldTo, false, 3, awaits_of (by decide +kernel), by decide +kernel⟩,
   ⟨loading { ldReq (.wait 8 false false 3) (ldPart 0x4008 .cached) true .armed none with armedAt := some 77 }, 1, { ldReq (.wait 8 false false 3) (ldPart 0x4008 .cached) true .armed none with armedAt := some 77 }, 0, ldPart 0x4008 .cached, ldBlk, ldTo, false, 3, awaits_of (by decide +kernel), by decide +kernel⟩⟩
theorem witness_StoresAtomicsAndClaimsArePerformed :
  (∃ (s : State) (id : _) (r : StoreReq) (h : _) (cells : List Host.Cell), s.findStore id = some r ∧ s.turnOf r = true ∧ r.copy = none ∧ r.home = some h ∧ (s.line (lineOf r.kind.key)).bad = false ∧ s.storeWaits r h = none ∧ r.kind = .write cells ∧ r.route ≠ .host ∧ r.route ≠ .nocache ∧ (∀ c ∈ cells, lineOf c.1 = lineOf r.kind.key) ∧ s.lineBad r.kind.key = false ∧ s.underCeiling ((s.packetTo r.tile h).storeTime h (lineOf r.kind.key) r.w r.floor) = true) ∧
  (∃ (s : State) (id : _) (r : StoreReq) (h : _) (cells : List Host.Cell), s.findStore id = some r ∧ s.turnOf r = true ∧ r.copy = none ∧ r.home = some h ∧ (∀ l ∈ r.lines, (s.line l).bad = false ∧ s.lineBad (l * 128) = false) ∧ s.storeWaits r h = none ∧ r.kind = .write cells ∧ r.route = .nocache ∧ isSlice h = true ∧ (∀ c ∈ cells, lineOf c.1 = lineOf r.kind.key) ∧ s.underCeiling ((s.packetTo r.tile h).storeTime h (lineOf r.kind.key) r.w r.floor true) = true) ∧
  (∃ (s : State) (id : _) (r : StoreReq) (h : _) (e : FoldEl), s.findStore id = some r ∧ s.turnOf r = true ∧ r.copy = none ∧ r.home = some h ∧ (∀ l ∈ r.lines, (s.line l).bad = false ∧ s.lineBad (l * 128) = false) ∧ s.storeWaits r h = none ∧ r.kind = .folds [e] ∧ e.fop = 0 ∧ r.route ≠ .host ∧ r.route ≠ .nocache ∧ s.underCeiling ((s.packetTo r.tile h).storeTime h (lineOf e.key) r.w r.floor) = true) ∧
  (∃ (s : State) (id : _) (r : StoreReq) (h : _) (w : RowWrite), s.findStore id = some r ∧ s.turnOf r = true ∧ r.copy = none ∧ r.home = some h ∧ (∀ l ∈ r.lines, (s.line l).bad = false ∧ s.lineBad (l * 128) = false) ∧ s.storeWaits r h = none ∧ r.kind = .row w ∧ r.route = .cached ∧ s.underCeiling (serialMaxL (r.lines.map (fun l => (s.packetTo r.tile h).storeTime h l r.w r.floor)) ((s.packetTo r.tile h).storeTime h (lineOf w.key) r.w r.floor)) = true) ∧
  (∃ (s : State) (id : _) (r : StoreReq) (h : _) (op : AtomicOp) (key : Nat) (size : Nat) (b : Word) (c : Word) (sx : _) (gid : _) (v : Word), s.findStore id = some r ∧ s.turnOf r = true ∧ r.copy = none ∧ r.home = some h ∧ (s.line (lineOf r.kind.key)).bad = false ∧ s.storeWaits r h = none ∧ r.kind = .atomic op key size b c sx ∧ r.route ≠ .peer ∧ r.gid = some gid ∧ s.lineBad key = false ∧ s.underCeiling ((s.packetTo r.tile h).storeTime h (lineOf r.kind.key) r.w r.floor (nocacheRoute r.route)) = true ∧ atomicNew op size (BitVec.ofNat 64 (readNat s.mem key size)) b c sx = some v) ∧
  (∃ (s : State) (id : _) (r : StoreReq) (h : _) (op : AtomicOp) (key : Nat) (size : Nat) (b : Word) (c : Word) (sx : _) (gid : _), s.findStore id = some r ∧ s.turnOf r = true ∧ r.copy = none ∧ r.home = some h ∧ (s.line (lineOf r.kind.key)).bad = false ∧ s.storeWaits r h = none ∧ r.kind = .atomic op key size b c sx ∧ r.route ≠ .peer ∧ r.gid = some gid ∧ s.lineBad key = false ∧ s.underCeiling ((s.packetTo r.tile h).storeTime h (lineOf r.kind.key) r.w r.floor (nocacheRoute r.route)) = true ∧ atomicNew op size (BitVec.ofNat 64 (readNat s.mem key size)) b c sx = none) ∧
  (∃ (s : State) (id : _) (r : StoreReq) (h : _) (key : Nat) (width : Nat) (count : Word) (cap : Nat) (gid : _) (g : Nat), s.findStore id = some r ∧ s.turnOf r = true ∧ r.copy = none ∧ r.home = some h ∧ (s.line (lineOf r.kind.key)).bad = false ∧ s.storeWaits r h = none ∧ r.kind = .claimel key width count cap ∧ r.route ≠ .peer ∧ r.gid = some gid ∧ s.lineBad key = false ∧ s.underCeiling ((s.packetTo r.tile h).storeTime h (lineOf r.kind.key) r.w r.floor (nocacheRoute r.route)) = true ∧ g = Nat.min count.toNat (Nat.min cap (readNat s.mem (key + 8) 8 - readNat s.mem key 8)) ∧ 0 < g) :=
  ⟨⟨{ base [] with stores := [⟨1, some 0, some 0, 0, 0, some 9, .write [(0x4008, 1), (0x4009, 2)], .cached, false, some 12, some 3, true, false, none, some 0, []⟩], groups := [⟨9, 0, 0, [(5, 0)], 1, none, none, none, none, false, false, false, false, none⟩], mem := [] }, 1, ⟨1, some 0, some 0, 0, 0, some 9, .write [(0x4008, 1), (0x4009, 2)], .cached, false, some 12, some 3, true, false, none, some 0, []⟩, 0, [(0x4008, 1), (0x4009, 2)], by decide +kernel⟩,
   ⟨{ base [] with stores := [⟨1, some 0, some 0, 0, 0, some 9, .write [(0x4008, 1), (0x4009, 2)], .nocache, false, some 12, some 3, true, false, none, some 0, []⟩], groups := [⟨9, 0, 0, [(5, 0)], 1, none, none, none, none, false, false, false, false, none⟩], mem := [] }, 1, ⟨1, some 0, some 0, 0, 0, some 9, .write [(0x4008, 1), (0x4009, 2)], .nocache, false, some 12, some 3, true, false, none, some 0, []⟩, 0, [(0x4008, 1), (0x4009, 2)], by decide +kernel⟩,
   ⟨{ base [] with stores := [⟨1, some 0, some 0, 0, 0, some 9, .folds [⟨3, 0, 0x4008, 5, .cached, false⟩], .cached, false, some 12, some 3, true, false, none, some 0, []⟩], groups := [⟨9, 0, 0, [(5, 0)], 1, none, none, none, none, false, false, false, false, none⟩], mem := writeBytes [] 0x4008 (leBytes 8 300) }, 1, ⟨1, some 0, some 0, 0, 0, some 9, .folds [⟨3, 0, 0x4008, 5, .cached, false⟩], .cached, false, some 12, some 3, true, false, none, some 0, []⟩, 0, ⟨3, 0, 0x4008, 5, .cached, false⟩, by decide +kernel⟩,
   ⟨{ base [] with stores := [⟨1, some 0, some 0, 0, 0, some 9, .row ⟨0x4000, 0, 3, 7, 5⟩, .cached, false, some 12, some 3, true, false, none, some 0, []⟩], groups := [⟨9, 0, 0, [(5, 0)], 1, none, none, none, none, false, false, false, false, none⟩], mem := writeBytes [] 0x4000 (leBytes 8 2) }, 1, ⟨1, some 0, some 0, 0, 0, some 9, .row ⟨0x4000, 0, 3, 7, 5⟩, .cached, false, some 12, some 3, true, false, none, some 0, []⟩, 0, ⟨0x4000, 0, 3, 7, 5⟩, by decide +kernel⟩,
   ⟨{ base [] with stores := [⟨1, some 0, some 0, 0, 0, some 9, .atomic .add 0x4008 8 5 0 false, .cached, false, some 12, some 3, true, false, none, some 0, []⟩], groups := [⟨9, 0, 0, [(5, 0)], 1, none, none, none, none, false, false, false, false, none⟩], mem := writeBytes [] 0x4008 (leBytes 8 300) }, 1, ⟨1, some 0, some 0, 0, 0, some 9, .atomic .add 0x4008 8 5 0 false, .cached, false, some 12, some 3, true, false, none, some 0, []⟩, 0, .add, 0x4008, 8, 5, 0, false, 9, 305, by decide +kernel⟩,
   ⟨{ base [] with stores := [⟨1, some 0, some 0, 0, 0, some 9, .atomic .cas 0x4008 4 5 0 true, .cached, false, some 12, some 3, true, false, none, some 0, []⟩], groups := [⟨9, 0, 0, [(5, 0)], 1, none, none, none, none, false, false, false, false, none⟩], mem := writeBytes [] 0x4008 (leBytes 8 300) }, 1, ⟨1, some 0, some 0, 0, 0, some 9, .atomic .cas 0x4008 4 5 0 true, .cached, false, some 12, some 3, true, false, none, some 0, []⟩, 0, .cas, 0x4008, 4, 5, 0, true, 9, by decide +kernel⟩,
   ⟨{ base [] with stores := [⟨1, some 0, some 0, 0, 0, some 9, .claimel 0x4008 32 6 8, .cached, false, some 12, some 3, true, false, none, some 0, []⟩], groups := [⟨9, 0, 0, [(5, 0)], 1, none, none, none, none, false, false, false, false, none⟩], mem := writeBytes [] 0x4008 (leBytes 8 300 ++ leBytes 8 304) }, 1, ⟨1, some 0, some 0, 0, 0, some 9, .claimel 0x4008 32 6 8, .cached, false, some 12, some 3, true, false, none, some 0, []⟩, 0, 0x4008, 32, 6, 8, 9, 4, by decide +kernel⟩⟩
theorem witness_TimesWalksAndTimeouts :
  (∃ (s : State) (id : _) (w : Walk) (tid : _) (e : TlbEntry), s.walks.find? (·.id == id) = some w ∧ s.walkOpen w = true ∧ w.waiters = [tid] ∧ s.walked w = .leaf e) ∧
  (∃ (s : State) (id : _) (w : Walk) (tid : _) (i : _), s.walks.find? (·.id == id) = some w ∧ s.walkOpen w = true ∧ w.waiters = [tid] ∧ s.walked w = .fault i) ∧
  (∃ (s : State) (id : _) (l : _) (p : _) (q : Place) (h : Nat) (b : _) (rest : List BlockExec), s.findLoad id = some l ∧ l.parts = [p] ∧ s.place l.key = some q ∧ s.rowHolder (some (s.party l.tid)) q false = some h ∧ (l.stage = .atHome ∨ l.stage = .dramDone ∨ l.stage = .lockWait) ∧ (s.thread l.tid).flight = b :: rest ∧ b.serial = l.serial ∧ (s.thread l.tid).tvec ≠ 0 ∧ (s.thread l.tid).tvec ≠ b.addr) :=
  ⟨⟨{ base [] with walks := [⟨4, 0, 0, 0, [0], [0], []⟩], asidTab := [(0, some 0x10000)], mem := writeBytes (writeBytes [] 0x10000 (leBytes 8 0x20001)) 0x20000 (leBytes 8 0xF) }, 4, ⟨4, 0, 0, 0, [0], [0], []⟩, 0, (match State.walked { base [] with walks := [⟨4, 0, 0, 0, [0], [0], []⟩], asidTab := [(0, some 0x10000)], mem := writeBytes (writeBytes [] 0x10000 (leBytes 8 0x20001)) 0x20000 (leBytes 8 0xF) } ⟨4, 0, 0, 0, [0], [0], []⟩ with | .leaf e => e | _ => ⟨0, 0, 0, 0, 0⟩), by decide +kernel⟩,
   ⟨{ base [] with walks := [⟨4, 0, 0, 0, [0], [0], []⟩], asidTab := [(0, some 0x10000)] }, 4, ⟨4, 0, 0, 0, [0], [0], []⟩, 0, 0, by decide +kernel⟩,
   ⟨(loading (ldReq (.scalar 8 false false) (ldPart 0x4008 .cached) false .atHome none)).setCluster 0 { mapped with locks := [⟨3, true, [⟨0, 0, 512, 0⟩], 0, 0, []⟩] }, 1, ldReq (.scalar 8 false false) (ldPart 0x4008 .cached) false .atHome none, ldPart 0x4008 .cached, (((loading (ldReq (.scalar 8 false false) (ldPart 0x4008 .cached) false .atHome none)).setCluster 0 { mapped with locks := [⟨3, true, [⟨0, 0, 512, 0⟩], 0, 0, []⟩] }).place 0x4008).getD ⟨0, 0, 0, 0, 0⟩, 3, ldBlk, [], by decide +kernel⟩⟩
theorem witness_RowLocksAndPlaneOps :
  (∃ (s : State) (id : _) (c : _) (q : LockReq) (gid : _), s.lockReq id = some (c, q) ∧ s.mayGrant c q = true ∧ (s.scrubRows c q.lock).badRow q.lock = none ∧ q.gid = some gid ∧ q.launch = none ∧ isThreadParty q.lock.owner = true ∧ s.endures q.lock.owner = true) ∧
  (∃ (s : State) (id : _) (c : _) (q : LockReq) (gid : _) (a : Nat), s.lockReq id = some (c, q) ∧ s.mayGrant c q = true ∧ (s.scrubRows c q.lock).badRow q.lock = some a ∧ q.gid = some gid ∧ q.launch = none ∧ isThreadParty q.lock.owner = true) ∧
  (∃ (s : State) (id : _) (c : _) (q : LockReq) (gid : _) (h : Nat), s.lockReq id = some (c, q) ∧ (s.cluster c).conflict q.lock = some h ∧ q.gid = some gid ∧ q.tries = true ∧ isThreadParty q.lock.owner = true) ∧
  (∃ (s : State) (id : _) (c : _) (q : LockReq) (h : Nat), s.lockReq id = some (c, q) ∧ (s.cluster c).conflict q.lock = some h ∧ q.tries = false) ∧
  (∃ (s : State) (id : _) (c : _) (q : LockReq) (l : Launch) (p : Nat × Nat), s.lockReq id = some (c, q) ∧ s.mayGrant c q = true ∧ (s.scrubRows c q.lock).badRow q.lock = none ∧ q.gid = none ∧ q.launch = some (l, p) ∧ isThreadParty q.lock.owner = false) ∧
  (∃ (s : State) (c : _) (o : FieldOp), s.findOp c o.seq = some o ∧ (s.cluster c).mayStart o = true) ∧
  (∃ (s : State) (c : _) (o : FieldOp), s.findOp c o.seq = some o ∧ o.state = .encoding ∧ o.encodeDone = false ∧ s.snoopWait (o.encodeNext.flatMap (fun x => linesOf (x.1.2 + x.2 * 1024) 1024)) true = none ∧ (s.encodeTimes c o).all s.underCeiling = true) ∧
  (∃ (s : State) (c : _) (o : FieldOp), s.findOp c o.seq = some o ∧ o.state = .encoding ∧ o.encodeDone = true ∧ o.packet = none ∧ (s.cluster c).ops.length ≤ 4096) :=
  ⟨⟨{ base [] with groups := [⟨9, 0, 0, [(5, 0)], 1, none, none, none, none, false, false, false, false, none⟩], clusters := [(0, { mapped with lockReqs := [⟨5, ⟨0, true, [⟨0, 0, 2, 0x200000⟩], 0x4000, 0, []⟩, false, 0, some 9, none⟩], locks := [] })] }, 5, 0, ⟨5, ⟨0, true, [⟨0, 0, 2, 0x200000⟩], 0x4000, 0, []⟩, false, 0, some 9, none⟩, 9, by decide +kernel⟩,
   ⟨{ { base [] with groups := [⟨9, 0, 0, [(5, 0)], 1, none, none, none, none, false, false, false, false, none⟩], clusters := [(0, { mapped with lockReqs := [⟨5, ⟨0, true, [⟨0, 0, 2, 0x200000⟩], 0x4000, 0, []⟩, false, 0, some 9, none⟩], locks := [] })] } with err := [(0x4000, .uncorrectable)] }, 5, 0, ⟨5, ⟨0, true, [⟨0, 0, 2, 0x200000⟩], 0x4000, 0, []⟩, false, 0, some 9, none⟩, 9, 0x200000, by decide +kernel⟩,
   ⟨{ base [] with groups := [⟨9, 0, 0, [(5, 0)], 1, none, none, none, none, false, false, false, false, none⟩], clusters := [(0, { mapped with lockReqs := [⟨5, ⟨0, true, [⟨0, 0, 2, 0x200000⟩], 0x4000, 0, []⟩, true, 0, some 9, none⟩], locks := [⟨2, true, [⟨0, 0, 2, 0x200000⟩], 0x4000, 0, []⟩] })] }, 5, 0, ⟨5, ⟨0, true, [⟨0, 0, 2, 0x200000⟩], 0x4000, 0, []⟩, true, 0, some 9, none⟩, 9, 2, by decide +kernel⟩,
   ⟨{ base [] with groups := [⟨9, 0, 0, [(5, 0)], 1, none, none, none, none, false, false, false, false, none⟩], clusters := [(0, { mapped with lockReqs := [⟨5, ⟨0, true, [⟨0, 0, 2, 0x200000⟩], 0x4000, 0, []⟩, false, 0, some 9, none⟩], locks := [⟨2, true, [⟨0, 0, 2, 0x200000⟩], 0x4000, 0, []⟩] })] }, 5, 0, ⟨5, ⟨0, true, [⟨0, 0, 2, 0x200000⟩], 0x4000, 0, []⟩, false, 0, some 9, none⟩, 2, by decide +kernel⟩,
   ⟨{ base [] with groups := [⟨9, 0, 0, [(5, 0)], 1, none, none, none, none, false, false, false, false, none⟩], clusters := [(0, { mapped with lockReqs := [⟨5, ⟨4096, true, [⟨0, 0, 2, 0x200000⟩], 0x4000, 0, []⟩, false, 0, none, some ((opOf 0 .queued [] []).launch, 0, 0)⟩], locks := [] })] }, 5, 0, ⟨5, ⟨4096, true, [⟨0, 0, 2, 0x200000⟩], 0x4000, 0, []⟩, false, 0, none, some ((opOf 0 .queued [] []).launch, 0, 0)⟩, (opOf 0 .queued [] []).launch, (0, 0), by decide +kernel⟩,
   ⟨running (opOf 0 .queued [] []), 0, (opOf 0 .queued [] []), by decide +kernel⟩,
   ⟨running (opOf 0 .encoding [] []), 0, (opOf 0 .encoding [] []), by decide +kernel⟩,
   ⟨running { opOf 0 .encoding [] [] with encoded := 9 }, 0, ({ opOf 0 .encoding [] [] with encoded := 9 } : FieldOp), by decide +kernel⟩⟩
theorem witness_FurrowWords :
  (∃ (s : State) (c : _) (o : FieldOp) (e : Nat × Nat) (x : BitVec 10) (d : BitVec 10), s.opRuns c o e ∧ writableRow d) ∧
  (∃ (s : State) (c : _) (o : FieldOp) (e : Nat × Nat) (x : BitVec 10) (d : BitVec 10), s.opRuns c o e ∧ writableRow d) ∧
  (∃ (s : State) (c : _) (o : FieldOp) (e : Nat × Nat) (x : BitVec 10) (d : BitVec 10), s.opRuns c o e ∧ writableRow d) ∧
  (∃ (s : State) (c : _) (o : FieldOp) (e : Nat × Nat) (x : BitVec 10) (d : BitVec 10), s.opRuns c o e ∧ writableRow d) ∧
  (∃ (s : State) (c : _) (o : FieldOp) (e : Nat × Nat) (i : Bool) (d : BitVec 10) (par : BitVec 3) (bit : BitVec 5), s.opRuns c o e ∧ writableRow d) ∧
  (∃ (s : State) (c : _) (o : FieldOp) (e : Nat × Nat) (tr : BitVec 2), s.opRuns c o e) ∧
  (∃ (s : State) (c : _) (o : FieldOp) (e : Nat × Nat) (q : Nat × Nat) (x : BitVec 10) (d : BitVec 10) (lay : BitVec 4), writableRow d ∧ s.focus = .op c o.seq ∧ s.findOp c o.seq = some o ∧ o.state = .running ∧ o.passSubs = [e, q] ∧ dieOf e.1 = lay.toNat ∧ dieOf q.1 ≠ lay.toNat ∧ sameVia q.1 e.1 = true ∧ ((e.2 + 1024 ≤ q.2 ∨ q.2 + 1024 ≤ e.2))) ∧
  (∃ (s : State) (c : _) (o : FieldOp) (e : Nat × Nat) (q : Nat × Nat) (x : BitVec 10) (d : BitVec 10) (lay : BitVec 4), writableRow d ∧ s.focus = .op c o.seq ∧ s.findOp c o.seq = some o ∧ o.state = .running ∧ o.passSubs = [e, q] ∧ dieOf e.1 = lay.toNat ∧ dieOf q.1 ≠ lay.toNat ∧ sameVia q.1 e.1 = false) ∧
  (∃ (s : State) (c : _) (o : FieldOp) (e : Nat × Nat) (n : BitVec 8), s.opRuns c o e ∧ n.toNat ≠ 0) ∧
  (∃ (s : State) (c : _) (o : FieldOp) (e : Nat × Nat) (n : BitVec 8) (k : _), s.opRuns c o e ∧ n.toNat = 0 ∧ qEndOf o.launch.words 512 (o.pc + 1) 0 = some k) ∧
  (∃ (s : State) (c : _) (o : FieldOp) (e : Nat × Nat) (par : BitVec 3), s.opRuns c o e ∧ (o.par par.toNat).toNat ≠ 0) ∧
  (∃ (s : State) (c : _) (o : FieldOp) (e : Nat × Nat) (par : BitVec 3) (k : _), s.opRuns c o e ∧ (o.par par.toNat).toNat = 0 ∧ qEndOf o.launch.words 512 (o.pc + 1) 0 = some k) ∧
  (∃ (s : State) (c : _) (o : FieldOp) (e : Nat × Nat) (start : Nat) (n : Nat) (l : Nat) (rest : List (Nat × Nat × Nat)), s.opRuns c o e ∧ o.loops = (start, n, l) :: rest ∧ l + 1 < n) ∧
  (∃ (s : State) (c : _) (o : FieldOp) (e : Nat × Nat) (start : Nat) (n : Nat) (l : Nat) (rest : List (Nat × Nat × Nat)), s.opRuns c o e ∧ o.loops = (start, n, l) :: rest ∧ n ≤ l + 1) ∧
  (∃ (s : State) (c : _) (o : FieldOp) (e : Nat × Nat) (cnt : BitVec 5) (i : Bool) (v : Bool) (par : BitVec 3) (bit : BitVec 5), s.opRuns c o e) ∧
  (∃ (s : State) (c : _) (o : FieldOp) (e : Nat × Nat), s.opRuns c o e) ∧
  (∃ (s : State) (c : _) (o : FieldOp) (e : Nat × Nat), s.opRuns c o e ∧ o.passes ≤ o.pass + 1) ∧
  (∃ (s : State) (c : _) (o : FieldOp) (e : Nat × Nat), s.opRuns c o e ∧ o.pass + 1 < o.passes) :=
  ⟨⟨running (opOf 0 .running [] []), 0, (opOf 0 .running [] []), (0, 0x200000), 0x200, 0x241, runs_of (by decide +kernel), writable_of _ (by decide +kernel)⟩,
   ⟨running (opOf 0 .running [] []), 0, (opOf 0 .running [] []), (0, 0x200000), 0x200, 1, runs_of (by decide +kernel), writable_of _ (by decide +kernel)⟩,
   ⟨running (opOf 0 .running [] []), 0, (opOf 0 .running [] []), (0, 0x200000), 0x200, 2, runs_of (by decide +kernel), writable_of _ (by decide +kernel)⟩,
   ⟨running (opOf 0 .running [] []), 0, (opOf 0 .running [] []), (0, 0x200000), 0x200, 0x222, runs_of (by decide +kernel), writable_of _ (by decide +kernel)⟩,
   ⟨running (opOf 0 .running [] []), 0, (opOf 0 .running [] []), (0, 0x200000), false, 5, 0, 2, runs_of (by decide +kernel), writable_of _ (by decide +kernel)⟩,
   ⟨running (opOf 0 .running [] []), 0, (opOf 0 .running [] []), (0, 0x200000), 0, runs_of (by decide +kernel)⟩,
   ⟨running { opOf 0 .running [] [] with launch := { (opOf 0 .running [] []).launch with subs := [(0, 0x200000), (12288, 0x400000)] } }, 0, ({ opOf 0 .running [] [] with launch := { (opOf 0 .running [] []).launch with subs := [(0, 0x200000), (12288, 0x400000)] } } : FieldOp), (0, 0x200000), (12288, 0x400000), 0x200, 1, 0, writable_of _ (by decide +kernel), by decide +kernel⟩,
   ⟨running { opOf 0 .running [] [] with launch := { (opOf 0 .running [] []).launch with subs := [(0, 0x200000), (12801, 0x400000)] } }, 0, ({ opOf 0 .running [] [] with launch := { (opOf 0 .running [] []).launch with subs := [(0, 0x200000), (12801, 0x400000)] } } : FieldOp), (0, 0x200000), (12801, 0x400000), 0x200, 1, 0, writable_of _ (by decide +kernel), by decide +kernel⟩,
   ⟨running (opOf 0 .running [] []), 0, (opOf 0 .running [] []), (0, 0x200000), 5, runs_of (by decide +kernel), by decide +kernel⟩,
   ⟨running (opOf 0 .running [7, 0x20, 8] []), 0, (opOf 0 .running [7, 0x20, 8] []), (0, 0x200000), 0, 3, runs_of (by decide +kernel), by decide +kernel⟩,
   ⟨running (opOf 0 .running [] []), 0, (opOf 0 .running [] []), (0, 0x200000), 0, runs_of (by decide +kernel), by decide +kernel⟩,
   ⟨running (opOf 0 .running [7, 0x20, 8] []), 0, (opOf 0 .running [7, 0x20, 8] []), (0, 0x200000), 1, 3, runs_of (by decide +kernel), by decide +kernel⟩,
   ⟨running (opOf 0 .running [] [(1, 3, 0)]), 0, (opOf 0 .running [] [(1, 3, 0)]), (0, 0x200000), 1, 3, 0, [], runs_of (by decide +kernel), by decide +kernel⟩,
   ⟨running (opOf 0 .running [] [(1, 3, 2)]), 0, (opOf 0 .running [] [(1, 3, 2)]), (0, 0x200000), 1, 3, 2, [], runs_of (by decide +kernel), by decide +kernel⟩,
   ⟨running (opOf 0 .running [] []), 0, (opOf 0 .running [] []), (0, 0x200000), 2, false, true, 0, 2, runs_of (by decide +kernel)⟩,
   ⟨running (opOf 0 .running [] []), 0, (opOf 0 .running [] []), (0, 0x200000), runs_of (by decide +kernel)⟩,
   ⟨running (opOf 0 .running [] []), 0, (opOf 0 .running [] []), (0, 0x200000), runs_of (by decide +kernel), by decide +kernel⟩,
   ⟨running { opOf 0 .running [] [] with launch := { (opOf 0 .running [] []).launch with subs := [(0, 0x200000), (1, 0x400000)] } }, 0, ({ opOf 0 .running [] [] with launch := { (opOf 0 .running [] []).launch with subs := [(0, 0x200000), (1, 0x400000)] } } : FieldOp), (0, 0x200000), runs_of (by decide +kernel), by decide +kernel⟩⟩
theorem witness_BanksRefreshAndServe :
  (∃ (s : State) (bank : _), 0 < (s.bank bank).credit) ∧
  (∃ (s : State) (bank : _), (s.bank bank).credit = 0) ∧
  (∃ (s : State) (bank : _) (o : FieldOp), s.opIn bank = some o ∧ (∀ b ∈ o.banks, (s.bank b).backoff = false) ∧ s.refreshDue o = true) ∧
  (∃ (s : State) (bank : _), s.opIn bank = none ∧ (s.bank bank).backoff = false ∧ 1 ≤ (s.bank bank).debt) ∧
  (∃ (s : State) (bank : _) (row : Nat) (rest : List Nat), (s.bank bank).managing = none ∧ (s.bank bank).alerts = row :: rest) ∧
  (∃ (s : State) (bank : _), (s.bank bank).managing.isSome = true) ∧
  (∃ (s : State) (bank : _) (q : DramReq) (rest : List DramReq) (n : Nat) (l : LoadReq), s.serves bank q rest ∧ q.what = .load n ∧ s.findLoad n = some l ∧ l.stage = .inDram) ∧
  (∃ (s : State) (bank : _) (q : DramReq) (rest : List DramReq) (n : Nat) (r : StoreReq), s.serves bank q rest ∧ q.what = .store n ∧ s.findStore n = some r) ∧
  (∃ (s : State) (bank : _) (q : DramReq) (rest : List DramReq), s.serves bank q rest ∧ q.what = .engine) ∧
  (∃ (s : State) (bank : _) (q : DramReq) (rest : List DramReq) (bits : List Nat) (p : Place), s.serves bank q rest ∧ q.what ≠ .patrol ∧ s.errOf q.line = .correctable bits ∧ s.place (q.line * 128) = some p ∧ (s.cluster p.cluster).log.length < 4096) ∧
  (∃ (s : State) (bank : _) (q : DramReq) (rest : List DramReq), s.serves bank q rest ∧ q.what ≠ .patrol ∧ (s.errOf q.line = .uncorrectable ∨ s.errOf q.line = .poisoned)) ∧
  (∃ (s : State) (bank : _) (q : DramReq) (rest : List DramReq), s.serves bank q rest ∧ q.what = .patrol ∧ (s.rowStale bank q.row || s.rowLocked bank q.row) = false) ∧
  (∃ (s : State) (bank : _) (q : DramReq), s.inserts bank q ∧ q.what ≠ .patrol) ∧
  (∃ (s : State) (bank : _) (q : DramReq) (bits : List Nat) (p : Place), s.inserts bank q ∧ q.what ≠ .patrol ∧ s.errOf q.line = .correctable bits ∧ s.place (q.line * 128) = some p ∧ (s.cluster p.cluster).log.length < 4096) ∧
  (∃ (s : State) (bank : _) (q : DramReq), s.inserts bank q ∧ q.what ≠ .patrol ∧ (s.errOf q.line = .uncorrectable ∨ s.errOf q.line = .poisoned)) ∧
  (∃ (s : State) (bank : _) (q : DramReq), s.inserts bank q ∧ q.what = .patrol ∧ (s.rowStale bank q.row || s.rowLocked bank q.row) = false) ∧
  (∃ (s : State) (bank : _), (s.cluster (clusterOfBank bank)).poff = false ∧ s.rowStale bank (s.bank bank).patrol = false ∧ s.rowLocked bank (s.bank bank).patrol = false ∧ s.bankEngaged bank = false ∧ s.codeOf bank (s.bank bank).patrol = .ok) ∧
  (∃ (s : State) (bank : _) (l : Nat) (bits : List Nat) (p : Place), (s.cluster (clusterOfBank bank)).poff = false ∧ s.rowStale bank (s.bank bank).patrol = false ∧ s.rowLocked bank (s.bank bank).patrol = false ∧ s.bankEngaged bank = false ∧ s.codeOf bank (s.bank bank).patrol = .ok ∧ s.markedLines bank (s.bank bank).patrol = [l] ∧ s.errOf l = .correctable bits ∧ s.place (l * 128) = some p ∧ (s.cluster p.cluster).log.length < 4096) ∧
  (∃ (s : State) (bank : _) (l : Nat) (p : Place), (s.cluster (clusterOfBank bank)).poff = false ∧ s.rowStale bank (s.bank bank).patrol = false ∧ s.rowLocked bank (s.bank bank).patrol = false ∧ s.bankEngaged bank = false ∧ s.codeOf bank (s.bank bank).patrol = .ok ∧ s.markedLines bank (s.bank bank).patrol = [l] ∧ s.errOf l = .uncorrectable ∧ s.place (l * 128) = some p ∧ (s.cluster p.cluster).log.length < 4095) ∧
  (∃ (s : State) (bank : _), (s.cluster (clusterOfBank bank)).poff = false ∧ (s.rowStale bank (s.bank bank).patrol || s.rowLocked bank (s.bank bank).patrol) = true) ∧
  (∃ (s : State) (bank : _), (s.cluster (clusterOfBank bank)).poff = false ∧ s.rowStale bank (s.bank bank).patrol = false ∧ s.rowLocked bank (s.bank bank).patrol = false ∧ s.bankEngaged bank = true) ∧
  (∃ (s : State) (bank : _), (s.cluster (clusterOfBank bank)).poff = true) :=
  ⟨⟨{ base [] with banks := [(0, { Bank.start with credit := 2 })], counters := [(3, 77), (0, 5)] }, 0, by decide +kernel⟩,
   ⟨{ base [] with banks := [(0, { Bank.start with debt := 8 })], counters := [(3, 77), (0, 5)] }, 0, by decide +kernel⟩,
   ⟨{ base [] with banks := [(0, { Bank.start with debt := 8 })], counters := [(3, 77), (0, 5)], clusters := [(0, { mapped with ops := [(opOf 0 .running [] [])] })] }, 0, (opOf 0 .running [] []), by decide +kernel⟩,
   ⟨{ base [] with banks := [(0, { Bank.start with debt := 8, rp := 0 })], counters := [(3, 77), (0, 5)] }, 0, by decide +kernel⟩,
   ⟨{ base [] with banks := [(0, { Bank.start with alerts := [3, 4] })], counters := [(3, 77), (0, 5)] }, 0, 3, [4], by decide +kernel⟩,
   ⟨{ base [] with banks := [(0, { Bank.start with managing := some 3 })], counters := [(3, 77), (0, 5)] }, 0, by decide +kernel⟩,
   ⟨{ base [] with banks := [(0, { Bank.start with queue := [⟨3, 0x80, .load 1⟩] })], counters := [(3, 77), (0, 5)], loads := [(ldReq (.scalar 8 false false) (ldPart 0x4008 .cached) false .inDram none)] }, 0, ⟨3, 0x80, .load 1⟩, [], 1, (ldReq (.scalar 8 false false) (ldPart 0x4008 .cached) false .inDram none), by unfold State.serves; decide +kernel, by decide +kernel⟩,
   ⟨{ base [] with banks := [(0, { Bank.start with queue := [⟨3, 0x80, .store 1⟩] })], counters := [(3, 77), (0, 5)], stores := [⟨1, some 0, some 0, 0, 0, some 9, .write [(0x4008, 1)], .cached, false, some 12, some 3, true, false, none, some 0, []⟩] }, 0, ⟨3, 0x80, .store 1⟩, [], 1, ⟨1, some 0, some 0, 0, 0, some 9, .write [(0x4008, 1)], .cached, false, some 12, some 3, true, false, none, some 0, []⟩, by unfold State.serves; decide +kernel, by decide +kernel⟩,
   ⟨{ base [] with banks := [(0, { Bank.start with queue := [⟨16, 0x80, .engine⟩] })], counters := [(3, 77), (0, 5)] }, 0, ⟨16, 0x80, .engine⟩, [], by unfold State.serves; decide +kernel, by decide +kernel⟩,
   ⟨{ base [] with banks := [(0, { Bank.start with queue := [⟨16, 0x80, .engine⟩] })], counters := [(3, 77), (0, 5)], err := [(0x80, .correctable [3])] }, 0, ⟨16, 0x80, .engine⟩, [], [3], ⟨0, 0, 0, 16, 0⟩, by unfold State.serves; decide +kernel, by decide +kernel⟩,
   ⟨{ base [] with banks := [(0, { Bank.start with queue := [⟨16, 0x80, .engine⟩] })], counters := [(3, 77), (0, 5)], err := [(0x80, .uncorrectable)] }, 0, ⟨16, 0x80, .engine⟩, [], by unfold State.serves; decide +kernel, by decide +kernel⟩,
   ⟨{ base [] with banks := [(0, { Bank.start with queue := [⟨16, 0x80, .patrol⟩] })], counters := [(3, 77), (0, 5)], err := [(0x80, .uncorrectable)] }, 0, ⟨16, 0x80, .patrol⟩, [], by unfold State.serves; decide +kernel, by decide +kernel⟩,
   ⟨{ base [] with banks := [(0, { Bank.start with queue := [⟨16, 0x80, .engine⟩] })], counters := [(3, 77), (0, 5)], clusters := [(0, { mapped with ops := [(opOf 0 .running [] [])] })] }, 0, ⟨16, 0x80, .engine⟩, inserts_of (opOf 0 .running [] []) (by decide +kernel), by decide +kernel⟩,
   ⟨{ base [] with banks := [(0, { Bank.start with queue := [⟨16, 0x80, .engine⟩] })], counters := [(3, 77), (0, 5)], err := [(0x80, .correctable [3])], clusters := [(0, { mapped with ops := [(opOf 0 .running [] [])] })] }, 0, ⟨16, 0x80, .engine⟩, [3], ⟨0, 0, 0, 16, 0⟩, inserts_of (opOf 0 .running [] []) (by decide +kernel), by decide +kernel⟩,
   ⟨{ base [] with banks := [(0, { Bank.start with queue := [⟨16, 0x80, .engine⟩] })], counters := [(3, 77), (0, 5)], err := [(0x80, .poisoned)], clusters := [(0, { mapped with ops := [(opOf 0 .running [] [])] })] }, 0, ⟨16, 0x80, .engine⟩, inserts_of (opOf 0 .running [] []) (by decide +kernel), by decide +kernel⟩,
   ⟨{ base [] with banks := [(0, { Bank.start with queue := [⟨16, 0x80, .patrol⟩] })], counters := [(3, 77), (0, 5)], err := [(0x80, .correctable [3])], clusters := [(0, { mapped with ops := [(opOf 0 .running [] [])] })] }, 0, ⟨16, 0x80, .patrol⟩, inserts_of (opOf 0 .running [] []) (by decide +kernel), by decide +kernel⟩,
   ⟨{ base [] with banks := [(0, { Bank.start with patrol := 16383 })], counters := [(3, 77), (0, 5)] }, 0, by decide +kernel⟩,
   ⟨{ base [] with banks := [(0, { Bank.start with patrol := 16 })], counters := [(3, 77), (0, 5)], err := [(0x80, .correctable [3])] }, 0, 0x80, [3], ⟨0, 0, 0, 16, 0⟩, by decide +kernel⟩,
   ⟨{ base [] with banks := [(0, { Bank.start with patrol := 16 })], counters := [(3, 77), (0, 5)], err := [(0x80, .uncorrectable)] }, 0, 0x80, ⟨0, 0, 0, 16, 0⟩, by decide +kernel⟩,
   ⟨{ base [] with banks := [(0, { Bank.start with patrol := 0 })], counters := [(3, 77), (0, 5)], stale := [(0, true)] }, 0, by decide +kernel⟩,
   ⟨{ base [] with banks := [(0, { Bank.start with patrol := 5 })], counters := [(3, 77), (0, 5)], clusters := [(0, { mapped with ops := [(opOf 0 .running [] [])] })] }, 0, by decide +kernel⟩,
   ⟨{ base [] with banks := [(0, { Bank.start with patrol := 0 })], counters := [(3, 77), (0, 5)], clusters := [(0, { mapped with poff := true })] }, 0, by decide +kernel⟩⟩
theorem witness_CopyStripsStampsAndFences :
  (∃ (s : State) (tile : _) (queue : _) (e : CopyEntry) (rest : List CopyEntry) (b : Time) (l : List (Loc × Loc)), s.copyHead tile queue e rest ∧ s.stripDue tile queue e b ∧ s.stripReads tile queue e b l ∧ Shadow.fold e.view = 0 ∧ (∀ y ∈ l, s.trainDest tile y.2.key y.2.route = none)) ∧
  (∃ (s : State) (tile : _) (queue : _) (e : CopyEntry) (rest : List CopyEntry) (b : Time) (l : List (Loc × Loc)) (d : Nat), s.copyHead tile queue e rest ∧ s.stripDue tile queue e b ∧ s.stripReads tile queue e b l ∧ Shadow.fold e.view = 0 ∧ l ≠ [] ∧ d < 8 ∧ (∀ y ∈ l, s.trainDest tile y.2.key y.2.route = some d)) ∧
  (∃ (s : State) (tile : _) (queue : _) (e : CopyEntry) (rest : List CopyEntry) (b : Time) (l : List (Loc × Loc)), s.copyHead tile queue e rest ∧ s.stripDue tile queue e b ∧ s.stripReads tile queue e b l ∧ (Shadow.fold e.view = 1 ∨ Shadow.fold e.view = 2) ∧ (∀ y ∈ l, s.trainDest tile y.2.key y.2.route = none)) ∧
  (∃ (s : State) (tile : _) (queue : _) (e : CopyEntry) (rest : List CopyEntry) (b : Time) (l : List (Loc × Loc)), s.copyHead tile queue e rest ∧ s.stripDue tile queue e b ∧ s.stripReads tile queue e b l ∧ (Shadow.fold e.view = 3 ∨ Shadow.fold e.view = 4) ∧ e.strip + 1 < Shadow.strips e.view) ∧
  (∃ (s : State) (tile : _) (queue : _) (e : CopyEntry) (rest : List CopyEntry) (b : Time) (a : Loc) (d : Loc) (l : List (Loc × Loc)) (p : Word), s.copyHead tile queue e rest ∧ s.stripDue tile queue e b ∧ s.stripReads tile queue e b ((a, d) :: l) ∧ Shadow.fold e.view = 3 ∧ e.strip + 1 = Shadow.strips e.view ∧ foldRun (Shadow.ffmt e.view) (Shadow.fop e.view) e.partials (((a, d) :: l).map (s.elVal e)) = [p] ∧ s.trainDest tile d.key d.route = none) ∧
  (∃ (s : State) (tile : _) (queue : _) (e : CopyEntry) (rest : List CopyEntry) (b : Time), s.copyHead tile queue e rest ∧ s.stripNext tile queue e b ∧ e.begun = true ∧ (e.tags ≠ s.tagsOf e.view ∨ s.freesUnder e.tags = true)) ∧
  (∃ (s : State) (tile : _) (queue : _) (e : CopyEntry) (rest : List CopyEntry) (b : Time) (f : Word), s.copyHead tile queue e rest ∧ s.stripDue tile queue e b ∧ checkStrip s ⟨tile, e.asid, e.supervisor⟩ b e.view e.strip (Shadow.stripEls e.view e.strip) = .error (.fails f)) ∧
  (∃ (s : State) (tile : _) (queue : _) (e : CopyEntry) (rest : List CopyEntry), s.copyHead tile queue e rest ∧ e.inFlight = true ∧ e.stamping = none ∧ s.copyOpen tile queue = false) ∧
  (∃ (s : State) (tile : _) (queue : _) (e : CopyEntry) (rest : List CopyEntry) (p : Nat), s.copyHead tile queue e rest ∧ s.stampDue e ∧ e.owner = .thread p ∧ Shadow.stamp e.view = 0) ∧
  (∃ (s : State) (tile : _) (queue : _) (e : CopyEntry) (rest : List CopyEntry) (p : Nat) (l : Loc) (h : Nat), s.copyHead tile queue e rest ∧ s.stampDue e ∧ e.owner = .thread p ∧ Shadow.stamp e.view ≠ 0 ∧ ((e.begun = true → e.tags.getLast? = (s.tagsOf e.view).getLast?)) ∧ checkEl s ⟨tile, e.asid, e.supervisor⟩ .write e.strip 8 (decodePtr (Shadow.stamp e.view), Shadow.stamp e.view) = .ok l ∧ s.trainDest tile l.key l.route = none ∧ l.route ≠ .host ∧ s.engineGate (some p) true l.route [l.key] = none ∧ s.lineBad l.key = false ∧ homeOf s l.key = some h ∧ s.underCeiling (s.storeTime h (lineOf l.key) (if wKind e.stampValue = 0 then some (wTime e.stampValue) else none) (e.bound.getD e.floor) (nocacheRoute l.route)) = true) ∧
  (∃ (s : State) (tile : _) (queue : _) (e : CopyEntry) (rest : List CopyEntry), (s.copyQueue tile queue).entries = e :: rest ∧ e.fence.isSome = true ∧ s.entryHeld e = false ∧ ((∀ x ∈ e.watch, x.2 ≠ e.seq → s.watchOpen (e.origin tile).1 x = false))) :=
  ⟨⟨copyingTo (cpEntryV (1 + 2 * 8) 2 0xFE00050000000200 0), 0, 1, (cpEntryV (1 + 2 * 8) 2 0xFE00050000000200 0), [], (copyingTo (cpEntryV (1 + 2 * 8) 2 0xFE00050000000200 0)).entryBoundOf ((copyingTo (cpEntryV (1 + 2 * 8) 2 0xFE00050000000200 0)).copyQueue 0 1) (cpEntryV (1 + 2 * 8) 2 0xFE00050000000200 0), elsOf (copyingTo (cpEntryV (1 + 2 * 8) 2 0xFE00050000000200 0)) (cpEntryV (1 + 2 * 8) 2 0xFE00050000000200 0), by unfold State.copyHead; decide +kernel, by unfold State.stripDue State.stripNext; decide +kernel, by unfold State.stripReads; decide +kernel, by decide +kernel⟩,
   ⟨copyingTo (cpEntryV (1 + 2 * 8) 2 0xFD01000000000040 0), 0, 1, (cpEntryV (1 + 2 * 8) 2 0xFD01000000000040 0), [], (copyingTo (cpEntryV (1 + 2 * 8) 2 0xFD01000000000040 0)).entryBoundOf ((copyingTo (cpEntryV (1 + 2 * 8) 2 0xFD01000000000040 0)).copyQueue 0 1) (cpEntryV (1 + 2 * 8) 2 0xFD01000000000040 0), elsOf (copyingTo (cpEntryV (1 + 2 * 8) 2 0xFD01000000000040 0)) (cpEntryV (1 + 2 * 8) 2 0xFD01000000000040 0), 1, by unfold State.copyHead; decide +kernel, by unfold State.stripDue State.stripNext; decide +kernel, by unfold State.stripReads; decide +kernel, by decide +kernel⟩,
   ⟨copyingTo (cpEntryV (1 + 2 * 8 + 1 * 32 + 3 * 4096) 2 0xFE00050000000200 0), 0, 1, (cpEntryV (1 + 2 * 8 + 1 * 32 + 3 * 4096) 2 0xFE00050000000200 0), [], (copyingTo (cpEntryV (1 + 2 * 8 + 1 * 32 + 3 * 4096) 2 0xFE00050000000200 0)).entryBoundOf ((copyingTo (cpEntryV (1 + 2 * 8 + 1 * 32 + 3 * 4096) 2 0xFE00050000000200 0)).copyQueue 0 1) (cpEntryV (1 + 2 * 8 + 1 * 32 + 3 * 4096) 2 0xFE00050000000200 0), elsOf (copyingTo (cpEntryV (1 + 2 * 8 + 1 * 32 + 3 * 4096) 2 0xFE00050000000200 0)) (cpEntryV (1 + 2 * 8 + 1 * 32 + 3 * 4096) 2 0xFE00050000000200 0), by unfold State.copyHead; decide +kernel, by unfold State.stripDue State.stripNext; decide +kernel, by unfold State.stripReads; decide +kernel, by decide +kernel⟩,
   ⟨copyingTo (cpEntryV (1 + 2 * 8 + 3 * 32 + 3 * 4096) 257 0xFE00050000000200 0), 0, 1, (cpEntryV (1 + 2 * 8 + 3 * 32 + 3 * 4096) 257 0xFE00050000000200 0), [], (copyingTo (cpEntryV (1 + 2 * 8 + 3 * 32 + 3 * 4096) 257 0xFE00050000000200 0)).entryBoundOf ((copyingTo (cpEntryV (1 + 2 * 8 + 3 * 32 + 3 * 4096) 257 0xFE00050000000200 0)).copyQueue 0 1) (cpEntryV (1 + 2 * 8 + 3 * 32 + 3 * 4096) 257 0xFE00050000000200 0), elsOf (copyingTo (cpEntryV (1 + 2 * 8 + 3 * 32 + 3 * 4096) 257 0xFE00050000000200 0)) (cpEntryV (1 + 2 * 8 + 3 * 32 + 3 * 4096) 257 0xFE00050000000200 0), by unfold State.copyHead; decide +kernel, by unfold State.stripDue State.stripNext; decide +kernel, by unfold State.stripReads; decide +kernel, by decide +kernel⟩,
   ⟨copyingTo (cpEntryV (1 + 2 * 8 + 3 * 32 + 3 * 4096) 2 0xFE00050000000200 0), 0, 1, (cpEntryV (1 + 2 * 8 + 3 * 32 + 3 * 4096) 2 0xFE00050000000200 0), [], (copyingTo (cpEntryV (1 + 2 * 8 + 3 * 32 + 3 * 4096) 2 0xFE00050000000200 0)).entryBoundOf ((copyingTo (cpEntryV (1 + 2 * 8 + 3 * 32 + 3 * 4096) 2 0xFE00050000000200 0)).copyQueue 0 1) (cpEntryV (1 + 2 * 8 + 3 * 32 + 3 * 4096) 2 0xFE00050000000200 0), ((elsOf (copyingTo (cpEntryV (1 + 2 * 8 + 3 * 32 + 3 * 4096) 2 0xFE00050000000200 0)) (cpEntryV (1 + 2 * 8 + 3 * 32 + 3 * 4096) 2 0xFE00050000000200 0)).head?.getD (⟨2 ^ 52 + 0x100, .space, false, false, 0xFE00050000000100⟩, ⟨2 ^ 52 + 0x200, .space, false, false, 0xFE00050000000200⟩)).1, ((elsOf (copyingTo (cpEntryV (1 + 2 * 8 + 3 * 32 + 3 * 4096) 2 0xFE00050000000200 0)) (cpEntryV (1 + 2 * 8 + 3 * 32 + 3 * 4096) 2 0xFE00050000000200 0)).head?.getD (⟨2 ^ 52 + 0x100, .space, false, false, 0xFE00050000000100⟩, ⟨2 ^ 52 + 0x200, .space, false, false, 0xFE00050000000200⟩)).2, (elsOf (copyingTo (cpEntryV (1 + 2 * 8 + 3 * 32 + 3 * 4096) 2 0xFE00050000000200 0)) (cpEntryV (1 + 2 * 8 + 3 * 32 + 3 * 4096) 2 0xFE00050000000200 0)).tail, 0x04030201, by unfold State.copyHead; decide +kernel, by unfold State.stripDue State.stripNext; decide +kernel, by unfold State.stripReads; decide +kernel, by decide +kernel⟩,
   ⟨copying { cpEntry 0 0 with begun := true, tags := [(0, 9)] }, 0, 1, ({ cpEntry 0 0 with begun := true, tags := [(0, 9)] } : CopyEntry), [], (copying { cpEntry 0 0 with begun := true, tags := [(0, 9)] }).entryBoundOf ((copying { cpEntry 0 0 with begun := true, tags := [(0, 9)] }).copyQueue 0 1) ({ cpEntry 0 0 with begun := true, tags := [(0, 9)] } : CopyEntry), by unfold State.copyHead; decide +kernel, by unfold State.stripNext; decide +kernel, by decide +kernel⟩,
   ⟨copying { cpEntry 0 0 with view := [(0, 0xFE00050000000100), (1, 0xFE00060000000200), (3, 1 + 2 * 8), (4, 1)] }, 0, 1, ({ cpEntry 0 0 with view := [(0, 0xFE00050000000100), (1, 0xFE00060000000200), (3, 1 + 2 * 8), (4, 1)] } : CopyEntry), [], (copying { cpEntry 0 0 with view := [(0, 0xFE00050000000100), (1, 0xFE00060000000200), (3, 1 + 2 * 8), (4, 1)] }).entryBoundOf ((copying { cpEntry 0 0 with view := [(0, 0xFE00050000000100), (1, 0xFE00060000000200), (3, 1 + 2 * 8), (4, 1)] }).copyQueue 0 1) ({ cpEntry 0 0 with view := [(0, 0xFE00050000000100), (1, 0xFE00060000000200), (3, 1 + 2 * 8), (4, 1)] } : CopyEntry), errWitness 1 0, by unfold State.copyHead; decide +kernel, by unfold State.stripDue State.stripNext; decide +kernel, by decide +kernel⟩,
   ⟨copying { cpEntry 0 0 with inFlight := true }, 0, 1, ({ cpEntry 0 0 with inFlight := true } : CopyEntry), [], by unfold State.copyHead; decide +kernel, by decide +kernel⟩,
   ⟨copying (cpEntry 0 1), 0, 1, (cpEntry 0 1), [], 0, by unfold State.copyHead; decide +kernel, by unfold State.stampDue; decide +kernel, by decide +kernel⟩,
   ⟨copying { cpEntry 0x4010 1 with last := some 44 }, 0, 1, ({ cpEntry 0x4010 1 with last := some 44 } : CopyEntry), [], 0, ⟨0x4010, .cached, false, false, 0⟩, 0, by unfold State.copyHead; decide +kernel, by unfold State.stampDue; decide +kernel, by decide +kernel⟩,
   ⟨copying (copyEntry 9 (.thread 0) 0 true 0 3 [] (some 4) [(2, 7)]), 0, 1, (copyEntry 9 (.thread 0) 0 true 0 3 [] (some 4) [(2, 7)]), [], by decide +kernel⟩⟩
theorem witness_TrainsArePerformedAndAcknowledged :
  (∃ (s : State) (id : _) (u : Train) (e : TrainEl) (r : List TrainEl) (h : _), s.trainDue u e r h ∧ s.findTrain id = some u ∧ u.inbound = none) ∧
  (∃ (s : State) (id : _) (u : Train) (e : TrainEl) (h : _) (f : FoldEl), s.trainDue u e [] h ∧ s.findTrain id = some u ∧ u.inbound = none ∧ e.fold = some f) ∧
  (∃ (s : State) (id : _) (u : Train) (e : TrainEl) (h : _), s.findTrain id = some u ∧ u.here = true ∧ u.ready = true ∧ u.lineEls = [e] ∧ u.inbound = none ∧ s.trainTurn u (lineOf e.key) = true ∧ s.trainHome u e.key = some h ∧ s.trainOwns u e = false) ∧
  (∃ (s : State) (id : _) (u : Train) (e : TrainEl), s.findTrain id = some u ∧ u.here = true ∧ u.ready = true ∧ u.lineEls = [e] ∧ ((u.inbound.isSome = true → s.asidServed u.asid = true)) ∧ s.trainTurn u (lineOf e.key) = true ∧ s.trainHome u e.key = none) ∧
  (∃ (s : State) (id : _) (u : Train), s.findTrain id = some u ∧ u.here = true ∧ u.whole = true ∧ u.performed = u.els.length ∧ u.tailed = false ∧ u.inbound = none) ∧
  (∃ (s : State) (id : _) (u : Train) (dev : Nat), s.findTrain id = some u ∧ u.whole = true ∧ u.performed = u.els.length ∧ u.tailed = false ∧ u.inbound = some dev) ∧
  (∃ (s : State) (id : _) (u : Train) (gid : _), s.findTrain id = some u ∧ u.tailed = true ∧ u.copy = none ∧ u.gid = some gid) ∧
  (∃ (s : State) (id : _) (u : Train) (gid : _), s.findTrain id = some u ∧ u.tailed = false ∧ u.inbound = none ∧ u.copy = none ∧ u.gid = some gid) :=
  ⟨⟨carrying (trainWith [el4 none] 0), 1, ((trainWith [el4 none] 0) : Train), el4 none, [], 0, by unfold State.trainDue; decide +kernel, by decide +kernel⟩,
   ⟨carrying (trainWith [el4 (some ⟨3, 0, 0x4008, 5, .cached, false⟩)] 0), 1, ((trainWith [el4 (some ⟨3, 0, 0x4008, 5, .cached, false⟩)] 0) : Train), el4 (some ⟨3, 0, 0x4008, 5, .cached, false⟩), 0, ⟨3, 0, 0x4008, 5, .cached, false⟩, by unfold State.trainDue; decide +kernel, by decide +kernel⟩,
   ⟨carrying (trainWith [⟨2 ^ 53 + 64, [1, 2], none, .space, false, 0⟩] 0), 1, ((trainWith [⟨2 ^ 53 + 64, [1, 2], none, .space, false, 0⟩] 0) : Train), ⟨2 ^ 53 + 64, [1, 2], none, .space, false, 0⟩, 72, by decide +kernel⟩,
   ⟨carrying (trainWith [⟨0x8000000000, [1, 2], none, .cached, false, 0⟩] 0), 1, ((trainWith [⟨0x8000000000, [1, 2], none, .cached, false, 0⟩] 0) : Train), ⟨0x8000000000, [1, 2], none, .cached, false, 0⟩, by decide +kernel⟩,
   ⟨carrying (trainWith [el4 none] 1), 1, ((trainWith [el4 none] 1) : Train), by decide +kernel⟩,
   ⟨carrying { trainWith [el4 none] 1 with inbound := some 2, time := some 33, count := 1 }, 1, ({ trainWith [el4 none] 1 with inbound := some 2, time := some 33, count := 1 } : Train), 2, by decide +kernel⟩,
   ⟨carrying { trainWith [el4 none] 1 with tailed := true, time := some 33 }, 1, ({ trainWith [el4 none] 1 with tailed := true, time := some 33 } : Train), 9, by decide +kernel⟩,
   ⟨carrying (trainWith [el4 none] 1), 1, ((trainWith [el4 none] 1) : Train), 9, by decide +kernel⟩⟩
theorem witness_QueuesAreReadAndStamped :
  (∃ (s : State) (q : _) (v : Nat), (s.queue q).head.isSome = true) ∧
  (∃ (s : State) (q : _), (s.queue q).head.isSome = true) ∧
  (∃ (s : State) (q : _) (v : Nat), s.mgr.ready = true ∧ q < 4096 ∧ (s.queue q).head = none ∧ s.frontWait q (s.qcbKey q) = none ∧ (s.qcb q).state = 1) ∧
  (∃ (s : State) (q : _) (v : Nat), s.mgr.ready = true ∧ q < 4096 ∧ (s.queue q).head = none ∧ s.frontWait q (s.qcbKey q) = none ∧ (s.qcb q).state ≠ 1) ∧
  (∃ (s : State) (q : _), s.mgr.ready = true ∧ q < 4096 ∧ (s.queue q).head = none ∧ s.frontWait q (s.qcbKey q) = none ∧ (s.qcb q).state = 1) ∧
  (∃ (s : State) (q : _), s.mgr.ready = true ∧ q < 4096 ∧ (s.queue q).head = none ∧ s.frontWait q (s.qcbKey q) = none ∧ (s.qcb q).state ≠ 1) ∧
  (∃ (s : State) (q : _) (c : Qcb) (l : List Byte) (u : State), s.qcbReads q c ∧ (s.queue q).awake = true ∧ (s.queue q).head = none ∧ (s.readQcb q).readPa q c.slot 128 = .bytes l u ∧ (packetOf l).at 0 1 % 2 = c.phase % 2 ∧ headerCode c (packetOf l) = none) ∧
  (∃ (s : State) (q : _) (c : Qcb) (l : List Byte) (u : State), s.qcbReads q c ∧ (s.queue q).awake = true ∧ (s.queue q).head = none ∧ (s.readQcb q).readPa q c.slot 128 = .bytes l u ∧ (packetOf l).at 0 1 % 2 ≠ c.phase % 2) ∧
  (∃ (s : State) (q : _) (c : Qcb) (l : List Byte) (u : State) (e : Nat) (h : Nat), s.qcbReads q c ∧ (s.queue q).awake = true ∧ (s.queue q).head = none ∧ (s.readQcb q).readPa q c.slot 128 = .bytes l u ∧ (packetOf l).at 0 1 % 2 = c.phase % 2 ∧ headerCode c (packetOf l) = some e ∧ (packetOf l).cstamp = 0 ∧ u.frontGate [u.qcbLoc q] = none ∧ homeOf u (u.qcbKey q) = some h ∧ u.underCeiling (u.storeTime h (lineOf (u.qcbKey q)) none (u.queueBound q)) = true) ∧
  (∃ (s u : State) (q : _) (e : Nat) (h : Nat), (s.queue q).awake = true ∧ (s.queue q).head = none ∧ s.frontWait q (s.qcbKey q) = none ∧ (s.qcb q).state = 1 ∧ u = s.readQcb q ∧ s.qcbCode q = some e ∧ u.frontGate [u.qcbLoc q] = none ∧ homeOf u (u.qcbKey q) = some h ∧ u.underCeiling (u.storeTime h (lineOf (u.qcbKey q)) none (u.queueBound q)) = true) ∧
  (∃ (s : State) (q : _) (seq : _) (p : PacketRec) (w : Option Time), s.completes q seq p ∧ ((p.type = 3 ∨ p.type = 4 ∨ p.type = 5 ∨ p.type = 6 ∨ p.type = 8)) ∧ p.done = true ∧ p.time = w ∧ p.error = none ∧ p.cstamp = 0) ∧
  (∃ (s : State) (q : _) (seq : _) (p : PacketRec) (w : Option Time) (l : Loc) (h : Nat), s.completes q seq p ∧ ((p.type = 3 ∨ p.type = 4 ∨ p.type = 5 ∨ p.type = 6)) ∧ p.done = true ∧ p.time = w ∧ p.error = none ∧ p.cstamp ≠ 0 ∧ s.paLoc p.cstamp = some l ∧ l.route = .cached ∧ s.frontGate [l] = none ∧ homeOf s l.key = some h ∧ s.underCeiling (s.storeTime h (lineOf l.key) w (s.queueBound q)) = true) ∧
  (∃ (s : State) (asid : BitVec 12) (rcb : Word) (k : Nat) (n : _) (r : Region), s.lineage asid rcb = [r] ∧ r.addr = rcb ∧ r.asid = asid ∧ r.owes = false ∧ n ≠ 0 ∧ (r.charge k n).exhausted k = false) ∧
  (∃ (s : State) (asid : BitVec 12) (rcb : Word) (k : Nat), (∀ r ∈ s.lineage asid rcb, r.owes = false)) :=
  ⟨⟨(fronted 1 (hostq (some (pkt 8 [])) []) ([]) ([])), 1, 0, by decide +kernel⟩,
   ⟨(fronted 1 (hostq (some (pkt 8 [])) []) ([]) ([])), 1, by decide +kernel⟩,
   ⟨(fronted 1 (hostq none []) ([]) ([])), 1, 0, by decide +kernel⟩,
   ⟨(fronted 2 (hostq none []) ([]) ([])), 1, 0, by decide +kernel⟩,
   ⟨(fronted 1 (hostq none []) ([]) ([])), 1, by decide +kernel⟩,
   ⟨(fronted 2 (hostq none []) ([]) ([])), 1, by decide +kernel⟩,
   ⟨(fronted 1 (hostq none []) (pktBytes 8 []) ([])), 1, ((fronted 1 (hostq none []) (pktBytes 8 []) ([])).qcb 1), pktBytes 8 [], (match ((fronted 1 (hostq none []) (pktBytes 8 []) ([])).readQcb 1).readPa 1 0x21000 128 with | .bytes _ t => t | _ => (fronted 1 (hostq none []) (pktBytes 8 []) ([]))), by unfold State.qcbReads; decide +kernel, by decide +kernel⟩,
   ⟨(fronted 1 (hostq none []) (leBytes 1 8) ([])), 1, ((fronted 1 (hostq none []) (leBytes 1 8) ([])).qcb 1), leBytes 1 8 ++ List.replicate 127 0, (match ((fronted 1 (hostq none []) (leBytes 1 8) ([])).readQcb 1).readPa 1 0x21000 128 with | .bytes _ t => t | _ => (fronted 1 (hostq none []) (leBytes 1 8) ([]))), by unfold State.qcbReads; decide +kernel, by decide +kernel⟩,
   ⟨(fronted 1 (hostq none []) (pktBytes 9 []) ([])), 1, ((fronted 1 (hostq none []) (pktBytes 9 []) ([])).qcb 1), pktBytes 9 [], (match ((fronted 1 (hostq none []) (pktBytes 9 []) ([])).readQcb 1).readPa 1 0x21000 128 with | .bytes _ t => t | _ => (fronted 1 (hostq none []) (pktBytes 9 []) ([]))), 1, 0, by unfold State.qcbReads; decide +kernel, by decide +kernel⟩,
   ⟨{ (fronted 1 (hostq none []) ([]) ([])) with mem := writeBytes (writeBytes [] 0x20040 (qcbAt 1)) 0x2004B [7] }, (State.readQcb ({ (fronted 1 (hostq none []) ([]) ([])) with mem := writeBytes (writeBytes [] 0x20040 (qcbAt 1)) 0x2004B [7] }) 1), 1, 3, 0, by decide +kernel⟩,
   ⟨(fronted 1 (hostq none [{ pkt 4 [] with done := true, started := true, time := some 77 }]) ([]) ([])), 1, 4, ({ pkt 4 [] with done := true, started := true, time := some 77 } : PacketRec), some 77, by unfold State.completes; decide +kernel, by decide +kernel⟩,
   ⟨(fronted 1 (hostq none [{ packetOf (leBytes 1 9 ++ leBytes 1 0 ++ leBytes 2 4 ++ leBytes 4 0 ++ leBytes 8 0x2A008 ++ List.replicate 112 0) with done := true, started := true, time := some 77 }]) ([]) ([])), 1, 4, ({ packetOf (leBytes 1 9 ++ leBytes 1 0 ++ leBytes 2 4 ++ leBytes 4 0 ++ leBytes 8 0x2A008 ++ List.replicate 112 0) with done := true, started := true, time := some 77 } : PacketRec), some 77, ⟨0x2A008, .cached, false, false, 0⟩, 0, by unfold State.completes; decide +kernel, by decide +kernel⟩,
   ⟨(fronted 1 (hostq none []) ([]) ([])), 0, 0x24000, 1, 5, rootNode, by decide +kernel⟩,
   ⟨(fronted 1 (hostq none []) ([]) ([])), 0, 0x24000, 1, by decide +kernel⟩⟩
theorem witness_PacketsStart :
  (∃ (s : State) (q : _) (p : PacketRec) (r : Region), s.headIs q p 1 [(29, 32), (52, 128)] startRange ∧ s.regionIs q (startOf p.bytes).rcb r ∧ p.waited = false) ∧
  (∃ (s u : State) (q : _) (p : PacketRec) (asid : BitVec 12) (x : StartPacket) (r : Region) (tile : _) (c : _) (tid : Nat), s.advances q [] u ∧ (s.queue q).head = some p ∧ s.waitingStart q = some (asid, x) ∧ s.waiting.contains q = true ∧ s.underCeiling (s.queueBound q) = true ∧ s.region asid x.rcb = some r ∧ r.killed = false ∧ (bestStart s (s.waiting.filter s.servable)).map (·.1) = some q ∧ u.startTile asid x = some tile ∧ x.nthr = 1 ∧ u.startCore tile 0 = some c ∧ (u.corePlaces c).head? = some tid) ∧
  (∃ (s : State) (q : _) (asid : BitVec 12) (p : StartPacket) (tile : _) (x : Team) (tid : Nat), s.waitingStart q = some (asid, p) ∧ s.waiting.contains q = true ∧ s.servable q = false ∧ (List.range 64).find? (fun k => p.admits k && s.teams.any (s.lower (s.prioOf asid p.rcb) k)) = some tile ∧ s.teams.any (fun x => s.lower (s.prioOf asid p.rcb) tile x && x.stopsOn s tile) = false ∧ lowestTeam s (s.teams.filter (s.lower (s.prioOf asid p.rcb) tile)) = some x ∧ x.members = [tid] ∧ (s.thread tid).team = x.id ∧ (s.thread tid).status = .running) ∧
  (∃ (s u v : State) (q : _) (p : PacketRec) (l : List Byte), s.headIs q p 3 [(24, 128)] (fun p => p.at 16 8 % 8 == 0) ∧ v.advances q [] u ∧ s.readPa q (p.at 16 8) 8 = .bytes l v ∧ wKind (BitVec.ofNat 64 (leNat l)) = 0) ∧
  (∃ (s v : State) (q : _) (p : PacketRec) (l : List Byte), s.headIs q p 3 [(24, 128)] (fun p => p.at 16 8 % 8 == 0) ∧ s.readPa q (p.at 16 8) 8 = .bytes l v ∧ wKind (BitVec.ofNat 64 (leNat l)) = 2 ∧ paRoute s 0 (p.at 16 8) = some .cached) ∧
  (∃ (s u : State) (q : _) (p : PacketRec), s.headIs q p 4 [(16, 128)] (fun _ => true) ∧ s.advances q [] u ∧ (s.queue q).active = []) ∧
  (∃ (s u : State) (q : _) (p : PacketRec) (r : Region) (l : List Byte), s.headIs q p 5 [(25, 32), (40, 128)] (fun p => p.at 24 1 < 64 && p.at 16 8 % 8 == 0) ∧ s.regionIs q (p.word 32) r ∧ s.givesBytes q ⟨p.at 24 1, r.asid, true⟩ (p.word 16) 8 144 l ∧ Shadow.fault (viewOf l) = none ∧ (let v := (s.touchRange ⟨p.at 24 1, r.asid, true⟩ (p.word 16) 144 (s.queueBound q)).1; v.drawsSpent r.asid r.addr = false ∧ (v.copyQueue (p.at 24 1) (Shadow.queue (viewOf l))).entries.length < 16 ∧ v.advances q [] u)) ∧
  (∃ (s u : State) (q : _) (p : PacketRec) (r : Region) (l : Launch) (seen : _), s.headIs q p 6 [(40, 128)] (fun _ => true) ∧ s.regionIs q (p.word 32) r ∧ (s.serveRanges (s.frontReader q (frontWho r.asid)) seen).advances q [] u ∧ s.planeChecks (s.frontReader q (frontWho r.asid)) r.addr (p.word 16) (p.word 24) = .ok l seen ∧ s.drawsSpent r.asid r.addr = false ∧ (∀ k ∈ l.reads, k ∈ l.writes)) ∧
  (∃ (s u : State) (q : _) (p : PacketRec) (r : Region), s.headIs q p 7 [(25, 128)] (fun p => p.at 24 1 < 2) ∧ s.regionIs q (p.word 16) r ∧ s.advances q [] u ∧ p.at 24 1 = 0 ∧ u.region r.asid r.addr = some r ∧ u.teams.filter (u.killNames q p) = []) ∧
  (∃ (s u : State) (q : _) (p : PacketRec) (x : Team) (tid : Nat), s.headIs q p 7 [(25, 128)] (fun p => p.at 24 1 < 2) ∧ s.advances q [] u ∧ p.at 24 1 = 1 ∧ killTargetBad p = false ∧ u.teams.filter (u.killNames q p) = [x] ∧ u.teams.find? (·.id == x.id) = some x ∧ x.done = false ∧ x.members = [tid] ∧ (u.thread tid).team = x.id ∧ (u.thread tid).status = .running ∧ u.stripHolds (ownerTag x.alloc (mget 0 u.gens x.alloc)) = false) ∧
  (∃ (s u : State) (q : _) (p : PacketRec), s.headIs q p 8 [(16, 128)] (fun _ => true) ∧ s.advances q [] u) ∧
  (∃ (s u : State) (q : _), s.advance q none = some u) :=
  ⟨⟨(fronted 1 (hostq (some (pkt 1 (leBytes 8 0x1000 ++ leBytes 1 1 ++ leBytes 1 1 ++ leBytes 2 64 ++ leBytes 1 0xFF ++ leBytes 3 0 ++ leBytes 8 0x24000 ++ leBytes 8 5 ++ leBytes 4 0x8000))) []) ([]) ([])), 1, pkt 1 (leBytes 8 0x1000 ++ leBytes 1 1 ++ leBytes 1 1 ++ leBytes 2 64 ++ leBytes 1 0xFF ++ leBytes 3 0 ++ leBytes 8 0x24000 ++ leBytes 8 5 ++ leBytes 4 0x8000), rootNode, by unfold State.headIs; decide +kernel, by unfold State.regionIs; decide +kernel, by decide +kernel⟩,
   ⟨{ (fronted 1 (hostq (some { pkt 1 (leBytes 8 0x1000 ++ leBytes 1 1 ++ leBytes 1 1 ++ leBytes 2 64 ++ leBytes 1 0xFF ++ leBytes 3 0 ++ leBytes 8 0x24000 ++ leBytes 8 5 ++ leBytes 4 0x8000) with waited := true }) []) ([]) ([])) with waiting := [1] }, ((State.advance ({ (fronted 1 (hostq (some { pkt 1 (leBytes 8 0x1000 ++ leBytes 1 1 ++ leBytes 1 1 ++ leBytes 2 64 ++ leBytes 1 0xFF ++ leBytes 3 0 ++ leBytes 8 0x24000 ++ leBytes 8 5 ++ leBytes 4 0x8000) with waited := true }) []) ([]) ([])) with waiting := [1] } : State) 1 none).getD State.reset), 1, ({ pkt 1 (leBytes 8 0x1000 ++ leBytes 1 1 ++ leBytes 1 1 ++ leBytes 2 64 ++ leBytes 1 0xFF ++ leBytes 3 0 ++ leBytes 8 0x24000 ++ leBytes 8 5 ++ leBytes 4 0x8000) with waited := true } : PacketRec), 0, startOf (pkt 1 (leBytes 8 0x1000 ++ leBytes 1 1 ++ leBytes 1 1 ++ leBytes 2 64 ++ leBytes 1 0xFF ++ leBytes 3 0 ++ leBytes 8 0x24000 ++ leBytes 8 5 ++ leBytes 4 0x8000)).bytes, rootNode, 0, 0, 1, ⟨by decide +kernel, by decide +kernel⟩, by decide +kernel⟩,
   ⟨{ (fronted 1 (hostq (some { pkt 1 (leBytes 8 0x1000 ++ leBytes 1 1 ++ leBytes 1 1 ++ leBytes 2 64 ++ leBytes 1 0 ++ leBytes 3 0 ++ leBytes 8 0x24000 ++ leBytes 8 5 ++ leBytes 4 0x8000) with waited := true }) []) ([]) ([])) with waiting := [1], teams := [⟨0, 0, 5, 0, 0x25000, [0], 9, 0, 0, [], none, none, false⟩], regions := [{ rootNode with mask := 1 }, { rootNode with addr := 0x25000, prio := 1, mask := 1 }], tiles := [(0, { Tests.tile with free := 0 })] }, 1, 0, startOf (pkt 1 (leBytes 8 0x1000 ++ leBytes 1 1 ++ leBytes 1 1 ++ leBytes 2 64 ++ leBytes 1 0 ++ leBytes 3 0 ++ leBytes 8 0x24000 ++ leBytes 8 5 ++ leBytes 4 0x8000)).bytes, 0, ⟨0, 0, 5, 0, 0x25000, [0], 9, 0, 0, [], none, none, false⟩, 0, by decide +kernel⟩,
   ⟨(fronted 1 (hostq (some (pkt 3 (leBytes 8 0x2A000))) []) ([]) (writeBytes [] 0x2A000 (leBytes 8 77))), ((State.advance (match State.readPa (fronted 1 (hostq (some (pkt 3 (leBytes 8 0x2A000))) []) ([]) (writeBytes [] 0x2A000 (leBytes 8 77))) 1 0x2A000 8 with | .bytes _ t => t | _ => (fronted 1 (hostq (some (pkt 3 (leBytes 8 0x2A000))) []) ([]) (writeBytes [] 0x2A000 (leBytes 8 77)))) 1 none).getD State.reset), (match State.readPa (fronted 1 (hostq (some (pkt 3 (leBytes 8 0x2A000))) []) ([]) (writeBytes [] 0x2A000 (leBytes 8 77))) 1 0x2A000 8 with | .bytes _ t => t | _ => (fronted 1 (hostq (some (pkt 3 (leBytes 8 0x2A000))) []) ([]) (writeBytes [] 0x2A000 (leBytes 8 77)))), 1, pkt 3 (leBytes 8 0x2A000), leBytes 8 77, by unfold State.headIs; decide +kernel, ⟨by decide +kernel, by decide +kernel⟩, by decide +kernel⟩,
   ⟨(fronted 1 (hostq (some (pkt 3 (leBytes 8 0x2A000))) []) ([]) (writeBytes [] 0x2A000 (leBytes 8 (2 ^ 63)))), (match State.readPa (fronted 1 (hostq (some (pkt 3 (leBytes 8 0x2A000))) []) ([]) (writeBytes [] 0x2A000 (leBytes 8 (2 ^ 63)))) 1 0x2A000 8 with | .bytes _ t => t | _ => (fronted 1 (hostq (some (pkt 3 (leBytes 8 0x2A000))) []) ([]) (writeBytes [] 0x2A000 (leBytes 8 (2 ^ 63))))), 1, pkt 3 (leBytes 8 0x2A000), leBytes 8 (2 ^ 63), by unfold State.headIs; decide +kernel, by decide +kernel⟩,
   ⟨(fronted 1 (hostq (some (pkt 4 [])) []) ([]) ([])), ((State.advance (fronted 1 (hostq (some (pkt 4 [])) []) ([]) ([])) 1 none).getD State.reset), 1, pkt 4 [], by unfold State.headIs; decide +kernel, ⟨by decide +kernel, by decide +kernel⟩, by decide +kernel⟩,
   ⟨(fronted 1 (hostq (some (pkt 5 (leBytes 8 0x2A000 ++ leBytes 1 0 ++ leBytes 7 0 ++ leBytes 8 0x24000))) []) ([]) (writeBytes [] 0x2A000 (leBytes 8 0xFE00050000000100 ++ leBytes 8 0xFE00050000000200 ++ leBytes 8 0 ++ leBytes 8 17 ++ leBytes 8 1))), ((State.advance (State.touchRange (fronted 1 (hostq (some (pkt 5 (leBytes 8 0x2A000 ++ leBytes 1 0 ++ leBytes 7 0 ++ leBytes 8 0x24000))) []) ([]) (writeBytes [] 0x2A000 (leBytes 8 0xFE00050000000100 ++ leBytes 8 0xFE00050000000200 ++ leBytes 8 0 ++ leBytes 8 17 ++ leBytes 8 1))) ⟨0, 0, true⟩ 0x2A000 144 (State.queueBound (fronted 1 (hostq (some (pkt 5 (leBytes 8 0x2A000 ++ leBytes 1 0 ++ leBytes 7 0 ++ leBytes 8 0x24000))) []) ([]) (writeBytes [] 0x2A000 (leBytes 8 0xFE00050000000100 ++ leBytes 8 0xFE00050000000200 ++ leBytes 8 0 ++ leBytes 8 17 ++ leBytes 8 1))) 1)).1 1 none).getD State.reset), 1, pkt 5 (leBytes 8 0x2A000 ++ leBytes 1 0 ++ leBytes 7 0 ++ leBytes 8 0x24000), rootNode, leBytes 8 0xFE00050000000100 ++ leBytes 8 0xFE00050000000200 ++ leBytes 8 0 ++ leBytes 8 17 ++ leBytes 8 1 ++ List.replicate 104 0, by unfold State.headIs; decide +kernel, by unfold State.regionIs; decide +kernel, by unfold State.givesBytes; decide +kernel, by decide +kernel, by decide +kernel, by decide +kernel, ⟨by decide +kernel, by decide +kernel⟩⟩,
   ⟨planeHost, ((State.advance (planeHost.serveRanges (planeHost.frontReader 1 (frontWho 0)) planeSeen) 1 none).getD State.reset), 1, planePkt, rootNode, planeLaunch, planeSeen, by unfold State.headIs; decide +kernel, by unfold State.regionIs; decide +kernel, ⟨by decide +kernel, by decide +kernel⟩, by decide +kernel⟩,
   ⟨(fronted 1 (hostq (some (pkt 7 (leBytes 8 0x24000))) []) ([]) ([])), ((State.advance (fronted 1 (hostq (some (pkt 7 (leBytes 8 0x24000))) []) ([]) ([])) 1 none).getD State.reset), 1, pkt 7 (leBytes 8 0x24000), rootNode, by unfold State.headIs; decide +kernel, by unfold State.regionIs; decide +kernel, ⟨by decide +kernel, by decide +kernel⟩, by decide +kernel⟩,
   ⟨{ (fronted 1 (hostq (some (pkt 7 (leBytes 2 0 ++ leBytes 2 5 ++ leBytes 4 0 ++ leBytes 1 1))) []) ([]) ([])) with teams := [⟨0, 0, 5, 0, 0, [0], 9, 0, 0, [], none, none, false⟩] }, ((State.advance ({ (fronted 1 (hostq (some (pkt 7 (leBytes 2 0 ++ leBytes 2 5 ++ leBytes 4 0 ++ leBytes 1 1))) []) ([]) ([])) with teams := [⟨0, 0, 5, 0, 0, [0], 9, 0, 0, [], none, none, false⟩] } : State) 1 none).getD State.reset), 1, pkt 7 (leBytes 2 0 ++ leBytes 2 5 ++ leBytes 4 0 ++ leBytes 1 1), ⟨0, 0, 5, 0, 0, [0], 9, 0, 0, [], none, none, false⟩, 0, by unfold State.headIs; decide +kernel, ⟨by decide +kernel, by decide +kernel⟩, by decide +kernel⟩,
   ⟨(fronted 1 (hostq (some (pkt 8 [])) []) ([]) ([])), ((State.advance (fronted 1 (hostq (some (pkt 8 [])) []) ([]) ([])) 1 none).getD State.reset), 1, pkt 8 [], by unfold State.headIs; decide +kernel, ⟨by decide +kernel, by decide +kernel⟩⟩,
   ⟨(fronted 1 (hostq (some (pkt 8 [])) []) ([]) ([])), ((State.advance (fronted 1 (hostq (some (pkt 8 [])) []) ([]) ([])) 1 none).getD State.reset), 1, by decide +kernel⟩⟩
theorem witness_RegionsAndCisterns :
  (∃ (s u : State) (q : _) (p : PacketRec) (r : Region) (l : List Byte), s.headIs q p 2 [(25, 128)] (fun p => p.at 16 8 % 64 == 0 && true) ∧ s.regionIs q r.addr r ∧ s.givesBytes q (frontWho (s.queue q).asid) (p.word 16) 64 128 l ∧ ((s.touchRange (frontWho (s.queue q).asid) (p.word 16) 128 (s.queueBound q)).1).advances q [] u ∧ p.at 24 1 = 1 ∧ s.region (s.queue q).asid (p.word 16) = none ∧ rcbBad l = false ∧ fieldAt l 80 8 % 8 = 0 ∧ BitVec.ofNat 64 (fieldAt l 0 8) = r.addr ∧ r.addr ≠ 0 ∧ (nodeOf (s.queue q).asid (p.word 16) l).spent = false) ∧
  (∃ (s u : State) (q : _) (p : PacketRec) (r : Region) (n : Region) (l : List Byte) (a : Loc) (h : Nat), s.headIs q p 2 [(25, 128)] (fun p => p.at 16 8 % 64 == 0 && true) ∧ p.at 24 1 = 2 ∧ s.regionIs q (p.word 16) r ∧ s.givesBytes q (frontWho r.asid) r.addr 64 128 l ∧ rcbBad l = false ∧ n = { r with mask := BitVec.ofNat 16 (fieldAt l 8 2), prio := fieldAt l 10 1, fdom := fieldAt l 11 1, limit := dwordsAt l 16 } ∧ n.spent = false ∧ (let v := (s.touchRange (frontWho r.asid) r.addr 128 (s.queueBound q)).1; v.usedSpots r = .at [(a, r.usedBytes)] ∧ a.route = .cached ∧ v.advances q [a] u ∧ homeOf u a.key = some h ∧ u.underCeiling (u.storeTime h (lineOf a.key) none (u.queueBound q)) = true ∧ u.regions = [r])) ∧
  (∃ (s u : State) (q : _) (p : PacketRec) (r : Region), s.headIs q p 2 [(25, 128)] (fun p => p.at 16 8 % 64 == 0 && true) ∧ s.regionIs q (p.word 16) r ∧ s.advances q [] u ∧ p.at 24 1 = 3) ∧
  (∃ (s u : State) (q : _) (p : PacketRec) (r : Region) (a : Loc) (base : Nat) (h : Nat), s.headIs q p 2 [(27, 28), (40, 128)] (fun p => p.at 16 8 % 64 == 0 && (p.at 25 1 < 8 && p.at 26 1 < 2 && 1 ≤ p.at 28 4 && p.at 32 8 % 8 == 0)) ∧ p.at 24 1 = 4 ∧ s.regionIs q (p.word 16) r ∧ s.spotsOf (frontWho r.asid) (p.word 32) (List.replicate 8 0) = .at [(a, List.replicate 8 0)] ∧ a.route = .cached ∧ s.advances q [a] u ∧ u.cisternRun (p.at 25 1) (p.at 28 4) = some base ∧ a.key < 2 ^ 52 ∧ (let v := ((u.boundHome q (72 + p.at 25 1)).makeCistern (p.at 25 1) (p.at 28 4) (p.at 26 1 == 1) r).1; homeOf v a.key = some h ∧ v.underCeiling (v.storeTime h (lineOf a.key) none (v.queueBound q)) = true)) ∧
  (∃ (s u : State) (q : _) (p : PacketRec) (r : Region) (c : Cistern), s.headIs q p 2 [(26, 28), (32, 128)] (fun p => p.at 16 8 % 64 == 0 && p.at 25 1 < 8) ∧ s.regionIs q (p.word 16) r ∧ s.advances q [] u ∧ p.at 24 1 = 5 ∧ s.cisterns.find? (fun c => c.cluster == p.at 25 1 && c.base * 65536 == p.at 28 4 && c.asid == r.asid && c.region == r.addr) = some c ∧ s.cisternHeld c = false) :=
  ⟨⟨(fronted 1 (hostq (some (pkt 2 (leBytes 8 172032 ++ leBytes 1 1 ++ []))) []) ([]) (writeBytes [] 0x2A000 (leBytes 8 0x24000 ++ leBytes 2 0 ++ leBytes 1 5 ++ List.replicate 5 0 ++ List.replicate 32 255))), ((State.advance (State.touchRange (fronted 1 (hostq (some (pkt 2 (leBytes 8 172032 ++ leBytes 1 1 ++ []))) []) ([]) (writeBytes [] 0x2A000 (leBytes 8 0x24000 ++ leBytes 2 0 ++ leBytes 1 5 ++ List.replicate 5 0 ++ List.replicate 32 255))) (frontWho 0) 0x2A000 128 (State.queueBound (fronted 1 (hostq (some (pkt 2 (leBytes 8 172032 ++ leBytes 1 1 ++ []))) []) ([]) (writeBytes [] 0x2A000 (leBytes 8 0x24000 ++ leBytes 2 0 ++ leBytes 1 5 ++ List.replicate 5 0 ++ List.replicate 32 255))) 1)).1 1 none).getD State.reset), 1, pkt 2 (leBytes 8 172032 ++ leBytes 1 1 ++ []), rootNode, leBytes 8 0x24000 ++ leBytes 2 0 ++ leBytes 1 5 ++ List.replicate 5 0 ++ List.replicate 32 255 ++ List.replicate 80 0, by unfold State.headIs; decide +kernel, by unfold State.regionIs; decide +kernel, by unfold State.givesBytes; decide +kernel, ⟨by decide +kernel, by decide +kernel⟩, by decide +kernel⟩,
   ⟨(fronted 1 (hostq (some (pkt 2 (leBytes 8 147456 ++ leBytes 1 2 ++ []))) []) ([]) (writeBytes [] 0x24000 (leBytes 8 0 ++ leBytes 2 0 ++ leBytes 1 6 ++ List.replicate 5 0 ++ List.replicate 32 255))), ((State.advance (State.touchRange (fronted 1 (hostq (some (pkt 2 (leBytes 8 147456 ++ leBytes 1 2 ++ []))) []) ([]) (writeBytes [] 0x24000 (leBytes 8 0 ++ leBytes 2 0 ++ leBytes 1 6 ++ List.replicate 5 0 ++ List.replicate 32 255))) (frontWho 0) 0x24000 128 (State.queueBound (fronted 1 (hostq (some (pkt 2 (leBytes 8 147456 ++ leBytes 1 2 ++ []))) []) ([]) (writeBytes [] 0x24000 (leBytes 8 0 ++ leBytes 2 0 ++ leBytes 1 6 ++ List.replicate 5 0 ++ List.replicate 32 255))) 1)).1 1 none).getD State.reset), 1, pkt 2 (leBytes 8 147456 ++ leBytes 1 2 ++ []), rootNode, { rootNode with prio := 6, limit := List.replicate 4 (BitVec.allOnes 64) }, leBytes 8 0 ++ leBytes 2 0 ++ leBytes 1 6 ++ List.replicate 5 0 ++ List.replicate 32 255 ++ List.replicate 80 0, spotOf (((State.touchRange (fronted 1 (hostq (some (pkt 2 (leBytes 8 147456 ++ leBytes 1 2 ++ []))) []) ([]) (writeBytes [] 0x24000 (leBytes 8 0 ++ leBytes 2 0 ++ leBytes 1 6 ++ List.replicate 5 0 ++ List.replicate 32 255))) (frontWho 0) 0x24000 128 (State.queueBound (fronted 1 (hostq (some (pkt 2 (leBytes 8 147456 ++ leBytes 1 2 ++ []))) []) ([]) (writeBytes [] 0x24000 (leBytes 8 0 ++ leBytes 2 0 ++ leBytes 1 6 ++ List.replicate 5 0 ++ List.replicate 32 255))) 1)).1).usedSpots rootNode), 0, by unfold State.headIs; decide +kernel, by decide +kernel, by unfold State.regionIs; decide +kernel, by unfold State.givesBytes; decide +kernel, by decide +kernel, by decide +kernel, by decide +kernel, by decide +kernel, by decide +kernel, ⟨by decide +kernel, by decide +kernel⟩, by decide +kernel, by decide +kernel, by decide +kernel⟩,
   ⟨(fronted 1 (hostq (some (pkt 2 (leBytes 8 147456 ++ leBytes 1 3 ++ []))) []) ([]) ([])), ((State.advance (fronted 1 (hostq (some (pkt 2 (leBytes 8 147456 ++ leBytes 1 3 ++ []))) []) ([]) ([])) 1 none).getD State.reset), 1, pkt 2 (leBytes 8 147456 ++ leBytes 1 3 ++ []), rootNode, by unfold State.headIs; decide +kernel, by unfold State.regionIs; decide +kernel, ⟨by decide +kernel, by decide +kernel⟩, by decide +kernel⟩,
   ⟨(fronted 1 (hostq (some (pkt 2 (leBytes 8 147456 ++ leBytes 1 4 ++ leBytes 1 0 ++ leBytes 1 1 ++ leBytes 1 0 ++ leBytes 4 2 ++ leBytes 8 0x2A000))) []) ([]) ([])), ((State.advance (fronted 1 (hostq (some (pkt 2 (leBytes 8 147456 ++ leBytes 1 4 ++ leBytes 1 0 ++ leBytes 1 1 ++ leBytes 1 0 ++ leBytes 4 2 ++ leBytes 8 0x2A000))) []) ([]) ([])) 1 none).getD State.reset), 1, pkt 2 (leBytes 8 147456 ++ leBytes 1 4 ++ leBytes 1 0 ++ leBytes 1 1 ++ leBytes 1 0 ++ leBytes 4 2 ++ leBytes 8 0x2A000), rootNode, spotOf (State.spotsOf (fronted 1 (hostq (some (pkt 2 (leBytes 8 147456 ++ leBytes 1 4 ++ leBytes 1 0 ++ leBytes 1 1 ++ leBytes 1 0 ++ leBytes 4 2 ++ leBytes 8 0x2A000))) []) ([]) ([])) (frontWho 0) 0x2A000 (List.replicate 8 0)), 0, 0, by unfold State.headIs; decide +kernel, by decide +kernel, by unfold State.regionIs; decide +kernel, by decide +kernel, by decide +kernel, ⟨by decide +kernel, by decide +kernel⟩, by decide +kernel, by decide +kernel, by decide +kernel, by decide +kernel⟩,
   ⟨{ (fronted 1 (hostq (some (pkt 2 (leBytes 8 147456 ++ leBytes 1 5 ++ leBytes 1 0 ++ leBytes 2 0 ++ leBytes 4 0x10000))) []) ([]) ([])) with cisterns := [⟨0, 1, 2, 0, false, 4, 1, 0x24000⟩] }, ((State.advance ({ (fronted 1 (hostq (some (pkt 2 (leBytes 8 147456 ++ leBytes 1 5 ++ leBytes 1 0 ++ leBytes 2 0 ++ leBytes 4 0x10000))) []) ([]) ([])) with cisterns := [⟨0, 1, 2, 0, false, 4, 1, 0x24000⟩] } : State) 1 none).getD State.reset), 1, pkt 2 (leBytes 8 147456 ++ leBytes 1 5 ++ leBytes 1 0 ++ leBytes 2 0 ++ leBytes 4 0x10000), rootNode, ⟨0, 1, 2, 0, false, 4, 1, 0x24000⟩, by unfold State.headIs; decide +kernel, by unfold State.regionIs; decide +kernel, ⟨by decide +kernel, by decide +kernel⟩, by decide +kernel⟩⟩
theorem witness_HostAccesses :
  (∃ (s : State) (pa : Nat) (n : Nat) (h : _), s.mgr.restarting = false ∧ pa < Config.dramBytes ∧ homeOf s pa = some h ∧ s.hostGate false [lineOf pa] = none ∧ (s.line (lineOf pa)).bad = false ∧ s.lineBad pa = false) ∧
  (∃ (s : State) (pa : Nat) (n : Nat) (h : _), s.mgr.restarting = false ∧ pa < Config.dramBytes ∧ homeOf s pa = some h ∧ s.hostGate false [lineOf pa] = none ∧ (s.line (lineOf pa)).bad = false ∧ s.lineBad pa = true) ∧
  (∃ (s : State) (pa : Nat) (n : Nat), (s.mgr.restarting = true ∨ Config.dramBytes ≤ pa ∨ homeOf s pa = none)) ∧
  (∃ (s : State) (pa : Nat) (x : Bool) (h : _), s.mgr.restarting = false ∧ pa < Config.dramBytes ∧ homeOf s pa = some h ∧ s.hostGate false [lineOf pa] = none ∧ (s.line (lineOf pa)).bad = false ∧ s.lineBad pa = false ∧ ((s.cluster h).snoop.filter (·.1 != lineOf pa)).length < 262144) ∧
  (∃ (s : State) (pa : Nat) (b : List Byte) (h : _), s.mgr.restarting = false ∧ b ≠ [] ∧ pa % 128 + b.length ≤ 128 ∧ pa + b.length ≤ Config.dramBytes ∧ homeOf s (lineOf pa * 128) = some h ∧ s.hostGate true [lineOf pa] = none ∧ (s.line (lineOf pa)).bad = false ∧ (s.lineBad (lineOf pa * 128) = false ∨ b.length = 128) ∧ s.underCeiling (s.storeTime h (lineOf pa) none s.hostLast) = true) ∧
  (∃ (s : State) (pa : Nat) (b : List Byte), s.mgr.restarting = true) ∧
  (∃ (s : State) (line : _) (h : _), homeOf s (line * 128) = some h ∧ (s.cluster h).bisnp.find? (·.1 == line) = some (line, false)) ∧
  (∃ (s : State) (line : _) (h : _) (b : List Byte), homeOf s (line * 128) = some h ∧ (s.cluster h).bisnp.find? (·.1 == line) = some (line, false) ∧ b.length = 128 ∧ s.dramWait .cached [line] = none ∧ (s.line line).bad = false ∧ s.underCeiling (s.storeTime h line none s.hostLast) = true) ∧
  (∃ (s : State) (line : _) (h : _), homeOf s (line * 128) = some h ∧ (s.cluster h).bisnp.find? (·.1 == line) = some (line, true)) ∧
  (∃ (s : State) (id : _) (x : HostReq) (n : Nat) (l : LoadReq) (p : LoadPart) (b : BlockExec) (tr : _) (sx : _) (bytes : List Byte), s.awaits l p b tr ∧ s.hostReqs.find? (·.id == id) = some x ∧ x.what = .load n ∧ s.findLoad n = some l ∧ l.route = .host ∧ l.form = .scalar p.size sx false ∧ bytes.length = 128) ∧
  (∃ (s : State) (id : _) (x : HostReq) (l : Nat) (a : Nat) (c : Time) (bytes : List Byte), s.hostReqs.find? (·.id == id) = some x ∧ x.what = .line l a c ∧ l * 128 < 2 ^ 51) ∧
  (∃ (s : State) (id : _) (x : HostReq) (n : Nat) (r : StoreReq) (gid : Nat) (bytes : List Byte), s.hostReqs.find? (·.id == id) = some x ∧ x.what = .store n ∧ s.findStore n = some r ∧ r.route = .host ∧ r.gid = some gid ∧ r.copy = none) :=
  ⟨⟨{ base [] with mgr := served, mem := writeBytes [] 0x4008 [7, 8, 9] }, 0x4008, 2, 0, by decide +kernel⟩,
   ⟨{ base [] with mgr := served, mem := writeBytes [] 0x4008 [7, 8, 9], err := [(0x80, .poisoned)] }, 0x4008, 2, 0, by decide +kernel⟩,
   ⟨{ base [] with mgr := { served with restarting := true } }, 0x4008, 2, by decide +kernel⟩,
   ⟨{ base [] with mgr := served, mem := writeBytes [] 0x4008 [7, 8, 9] }, 0x4008, true, 0, by decide +kernel⟩,
   ⟨{ base [] with mgr := served, mem := writeBytes [] 0x4008 [7, 8, 9] }, 0x4009, [1, 2], 0, by decide +kernel⟩,
   ⟨{ base [] with mgr := { served with restarting := true } }, 0x4009, [1], by decide +kernel⟩,
   ⟨{ base [] with mgr := served, mem := writeBytes [] 0x4008 [7, 8, 9], clusters := [(0, { mapped with bisnp := [(0x80, false)], snoop := [(0x80, true)] })] }, 0x80, 0, by decide +kernel⟩,
   ⟨{ base [] with mgr := served, mem := writeBytes [] 0x4008 [7, 8, 9], clusters := [(0, { mapped with bisnp := [(0x80, false)], snoop := [(0x80, true)] })] }, 0x80, 0, (List.replicate 128 (0 : Byte)).set 3 9, by decide +kernel⟩,
   ⟨{ base [] with mgr := served, mem := writeBytes [] 0x4008 [7, 8, 9], clusters := [(0, { mapped with bisnp := [(0x80, true)], snoop := [(0x80, true)] })] }, 0x80, 0, by decide +kernel⟩,
   ⟨{ loading (ldReq (.scalar 8 false false) (ldPart (2 ^ 50 + 0x4008) .host) false .inDram none) with hostReqs := [⟨7, .load 1⟩] }, 7, ⟨7, .load 1⟩, 1, (ldReq (.scalar 8 false false) (ldPart (2 ^ 50 + 0x4008) .host) false .inDram none), ldPart (2 ^ 50 + 0x4008) .host, ldBlk, ldTo, false, (List.range 128).map (fun i => BitVec.ofNat 8 (i + 1)), awaits_of (by decide +kernel), by decide +kernel⟩,
   ⟨{ base [] with hostReqs := [⟨7, .line 0x80 0 9⟩] }, 7, ⟨7, .line 0x80 0 9⟩, 0x80, 0, 9, [5], by decide +kernel⟩,
   ⟨{ base [] with hostReqs := [⟨7, .store 1⟩], stores := [⟨1, some 0, some 0, 0, 0, some 9, .write [(2 ^ 50 + 8, 1)], .host, false, some 12, some 3, true, false, none, some 0, []⟩], groups := [⟨9, 0, 0, [(5, 0)], 1, none, none, none, none, false, false, false, false, none⟩], tiles := [(0, { Tests.tile with horizon := 88 })] }, 7, ⟨7, .store 1⟩, 1, ⟨1, some 0, some 0, 0, 0, some 9, .write [(2 ^ 50 + 8, 1)], .host, false, some 12, some 3, true, false, none, some 0, []⟩, 9, [], by decide +kernel⟩⟩
theorem witness_PeerMessages :
  (∃ (s : State) (m : Msg) (h : List Byte), s.next m 1 ∧ (s.stream m.dev m.tile).train = none ∧ m.beats = [h] ∧ trainBad h = false ∧ s.asidServed m.asid = true) ∧
  (∃ (s : State) (m : Msg) (h : List Byte), s.next m 1 ∧ (s.stream m.dev m.tile).train = none ∧ m.beats = [h] ∧ (trainBad h = true ∨ s.asidServed m.asid = false)) ∧
  (∃ (s : State) (m : Msg) (h : List Byte) (b : List Byte) (e : List Byte), s.next m 1 ∧ (s.stream m.dev m.tile).train = none ∧ m.beats = [h, b, e] ∧ trainBad h = false ∧ s.asidServed m.asid = true ∧ isTail e (beatAt h 4 4) 1 (decide (m.at 1 1 < 7)) = true ∧ countFits (beatAt e 0 4) 1 = true ∧ (e.drop 8).any (· != 0) = false ∧ ((entriesOf [b]).take (beatAt e 0 4)).any (entryBad h) = false ∧ (∀ x ∈ s.trains, x.id ≠ s.fresh)) ∧
  (∃ (s : State) (m : Msg) (u : Train) (gid : Nat), s.hears m 2 ∧ s.trains.find? (fun t => t.dest == 8 + m.dev && t.inbound.isNone && t.tile == m.tile && t.no.toNat == m.tag) = some u ∧ u.copy = none ∧ u.gid = some gid ∧ wKind (BitVec.ofNat 64 (m.beat 8 8)) = 0) ∧
  (∃ (s : State) (m : Msg) (h : Nat) (u : State), s.next m 3 ∧ (s.heard m).peerServed m false h u ∧ u.underCeiling m.time = true) ∧
  (∃ (s : State) (m : Msg), s.next m 3 ∧ s.asidServed m.asid = false) ∧
  (∃ (s : State) (m : Msg) (x : HostReq) (n : _) (l : LoadReq) (p : _) (b : BlockExec) (tr : _) (sx : _), s.hears m 4 ∧ s.awaits l p b tr ∧ s.hostReqs.find? (fun h => h.id % 2 ^ 32 == m.tag) = some x ∧ x.what = .load n ∧ s.findLoad n = some l ∧ wKind (BitVec.ofNat 64 (m.beat 128 8)) ≠ 1 ∧ l.form = .scalar p.size sx false) ∧
  (∃ (s : State) (m : Msg) (h : Nat) (u : State) (o : AtomicOp) (v : Word), s.next m 5 ∧ (s.heard m).peerServed m true h u ∧ (let size := 2 ^ (m.beat 4 4 / 32768 % 4); let sx := m.beat 4 4 / 16777216 % 2 == 1; let w := if wKind (BitVec.ofNat 64 (m.beat 24 8)) = 0 then some (wTime (BitVec.ofNat 64 (m.beat 24 8))) else none; let r := if u.needsDram h (lineOf m.pa) .cached then (u.openLine (lineOf m.pa)).correctLine (lineOf m.pa) else u; atomicOf (m.beat 0 4 / 4 % 256) = some o ∧ r.underCeiling (r.storeTime h (lineOf m.pa) w none) = true ∧ atomicNew o size (BitVec.ofNat 64 (readNat s.mem m.pa size)) (BitVec.ofNat 64 (m.beat 8 8)) (BitVec.ofNat 64 (m.beat 16 8)) sx = some v)) ∧
  (∃ (s : State) (m : Msg) (r : StoreReq) (gid : Nat) (op : AtomicOp) (key : Nat) (size : Nat) (b : Word) (c : Word) (sx : _), s.hears m 6 ∧ s.stores.find? (fun r => r.route == .peer && r.id % 2 ^ 32 == m.tag) = some r ∧ r.gid = some gid ∧ r.copy = none ∧ r.kind = .atomic op key size b c sx ∧ wKind (BitVec.ofNat 64 (m.beat 8 8)) ≠ 1) ∧
  (∃ (s : State) (m : Msg), s.hears m 7) ∧
  (∃ (s : State) (m : Msg), s.refuses m = true) ∧
  (∃ (s : State) (tile : _) (dev : Nat) (x : SentMsg) (u : Train) (gid : Nat), s.sent.filter (fun x => x.tile == tile && x.dev == dev) = [x] ∧ x.type = 1 ∧ s.trains.find? (fun t => t.dest == 8 + x.dev && t.inbound.isNone && t.tile == x.tile && t.no.toNat == x.tag) = some u ∧ u.copy = none ∧ u.gid = some gid) ∧
  (∃ (s : State) (port : _) (k : _), s.nextPeer (mget 0 s.idleTurn port) = some k) ∧
  (∃ (s : State) (k : _) (v : Word), k < 2048) :=
  ⟨⟨{ base [] with mgr := served, hostQ := [(1, hostq none [])], mem := writeBytes [] 0x4008 [7, 8, 9] }, (msgOf 1 0 0 0 trainHead), trainHead, by unfold State.next State.hears; decide +kernel, by decide +kernel⟩,
   ⟨{ base [] with mgr := served, hostQ := [(1, hostq none [])], mem := writeBytes [] 0x4008 [7, 8, 9] }, (msgOf 1 0 0 0 (trainHead.set 0 7)), trainHead.set 0 7, by unfold State.next State.hears; decide +kernel, by decide +kernel⟩,
   ⟨{ base [] with mgr := served, hostQ := [(1, hostq none [])], mem := writeBytes [] 0x4008 [7, 8, 9] }, (msgOf 1 0 0 0 (trainHead ++ trainBeat ++ trainTail)), trainHead, trainBeat, trainTail, by unfold State.next State.hears; decide +kernel, by decide +kernel⟩,
   ⟨{ base [] with mgr := served, hostQ := [(1, hostq none [])], mem := writeBytes [] 0x4008 [7, 8, 9], trains := [{ trainWith [el4 none] 0 with dest := 11, tile := 2 }], sent := [sentTo 1 6], groups := [⟨9, 0, 0, [(5, 0)], 1, none, none, none, none, false, false, false, false, none⟩] }, (msgOf 2 1 6 0 (leBytes 8 1 ++ leBytes 8 99 ++ List.replicate 48 0)), ({ trainWith [el4 none] 0 with dest := 11, tile := 2 } : Train), 9, by unfold State.hears; decide +kernel, by decide +kernel⟩,
   ⟨{ base [] with mgr := served, hostQ := [(1, hostq none [])], mem := writeBytes [] 0x4008 [7, 8, 9] }, (msgOf 3 0 5 (0x4008 + 8 * 2 ^ 56) []), 0, ((({ base [] with mgr := served, hostQ := [(1, hostq none [])], mem := writeBytes [] 0x4008 [7, 8, 9] } : State).heard (msgOf 3 0 5 (0x4008 + 8 * 2 ^ 56) [])).raiseClock 0 50).scrubHeld 0 0x80, by unfold State.next State.hears; decide +kernel, by unfold State.peerServed; decide +kernel, by decide +kernel⟩,
   ⟨{ base [] with mgr := served }, (msgOf 3 0 5 (0x4008 + 8 * 2 ^ 56) []), by unfold State.next State.hears; decide +kernel, by decide +kernel⟩,
   ⟨{ loading (ldReq (.scalar 8 false false) (ldPart (2 ^ 51 + 0x4008) .peer) false .inDram none) with hostReqs := [⟨7, .load 1⟩], sent := [sentTo 3 7] }, (msgOf 4 1 7 0 ((List.range 128).map (fun i => BitVec.ofNat 8 (i + 1)) ++ leBytes 8 60 ++ List.replicate 56 0)), ⟨7, .load 1⟩, 1, (ldReq (.scalar 8 false false) (ldPart (2 ^ 51 + 0x4008) .peer) false .inDram none), ldPart (2 ^ 51 + 0x4008) .peer, ldBlk, ldTo, false, by unfold State.hears; decide +kernel, awaits_of (by decide +kernel), by decide +kernel⟩,
   ⟨{ base [] with mgr := served, hostQ := [(1, hostq none [])], mem := writeBytes [] 0x4008 [7, 8, 9] }, (msgOf 5 0 5 0x4008 (leBytes 4 (0x9A * 4 + 1) ++ leBytes 4 (3 * 32768) ++ leBytes 8 5 ++ leBytes 8 0 ++ leBytes 8 12 ++ List.replicate 32 0)), 0, ((({ base [] with mgr := served, hostQ := [(1, hostq none [])], mem := writeBytes [] 0x4008 [7, 8, 9] } : State).heard (msgOf 5 0 5 0x4008 (leBytes 4 (0x9A * 4 + 1) ++ leBytes 4 (3 * 32768) ++ leBytes 8 5 ++ leBytes 8 0 ++ leBytes 8 12 ++ List.replicate 32 0))).raiseClock 0 50).scrubHeld 0 0x80, .add, 0x9080c, by unfold State.next State.hears; decide +kernel, by unfold State.peerServed; decide +kernel, by decide +kernel, by decide +kernel, by decide +kernel⟩,
   ⟨{ base [] with mgr := served, hostQ := [(1, hostq none [])], mem := writeBytes [] 0x4008 [7, 8, 9], stores := [⟨1, some 0, some 0, 0, 0, some 9, .atomic .add (2 ^ 51 + 8) 8 5 0 false, .peer, false, some 12, some 3, true, false, none, some 0, []⟩], groups := [⟨9, 0, 0, [(5, 0)], 1, none, none, none, none, false, false, false, false, none⟩], sent := [sentTo 5 1] }, (msgOf 6 1 1 0 (leBytes 8 123 ++ leBytes 8 99 ++ List.replicate 48 0)), ⟨1, some 0, some 0, 0, 0, some 9, .atomic .add (2 ^ 51 + 8) 8 5 0 false, .peer, false, some 12, some 3, true, false, none, some 0, []⟩, 9, .add, 2 ^ 51 + 8, 8, 5, 0, false, by unfold State.hears; decide +kernel, by decide +kernel⟩,
   ⟨{ base [] with mgr := served, hostQ := [(1, hostq none [])], mem := writeBytes [] 0x4008 [7, 8, 9], ceiling := 20 }, ⟨msgOffset 0 0, msgHeader 7 0 3 0 50 0 0 0, true⟩, by unfold State.hears; decide +kernel⟩,
   ⟨{ base [] with mgr := served, hostQ := [(1, hostq none [])], mem := writeBytes [] 0x4008 [7, 8, 9] }, ⟨msgOffset 0 0, msgHeader 7 0 3 0 50 0 0 0, false⟩, by decide +kernel⟩,
   ⟨{ base [] with mgr := served, hostQ := [(1, hostq none [])], mem := writeBytes [] 0x4008 [7, 8, 9], trains := [{ trainWith [el4 none] 0 with dest := 11, tile := 2 }], sent := [sentTo 1 6], groups := [⟨9, 0, 0, [(5, 0)], 1, none, none, none, none, false, false, false, false, none⟩] }, 2, 3, sentTo 1 6, ({ trainWith [el4 none] 0 with dest := 11, tile := 2 } : Train), 9, by decide +kernel⟩,
   ⟨{ base [] with mgr := served, hostQ := [(1, hostq none [])], mem := writeBytes [] 0x4008 [7, 8, 9], peers := [(5, 0x31)] }, 1, 5, by decide +kernel⟩,
   ⟨{ base [] with mgr := served, hostQ := [(1, hostq none [])], mem := writeBytes [] 0x4008 [7, 8, 9] }, 5, 0x31, by decide +kernel⟩⟩
theorem witness_RegisterWrites :
  (∃ (s : State) (tid : _) (v : Word), s.csrDue tid 0x031 v) ∧
  (∃ (s : State) (tid : _) (v : Word), s.csrDue tid 0x112 v) ∧
  (∃ (s : State) (tid : _) (v : Word), s.csrDue tid 0x111 v ∧ firmwareTid tid = false) ∧
  (∃ (s : State) (tid : _) (v : Word), s.csrDue tid 0x130 v) ∧
  (∃ (s : State) (tid : _) (v : Word), s.csrDue tid 0x131 v) ∧
  (∃ (s : State) (tid : _) (v : Word), s.csrDue tid 0x120 v) ∧
  (∃ (s : State) (tid : _) (v : Word), s.csrDue tid 0x134 v) ∧
  (∃ (il : NMap (Word × Word)) (n : Nat) (v : Word), v.getLsbD 0 = false) ∧
  (∃ (il : NMap (Word × Word)) (n : Nat) (v : Word) (r : Region'), regionOf (v &&& ilaMask, (mget (0, 0) il n).2) = some r) ∧
  (∃ (s : State) (tid : _) (v : Word), s.csrDue tid 0x030 v) ∧
  (∃ (s : State) (tid : _) (v : Word), s.csrDue tid 0x100 v) ∧
  (∃ (s : State) (tid : _) (v : Word), s.csrDue tid 0x101 v) ∧
  (∃ (s : State) (tid : _) (v : Word), s.csrDue tid 0x102 v) ∧
  (∃ (s : State) (tid : _) (v : Word), s.csrDue tid 0x103 v) ∧
  (∃ (s : State) (tid : _) (v : Word), s.csrDue tid 0x104 v) ∧
  (∃ (s : State) (tid : _) (v : Word), s.csrDue tid 0x105 v) ∧
  (∃ (s : State) (tid : _) (v : Word), s.csrDue tid 0x106 v) ∧
  (∃ (s : State) (tid : _) (v : Word), s.csrDue tid 0x107 v) ∧
  (∃ (s : State) (tid : _) (v : Word), s.csrDue tid 0x110 v) ∧
  (∃ (s : State) (tid : _) (v : Word), s.csrDue tid 0x133 v) ∧
  (∃ (s : State) (tid : _) (v : Word), s.csrDue tid 0x136 v) ∧
  (∃ (s : State) (tid : _) (v : Word), s.csrDue tid 0x135 v) ∧
  (∃ (s : State) (tid : _) (v : Word), s.csrDue tid 0x031 v) ∧
  (∃ (s : State) (tid : _) (v : Word), ¬ s.csrDue tid 0x031 v) ∧
  (∃ (s : State) (tid : _) (v : Word), s.csrDue tid 0x112 v) ∧
  (∃ (s : State) (tid : _) (v : Word), ¬ s.csrDue tid 0x112 v) ∧
  (∃ (s : State) (tid : _) (v : Word), firmwareTid tid = true ∧ s.walkPending (.asid (v.setWidth 12)) = false) ∧
  (∃ (s : State) (tid : _) (v : Word), firmwareTid tid = true ∧ s.walkPending (.asid (v.setWidth 12)) = true) ∧
  (∃ (s : State) (tid : _) (v : Word), s.csrDue tid 0x111 v ∧ firmwareTid tid = false) ∧
  (∃ (s : State) (tid : _) (v : Word), ¬ s.csrDue tid 0x111 v ∧ firmwareTid tid = false) ∧
  (∃ (s : State) (tid : _) (v : Word), s.csrDue tid 0x130 v) ∧
  (∃ (s : State) (tid : _) (v : Word), ¬ s.csrDue tid 0x130 v) ∧
  (∃ (s : State) (tid : _) (v : Word), s.csrDue tid 0x131 v) ∧
  (∃ (s : State) (tid : _) (v : Word), ¬ s.csrDue tid 0x131 v) ∧
  (∃ (s : State) (tid : _) (v : Word), s.csrDue tid 0x120 v) ∧
  (∃ (s : State) (tid : _) (v : Word), ¬ s.csrDue tid 0x120 v) ∧
  (∃ (s : State) (tid : _) (v : Word), s.csrDue tid 0x134 v) ∧
  (∃ (s : State) (tid : _) (v : Word), ¬ s.csrDue tid 0x134 v) ∧
  (∃ (s : State) (tid : _) (csr : BitVec 12) (v : Word), s.csrDue tid csr v ∧ ownRow csr.toNat = false) ∧
  (∃ (s : State) (tid : _) (csr : BitVec 12) (v : Word), (ownRow csr.toNat = true ∨ ¬ s.csrDue tid csr v)) ∧
  (∃ (s : State) (off : Nat) (v : Word), ((0x18 ≤ off ∧ off < 0x80000) ∨ (0x88000 ≤ off ∧ off < 0x100000))) ∧
  (∃ (s : State) (off : Nat) (v : Word), (off = 0x8 ∨ off = 0x10)) ∧
  (∃ (s : State) (v : Word), v.getLsbD 2 = true) ∧
  (∃ (s : State) (v : Word), v.getLsbD 2 = false ∧ v.getLsbD 0 = true) ∧
  (∃ (s : State) (v : Word), v.getLsbD 2 = false ∧ v.getLsbD 0 = false) ∧
  (∃ (s : State) (q : _) (v : Word), q < 4096) :=
  ⟨⟨base [csrBlk 0x031 6], 0, 6, due_of (by decide +kernel)⟩,
   ⟨base [csrBlk 0x112 9], 0, 9, due_of (by decide +kernel)⟩,
   ⟨base [csrBlk 0x111 0x30000], 0, 0x30000, due_of (by decide +kernel), by decide +kernel⟩,
   ⟨base [csrBlk 0x130 255], 0, 255, due_of (by decide +kernel)⟩,
   ⟨base [csrBlk 0x131 0x0701], 0, 0x0701, due_of (by decide +kernel)⟩,
   ⟨base [csrBlk 0x120 9], 0, 9, due_of (by decide +kernel)⟩,
   ⟨base [csrBlk 0x134 0x80000011], 0, 0x80000011, due_of (by decide +kernel)⟩,
   ⟨[(0, (0x80000001, 0x8000000))], 0, 2, by decide +kernel⟩,
   ⟨[(0, (0x80000001, 0x8000000))], 0, 0x80000001, (regionOf (0x80000001 &&& ilaMask, 0x8000000)).get (by decide +kernel), by decide +kernel⟩,
   ⟨base [csrBlk 0x030 0xFFFFFFFFFFFFFFFF], 0, 0xFFFFFFFFFFFFFFFF, due_of (by decide +kernel)⟩,
   ⟨base [csrBlk 0x100 0xFFFFFFFFFFFFFFFF], 0, 0xFFFFFFFFFFFFFFFF, due_of (by decide +kernel)⟩,
   ⟨base [csrBlk 0x101 0xFFFFFFFFFFFFFFFF], 0, 0xFFFFFFFFFFFFFFFF, due_of (by decide +kernel)⟩,
   ⟨base [csrBlk 0x102 0xFFFFFFFFFFFFFFFF], 0, 0xFFFFFFFFFFFFFFFF, due_of (by decide +kernel)⟩,
   ⟨base [csrBlk 0x103 0xFFFFFFFFFFFFFFFF], 0, 0xFFFFFFFFFFFFFFFF, due_of (by decide +kernel)⟩,
   ⟨base [csrBlk 0x104 0xFFFFFFFFFFFFFFFF], 0, 0xFFFFFFFFFFFFFFFF, due_of (by decide +kernel)⟩,
   ⟨base [csrBlk 0x105 0xFFFFFFFFFFFFFFFF], 0, 0xFFFFFFFFFFFFFFFF, due_of (by decide +kernel)⟩,
   ⟨base [csrBlk 0x106 0xFFFFFFFFFFFFFFFF], 0, 0xFFFFFFFFFFFFFFFF, due_of (by decide +kernel)⟩,
   ⟨base [csrBlk 0x107 0xFFFFFFFFFFFFFFFF], 0, 0xFFFFFFFFFFFFFFFF, due_of (by decide +kernel)⟩,
   ⟨base [csrBlk 0x110 0xFFFFFFFFFFFFFFFF], 0, 0xFFFFFFFFFFFFFFFF, due_of (by decide +kernel)⟩,
   ⟨base [csrBlk 0x133 0xFFFFFFFFFFFFFFFF], 0, 0xFFFFFFFFFFFFFFFF, due_of (by decide +kernel)⟩,
   ⟨base [csrBlk 0x136 0xFFFFFFFFFFFFFFFF], 0, 0xFFFFFFFFFFFFFFFF, due_of (by decide +kernel)⟩,
   ⟨base [csrBlk 0x135 0xFFFFFFFFFFFFFFFF], 0, 0xFFFFFFFFFFFFFFFF, due_of (by decide +kernel)⟩,
   ⟨base [csrBlk 0x031 6], 0, 6, due_of (by decide +kernel)⟩,
   ⟨base [], 0, 7, not_due (by decide +kernel)⟩,
   ⟨base [csrBlk 0x112 9], 0, 9, due_of (by decide +kernel)⟩,
   ⟨base [], 0, 7, not_due (by decide +kernel)⟩,
   ⟨base [], 2048, 0x30007, by decide +kernel⟩,
   ⟨{ base [] with walks := [⟨4, 0, 0, 0, [0], [0], []⟩] }, 2048, 0x30000, by decide +kernel⟩,
   ⟨base [csrBlk 0x111 0x30000], 0, 0x30000, due_of (by decide +kernel), by decide +kernel⟩,
   ⟨base [], 0, 7, not_due (by decide +kernel), by decide +kernel⟩,
   ⟨base [csrBlk 0x130 255], 0, 255, due_of (by decide +kernel)⟩,
   ⟨base [], 0, 7, not_due (by decide +kernel)⟩,
   ⟨base [csrBlk 0x131 0x0701], 0, 0x0701, due_of (by decide +kernel)⟩,
   ⟨base [], 0, 7, not_due (by decide +kernel)⟩,
   ⟨base [csrBlk 0x120 9], 0, 9, due_of (by decide +kernel)⟩,
   ⟨base [], 0, 7, not_due (by decide +kernel)⟩,
   ⟨base [csrBlk 0x134 0x80000011], 0, 0x80000011, due_of (by decide +kernel)⟩,
   ⟨base [], 0, 7, not_due (by decide +kernel)⟩,
   ⟨base [csrBlk 0x030 7], 0, 0x030, 7, due_of (by decide +kernel), by decide +kernel⟩,
   ⟨base [csrBlk 0x031 7], 0, 0x031, 7, .inl (by decide +kernel)⟩,
   ⟨base [], 0x88000, 7, by decide +kernel⟩,
   ⟨base [], 0x10, 7, by decide +kernel⟩,
   ⟨{ base [] with mgr := served }, 4, by decide +kernel⟩,
   ⟨{ base [] with mgr := served }, 3, by decide +kernel⟩,
   ⟨{ base [] with mgr := served }, 2, by decide +kernel⟩,
   ⟨{ base [] with mgr := served }, 4095, 7, by decide +kernel⟩⟩
theorem witness_Starts :
  (∃ (s : State), s.mgr.busy = false ∧ s.mgr.failStep = 0) ∧
  (∃ (s : State), s.mgr.busy = false ∧ s.mgr.failStep ≠ 0) ∧
  (∃ (s : State), s.mgr.busy = false ∧ s.mgr.failStep = 0) ∧
  (∃ (s : State), s.mgr.busy = false ∧ s.mgr.failStep ≠ 0) ∧
  (∃ (s : State), s.mgr.busy = false) ∧
  (∃ (s : State), s.mgr.busy = true) ∧
  (∃ (s : State) (k : Bool), s.mgr.busy = true ∧ s.mgr.next = some (.warm k)) ∧
  (∃ (s : State) (k : StartKind), s.mgr.busy = true ∧ s.mgr.next = some k) ∧
  (∃ (s : State), s.mgr.busy = true ∧ s.mgr.next = none) ∧
  (∃ (s : State) (f : Option Nat), s.mgr.pending = none) ∧
  (∃ (s : State) (f : Option Nat), s.mgr.trip = true) ∧
  (∃ (s : State) (f : Option Nat), s.mgr.pending = some .cold ∧ s.mgr.trip = false ∧ s.mgr.next = none) ∧
  (∃ (s : State) (f : Option Nat), s.mgr.pending = some .cold ∧ s.mgr.trip = false ∧ s.mgr.next = none ∧ f = some 1) ∧
  (∃ (s : State) (f : Option Nat) (k : StartKind), s.mgr.pending = some .cold ∧ s.mgr.trip = false ∧ s.mgr.next = some k ∧ s.mgr.nextOob = true) ∧
  (∃ (s : State) (z : Bool) (f : Option Nat), s.mgr.pending = some (.warm z) ∧ s.mgr.trip = false ∧ s.stampSnoop = none) ∧
  (∃ (s : State) (z : Bool) (f : Option Nat), s.mgr.pending = some (.warm z) ∧ s.mgr.trip = false ∧ s.stampSnoop = none ∧ s.mgr.next = none) :=
  ⟨⟨{ base [] with mgr := served }, by decide +kernel⟩,
   ⟨{ base [] with mgr := { served with failStep := 3 } }, by decide +kernel⟩,
   ⟨{ base [] with mgr := served }, by decide +kernel⟩,
   ⟨{ base [] with mgr := { served with failStep := 3 } }, by decide +kernel⟩,
   ⟨{ base [] with mgr := served }, by decide +kernel⟩,
   ⟨{ base [] with mgr := { served with restarting := true } }, by decide +kernel⟩,
   ⟨{ base [] with mgr := { served with restarting := true, next := some (.warm false) } }, false, by decide +kernel⟩,
   ⟨{ base [] with mgr := { served with restarting := true, next := some (.cold) } }, .cold, by decide +kernel⟩,
   ⟨{ base [] with mgr := { served with restarting := true } }, by decide +kernel⟩,
   ⟨{ base [] with mgr := served }, none, by decide +kernel⟩,
   ⟨{ base [] with mgr := { served with trip := true, restarting := true, ready := false, pending := some .cold } }, none, by decide +kernel⟩,
   ⟨{ base [] with mgr := { served with restarting := true, ready := false, pending := some .cold } }, none, by decide +kernel⟩,
   ⟨{ base [] with mgr := { served with restarting := true, ready := false, pending := some .cold } }, some 1, by decide +kernel⟩,
   ⟨{ base [] with mgr := { served with restarting := true, ready := false, pending := some .cold, next := some (.warm false), nextOob := true } }, some 4, .warm false, by decide +kernel⟩,
   ⟨{ base [] with mgr := { served with restarting := true, ready := false, pending := some (.warm true) } }, true, none, by decide +kernel⟩,
   ⟨{ base [] with mgr := { served with restarting := true, ready := false, pending := some (.warm true) } }, true, none, by decide +kernel⟩⟩
theorem witness_Repairs :
  (∃ (s : State) (bank : _) (row : _), s.rowLocked bank row = false ∧ s.rowReached bank row = false ∧ mget false s.spared (bank * 32 + row / 512) = false) ∧
  (∃ (s : State) (bank : _) (row : _) (i : Nat) (r : Nat × Nat), s.rowLocked bank row = false ∧ s.rowReached bank row = false ∧ mget false s.spared (bank * 32 + row / 512) = true ∧ ((∀ e ∈ (s.cluster (bank / 6144)).remap, brState e.2 = 0 ∨ brFrom e.2 ≠ bank % 6144)) ∧ (s.cluster (bank / 6144)).freeEntry = some i ∧ s.reserveFor (bank / 6144) = some r) ∧
  (∃ (s : State) (bank : _) (row : _), (s.rowLocked bank row = true ∨ s.rowReached bank row = true)) ∧
  (∃ (s : State) (c : _) (i : Nat), brState (mget 0 (s.cluster c).remap i) = 1 ∧ s.bankBusy (c * 6144 + brFrom (mget 0 (s.cluster c).remap i)) = false ∧ brMoved (mget 0 (s.cluster c).remap i) < 32768) ∧
  (∃ (s : State) (tile : _), (s.tile tile).retired = false ∧ ((∀ e ∈ s.threads, e.2.here = true → e.2.tile ≠ tile))) ∧
  (∃ (s : State) (tile : _), (s.tile tile).retired = true ∧ ((∀ e ∈ s.threads, e.2.here = true → e.2.tile ≠ tile)) ∧ s.tileWritten tile = false ∧ (∀ a ∈ s.allocs, a.tile ≠ tile)) ∧
  (∃ (s : State) (tile : _) (a : Alloc) (n : Nat) (u : Nat), (s.tile tile).retired = true ∧ ((∀ e ∈ s.threads, e.2.here = true → e.2.tile ≠ tile)) ∧ s.tileWritten tile = false ∧ s.allocs = [a] ∧ a.tile = tile ∧ s.newHome tile a.units = some (n, u) ∧ s.mem.wf = true ∧ a.unit + a.units ≤ 256 ∧ tile < 64) ∧
  (∃ (s : State) (link : Nat) (lanes : Nat), link < 36 ∧ s.linkLanes link - lanes ≤ s.sparesLeft link) ∧
  (∃ (s : State) (link : Nat) (lanes : Nat), link < 36 ∧ s.sparesLeft link < s.linkLanes link - lanes ∧ linkFull link / 4 ≤ lanes + s.sparesLeft link ∧ linkFull link / 4 < s.linkLanes link) ∧
  (∃ (s : State) (link : Nat) (lanes : Nat), link < 20 ∧ s.sparesLeft link < s.linkLanes link - lanes ∧ (lanes + s.sparesLeft link < 16 ∨ s.linkLanes link ≤ 16) ∧ s.mgr.busy = false) ∧
  (∃ (s : State) (link : Nat) (lanes : Nat), (36 ≤ link ∨ (20 ≤ link ∧ s.sparesLeft link < s.linkLanes link - lanes ∧ (lanes + s.sparesLeft link < 4 ∨ s.linkLanes link ≤ 4)))) ∧
  (∃ (s : State) (u : FailedUnit), s.doomed u = [] ∧ ((∀ c ∈ unitClusters u, ∀ o ∈ (s.cluster c).ops, o.state = .done ∨ unitOps u o = false))) ∧
  (∃ (s : State) (tile : _) (x : Team) (i : Nat), s.teams = [x] ∧ x.tile = tile ∧ x.done = false ∧ x.ending = none ∧ x.members = [i] ∧ (s.thread i).team = x.id ∧ (s.thread i).status = .running ∧ s.saved = [] ∧ s.stripHolds (ownerTag x.alloc (mget 0 s.gens x.alloc)) = false) ∧
  (∃ (s : State) (c : _), c < 8 ∧ s.doomed (.cluster c) = [] ∧ (∀ o ∈ (s.cluster c).ops, o.state = .done) ∧ ((∀ e ∈ s.lines, e.2.held = true → homeOf s (e.1 * 128) ≠ some c))) :=
  ⟨⟨base [], 5, 70, by decide +kernel⟩,
   ⟨{ base [] with spared := [(5 * 32, true)] }, 5, 70, 0, (({ base [] with spared := [(5 * 32, true)] } : State).reserveFor 0).get (by decide +kernel), by decide +kernel⟩,
   ⟨(base []).setCluster 0 { mapped with locks := [⟨0, true, [⟨160, 70, 1, 0⟩], 0, 0, []⟩] }, 5, 70, by decide +kernel⟩,
   ⟨(base []).setCluster 0 { mapped with remap := [(0, 1 + 5 * 2 ^ 11 + 32767 * 2 ^ 32)] }, 0, 0, by decide +kernel⟩,
   ⟨{ base [] with threads := [] }, 0, by decide +kernel⟩,
   ⟨{ base [] with threads := [], tiles := [(0, { Tests.tile with retired := true })] }, 0, by decide +kernel⟩,
   ⟨{ base [] with threads := [], tiles := [(0, { Tests.tile with retired := true })], allocs := [⟨5, 0, 0, 0, 4, 0⟩], mem := writeBytes [] (2 ^ 52 + 5) [9] }, 0, ⟨5, 0, 0, 0, 4, 0⟩, ((({ base [] with threads := [], tiles := [(0, { Tests.tile with retired := true })], allocs := [⟨5, 0, 0, 0, 4, 0⟩], mem := writeBytes [] (2 ^ 52 + 5) [9] } : State).newHome 0 4).get (by decide +kernel)).1, ((({ base [] with threads := [], tiles := [(0, { Tests.tile with retired := true })], allocs := [⟨5, 0, 0, 0, 4, 0⟩], mem := writeBytes [] (2 ^ 52 + 5) [9] } : State).newHome 0 4).get (by decide +kernel)).2, by decide +kernel⟩,
   ⟨base [], 3, 62, by decide +kernel⟩,
   ⟨{ base [] with linkSpares := [(3, 3)] }, 3, 62, by decide +kernel⟩,
   ⟨{ base [] with mgr := served }, 3, 11, by decide +kernel⟩,
   ⟨base [], 20, 3, by decide +kernel⟩,
   ⟨base [], (.bank 5), by decide +kernel⟩,
   ⟨{ base [] with teams := [⟨0, 0, 5, 0, 0, [0], 9, 0, 0, [], none, none, false⟩] }, 0, ⟨0, 0, 5, 0, 0, [0], 9, 0, 0, [], none, none, false⟩, 0, by decide +kernel⟩,
   ⟨{ base [] with lines := [(0x80, ⟨true, false, false, 8, 5, 6⟩)] }, 1, by decide +kernel⟩⟩
theorem witness_AttestationAndManagement :
  (∃ (l : List (List Byte)) (i : Nat) (r : List Byte), 1 ≤ i ∧ i ≤ l.length ∧ i < 256) ∧
  (∃ (s : State) (b : List Byte), s.mgr.negotiated = true) ∧
  (∃ (s : State) (b : List Byte), s.mgr.negotiated = false) ∧
  (∃ (s : State) (b : List Byte) (k : List Byte), s.mgr.handshake = some k) ∧
  (∃ (s : State) (b : List Byte), s.mgr.handshake = none) ∧
  (∃ (s : State) (b : List Byte), s.mgr.session = true) ∧
  (∃ (s : State) (b : List Byte), s.mgr.session = false) ∧
  (∃ (s : State) (w : Nat), 600 ≤ w ∧ w ≤ 1600) ∧
  (∃ (s : State) (w : Nat), (w < 600 ∨ 1600 < w)) ∧
  (∃ (s : State) (w : Bool) (z : Bool), s.mgr.busy = true) ∧
  (∃ (s : State) (z : Bool), s.mgr.busy = true ∧ s.mgr.next = none) ∧
  (∃ (s : State) (w : Bool) (z : Bool), s.mgr.busy = false) ∧
  (∃ (s : State) (z : Bool), s.mgr.busy = false) ∧
  (∃ (s : State) (k : Nat), (k = 1 ∨ k = 2)) ∧
  (∃ (s : State) (k : Nat), k ≠ 1 ∧ k ≠ 2) ∧
  (∃ (m : Manager) (i : Image), (leNat ((i.header.drop 8).take 4) < m.minimum 2 ∨ leNat ((i.header.drop 8).take 4) < mget 0 m.activeSvn 2 ∨ (i.header.drop 16).take 64 ≠ Config.shake256 i.body ∨ Config.ed448Verify i.key (i.header.take 142) (i.header.drop 142) = false ∨ i.header.length ≠ 256 ∨ i.header.take 4 ≠ [0x47, 0x57, 0x46, 0x57] ∨ leNat ((i.header.drop 12).take 4) ≠ i.body.length ∨ Config.keyRevoked (leNat ((i.header.drop 7).take 1)) = true ∨ Config.shake256 i.key ≠ Config.keyDigest (leNat ((i.header.drop 7).take 1)))) ∧
  (∃ (s : State) (h : Nat), s.mgr.statusPa ≠ 0 ∧ homeOf s s.mgr.statusPa = some h ∧ (s.setMgr { s.mgr with statusSeq := s.mgr.statusSeq + 1 }).engineGate none true .cached [s.mgr.statusPa] = none ∧ s.underCeiling (s.storeTime h (lineOf s.mgr.statusPa) none (some s.longAgo)) = true) ∧
  (∃ (s : State), s.mgr.statusPa = 0) ∧
  (∃ (s : State) (n : Nat), s.doomed .device = [] ∧ ((∀ c, c < 8 → ∀ o ∈ (s.cluster c).ops, o.state = .done))) ∧
  (∃ (s : State) (temps : List Nat), s.mgr.trip = true ∧ (∀ x ∈ temps, x < 380) ∧ s.mgr.pending = none) ∧
  (∃ (s : State) (temps : List Nat), s.mgr.trip = true ∧ (∃ x ∈ temps, 380 ≤ x)) :=
  ⟨⟨[[1], [2]], 2, [], by decide +kernel⟩,
   ⟨{ base [] with mgr := { served with negotiated := true, version := true } }, [], by decide +kernel⟩,
   ⟨{ base [] with mgr := served }, [], by decide +kernel⟩,
   ⟨{ base [] with mgr := { served with handshake := some [5] } }, [], [5], by decide +kernel⟩,
   ⟨{ base [] with mgr := served }, [], by decide +kernel⟩,
   ⟨{ base [] with mgr := { served with session := true } }, [], by decide +kernel⟩,
   ⟨{ base [] with mgr := served }, [], by decide +kernel⟩,
   ⟨base [], 600, by decide +kernel⟩,
   ⟨base [], 1601, by decide +kernel⟩,
   ⟨{ base [] with mgr := { served with restarting := true } }, true, true, by decide +kernel⟩,
   ⟨{ base [] with mgr := { served with restarting := true } }, true, by decide +kernel⟩,
   ⟨{ base [] with mgr := served }, true, true, by decide +kernel⟩,
   ⟨{ base [] with mgr := served }, true, by decide +kernel⟩,
   ⟨{ base [] with mgr := served }, 2, by decide +kernel⟩,
   ⟨{ base [] with mgr := served }, 3, by decide +kernel⟩,
   ⟨{ served with minSvn := [(2, 1)] }, ⟨[], [], []⟩, .inl (by decide +kernel)⟩,
   ⟨{ base [] with mgr := served }, 0, by decide +kernel⟩,
   ⟨base [], by decide +kernel⟩,
   ⟨base [], 5, by decide +kernel, below (by decide +kernel)⟩,
   ⟨{ base [] with mgr := { served with trip := true, ready := false } }, [379, 20], by decide +kernel⟩,
   ⟨{ base [] with mgr := { served with trip := true, ready := false } }, [380, 20], by decide +kernel⟩⟩
def user (toks : List TokAt) : State := { device toks with threads := [(0, { thread toks with supervisor := false })] }
theorem witness_TrapInstructionTraps :
  (∃ (s : State) (x : Firing), s.firing ⟨.trap, .px .always 7⟩ = some x ∧ (Acts x ∧ x.oldest = true ∧ x.thread.fatal x.block.addr = false)) ∧
  (∃ (s : State) (x : Firing), s.firing ⟨.trap, .px .always 7⟩ = some x ∧ (Acts x ∧ x.oldest = true ∧ x.thread.fatal x.block.addr = true)) :=
  ⟨fires_at (device []) _ (by decide +kernel) (by unfold Acts; decide +kernel),
   fires_at { device [] with threads := [(0, { thread [] with tvec := 0 })] } _ (by decide +kernel) (by unfold Acts; decide +kernel)⟩
theorem witness_UserModePrivilegeTraps :
  (∃ (s : State) (x : Firing), s.firing ⟨.csrr, .x bForm noExt 0x100⟩ = some x ∧ (Acts x ∧ x.oldest = true ∧ x.thread.fatal x.block.addr = false ∧ x.thread.supervisor = false)) ∧
  (∃ (s : State) (x : Firing), s.firing ⟨.csrw, .px .always 0x100⟩ = some x ∧ (Acts x ∧ x.oldest = true ∧ x.thread.fatal x.block.addr = false ∧ x.thread.supervisor = false)) ∧
  (∃ (s : State) (x : Firing), s.firing ⟨.eret, .p .always⟩ = some x ∧ (Acts x ∧ x.oldest = true ∧ x.thread.fatal x.block.addr = false ∧ x.thread.supervisor = false)) ∧
  (∃ (s : State) (x : Firing), s.firing ⟨.tlbinv, .p .always⟩ = some x ∧ (Acts x ∧ x.oldest = true ∧ x.thread.fatal x.block.addr = false ∧ x.thread.supervisor = false)) :=
  ⟨fires_at (user [⟨0, .a, .scalar 1⟩]) _ (by decide +kernel) (by unfold Acts; decide +kernel), fires_at (user [⟨0, .a, .scalar 1⟩]) _ (by decide +kernel) (by unfold Acts; decide +kernel),
   fires_at (user []) _ (by decide +kernel) (by unfold Acts; decide +kernel), fires_at (user [⟨0, .a, .scalar 1⟩, ⟨0, .b, .scalar 0⟩]) _ (by decide +kernel) (by unfold Acts; decide +kernel)⟩
theorem witness_IntegerElementsWrapOrSaturate : (List.range 16).filter isInt = [1, 2, 3, 4, 5, 6, 7, 8] := by decide +kernel
theorem witness_JoinIsTheLaterTime : ∃ (h : Time) (a b : Word), wKind a = 0 ∧ wKind b = 0 ∧ expired h a = false ∧ implausible h a = false ∧ expired h b = false ∧ implausible h b = false :=
  ⟨100, 70, 90, by decide +kernel⟩
/-- A block whose one slot holds words, in focus. -/
def worded (ws : List Word32) (toks : List TokAt) : State :=
  { device toks with threads := [(0, { thread toks with flight := [{ block toks with words := [0x1805A, 0] ++ ws, offs := [2] }] })] }
/-- A device that has tripped, and one with a page walk that ends. -/
def walkingDevice : State := { base [] with mgr := served, walks := [⟨4, 0, 0, 0, [0], [0], []⟩], asidTab := [(0, some 0x10000)] }
def idleDevice : State := { State.reset with mgr := { served with trip := true } }
theorem witness_StepRunsTheDecodedInstruction :
  (∃ (s : State) (tid serial slot : Nat) (i : Instr) (n : Nat), s.agenda = [] ∧ s.focus = .slot tid serial slot ∧ decodeInstr (s.slotWords tid serial slot) = some (i, n)) ∧
  (∃ (s : State) (c seq : Nat) (w : Word32) (i : Instr), s.agenda = [] ∧ s.focus = .op c seq ∧ s.opWord c seq = some w ∧ decodeFurrow w = some i) ∧
  (∃ (s : State) (tid serial slot : Nat), s.agenda = [] ∧ s.focus = .slot tid serial slot ∧ decodeInstr (s.slotWords tid serial slot) = none) ∧
  (∃ (s : State) (i : Instr) (r : List Instr), s.agenda = i :: r) ∧
  (∃ (s : State) (c : _), s.agenda = [] ∧ s.focus = .none ∧ s.candidates.find? s.moves = some c) ∧
  (∃ (s : State), s.agenda = [] ∧ s.focus = .none ∧ s.candidates.find? s.moves = none) :=
  ⟨⟨worded [0xFFFFD034] [], 0, 0, 0, .call ⟨.always, 0xFFFFD⟩, 1, by decide +kernel⟩, ⟨running (opOf 0 .running [0xA] []), 0, 0, 0xA, .qsafe, by decide +kernel⟩,
   ⟨worded [0] [], 0, 0, 0, by decide +kernel⟩, ⟨{ base [] with agenda := [.ceilingAdvance] }, .ceilingAdvance, [], rfl⟩,
   ⟨walkingDevice, (walkingDevice.candidates.find? walkingDevice.moves).get (by decide +kernel), rfl, rfl, (Option.some_get _).symm⟩,
   ⟨idleDevice, by decide +kernel⟩⟩
theorem witness_MemoryStaysCanonical :
  (∃ s t : State, s.memOk ∧ step s = .next t) ∧ ∃ (i : Instr) (s t : State), s.memOk ∧ exec i s = .next t :=
  ⟨⟨{ base [] with agenda := [.ceilingAdvance], mem := [(3, 7), (9, 1)] }, _, rfl, rfl⟩, ⟨.ceilingAdvance, { base [] with mem := [(3, 7), (9, 1)] }, _, rfl, rfl⟩⟩
/-- The slot of a raw instruction, in a device where it stands in focus. -/
theorem site_at {ok : Firing → Prop} (s : State) (r : Raw) (h : (s.site r).isSome = true) (k : ok ((s.site r).get h)) : ∃ (s : State) (x : Firing), s.site r = some x ∧ ok x :=
  ⟨s, _, (Option.some_get h).symm, k⟩
theorem witness_PredicatesAndOperandsDecideFiring :
  rawOf (.mov ⟨.onTrue, none, none⟩) = some ⟨.mov, .b ⟨.onTrue, none, none⟩⟩ ∧ rawOf (.add bForm) = some ⟨.add, .b bForm⟩ ∧
  (∃ (s : State) (x : Firing), s.site ⟨.mov, .b ⟨.onTrue, none, none⟩⟩ = some x ∧ (decisionOf ⟨.mov, .b ⟨.onTrue, none, none⟩⟩ (x.block.tok x.slot .p) = .declines)) ∧
  (∃ (s : State) (x : Firing), s.site ⟨.mov, .b ⟨.onTrue, none, none⟩⟩ = some x ∧ (decisionOf ⟨.mov, .b ⟨.onTrue, none, none⟩⟩ (x.block.tok x.slot .p) = .waits)) ∧
  (∃ (s : State) (x : Firing), s.site ⟨.mov, .b ⟨.onTrue, none, none⟩⟩ = some x ∧ (decisionOf ⟨.mov, .b ⟨.onTrue, none, none⟩⟩ (x.block.tok x.slot .p) = .wrong)) ∧
  (∃ (s : State) (x : Firing), s.site ⟨.add, .b bForm⟩ = some x ∧ (decisionOf ⟨.add, .b bForm⟩ (x.block.tok x.slot .p) = .fires .all ∧ x.ready = false)) ∧
  (∃ (s : State) (x : Firing), s.site ⟨.add, .b bForm⟩ = some x ∧ (decisionOf ⟨.add, .b bForm⟩ (x.block.tok x.slot .p) = .fires .all ∧ x.ready = true ∧ x.typed = false ∧ Opcode.tagged .add = false)) ∧
  (∃ t : Option Token, ∀ l, t ≠ some (.mask l)) ∧
  (∃ (r : Raw) (l : List (Option Bool)), r.pr ≠ .always ∧ r.op.elementwise = false ∧ l[0]?.getD none = some (decide (r.pr ≠ .onTrue))) ∧
  (∃ (r : Raw) (l : List (Option Bool)), r.op.elementwise = true ∨ l[0]?.getD none ≠ some (decide (r.pr ≠ .onTrue))) ∧
  (∃ pr : Pred, pr ≠ .always) :=
  ⟨by decide +kernel, by decide +kernel, site_at (device [⟨0, .p, .scalar 0⟩]) _ (by decide +kernel) (by decide +kernel), site_at (device []) _ (by decide +kernel) (by decide +kernel),
   site_at (device [⟨0, .p, .vector 0x2F0 [some 3, some 2] [] []⟩]) _ (by decide +kernel) (by decide +kernel), site_at (device []) _ (by decide +kernel) (by decide +kernel),
   site_at (device [⟨0, .a, .scalar 1⟩, ⟨0, .b, .mask [some true, none]⟩]) _ (by decide +kernel) (by decide +kernel),
   ⟨none, fun _ h => nomatch h⟩, ⟨⟨.add, .b ⟨.onTrue, none, none⟩⟩, [some false], by decide⟩, ⟨⟨.vadd, .b bForm⟩, [], .inl rfl⟩, ⟨.onTrue, by decide⟩⟩
theorem witness_MajorityOfATriple : ∃ (s : State) (c : Nat) (o : FieldOp) (tr : BitVec 2) (e : Nat × Nat) (k : Nat), s.focus = .op c o.seq ∧ s.findOp c o.seq = some o ∧
    o.state = .running ∧ e ∈ o.passSubs ∧ tr = 2 ∧ (k = 3 ∨ k = 6 ∨ k = 7) :=
  ⟨running (opOf 0 .running [] []), 0, opOf 0 .running [] [], 2, (0, 0x200000), 7, by decide +kernel⟩
theorem witness_DecodingInvertsEncoding :
  (wellFormed (.call ⟨.always, 0xFFFFD⟩) = true ∧ (rawOf (.call ⟨.always, 0xFFFFD⟩)).isSome = true) ∧ wellFormed .qsafe = true ∧ rawOf .qsafe = none ∧ encode .qsafe = [0xA] := by decide +kernel
theorem witness_VectorRegisterReadAfterWrite : (∃ w : Nat, w = 8 ∨ w = 16 ∨ w = 32 ∨ w = 64) ∧ ∃ k e : Nat, k ≠ e := ⟨⟨64, by decide⟩, 0, 1, by decide⟩
/-- What a step goes on to. -/
def nextOf (o : Host.Outcome State Fault Refusal) : Option State := match o with | .next t => some t | _ => none
theorem nextOf_get (o : Host.Outcome State Fault Refusal) (h : (nextOf o).isSome = true) : o = .next ((nextOf o).get h) := by
  cases o <;> first | rfl | cases h
theorem witness_FiringChangesOnlyItsBlock :
  (∃ (i : Instr) (r : Raw) (s t : State) (x : Firing), rawOf i = some r ∧ s.firing r = some x ∧ x.keepsToBlock = true ∧ exec i s = .next t ∧
    ((t.thread x.tid).block x.serial).any (fun b => b.resolved x.slot) = true) ∧
  (∃ (i : Instr) (r : Raw) (s : State) (x : Firing), rawOf i = some r ∧ s.site r = some x ∧ decisionOf r (x.block.tok x.slot .p) = .declines) ∧
  (∃ (i : Instr) (r : Raw) (s : State) (x : Firing), rawOf i = some r ∧ s.site r = some x ∧ decisionOf r (x.block.tok x.slot .p) = .waits) ∧
  ∃ (n k : Nat) (o : Out), n ≠ 0 ∧ k ≠ 0 ∧ o.exit = none :=
  ⟨⟨.add bForm, ⟨.add, .b bForm⟩, plain ⟨.add, .b bForm⟩, (nextOf (exec (.add bForm) (plain ⟨.add, .b bForm⟩))).get (by decide +kernel),
    ((plain ⟨.add, .b bForm⟩).firing ⟨.add, .b bForm⟩).get (by decide +kernel), by decide +kernel, (Option.some_get _).symm, by decide +kernel, nextOf_get _ _, by decide +kernel⟩,
   ⟨.mov ⟨.onTrue, none, none⟩, ⟨.mov, .b ⟨.onTrue, none, none⟩⟩, device [⟨0, .p, .scalar 0⟩],
    ((device [⟨0, .p, .scalar 0⟩]).site ⟨.mov, .b ⟨.onTrue, none, none⟩⟩).get (by decide +kernel), by decide +kernel, (Option.some_get _).symm, by decide +kernel⟩,
   ⟨.mov ⟨.onTrue, none, none⟩, ⟨.mov, .b ⟨.onTrue, none, none⟩⟩, device [],
    ((device []).site ⟨.mov, .b ⟨.onTrue, none, none⟩⟩).get (by decide +kernel), by decide +kernel, (Option.some_get _).symm, by decide +kernel⟩,
   ⟨1, 1, {}, by decide, by decide, rfl⟩⟩
end Sys2Proof.Tests
end

-- ==== Proofs: a step ====
section
/-! SUPPORT. What one step runs (O54). -/
namespace Sys2Proof.Machine

theorem step_of_agenda {s : State} {i : Instr} {r : List Instr} (h : s.agenda = i :: r) :
    step s = afterRow (exec i (s.prepare .none r)) := by
  simp only [step, h]

theorem step_of_focus {s : State} {f : Focus} (ha : s.agenda = []) (hf : s.focus = f) (hn : f ≠ .none) :
    step s = s.stepAt f := by
  cases f with
  | none => exact absurd rfl hn
  | slot tid serial slot => simp only [step, ha, hf]
  | op c seq => simp only [step, ha, hf]

theorem State.stepAt_focused {s : State} {f : Focus} {i : Instr} (h : s.focused f = some i) :
    s.stepAt f = afterRow (exec i (s.prepare f s.agenda)) := by
  simp only [State.stepAt, h]

theorem State.stepAt_undecodable {s : State} {f : Focus} (h : s.focused f = none) :
    s.stepAt f = .fault .undecodable := by
  simp only [State.stepAt, h]

theorem step_of_candidate {s : State} {c : Cand} (ha : s.agenda = []) (hf : s.focus = .none) (hc : s.candidates.find? s.moves = some c) :
    step s = passTurn c (s.runCand c) := by
  simp only [step, ha, hf, hc]

theorem step_idle {s : State} (ha : s.agenda = []) (hf : s.focus = .none) (hc : s.candidates.find? s.moves = none) :
    step s = .next (s.prepare .none []) := by
  simp only [step, ha, hf, hc]

/-- Settles O54, a case of `step` each. -/
theorem stepRunsTheDecodedInstruction : Obligations.StepRunsTheDecodedInstruction := by
  unfold Obligations.StepRunsTheDecodedInstruction
  refine ⟨?slot, ?op, ?undecodable, ?agenda, ?moves, ?idle, fun _ _ _ => rfl, fun _ => rfl, fun _ _ _ => rfl, fun _ _ _ _ => rfl⟩
  case slot =>
    intro s tid serial slot i n ha hf hd
    rw [step_of_focus ha hf (by simp), hf, State.stepAt_focused (i := i) (by simp [State.focused, hd]), ha]
  case op =>
    intro s c seq w i ha hf hw hd
    rw [step_of_focus ha hf (by simp), hf, State.stepAt_focused (i := i) (by simp [State.focused, hw, hd]), ha]
  case undecodable =>
    intro s tid serial slot ha hf hd
    rw [step_of_focus ha hf (by simp), State.stepAt_undecodable (by simp [State.focused, hd])]
  case agenda => exact fun s i r h => step_of_agenda h
  case moves => exact fun s c ha hf hc => step_of_candidate ha hf hc
  case idle => exact fun s ha hf hc => step_idle ha hf hc

end Sys2Proof.Machine
end

-- ==== Proofs: elements of vector registers ====
section
/-! SUPPORT. The bits of an element after a write to its register (R36, O20). -/
namespace Sys2Proof.Machine

/-- `old` with the `w` bits from bit `sh` replaced by those of `u`. -/
def putBits (w sh old u : Nat) : Nat := old - old / 2 ^ sh % 2 ^ w * 2 ^ sh + u * 2 ^ sh

theorem putBits_eq (w sh old u : Nat) :
    putBits w sh old u = 2 ^ sh * (2 ^ w * (old / 2 ^ sh / 2 ^ w) + u) + old % 2 ^ sh := by
  have hlow := Nat.div_add_mod old (2 ^ sh)
  have hhigh := Nat.div_add_mod (old / 2 ^ sh) (2 ^ w)
  have hold : old = 2 ^ sh * (2 ^ w * (old / 2 ^ sh / 2 ^ w)) + old / 2 ^ sh % 2 ^ w * 2 ^ sh + old % 2 ^ sh := by
    calc old = 2 ^ sh * (old / 2 ^ sh) + old % 2 ^ sh := hlow.symm
      _ = 2 ^ sh * (2 ^ w * (old / 2 ^ sh / 2 ^ w) + old / 2 ^ sh % 2 ^ w) + old % 2 ^ sh := by rw [hhigh]
      _ = _ := by ring
  have hmul : 2 ^ sh * (2 ^ w * (old / 2 ^ sh / 2 ^ w) + u) = 2 ^ sh * (2 ^ w * (old / 2 ^ sh / 2 ^ w)) + u * 2 ^ sh := by ring
  rw [putBits, hmul]
  omega

theorem testBit_putBits {w sh old u : Nat} (hu : u < 2 ^ w) (k : Nat) :
    (putBits w sh old u).testBit k = if sh ≤ k ∧ k < sh + w then u.testBit (k - sh) else old.testBit k := by
  rw [putBits_eq, Nat.testBit_two_pow_mul_add _ (Nat.mod_lt _ (Nat.two_pow_pos sh)), Nat.testBit_two_pow_mul_add _ hu]
  by_cases hlow : k < sh
  · have : ¬ sh ≤ k := by omega
    simp [hlow, this, Nat.testBit_mod_two_pow]
  · by_cases hin : k - sh < w
    · have : sh ≤ k ∧ k < sh + w := by omega
      simp [hlow, hin, this]
    · have : ¬ (sh ≤ k ∧ k < sh + w) := by omega
      have hk : k - sh - w + w + sh = k := by omega
      simp only [hlow, hin, this, if_false, Nat.testBit_div_two_pow]
      rw [hk]

theorem putBits_lt {w sh old u : Nat} (hu : u < 2 ^ w) (h : sh + w ≤ 32) (hold : old < 2 ^ 32) : putBits w sh old u < 2 ^ 32 := by
  refine Nat.lt_pow_two_of_testBit _ fun k hk => ?_
  have hout : ¬ (sh ≤ k ∧ k < sh + w) := by omega
  rw [testBit_putBits hu, if_neg hout]
  exact Nat.testBit_lt_two_pow (Nat.lt_of_lt_of_le hold (Nat.pow_le_pow_right (by omega) hk))

theorem putBits_same {w sh old u : Nat} (hu : u < 2 ^ w) : putBits w sh old u / 2 ^ sh % 2 ^ w = u := by
  refine Nat.eq_of_testBit_eq fun k => ?_
  rw [Nat.testBit_mod_two_pow, Nat.testBit_div_two_pow, testBit_putBits hu]
  by_cases hk : k < w
  · have hin : sh ≤ k + sh ∧ k + sh < sh + w := by omega
    rw [if_pos hin]
    simp [hk]
  · simp [hk, Nat.testBit_lt_two_pow (Nat.lt_of_lt_of_le hu (Nat.pow_le_pow_right (by omega) (Nat.le_of_not_lt hk)))]

theorem putBits_other {w sh old u j : Nat} (hu : u < 2 ^ w) (h : j + w ≤ sh ∨ sh + w ≤ j) :
    putBits w sh old u / 2 ^ j % 2 ^ w = old / 2 ^ j % 2 ^ w := by
  refine Nat.eq_of_testBit_eq fun k => ?_
  rw [Nat.testBit_mod_two_pow, Nat.testBit_mod_two_pow, Nat.testBit_div_two_pow, Nat.testBit_div_two_pow, testBit_putBits hu]
  by_cases hk : k < w
  · have hout : ¬ (sh ≤ k + j ∧ k + j < sh + w) := by omega
    rw [if_neg hout]
  · simp [hk]

/-- Where the element's bits begin in its slot. -/
def subShift (w e : Nat) : Nat := w * (e % (32 / w))

theorem slotBits_narrow {w : Nat} (hw : w ≠ 64) (slots : NMap Word32) (e : Nat) :
    slotBits slots w e = BitVec.ofNat 64 ((mget 0 slots (slotOf w e)).toNat / 2 ^ subShift w e % 2 ^ w) := by
  simp only [slotBits, if_neg hw, subShift]

theorem putSlotBits_narrow {w : Nat} (hw : w ≠ 64) (slots : NMap Word32) (e : Nat) (v : Word) :
    putSlotBits slots w e v =
      mset 0 slots (slotOf w e) (BitVec.ofNat 32 (putBits w (subShift w e) (mget 0 slots (slotOf w e)).toNat (v.toNat % 2 ^ w))) := by
  simp only [putSlotBits, if_neg hw, subShift, putBits]

/-- R36, 8, 16 and 32 bits: an element lies inside one slot, and two elements of one slot do not overlap. -/
theorem narrow_layout {w : Nat} (hw : w = 8 ∨ w = 16 ∨ w = 32) (e k : Nat) :
    subShift w e + w ≤ 32 ∧
      (k ≠ e → slotOf w k = slotOf w e → subShift w k + w ≤ subShift w e ∨ subShift w e + w ≤ subShift w k) := by
  obtain rfl | rfl | rfl := hw <;> simp only [slotOf, subShift] <;> omega

theorem mget_putSlotBits_narrow {w : Nat} (hw : w = 8 ∨ w = 16 ∨ w = 32) (slots : NMap Word32) (e : Nat) (v : Word) :
    (mget 0 (putSlotBits slots w e v) (slotOf w e)).toNat =
      putBits w (subShift w e) (mget 0 slots (slotOf w e)).toNat (v.toNat % 2 ^ w) := by
  rw [putSlotBits_narrow (by omega), mget_mset_same, BitVec.toNat_ofNat]
  exact Nat.mod_eq_of_lt (putBits_lt (Nat.mod_lt _ (Nat.two_pow_pos w)) (narrow_layout hw e e).1 (BitVec.isLt _))

theorem readAfterWrite_narrow {w : Nat} (hw : w = 8 ∨ w = 16 ∨ w = 32) (slots : NMap Word32) (e : Nat) (v : Word) :
    slotBits (putSlotBits slots w e v) w e = BitVec.ofNat 64 (v.toNat % 2 ^ w) ∧
      ∀ k, k ≠ e → slotBits (putSlotBits slots w e v) w k = slotBits slots w k := by
  have hu : v.toNat % 2 ^ w < 2 ^ w := Nat.mod_lt _ (Nat.two_pow_pos w)
  have hw64 : w ≠ 64 := by omega
  refine ⟨?same, fun k hk => ?other⟩
  case same => rw [slotBits_narrow hw64, mget_putSlotBits_narrow hw, putBits_same hu]
  case other =>
    rw [slotBits_narrow hw64, slotBits_narrow hw64]
    by_cases hslot : slotOf w k = slotOf w e
    · rw [hslot, mget_putSlotBits_narrow hw, putBits_other hu ((narrow_layout hw e k).2 hk hslot)]
    · rw [putSlotBits_narrow hw64, mget_mset_other _ _ _ hslot]

theorem slotBits_wide (slots : NMap Word32) (e : Nat) :
    slotBits slots 64 e = BitVec.ofNat 64 ((mget 0 slots (2 * e)).toNat + 2 ^ 32 * (mget 0 slots (2 * e + 1)).toNat) := by
  have : slotOf 64 e = 2 * e := by simp only [slotOf]; omega
  simp only [slotBits, this, if_true]

theorem putSlotBits_wide (slots : NMap Word32) (e : Nat) (v : Word) :
    putSlotBits slots 64 e v = mset 0 (mset 0 slots (2 * e) (v.setWidth 32)) (2 * e + 1) (BitVec.ofNat 32 (v.toNat / 2 ^ 32)) := by
  have : slotOf 64 e = 2 * e := by simp only [slotOf]; omega
  simp only [putSlotBits, this, if_true]

/-- R36, 64 bits: an element lies in two slots of its own. -/
theorem readAfterWrite_wide (slots : NMap Word32) (e : Nat) (v : Word) :
    slotBits (putSlotBits slots 64 e v) 64 e = BitVec.ofNat 64 (v.toNat % 2 ^ 64) ∧
      ∀ k, k ≠ e → slotBits (putSlotBits slots 64 e v) 64 k = slotBits slots 64 k := by
  refine ⟨?same, fun k hk => ?other⟩
  case same =>
    rw [slotBits_wide, putSlotBits_wide, mget_mset_same, mget_mset_other _ _ _ (by omega), mget_mset_same]
    refine congrArg (BitVec.ofNat 64) ?_
    rw [BitVec.toNat_setWidth, BitVec.toNat_ofNat]
    have := v.isLt
    omega
  case other =>
    have hlo : ∀ j, j ≠ 2 * e → j ≠ 2 * e + 1 → mget 0 (putSlotBits slots 64 e v) j = mget 0 slots j := fun j h₀ h₁ => by
      rw [putSlotBits_wide, mget_mset_other _ _ _ h₁, mget_mset_other _ _ _ h₀]
    rw [slotBits_wide, slotBits_wide, hlo _ (by omega) (by omega), hlo _ (by omega) (by omega)]

/-- Settles O20, by the width: inside one slot, or in two slots of its own. -/
theorem vectorRegisterReadAfterWrite : Obligations.VectorRegisterReadAfterWrite := by
  intro w hw slots e v
  obtain h8 | h16 | h32 | rfl := hw
  · exact readAfterWrite_narrow (.inl h8) slots e v
  · exact readAfterWrite_narrow (.inr (.inl h16)) slots e v
  · exact readAfterWrite_narrow (.inr (.inr h32)) slots e v
  · exact readAfterWrite_wide slots e v

end Sys2Proof.Machine
end

-- ==== Proofs: blocks on their way in ====
section
/-! SUPPORT. What a served slot, a decoding and a trap entry leave (R90, R373, R387, O31). -/
namespace Sys2Proof.Machine

/-! A served slot (R373). -/
theorem Thread.keeps_refl (t : Thread) : t.keeps t := by
  simp only [Thread.keeps, Thread.sameRegs, Thread.sameTrap, and_self]

theorem Thread.keeps_trans {t u v : Thread} (h : t.keeps u) (k : u.keeps v) : t.keeps v := by
  simp only [Thread.keeps, Thread.sameRegs, Thread.sameTrap] at *
  simp only [h, k, and_self]

/-- From `s` to `t` no more than the fetch turns of threads and cores has changed. -/
def State.sameBlocksIn (s t : State) : Prop :=
  t.fresh = s.fresh ∧ t.mem = s.mem ∧ ∀ n, (s.thread n).keeps (t.thread n) ∧ (t.thread n).flight = (s.thread n).flight

theorem State.sameBlocksIn_refl (s : State) : s.sameBlocksIn s := ⟨rfl, rfl, fun _ => ⟨Thread.keeps_refl _, rfl⟩⟩

theorem State.sameBlocksIn_trans {s t u : State} (h : s.sameBlocksIn t) (k : t.sameBlocksIn u) : s.sameBlocksIn u := by
  obtain ⟨hfresh, hmem, hthread⟩ := h
  obtain ⟨kfresh, kmem, kthread⟩ := k
  exact ⟨kfresh.trans hfresh, kmem.trans hmem, fun n =>
    ⟨Thread.keeps_trans (hthread n).1 (kthread n).1, (kthread n).2.trans (hthread n).2⟩⟩

theorem State.sameBlocksIn_setThread (s : State) (i : Nat) (t : Thread) (hk : (s.thread i).keeps t) (hf : t.flight = (s.thread i).flight) :
    s.sameBlocksIn (s.setThread i t) := by
  refine ⟨rfl, rfl, fun n => ?_⟩
  by_cases h : n = i
  · subst h
    rw [State.setThread_thread_same]
    exact ⟨hk, hf⟩
  · rw [State.setThread_thread_other _ _ h]
    exact ⟨Thread.keeps_refl _, rfl⟩

theorem State.sameBlocksIn_foldl {f : State → Nat → State} (hf : ∀ (s : State) i, s.sameBlocksIn (f s i)) (l : List Nat) (s : State) :
    s.sameBlocksIn (l.foldl f s) := by
  induction l generalizing s with
  | nil => exact s.sameBlocksIn_refl
  | cons i l ih => exact State.sameBlocksIn_trans (hf s i) (ih (f s i))

theorem State.sameBlocksIn_serveSlot (s : State) (tid : Nat) : s.sameBlocksIn (s.serveSlot tid) := by
  unfold State.serveSlot
  refine State.sameBlocksIn_trans (State.sameBlocksIn_foldl (fun s i => ?_) _ s) ⟨rfl, rfl, fun n => ⟨Thread.keeps_refl _, rfl⟩⟩
  exact s.sameBlocksIn_setThread i _ (Thread.keeps_refl _) rfl

theorem blockFetchBody_eq {s : State} {tid : Nat} {guess : Option Word} {a : Word} (he : s.eligible guess tid = true)
    (ha : (s.thread tid).nextBlock guess = some a) :
    blockFetchBody tid guess s = (s.serveSlot tid).tick.2.setThread tid
      { (s.serveSlot tid).thread tid with flight := ((s.serveSlot tid).thread tid).flight ++ [emptyBlock (s.serveSlot tid).fresh a] } := by
  simp only [blockFetchBody, he, ha] <;> rfl

/-! Decoding. -/
/-- The block as its words decode, with the CSR values it starts from. -/
def State.decodedBlock (v : State) (tid : Nat) (b : BlockExec) (ws : List Word32) (offs : List Nat) (x : BlockExec) : BlockExec :=
  { x with words := ws, offs := offs, decoded := true, csrs := v.startCsrs tid { b with words := ws, offs := offs, decoded := true } }

theorem blockDecodeBody_decodes {s u v : State} {tid : Nat} {b : BlockExec} {l0 bytes : List Byte} {offs : List Nat} (hl : (s.thread tid).live = true)
    (hb : (s.thread tid).flight.find? (fun b => !b.decoded && b.held.isNone) = some b) (hc : s.codeLine tid b.addr = (u, .ok l0))
    (hh : headerBad (leNat (l0.take 4)) = none)
    (hcs : u.codeLines tid b.addr ((Nat.max (headWords (leNat (l0.take 4))) 2 + 15) / 16) [] = (v, .ok bytes))
    (hd : decodeBlock b.addr (wordsFrom (headWords (leNat (l0.take 4))) bytes) = .ok offs) :
    blockDecodeBody tid s = v.updBlock tid b.serial (v.decodedBlock tid b (wordsFrom (headWords (leNat (l0.take 4))) bytes) offs) := by
  simp only [blockDecodeBody, hb, hl, hc, hh, hcs, hd] <;> rfl

theorem blockDecodeBody_badHeader {s u : State} {tid : Nat} {b : BlockExec} {l0 : List Byte} {c : Nat} (hl : (s.thread tid).live = true)
    (hb : (s.thread tid).flight.find? (fun b => !b.decoded && b.held.isNone) = some b) (hc : s.codeLine tid b.addr = (u, .ok l0))
    (hh : headerBad (leNat (l0.take 4)) = some c) : blockDecodeBody tid s = u.raise tid b.serial (blockFmt c none) := by
  simp only [blockDecodeBody, hb, hl, hc, hh] <;> rfl

theorem State.updBlock_thread_flight (s : State) (tid serial : Nat) (f : BlockExec → BlockExec) :
    ((s.updBlock tid serial f).thread tid).flight = (s.thread tid).flight.map (fun x => if x.serial = serial then f x else x) := by
  simp only [State.updBlock, State.setThread_thread_same, Thread.updBlock]

theorem State.updBlock_thread_other (s : State) (tid serial : Nat) (f : BlockExec → BlockExec) {n : Nat} (h : n ≠ tid) :
    (s.updBlock tid serial f).thread n = s.thread n := State.setThread_thread_other _ _ h

theorem BlockExec.mem_slotsOf {b : BlockExec} {k : Nat} {r : Raw} {f : Raw → Bool} (hr : b.raw k = some r) (hf : f r = true) :
    (k, r) ∈ b.slotsOf f := by
  have hk : k < b.offs.length := by
    by_contra hlen
    simp [BlockExec.raw, List.getElem?_eq_none (Nat.le_of_not_lt hlen)] at hr
  exact List.mem_filterMap.2 ⟨k, List.mem_range.2 hk, by simp [hr, hf]⟩

/-! Traps of the oldest block. -/
theorem Thread.fatal_eq_false {t : Thread} {a : Word} (h : t.tvec ≠ 0) (ha : t.tvec ≠ a) : t.fatal a = false := by
  simpa [Thread.fatal, ha] using h

theorem State.raise_head {s : State} {tid : Nat} {b : BlockExec} {rest : List BlockExec} (h : (s.thread tid).flight = b :: rest) (f : FaultRec) :
    s.raise tid b.serial f = s.takeTrap tid f b.addr b.addr := by
  simp [State.raise, h]

theorem trapEntryBody_held {s : State} {tid : Nat} {b : BlockExec} {rest : List BlockExec} {f : FaultRec} (hl : (s.thread tid).live = true)
    (h : (s.thread tid).flight = b :: rest) (hh : b.held = some f) : trapEntryBody tid s = s.takeTrap tid f b.addr b.addr := by
  simp [trapEntryBody, h, hl, hh]

theorem trapEntryBody_stalled {s : State} {tid : Nat} {b : BlockExec} {rest : List BlockExec} (hl : (s.thread tid).live = true)
    (h : (s.thread tid).flight = b :: rest) (hh : b.held = none) (hs : b.stalled = true) :
    trapEntryBody tid s = s.takeTrap tid ⟨cBLOCKSTALL, b.stallSlot, 0, 0, 0⟩ b.addr b.addr := by
  simp [trapEntryBody, h, hl, hh, hs]

/-- Settles O31: a served slot leaves the blocks in flight, and a fault of the oldest block is `takeTrap`. -/
theorem blocksComeInAndTrap : Obligations.BlocksComeInAndTrap := by
  unfold Obligations.BlocksComeInAndTrap
  refine ⟨?fetch, ?decode, ?csrs, ?header, ?held, ?stalled⟩
  case fetch =>
    intro s tid guess a he ha
    obtain ⟨hfresh, hmem, hthread⟩ := s.sameBlocksIn_serveSlot tid
    refine ⟨_, congrArg Host.Outcome.next (blockFetchBody_eq he ha), ?_, hmem, fun n => ?_⟩
    · rw [State.setThread_thread_same, (hthread tid).2, hfresh]
    · by_cases hn : n = tid
      · subst hn
        rw [State.setThread_thread_same]
        exact ⟨(hthread n).1, fun h => absurd rfl h⟩
      · rw [State.setThread_thread_other _ _ hn]
        exact ⟨(hthread n).1, fun _ => (hthread n).2⟩
  case decode =>
    intro s u v tid b l0 bytes offs hl hb hc hh hcs hd
    exact ⟨_, congrArg Host.Outcome.next (blockDecodeBody_decodes hl hb hc hh hcs hd), rfl,
      fun n hn => State.updBlock_thread_other _ _ _ _ hn, State.updBlock_thread_flight _ _ _ _⟩
  case csrs =>
    intro s tid b k r hr hop
    exact List.mem_map.2 ⟨(k, r), BlockExec.mem_slotsOf hr (by simp [hop]), rfl⟩
  case header =>
    intro s u tid b rest l0 c hl hf hd hh hc hbad huf hv hva
    have hfind : (s.thread tid).flight.find? (fun b => !b.decoded && b.held.isNone) = some b := by simp [hf, hd, hh]
    refine ⟨_, congrArg Host.Outcome.next (blockDecodeBody_badHeader hl hfind hc hbad), ?_⟩
    rw [State.raise_head huf]
    exact u.takeTrap_trapsTo tid (blockFmt c none) b.addr b.addr (Thread.fatal_eq_false hv hva)
  case held =>
    intro s tid b rest f hl hf hh hv hva
    exact ⟨_, congrArg Host.Outcome.next (trapEntryBody_held hl hf hh), s.takeTrap_trapsTo tid f b.addr b.addr (Thread.fatal_eq_false hv hva)⟩
  case stalled =>
    intro s tid b rest hl hf hh hs hv hva
    exact ⟨_, congrArg Host.Outcome.next (trapEntryBody_stalled hl hf hh hs),
      s.takeTrap_trapsTo tid ⟨cBLOCKSTALL, b.stallSlot, 0, 0, 0⟩ b.addr b.addr (Thread.fatal_eq_false hv hva)⟩

end Sys2Proof.Machine
end

-- ==== Proofs: an operand of a wrong type ====
section
/-! SUPPORT. The fault of a vector token under tag NONE (R14, R21, O58). -/
namespace Sys2Proof.Machine

/-! A scalar instruction with a vector token under tag NONE. -/
/-- An ADD without P and without targets. -/
def addAlways : BForm := ⟨.always, none, none⟩
/-- A decoded block whose slot 0 has a vector token under tag NONE at A. -/
def untaggedBlock : BlockExec :=
  { emptyBlock 0 0x1000 with offs := [0], decoded := true, toks := [⟨0, .a, .vector 0 [] [] []⟩, ⟨0, .b, .scalar 1⟩] }
/-- That block is in flight of thread 0, which has a handler, and its slot 0 is in focus. -/
def untaggedState : State :=
  { State.reset.setThread 0 { Thread.absent with status := .running, tvec := 0x2000, flight := [untaggedBlock] } with focus := .slot 0 0 0 }
/-- The ADD in focus, with its operands. -/
def untaggedAdd : Firing :=
  { st := untaggedState, tid := 0, serial := 0, slot := 0, thread := untaggedState.thread 0, block := untaggedBlock, oldest := true,
    raw := ⟨.add, .b addAlways⟩, a := .vector 0 [] [] [], b := .scalar 1, c := .null, p := .all }

theorem untaggedAdd_site : untaggedState.site ⟨.add, .b addAlways⟩ = some untaggedAdd := by rfl

/-- The causes that thread 0 has after a row. -/
def causeAfter (r : Host.Outcome State Fault Refusal) : Word :=
  match r with
  | .next t => (t.thread 0).tcause
  | _ => 0

theorem untaggedAdd_traps : causeAfter (exec (.add addAlways) untaggedState) = BitVec.ofNat 64 (cTAGNONE + 256) := by decide +kernel

theorem untaggedAdd_tagfmt :
    causeAfter (.next (untaggedState.raise 0 0 (mkFault cTAGFMT 0 1 0 0))) = BitVec.ofNat 64 (cTAGFMT + 256) := by decide +kernel

/-- Refutes O58: a vector token under tag NONE (R14) at an operand that asks for a scalar raises TAGNONE with the operand's number, not TAGFMT. -/
theorem not_predicatesAndOperandsDecideFiring : ¬ Obligations.PredicatesAndOperandsDecideFiring := by
  rintro ⟨-, -, -, -, h, -⟩
  have hraise : exec (.add addAlways) untaggedState = .next (untaggedState.raise 0 0 (mkFault cTAGFMT 0 1 0 0)) :=
    h (.add addAlways) _ untaggedState untaggedAdd rfl untaggedAdd_site .all rfl rfl rfl rfl
  have hcause := congrArg causeAfter hraise
  rw [untaggedAdd_traps, untaggedAdd_tagfmt] at hcause
  exact absurd hcause (by decide)

end Sys2Proof.Machine
end

-- ==== Proofs: changes of one block ====
section
/-! SUPPORT. What changes no more than one block in flight: updates, held faults, outputs; and the ends of a firing that leave the rest to the commit (R32). -/
namespace Sys2Proof.Machine

/-! What changes no more than one block in flight. -/
/-- The slot of a block in flight has fired or been declined. -/
def State.hasResolved (s : State) (tid serial slot : Nat) : Bool := ((s.thread tid).block serial).any (fun b => b.resolved slot)

theorem Thread.block_of_flight_nil {t : Thread} (h : t.flight = []) (serial : Nat) : t.block serial = none := by
  simp [Thread.block, h]

theorem State.hasResolved_of_flight_nil {s : State} {tid : Nat} (h : (s.thread tid).flight = []) (serial slot : Nat) :
    s.hasResolved tid serial slot = false := by
  simp [State.hasResolved, Thread.block_of_flight_nil h]

theorem Thread.updBlock_block_other (t : Thread) {serial k : Nat} (f : BlockExec → BlockExec) (hf : ∀ b, (f b).serial = b.serial)
    (h : k ≠ serial) : (t.updBlock serial f).block k = t.block k := by
  simp only [Thread.updBlock, Thread.block]
  induction t.flight with
  | nil => rfl
  | cons b r ih =>
    have hk : (if b.serial = serial then f b else b).serial = b.serial := by split <;> simp [hf]
    by_cases hb : b.serial = k
    · simp [hb, h]
    · simp [hk, hb, ih]

theorem State.hasResolved_updBlock (s : State) (tid serial slot : Nat) (f : BlockExec → BlockExec) (hf : ∀ b, (f b).serial = b.serial)
    (hr : ∀ b, (f b).resolved slot = b.resolved slot) : (s.updBlock tid serial f).hasResolved tid serial slot = s.hasResolved tid serial slot := by
  simp only [State.hasResolved, State.updBlock_thread, Thread.updBlock_block _ _ _ hf]
  cases (s.thread tid).block serial <;> simp [hr]

theorem State.onlyBlock_refl (s : State) (tid serial : Nat) : s.onlyBlock s tid serial :=
  ⟨rfl, fun _ _ => rfl, rfl, fun _ _ => rfl, fun b hb => ⟨b, hb, rfl, rfl, rfl⟩⟩

theorem State.onlyBlock_trans {s t u : State} {tid serial : Nat} (h : s.onlyBlock t tid serial) (k : t.onlyBlock u tid serial) :
    s.onlyBlock u tid serial := by
  obtain ⟨hstate, hother, hthread, hblocks, hblock⟩ := h
  obtain ⟨kstate, kother, kthread, kblocks, kblock⟩ := k
  refine ⟨?_, fun n hn => (kother n hn).trans (hother n hn), ?_, fun j hj => (kblocks j hj).trans (hblocks j hj), fun b hb => ?_⟩
  · rw [kstate, hstate]
  · rw [kthread, hthread]
  · obtain ⟨c, hc, hserial, haddr, hwords⟩ := hblock b hb
    obtain ⟨d, hd, kserial, kaddr, kwords⟩ := kblock c hc
    exact ⟨d, hd, kserial.trans hserial, kaddr.trans haddr, kwords.trans hwords⟩

/-- An update of a block that leaves it the same block. -/
def sameBlock (f : BlockExec → BlockExec) : Prop := ∀ b, (f b).serial = b.serial ∧ (f b).addr = b.addr ∧ (f b).words = b.words

theorem State.updBlock_other (s : State) (tid serial : Nat) (f : BlockExec → BlockExec) {n : Nat} (h : n ≠ tid) :
    (s.updBlock tid serial f).thread n = s.thread n := State.setThread_thread_other _ _ h

theorem State.onlyBlock_updBlock (s : State) (tid serial : Nat) {f : BlockExec → BlockExec} (hf : sameBlock f) :
    s.onlyBlock (s.updBlock tid serial f) tid serial := by
  have hserial : ∀ b, (f b).serial = b.serial := fun b => (hf b).1
  refine ⟨rfl, fun n hn => s.updBlock_other _ _ _ hn, ?_, fun k hk => ?_, fun b hb => ⟨f b, ?_, hf b⟩⟩
  · rw [State.updBlock_thread]
    rfl
  · rw [State.updBlock_thread, Thread.updBlock_block_other _ _ hserial hk]
  · rw [State.updBlock_thread, Thread.updBlock_block _ _ _ hserial, hb]
    rfl

/-! Faults. -/
/-- A speculative block holds its first fault (R17). -/
def BlockExec.hold (f : FaultRec) (b : BlockExec) : BlockExec := if b.held.isNone then { b with held := some f } else b

theorem BlockExec.sameBlock_hold (f : FaultRec) : sameBlock (BlockExec.hold f) := by
  intro b
  unfold BlockExec.hold
  split <;> exact ⟨rfl, rfl, rfl⟩

theorem BlockExec.resolved_hold (f : FaultRec) (b : BlockExec) (slot : Nat) : (b.hold f).resolved slot = b.resolved slot := by
  unfold BlockExec.hold
  split <;> rfl

theorem State.takeTrap_flight (s : State) (tid : Nat) (f : FaultRec) (block faulting : Word) :
    ((s.takeTrap tid f block faulting).thread tid).flight = [] := by
  unfold State.takeTrap
  simp only [State.discardFlight_same]
  split <;> simp only [State.setThread_thread_same, Thread.record]

/-- A fault empties the flight of its thread, or is held by its block. -/
theorem State.raise_cases (s : State) (tid serial : Nat) (f : FaultRec) :
    ((s.raise tid serial f).thread tid).flight = [] ∨ s.raise tid serial f = s.updBlock tid serial (BlockExec.hold f) := by
  cases h : (s.thread tid).flight with
  | nil => exact .inl (by simp only [State.raise, h])
  | cons b rest =>
    by_cases hb : b.serial = serial
    · refine .inl ?_
      simp only [State.raise, h, hb, if_true]
      exact s.takeTrap_flight _ _ _ _
    · refine .inr ?_
      simp only [State.raise, State.updBlock, Thread.updBlock, h, hb, if_false]
      congr 2
      refine List.map_congr_left fun x _ => ?_
      unfold BlockExec.hold
      by_cases hx : x.serial = serial <;> simp [hx]

theorem State.hasResolved_raise (s : State) (tid serial slot : Nat) (f : FaultRec) (h : s.hasResolved tid serial slot = false) :
    (s.raise tid serial f).hasResolved tid serial slot = false := by
  rcases s.raise_cases tid serial f with hempty | hhold
  · exact State.hasResolved_of_flight_nil hempty _ _
  · rw [hhold, s.hasResolved_updBlock _ _ _ _ (fun b => (BlockExec.sameBlock_hold f b).1) (fun b => b.resolved_hold f slot), h]

/-! Outputs. -/
/-- Nothing but the block has changed, unless the thread's flight is empty: a trap was taken. -/
def State.onlyBlockOrTrap (s t : State) (tid serial : Nat) : Prop := (t.thread tid).flight = [] ∨ s.onlyBlock t tid serial

theorem State.onlyBlockOrTrap_raise {s t : State} {tid serial : Nat} (h : s.onlyBlock t tid serial) (f : FaultRec) :
    s.onlyBlockOrTrap (t.raise tid serial f) tid serial := by
  rcases t.raise_cases tid serial f with hempty | hhold
  · exact .inl hempty
  · exact .inr (hhold ▸ State.onlyBlock_trans h (t.onlyBlock_updBlock _ _ (BlockExec.sameBlock_hold f)))

theorem State.onlyBlockOrTrap_deliver1 {s t : State} {tid serial : Nat} (h : s.onlyBlockOrTrap t tid serial) (e : TargetRef) (k : Token) :
    s.onlyBlockOrTrap (t.deliver1 tid serial e k) tid serial := by
  rcases h with hempty | honly
  · simp only [State.deliver1, Thread.block_of_flight_nil hempty]
    exact .inl hempty
  · unfold State.deliver1
    cases (t.thread tid).block serial with
    | none => exact .inr honly
    | some b =>
      simp only
      split
      · exact State.onlyBlockOrTrap_raise honly _
      · exact .inr (State.onlyBlock_trans honly (t.onlyBlock_updBlock _ _ (fun _ => ⟨rfl, rfl, rfl⟩)))

theorem State.onlyBlockOrTrap_deliver {s t : State} {tid serial : Nat} (h : s.onlyBlockOrTrap t tid serial) (r : Raw) (main alt : Option Token) :
    s.onlyBlockOrTrap (t.deliver tid serial r main alt) tid serial := by
  unfold State.deliver
  generalize r.sends main alt = l
  induction l generalizing t with
  | nil => exact h
  | cons e l ih => exact ih (State.onlyBlockOrTrap_deliver1 h e.1 e.2)

theorem State.onlyBlockOrTrap_finish (s : State) (x : Firing) (o : Out) : s.onlyBlockOrTrap (s.finish x o) x.tid x.serial := by
  unfold State.finish
  split
  · exact State.onlyBlockOrTrap_raise (s.onlyBlock_refl _ _) _
  · refine State.onlyBlockOrTrap_deliver (.inr ?_) _ _ _
    exact s.onlyBlock_updBlock _ _ (fun _ => ⟨rfl, rfl, rfl⟩)

theorem State.onlyBlock_decline (s : State) (x : Firing) : s.onlyBlock (s.decline x) x.tid x.serial :=
  s.onlyBlock_updBlock _ _ (fun _ => ⟨rfl, rfl, rfl⟩)

/-! Bodies. -/
/-- A body's end leaves the device to the commit (R32): its outputs go into the state as it was, and where it waits or faults the slot stays open. -/
inductive Fired.Quiet (x : Firing) : Fired → Prop where
  | give (o : Out) : Quiet x (.give x.st o)
  | wait : Quiet x .wait
  | stall {s : State} (h : s.hasResolved x.tid x.serial x.slot = x.st.hasResolved x.tid x.serial x.slot) : Quiet x (.stall s)
  | skip : Quiet x (.skip x.st)
  | fault {s : State} (h : s.hasResolved x.tid x.serial x.slot = x.st.hasResolved x.tid x.serial x.slot) (f : FaultRec) : Quiet x (.fault s f)

theorem State.hasResolved_congr {s t : State} (h : s.threads = t.threads) (tid serial slot : Nat) :
    s.hasResolved tid serial slot = t.hasResolved tid serial slot := by
  simp only [State.hasResolved, State.thread, h]

/-- A quiet body that resolves its open slot changes its block alone. -/
theorem Fired.onlyBlock_run {x : Firing} {f : Fired} (hq : f.Quiet x) (hopen : x.st.hasResolved x.tid x.serial x.slot = false)
    (hdone : (f.run x).hasResolved x.tid x.serial x.slot = true) : x.st.onlyBlock (f.run x) x.tid x.serial := by
  cases hq with
  | give o =>
    rcases x.st.onlyBlockOrTrap_finish x o with hempty | honly
    · exact absurd hdone (by rw [Fired.run, State.hasResolved_of_flight_nil hempty]; decide)
    · exact honly
  | wait => exact absurd hdone (by rw [Fired.run, hopen]; decide)
  | stall h => exact absurd hdone (by rw [Fired.run, h, hopen]; decide)
  | skip => exact x.st.onlyBlock_decline x
  | fault h r => exact absurd hdone (by rw [Fired.run, State.hasResolved_raise _ _ _ _ _ (h.trans hopen)]; decide)

end Sys2Proof.Machine
end

-- ==== Proofs: quiet bodies ====
section
/-! SUPPORT. Each body that asks nothing of the memory or the engines leaves the device to the commit (R15, R20, R22). -/
namespace Sys2Proof.Machine

/-! What no body does to the threads as it asks or faults. -/
theorem State.askPage_threads (s : State) (tile : Nat) (asid : BitVec 12) (va : Nat) (tids engines : List Nat) :
    (s.askPage tile asid va tids engines).threads = s.threads := by
  unfold State.askPage
  dsimp only
  split <;> rfl

theorem Firing.askWalks_threads (x : Firing) (l : List Nat) : (x.askWalks l).threads = x.st.threads := by
  unfold Firing.askWalks
  generalize x.st = s
  induction l generalizing s with
  | nil => rfl
  | cons va l ih => rw [List.foldl_cons, ih, State.askWalk, State.askPage_threads]

theorem State.logLine_threads (s : State) (cls line : Nat) : (s.logLine cls line).threads = s.threads := by
  unfold State.logLine
  split <;> rfl

theorem State.poisonLine_threads (s : State) (line : Nat) : (s.poisonLine line).threads = s.threads := by
  unfold State.poisonLine
  split
  · rw [State.logLine_threads, State.logLine_threads]
    rfl
  · rfl

theorem State.poisonAt_threads (s : State) (w : Who) (a : Word) : (s.poisonAt w a).threads = s.threads := by
  unfold State.poisonAt
  split
  · split
    · exact s.poisonLine_threads _
    · rfl
  · rfl

/-! Quiet ends, and quiet ways of P and nulls. -/
section
variable {x : Firing} {f g : Fired}

theorem Fired.Quiet.ite {c : Prop} [Decidable c] (hf : f.Quiet x) (hg : g.Quiet x) : (if c then f else g).Quiet x := by
  split <;> assumption

theorem Firing.failInfo_quiet (x : Firing) (cause info : Nat) : (x.failInfo cause info).Quiet x := .fault rfl _
theorem Firing.failAt_quiet (x : Firing) (cause info : Nat) (a : Word) : (x.failAt cause info a).Quiet x := .fault rfl _
theorem Firing.stick_quiet (x : Firing) : x.stick.Quiet x :=
  .stall (State.hasResolved_updBlock _ _ _ _ _ (fun _ => rfl) (fun _ => rfl))

theorem Firing.whole_quiet (n : Out) (h : f.Quiet x) : (x.whole n f).Quiet x := by
  have hlive : (if x.anyNull then Fired.give x.st n else f).Quiet x := .ite (.give _) h
  unfold Firing.whole
  dsimp only
  cases x.p with
  | all => exact hlive
  | null => exact .give _
  | mask l =>
    dsimp only
    split
    · exact .give _
    · exact .skip
    · exact hlive

@[simp] theorem Firing.value_quiet (x : Firing) (v : Word) : (x.value v).Quiet x := x.whole_quiet _ (.give _)
@[simp] theorem Firing.effect_quiet (x : Firing) (e : Effect) : (x.effect e).Quiet x := x.whole_quiet _ (.give _)
@[simp] theorem Firing.deferring_quiet (x : Firing) (e : Effect) : (x.deferring e).Quiet x := x.whole_quiet _ (.give _)
@[simp] theorem Firing.leave_quiet (x : Firing) (e : ExitKind) : (x.leave e).Quiet x := x.whole_quiet _ (.give _)

theorem Firing.needLanes_quiet (h : f.Quiet x) : (x.needLanes f).Quiet x := .ite (x.failInfo_quiet _ _) h
theorem Firing.vlKnown_quiet (h : f.Quiet x) : (x.vlKnown f).Quiet x := .ite h .wait
theorem Firing.supervisor_quiet (info : Nat) (h : f.Quiet x) : (x.supervisor info f).Quiet x := .ite h (x.failInfo_quiet _ _)
theorem Firing.csrPriv_quiet (h : f.Quiet x) : (x.csrPriv f).Quiet x := .ite (x.supervisor_quiet _ h) h
theorem Firing.streamPtr_quiet (a : Word) (align : Nat) (h : f.Quiet x) : (x.streamPtr a align f).Quiet x :=
  .ite (x.failAt_quiet _ _ _) (.ite (x.failAt_quiet _ _ _) h)
theorem Firing.rowRange_quiet (vec : Bool) (h : f.Quiet x) : (x.rowRange vec f).Quiet x :=
  .ite (x.failInfo_quiet _ _) (.ite (x.failInfo_quiet _ _) h)
theorem Firing.matrix_quiet (h : f.Quiet x) : (x.matrix f).Quiet x := .ite .wait (.ite (x.failInfo_quiet _ _) (.ite x.stick_quiet h))
theorem Firing.masks_quiet (h : f.Quiet x) : (x.masks f).Quiet x := x.needLanes_quiet (x.vlKnown_quiet (.ite (.give _) h))
@[simp] theorem Firing.indirect_quiet (x : Firing) (e : Word → ExitKind) : (x.indirect e).Quiet x :=
  x.whole_quiet _ (.ite (x.failAt_quiet _ _ _) (.ite (x.failAt_quiet _ _ _) (.give _)))

theorem Firing.underC_quiet {go : Option Time → Fired} (h : ∀ w, (go w).Quiet x) : (x.underC go).Quiet x := by
  unfold Firing.underC
  split
  · split
    · exact .fault rfl _
    · exact h _
  · exact h _

theorem Firing.swept_quiet {l : List Access} {go : List (Nat × Loc) → Fired} (h : ∀ oks, (go oks).Quiet x) : (x.swept l go).Quiet x := by
  unfold Firing.swept
  refine .ite (.stall (State.hasResolved_congr (x.askWalks_threads _) _ _ _)) ?_
  split
  · refine .fault (State.hasResolved_congr ?_ _ _ _) _
    split
    · exact State.poisonAt_threads _ _ _
    · rfl
  · exact h _

/-! Vector operands without cells in error. -/
/-- No operand has a cell with an uncorrectable error. -/
def Firing.clean (x : Firing) : Prop := x.a.badCells = [] ∧ x.b.badCells = [] ∧ x.c.badCells = []

theorem Token.vec_bad (t : Token) : t.vec.bad = t.badCells := by cases t <;> rfl

theorem Firing.latent_of_clean {reqs : List Req} (h : ∀ r ∈ reqs, r.tok.badCells = []) (s : State) : x.latent reqs s = s := by
  have hnone : reqs.any (fun r => r.isVec && !r.tok.vec.bad.isEmpty) = false := by
    simp only [List.any_eq_false]
    intro r hr
    simp [Token.vec_bad, h r hr]
  simp [Firing.latent, hnone]

theorem Fired.onto_self {k : State → State} (h : ∀ s, k s = s) : f.onto k = f := by
  cases f <;> simp [Fired.onto, h]

theorem Firing.vectorIf_quiet (nulled : Bool) {reqs : List Req} (widths : List Nat) (n : Out) (hr : ∀ r ∈ reqs, r.tok.badCells = [])
    (h : f.Quiet x) : (x.vectorIf nulled reqs widths n f).Quiet x := by
  unfold Firing.vectorIf
  refine x.needLanes_quiet (x.vlKnown_quiet ?_)
  split
  · exact .fault rfl _
  · refine .ite (x.failInfo_quiet _ _) (.ite ?_ ?_)
    · rw [Firing.latent_of_clean hr]
      exact .give _
    · rw [Fired.onto_self (Firing.latent_of_clean hr)]
      exact h

theorem Firing.vector_quiet {reqs : List Req} (widths : List Nat) (n : Out) (hr : ∀ r ∈ reqs, r.tok.badCells = [])
    (h : f.Quiet x) : (x.vector reqs widths n f).Quiet x := x.vectorIf_quiet _ widths n hr h

theorem vec1_quiet (hx : x.clean) (ok : Nat → Bool) (op : Fmt → Word → Word × Flags) : (vec1 x ok op).Quiet x :=
  x.vector_quiet _ _ (by simp [reqA, hx.1]) (.give _)
theorem vec2_quiet (hx : x.clean) (ok : Nat → Bool) (op : Fmt → Word → Word → Word × Flags) : (vec2 x ok op).Quiet x :=
  x.vector_quiet _ _ (by simp [reqA, reqB, hx.1, hx.2.1]) (.give _)
theorem vec3_quiet (hx : x.clean) (ok : Nat → Bool) (op : Fmt → Word → Word → Word → Word × Flags) : (vec3 x ok op).Quiet x :=
  x.vector_quiet _ _ (by simp [reqA, reqB, reqC, hx.1, hx.2.1, hx.2.2]) (.give _)
theorem cmp2_quiet (hx : x.clean) (op : Fmt → Word → Word → Bool × Flags) : (cmp2 x op).Quiet x :=
  x.vector_quiet _ _ (by simp [reqA, reqB, hx.1, hx.2.1]) (.give _)
theorem shiftBody_quiet (hx : x.clean) (op : Fmt → Word → Nat → Word × Flags) : (shiftBody x op).Quiet x :=
  x.vector_quiet _ _ (by simp [reqA, reqB, hx.1, hx.2.1]) (.give _)
theorem fun1_quiet (hx : x.clean) (ok : Nat → Bool) (op : Fmt → RoundMode → FVal → Nat × Flags) : (fun1 x ok op).Quiet x := vec1_quiet hx _ _
@[simp] theorem Firing.build_quiet (x : Firing) (el : Fmt → Nat → Word) : (x.build el).Quiet x := x.vector_quiet _ _ (by simp) (.give _)
theorem Firing.reduce_quiet (hx : x.clean) (op : Fmt → Word → Word → Word × Flags) (empty : Fmt → Nat) : (x.reduce op empty).Quiet x :=
  x.vector_quiet _ _ (by simp [hx.1]) (.give _)
theorem Firing.move_quiet (hx : x.clean) {reqs : List Req} (widths : List Nat) (src : Nat → Option (Option Nat))
    (hr : ∀ r ∈ reqs, r.tok.badCells = []) : (x.move reqs widths src).Quiet x :=
  x.vector_quiet _ _ (by simpa [hx.1] using hr) (.give _)
@[simp] theorem mask2_quiet (x : Firing) (op : Bool → Bool → Bool) : (mask2 x op).Quiet x := x.masks_quiet (.give _)
@[simp] theorem Firing.atomic_quiet (x : Firing) (op : AtomicOp) : (x.atomic op).Quiet x :=
  x.whole_quiet _ (x.underC_quiet fun _ => x.swept_quiet fun oks => by cases oks <;> exact .give _)
end

/-! The bodies. -/
section
variable {x : Firing}

@[simp] theorem rdsBody_quiet (x : Firing) : (rdsBody x).Quiet x := by
  unfold rdsBody
  split
  · exact .wait
  · exact x.value_quiet _
@[simp] theorem rdvBody_quiet (x : Firing) : (rdvBody x).Quiet x := x.needLanes_quiet (x.vlKnown_quiet (.give _))
@[simp] theorem rdmBody_quiet (x : Firing) : (rdmBody x).Quiet x := x.needLanes_quiet (x.vlKnown_quiet (.give _))
@[simp] theorem wrsBody_quiet (x : Firing) : (wrsBody x).Quiet x := x.whole_quiet _ (.give _)
@[simp] theorem wrmBody_quiet (x : Firing) : (wrmBody x).Quiet x := x.needLanes_quiet (x.vlKnown_quiet (.give _))
/-- R143: with no cell in error WRV has nothing to log. -/
theorem wrvBody_quiet (hx : x.clean) : (wrvBody x).Quiet x := by
  refine x.needLanes_quiet (x.vlKnown_quiet ?_)
  simp only [hx.1, List.isEmpty_nil, if_true]
  exact .give _
@[simp] theorem movBody_quiet (x : Firing) : (movBody x).Quiet x := by
  unfold movBody
  split
  · exact .give _
  · exact .give _
  · exact x.whole_quiet _ (.give _)
@[simp] theorem nullBody_quiet (x : Firing) : (nullBody x).Quiet x := x.whole_quiet _ (.give _)
@[simp] theorem csrrBody_quiet (x : Firing) : (csrrBody x).Quiet x :=
  x.whole_quiet _ (x.csrPriv_quiet (.ite .wait (.ite (x.vlKnown_quiet (.give _)) (.give _))))
@[simp] theorem csrwBody_quiet (x : Firing) : (csrwBody x).Quiet x := x.whole_quiet _ (x.csrPriv_quiet (.give _))
@[simp] theorem trapBody_quiet (x : Firing) : (trapBody x).Quiet x := x.whole_quiet _ (x.failInfo_quiet _ _)
@[simp] theorem eretBody_quiet (x : Firing) : (eretBody x).Quiet x := x.whole_quiet _ (x.supervisor_quiet _ (.give _))
@[simp] theorem tlbinvBody_quiet (x : Firing) : (tlbinvBody x).Quiet x :=
  x.whole_quiet _ (x.supervisor_quiet _ (.ite (x.failInfo_quiet _ _) (.ite (x.failInfo_quiet _ _) (.give _))))
@[simp] theorem setvlBody_quiet (x : Firing) : (setvlBody x).Quiet x := x.whole_quiet _ (.ite (x.deferring_quiet _) (x.failInfo_quiet _ _))
@[simp] theorem lclaimBody_quiet (x : Firing) : (lclaimBody x).Quiet x := x.whole_quiet _ (.ite (x.deferring_quiet _) (x.failInfo_quiet _ _))
@[simp] theorem paddBody_quiet (x : Firing) : (paddBody x).Quiet x := by
  refine x.whole_quiet _ ?_
  split
  · exact x.failAt_quiet _ _ _
  · split
    · exact x.failAt_quiet _ _ _
    · exact .give _
@[simp] theorem wjoinBody_quiet (x : Firing) : (wjoinBody x).Quiet x :=
  x.whole_quiet _ (.ite (x.failInfo_quiet _ _) (.ite (x.failInfo_quiet _ _) (.give _)))
@[simp] theorem wfloorBody_quiet (x : Firing) : (wfloorBody x).Quiet x := by
  refine x.whole_quiet _ ?_
  split
  · exact .fault rfl _
  · split <;> exact .give _
@[simp] theorem wtestBody_quiet (x : Firing) : (wtestBody x).Quiet x := x.whole_quiet _ (.ite (x.failInfo_quiet _ _) (.give _))
@[simp] theorem barBody_quiet (x : Firing) : (barBody x).Quiet x := by
  refine x.whole_quiet _ (.ite (x.deferring_quiet _) ?_)
  split
  · exact .fault rfl _
  · exact x.deferring_quiet _
@[simp] theorem mnotBody_quiet (x : Firing) : (mnotBody x).Quiet x := x.masks_quiet (.give _)
@[simp] theorem mpopBody_quiet (x : Firing) : (mpopBody x).Quiet x := x.masks_quiet (.give _)
@[simp] theorem mfirstBody_quiet (x : Firing) : (mfirstBody x).Quiet x := x.masks_quiet (.give _)

theorem vmulwBody_quiet (hx : x.clean) : (vmulwBody x).Quiet x := x.vector_quiet _ _ (by simp [hx.1, hx.2.1]) (.give _)
theorem vclassBody_quiet (hx : x.clean) : (vclassBody x).Quiet x := x.vector_quiet _ _ (by simp [reqA, hx.1]) (.give _)
theorem vselBody_quiet (hx : x.clean) : (vselBody x).Quiet x := x.vector_quiet _ _ (by simp [reqA, reqB, hx.1, hx.2.1]) (.give _)
theorem vcvtBody_quiet (hx : x.clean) : (vcvtBody x).Quiet x := x.vector_quiet _ _ (by simp [reqA, hx.1]) (.give _)
theorem vscaleBody_quiet (hx : x.clean) : (vscaleBody x).Quiet x := x.vector_quiet _ _ (by simp [reqA, hx.1]) (.give _)
theorem vtagBody_quiet (hx : x.clean) : (vtagBody x).Quiet x := x.vector_quiet _ _ (by simp [hx.1]) (.give _)
theorem vdotBody_quiet (hx : x.clean) : (vdotBody x).Quiet x := by
  refine x.vector_quiet _ _ ?_ (.give _)
  split <;> simp [hx.1, hx.2.1, hx.2.2]
theorem vpermBody_quiet (hx : x.clean) : (vpermBody x).Quiet x := x.move_quiet hx _ _ (by simp [hx.2.1])
theorem vrotBody_quiet (hx : x.clean) : (vrotBody x).Quiet x := x.move_quiet hx _ _ (by simp)
theorem vslideBody_quiet (hx : x.clean) : (vslideBody x).Quiet x := x.move_quiet hx _ _ (by simp)
theorem vcompBody_quiet (hx : x.clean) : (vcompBody x).Quiet x := x.move_quiet hx _ _ (by simp)
theorem vexpdBody_quiet (hx : x.clean) : (vexpdBody x).Quiet x := x.move_quiet hx _ _ (by simp)
theorem vextBody_quiet (hx : x.clean) : (vextBody x).Quiet x := x.vector_quiet _ _ (by simp [hx.1]) (.ite (.fault rfl _) (.give _))
theorem vinsBody_quiet (hx : x.clean) : (vinsBody x).Quiet x := x.vectorIf_quiet _ _ _ (by simp [hx.1]) (.ite (.fault rfl _) (.give _))

@[simp] theorem stBody_quiet (x : Firing) : (stBody x).Quiet x := x.whole_quiet _ (x.underC_quiet fun _ => x.swept_quiet fun _ => .give _)
/-- R183: a VSTX with ORD takes no free value. -/
theorem vstBody_quiet (hx : x.clean) (ho : x.raw.op ≠ .vstx ∨ x.raw.mword.ord = true) : (vstBody x).Quiet x := by
  refine x.vector_quiet _ _ ?_ (x.underC_quiet fun _ => .ite (.give _) (x.swept_quiet fun _ => ?_))
  · split <;> simp [hx.2.1, hx.2.2]
  · have hord : (decide (x.raw.op = .vstx) && !x.raw.mword.ord) = false := by
      rcases ho with h | h <;> simp [h]
    simp only [hord, Bool.false_eq_true, if_false]
    exact .give _
theorem vsaddBody_quiet (hx : x.clean) : (vsaddBody x).Quiet x :=
  x.vector_quiet _ _ (by simp [hx.2.1, hx.2.2]) (.ite (.give _) (x.swept_quiet fun _ => .give _))
@[simp] theorem claimelBody_quiet (x : Firing) : (claimelBody x).Quiet x :=
  x.whole_quiet _ (x.swept_quiet fun oks => by cases oks <;> exact .give _)

theorem mmulBody_quiet (hx : x.clean) : (mmulBody x).Quiet x :=
  x.matrix_quiet (x.vector_quiet _ _ (by simp [hx.1]) (.ite (x.failInfo_quiet _ _) (.ite (x.failInfo_quiet _ _) (.give _))))
@[simp] theorem mrdBody_quiet (x : Firing) : (mrdBody x).Quiet x :=
  x.matrix_quiet (x.needLanes_quiet (x.rowRange_quiet _ (x.vector_quiet _ _ (by simp) (.give _))))
theorem mwrBody_quiet (hx : x.clean) : (mwrBody x).Quiet x :=
  x.matrix_quiet (x.needLanes_quiet (x.rowRange_quiet _ (x.vector_quiet _ _ (by simp [hx.1]) (.give _))))
@[simp] theorem mzeroBody_quiet (x : Firing) : (mzeroBody x).Quiet x := x.matrix_quiet (x.whole_quiet _ (x.rowRange_quiet _ (.give _)))
@[simp] theorem mdecayBody_quiet (x : Firing) : (mdecayBody x).Quiet x := x.matrix_quiet (x.whole_quiet _ (.give _))
@[simp] theorem mspillBody_quiet (x : Firing) : (mspillBody x).Quiet x := x.matrix_quiet (x.whole_quiet _ (x.swept_quiet fun _ => .give _))
@[simp] theorem wcfgBody_quiet (x : Firing) : (wcfgBody x).Quiet x :=
  x.matrix_quiet (x.whole_quiet _ (x.streamPtr_quiet _ _ (.ite (x.failInfo_quiet _ _) (.give _))))
@[simp] theorem wloadBody_quiet (x : Firing) : (wloadBody x).Quiet x := by
  refine x.matrix_quiet (x.whole_quiet _ ?_)
  dsimp only
  split
  · exact .fault rfl _
  · exact x.streamPtr_quiet _ _ (.ite (x.failInfo_quiet _ _) (.give _))
@[simp] theorem wloadaBody_quiet (x : Firing) : (wloadaBody x).Quiet x := x.matrix_quiet (x.whole_quiet _ (.ite (x.failInfo_quiet _ _) (.give _)))
@[simp] theorem wswapBody_quiet (x : Firing) : (wswapBody x).Quiet x := by
  refine x.matrix_quiet (x.whole_quiet _ (.ite (x.failInfo_quiet _ _) ?_))
  split
  · exact .wait
  · exact .give _
  · refine .ite ?_ .wait
    split
    · exact .fault (s := x.st.reportFill x.tile) (State.hasResolved_congr rfl _ _ _) _
    · exact .wait
  · exact .ite (.stall (s := x.st.retryFill x.tile) (State.hasResolved_congr rfl _ _ _)) .wait
@[simp] theorem wstatBody_quiet (x : Firing) : (wstatBody x).Quiet x := x.matrix_quiet (x.whole_quiet _ (.ite .wait (.give _)))
@[simp] theorem cpgoBody_quiet (x : Firing) : (cpgoBody x).Quiet x := by
  refine x.whole_quiet _ (.ite x.stick_quiet ?_)
  split
  · exact x.failAt_quiet _ _ _
  · exact x.deferring_quiet _
@[simp] theorem cpstatBody_quiet (x : Firing) : (cpstatBody x).Quiet x := x.whole_quiet _ (.ite (x.failInfo_quiet _ _) (.give _))
@[simp] theorem cpabortBody_quiet (x : Firing) : (cpabortBody x).Quiet x := x.whole_quiet _ (.ite (x.failInfo_quiet _ _) (.give _))
end

end Sys2Proof.Machine
end

-- ==== Proofs: firing changes only its block ====
section
/-! SUPPORT. Every instruction by its body (O57). -/
namespace Sys2Proof.Machine

/-! Every instruction. -/
/-- What an opcode's firing does. -/
def bodyOf : Opcode → Firing → Fired
  | .rds => rdsBody | .rdv => rdvBody | .rdm => rdmBody | .wrs => wrsBody | .wrv => wrvBody | .wrm => wrmBody | .mov => movBody | .null => nullBody
  | .lit => litBody | .pcb => pcbBody | .br => brBody | .bri => briBody | .call => callBody | .calli => calliBody | .yield => yieldBody
  | .halt => haltBody | .sysc => syscBody | .trap => trapBody | .eret => eretBody | .csrr => csrrBody | .csrw => csrwBody | .icinv => icinvBody
  | .tlbinv => tlbinvBody | .setvl => setvlBody | .lclaim => lclaimBody | .add => fun x => x.value (addValue x.a.word x.b.word)
  | .sub => fun x => x.value (subValue x.a.word x.b.word) | .mul => fun x => x.value (mulValue x.a.word x.b.word)
  | .mulh => fun x => x.value (mulhValue x.a.word x.b.word) | .mulhn => fun x => x.value (mulhnValue x.a.word x.b.word)
  | .div => fun x => x.value (divValue x.a.word x.b.word) | .divn => fun x => x.value (divnValue x.a.word x.b.word)
  | .rem => fun x => x.value (remValue x.a.word x.b.word) | .remn => fun x => x.value (remnValue x.a.word x.b.word)
  | .and => fun x => x.value (andValue x.a.word x.b.word) | .or => fun x => x.value (orValue x.a.word x.b.word)
  | .xor => fun x => x.value (xorValue x.a.word x.b.word) | .andn => fun x => x.value (andnValue x.a.word x.b.word)
  | .shl => fun x => x.value (shlValue x.a.word x.b.word) | .shr => fun x => x.value (shrValue x.a.word x.b.word)
  | .sra => fun x => x.value (sraValue x.a.word x.b.word) | .rotl => fun x => x.value (rotlValue x.a.word x.b.word)
  | .min => fun x => x.value (minValue x.a.word x.b.word) | .max => fun x => x.value (maxValue x.a.word x.b.word)
  | .minn => fun x => x.value (minnValue x.a.word x.b.word) | .maxn => fun x => x.value (maxnValue x.a.word x.b.word)
  | .clz => fun x => x.value (clzValue x.a.word) | .ctz => fun x => x.value (ctzValue x.a.word) | .popc => fun x => x.value (popcValue x.a.word)
  | .bswap => fun x => x.value (bswapValue x.a.word) | .sext => fun x => x.value (sextValue x.a.word x.b.word)
  | .zext => fun x => x.value (zextValue x.a.word x.b.word) | .bfx => fun x => x.value (bfxValue x.a.word x.b.word)
  | .bfi => fun x => x.value (bfiValue x.a.word x.b.word x.c.word) | .sel => fun x => x.value (selValue x.a.word x.b.word x.c.word)
  | .teq => fun x => x.value (teqValue x.a.word x.b.word) | .tne => fun x => x.value (tneValue x.a.word x.b.word)
  | .tlt => fun x => x.value (tltValue x.a.word x.b.word) | .tle => fun x => x.value (tleValue x.a.word x.b.word)
  | .tltn => fun x => x.value (tltnValue x.a.word x.b.word) | .tlen => fun x => x.value (tlenValue x.a.word x.b.word)
  | .tbit => fun x => x.value (tbitValue x.a.word x.b.word) | .sptest => fun x => x.value (sptestValue x.a.word) | .spcast => spcastBody
  | .padd => paddBody | .vadd => vaddBody | .vsub => vsubBody | .vmul => vmulBody | .vmulw => vmulwBody | .vfma => vfmaBody | .vfms => vfmsBody
  | .vdiv => vdivBody | .vsqrt => vsqrtBody | .vrcp => vrcpBody | .vrsq => vrsqBody | .vexp2 => vexp2Body | .vlog2 => vlog2Body | .vmin => vminBody
  | .vmax => vmaxBody | .vabs => vabsBody | .vneg => vnegBody | .vand => vandBody | .vor => vorBody | .vxor => vxorBody | .vnot => vnotBody
  | .vshl => vshlBody | .vshr => vshrBody | .vsra => vsraBody | .vceq => vceqBody | .vcne => vcneBody | .vclt => vcltBody | .vcle => vcleBody
  | .vcun => vcunBody | .vclass => vclassBody | .vsel => vselBody | .vfill => vfillBody | .vbcast => vbcastBody | .vid => vidBody | .vcvt => vcvtBody
  | .vscale => vscaleBody | .vtag => vtagBody | .vsum => vsumBody | .vrmax => vrmaxBody | .vrmin => vrminBody | .vdot => vdotBody
  | .vperm => vpermBody | .vrot => vrotBody | .vslide => vslideBody | .vcomp => vcompBody | .vexpd => vexpdBody | .vext => vextBody
  | .vins => vinsBody | .mand => mandBody | .mor => morBody | .mxor => mxorBody | .mnot => mnotBody | .mpop => mpopBody | .mfirst => mfirstBody
  | .st => stBody | .vst => vstBody | .vsts => vstBody | .vstx => vstBody | .vsadd => vsaddBody | .aadd => aaddBody | .aswap => aswapBody
  | .acas => acasBody | .amin => aminBody | .amax => amaxBody | .aand => aandBody | .aor => aorBody | .axor => axorBody | .wjoin => wjoinBody
  | .wfloor => wfloorBody | .wnow => wnowBody | .wtest => wtestBody | .bar => barBody | .claimel => claimelBody | .mclaim => mclaimBody
  | .mrel => mrelBody | .mmul => mmulBody | .mrd => mrdBody | .mwr => mwrBody | .mzero => mzeroBody | .mdecay => mdecayBody | .mspill => mspillBody
  | .wcfg => wcfgBody | .wload => wloadBody | .wloada => wloadaBody | .wswap => wswapBody | .wstat => wstatBody | .cpset => cpsetBody
  | .cpgo => cpgoBody | .cpqf => cpqfBody | .cpstat => cpstatBody | .cpabort => cpabortBody | .ld => ldBody | .mwait => mwaitBody | .vld => vldBody
  | .vldff => vldBody | .vlds => vldsBody | .vldx => vldxBody
  | .pref => prefBody | .wtable => wtableBody | .mfill => mfillBody | .wexp => wexpBody | .plock => plockBody | .punlock => punlockBody
  | .plaunch => plaunchBody | .pfence => pfenceBody | .pstat => pstatBody | .vldp => vldpBody | .vstp => vstpBody

theorem exec_bodyOf {i : Instr} {r : Raw} (h : rawOf i = some r) (ha : actsAside r.op = false) (s : State) :
    exec i s = .next (runSlot r (bodyOf r.op) s) := by
  cases i <;> cases h <;> cases ha <;> rfl

theorem bodyOf_quiet {x : Firing} (ha : actsAside x.raw.op = false) (hx : x.clean) (hord : x.raw.op ≠ .vstx ∨ x.raw.mword.ord = true) :
    (bodyOf x.raw.op x).Quiet x := by
  have hvst := vstBody_quiet hx hord
  generalize x.raw.op = o at ha
  cases o <;> cases ha
  all_goals simp only [bodyOf, hvst, litBody, pcbBody, brBody, briBody, callBody, calliBody, yieldBody, haltBody, syscBody, icinvBody,
    spcastBody, wnowBody, mclaimBody, mrelBody, cpsetBody, cpqfBody, aaddBody, aswapBody, acasBody, aminBody, amaxBody, aandBody, aorBody, axorBody,
    vaddBody, vsubBody, vmulBody, vfmaBody, vfmsBody, vdivBody, vsqrtBody, vrcpBody, vrsqBody, vexp2Body, vlog2Body, vminBody, vmaxBody,
    vabsBody, vnegBody, vandBody, vorBody, vxorBody, vnotBody, vshlBody, vshrBody, vsraBody, vceqBody, vcneBody, vcltBody, vcleBody, vcunBody,
    vsumBody, vrmaxBody, vrminBody, vfillBody, vbcastBody, vidBody, mandBody, morBody, mxorBody]
  all_goals simp [wrvBody_quiet hx, vec1_quiet hx, vec2_quiet hx, vec3_quiet hx, cmp2_quiet hx, shiftBody_quiet hx, fun1_quiet hx, Firing.reduce_quiet hx,
    vmulwBody_quiet hx, vclassBody_quiet hx, vselBody_quiet hx, vcvtBody_quiet hx, vscaleBody_quiet hx, vtagBody_quiet hx, vdotBody_quiet hx,
    vpermBody_quiet hx, vrotBody_quiet hx, vslideBody_quiet hx, vcompBody_quiet hx, vexpdBody_quiet hx, vextBody_quiet hx, vinsBody_quiet hx,
    vsaddBody_quiet hx, mmulBody_quiet hx, mwrBody_quiet hx]

/-! A slot that stands ready, or not. -/
theorem State.site_open {s : State} {r : Raw} {x : Firing} (h : s.site r = some x) : x.block.resolved x.slot = false := by
  unfold State.site at h
  split at h
  · simp only at h
    split at h
    · cases h
    · split at h
      · cases h
      · rename_i hc
        cases h
        simp only [Bool.or_eq_true, not_or] at hc
        obtain ⟨⟨⟨_, hopen⟩, _⟩, _⟩ := hc
        exact Bool.eq_false_iff.2 hopen
  · cases h

theorem State.firing_open {s : State} {r : Raw} {x : Firing} (h : s.firing r = some x) : x.st.hasResolved x.tid x.serial x.slot = false := by
  obtain ⟨y, p, hy, -, -, -, rfl⟩ := s.firing_site r x h
  obtain ⟨-, hst, hthread, hblock, -⟩ := s.site_some r y hy
  simp only [State.hasResolved, hst, ← hthread, hblock, Option.any_some]
  exact State.site_open hy

theorem Firing.keepsToBlock_spec {x : Firing} (h : x.keepsToBlock = true) :
    actsAside x.raw.op = false ∧ (x.raw.op ≠ .vstx ∨ x.raw.mword.ord = true) ∧ x.clean := by
  simp only [Firing.keepsToBlock, Bool.and_eq_true, Bool.not_eq_true', Bool.or_eq_true, bne_iff_ne, List.all_cons, List.all_nil,
    List.isEmpty_iff, and_true] at h
  obtain ⟨⟨haside, hord⟩, hclean⟩ := h
  exact ⟨haside, hord, hclean⟩

/-- A firing that goes through changes its block alone (R32). -/
theorem exec_onlyBlock {i : Instr} {r : Raw} {s t : State} {x : Firing} (hr : rawOf i = some r) (hx : s.firing r = some x)
    (hk : x.keepsToBlock = true) (he : exec i s = .next t) (hdone : t.hasResolved x.tid x.serial x.slot = true) :
    s.onlyBlock t x.tid x.serial := by
  obtain ⟨haside, hord, hclean⟩ := Firing.keepsToBlock_spec hk
  obtain ⟨-, hst, -, -, hraw⟩ := s.firing_some r x hx
  rw [exec_bodyOf hr (hraw ▸ haside), runSlot_of_firing r _ s x hx] at he
  obtain rfl : (bodyOf r.op x).run x = t := Host.Outcome.next.inj he
  have hq : (bodyOf r.op x).Quiet x := hraw ▸ bodyOf_quiet haside hclean hord
  exact hst ▸ Fired.onlyBlock_run hq (State.firing_open hx) hdone

theorem runSlot_declines {r : Raw} {body : Firing → Fired} {s : State} {x : Firing} (hx : s.site r = some x)
    (hd : decisionOf r (x.block.tok x.slot .p) = .declines) : runSlot r body s = s.decline x := by
  simp only [runSlot, hx, hd]

theorem runSlot_waits {r : Raw} {body : Firing → Fired} {s : State} {x : Firing} (hx : s.site r = some x)
    (hd : decisionOf r (x.block.tok x.slot .p) = .waits) : runSlot r body s = s := by
  simp only [runSlot, hx, hd]

/-- A slot that has asked for nothing has nothing to settle. -/
theorem State.settleLoad_of_no_load {s : State} {tid serial slot : Nat} (h : s.loads.any (fun l => l.of tid serial slot) = false) :
    s.settleLoad tid serial slot = s := by
  have hnone : s.loads.filter (fun l => l.of tid serial slot) = [] := by simpa using h
  have hall : s.loads.filter (fun l => !l.of tid serial slot) = s.loads := by simpa using h
  simp [State.settleLoad, hnone, hall]

/-- A firing that leaves the focus and the loads on their way is the same as a load. -/
theorem runLoad_of_runSlot {r : Raw} {body : Firing → Fired} {s t : State} {tid serial slot : Nat} (h : runSlot r body s = t)
    (hf : t.focus = .slot tid serial slot) (hl : t.loads = s.loads) : runLoad r body s = t := by
  simp only [runLoad, h, hf]
  cases hany : s.loads.any (fun l => l.of tid serial slot) with
  | true => rfl
  | false => exact State.settleLoad_of_no_load (hl ▸ hany)

theorem exec_of_runSlot {i : Instr} {r : Raw} {s t : State} {x : Firing} (hr : rawOf i = some r) (hx : s.site r = some x)
    (h : ∀ body, runSlot r body s = t) (hf : t.focus = s.focus) (hl : t.loads = s.loads) : exec i s = .next t := by
  obtain ⟨hfocus, -, -, -, -⟩ := s.site_some r x hx
  obtain ⟨body, hslot | hload⟩ := exec_runs i r hr
  · rw [hslot, h]
  · rw [hload, runLoad_of_runSlot (h body) (hf.trans hfocus) hl]

theorem exec_declines {i : Instr} {r : Raw} {s : State} {x : Firing} (hr : rawOf i = some r) (hx : s.site r = some x)
    (hd : decisionOf r (x.block.tok x.slot .p) = .declines) : exec i s = .next (s.decline x) :=
  exec_of_runSlot hr hx (fun _ => runSlot_declines hx hd) rfl rfl

theorem exec_waits {i : Instr} {r : Raw} {s : State} {x : Firing} (hr : rawOf i = some r) (hx : s.site r = some x)
    (hd : decisionOf r (x.block.tok x.slot .p) = .waits) : exec i s = .next s :=
  exec_of_runSlot hr hx (fun _ => runSlot_waits hx hd) rfl rfl

/-- What an update of a block leaves: all but its thread's flight. -/
theorem State.updBlock_frame (s : State) (tid serial : Nat) (f : BlockExec → BlockExec) :
    s.updBlock tid serial f = { s with threads := (s.updBlock tid serial f).threads } ∧
    (s.updBlock tid serial f).thread tid = { s.thread tid with flight := ((s.updBlock tid serial f).thread tid).flight } ∧
    ∀ n, n ≠ tid → (s.updBlock tid serial f).thread n = s.thread n :=
  ⟨rfl, by rw [State.updBlock_thread]; rfl, fun _ hn => s.updBlock_other _ _ _ hn⟩

/-- Settles O57: by the bodies, each of which leaves the device to the commit, and by what an update of a block leaves. -/
theorem firingChangesOnlyItsBlock : Obligations.FiringChangesOnlyItsBlock := by
  unfold Obligations.FiringChangesOnlyItsBlock
  have hserial (x : Firing) (o : Out) (b : BlockExec) : (x.after o b).serial = b.serial := rfl
  refine ⟨?fires, ?declines, ?waits, fun s x o => (s.updBlock_frame _ _ _).1, fun s x o n hn => (s.updBlock_frame _ _ _).2.2 n hn,
    fun s x o => (s.updBlock_frame _ _ _).2.1, ?others, ?same, fun s x o => ⟨rfl, rfl, rfl, rfl⟩, fun s x => s.updBlock_frame _ _ _,
    fun s x => s.updBlock_frame _ _ _, ?after⟩
  case fires => exact fun i r s t x hr hx hk he hdone => exec_onlyBlock hr hx hk he hdone
  case declines => exact fun i r s x hr hx hd => ⟨_, exec_declines hr hx hd, s.onlyBlock_decline x⟩
  case waits => exact fun i r s x hr hx hd => exec_waits hr hx hd
  case others =>
    intro s x o k hk
    rw [Firing.done, State.updBlock_thread, Thread.updBlock_block_other _ _ (hserial x o) hk]
  case same =>
    intro s x o
    rw [Firing.done, State.updBlock_thread, Thread.updBlock_block _ _ _ (hserial x o)]
  case after =>
    intro x o b
    exact ⟨rfl, rfl, rfl, rfl, rfl, fun h => by simp only [Firing.after, h]⟩

end Sys2Proof.Machine
end

-- ==== Proofs: the phases of a commit ====
section
/-! SUPPORT. What register writes leave of a thread, and the phases of BLOCK_COMMIT (R32, O32). -/
namespace Sys2Proof.Machine

/-- The thread but for what register writes touch. -/
def Thread.stripRegs (t : Thread) : Thread := { t with sregs := [], vregs := [], mregs := [], pending := [], cellErr := [] }

theorem Thread.writeSlot_stripRegs (t : Thread) (b : BlockExec) (groupOf : Nat → Nat) (k : Nat) (r : Raw) :
    (t.writeSlot b groupOf k r).stripRegs = t.stripRegs := by
  unfold Thread.writeSlot
  dsimp only
  repeat' split
  all_goals rfl

theorem Thread.writeRegs_stripRegs (t : Thread) (b : BlockExec) (base : Nat) : (t.writeRegs b base).stripRegs = t.stripRegs := by
  unfold Thread.writeRegs
  generalize b.slotsOf _ = l
  induction l generalizing t with
  | nil => rfl
  | cons e l ih => exact (ih _).trans (t.writeSlot_stripRegs b _ e.1 e.2)

theorem Thread.writeRegs_field {α : Type} (t : Thread) (b : BlockExec) (base : Nat) (f : Thread → α) (hf : ∀ t : Thread, f t.stripRegs = f t) :
    f (t.writeRegs b base) = f t := by
  rw [← hf, t.writeRegs_stripRegs, hf]

section
variable (t : Thread) (b : BlockExec) (base : Nat)

@[simp] theorem Thread.writeRegs_status : (t.writeRegs b base).status = t.status := t.writeRegs_field b base Thread.status fun _ => rfl
@[simp] theorem Thread.writeRegs_team : (t.writeRegs b base).team = t.team := t.writeRegs_field b base Thread.team fun _ => rfl
@[simp] theorem Thread.writeRegs_tile : (t.writeRegs b base).tile = t.tile := t.writeRegs_field b base Thread.tile fun _ => rfl
@[simp] theorem Thread.writeRegs_supervisor : (t.writeRegs b base).supervisor = t.supervisor := t.writeRegs_field b base Thread.supervisor fun _ => rfl
@[simp] theorem Thread.writeRegs_vl : (t.writeRegs b base).vl = t.vl := t.writeRegs_field b base Thread.vl fun _ => rfl
@[simp] theorem Thread.writeRegs_ceil : (t.writeRegs b base).ceil = t.ceil := t.writeRegs_field b base Thread.ceil fun _ => rfl
@[simp] theorem Thread.writeRegs_lanes : (t.writeRegs b base).lanes = t.lanes := t.writeRegs_field b base Thread.lanes fun _ => rfl
@[simp] theorem Thread.writeRegs_region : (t.writeRegs b base).region = t.region := t.writeRegs_field b base Thread.region fun _ => rfl
@[simp] theorem Thread.writeRegs_floor : (t.writeRegs b base).floor = t.floor := t.writeRegs_field b base Thread.floor fun _ => rfl
@[simp] theorem Thread.writeRegs_fflags : (t.writeRegs b base).fflags = t.fflags := t.writeRegs_field b base Thread.fflags fun _ => rfl
@[simp] theorem Thread.writeRegs_frm : (t.writeRegs b base).frm = t.frm := t.writeRegs_field b base Thread.frm fun _ => rfl
@[simp] theorem Thread.writeRegs_tcause : (t.writeRegs b base).tcause = t.tcause := t.writeRegs_field b base Thread.tcause fun _ => rfl
@[simp] theorem Thread.writeRegs_tblock : (t.writeRegs b base).tblock = t.tblock := t.writeRegs_field b base Thread.tblock fun _ => rfl
@[simp] theorem Thread.writeRegs_tvec : (t.writeRegs b base).tvec = t.tvec := t.writeRegs_field b base Thread.tvec fun _ => rfl
@[simp] theorem Thread.writeRegs_asid : (t.writeRegs b base).asid = t.asid := t.writeRegs_field b base Thread.asid fun _ => rfl
@[simp] theorem Thread.writeRegs_shadow : (t.writeRegs b base).shadow = t.shadow := t.writeRegs_field b base Thread.shadow fun _ => rfl
@[simp] theorem Thread.writeRegs_vlOut : (t.writeRegs b base).vlOut = t.vlOut := t.writeRegs_field b base Thread.vlOut fun _ => rfl
@[simp] theorem Thread.writeRegs_barred : (t.writeRegs b base).barred = t.barred := t.writeRegs_field b base Thread.barred fun _ => rfl
@[simp] theorem Thread.writeRegs_blocks : (t.writeRegs b base).blocks = t.blocks := t.writeRegs_field b base Thread.blocks fun _ => rfl
@[simp] theorem Thread.writeRegs_flight : (t.writeRegs b base).flight = t.flight := t.writeRegs_field b base Thread.flight fun _ => rfl
@[simp] theorem Thread.writeRegs_maxWrite : (t.writeRegs b base).maxWrite = t.maxWrite := t.writeRegs_field b base Thread.maxWrite fun _ => rfl
@[simp] theorem Thread.writeRegs_spill : (t.writeRegs b base).spill = t.spill := t.writeRegs_field b base Thread.spill fun _ => rfl

end

/-- The only register write of a block writes exactly its register. -/
theorem Thread.writeRegs_wrs {t : Thread} {b : BlockExec} {base k : Nat} {r : Raw} {v : Word}
    (hs : b.slotsOf (fun r => r.op.writesReg) = [(k, r)]) (hop : r.op = .wrs) (hf : k ∈ b.fired) (hp : (b.pOf k r).live = true)
    (hv : b.tok k .a = some (.scalar v)) : (t.writeRegs b base).sregs = mset 0 t.sregs r.reg v := by
  simp [Thread.writeRegs, hs, Thread.writeSlot, hop, hf, hp, hv]

/-! The phases of a commit. -/

/-- The committing thread once its register writes have been made. -/
def State.writtenThread (s : State) (tid : Nat) (b : BlockExec) : Thread :=
  let t := (s.thread tid).writeRegs b s.fresh
  { t with flight := t.flight.drop 1, blocks := t.blocks + 1, walkFaults := [], seen := t.seenAfter b }

/-- The state in which a commit's effects begin: the groups of its deferred results stand, its register writes are made. -/
def State.begun (s : State) (tid : Nat) (b : BlockExec) : State :=
  ({ s with fresh := s.fresh + b.groupSlots.length, groups := s.groups ++ b.groupsFrom s.fresh tid (s.thread tid).team } : State).setThread tid
    (s.writtenThread tid b)

/-- The effects of a block: FLOOR, requests, matrix effects, then engines and control. -/
def State.effected (u : State) (tid : Nat) (b : BlockExec) (base : Nat) : State :=
  (((u.commitFloors tid b).issueStores tid b base).commitMx tid b).commitEffects tid b base

/-- FFLAGS merged and the claim released: what follows the effects, ahead of the exit. -/
def State.flagged (u : State) (tid : Nat) (b : BlockExec) : State :=
  let s := u.setThread tid { u.thread tid with fflags := fflagsAfter (u.thread tid).fflags none b.flags }
  if mrelLast b then s.releaseClaim (s.thread tid).tile tid else s

theorem exec_blockCommit {s : State} {tid : Nat} {b : BlockExec} {slot : Nat} {e : ExitKind} (hr : s.commitReady tid = some b)
    (he : b.exit = some (slot, e)) :
    exec (.blockCommit tid) s = .next (((((s.begun tid b).effected tid b s.fresh).flagged tid b).restartCsrs tid b).takeExit tid b
      (s.thread tid).supervisor slot e) := by
  show Host.Outcome.next (blockCommitBody tid s) = _
  unfold blockCommitBody
  simp only [hr, he]
  rfl

theorem State.begun_thread (s : State) (tid : Nat) (b : BlockExec) : (s.begun tid b).thread tid = s.writtenThread tid b :=
  State.setThread_thread_same _ _ _
theorem State.begun_other (s : State) {tid n : Nat} (b : BlockExec) (h : n ≠ tid) : (s.begun tid b).thread n = s.thread n :=
  State.setThread_thread_other _ _ h

theorem State.commitReady_live {s : State} {tid : Nat} {b : BlockExec} (h : s.commitReady tid = some b) : (s.thread tid).live = true := by
  unfold State.commitReady State.commitHead at h
  dsimp only at h
  split at h
  · split at h
    · rename_i hc
      simp only [Bool.and_eq_true] at hc
      exact hc.1.1.1
    · simp at h
  · simp at h

theorem Thread.live_ne_absent {t : Thread} (h : t.live = true) : t.status ≠ .absent := by
  rintro ha
  simp [Thread.live, ha] at h

end Sys2Proof.Machine
end

-- ==== Proofs: how a thread leaves a block ====
section
/-! SUPPORT. The CSRs taken again, the exit and the younger blocks (R28, R108 to R113, R116, O32). -/
namespace Sys2Proof.Machine

/-- `t` is `w` but for thread `tid`, which is `v` with some blocks of its flight, and the loads and walks of its other blocks. Those that stay
begin where the commit pointer stands. -/
structure State.LeftAs (w t : State) (tid : Nat) (v : Thread) : Prop where
  rest : t = { w with threads := t.threads, loads := t.loads, walks := t.walks }
  others : ∀ n, n ≠ tid → t.thread n = w.thread n
  own : t.thread tid = { v with flight := (t.thread tid).flight }
  younger : ∀ n r, (t.thread tid).flight = n :: r → n.addr = v.pc ∧ sameBlocks (n :: r) (w.thread tid).flight
  unheld : (t.thread tid).flight ≠ [] → v.hold = .free ∧ v.barred = []

theorem sameBlocks_restarted (s : State) (tid : Nat) (l : List BlockExec) :
    sameBlocks (l.map (fun y => if y.decoded then { y with csrs := s.startCsrs tid y } else y)) l := by
  unfold sameBlocks
  rw [List.map_map]
  refine List.map_congr_left fun y _ => ?_
  simp only [Function.comp_apply]
  split <;> rfl

theorem State.restartCsrs_spec (w : State) (tid : Nat) (b : BlockExec) :
    w.restartCsrs tid b = { w with threads := (w.restartCsrs tid b).threads } ∧
    (∀ n, n ≠ tid → (w.restartCsrs tid b).thread n = w.thread n) ∧
    ∃ fl, (w.restartCsrs tid b).thread tid = { w.thread tid with flight := fl } ∧ sameBlocks fl (w.thread tid).flight := by
  unfold State.restartCsrs
  split
  · exact ⟨rfl, fun _ _ => rfl, _, rfl, rfl⟩
  · exact ⟨rfl, fun n h => State.setThread_thread_other _ _ h, _, State.setThread_thread_same _ _ _, sameBlocks_restarted w tid _⟩

/-- The younger blocks go, or begin where the commit pointer stands and nothing holds them back. -/
theorem State.keepYounger_cases (s : State) (tid : Nat) (mode all : Bool) :
    (s.keepYounger tid mode all = s ∧ ∀ n r, (s.thread tid).flight = n :: r →
      n.addr = (s.thread tid).pc ∧ (s.thread tid).hold = .free ∧ (s.thread tid).barred = [] ∧ all = false) ∨
    s.keepYounger tid mode all = (s.dropLoads tid (fun _ => false)).setThread tid { s.thread tid with flight := [] } := by
  unfold State.keepYounger
  dsimp only
  split
  case h_1 hf => exact .inl ⟨rfl, fun n r h => by simp [hf] at h⟩
  case h_2 m l hf =>
    split
    · rename_i hc
      simp only [Bool.and_eq_true, decide_eq_true_eq, List.isEmpty_iff, Bool.not_eq_true'] at hc
      obtain ⟨⟨⟨⟨haddr, -⟩, hhold⟩, hbar⟩, hall⟩ := hc
      refine .inl ⟨rfl, fun n r h => ?_⟩
      rw [hf] at h
      obtain ⟨rfl, -⟩ := List.cons.inj h
      exact ⟨haddr, hhold, hbar, hall⟩
    · exact .inr rfl

/-- A thread as the exit leaves it, whatever its flight. -/
def exitMap (f : Thread → Thread) : Prop := ∀ (t : Thread) l, f { t with flight := l } = { f t with flight := l }

/-- How a thread leaves its block by an exit that only moves it. -/
theorem State.leftAs_keepYounger (w : State) (tid : Nat) (b : BlockExec) (mode all : Bool) {f : Thread → Thread} (hf : exitMap f) :
    w.LeftAs (((w.restartCsrs tid b).setThread tid (f ((w.restartCsrs tid b).thread tid))).keepYounger tid mode all) tid (f (w.thread tid)) := by
  obtain ⟨hrest, hothers, fl, hown, hsame⟩ := w.restartCsrs_spec tid b
  generalize w.restartCsrs tid b = r at hrest hothers hown ⊢
  rw [hown, hf]
  have hset (n : Nat) (h : n ≠ tid) : (r.setThread tid { f (w.thread tid) with flight := fl }).thread n = w.thread n := by
    rw [State.setThread_thread_other _ _ h, hothers n h]
  rcases State.keepYounger_cases (r.setThread tid { f (w.thread tid) with flight := fl }) tid mode all with ⟨hk, hy⟩ | hk
  · rw [State.setThread_thread_same] at hy
    rw [hk]
    refine ⟨?_, hset, ?_, ?_, ?_⟩
    · rw [hrest]; rfl
    · rw [State.setThread_thread_same]
    · intro n l h
      rw [State.setThread_thread_same] at h
      exact ⟨(hy n l h).1, (show fl = n :: l from h) ▸ hsame⟩
    · intro h
      rw [State.setThread_thread_same] at h
      obtain ⟨n, l, hnl⟩ := List.exists_cons_of_ne_nil h
      obtain ⟨-, hhold, hbar, -⟩ := hy n l hnl
      exact ⟨hhold, hbar⟩
  · rw [hk, State.setThread_thread_same]
    refine ⟨?_, ?_, ?_, ?_, ?_⟩
    · rw [hrest]; rfl
    · intro n h
      rw [State.setThread_thread_other _ _ h, State.dropLoads_thread, hset n h]
    · rw [State.setThread_thread_same]
    · intro n l h
      rw [State.setThread_thread_same] at h
      cases h
    · intro h
      rw [State.setThread_thread_same] at h
      exact absurd rfl h

theorem State.keepYounger_all (s : State) (tid : Nat) (mode : Bool) : ((s.keepYounger tid mode true).thread tid).flight = [] := by
  rcases s.keepYounger_cases tid mode true with ⟨hk, hy⟩ | hk
  · rw [hk]
    cases hfl : (s.thread tid).flight with
    | nil => rfl
    | cons n l => simpa using hy n l hfl
  · rw [hk, State.setThread_thread_same]

/-- The link register of a fired call is written (R110). -/
def Thread.linked (t : Thread) (l : Word) : Thread := { t with sregs := mset 0 t.sregs linkReg l, pending := mdel t.pending linkReg }

section
variable {w : State} {tid : Nat} {b : BlockExec} {mode : Bool} {slot : Nat} {a : Word}

theorem State.leave_goto (he : b.erets = false) :
    w.LeftAs ((w.restartCsrs tid b).takeExit tid b mode slot (.goto a)) tid { w.thread tid with pc := a } := by
  unfold State.takeExit
  simp only [he, Bool.false_eq_true, if_false]
  exact w.leftAs_keepYounger tid b mode b.bars (f := fun t => { t with pc := a }) (fun _ _ => rfl)

theorem State.leave_call {l : Word} (he : b.erets = false) :
    w.LeftAs ((w.restartCsrs tid b).takeExit tid b mode slot (.call a l)) tid (({ w.thread tid with pc := a } : Thread).linked l) := by
  unfold State.takeExit
  simp only [he, Bool.false_eq_true, if_false]
  exact w.leftAs_keepYounger tid b mode b.bars (f := fun t => ({ t with pc := a } : Thread).linked l) (fun _ _ => rfl)

theorem State.leave_eret (he : b.erets = true) :
    w.LeftAs ((w.restartCsrs tid b).takeExit tid b mode slot (.goto a)) tid (w.thread tid).eret := by
  unfold State.takeExit
  simp only [he, if_true]
  exact w.leftAs_keepYounger tid b mode b.bars (f := Thread.eret) (fun _ _ => rfl)

theorem State.yieldGroups_nil {s : State} (h : s.waiting = []) (tid least : Nat) : s.yieldGroups tid least = [] := by
  simp [State.yieldGroups, h, bestStart]

theorem State.renegotiate_idle {s : State} (h : s.waiting = []) (tid least : Nat) : s.renegotiate tid least = s := by
  simp [State.renegotiate, State.yieldGroups_nil h]

theorem State.leave_yield (he : b.erets = false) (hw : w.waiting = []) :
    w.LeftAs ((w.restartCsrs tid b).takeExit tid b mode slot (.yield a)) tid { w.thread tid with pc := a, hold := .yielded [] } := by
  have hr : (w.restartCsrs tid b).waiting = [] := by rw [(w.restartCsrs_spec tid b).1]; exact hw
  unfold State.takeExit
  simp only [he, Bool.false_eq_true, if_false]
  rw [State.renegotiate_idle (by exact hr)]
  exact w.leftAs_keepYounger tid b mode b.bars (f := fun t => { t with pc := a, hold := .yielded [] }) (fun _ _ => rfl)

/-- A block whose effects bar younger blocks leaves none. -/
theorem State.takeExit_bars (r : State) (hb : b.bars = true) : ((r.takeExit tid b mode slot (.goto a)).thread tid).flight = [] := by
  unfold State.takeExit
  simp only [hb]
  exact State.keepYounger_all _ _ _

end

end Sys2Proof.Machine
end

-- ==== Proofs: a block of one effect ====
section
/-! SUPPORT. The effects of a block with one effect and the group of its deferred result (R29, R32, O32). -/
namespace Sys2Proof.Machine

/-! A block of at most one effect. -/

/-- `t` is `u` once its FFLAGS are merged and the thread has left the block for `a`. -/
structure State.LeftFrom (u t : State) (tid : Nat) (b : BlockExec) (a : Word) : Prop where
  rest : t = { u with threads := t.threads, loads := t.loads, walks := t.walks }
  others : ∀ n, n ≠ tid → t.thread n = u.thread n
  own : t.thread tid =
    { u.thread tid with fflags := fflagsAfter (u.thread tid).fflags none b.flags, pc := a, flight := (t.thread tid).flight }
  younger : ∀ n r, (t.thread tid).flight = n :: r → n.addr = a ∧ sameBlocks (n :: r) (u.thread tid).flight
  unheld : (t.thread tid).flight ≠ [] → (u.thread tid).hold = .free ∧ (u.thread tid).barred = []
  bars : b.bars = true → (t.thread tid).flight = []

/-- What a commit moves of the thread but for its pc is as `v` has it. -/
def Thread.commitsAs (t v : Thread) : Prop := t.blocks = v.blocks ∧ t.sregs = v.sregs ∧ t.pending = v.pending ∧ t.fflags = v.fflags

/-- The vector length, the vector and mask registers, the grant, FLOOR and FRM are as `v` has them. -/
def Thread.plainAs (t v : Thread) : Prop :=
  t.vregs = v.vregs ∧ t.mregs = v.mregs ∧ t.vl = v.vl ∧ t.lanes = v.lanes ∧ t.floor = v.floor ∧ t.frm = v.frm

theorem State.committed_of {s u t : State} {tid : Nat} {b : BlockExec} {a : Word} (hl : u.LeftFrom t tid b a) (hm : u.mem = s.mem)
    (ho : ∀ n, n ≠ tid → u.thread n = s.thread n) (hv : (u.thread tid).commitsAs (s.writtenThread tid b)) : s.committed t tid b a := by
  obtain ⟨hblocks, hsregs, hpending, hfflags⟩ := hv
  refine ⟨?_, ?_, ?_, ?_, ?_, (congrArg State.mem hl.rest).trans hm, fun n h => (hl.others n h).trans (ho n h)⟩
  · rw [hl.own]
  · rw [hl.own]; exact hblocks.trans (by simp [State.writtenThread])
  · rw [hl.own]; exact hsregs
  · rw [hl.own]; exact hpending
  · rw [hl.own]
    show fflagsAfter (u.thread tid).fflags none b.flags = _
    rw [hfflags]
    simp [State.writtenThread]

theorem State.plainly_of {s u t : State} {tid : Nat} {b : BlockExec} {a : Word} (hl : u.LeftFrom t tid b a)
    (hv : (u.thread tid).plainAs (s.writtenThread tid b)) : s.plainly t tid b := by
  obtain ⟨hvregs, hmregs, hvl, hlanes, hfloor, hfrm⟩ := hv
  unfold State.plainly
  rw [hl.own]
  exact ⟨hvregs, hmregs, hvl.trans (by simp [State.writtenThread]), hlanes.trans (by simp [State.writtenThread]),
    hfloor.trans (by simp [State.writtenThread]), hfrm.trans (by simp [State.writtenThread])⟩

theorem State.flagged_of_not_mrel {u : State} {tid : Nat} {b : BlockExec} (h : mrelLast b = false) :
    u.flagged tid b = u.setThread tid { u.thread tid with fflags := fflagsAfter (u.thread tid).fflags none b.flags } := by
  simp [State.flagged, h]

theorem State.LeftAs.leftFrom {u t : State} {tid : Nat} {b : BlockExec} {a : Word}
    (h : (u.setThread tid { u.thread tid with fflags := fflagsAfter (u.thread tid).fflags none b.flags }).LeftAs t tid
      { (u.setThread tid { u.thread tid with fflags := fflagsAfter (u.thread tid).fflags none b.flags }).thread tid with pc := a })
    (hb : b.bars = true → (t.thread tid).flight = []) : u.LeftFrom t tid b a := by
  obtain ⟨hrest, hothers, hown, hyounger, hunheld⟩ := h
  simp only [State.setThread_thread_same] at hown hyounger hunheld
  exact ⟨by rw [hrest]; rfl, fun n h => (hothers n h).trans (State.setThread_thread_other _ _ h), hown, hyounger, hunheld, hb⟩

section
variable {s u : State} {tid k base : Nat} {b : BlockExec} {e : Effect} {a : Word}

theorem BlockExec.effs_one (hb : b.effects = [⟨k, e⟩]) : b.effs = [e] := by simp [BlockExec.effs, hb]

theorem BlockExec.erets_one (hb : b.effects = [⟨k, e⟩]) (he : e ≠ .eret) : b.erets = false := by
  cases e <;> simp_all [BlockExec.erets, BlockExec.effs]

theorem mrelLast_one (hb : b.effects = [⟨k, e⟩]) (he : e ≠ .mrel) : mrelLast b = false := by
  cases e <;> simp_all [mrelLast, BlockExec.effs]

/-- Where a block leaves for by a jump, once its effects are done. -/
theorem State.exec_leaves {slot : Nat} (hr : s.commitReady tid = some b) (hx : b.exit = some (slot, .goto a)) (he : b.erets = false)
    (hu : ((s.begun tid b).effected tid b s.fresh).flagged tid b =
      u.setThread tid { u.thread tid with fflags := fflagsAfter (u.thread tid).fflags none b.flags }) :
    ∃ t, exec (.blockCommit tid) s = .next t ∧ u.LeftFrom t tid b a := by
  rw [exec_blockCommit hr hx, hu]
  exact ⟨_, rfl, (State.leave_goto he).leftFrom (State.takeExit_bars _)⟩

theorem State.commitsOne_leaves (h : s.commitsOne tid b k e a) (he : e ≠ .eret) (hm : e ≠ .mrel)
    (hu : (s.begun tid b).effected tid b s.fresh = u) :
    ∃ t, exec (.blockCommit tid) s = .next t ∧ u.LeftFrom t tid b a := by
  obtain ⟨hr, hb, slot, hx⟩ := h
  exact State.exec_leaves hr hx (BlockExec.erets_one hb he) (by rw [hu, State.flagged_of_not_mrel (mrelLast_one hb hm)])

/-- An effect that leaves the committing thread's registers and grant alone. -/
theorem State.commitsOne_plainly (h : s.commitsOne tid b k e a) (he : e ≠ .eret) (hm : e ≠ .mrel)
    (hu : (s.begun tid b).effected tid b s.fresh = u) (hmem : u.mem = s.mem) (ho : ∀ n, n ≠ tid → u.thread n = s.thread n)
    (hc : (u.thread tid).commitsAs (s.writtenThread tid b)) (hp : (u.thread tid).plainAs (s.writtenThread tid b)) :
    ∃ t, exec (.blockCommit tid) s = .next t ∧ u.LeftFrom t tid b a ∧ s.committed t tid b a ∧ s.plainly t tid b := by
  obtain ⟨t, ht, hl⟩ := State.commitsOne_leaves h he hm hu
  exact ⟨t, ht, hl, State.committed_of hl hmem ho hc, State.plainly_of hl hp⟩

theorem State.commitFloors_one (hb : b.effects = [⟨k, e⟩]) (hw : ∀ w, e ≠ .wfloor w) : u.commitFloors tid b = u := by
  unfold State.commitFloors
  rw [BlockExec.effs_one hb]
  cases e with
  | wfloor w => exact absurd rfl (hw w)
  | _ => rfl

theorem State.commitFloors_wfloor {w : Time} (hb : b.effects = [⟨k, .wfloor w⟩]) :
    u.commitFloors tid b = (u.setThread tid { u.thread tid with floor := serialMax (u.thread tid).floor w }).raiseHorizon (u.thread tid).tile
      (serialMax (u.thread tid).floor w) := by
  unfold State.commitFloors
  rw [BlockExec.effs_one hb]
  rfl

theorem State.issueStores_one (hb : b.effects = [⟨k, e⟩]) {n : Nat} (hl : e.lsid = some n) :
    u.issueStores tid b base = u.issueStore b base tid ⟨k, e⟩ := by
  simp [State.issueStores, hb, hl, sortOn, sortOn.put]

theorem State.issueStores_none (hb : b.effects = [⟨k, e⟩]) (hl : e.lsid = none) : u.issueStores tid b base = u := by
  simp [State.issueStores, hb, hl, sortOn]

theorem State.commitMx_one (hb : b.effects = [⟨k, e⟩]) {n : Nat} {m : MxEffect} (hm : e.msid = some (n, m)) : u.commitMx tid b = u.applyMx tid m := by
  simp [State.commitMx, BlockExec.mxEffects, BlockExec.effs_one hb, hm, sortOn, sortOn.put]

theorem State.commitMx_none (hb : b.effects = [⟨k, e⟩]) (hm : e.msid = none) : u.commitMx tid b = u := by
  simp [State.commitMx, BlockExec.mxEffects, BlockExec.effs_one hb, hm, sortOn]

theorem State.commitEffects_one (hb : b.effects = [⟨k, e⟩]) : u.commitEffects tid b base = u.commitEffect tid b base ⟨k, e⟩ := by
  simp [State.commitEffects, hb, sortOn, sortOn.put]

theorem State.effected_store {n : Nat} (hb : b.effects = [⟨k, e⟩]) (hl : e.lsid = some n) :
    u.effected tid b base = u.issueStore b base tid ⟨k, e⟩ := by
  have hw : ∀ w, e ≠ .wfloor w := by rintro w rfl; cases hl
  have hm : e.msid = none := by
    cases e with
    | mx => cases hl
    | _ => rfl
  have hc (v : State) : v.commitEffect tid b base ⟨k, e⟩ = v := by
    cases e with
    | store | adds | atomic | claimel | planes => rfl
    | _ => cases hl
  rw [State.effected, State.commitFloors_one hb hw, State.issueStores_one hb hl, State.commitMx_none hb hm, State.commitEffects_one hb, hc]

theorem State.effected_mx {n : Nat} {m : MxEffect} (hb : b.effects = [⟨k, .mx n m⟩]) : u.effected tid b base = u.applyMx tid m := by
  rw [State.effected, State.commitFloors_one hb (fun _ => Effect.noConfusion), State.issueStores_none hb rfl, State.commitMx_one hb rfl,
    State.commitEffects_one hb]
  rfl

theorem State.effected_wfloor {w : Time} (hb : b.effects = [⟨k, .wfloor w⟩]) :
    u.effected tid b base = (u.setThread tid { u.thread tid with floor := serialMax (u.thread tid).floor w }).raiseHorizon (u.thread tid).tile
      (serialMax (u.thread tid).floor w) := by
  rw [State.effected, State.commitFloors_wfloor hb, State.issueStores_none hb rfl, State.commitMx_none hb rfl, State.commitEffects_one hb]
  rfl

theorem State.effected_control (hb : b.effects = [⟨k, e⟩]) (hl : e.lsid = none) (hm : e.msid = none) (hw : ∀ w, e ≠ .wfloor w) :
    u.effected tid b base = u.commitEffect tid b base ⟨k, e⟩ := by
  rw [State.effected, State.commitFloors_one hb hw, State.issueStores_none hb hl, State.commitMx_none hb hm, State.commitEffects_one hb]

theorem State.effected_none (hb : b.effects = []) : u.effected tid b base = u := by
  simp [State.effected, State.commitFloors, State.issueStores, State.commitMx, State.commitEffects, BlockExec.effs, BlockExec.mxEffects, hb, sortOn]

/-! The group of the effect's deferred result. -/

theorem BlockExec.gidOf_one (hb : b.effects = [⟨k, e⟩]) : b.gidOf base k = base := by
  cases hd : e.deferred <;> simp [BlockExec.gidOf, BlockExec.groupSlots, hb, hd]

/-- The group that a deferred effect of slot `k` opens. -/
def BlockExec.groupAt (b : BlockExec) (base tid team k : Nat) (e : Effect) : Group :=
  { gid := base, tid := tid, team := team, dests := b.destsOf k, left := 0, time := none, value := none, second := none, error := none, ready := false,
    vl := e.setsVl, claim := e.isMclaim, launch := (b.raw k).any (·.op == .plaunch), setVl := none }

theorem BlockExec.groupAt_mem_begun (hb : b.effects = [⟨k, e⟩]) (hd : e.deferred = true) :
    b.groupAt s.fresh tid (s.thread tid).team k e ∈ (s.begun tid b).groups := by
  have hg : b.groupsFrom s.fresh tid (s.thread tid).team = [b.groupAt s.fresh tid (s.thread tid).team k e] := by
    simp [BlockExec.groupsFrom, BlockExec.groupSlots, hb, hd, BlockExec.gidOf, BlockExec.groupAt]
  show _ ∈ s.groups ++ b.groupsFrom s.fresh tid (s.thread tid).team
  rw [hg]
  exact List.mem_append_right _ (List.mem_singleton_self _)

theorem State.knows_of_map {t : State} {v : Word} {f : Group → Group} (hb : b.effects = [⟨k, e⟩]) (hd : e.deferred = true)
    (ht : t.groups = (s.begun tid b).groups.map f)
    (hf : ∀ g : Group, g.gid = s.fresh → (f g).gid = g.gid ∧ (f g).tid = g.tid ∧ (f g).dests = g.dests ∧ (f g).ready = true ∧ (f g).value = some v) :
    s.knows t tid b k v :=
  ⟨_, ht ▸ List.mem_map_of_mem (BlockExec.groupAt_mem_begun hb hd), hf (b.groupAt s.fresh tid (s.thread tid).team k e) rfl⟩

/-- A result known at the commit. -/
theorem State.knows_of {t : State} {v : Word} (hb : b.effects = [⟨k, e⟩]) (hd : e.deferred = true)
    (ht : t.groups = (s.begun tid b).groups.map (fun g => if g.gid = s.fresh then { g with value := some v, ready := true } else g)) :
    s.knows t tid b k v :=
  State.knows_of_map hb hd ht fun g hg => by simp [hg]

end

end Sys2Proof.Machine
end

-- ==== Proofs: requests at a commit ====
section
/-! SUPPORT. Store-class effects leave as one request with what they carry (R174, R185, R210, O32). -/
namespace Sys2Proof.Machine

/-! Requests of a block's one store-class effect. -/

/-- The request that `State.pushStore` makes. -/
def State.requestOf (s : State) (x : Issue) (kind : ReqKind) (route : Route) (compress : Bool) : StoreReq :=
  let t := s.thread x.tid
  { id := s.fresh, tid := some x.tid, who := some (s.party x.tid), team := t.team, tile := t.tile, gid := x.gid, kind := kind, route := route,
    compress := compress, w := if x.spill then x.w else joinTimes [x.w, t.spill], floor := some t.floor, dram := false, spill := x.spill, copy := none,
    home := homeOf s kind.key }

/-- `u` is `s` with one request more: threads and memory stand. -/
structure State.Requested (s u : State) (q : StoreReq) : Prop where
  threads : u.threads = s.threads
  mem : u.mem = s.mem
  stores : u.stores = s.stores ++ [q]

theorem State.storeDrops_foldl_frame (tile : Nat) (l : List Nat) (s : State) :
    (l.foldl (fun s i => s.storeDrops tile i) s).threads = s.threads ∧ (l.foldl (fun s i => s.storeDrops tile i) s).mem = s.mem ∧
      (l.foldl (fun s i => s.storeDrops tile i) s).stores = s.stores := by
  induction l generalizing s with
  | nil => exact ⟨rfl, rfl, rfl⟩
  | cons i l ih => exact ih (s.storeDrops tile i)

theorem State.requested_pushStore (s : State) (x : Issue) (kind : ReqKind) (route : Route) (compress : Bool) :
    s.Requested (s.pushStore x kind route compress) (s.requestOf x kind route compress) := by
  obtain ⟨hthreads, hmem, hstores⟩ := State.storeDrops_foldl_frame (s.thread x.tid).tile (s.requestOf x kind route compress).lines
    ({ s.tick.2 with stores := s.stores ++ [s.requestOf x kind route compress] } : State)
  exact ⟨hthreads, hmem, hstores⟩

section
variable {s u : State} {q : StoreReq}

theorem State.Requested.thread (h : s.Requested u q) (n : Nat) : u.thread n = s.thread n := congrArg (mget Thread.absent · n) h.threads
theorem State.Requested.await (h : s.Requested u q) (g : Nat) : s.Requested (u.await g) q := ⟨h.threads, h.mem, h.stores⟩

theorem State.Requested.sendPeer (h : s.Requested u q) (hq : q.route ≠ .peer) (b : BlockExec) (slot : Nat) :
    s.Requested (u.sendPeer b slot) q := by
  have : u.sendPeer b slot = u := by simp [State.sendPeer, h.stores, hq]
  rwa [this]

end

theorem State.launchTrains_nil (s : State) (t : Train) (ord : Bool) : s.launchTrains t ord [] = s := by
  simp [State.launchTrains, State.trainDests]

theorem routeOf_one (r : Route) : routeOf [r] = r := by cases r <;> rfl

theorem State.pushWrites_one (s : State) (x : Issue) (el : StoreEl) :
    s.pushWrites x [el] = s.pushStore x (.write (elCells [el])) el.route el.compress := by
  simp [State.pushWrites, groupEls, routeOf_one]

theorem State.pushFolds_one (s : State) (x : Issue) (el : FoldEl) :
    s.pushFolds x [el] = s.pushStore x (.folds [el]) el.route el.compress := by
  simp [State.pushFolds, groupEls, routeOf_one]

section
variable {s u : State} {b : BlockExec} {base tid k n : Nat}

theorem State.issueStore_st {el : StoreEl} {w : Option Time} (hst : (b.raw k).any (fun r => r.op == .st) = true) (hr : el.route = .cached) :
    u.Requested (u.issueStore b base tid ⟨k, .store n [el] w⟩)
      (u.requestOf ⟨tid, some (b.gidOf base k), w, false⟩ (.write (elCells [el])) el.route el.compress) := by
  simp only [State.issueStore, hst, if_true, hr, List.filter_cons, List.filter_nil]
  simp only [bne_iff_ne, ne_eq, reduceCtorEq, not_false_eq_true, if_true, beq_iff_eq, if_false, List.map_nil, State.threadTrains,
    State.launchTrains_nil, State.pushWrites_one]
  rw [← hr]
  exact (State.requested_pushStore ..).await _

theorem State.issueStore_adds {el : FoldEl} (hd : u.trainDest (u.thread tid).tile el.key el.route = none) :
    u.Requested (u.issueStore b base tid ⟨k, .adds n [el]⟩)
      (u.requestOf ⟨tid, some (b.gidOf base k), none, false⟩ (.folds [el]) el.route el.compress) := by
  simp only [State.issueStore, List.filter_cons, List.filter_nil, hd, Option.isSome_none, Bool.not_false, Bool.false_eq_true, if_true, if_false,
    List.map_nil, State.threadTrains, State.launchTrains_nil, State.pushFolds_one]
  exact (State.requested_pushStore ..).await _

theorem State.issueStore_atomic {op : AtomicOp} {key size : Nat} {y z : Word} {sx compress : Bool} {w : Option Time} {route : Route}
    (hr : route ≠ .peer) :
    u.Requested (u.issueStore b base tid ⟨k, .atomic n op key size y z sx w route compress⟩)
      (u.requestOf ⟨tid, some (b.gidOf base k), w, false⟩ (.atomic op key size y z sx) route compress) :=
  ((State.requested_pushStore ..).sendPeer hr b k).await _

theorem State.issueStore_planes {row : RowWrite} {w : Option Time} :
    u.Requested (u.issueStore b base tid ⟨k, .planes n [row] w⟩)
      (u.requestOf ⟨tid, some (b.gidOf base k), w, false⟩ (.row row) .cached false) :=
  (State.requested_pushStore ..).await _

theorem State.issueStore_claimel {key width : Nat} {count : Word} {route : Route} {compress : Bool} (hr : route ≠ .peer) :
    (u.setThread tid { u.thread tid with vlOut := (u.thread tid).vlOut + 1 }).Requested
      (u.issueStore b base tid ⟨k, .claimel n key width count route compress⟩)
      ((u.setThread tid { u.thread tid with vlOut := (u.thread tid).vlOut + 1 }).requestOf ⟨tid, some (b.gidOf base k), none, false⟩
        (.claimel key width count (Nat.min (u.thread tid).vlmax (u.thread tid).ceil * 32 / width)) route compress) :=
  ((State.requested_pushStore ..).sendPeer hr b k).await _

theorem State.applyMx_spill {el : StoreEl} (hr : el.route ≠ .peer) :
    u.Requested (u.applyMx tid (.spill [el] false)) (u.requestOf ⟨tid, none, none, true⟩ (.write (elCells [el])) el.route el.compress) := by
  have hin : (el.route != Route.peer) = true := by simpa using hr
  have hout : (el.route == Route.peer) = false := by simpa using hr
  simp only [State.applyMx, State.pushSpill, Bool.false_eq_true, if_false, List.filter_cons, List.filter_nil, hin, hout, if_true, List.map_nil,
    State.launchTrains_nil, State.pushWrites_one]
  exact State.requested_pushStore ..

end

/-- The committing thread's request stands behind those of before. -/
theorem State.issues_of {s p u t : State} {tid : Nat} {b : BlockExec} {a : Word} {kind : ReqKind} {route : Route} {compress : Bool} {w : Option Time}
    (hl : u.LeftFrom t tid b a) (hq : p.Requested u (p.requestOf ⟨tid, some s.fresh, w, false⟩ kind route compress)) (hp : p.stores = s.stores)
    (hs : (p.thread tid).spill = (s.thread tid).spill) (hf : (p.thread tid).floor = (s.thread tid).floor) : s.issues t tid kind route w := by
  refine ⟨_, (congrArg State.stores hl.rest).trans (hq.stores.trans (by rw [hp])), rfl, rfl, ?_, ?_, rfl, rfl⟩
  · simp [State.requestOf, hs]
  · simp [State.requestOf, hf]

section
variable {s u : State} {tid k n : Nat} {b : BlockExec} {a : Word} {e : Effect}

theorem State.begun_spill (s : State) (tid : Nat) (b : BlockExec) : ((s.begun tid b).thread tid).spill = (s.thread tid).spill := by
  simp [State.begun_thread, State.writtenThread]
theorem State.begun_floor (s : State) (tid : Nat) (b : BlockExec) : ((s.begun tid b).thread tid).floor = (s.thread tid).floor := by
  simp [State.begun_thread, State.writtenThread]
theorem State.begun_tile (s : State) (tid : Nat) (b : BlockExec) : ((s.begun tid b).thread tid).tile = (s.thread tid).tile := by
  simp [State.begun_thread, State.writtenThread]

/-- A block whose one effect leaves as one request with the thread as its register writes leave it. -/
theorem State.commit_requested {q : StoreReq} (h : s.commitsOne tid b k e a) (he : e ≠ .eret) (hm : e ≠ .mrel)
    (hq : (s.begun tid b).Requested ((s.begun tid b).effected tid b s.fresh) q) :
    ∃ t, exec (.blockCommit tid) s = .next t ∧ ((s.begun tid b).effected tid b s.fresh).LeftFrom t tid b a ∧ s.committed t tid b a ∧
      s.plainly t tid b := by
  refine State.commitsOne_plainly h he hm rfl hq.mem (fun n hn => (hq.thread n).trans (State.begun_other s b hn)) ?_ ?_ <;>
    rw [hq.thread, State.begun_thread]
  · exact ⟨rfl, rfl, rfl, rfl⟩
  · exact ⟨rfl, rfl, rfl, rfl, rfl, rfl⟩

/-- That request is the thread's, under its FLOOR. -/
theorem State.commit_issues {kind : ReqKind} {route : Route} {compress : Bool} {w : Option Time} (h : s.commitsOne tid b k e a) (hn : e.lsid = some n)
    (hq : (s.begun tid b).Requested ((s.begun tid b).issueStore b s.fresh tid ⟨k, e⟩)
      ((s.begun tid b).requestOf ⟨tid, some (b.gidOf s.fresh k), w, false⟩ kind route compress)) :
    ∃ t, exec (.blockCommit tid) s = .next t ∧ s.committed t tid b a ∧ s.plainly t tid b ∧ s.issues t tid kind route w := by
  obtain ⟨hr, hb, hx⟩ := h
  rw [BlockExec.gidOf_one hb, ← State.effected_store hb hn] at hq
  obtain ⟨t, ht, hl, hc, hp⟩ := State.commit_requested ⟨hr, hb, hx⟩ (by rintro rfl; cases hn) (by rintro rfl; cases hn) hq
  exact ⟨t, ht, hc, hp, State.issues_of hl hq rfl (State.begun_spill s tid b) (State.begun_floor s tid b)⟩

theorem State.commit_store {lsid slot : Nat} {el : StoreEl} {w : Option Time} (hr : s.commitReady tid = some b)
    (hb : b.effects = [⟨k, .store lsid [el] w⟩]) (hx : b.exit = some (slot, .goto a)) (hst : (b.raw k).any (fun r => r.op == .st) = true)
    (hc : el.route = .cached) :
    ∃ t q, exec (.blockCommit tid) s = .next t ∧ t.stores = s.stores ++ [q] ∧ q.kind = .write (elCells [el]) ∧
      q.w = joinTimes [w, (s.thread tid).spill] ∧ q.floor = some (s.thread tid).floor ∧ q.tid = some tid ∧ q.gid = some s.fresh ∧ t.mem = s.mem ∧
      (t.thread tid).pc = a := by
  obtain ⟨t, ht, ⟨hpc, -, -, -, -, hmem, -⟩, -, q, hstores, hkind, -, hw, hfloor, htid, hgid⟩ :=
    State.commit_issues ⟨hr, hb, slot, hx⟩ rfl (State.issueStore_st hst hc)
  exact ⟨t, q, ht, hstores, hkind, hw, hfloor, htid, hgid, hmem, hpc⟩

theorem State.commit_adds {el : FoldEl} (h : s.commitsOne tid b k (.adds n [el]) a) (hd : s.trainDest (s.thread tid).tile el.key el.route = none) :
    ∃ t, exec (.blockCommit tid) s = .next t ∧ s.committed t tid b a ∧ s.plainly t tid b ∧ s.issues t tid (.folds [el]) el.route none :=
  State.commit_issues h rfl (State.issueStore_adds (by rw [State.begun_tile]; exact hd))

theorem State.commit_planes {row : RowWrite} {w : Option Time} (h : s.commitsOne tid b k (.planes n [row] w) a) :
    ∃ t, exec (.blockCommit tid) s = .next t ∧ s.committed t tid b a ∧ s.plainly t tid b ∧ s.issues t tid (.row row) .cached w :=
  State.commit_issues h rfl State.issueStore_planes

theorem State.commit_atomic {op : AtomicOp} {key size : Nat} {y z : Word} {sx compress : Bool} {w : Option Time} {route : Route}
    (h : s.commitsOne tid b k (.atomic n op key size y z sx w route compress) a) (hr : route ≠ .peer) :
    ∃ t, exec (.blockCommit tid) s = .next t ∧ s.committed t tid b a ∧ s.plainly t tid b ∧ s.issues t tid (.atomic op key size y z sx) route w :=
  State.commit_issues h rfl (State.issueStore_atomic hr)

theorem State.commit_claimel {key width : Nat} {count : Word} {route : Route} {compress : Bool}
    (h : s.commitsOne tid b k (.claimel n key width count route compress) a) (hr : route ≠ .peer) :
    ∃ t, exec (.blockCommit tid) s = .next t ∧ s.committed t tid b a ∧ s.plainly t tid b ∧ (t.thread tid).vlOut = (s.thread tid).vlOut + 1 ∧
      s.issues t tid (.claimel key width count (Nat.min (s.thread tid).vlmax (s.thread tid).ceil * 32 / width)) route none := by
  have hb := h.2.1
  have hq := State.issueStore_claimel (u := s.begun tid b) (b := b) (base := s.fresh) (tid := tid) (k := k) (n := n) (key := key) (width := width)
    (count := count) (compress := compress) hr
  rw [BlockExec.gidOf_one hb, ← State.effected_store hb rfl] at hq
  have hthread := hq.thread tid
  rw [State.setThread_thread_same, State.begun_thread] at hthread
  obtain ⟨t, ht, hl, hc, hp⟩ := State.commitsOne_plainly h Effect.noConfusion Effect.noConfusion rfl hq.mem
    (fun n hn => (hq.thread n).trans ((State.setThread_thread_other _ _ hn).trans (State.begun_other s b hn)))
    (by rw [hthread]; exact ⟨rfl, rfl, rfl, rfl⟩) (by rw [hthread]; exact ⟨rfl, rfl, rfl, rfl, rfl, rfl⟩)
  have hcap : Nat.min ((s.begun tid b).thread tid).vlmax ((s.begun tid b).thread tid).ceil = Nat.min (s.thread tid).vlmax (s.thread tid).ceil := by
    simp [State.begun_thread, State.writtenThread, Thread.vlmax, Thread.groups]
  rw [hcap] at hq
  refine ⟨t, ht, hc, hp, ?_, State.issues_of hl hq rfl ?_ ?_⟩
  · rw [hl.own]
    simp [hthread, State.writtenThread]
  · simpa using State.begun_spill s tid b
  · simpa using State.begun_floor s tid b

theorem State.commit_spill {el : StoreEl} (h : s.commitsOne tid b k (.mx n (.spill [el] false)) a) (hr : el.route ≠ .peer) :
    ∃ t q, exec (.blockCommit tid) s = .next t ∧ s.committed t tid b a ∧ s.plainly t tid b ∧ t.stores = s.stores ++ [q] ∧
      q.kind = .write (elCells [el]) ∧ q.route = el.route ∧ q.w = none ∧ q.spill = true ∧ q.tid = some tid ∧ q.gid = none := by
  have hq := State.applyMx_spill (u := s.begun tid b) (tid := tid) hr
  rw [← State.effected_mx (base := s.fresh) h.2.1] at hq
  obtain ⟨t, ht, hl, hc, hp⟩ := State.commit_requested h Effect.noConfusion Effect.noConfusion hq
  exact ⟨t, _, ht, hc, hp, (congrArg State.stores hl.rest).trans hq.stores, rfl, rfl, rfl, rfl, rfl, rfl⟩

end

end Sys2Proof.Machine
end

-- ==== Proofs: matrix effects, FLOOR and invalidations ====
section
/-! SUPPORT. Effects on the claim's state, FLOOR, shadow registers, block caches and TLBs (R122, R123, R188, R202, R263, O32). -/
namespace Sys2Proof.Machine

/-! Matrix effects, the claim, engines and control. -/

section
variable {s u : State} {tid k n : Nat} {b : BlockExec} {a : Word} {e : Effect}

/-- A block whose one effect leaves threads and memory alone. -/
theorem State.commit_apart (h : s.commitsOne tid b k e a) (he : e ≠ .eret) (hm : e ≠ .mrel)
    (hu : (s.begun tid b).effected tid b s.fresh = u) (hthreads : u.threads = (s.begun tid b).threads) (hmem : u.mem = s.mem) :
    ∃ t, exec (.blockCommit tid) s = .next t ∧ u.LeftFrom t tid b a ∧ s.committed t tid b a ∧ s.plainly t tid b := by
  have hthread (n : Nat) : u.thread n = (s.begun tid b).thread n := congrArg (mget Thread.absent · n) hthreads
  refine State.commitsOne_plainly h he hm hu hmem (fun n hn => (hthread n).trans (State.begun_other s b hn)) ?_ ?_ <;>
    rw [hthread, State.begun_thread]
  · exact ⟨rfl, rfl, rfl, rfl⟩
  · exact ⟨rfl, rfl, rfl, rfl, rfl, rfl⟩

/-- A control effect runs on the state in which the block's register writes are made. -/
theorem State.effected_of_control (h : s.commitsOne tid b k e a) (hl : e.lsid = none) (hm : e.msid = none) (hw : ∀ w, e ≠ .wfloor w)
    (hu : (s.begun tid b).commitEffect tid b s.fresh ⟨k, e⟩ = u) : (s.begun tid b).effected tid b s.fresh = u :=
  (State.effected_control h.2.1 hl hm hw).trans hu

theorem State.LeftFrom.groups {t : State} (hl : u.LeftFrom t tid b a) : t.groups = u.groups := (congrArg State.groups hl.rest :)
theorem State.LeftFrom.stores {t : State} (hl : u.LeftFrom t tid b a) : t.stores = u.stores := (congrArg State.stores hl.rest :)
theorem State.LeftFrom.tiles {t : State} (hl : u.LeftFrom t tid b a) : t.tiles = u.tiles := (congrArg State.tiles hl.rest :)
theorem State.LeftFrom.clusters {t : State} (hl : u.LeftFrom t tid b a) : t.clusters = u.clusters := (congrArg State.clusters hl.rest :)
theorem State.LeftFrom.tile {t : State} (hl : u.LeftFrom t tid b a) (n : Nat) : t.tile n = u.tile n := congrArg (mget Tile.start · n) hl.tiles
theorem State.LeftFrom.cluster {t : State} (hl : u.LeftFrom t tid b a) (n : Nat) : t.cluster n = u.cluster n :=
  congrArg (mget Cluster.start · n) hl.clusters

theorem State.commit_mx {m : MxEffect} (h : s.commitsOne tid b k (.mx n m) a) (hm : ∀ els back, m ≠ .spill els back) :
    ∃ t, exec (.blockCommit tid) s = .next t ∧ s.committed t tid b a ∧ s.plainly t tid b ∧
      t.tile (s.thread tid).tile = { s.tile (s.thread tid).tile with mx := (s.tile (s.thread tid).tile).mx.apply m } ∧
      (∀ n, n ≠ (s.thread tid).tile → t.tile n = s.tile n) ∧ t.stores = s.stores := by
  have happly : (s.begun tid b).applyMx tid m = (s.begun tid b).setTile (s.thread tid).tile
      { s.tile (s.thread tid).tile with mx := (s.tile (s.thread tid).tile).mx.apply m } := by
    have htile : (s.begun tid b).tileOf tid = (s.thread tid).tile := State.begun_tile s tid b
    cases m with
    | spill els back => exact absurd rfl (hm els back)
    | _ => simp only [State.applyMx, htile]; rfl
  obtain ⟨t, ht, hl, hc, hp⟩ := State.commit_apart h Effect.noConfusion Effect.noConfusion ((State.effected_mx h.2.1).trans happly) rfl rfl
  exact ⟨t, ht, hc, hp, (hl.tile _).trans (State.setTile_tile_same ..), fun n hn => (hl.tile n).trans (State.setTile_tile_other _ _ hn), hl.stores⟩

theorem State.commit_wfloor {w : Time} (h : s.commitsOne tid b k (.wfloor w) a) :
    ∃ t, exec (.blockCommit tid) s = .next t ∧ s.committed t tid b a ∧ (t.thread tid).floor = serialMax (s.thread tid).floor w ∧
      (t.tile (s.thread tid).tile).horizon = serialMax (s.tile (s.thread tid).tile).horizon (serialMax (s.thread tid).floor w) ∧ t.stores = s.stores := by
  have hu := State.effected_wfloor (u := s.begun tid b) (tid := tid) (base := s.fresh) h.2.1
  rw [State.begun_tile, State.begun_floor, State.begun_thread] at hu
  obtain ⟨t, ht, hl⟩ := State.commitsOne_leaves h Effect.noConfusion Effect.noConfusion hu
  have hthread : (((s.begun tid b).setThread tid { s.writtenThread tid b with floor := serialMax (s.thread tid).floor w }).raiseHorizon
      (s.thread tid).tile (serialMax (s.thread tid).floor w)).thread tid =
      { s.writtenThread tid b with floor := serialMax (s.thread tid).floor w } := State.setThread_thread_same ..
  refine ⟨t, ht, State.committed_of hl rfl ?_ ?_, ?_, ?_, hl.stores⟩
  · exact fun n hn => (State.setThread_thread_other _ _ hn).trans (State.begun_other s b hn)
  · rw [hthread]; exact ⟨rfl, rfl, rfl, rfl⟩
  · rw [hl.own, hthread]
  · rw [hl.tile]
    simp [State.raiseHorizon]
    rfl

/-- A control effect that sets one of the thread's own fields. -/
theorem State.commit_own {v : Thread} (h : s.commitsOne tid b k e a) (he : e ≠ .eret) (hm : e ≠ .mrel)
    (hu : (s.begun tid b).effected tid b s.fresh = u) (hthreads : u.threads = ((s.begun tid b).setThread tid v).threads) (hmem : u.mem = s.mem)
    (hc : v.commitsAs (s.writtenThread tid b)) :
    ∃ t, exec (.blockCommit tid) s = .next t ∧ u.LeftFrom t tid b a ∧ u.thread tid = v ∧ s.committed t tid b a := by
  have hthread (n : Nat) : u.thread n = ((s.begun tid b).setThread tid v).thread n := congrArg (mget Thread.absent · n) hthreads
  have hown : u.thread tid = v := (hthread tid).trans (State.setThread_thread_same ..)
  obtain ⟨t, ht, hl⟩ := State.commitsOne_leaves h he hm hu
  exact ⟨t, ht, hl, hown, State.committed_of hl hmem
    (fun n hn => (hthread n).trans ((State.setThread_thread_other _ _ hn).trans (State.begun_other s b hn))) (hown ▸ hc)⟩

theorem State.commit_cpset {i : Nat} {v : Word} (h : s.commitsOne tid b k (.cpset i v) a) :
    ∃ t, exec (.blockCommit tid) s = .next t ∧ s.committed t tid b a ∧ s.plainly t tid b ∧
      (t.thread tid).shadow = setShadow (s.thread tid).shadow i v ∧ t.tiles = s.tiles := by
  have hu : (s.begun tid b).commitEffect tid b s.fresh ⟨k, .cpset i v⟩ = (s.begun tid b).setThread tid
      { s.writtenThread tid b with shadow := setShadow (s.thread tid).shadow i v } := by
    simp [State.commitEffect, State.begun_thread, State.writtenThread]
  obtain ⟨t, ht, hl, hown, hc⟩ := State.commit_own h Effect.noConfusion Effect.noConfusion
    (State.effected_of_control h rfl rfl (fun _ => Effect.noConfusion) hu) rfl rfl ⟨rfl, rfl, rfl, rfl⟩
  refine ⟨t, ht, hc, State.plainly_of hl (by rw [hown]; exact ⟨rfl, rfl, rfl, rfl, rfl, rfl⟩), ?_, hl.tiles⟩
  rw [hl.own, hown]

theorem State.commit_icinv (h : s.commitsOne tid b k .icinv a) :
    ∃ t, exec (.blockCommit tid) s = .next t ∧ s.committed t tid b a ∧ (t.tile (s.thread tid).tile).icache = [] ∧ (t.thread tid).flight = [] ∧
      s.plainly t tid b := by
  have hu : (s.begun tid b).commitEffect tid b s.fresh ⟨k, .icinv⟩ = (s.begun tid b).dropIcache (s.thread tid).tile := by
    rw [← State.begun_tile s tid b]; rfl
  obtain ⟨t, ht, hl, hc, hp⟩ := State.commit_apart h Effect.noConfusion Effect.noConfusion
    (State.effected_of_control h rfl rfl (fun _ => Effect.noConfusion) hu) rfl rfl
  exact ⟨t, ht, hc, by rw [hl.tile]; simp [State.dropIcache], hl.bars (by rw [BlockExec.bars, BlockExec.effs_one h.2.1]; rfl), hp⟩

theorem mget_map_field {α β : Type} {d : α} {f : α → α} {p : α → β} {g : β → β} (hf : ∀ x, p (f x) = g (p x)) (hd : p d = g (p d)) (m : NMap α) (n : Nat) :
    p (mget d (m.map (fun e => (e.1, f e.2))) n) = g (p (mget d m n)) := by
  induction m with
  | nil => exact hd
  | cons e m ih =>
    by_cases he : e.1 = n
    · simp [mget, he, hf]
    · simp [mget, he, ih]

theorem State.commit_tlbinv {va c : Word} (h : s.commitsOne tid b k (.tlbinv va c) a) :
    ∃ t, exec (.blockCommit tid) s = .next t ∧ s.committed t tid b a ∧ (∀ n, (t.tile n).tlb = (s.tile n).tlb.filter (fun e => !e.hit (tlbScope va c))) ∧
      (∀ n, (t.cluster n).tlb = (s.cluster n).tlb.filter (fun e => !e.hit (tlbScope va c))) ∧ (t.thread tid).flight = [] ∧ s.plainly t tid b := by
  obtain ⟨t, ht, hl, hc, hp⟩ := State.commit_apart h Effect.noConfusion Effect.noConfusion
    (State.effected_of_control (u := (s.begun tid b).dropTlb (tlbScope va c)) h rfl rfl (fun _ => Effect.noConfusion) rfl) rfl rfl
  refine ⟨t, ht, hc, fun n => ?_, fun n => ?_, hl.bars (by rw [BlockExec.bars, BlockExec.effs_one h.2.1]; rfl), hp⟩
  · rw [hl.tile]
    exact mget_map_field (f := fun x : Tile => { x with tlb := keepTlb (tlbScope va c) x.tlb }) (p := Tile.tlb) (g := keepTlb (tlbScope va c))
      (fun _ => rfl) rfl s.tiles n
  · rw [hl.cluster]
    exact mget_map_field (f := fun x : Cluster => { x with tlb := keepTlb (tlbScope va c) x.tlb }) (p := Cluster.tlb) (g := keepTlb (tlbScope va c))
      (fun _ => rfl) rfl s.clusters n

end

end Sys2Proof.Machine
end

-- ==== Proofs: the claim at a commit ====
section
/-! SUPPORT. MCLAIM and MREL (R197, R198, O32). -/
namespace Sys2Proof.Machine

/-! The claim, the engines and the copy queues at a commit. -/

section
variable (s : State) (tid : Nat) (b : BlockExec)
@[simp] theorem State.writtenThread_tile : (s.writtenThread tid b).tile = (s.thread tid).tile := by simp [State.writtenThread]
@[simp] theorem State.writtenThread_team : (s.writtenThread tid b).team = (s.thread tid).team := by simp [State.writtenThread]
@[simp] theorem State.writtenThread_status : (s.writtenThread tid b).status = (s.thread tid).status := by simp [State.writtenThread]
@[simp] theorem State.writtenThread_lanes : (s.writtenThread tid b).lanes = (s.thread tid).lanes := by simp [State.writtenThread]
@[simp] theorem State.writtenThread_vl : (s.writtenThread tid b).vl = (s.thread tid).vl := by simp [State.writtenThread]
@[simp] theorem State.writtenThread_ceil : (s.writtenThread tid b).ceil = (s.thread tid).ceil := by simp [State.writtenThread]
@[simp] theorem State.writtenThread_vlOut : (s.writtenThread tid b).vlOut = (s.thread tid).vlOut := by simp [State.writtenThread]
@[simp] theorem State.writtenThread_floor : (s.writtenThread tid b).floor = (s.thread tid).floor := by simp [State.writtenThread]
@[simp] theorem State.writtenThread_asid : (s.writtenThread tid b).asid = (s.thread tid).asid := by simp [State.writtenThread]
@[simp] theorem State.writtenThread_region : (s.writtenThread tid b).region = (s.thread tid).region := by simp [State.writtenThread]
@[simp] theorem State.writtenThread_supervisor : (s.writtenThread tid b).supervisor = (s.thread tid).supervisor := by simp [State.writtenThread]
@[simp] theorem State.writtenThread_vlmax : (s.writtenThread tid b).vlmax = (s.thread tid).vlmax := by simp [Thread.vlmax, Thread.groups]
theorem State.begun_tile_eq (n : Nat) : (s.begun tid b).tile n = s.tile n := rfl
theorem State.begun_party : (s.begun tid b).party tid = s.party tid := by simp [State.party, State.begun_thread]
end

section
variable {s u : State} {tid k n : Nat} {b : BlockExec} {a : Word} {e : Effect}

/-! MCLAIM (R197): the claim is the thread's already, or another's, or free. -/

/-- The thread's MCLAIM is unanswered. -/
def State.claiming (p : State) (tid : Nat) : State := p.setThread tid { p.thread tid with mclaimOut := true }

section
variable {p : State} {g : Nat} {tries : Bool}

theorem State.commitMclaim_held (hc : (p.tile (p.thread tid).tile).claimant = some tid) :
    p.commitMclaim tid g tries = (p.claiming tid).resolve g 1 := by
  simp only [State.commitMclaim, hc, if_true]
  rfl

theorem State.commitMclaim_refused {x : Nat} (hc : (p.tile (p.thread tid).tile).claimant = some x) (hx : x ≠ tid) :
    p.commitMclaim tid g true = (p.claiming tid).resolve g 0 := by
  simp only [State.commitMclaim, hc, Option.some.injEq, hx, if_false, Option.isNone_some, Bool.false_and, Bool.not_false, Bool.and_self, if_true]
  rfl

theorem State.commitMclaim_queued {x : Nat} (hc : (p.tile (p.thread tid).tile).claimant = some x) (hx : x ≠ tid) :
    p.commitMclaim tid g false = (p.claiming tid).setTile (p.thread tid).tile
      { p.tile (p.thread tid).tile with claimQ := (p.tile (p.thread tid).tile).claimQ ++ [(tid, g)] } := by
  unfold State.commitMclaim
  dsimp only
  rw [if_neg (by simp [hc, hx]), if_neg (by simp), if_neg (by simp [hc])]
  rfl

theorem State.commitMclaim_free (hc : (p.tile (p.thread tid).tile).claimant = none) (hq : (p.tile (p.thread tid).tile).claimQ = [])
    (hs : p.saved = []) :
    p.commitMclaim tid g tries = ((p.claiming tid).takeClaim (p.thread tid).tile tid).setTile (p.thread tid).tile
      { ((p.claiming tid).takeClaim (p.thread tid).tile tid).tile (p.thread tid).tile with claimQ := [(tid, g)] } := by
  have hawaited (t : Thread) (n : Nat) : (p.setThread tid t).claimAwaited n = false := by simp [State.claimAwaited, hs]
  unfold State.commitMclaim
  dsimp only
  rw [if_neg (by simp [hc]), if_neg (by simp [hc, hq, hawaited]), if_pos (by simp [hc, hq, hawaited]), hq]
  rfl

end

/-- An MCLAIM leaves the committing thread as a plain effect does. -/
theorem State.commit_mclaim {tries : Bool} (h : s.commitsOne tid b k (.mclaim tries) a)
    (hu : (s.begun tid b).commitMclaim tid s.fresh tries = u) (hthreads : u.threads = ((s.begun tid b).claiming tid).threads)
    (hmem : u.mem = s.mem) :
    ∃ t, exec (.blockCommit tid) s = .next t ∧ u.LeftFrom t tid b a ∧ s.committed t tid b a ∧ s.plainly t tid b ∧ (t.thread tid).mclaimOut = true := by
  have he : (s.begun tid b).effected tid b s.fresh = u :=
    State.effected_of_control h rfl rfl (fun _ => Effect.noConfusion)
      (show (s.begun tid b).commitMclaim tid (b.gidOf s.fresh k) tries = u by rw [BlockExec.gidOf_one h.2.1, hu])
  have hv := State.begun_thread s tid b
  obtain ⟨t, ht, hl, hown, hc⟩ := State.commit_own h Effect.noConfusion Effect.noConfusion he hthreads hmem
    (by rw [hv]; exact ⟨rfl, rfl, rfl, rfl⟩)
  refine ⟨t, ht, hl, hc, State.plainly_of hl (by rw [hown, hv]; exact ⟨rfl, rfl, rfl, rfl, rfl, rfl⟩), ?_⟩
  rw [hl.own, hown]

theorem State.commit_mclaim_held {tries : Bool} (h : s.commitsOne tid b k (.mclaim tries) a) (hc : (s.tile (s.thread tid).tile).claimant = some tid) :
    ∃ t, exec (.blockCommit tid) s = .next t ∧ s.committed t tid b a ∧ s.plainly t tid b ∧ s.knows t tid b k 1 ∧ t.tiles = s.tiles := by
  rw [← State.begun_tile s tid b] at hc
  obtain ⟨t, ht, hl, hcommit, hp, -⟩ := State.commit_mclaim h (State.commitMclaim_held hc) rfl rfl
  exact ⟨t, ht, hcommit, hp, State.knows_of h.2.1 rfl hl.groups, hl.tiles⟩

theorem State.commit_mclaim_refused {x : Nat} (h : s.commitsOne tid b k (.mclaim true) a)
    (hc : (s.tile (s.thread tid).tile).claimant = some x) (hx : x ≠ tid) :
    ∃ t, exec (.blockCommit tid) s = .next t ∧ s.committed t tid b a ∧ s.plainly t tid b ∧ s.knows t tid b k 0 ∧ t.tiles = s.tiles := by
  rw [← State.begun_tile s tid b] at hc
  obtain ⟨t, ht, hl, hcommit, hp, -⟩ := State.commit_mclaim h (State.commitMclaim_refused hc hx) rfl rfl
  exact ⟨t, ht, hcommit, hp, State.knows_of h.2.1 rfl hl.groups, hl.tiles⟩

theorem State.commit_mclaim_queued {x : Nat} (h : s.commitsOne tid b k (.mclaim false) a)
    (hc : (s.tile (s.thread tid).tile).claimant = some x) (hx : x ≠ tid) :
    ∃ t, exec (.blockCommit tid) s = .next t ∧ s.committed t tid b a ∧ s.plainly t tid b ∧ (t.thread tid).mclaimOut = true ∧
      t.tile (s.thread tid).tile = { s.tile (s.thread tid).tile with claimQ := (s.tile (s.thread tid).tile).claimQ ++ [(tid, s.fresh)] } := by
  have hqueued := State.commitMclaim_queued (p := s.begun tid b) (g := s.fresh) (tid := tid) (x := x) (by rw [State.begun_tile]; exact hc) hx
  rw [State.begun_tile] at hqueued
  obtain ⟨t, ht, hl, hcommit, hp, hout⟩ := State.commit_mclaim h hqueued rfl rfl
  exact ⟨t, ht, hcommit, hp, hout, (hl.tile _).trans (State.setTile_tile_same ..)⟩

theorem State.commit_mclaim_free {tries : Bool} (h : s.commitsOne tid b k (.mclaim tries) a)
    (hc : (s.tile (s.thread tid).tile).claimant = none) (hq : (s.tile (s.thread tid).tile).claimQ = []) (hs : s.saved = []) :
    ∃ t, exec (.blockCommit tid) s = .next t ∧ s.committed t tid b a ∧ s.plainly t tid b ∧ (t.tile (s.thread tid).tile).claimant = some tid ∧
      (t.tile (s.thread tid).tile).mx = MxState.grant ∧ (t.tile (s.thread tid).tile).claimQ = [(tid, s.fresh)] ∧
      ∀ n, n ≠ (s.thread tid).tile → t.tile n = s.tile n := by
  have hfree := State.commitMclaim_free (p := s.begun tid b) (g := s.fresh) (tid := tid) (tries := tries) (by rw [State.begun_tile]; exact hc)
    (by rw [State.begun_tile]; exact hq) hs
  rw [State.begun_tile] at hfree
  obtain ⟨t, ht, hl, hcommit, hp, -⟩ := State.commit_mclaim h hfree rfl rfl
  refine ⟨t, ht, hcommit, hp, ?_, ?_, ?_, fun n hn => ?_⟩
  · rw [hl.tile, State.setTile_tile_same]; simp [State.takeClaim]
  · rw [hl.tile, State.setTile_tile_same]; simp [State.takeClaim]
  · rw [hl.tile, State.setTile_tile_same]
  · rw [hl.tile, State.setTile_tile_other _ _ hn]
    exact State.setTile_tile_other _ _ hn

/-! MREL (R198): FFLAGS are merged beside the release of the claim. -/

theorem State.claimed_tile_same (p : State) (tile tid : Nat) :
    (p.claimed tile tid).tile tile = { p.tile tile with claimQ := (p.tile tile).claimQ.filter (·.1 != tid) } := State.setTile_tile_same ..
theorem State.claimed_tile_other (p : State) {tile n : Nat} (tid : Nat) (h : n ≠ tile) : (p.claimed tile tid).tile n = p.tile n :=
  State.setTile_tile_other _ _ h

theorem State.releaseClaim_held {p : State} {tile : Nat} (hc : (p.tile tile).claimant = some tid) :
    p.releaseClaim tile tid = (p.setTile tile { p.tile tile with claimant := none, mx := MxState.grant }).claimed tile tid := by
  simp only [State.releaseClaim, hc, if_true]

theorem State.flagged_of_mrel {p : State} (hm : mrelLast b = true) (hu : p.releaseClaim (p.thread tid).tile tid = u) (ht : u.threads = p.threads)
    (hc : (p.tile (p.thread tid).tile).claimant = some tid) :
    p.flagged tid b = u.setThread tid { u.thread tid with fflags := fflagsAfter (u.thread tid).fflags none b.flags } := by
  have hthread : u.thread tid = p.thread tid := congrArg (mget Thread.absent · tid) ht
  have hc' : ((p.setThread tid { p.thread tid with fflags := fflagsAfter (p.thread tid).fflags none b.flags }).tile (p.thread tid).tile).claimant =
      some tid := hc
  rw [hthread, ← hu, State.releaseClaim_held hc]
  simp only [State.flagged, hm, if_true, State.setThread_thread_same]
  rw [State.releaseClaim_held hc']
  rfl

theorem State.commit_mrel (h : s.commitsOne tid b k .mrel a) (hc : (s.tile (s.thread tid).tile).claimant = some tid) :
    ∃ t, exec (.blockCommit tid) s = .next t ∧ s.committed t tid b a ∧ s.plainly t tid b ∧ (t.tile (s.thread tid).tile).claimant = none ∧
      (t.tile (s.thread tid).tile).mx = MxState.grant ∧ ∀ n, n ≠ (s.thread tid).tile → t.tile n = s.tile n := by
  obtain ⟨hr, hb, slot, hx⟩ := h
  have he : (s.begun tid b).effected tid b s.fresh = s.begun tid b := State.effected_control hb rfl rfl fun _ => Effect.noConfusion
  have hclaim : ((s.begun tid b).tile ((s.begun tid b).thread tid).tile).claimant = some tid := by rw [State.begun_tile]; exact hc
  have hrel := State.releaseClaim_held hclaim
  have hflag := State.flagged_of_mrel (by rw [mrelLast, BlockExec.effs_one hb]; rfl) hrel rfl hclaim
  rw [State.begun_tile] at hflag
  obtain ⟨t, ht, hl⟩ := State.exec_leaves hr hx (BlockExec.erets_one hb Effect.noConfusion) (by rw [he]; exact hflag)
  have hcommits : ((s.begun tid b).thread tid).commitsAs (s.writtenThread tid b) := by
    rw [State.begun_thread]; exact ⟨rfl, rfl, rfl, rfl⟩
  have hplain : ((s.begun tid b).thread tid).plainAs (s.writtenThread tid b) := by
    rw [State.begun_thread]; exact ⟨rfl, rfl, rfl, rfl, rfl, rfl⟩
  refine ⟨t, ht, State.committed_of hl rfl (fun n hn => (State.begun_other s b hn : _)) hcommits, State.plainly_of hl hplain, ?_, ?_, fun n hn => ?_⟩
  · rw [hl.tile, State.claimed_tile_same, State.setTile_tile_same]
  · rw [hl.tile, State.claimed_tile_same, State.setTile_tile_same]
  · rw [hl.tile, State.claimed_tile_other _ _ hn]
    exact State.setTile_tile_other _ _ hn

end

end Sys2Proof.Machine
end

-- ==== Proofs: engines and grants at a commit ====
section
/-! SUPPORT. Locks, launches, copies, SETVL and LCLAIM (R125, R243 to R249, R263 to R272, O32). -/
namespace Sys2Proof.Machine

/-! Locks, launches and copies at a commit (R243 to R249, R263 to R272). -/

section
variable {s u : State} {tid k n : Nat} {b : BlockExec} {a : Word} {e : Effect}

theorem State.commit_punlock {runs : List RowRun} (h : s.commitsOne tid b k (.punlock runs) a) :
    ∃ t, exec (.blockCommit tid) s = .next t ∧ s.committed t tid b a ∧ s.plainly t tid b ∧
      t.cluster (runsCluster runs) = (s.cluster (runsCluster runs)).release (s.party tid) runs ∧ ∀ n, n ≠ runsCluster runs → t.cluster n = s.cluster n := by
  have hu : (s.begun tid b).commitEffect tid b s.fresh ⟨k, .punlock runs⟩ =
      (s.begun tid b).releaseRows (runsCluster runs) (s.party tid) runs := by
    rw [← State.begun_party s tid b]; rfl
  obtain ⟨t, ht, hl, hc, hp⟩ := State.commit_apart h Effect.noConfusion Effect.noConfusion
    (State.effected_of_control h rfl rfl (fun _ => Effect.noConfusion) hu) rfl rfl
  exact ⟨t, ht, hc, hp, (hl.cluster _).trans (State.setCluster_cluster_same ..),
    fun n hn => (hl.cluster n).trans (State.setCluster_cluster_other _ _ hn)⟩

theorem State.commit_plock {runs : List RowRun} {wr tries : Bool} {c : Nat} {d r : Word} (h : s.commitsOne tid b k (.plock runs wr tries c d r) a) :
    ∃ t q, exec (.blockCommit tid) s = .next t ∧ s.committed t tid b a ∧ s.plainly t tid b ∧
      t.cluster c = { s.cluster c with lockReqs := (s.cluster c).lockReqs ++ [q] } ∧ q.lock = ⟨s.party tid, wr, runs, d, r, []⟩ ∧ q.tries = tries ∧
      q.gid = some s.fresh ∧ ∀ n, n ≠ c → t.cluster n = s.cluster n := by
  have hu : (s.begun tid b).commitEffect tid b s.fresh ⟨k, .plock runs wr tries c d r⟩ =
      (s.begun tid b).requestLock tid s.fresh runs wr tries c d r := by
    show (s.begun tid b).requestLock tid (b.gidOf s.fresh k) runs wr tries c d r = _
    rw [BlockExec.gidOf_one h.2.1]
  obtain ⟨t, ht, hl, hc, hp⟩ := State.commit_apart h Effect.noConfusion Effect.noConfusion
    (State.effected_of_control h rfl rfl (fun _ => Effect.noConfusion) hu) rfl rfl
  refine ⟨t, ⟨(s.begun tid b).fresh, ⟨s.party tid, wr, runs, d, r, []⟩, tries, c, some s.fresh, none⟩, ht, hc, hp, ?_, rfl, rfl, rfl, fun n hn => ?_⟩
  · rw [hl.cluster, ← State.begun_party s tid b]
    exact State.setCluster_cluster_same ..
  · rw [hl.cluster]
    exact State.setCluster_cluster_other _ _ hn

theorem State.commit_plaunch {l : Launch} (h : s.commitsOne tid b k (.plaunch l) a) :
    ∃ t o, exec (.blockCommit tid) s = .next t ∧ s.committed t tid b a ∧ s.plainly t tid b ∧ s.knows t tid b k (opHandle l.cluster (s.cluster l.cluster).opSeq) ∧
      t.cluster l.cluster = { s.cluster l.cluster with opSeq := (s.cluster l.cluster).opSeq + 1, ops := (s.cluster l.cluster).ops ++ [o] } ∧
      o.seq = (s.cluster l.cluster).opSeq ∧ o.owner = s.party tid ∧ o.launch = { l with floor := (s.thread tid).floor } ∧ o.state = .queued ∧
      ∀ n, n ≠ l.cluster → t.cluster n = s.cluster n := by
  have hu : (s.begun tid b).commitEffect tid b s.fresh ⟨k, .plaunch l⟩ =
      ((s.begun tid b).acceptLaunch (s.party tid) { l with floor := (s.thread tid).floor } none).resolve s.fresh
        (opHandle l.cluster (s.cluster l.cluster).opSeq) := by
    show (State.acceptLaunch _ _ _ none).resolve (b.gidOf s.fresh k) _ = _
    rw [BlockExec.gidOf_one h.2.1, State.begun_party, State.begun_floor]
    rfl
  obtain ⟨t, ht, hl, hc, hp⟩ := State.commit_apart h Effect.noConfusion Effect.noConfusion
    (State.effected_of_control h rfl rfl (fun _ => Effect.noConfusion) hu) rfl rfl
  exact ⟨t, _, ht, hc, hp, State.knows_of h.2.1 rfl hl.groups, (hl.cluster _).trans (State.setCluster_cluster_same ..), rfl, rfl, rfl, rfl,
    fun n hn => (hl.cluster n).trans (State.setCluster_cluster_other _ _ hn)⟩

theorem State.setCopyQueue_same (p : State) (tile q : Nat) (c : CopyQueue) : (p.setCopyQueue tile q c).copyQueue tile q = c := by
  simp [State.setCopyQueue, State.copyQueue, mget_mset_same]
theorem State.setCopyQueue_tile_other (p : State) {tile n : Nat} (q : Nat) (c : CopyQueue) (h : n ≠ tile) :
    (p.setCopyQueue tile q c).tile n = p.tile n := State.setTile_tile_other _ _ h

theorem State.LeftFrom.copyQueue {t : State} (hl : u.LeftFrom t tid b a) (n q : Nat) : t.copyQueue n q = u.copyQueue n q :=
  congrArg (fun x : Tile => mget CopyQueue.empty x.queues q) (hl.tile n)

theorem State.commit_cpgo {v : NMap Word} (h : s.commitsOne tid b k (.cpgo v) a) :
    ∃ t, exec (.blockCommit tid) s = .next t ∧ s.committed t tid b a ∧ s.plainly t tid b ∧
      (t.copyQueue (s.thread tid).tile (Shadow.queue v)).entries = (s.copyQueue (s.thread tid).tile (Shadow.queue v)).entries ++
        [copyEntry (s.copyQueue (s.thread tid).tile (Shadow.queue v)).nextSeq (.thread (s.party tid)) (s.thread tid).asid (s.thread tid).supervisor
          (s.thread tid).region (s.thread tid).floor v none []] ∧
      s.knows t tid b k (BitVec.ofNat 64 (transferId (s.thread tid).tile (Shadow.queue v) (s.copyQueue (s.thread tid).tile (Shadow.queue v)).nextSeq)) ∧
      ∀ n, n ≠ (s.thread tid).tile → t.tile n = s.tile n := by
  have hu : (s.begun tid b).commitEffect tid b s.fresh ⟨k, .cpgo v⟩ =
      ((s.begun tid b).enqueueCopy (s.thread tid).tile (.thread (s.party tid)) (s.thread tid).asid (s.thread tid).supervisor (s.thread tid).region
        (s.thread tid).floor v).1.resolve s.fresh
        (BitVec.ofNat 64 (transferId (s.thread tid).tile (Shadow.queue v) (s.copyQueue (s.thread tid).tile (Shadow.queue v)).nextSeq)) := by
    show (State.enqueueCopy _ _ _ _ _ _ _ v).1.resolve (b.gidOf s.fresh k) (State.enqueueCopy _ _ _ _ _ _ _ v).2 = _
    rw [BlockExec.gidOf_one h.2.1, State.begun_party]
    simp only [State.begun_thread, State.writtenThread_tile, State.writtenThread_asid, State.writtenThread_supervisor, State.writtenThread_region,
      State.writtenThread_floor]
    rfl
  obtain ⟨t, ht, hl, hc, hp⟩ := State.commit_apart h Effect.noConfusion Effect.noConfusion
    (State.effected_of_control h rfl rfl (fun _ => Effect.noConfusion) hu) rfl rfl
  refine ⟨t, ht, hc, hp, ?_, State.knows_of h.2.1 rfl hl.groups, fun n hn => (hl.tile n).trans (State.setCopyQueue_tile_other _ _ _ hn)⟩
  rw [hl.copyQueue]
  exact congrArg CopyQueue.entries (State.setCopyQueue_same ..)

/-- The entry of a CPQF: it waits for the entries now in the masked queues. -/
def State.fenceEntry (p : State) (tid : Nat) (m : BitVec 8) : CopyEntry :=
  let t := p.thread tid
  copyEntry (2 ^ 40 + p.fresh) (.thread (p.party tid)) t.asid t.supervisor t.region t.floor [] (some m)
    (((List.range 8).filter (fun j => m.getLsbD j)).flatMap (fun j => (p.copyQueue t.tile j).entries.map (fun e => (j, e.seq))))

theorem State.enqueueFence_entries (p : State) (tid q : Nat) (m : BitVec 8) :
    ((p.enqueueFence tid q m).copyQueue (p.thread tid).tile q).entries = (p.copyQueue (p.thread tid).tile q).entries ++ [p.fenceEntry tid m] :=
  congrArg CopyQueue.entries (State.setCopyQueue_same ..)

theorem State.commit_cpqf {q : Nat} {m : BitVec 8} (h : s.commitsOne tid b k (.cpqf q m) a) :
    ∃ t e, exec (.blockCommit tid) s = .next t ∧ s.committed t tid b a ∧ s.plainly t tid b ∧
      (t.copyQueue (s.thread tid).tile q).entries = (s.copyQueue (s.thread tid).tile q).entries ++ [e] ∧ e.fence = some m ∧ e.owner = .thread (s.party tid) ∧
      e.watch = ((List.range 8).filter (fun j => m.getLsbD j)).flatMap (fun j => (s.copyQueue (s.thread tid).tile j).entries.map (fun e => (j, e.seq))) ∧
      ∀ n, n ≠ (s.thread tid).tile → t.tile n = s.tile n := by
  obtain ⟨t, ht, hl, hc, hp⟩ := State.commit_apart h Effect.noConfusion Effect.noConfusion
    (State.effected_of_control (u := (s.begun tid b).enqueueFence tid q m) h rfl rfl (fun _ => Effect.noConfusion) rfl) rfl rfl
  have hentries := State.enqueueFence_entries (s.begun tid b) tid q m
  refine ⟨t, (s.begun tid b).fenceEntry tid m, ht, hc, hp, ?_, rfl, ?_, ?_, fun n hn => ?_⟩
  · rw [State.begun_tile] at hentries
    rw [hl.copyQueue, hentries]
    rfl
  · rw [← State.begun_party s tid b]; rfl
  · rw [← State.begun_tile s tid b]; rfl
  · rw [← State.begun_tile s tid b] at hn
    exact (hl.tile n).trans (State.setCopyQueue_tile_other _ _ _ hn)

theorem State.commit_cpabort {w : Word} (h : s.commitsOne tid b k (.cpabort w) a) :
    ∃ t, exec (.blockCommit tid) s = .next t ∧ s.committed t tid b a ∧ s.plainly t tid b ∧ t.tiles = (s.abortCopy (s.thread tid).asid w).tiles ∧
      t.saved = (s.abortCopy (s.thread tid).asid w).saved := by
  have hu : (s.begun tid b).commitEffect tid b s.fresh ⟨k, .cpabort w⟩ = (s.begun tid b).abortCopy (s.thread tid).asid w := by
    show (s.begun tid b).abortCopy ((s.begun tid b).thread tid).asid w = _
    rw [State.begun_thread, State.writtenThread_asid]
  obtain ⟨t, ht, hl, hc, hp⟩ := State.commit_apart h Effect.noConfusion Effect.noConfusion
    (State.effected_of_control h rfl rfl (fun _ => Effect.noConfusion) hu) rfl rfl
  exact ⟨t, ht, hc, hp, hl.tiles, (congrArg State.saved hl.rest :)⟩

/-! SETVL and LCLAIM (R125). -/

theorem State.replaceDoubled_none {p : State} (h : (p.thread tid).lanes &&& (p.tile (p.thread tid).tile).doubled = 0) : p.replaceDoubled tid = p := by
  have hnil : groupList 0 = [] := by decide
  unfold State.replaceDoubled
  dsimp only
  rw [h, hnil]
  rfl

theorem State.commit_setvl {n w : Nat} (h : s.commitsOne tid b k (.setvl n w) a)
    (hd : (s.thread tid).lanes &&& (s.tile (s.thread tid).tile).doubled = 0) :
    ∃ t, exec (.blockCommit tid) s = .next t ∧ s.committed t tid b a ∧
      (t.thread tid).vl = Nat.min n (Nat.min (s.thread tid).vlmax (s.thread tid).ceil * 32 / w) ∧ (t.thread tid).vlOut = (s.thread tid).vlOut + 1 ∧
      (t.thread tid).lanes = (s.thread tid).lanes ∧
      s.knows t tid b k (BitVec.ofNat 64 (Nat.min n (Nat.min (s.thread tid).vlmax (s.thread tid).ceil * 32 / w))) := by
  have hu : (s.begun tid b).commitEffect tid b s.fresh ⟨k, .setvl n w⟩ =
      ((s.begun tid b).setThread tid { s.writtenThread tid b with
        vl := Nat.min n (Nat.min (s.thread tid).vlmax (s.thread tid).ceil * 32 / w), vlOut := (s.thread tid).vlOut + 1 }).resolve s.fresh
        (BitVec.ofNat 64 (Nat.min n (Nat.min (s.thread tid).vlmax (s.thread tid).ceil * 32 / w))) := by
    show (s.begun tid b).commitSetvl tid (b.gidOf s.fresh k) n w = _
    rw [BlockExec.gidOf_one h.2.1, State.commitSetvl, State.replaceDoubled_none (by simpa [State.begun_thread, State.begun_tile_eq] using hd), State.begun_thread]
    simp only [State.writtenThread_vlmax, State.writtenThread_ceil, State.writtenThread_vlOut]
  obtain ⟨t, ht, hl, hown, hc⟩ := State.commit_own h Effect.noConfusion Effect.noConfusion
    (State.effected_of_control h rfl rfl (fun _ => Effect.noConfusion) hu) rfl rfl ⟨rfl, rfl, rfl, rfl⟩
  have hthread := hl.own
  rw [hown] at hthread
  refine ⟨t, ht, hc, ?_, ?_, ?_, State.knows_of h.2.1 rfl hl.groups⟩
  · rw [hthread]
  · rw [hthread]
  · rw [hthread]; simp

theorem State.regrantTo_thread (p : State) (tid : Nat) (lanes : BitVec 16) :
    (p.regrantTo tid lanes).thread tid = (p.thread tid).regrant lanes := State.setThread_thread_same ..

theorem State.commitLclaim_alone {p : State} {g n : Nat} (hd : (p.thread tid).lanes &&& (p.tile (p.thread tid).tile).doubled = 0) (hw : p.waiting = []) :
    p.commitLclaim tid g n =
      ((p.regrantTo tid (lclaimGrant (p.thread tid).lanes (p.tile (p.thread tid).tile).free n)).setThread tid
        { (p.thread tid).regrant (lclaimGrant (p.thread tid).lanes (p.tile (p.thread tid).tile).free n) with vlOut := (p.thread tid).vlOut + 1 }).resolve g
        ((lclaimGrant (p.thread tid).lanes (p.tile (p.thread tid).tile).free n).setWidth 64) := by
  rw [State.commitLclaim, State.replaceDoubled_none hd]
  dsimp only
  rw [State.renegotiate_idle (by exact hw), State.regrantTo_thread]
  rfl

theorem State.commit_lclaim {n : Nat} (h : s.commitsOne tid b k (.lclaim n) a)
    (hd : (s.thread tid).lanes &&& (s.tile (s.thread tid).tile).doubled = 0) (hw : s.waiting = []) :
    ∃ t, exec (.blockCommit tid) s = .next t ∧ s.committed t tid b a ∧
      (t.thread tid).lanes = lclaimGrant (s.thread tid).lanes (s.tile (s.thread tid).tile).free n ∧
      (t.thread tid).vl = Nat.min (s.thread tid).vl (256 * groupsOf (lclaimGrant (s.thread tid).lanes (s.tile (s.thread tid).tile).free n)) ∧
      (t.thread tid).vlOut = (s.thread tid).vlOut + 1 ∧
      s.knows t tid b k ((lclaimGrant (s.thread tid).lanes (s.tile (s.thread tid).tile).free n).setWidth 64) := by
  have hu : (s.begun tid b).commitEffect tid b s.fresh ⟨k, .lclaim n⟩ = (s.begun tid b).commitLclaim tid s.fresh n := by
    show (s.begun tid b).commitLclaim tid (b.gidOf s.fresh k) n = _
    rw [BlockExec.gidOf_one h.2.1]
  have halone := State.commitLclaim_alone (p := s.begun tid b) (tid := tid) (g := s.fresh) (n := n) (by simpa [State.begun_thread, State.begun_tile_eq] using hd) hw
  rw [State.begun_thread, State.writtenThread_lanes, State.writtenThread_tile, State.writtenThread_vlOut] at halone
  obtain ⟨t, ht, hl⟩ := State.commitsOne_leaves h Effect.noConfusion Effect.noConfusion
    (State.effected_of_control h rfl rfl (fun _ => Effect.noConfusion) (hu.trans halone))
  have hown (g : Nat) (w : Word) (p : State) (v : Thread) : ((p.setThread tid v).resolve g w).thread tid = v := State.setThread_thread_same ..
  have hother (p : State) (g : Nat) (w : Word) (v : Thread) (lanes : BitVec 16) (n : Nat) (hn : n ≠ tid) :
      (((p.regrantTo tid lanes).setThread tid v).resolve g w).thread n = p.thread n := by
    refine (State.setThread_thread_other _ _ hn).trans ((State.setThread_thread_other _ _ hn).trans rfl)
  have hthread := hl.own
  rw [hown] at hthread
  refine ⟨t, ht, State.committed_of hl rfl (fun n hn => ?_) ?_, ?_, ?_, ?_, State.knows_of h.2.1 rfl hl.groups⟩
  · rw [hother _ _ _ _ _ n hn, State.begun_other s b hn]
  · rw [hown]; exact ⟨rfl, rfl, rfl, rfl⟩
  · rw [hthread]; rfl
  · rw [hthread]
    show Nat.min (s.writtenThread tid b).vl _ = _
    rw [State.writtenThread_vl]; rfl
  · rw [hthread]

end

end Sys2Proof.Machine
end

-- ==== Proofs: barriers and ERET at a commit ====
section
/-! SUPPORT. BAR that waits, BAR that releases, and ERET (R116, R193, R194, O32). -/
namespace Sys2Proof.Machine

/-! BAR and ERET at a commit (R116, R193, R194). -/

/-- A barrier with one arrival more; the first one sets its count. -/
def Barrier.joined (b : Barrier) (n tid : Nat) (w : Word) (g : Nat) : Barrier :=
  { b with count := if b.arrivals.isEmpty then n else b.count, arrivals := b.arrivals ++ [(tid, w, g)] }

def Team.joined (x : Team) (id n tid : Nat) (w : Word) (g : Nat) : Team :=
  { x with barriers := mset Barrier.empty x.barriers id ((mget Barrier.empty x.barriers id).joined n tid w g) }

/-- The thread has arrived at the barrier, which has not released yet. -/
def State.arrived (p : State) (tid : Nat) (x : Team) (id n : Nat) (w : Word) (g : Nat) : State :=
  (p.setTeam (x.joined id n tid w g)).setThread tid { p.thread tid with barred := (p.thread tid).barred ++ [id] }

theorem Team.joined_barrier (x : Team) (id n tid : Nat) (w : Word) (g : Nat) :
    mget Barrier.empty (x.joined id n tid w g).barriers id = (mget Barrier.empty x.barriers id).joined n tid w g := mget_mset_same _ _ _ _

theorem State.teamOf_id {p : State} {t : Thread} {x : Team} (h : p.teamOf t = some x) : x.id = t.team := by
  simpa using List.find?_some h

theorem Team.running_congr {x y : Team} {s u : State} (hm : y.members = x.members) (hi : y.id = x.id) (hs : u.saved = s.saved)
    (ht : ∀ n, (u.thread n).team = (s.thread n).team ∧ (u.thread n).status = (s.thread n).status) : y.running u = x.running s := by
  unfold Team.running
  rw [hm, hi, hs]
  congr 2
  funext i
  rw [(ht i).1, (ht i).2]

theorem find?_setTeam {l : List Team} {x y : Team} (hi : y.id = x.id) (h : l.find? (·.id == x.id) = some x) :
    (l.map (fun z => if z.id == y.id then y else z)).find? (·.id == x.id) = some y := by
  induction l with
  | nil => cases h
  | cons z l ih =>
    by_cases hz : z.id = x.id
    · simp [hz, hi]
    · rw [List.find?_cons_of_neg (by simpa using hz)] at h
      simpa [hz, hi] using ih h

section
variable {p : State} {tid id n g : Nat} {w : Word} {x : Team}

theorem State.commitBar_eq (hx : p.teamOf (p.thread tid) = some x) :
    p.commitBar tid g id n w = (p.arrived tid x id n w g).releaseBarrier x.id id := by
  unfold State.commitBar
  dsimp only
  rw [hx]
  rfl

theorem State.find_arrived (hx : p.teamOf (p.thread tid) = some x) :
    (p.arrived tid x id n w g).teams.find? (·.id == x.id) = some (x.joined id n tid w g) := by
  refine find?_setTeam rfl ?_
  rw [State.teamOf_id hx]
  exact hx

theorem State.arrived_same : (p.arrived tid x id n w g).thread tid = { p.thread tid with barred := (p.thread tid).barred ++ [id] } :=
  State.setThread_thread_same ..
theorem State.arrived_other {k : Nat} (h : k ≠ tid) : (p.arrived tid x id n w g).thread k = p.thread k := State.setThread_thread_other _ _ h

theorem State.running_arrived : (x.joined id n tid w g).running (p.arrived tid x id n w g) = x.running p := by
  refine Team.running_congr rfl rfl rfl fun k => ?_
  by_cases hk : k = tid
  · subst hk; rw [State.arrived_same]; exact ⟨rfl, rfl⟩
  · rw [State.arrived_other hk]; exact ⟨rfl, rfl⟩

theorem State.releaseBarrier_waits {team : Nat} (hx : p.teams.find? (·.id == team) = some x)
    (hlt : (mget Barrier.empty x.barriers id).arrivals.length < Nat.min (mget Barrier.empty x.barriers id).count (x.running p)) :
    p.releaseBarrier team id = p := by
  unfold State.releaseBarrier
  rw [hx]
  dsimp only
  rw [if_pos (by simp [hlt])]

/-- The barrier's state and the result once its only arrival releases it. -/
def State.unbarred (p : State) (x : Team) (id g : Nat) (w : Word) : State :=
  let b := mget Barrier.empty x.barriers id
  let s := p.setTeam { x with barriers := mset Barrier.empty x.barriers id { gen := b.gen + 1, count := 0, arrivals := [] } }
  { s with groups := s.groups.map (fun (y : Group) => if g = y.gid then { y with left := 0, value := some w, ready := true } else y) }

/-- The thread goes on from a barrier; a time witness raises its FLOOR. -/
def Thread.unbarred (t : Thread) (id : Nat) (w : Word) : Thread :=
  { t with barred := t.barred.filter (· != id), floor := if wKind w = 0 then serialMax t.floor (wTime w) else t.floor }

theorem State.resaveBarrier_none (h : p.saved = []) (team : Nat) : p.resaveBarrier tid team w = p := by
  simp [State.resaveBarrier, h]

theorem State.releaseBarrier_alone (hx : p.teams.find? (·.id == x.id) = some x)
    (hb : (mget Barrier.empty x.barriers id).arrivals = [(tid, w, g)])
    (hle : Nat.min (mget Barrier.empty x.barriers id).count (x.running p) ≤ 1) (hs : p.saved = []) (hteam : (p.thread tid).team = x.id)
    (hlive : (p.thread tid).status ≠ .absent) :
    p.releaseBarrier x.id id = ((p.unbarred x id g w).setThread tid ((p.thread tid).unbarred id w)).raiseHorizonW x.tile w := by
  have hupd : ((p.unbarred x id g w).updThread tid x.id (fun t => t.unbarred id w)) = (p.unbarred x id g w).setThread tid ((p.thread tid).unbarred id w) := by
    unfold State.updThread
    rw [if_pos (show _ = true by
      rw [show (p.unbarred x id g w).thread tid = p.thread tid from rfl]
      simp [hteam, hlive])]
    rfl
  unfold State.releaseBarrier
  rw [hx]
  dsimp only
  rw [hb, if_neg (by simpa [or_iff_not_imp_left] using hle)]
  simp only [List.any_cons, List.any_nil, Bool.or_false, decide_eq_true_eq, List.foldl_cons, List.foldl_nil]
  refine congrArg (fun u : State => u.raiseHorizonW x.tile w) (Eq.trans ?_ hupd)
  exact State.resaveBarrier_none (by rw [State.updThread]; split <;> simp [State.setTeam, hs]) x.id

theorem State.raiseHorizonW_frame (tile : Nat) :
    (p.raiseHorizonW tile w).threads = p.threads ∧ (p.raiseHorizonW tile w).mem = p.mem ∧ (p.raiseHorizonW tile w).groups = p.groups := by
  unfold State.raiseHorizonW
  split
  · exact ⟨rfl, rfl, rfl⟩
  · exact ⟨rfl, rfl, rfl⟩

end

section
variable {s : State} {tid k id n : Nat} {b : BlockExec} {a w : Word} {x : Team}

theorem State.begun_teamOf (hx : s.teamOf (s.thread tid) = some x) : (s.begun tid b).teamOf ((s.begun tid b).thread tid) = some x := by
  rw [State.begun_thread, State.teamOf, State.writtenThread_team]
  exact hx

theorem State.running_begun : x.running (s.begun tid b) = x.running s := by
  refine Team.running_congr rfl rfl rfl fun m => ?_
  by_cases hm : m = tid
  · subst hm; rw [State.begun_thread]; simp
  · rw [State.begun_other s b hm]; exact ⟨rfl, rfl⟩

theorem State.effected_bar (h : s.commitsOne tid b k (.bar id n w) a) (hx : s.teamOf (s.thread tid) = some x) :
    (s.begun tid b).effected tid b s.fresh = ((s.begun tid b).arrived tid x id n w s.fresh).releaseBarrier x.id id := by
  refine State.effected_of_control h rfl rfl (fun _ => Effect.noConfusion) ?_
  show (s.begun tid b).commitBar tid (b.gidOf s.fresh k) id n w = _
  rw [BlockExec.gidOf_one h.2.1, State.commitBar_eq (State.begun_teamOf hx)]

theorem State.commit_bar_waits (h : s.commitsOne tid b k (.bar id n w) a) (hx : s.teamOf (s.thread tid) = some x)
    (hlt : (mget Barrier.empty x.barriers id).arrivals.length + 1 <
      Nat.min (if (mget Barrier.empty x.barriers id).arrivals = [] then n else (mget Barrier.empty x.barriers id).count) (x.running s)) :
    ∃ t y, exec (.blockCommit tid) s = .next t ∧ s.committed t tid b a ∧ y ∈ t.teams ∧ y.id = x.id ∧
      (mget Barrier.empty y.barriers id).arrivals = (mget Barrier.empty x.barriers id).arrivals ++ [(tid, w, s.fresh)] ∧
      id ∈ (t.thread tid).barred ∧ (t.thread tid).flight = [] ∧ s.plainly t tid b := by
  have hfind := State.find_arrived (id := id) (n := n) (g := s.fresh) (w := w) (State.begun_teamOf (b := b) hx)
  have hwaits : ((s.begun tid b).arrived tid x id n w s.fresh).releaseBarrier x.id id = (s.begun tid b).arrived tid x id n w s.fresh := by
    refine State.releaseBarrier_waits hfind ?_
    rw [Team.joined_barrier, State.running_arrived, State.running_begun]
    simpa [Barrier.joined, List.isEmpty_iff] using hlt
  obtain ⟨t, ht, hl, hown, hc⟩ := State.commit_own h Effect.noConfusion Effect.noConfusion ((State.effected_bar h hx).trans hwaits) rfl rfl
    (by rw [State.begun_thread]; exact ⟨rfl, rfl, rfl, rfl⟩)
  have hbarred : id ∈ (((s.begun tid b).arrived tid x id n w s.fresh).thread tid).barred := by simp [hown]
  refine ⟨t, x.joined id n tid w s.fresh, ht, hc, ?_, rfl, ?_, ?_, ?_, State.plainly_of hl ?_⟩
  · rw [(congrArg State.teams hl.rest :)]
    exact List.mem_of_find?_eq_some hfind
  · rw [Team.joined_barrier]; rfl
  · rw [hl.own]; exact hbarred
  · by_contra hflight
    rw [(hl.unheld hflight).2] at hbarred
    cases hbarred
  · rw [hown, State.begun_thread]
    exact ⟨rfl, rfl, rfl, rfl, rfl, rfl⟩

theorem State.commit_bar_releases (h : s.commitsOne tid b k (.bar id n w) a) (hx : s.teamOf (s.thread tid) = some x) (hs : s.saved = [])
    (harr : (mget Barrier.empty x.barriers id).arrivals = []) (hle : Nat.min n (x.running s) ≤ 1) :
    ∃ t, exec (.blockCommit tid) s = .next t ∧ s.committed t tid b a ∧ s.knows t tid b k w ∧ id ∉ (t.thread tid).barred ∧
      (t.thread tid).floor = (if wKind w = 0 then serialMax (s.thread tid).floor (wTime w) else (s.thread tid).floor) := by
  have hfind := State.find_arrived (id := id) (n := n) (g := s.fresh) (w := w) (State.begun_teamOf (b := b) hx)
  have hreleased := State.releaseBarrier_alone (p := (s.begun tid b).arrived tid x id n w s.fresh) (x := x.joined id n tid w s.fresh) (id := id)
    (w := w) (g := s.fresh) (tid := tid) hfind (by rw [Team.joined_barrier]; simp [Barrier.joined, harr])
    (by rw [Team.joined_barrier, State.running_arrived, State.running_begun]; simpa [Barrier.joined, harr] using hle) hs
    (by rw [State.arrived_same, State.begun_thread]; exact (State.writtenThread_team ..).trans (State.teamOf_id hx).symm)
    (by rw [State.arrived_same, State.begun_thread]
        exact fun hstatus => Thread.live_ne_absent (State.commitReady_live h.1) ((State.writtenThread_status ..).symm.trans hstatus))
  rw [State.arrived_same, State.begun_thread] at hreleased
  obtain ⟨hthreads, hmem, hgroups⟩ := State.raiseHorizonW_frame (w := w) (p := ((((s.begun tid b).arrived tid x id n w s.fresh).unbarred
    (x.joined id n tid w s.fresh) id s.fresh w).setThread tid
      (({ s.writtenThread tid b with barred := (s.writtenThread tid b).barred ++ [id] } : Thread).unbarred id w))) (x.joined id n tid w s.fresh).tile
  obtain ⟨t, ht, hl, hown, hc⟩ := State.commit_own h Effect.noConfusion Effect.noConfusion ((State.effected_bar h hx).trans hreleased)
    (hthreads.trans (mset_mset ..)) hmem ⟨rfl, rfl, rfl, rfl⟩
  have hthread := hl.own
  rw [hown] at hthread
  refine ⟨t, ht, hc, State.knows_of_map h.2.1 rfl (hl.groups.trans hgroups) fun y hy => ?_, ?_, ?_⟩
  · simp [hy]
  · rw [hthread]
    simp [Thread.unbarred]
  · rw [hthread]
    simp [Thread.unbarred]

/-! ERET. -/

theorem State.commit_eret (h : s.commitsOne tid b k .eret a) :
    ∃ t, exec (.blockCommit tid) s = .next t ∧ s.committed t tid b (s.thread tid).tblock ∧ (t.thread tid).supervisor = (s.thread tid).tcause.getLsbD 8 ∧
      (t.thread tid).flight = [] ∧ s.plainly t tid b := by
  obtain ⟨hr, hb, slot, hx⟩ := h
  have he : (s.begun tid b).effected tid b s.fresh = s.begun tid b := State.effected_control hb rfl rfl fun _ => Effect.noConfusion
  rw [exec_blockCommit hr hx, he, State.flagged_of_not_mrel (mrelLast_one hb Effect.noConfusion)]
  have hl := State.leave_eret (w := (s.begun tid b).setThread tid { (s.begun tid b).thread tid with
    fflags := fflagsAfter ((s.begun tid b).thread tid).fflags none b.flags }) (tid := tid) (b := b) (mode := (s.thread tid).supervisor) (slot := slot) (a := a)
    (by rw [BlockExec.erets, BlockExec.effs_one hb]; rfl)
  have hbars := State.takeExit_bars (tid := tid) (b := b) (mode := (s.thread tid).supervisor) (slot := slot) (a := a) (State.restartCsrs
    ((s.begun tid b).setThread tid { (s.begun tid b).thread tid with fflags := fflagsAfter ((s.begun tid b).thread tid).fflags none b.flags }) tid b)
    (by rw [BlockExec.bars, BlockExec.effs_one hb]; rfl)
  generalize State.takeExit _ _ _ _ _ _ = t at hl hbars
  have hthread := hl.own
  rw [State.setThread_thread_same, State.begun_thread] at hthread
  refine ⟨t, rfl, ⟨?_, ?_, ?_, ?_, ?_, (congrArg State.mem hl.rest :), fun n hn => ?_⟩, ?_, hbars, ?_⟩
  · rw [hthread]; simp [Thread.eret, State.writtenThread]
  · rw [hthread]; simp [Thread.eret, State.writtenThread]
  · rw [hthread]; rfl
  · rw [hthread]; rfl
  · rw [hthread]; simp [Thread.eret, State.writtenThread]
  · rw [hl.others n hn, State.setThread_thread_other _ _ hn, State.begun_other s b hn]
  · rw [hthread]; simp [Thread.eret, State.writtenThread]
  · unfold State.plainly
    rw [hthread]
    simp [Thread.eret, State.writtenThread]

end

end Sys2Proof.Machine
end

-- ==== Proofs: exits of a block without effects ====
section
/-! SUPPORT. Jumps, calls, SYSC, WRS and YIELD (R108 to R112, O32). -/
namespace Sys2Proof.Machine

/-! Exits of a block without effects (R108 to R113). -/

/-- The committing thread of a block without effects, ahead of its exit. -/
def State.closedThread (s : State) (tid : Nat) (b : BlockExec) : Thread :=
  { s.writtenThread tid b with fflags := fflagsAfter (s.thread tid).fflags none b.flags }

def State.closed (s : State) (tid : Nat) (b : BlockExec) : State := (s.begun tid b).setThread tid (s.closedThread tid b)

/-- The vector and mask registers, flags and FLOOR of a block without effects, its memory and requests, and the other threads. -/
def State.keptRest (s t : State) (tid : Nat) (b : BlockExec) : Prop :=
  (t.thread tid).vregs = ((s.thread tid).writeRegs b s.fresh).vregs ∧ (t.thread tid).mregs = ((s.thread tid).writeRegs b s.fresh).mregs ∧
  (t.thread tid).fflags = fflagsAfter (s.thread tid).fflags none b.flags ∧ (t.thread tid).floor = (s.thread tid).floor ∧
  (t.thread tid).frm = (s.thread tid).frm ∧ (t.thread tid).vl = (s.thread tid).vl ∧ t.mem = s.mem ∧ t.stores = s.stores ∧
  ∀ n, n ≠ tid → t.thread n = s.thread n

section
variable {s t : State} {tid slot : Nat} {b : BlockExec} {a : Word}

theorem BlockExec.erets_none (hb : b.effects = []) : b.erets = false := by simp [BlockExec.erets, BlockExec.effs, hb]

theorem State.closed_thread : (s.closed tid b).thread tid = s.closedThread tid b := State.setThread_thread_same ..
theorem State.closed_other {n : Nat} (h : n ≠ tid) : (s.closed tid b).thread n = s.thread n :=
  (State.setThread_thread_other _ _ h).trans (State.begun_other s b h)

theorem State.exec_none {e : ExitKind} (hr : s.commitReady tid = some b) (hb : b.effects = []) (hx : b.exit = some (slot, e)) :
    exec (.blockCommit tid) s =
      .next (((s.closed tid b).restartCsrs tid b).takeExit tid b (s.thread tid).supervisor slot e) := by
  have hclosed : ((s.begun tid b).effected tid b s.fresh).flagged tid b = s.closed tid b := by
    rw [State.effected_none hb, State.flagged_of_not_mrel (by simp [mrelLast, BlockExec.effs, hb]), State.begun_thread, State.closed,
      State.closedThread]
    simp [State.writtenThread]
  rw [exec_blockCommit hr hx, hclosed]

theorem State.keptRest_of {v : Thread} {fl : List BlockExec} (hown : t.thread tid = { v with flight := fl })
    (hv : v.plainAs (s.closedThread tid b)) (hf : v.fflags = (s.closedThread tid b).fflags) (hm : t.mem = s.mem) (hs : t.stores = s.stores)
    (ho : ∀ n, n ≠ tid → t.thread n = s.thread n) : s.keptRest t tid b := by
  obtain ⟨hvregs, hmregs, hvl, -, hfloor, hfrm⟩ := hv
  unfold State.keptRest
  rw [hown]
  exact ⟨hvregs, hmregs, hf, hfloor.trans (State.writtenThread_floor ..), hfrm.trans (by simp [State.closedThread, State.writtenThread]),
    hvl.trans (State.writtenThread_vl ..), hm, hs, ho⟩

theorem State.LeftAs.keptRest {v : Thread} (hl : (s.closed tid b).LeftAs t tid v) (hv : v.plainAs (s.closedThread tid b))
    (hf : v.fflags = (s.closedThread tid b).fflags) : s.keptRest t tid b :=
  State.keptRest_of hl.own hv hf (congrArg State.mem hl.rest :) (congrArg State.stores hl.rest :) fun n hn => (hl.others n hn).trans (State.closed_other hn)

theorem State.LeftAs.follows {v : Thread} (hl : (s.closed tid b).LeftAs t tid v) :
    ∀ n rest, (t.thread tid).flight = n :: rest → n.addr = v.pc ∧ sameBlocks (n :: rest) ((s.thread tid).flight.drop 1) := fun n rest h => by
  have hy := hl.younger n rest h
  rw [State.closed_thread] at hy
  simpa [State.closedThread, State.writtenThread] using hy

theorem State.commit_goto (hr : s.commitReady tid = some b) (hb : b.effects = []) (hx : b.exit = some (slot, .goto a)) :
    ∃ t, exec (.blockCommit tid) s = .next t ∧ (t.thread tid).pc = a ∧ (t.thread tid).supervisor = (s.thread tid).supervisor ∧
      (t.thread tid).blocks = (s.thread tid).blocks + 1 ∧ (t.thread tid).sregs = ((s.thread tid).writeRegs b s.fresh).sregs ∧
      (∀ n rest, (t.thread tid).flight = n :: rest → n.addr = a ∧ sameBlocks (n :: rest) ((s.thread tid).flight.drop 1)) ∧ s.keptRest t tid b := by
  have hl := State.leave_goto (w := s.closed tid b) (tid := tid) (mode := (s.thread tid).supervisor) (slot := slot) (a := a) (BlockExec.erets_none hb)
  rw [State.exec_none hr hb hx]
  generalize State.takeExit _ _ _ _ _ _ = t at hl ⊢
  rw [State.closed_thread] at hl
  refine ⟨t, rfl, ?_, ?_, ?_, ?_, hl.follows, hl.keptRest ⟨rfl, rfl, rfl, rfl, rfl, rfl⟩ rfl⟩
  · rw [hl.own]
  · rw [hl.own]; exact State.writtenThread_supervisor ..
  · rw [hl.own]; simp [State.closedThread, State.writtenThread]
  · rw [hl.own]; rfl

theorem State.commit_call {l : Word} (hr : s.commitReady tid = some b) (hb : b.effects = []) (hx : b.exit = some (slot, .call a l)) :
    ∃ t, exec (.blockCommit tid) s = .next t ∧ (t.thread tid).pc = a ∧ mget 0 (t.thread tid).sregs 63 = l ∧
      (∀ n, n ≠ 63 → mget 0 (t.thread tid).sregs n = mget 0 ((s.thread tid).writeRegs b s.fresh).sregs n) ∧
      (∀ n rest, (t.thread tid).flight = n :: rest → n.addr = a ∧ sameBlocks (n :: rest) ((s.thread tid).flight.drop 1)) ∧ s.keptRest t tid b := by
  have hl := State.leave_call (w := s.closed tid b) (tid := tid) (mode := (s.thread tid).supervisor) (slot := slot) (a := a) (l := l)
    (BlockExec.erets_none hb)
  rw [State.exec_none hr hb hx]
  generalize State.takeExit _ _ _ _ _ _ = t at hl ⊢
  rw [State.closed_thread] at hl
  have hsregs : (t.thread tid).sregs = mset 0 ((s.thread tid).writeRegs b s.fresh).sregs 63 l := by rw [hl.own]; rfl
  refine ⟨t, rfl, ?_, ?_, fun n hn => ?_, hl.follows, hl.keptRest ⟨rfl, rfl, rfl, rfl, rfl, rfl⟩ rfl⟩
  · rw [hl.own]; rfl
  · rw [hsregs, mget_mset_same]
  · rw [hsregs, mget_mset_other _ _ _ hn]

theorem State.commit_wrs {k : Nat} {r : Raw} {v : Word} (hr : s.commitReady tid = some b) (hb : b.effects = []) (hx : b.exit = some (slot, .goto a))
    (hs : b.slotsOf (fun r => r.op.writesReg) = [(k, r)]) (hop : r.op = .wrs) (hf : k ∈ b.fired) (hp : (b.pOf k r).live = true)
    (hv : b.tok k .a = some (.scalar v)) :
    ∃ t, exec (.blockCommit tid) s = .next t ∧ mget 0 (t.thread tid).sregs r.reg = v ∧
      ∀ n, n ≠ r.reg → mget 0 (t.thread tid).sregs n = mget 0 (s.thread tid).sregs n := by
  obtain ⟨t, ht, -, -, -, hsregs, -⟩ := State.commit_goto hr hb hx
  rw [Thread.writeRegs_wrs hs hop hf hp hv] at hsregs
  exact ⟨t, ht, by rw [hsregs, mget_mset_same], fun n hn => by rw [hsregs, mget_mset_other _ _ _ hn]⟩

theorem State.commit_yield (hr : s.commitReady tid = some b) (hb : b.effects = []) (hx : b.exit = some (slot, .yield a)) (hw : s.waiting = []) :
    ∃ t, exec (.blockCommit tid) s = .next t ∧ s.committed t tid b a ∧ s.plainly t tid b ∧ (t.thread tid).hold = .yielded [] ∧
      (t.thread tid).flight = [] ∧ t.stores = s.stores ∧ t.tiles = s.tiles := by
  have hl := State.leave_yield (w := s.closed tid b) (tid := tid) (mode := (s.thread tid).supervisor) (slot := slot) (a := a)
    (BlockExec.erets_none hb) hw
  rw [State.exec_none hr hb hx]
  generalize State.takeExit _ _ _ _ _ _ = t at hl ⊢
  rw [State.closed_thread] at hl
  obtain ⟨hvregs, hmregs, hfflags, hfloor, hfrm, hvl, hmem, hstores, hothers⟩ := hl.keptRest ⟨rfl, rfl, rfl, rfl, rfl, rfl⟩ rfl
  refine ⟨t, rfl, ⟨?_, ?_, ?_, ?_, hfflags, hmem, hothers⟩, ⟨hvregs, hmregs, hvl, ?_, hfloor, hfrm⟩, ?_, ?_, hstores,
    (congrArg State.tiles hl.rest :)⟩
  · rw [hl.own]
  · rw [hl.own]; simp [State.closedThread, State.writtenThread]
  · rw [hl.own]; rfl
  · rw [hl.own]; rfl
  · rw [hl.own]; exact State.writtenThread_lanes ..
  · rw [hl.own]
  · by_contra h
    exact absurd (hl.unheld h).1 FetchHold.noConfusion

theorem State.takeTrap_stores (p : State) (tid : Nat) (f : FaultRec) (block faulting : Word) : (p.takeTrap tid f block faulting).stores = p.stores := by
  unfold State.takeTrap
  dsimp only
  split <;> rfl

theorem State.commit_sysc (hr : s.commitReady tid = some b) (hb : b.effects = []) (hx : b.exit = some (slot, .sysc a))
    (hvec : (s.thread tid).tvec ≠ 0) (haddr : (s.thread tid).tvec ≠ b.addr) :
    ∃ t, exec (.blockCommit tid) s = .next t ∧ (t.thread tid).flight = [] ∧ (t.thread tid).supervisor = true ∧ (t.thread tid).pc = (s.thread tid).tvec ∧
      (t.thread tid).tcause = BitVec.ofNat 64 (cSYSCALL + (if (s.thread tid).supervisor then 256 else 0)) ∧ (t.thread tid).tblock = a ∧
      (t.thread tid).tslot = slotW slot ∧ (t.thread tid).taddr = b.addr ∧ (t.thread tid).telem = 0 ∧ (t.thread tid).tinfo = 0 ∧
      (t.thread tid).sregs = ((s.thread tid).writeRegs b s.fresh).sregs ∧ s.keptRest t tid b := by
  obtain ⟨hrest, hothers, fl, hown, -⟩ := (s.closed tid b).restartCsrs_spec tid b
  rw [State.exec_none hr hb hx]
  generalize (s.closed tid b).restartCsrs tid b = r at hrest hothers hown ⊢
  rw [State.closed_thread] at hown
  have hexit : r.takeExit tid b (s.thread tid).supervisor slot (.sysc a) =
      (r.setThread tid { r.thread tid with pc := a }).takeTrap tid (mkFault cSYSCALL slot 0 b.addr.toNat 0) a b.addr := by
    simp only [State.takeExit, BlockExec.erets_none hb, Bool.false_eq_true, if_false]
  have htvec : (r.thread tid).tvec = (s.thread tid).tvec := by rw [hown]; simp [State.closedThread, State.writtenThread]
  have htrap := State.takeTrap_trapsTo (r.setThread tid { r.thread tid with pc := a }) tid (mkFault cSYSCALL slot 0 b.addr.toNat 0) a b.addr
    (by rw [State.setThread_thread_same]; exact Thread.fatal_eq_false (by simpa [htvec] using hvec) (by simpa [htvec] using haddr))
  have htstores := State.takeTrap_stores (r.setThread tid { r.thread tid with pc := a }) tid (mkFault cSYSCALL slot 0 b.addr.toNat 0) a b.addr
  rw [hexit]
  generalize State.takeTrap _ _ _ _ _ = t at htrap htstores ⊢
  simp only [State.trapsTo, State.setThread_thread_same, hown] at htrap
  obtain ⟨hflight, hsup, hpc, htcause, htblock, htslot, htaddr, htelem, htinfo, hsregs, hvregs, hmregs, -, -, hvl, hfflags, hfrm, hfloor, -, hmem,
    hother⟩ := htrap
  refine ⟨t, rfl, hflight, hsup, ?_, ?_, htblock, htslot, ?_, htelem, htinfo, hsregs, hvregs, hmregs, hfflags, ?_, ?_, ?_, ?_, ?_, fun n hn => ?_⟩
  · rw [hpc]; simp [State.closedThread, State.writtenThread]
  · rw [htcause]; simp [State.closedThread, State.writtenThread, mkFault]
  · rw [htaddr]; simp [mkFault]
  · rw [hfloor]; exact State.writtenThread_floor ..
  · rw [hfrm]; simp [State.closedThread, State.writtenThread]
  · rw [hvl]; exact State.writtenThread_vl ..
  · rw [hmem]
    exact (congrArg State.mem hrest :)
  · rw [htstores]
    exact (congrArg State.stores hrest :)
  · rw [hother n hn, State.setThread_thread_other _ _ hn, hothers n hn, State.closed_other hn]

end

end Sys2Proof.Machine
end

-- ==== Proofs: HALT, deferred results, and the commit ====
section
/-! SUPPORT. HALT, DEFERRED_RESULT_WRITE, and every exit and effect together (R30, R31, R113, O32). -/
namespace Sys2Proof.Machine

/-! HALT (R113). -/

/-- `t` is `s` but for clusters: what the release of a thread's locks changes. -/
theorem State.releaseAll_frame (s : State) (owner : Nat) :
    (s.releaseAll owner).threads = s.threads ∧ (s.releaseAll owner).tiles = s.tiles ∧ (s.releaseAll owner).teams = s.teams ∧
      (s.releaseAll owner).mem = s.mem ∧ (s.releaseAll owner).stores = s.stores := by
  unfold State.releaseAll
  generalize List.range 8 = l
  induction l generalizing s with
  | nil => exact ⟨rfl, rfl, rfl, rfl, rfl⟩
  | cons c l ih =>
    rw [List.foldl_cons]
    dsimp only
    split
    · exact ih s
    · exact ih (s.releaseRows c owner _)

theorem State.releaseBarrier_empty {s : State} {team id : Nat} {x : Team} (hx : s.teams.find? (·.id == team) = some x) (hb : x.barriers = []) :
    s.releaseBarrier team id = s := by
  unfold State.releaseBarrier
  rw [hx]
  dsimp only
  rw [if_pos (by simp [hb, mget, Barrier.empty])]

theorem State.releaseBarriers_empty {s : State} {team : Nat} {x : Team} (hx : s.teams.find? (·.id == team) = some x) (hb : x.barriers = []) :
    s.releaseBarriers team = s := by
  unfold State.releaseBarriers
  generalize List.range 16 = l
  induction l with
  | nil => rfl
  | cons i l ih => rw [List.foldl_cons, State.releaseBarrier_empty hx hb, ih]

theorem State.freeAlloc_frame (s : State) (id : Nat) :
    (s.freeAlloc id).threads = s.threads ∧ (s.freeAlloc id).tiles = s.tiles ∧ (s.freeAlloc id).mem = s.mem ∧ (s.freeAlloc id).stores = s.stores := by
  unfold State.freeAlloc
  split <;> exact ⟨rfl, rfl, rfl, rfl⟩

theorem State.teamEnded_frame (s : State) (team : Nat) :
    (s.teamEnded team).threads = s.threads ∧ (s.teamEnded team).tiles = s.tiles ∧ (s.teamEnded team).mem = s.mem ∧
      (s.teamEnded team).stores = s.stores := by
  unfold State.teamEnded
  split
  · exact ⟨rfl, rfl, rfl, rfl⟩
  · split
    · exact State.freeAlloc_frame _ _
    · exact ⟨rfl, rfl, rfl, rfl⟩

theorem State.releaseClaim_frame (s : State) (tile tid : Nat) :
    (s.releaseClaim tile tid).threads = s.threads ∧ (s.releaseClaim tile tid).teams = s.teams ∧ (s.releaseClaim tile tid).mem = s.mem ∧
      (s.releaseClaim tile tid).stores = s.stores := by
  unfold State.releaseClaim
  dsimp only
  split <;> exact ⟨rfl, rfl, rfl, rfl⟩

theorem State.releaseClaim_tile (s : State) (tile tid : Nat) :
    ((s.releaseClaim tile tid).tile tile).claimant ≠ some tid ∧ ((s.releaseClaim tile tid).tile tile).free = (s.tile tile).free := by
  by_cases hc : (s.tile tile).claimant = some tid
  · rw [State.releaseClaim_held hc, State.claimed_tile_same, State.setTile_tile_same]
    exact ⟨by simp, rfl⟩
  · rw [show s.releaseClaim tile tid = s by simp [State.releaseClaim, hc]]
    exact ⟨hc, rfl⟩

/-- What HALT does ahead of the end of the thread itself: its loads, groups and claim go. -/
def State.unclaimed (r : State) (tid : Nat) : State :=
  let t := r.thread tid
  (((r.dropLoads tid (fun _ => false)).freeGroups t.tile t.lanes).releaseClaim t.tile tid).leaveClaim t.tile tid t.team

theorem State.unclaimed_frame (r : State) (tid : Nat) :
    (r.unclaimed tid).threads = r.threads ∧ (r.unclaimed tid).teams = r.teams ∧ (r.unclaimed tid).mem = r.mem ∧ (r.unclaimed tid).stores = r.stores :=
  State.releaseClaim_frame _ _ _

theorem State.unclaimed_tile (r : State) (tid : Nat) :
    ((r.unclaimed tid).tile (r.thread tid).tile).claimant ≠ some tid ∧
    ((r.unclaimed tid).tile (r.thread tid).tile).free =
      (r.tile (r.thread tid).tile).free ||| ((r.thread tid).lanes &&& ~~~(r.tile (r.thread tid).tile).lost) := by
  obtain ⟨hclaim, hfree⟩ := State.releaseClaim_tile ((r.dropLoads tid (fun _ => false)).freeGroups (r.thread tid).tile (r.thread tid).lanes)
    (r.thread tid).tile tid
  have hleave := State.setTile_tile_same (((r.dropLoads tid (fun _ => false)).freeGroups (r.thread tid).tile (r.thread tid).lanes).releaseClaim
    (r.thread tid).tile tid) (r.thread tid).tile
  rw [State.unclaimed, State.leaveClaim, hleave]
  exact ⟨hclaim, hfree.trans (congrArg Tile.free (State.setTile_tile_same ..))⟩

/-- A thread that ends: memory, requests and the other threads stand. -/
theorem State.endThread_spec {r : State} {tid : Nat} {x : Team} (hx : r.teamOf (r.thread tid) = some x) (hb : x.barriers = []) :
    (r.endThread tid).thread tid = (r.thread tid).over ∧ (∀ n, n ≠ tid → (r.endThread tid).thread n = r.thread n) ∧
      (r.endThread tid).tiles = (r.unclaimed tid).tiles ∧ (r.endThread tid).mem = r.mem ∧ (r.endThread tid).stores = r.stores := by
  obtain ⟨hthreads, hteams, hmem, hstores⟩ := r.unclaimed_frame tid
  obtain ⟨hthreads', htiles', hteams', hmem', hstores'⟩ := (r.unclaimed tid).releaseAll_frame (partyOf tid (r.thread tid).team)
  have hend : r.endThread tid = ((((r.unclaimed tid).releaseAll (partyOf tid (r.thread tid).team)).setThread tid (r.thread tid).over).releaseBarriers
    (r.thread tid).team).teamEnded (r.thread tid).team := rfl
  generalize (r.unclaimed tid).releaseAll (partyOf tid (r.thread tid).team) = p at *
  have hfind : (p.setThread tid (r.thread tid).over).teams.find? (·.id == (r.thread tid).team) = some x := by
    rw [State.setThread_teams, hteams', hteams]; exact hx
  rw [State.releaseBarriers_empty hfind hb] at hend
  obtain ⟨hthreadsE, htilesE, hmemE, hstoresE⟩ := (p.setThread tid (r.thread tid).over).teamEnded_frame (r.thread tid).team
  rw [hend]
  have hthread (n : Nat) : ((p.setThread tid (r.thread tid).over).teamEnded (r.thread tid).team).thread n =
    (p.setThread tid (r.thread tid).over).thread n := congrArg (mget Thread.absent · n) hthreadsE
  refine ⟨?_, fun n hn => ?_, htilesE.trans htiles', hmemE.trans (hmem'.trans hmem), hstoresE.trans (hstores'.trans hstores)⟩
  · rw [hthread, State.setThread_thread_same]
  · rw [hthread, State.setThread_thread_other _ _ hn]
    exact congrArg (mget Thread.absent · n) (hthreads'.trans hthreads)

theorem State.commit_halt {s : State} {tid slot : Nat} {b : BlockExec} {x : Team} (hr : s.commitReady tid = some b) (hb : b.effects = [])
    (hx : b.exit = some (slot, .halt)) (hteam : s.teamOf (s.thread tid) = some x) (hbar : x.barriers = []) :
    ∃ t, exec (.blockCommit tid) s = .next t ∧ (t.thread tid).status = .ended ∧ (t.thread tid).flight = [] ∧ (t.thread tid).lanes = 0 ∧
      (t.thread tid).maxWrite = (s.thread tid).maxWrite ∧ (t.tile (s.thread tid).tile).claimant ≠ some tid ∧
      (t.tile (s.thread tid).tile).free = (s.tile (s.thread tid).tile).free ||| ((s.thread tid).lanes &&& ~~~(s.tile (s.thread tid).tile).lost) ∧
      t.stores = s.stores ∧ t.mem = s.mem ∧ ∀ n, n ≠ tid → t.thread n = s.thread n := by
  obtain ⟨hrest, hothers, fl, hown, -⟩ := (s.closed tid b).restartCsrs_spec tid b
  rw [State.exec_none hr hb hx]
  generalize (s.closed tid b).restartCsrs tid b = r at hrest hothers hown ⊢
  rw [State.closed_thread] at hown
  have htile : (r.thread tid).tile = (s.thread tid).tile := by rw [hown]; exact State.writtenThread_tile ..
  have hlanes : (r.thread tid).lanes = (s.thread tid).lanes := by rw [hown]; exact State.writtenThread_lanes ..
  have hteam' : r.teamOf (r.thread tid) = some x := by
    rw [State.teamOf, show (r.thread tid).team = (s.thread tid).team by rw [hown]; exact State.writtenThread_team .., (congrArg State.teams hrest :)]
    exact hteam
  have htiles : r.tiles = s.tiles := (congrArg State.tiles hrest :)
  obtain ⟨hthread, hother, hend, hmem, hstores⟩ := State.endThread_spec hteam' hbar
  obtain ⟨hclaimant, hfree⟩ := r.unclaimed_tile tid
  have hat (n : Nat) : (r.endThread tid).tile n = (r.unclaimed tid).tile n := congrArg (mget Tile.start · n) hend
  have hbefore (n : Nat) : r.tile n = s.tile n := congrArg (mget Tile.start · n) htiles
  show ∃ t, Host.Outcome.next (r.endThread tid) = .next t ∧ _
  refine ⟨_, rfl, ?_, ?_, ?_, ?_, ?_, ?_, hstores.trans (congrArg State.stores hrest :), hmem.trans (congrArg State.mem hrest :), fun n hn => ?_⟩
  · rw [hthread]; rfl
  · rw [hthread]; rfl
  · rw [hthread]; rfl
  · rw [hthread, Thread.over, hown]; simp [State.closedThread, State.writtenThread]
  · rw [hat, ← htile]; exact hclaimant
  · rw [hat, ← hlanes, ← htile, ← hbefore]; exact hfree
  · rw [hother n hn, hothers n hn, State.closed_other hn]

/-! Deferred results (R30, R31). -/

/-- A result of one register: the register that is still pending on it, and no other, has it. -/
theorem Thread.takeResult_one {t : Thread} {g : Group} {reg which : Nat} (hd : g.dests = [(reg, which)]) (hv : g.vl = false) :
    (mget 0 t.pending reg = g.gid → (t.takeResult g).sregs = mset 0 t.sregs reg (g.result which) ∧ (t.takeResult g).pending = mdel t.pending reg) ∧
    (mget 0 t.pending reg ≠ g.gid → (t.takeResult g).sregs = t.sregs) := by
  unfold Thread.takeResult
  rw [hd, hv]
  constructor
  · intro h
    cases g.claim <;> simp [h]
  · intro h
    cases g.claim <;> simp [h]

/-- A group leaves and raises its tile's HORIZON; threads, saved threads and memory stand. -/
def State.groupGone (s : State) (g : Group) : State :=
  let s' : State := { s with groups := s.groups.filter (fun (x : Group) => x.gid != g.gid) }
  let tile := match s.teams.find? (·.id == g.team) with | some x => x.tile | none => s.tileOf g.tid
  match g.time with | some t => s'.raiseHorizon tile t | none => s'

theorem State.groupGone_frame (s : State) (g : Group) :
    (s.groupGone g).threads = s.threads ∧ (s.groupGone g).saved = s.saved ∧ (s.groupGone g).mem = s.mem ∧
      (s.groupGone g).groups = s.groups.filter (fun (x : Group) => x.gid != g.gid) := by
  unfold State.groupGone
  cases g.time <;> exact ⟨rfl, rfl, rfl, rfl⟩

theorem deferredResultWriteBody_eq {s : State} {g : Group} (hf : s.groups.find? (fun (x : Group) => x.gid == g.gid) = some g) (hr : g.ready = true)
    (ht : (s.thread g.tid).team = g.team) (hst : (s.thread g.tid).status = .running) (hs : s.saved = []) :
    deferredResultWriteBody g.gid s = (s.groupGone g).setThread g.tid ((s.thread g.tid).takeResult g) := by
  obtain ⟨hthreads, hsaved, -, -⟩ := s.groupGone_frame g
  have hthread : (s.groupGone g).thread g.tid = s.thread g.tid := congrArg (mget Thread.absent · g.tid) hthreads
  have hbody : deferredResultWriteBody g.gid s =
      ((s.groupGone g).resave g).updThread g.tid g.team (fun t => if t.status = .ended then t else t.takeResult g) := by
    have hsnoop : (s.saved.find? (fun e => e.1 == g.tid && e.2.team == g.team)).bind (fun e => s.areaSnoop e.2.savea true) = none := by
      rw [hs]; rfl
    unfold deferredResultWriteBody
    rw [hf]
    dsimp only
    rw [if_neg (by simp [hr]), hsnoop]
    rfl
  have hresave : (s.groupGone g).resave g = s.groupGone g := by simp [State.resave, hsaved, hs]
  rw [hbody, hresave, State.updThread, hthread, if_pos (by simp [ht, hst]), if_neg (by simp [hst])]

theorem deferredResultWrite_one {s : State} {g : Group} {reg which : Nat} (hf : s.groups.find? (fun (x : Group) => x.gid == g.gid) = some g)
    (hr : g.ready = true) (hd : g.dests = [(reg, which)]) (hv : g.vl = false) (ht : (s.thread g.tid).team = g.team)
    (hst : (s.thread g.tid).status = .running) (hs : s.saved = []) :
    ∃ t, exec (.deferredResultWrite g.gid) s = .next t ∧ t.mem = s.mem ∧ (∀ x ∈ t.groups, x.gid ≠ g.gid) ∧
      (mget 0 (s.thread g.tid).pending reg = g.gid → mget 0 (t.thread g.tid).sregs reg = g.result which ∧ mget 0 (t.thread g.tid).pending reg = 0) ∧
      (mget 0 (s.thread g.tid).pending reg ≠ g.gid → (t.thread g.tid).sregs = (s.thread g.tid).sregs) ∧
      (∀ n, n ≠ reg → mget 0 (t.thread g.tid).sregs n = mget 0 (s.thread g.tid).sregs n) ∧ ∀ n, n ≠ g.tid → t.thread n = s.thread n := by
  obtain ⟨hthreads, -, hmem, hgroups⟩ := s.groupGone_frame g
  obtain ⟨htaken, hkept⟩ := Thread.takeResult_one (t := s.thread g.tid) hd hv
  refine ⟨_, congrArg Host.Outcome.next (deferredResultWriteBody_eq hf hr ht hst hs), hmem, fun x hx => ?_, fun h => ?_, fun h => ?_, fun n hn => ?_,
    fun n hn => ?_⟩
  · rw [State.setThread_groups, hgroups] at hx
    simpa using (List.mem_filter.mp hx).2
  · obtain ⟨hsregs, hpending⟩ := htaken h
    rw [State.setThread_thread_same, hsregs, hpending, mget_mset_same, mget_mdel_same]
    exact ⟨rfl, rfl⟩
  · rw [State.setThread_thread_same, hkept h]
  · rw [State.setThread_thread_same]
    by_cases h : mget 0 (s.thread g.tid).pending reg = g.gid
    · rw [(htaken h).1, mget_mset_other _ _ _ hn]
    · rw [hkept h]
  · rw [State.setThread_thread_other _ _ hn]
    exact congrArg (mget Thread.absent · n) hthreads

/-- Settles O32: each exit and each kind of effect by its own lemma, over the state in which the block's register writes are made. -/
theorem blockCommitsAndDeferredResults : Obligations.BlockCommitsAndDeferredResults :=
  ⟨fun _ _ _ _ _ => State.commit_goto, fun _ _ _ _ _ _ => State.commit_call, fun _ _ _ _ _ => State.commit_sysc,
    fun _ _ _ _ _ _ _ _ => State.commit_wrs, fun _ _ _ _ _ _ _ _ _ => State.commit_store, fun _ _ _ _ _ _ => State.commit_wfloor,
    fun _ _ _ _ _ _ _ => State.commit_setvl, fun _ _ _ _ _ _ => State.commit_lclaim, fun _ _ _ _ _ => State.commit_eret,
    fun _ _ _ _ _ => State.commit_icinv, fun _ _ _ _ _ _ _ => State.commit_tlbinv, fun _ _ _ _ _ _ _ _ _ => State.commit_bar_waits,
    fun _ _ _ _ _ _ _ _ _ => State.commit_bar_releases, fun _ _ _ _ _ _ _ => State.commit_adds, fun _ _ _ _ _ _ _ _ => State.commit_planes,
    fun _ _ _ _ _ _ _ _ _ _ _ _ _ _ _ => State.commit_atomic, fun _ _ _ _ _ _ _ _ _ _ _ => State.commit_claimel,
    fun _ _ _ _ _ _ => State.commit_mclaim_held, fun _ _ _ _ _ _ => State.commit_mclaim_free, fun _ _ _ _ _ _ => State.commit_mclaim_refused,
    fun _ _ _ _ _ _ => State.commit_mclaim_queued, fun _ _ _ _ _ => State.commit_mrel, fun _ _ _ _ _ _ _ => State.commit_mx,
    fun _ _ _ _ _ _ _ => State.commit_spill, fun _ _ _ _ _ _ _ _ _ _ _ => State.commit_plock, fun _ _ _ _ _ _ => State.commit_punlock,
    fun _ _ _ _ _ _ => State.commit_plaunch, fun _ _ _ _ _ _ _ => State.commit_cpset, fun _ _ _ _ _ _ => State.commit_cpgo,
    fun _ _ _ _ _ _ _ => State.commit_cpqf, fun _ _ _ _ _ _ => State.commit_cpabort, fun _ _ _ _ _ => State.commit_yield,
    fun _ _ _ _ _ => State.commit_halt, fun _ _ _ _ => deferredResultWrite_one⟩

end Sys2Proof.Machine
end

-- ==== Proofs: reset ====
section
/-! SUPPORT. The parts of the device at power-on, by number (R448, O56). -/
namespace Sys2Proof.Machine

theorem reset_thread (n : Nat) : State.reset.thread n = Thread.absent := rfl
theorem reset_tile (n : Nat) : State.reset.tile n = Tile.start := rfl
theorem reset_cluster (n : Nat) : State.reset.cluster n = Cluster.start := rfl
theorem reset_core (n : Nat) : State.reset.core n = Core.start := rfl

/-- Settles O56: no part is listed at reset, so each reads as its start value. -/
theorem resetState : Obligations.ResetState := by
  refine ⟨reset_mem_wf, fun _ => rfl, ⟨rfl, rfl, rfl, rfl, rfl⟩, fun n => ?threads, fun c => ?clusters, fun c => ?cores, fun _ => rfl,
    fun n => ?tiles, fun _ => rfl⟩
  case threads => rw [reset_thread]; exact ⟨rfl, rfl, rfl, rfl, fun _ => rfl⟩
  case clusters => rw [reset_cluster]; exact ⟨rfl, rfl, rfl, rfl⟩
  case cores => rw [reset_core]; rfl
  case tiles => rw [reset_tile]; exact ⟨rfl, rfl, rfl⟩

end Sys2Proof.Machine
end

-- ==== Proofs: integers of a format ====
section
/-! SUPPORT. Wrapping and clamping to an integer format (R46, R47, O19). -/
namespace Sys2Proof.Machine

theorem coe_wrapInt (w : Nat) (v : Int) : (wrapInt w v : Int) = v % 2 ^ w := by
  rw [wrapInt, Int.toNat_of_nonneg (Int.emod_nonneg _ (by positivity))]
  norm_cast

theorem wrapInt_lt (w : Nat) (v : Int) : wrapInt w v < 2 ^ w := by
  have h : (wrapInt w v : Int) < 2 ^ w := coe_wrapInt w v ▸ Int.emod_lt_of_pos v (by positivity)
  exact_mod_cast h

section
variable {f : Fmt}

theorem two_pow_width (hw : 0 < f.width) : 2 ^ f.width = 2 * 2 ^ (f.width - 1) := by
  rw [← pow_succ', Nat.sub_add_cancel hw]

/-- What the low bits stand for lies in the format's range. -/
theorem intVal_bounds (hw : 0 < f.width) (x : Nat) : f.minInt ≤ intVal f x ∧ intVal f x ≤ f.maxInt := by
  have hlt : x % 2 ^ f.width < 2 ^ f.width := Nat.mod_lt _ (Nat.two_pow_pos _)
  have hhalf := two_pow_width hw
  unfold intVal Fmt.minInt Fmt.maxInt
  cases f.signed <;> simp only [Bool.true_and, Bool.false_and, Bool.false_eq_true, if_false, if_true, decide_eq_true_eq]
  · omega
  · split <;> omega

/-- Wrapping keeps an integer modulo 2^w. -/
theorem dvd_sub_intVal_wrapInt (f : Fmt) (v : Int) : (2 ^ f.width : Int) ∣ v - intVal f (wrapInt f.width v) := by
  have hmod : (2 ^ f.width : Int) ∣ v - wrapInt f.width v := coe_wrapInt f.width v ▸ Int.dvd_self_sub_emod
  unfold intVal
  rw [Nat.mod_eq_of_lt (wrapInt_lt f.width v)]
  dsimp only
  split
  · have hshift : v - ((wrapInt f.width v : Int) - (2 ^ f.width : Nat)) = v - wrapInt f.width v + 2 ^ f.width := by push_cast; ring
    rw [hshift]
    exact Int.dvd_add hmod (Int.dvd_refl _)
  · exact hmod

theorem intVal_wrapInt_of_fits (hw : 0 < f.width) {v : Int} (hmin : f.minInt ≤ v) (hmax : v ≤ f.maxInt) : intVal f (wrapInt f.width v) = v := by
  have hb := intVal_bounds hw (wrapInt f.width v)
  have hspan : f.maxInt - f.minInt < 2 ^ f.width := by
    have hhalf : (2 ^ f.width : Int) = 2 * 2 ^ (f.width - 1) := by exact_mod_cast two_pow_width hw
    unfold Fmt.minInt Fmt.maxInt
    cases f.signed <;> simp only [Bool.false_eq_true, if_false, if_true] <;> push_cast <;> omega
  have hzero := Int.eq_zero_of_abs_lt_dvd (dvd_sub_intVal_wrapInt f v) (abs_lt.2 ⟨by omega, by omega⟩)
  omega

theorem minInt_le_maxInt (hw : 0 < f.width) : f.minInt ≤ f.maxInt := (intVal_bounds hw 0).1.trans (intVal_bounds hw 0).2

/-- R47: what `intOp` gives is the exact integer reduced to the format. -/
theorem intOp_reducedTo (hw : 0 < f.width) (h64 : f.width ≤ 64) (sat : Bool) (v : Int) : reducedTo f sat v (intOp f sat v) := by
  have hword (u : Int) : (BitVec.ofNat 64 (wrapInt f.width u)).toNat = wrapInt f.width u :=
    Nat.mod_eq_of_lt ((wrapInt_lt _ _).trans_le (Nat.pow_le_pow_right (by omega) h64))
  have hends := minInt_le_maxInt hw
  unfold reducedTo intOp reduceInt
  simp only [Bool.and_eq_true, decide_eq_true_eq]
  by_cases hlow : sat = true ∧ v < f.minInt
  · simp only [if_pos hlow, toW, hword, and_true]
    exact intVal_wrapInt_of_fits hw le_rfl hends
  · by_cases hhigh : sat = true ∧ f.maxInt < v
    · simp only [if_neg hlow, if_pos hhigh, toW, hword, and_true]
      exact intVal_wrapInt_of_fits hw hends le_rfl
    · simp only [if_neg hlow, if_neg hhigh, toW, hword, and_true]
      obtain ⟨hmin, hmax⟩ := intVal_bounds hw (wrapInt f.width v)
      exact ⟨hmin, hmax, Int.emod_eq_zero_of_dvd (dvd_sub_intVal_wrapInt f v)⟩

end

theorem fmtOf_isInt {k : Nat} (h : isInt k = true) : (fmtOf k).float = false ∧ 0 < (fmtOf k).width ∧ (fmtOf k).width ≤ 64 := by
  simp only [isInt, Bool.and_eq_true, decide_eq_true_eq] at h
  obtain ⟨hlow, hhigh⟩ := h
  interval_cases k <;> decide

/-- Settles O19: each of the four is `intOp` of its exact result. -/
theorem integerElementsWrapOrSaturate : Obligations.IntegerElementsWrapOrSaturate := by
  intro k hk sat rm a b c
  obtain ⟨hfloat, hw, h64⟩ := fmtOf_isInt hk
  simp only [addEl, subEl, mulEl, fmaEl, hfloat, Bool.false_eq_true, if_false]
  exact ⟨intOp_reducedTo hw h64 _ _, intOp_reducedTo hw h64 _ _, intOp_reducedTo hw h64 _ _, intOp_reducedTo hw h64 _ _⟩

end Sys2Proof.Machine
end

-- ==== Proofs: CSR writes at a commit ====
section
/-! SUPPORT. A CSR write goes from its block, then its register takes it (R118); the registers that are the thread's own (R60, R384, R385, O48). -/
namespace Sys2Proof.Machine

/-! The write goes from its block. -/

section
variable {s : State} {tid : Nat} {csr : BitVec 12} {v : Word}

theorem csrStep_due {w : State → State} (h : s.csrDue tid csr v) : csrStep tid csr.toNat v w s = w (s.csrTaken tid csr v) := by
  obtain ⟨b, hb, he⟩ := h
  simp only [csrStep, State.csrTaken, hb, BitVec.ofNat_toNat, BitVec.setWidth_eq, he, if_true]

theorem csrStep_not_due {w : State → State} (h : ¬ s.csrDue tid csr v) : csrStep tid csr.toNat v w s = s := by
  unfold csrStep
  cases hb : s.commitHead tid with
  | none => rfl
  | some b =>
    have he : ¬ b.effs.contains (.csrw csr v) = true := fun he => h ⟨b, hb, he⟩
    simp only [BitVec.ofNat_toNat, BitVec.setWidth_eq]
    exact if_neg he

theorem exec_of_csrDue {i : Instr} (hi : exec i s = .next (csrStep tid csr.toNat v (fun u => u.csrWrite tid csr.toNat v) s)) (h : s.csrDue tid csr v) :
    exec i s = .next ((s.csrTaken tid csr v).csrWrite tid csr.toNat v) :=
  hi.trans (congrArg Host.Outcome.next (csrStep_due h))

theorem exec_of_not_csrDue {i : Instr} (hi : exec i s = .next (csrStep tid csr.toNat v (fun u => u.csrWrite tid csr.toNat v) s))
    (h : ¬ s.csrDue tid csr v) : exec i s = .next s :=
  hi.trans (congrArg Host.Outcome.next (csrStep_not_due h))

theorem exec_csrRegisterWrite (h : ownRow csr.toNat = false) :
    exec (.csrRegisterWrite tid csr v) s = .next (csrStep tid csr.toNat v (fun u => u.csrWrite tid csr.toNat v) s) := by
  show Host.Outcome.next (csrRegisterWriteBody tid csr.toNat v s) = _
  simp [csrRegisterWriteBody, h]

theorem exec_csrRegisterWrite_ownRow (h : ownRow csr.toNat = true) : exec (.csrRegisterWrite tid csr v) s = .next s := by
  show Host.Outcome.next (csrRegisterWriteBody tid csr.toNat v s) = _
  simp [csrRegisterWriteBody, h]

theorem exec_ptrootWrite (h : firmwareTid tid = false) :
    exec (.ptrootWrite tid v) s = .next (csrStep tid (0x111 : BitVec 12).toNat v (fun u => u.csrWrite tid (0x111 : BitVec 12).toNat v) s) := by
  show Host.Outcome.next (ptrootWriteBody tid v s) = _
  simp [ptrootWriteBody, h]

theorem exec_ptrootWrite_firmware (h : firmwareTid tid = true) : exec (.ptrootWrite tid v) s = .next (firmwareRoot v s) := by
  show Host.Outcome.next (ptrootWriteBody tid v s) = _
  simp [ptrootWriteBody, h]

/-! What stands once it has gone: all but the blocks in flight. -/

theorem State.csrTaken_rest (s : State) (tid : Nat) (csr : BitVec 12) (v : Word) :
    s.csrTaken tid csr v = { s with threads := (s.csrTaken tid csr v).threads } := by
  unfold State.csrTaken
  split <;> rfl

theorem State.csrTaken_thread (s : State) (tid : Nat) (csr : BitVec 12) (v : Word) :
    ∃ fl, (s.csrTaken tid csr v).thread tid = { s.thread tid with flight := fl } := by
  unfold State.csrTaken
  split
  · exact ⟨_, rfl⟩
  · exact ⟨_, State.setThread_thread_same ..⟩

theorem State.csrTaken_other (csr : BitVec 12) (v : Word) {n : Nat} (h : n ≠ tid) : (s.csrTaken tid csr v).thread n = s.thread n := by
  unfold State.csrTaken
  split
  · rfl
  · exact State.setThread_thread_other _ _ h

theorem State.csrTaken_field {α : Type} (f : Thread → α) (hf : ∀ (t : Thread) (fl : List BlockExec), f { t with flight := fl } = f t) :
    f ((s.csrTaken tid csr v).thread tid) = f (s.thread tid) := by
  obtain ⟨fl, h⟩ := s.csrTaken_thread tid csr v
  rw [h, hf]

variable (s tid csr v)

@[simp] theorem State.csrTaken_mem : (s.csrTaken tid csr v).mem = s.mem := (congrArg State.mem (s.csrTaken_rest tid csr v) :)
@[simp] theorem State.csrTaken_asidTab : (s.csrTaken tid csr v).asidTab = s.asidTab := (congrArg State.asidTab (s.csrTaken_rest tid csr v) :)
@[simp] theorem State.csrTaken_clusters : (s.csrTaken tid csr v).clusters = s.clusters := (congrArg State.clusters (s.csrTaken_rest tid csr v) :)
@[simp] theorem State.csrTaken_cores : (s.csrTaken tid csr v).cores = s.cores := (congrArg State.cores (s.csrTaken_rest tid csr v) :)
@[simp] theorem State.csrTaken_cluster (n : Nat) : (s.csrTaken tid csr v).cluster n = s.cluster n :=
  congrArg (mget Cluster.start · n) (s.csrTaken_clusters tid csr v)
@[simp] theorem State.csrTaken_core (n : Nat) : (s.csrTaken tid csr v).core n = s.core n :=
  congrArg (mget Core.start · n) (s.csrTaken_cores tid csr v)
@[simp] theorem State.csrTaken_tileOf : (s.csrTaken tid csr v).tileOf tid = (s.thread tid).tile := State.csrTaken_field Thread.tile fun _ _ => rfl
@[simp] theorem State.csrTaken_threadCore : ((s.csrTaken tid csr v).thread tid).core = (s.thread tid).core :=
  State.csrTaken_field Thread.core fun _ _ => rfl
@[simp] theorem State.csrTaken_asid : ((s.csrTaken tid csr v).thread tid).asid = (s.thread tid).asid := State.csrTaken_field Thread.asid fun _ _ => rfl
@[simp] theorem State.csrTaken_frm : ((s.csrTaken tid csr v).thread tid).frm = (s.thread tid).frm := State.csrTaken_field Thread.frm fun _ _ => rfl
@[simp] theorem State.csrTaken_lease : ((s.csrTaken tid csr v).thread tid).lease = (s.thread tid).lease := State.csrTaken_field Thread.lease fun _ _ => rfl

theorem State.csrTaken_keeps : (s.thread tid).keeps ((s.csrTaken tid csr v).thread tid) := by
  obtain ⟨fl, h⟩ := s.csrTaken_thread tid csr v
  rw [h]
  simp [Thread.keeps, Thread.sameRegs, Thread.sameTrap]

variable {s tid csr v}

/-- A register of the device takes its value: every thread keeps what it computes with. -/
theorem State.keeps_of_csrTaken {t : State} (ht : ∀ n, t.thread n = (s.csrTaken tid csr v).thread n) :
    (s.thread tid).keeps (t.thread tid) ∧ ∀ n, n ≠ tid → t.thread n = s.thread n :=
  ⟨ht tid ▸ s.csrTaken_keeps tid csr v, fun n hn => (ht n).trans (State.csrTaken_other csr v hn)⟩

end

/-! Bits of a value. -/

theorem bitsAt_zero (w : Word) (n : Nat) : bitsAt w 0 n = w.toNat % 2 ^ n := by simp [bitsAt]

theorem setWidth_eq_zero_iff (w : Word) (n : Nat) : w.setWidth n = 0 ↔ bitsAt w 0 n = 0 := by
  rw [bitsAt_zero, ← BitVec.toNat_setWidth, ← BitVec.toNat_inj]
  simp

theorem zextW_eq_and (w : Word) {n : Nat} (h : n < 64) : zextW w n = w &&& BitVec.ofNat 64 (2 ^ n - 1) := by
  have hn : 2 ^ n < 2 ^ 64 := Nat.pow_lt_pow_right (by omega) h
  have hw : w.toNat % 2 ^ n < 2 ^ n := Nat.mod_lt _ (Nat.two_pow_pos n)
  refine BitVec.eq_of_toNat_eq ?_
  rw [zextW, if_neg (by omega), BitVec.toNat_and, BitVec.toNat_ofNat, BitVec.toNat_ofNat, Nat.mod_eq_of_lt (by omega),
    Nat.mod_eq_of_lt (by omega : 2 ^ n - 1 < 2 ^ 64), Nat.and_two_pow_sub_one_eq_mod]

/-! The registers that are a thread's own. -/

theorem Thread.writeFrm_frm (t : Thread) (v : Word) :
    (t.writeFrm v).frm = if 1 ≤ v.toNat % 8 ∧ v.toNat % 8 ≤ 5 then v.setWidth 3 else t.frm := by
  have hok : frmOk v = decide (1 ≤ v.toNat % 8 ∧ v.toNat % 8 ≤ 5) := by simp [frmOk, bitsAt_zero]
  simp only [Thread.writeFrm, hok, decide_eq_true_eq]
  split <;> rfl

theorem Thread.writeLease_lease (t : Thread) (v : Word) : (t.writeLease v).lease = if v.setWidth 16 = (0 : BitVec 16) then t.lease else v.setWidth 16 := by
  simp only [Thread.writeLease, setWidth_eq_zero_iff]
  split <;> rfl

theorem Thread.writeCsr_keeps (t : Thread) (n : Nat) (v : Word) :
    (t.writeCsr n v).sregs = t.sregs ∧ (t.writeCsr n v).floor = t.floor ∧ (n ≠ 0x030 → (t.writeCsr n v).fflags = t.fflags) ∧
      (n ≠ 0x031 → (t.writeCsr n v).frm = t.frm) := by
  unfold Thread.writeCsr
  split
  case h_2 => unfold Thread.writeFrm; split <;> simp
  case h_12 => unfold Thread.writeLease; split <;> simp
  all_goals simp

section
variable {s : State} {tid : Nat} {csr : BitVec 12} {v : Word}

/-- A write of a CSR of the thread: the CSR takes it, the thread's other registers, every other thread and every byte of memory stand. -/
theorem exec_ownCsr {i : Instr} (hi : exec i s = .next (csrStep tid csr.toNat v (fun u => u.csrWrite tid csr.toNat v) s))
    (hw : ∀ u : State, u.csrWrite tid csr.toNat v = u.setThread tid ((u.thread tid).writeCsr csr.toNat v)) (h : s.csrDue tid csr v) :
    ∃ t, exec i s = .next t ∧ t.thread tid = ((s.csrTaken tid csr v).thread tid).writeCsr csr.toNat v ∧ (t.thread tid).sregs = (s.thread tid).sregs ∧
      (t.thread tid).floor = (s.thread tid).floor ∧ (csr.toNat ≠ 0x030 → (t.thread tid).fflags = (s.thread tid).fflags) ∧
      (csr.toNat ≠ 0x031 → (t.thread tid).frm = (s.thread tid).frm) ∧ (∀ n, n ≠ tid → t.thread n = s.thread n) ∧ t.mem = s.mem := by
  obtain ⟨hsregs, hfloor, hfflags, hfrm⟩ := ((s.csrTaken tid csr v).thread tid).writeCsr_keeps csr.toNat v
  have hthread := (s.csrTaken tid csr v).setThread_thread_same tid (((s.csrTaken tid csr v).thread tid).writeCsr csr.toNat v)
  refine ⟨_, hw (s.csrTaken tid csr v) ▸ exec_of_csrDue hi h, hthread, ?_⟩
  rw [hthread]
  exact ⟨hsregs.trans (State.csrTaken_field Thread.sregs fun _ _ => rfl), hfloor.trans (State.csrTaken_field Thread.floor fun _ _ => rfl),
    fun hn => (hfflags hn).trans (State.csrTaken_field Thread.fflags fun _ _ => rfl), fun hn => (hfrm hn).trans (s.csrTaken_frm tid csr v),
    fun n hn => (State.setThread_thread_other _ _ hn).trans (State.csrTaken_other csr v hn), s.csrTaken_mem tid csr v⟩

theorem exec_frmWrite (h : s.csrDue tid 0x031 v) :
    ∃ t, exec (.frmWrite tid v) s = .next t ∧ (t.thread tid).frm = (if 1 ≤ v.toNat % 8 ∧ v.toNat % 8 ≤ 5 then v.setWidth 3 else (s.thread tid).frm) ∧
      (t.thread tid).sregs = (s.thread tid).sregs ∧ (t.thread tid).fflags = (s.thread tid).fflags ∧ (∀ n, n ≠ tid → t.thread n = s.thread n) ∧ t.mem = s.mem := by
  obtain ⟨t, ht, hown, hsregs, -, hfflags, -, hrest⟩ := exec_ownCsr (i := .frmWrite tid v) rfl (fun _ => rfl) h
  exact ⟨t, ht, by rw [hown, ← s.csrTaken_frm tid 0x031 v]; exact Thread.writeFrm_frm _ v, hsregs, hfflags (by decide), hrest⟩

theorem exec_leaseWrite (h : s.csrDue tid 0x112 v) :
    ∃ t, exec (.leaseWrite tid v) s = .next t ∧ (t.thread tid).lease = (if v.setWidth 16 = (0 : BitVec 16) then (s.thread tid).lease else v.setWidth 16) ∧
      (t.thread tid).sregs = (s.thread tid).sregs ∧ (t.thread tid).frm = (s.thread tid).frm ∧ (∀ n, n ≠ tid → t.thread n = s.thread n) ∧ t.mem = s.mem := by
  obtain ⟨t, ht, hown, hsregs, -, -, hfrm, hrest⟩ := exec_ownCsr (i := .leaseWrite tid v) rfl (fun _ => rfl) h
  exact ⟨t, ht, by rw [hown, ← s.csrTaken_lease tid 0x112 v]; exact Thread.writeLease_lease _ v, hsregs, hfrm (by decide), hrest⟩

theorem exec_csrRegisterWrite_own {α : Type} {get : Thread → α} {y : α} (hrow : ownRow csr.toNat = false)
    (hw : ∀ u : State, u.csrWrite tid csr.toNat v = u.setThread tid ((u.thread tid).writeCsr csr.toNat v))
    (hget : ∀ x : Thread, get (x.writeCsr csr.toNat v) = y) (h : s.csrDue tid csr v) :
    ∃ t, exec (.csrRegisterWrite tid csr v) s = .next t ∧ get (t.thread tid) = y ∧ (t.thread tid).sregs = (s.thread tid).sregs ∧
      (t.thread tid).frm = (s.thread tid).frm ∧ (t.thread tid).floor = (s.thread tid).floor ∧ (∀ n, n ≠ tid → t.thread n = s.thread n) ∧ t.mem = s.mem := by
  obtain ⟨t, ht, hown, hsregs, hfloor, -, hfrm, hrest⟩ := exec_ownCsr (exec_csrRegisterWrite hrow) hw h
  have hcsr : csr.toNat ≠ 0x031 := fun hc => by rw [hc] at hrow; cases hrow
  exact ⟨t, ht, hown ▸ hget _, hsregs, hfrm hcsr, hfloor, hrest⟩

end

end Sys2Proof.Machine
end

-- ==== Proofs: registers of the device ====
section
/-! SUPPORT. CSRs of a cluster and of a core, the interleave map, the ASID table and the register BAR (R293, R294, R374, R376, R410, R434, R449, O48). -/
namespace Sys2Proof.Machine

section
variable {s : State} {tid : Nat} {csr : BitVec 12} {v : Word} {i : Instr}

/-! Registers of a cluster. -/

theorem Cluster.writeMth_mth (k : Cluster) (v : Word) :
    (k.writeMth v).mth = if 256 ≤ v.toNat % 2 ^ 14 ∧ v.toNat % 2 ^ 14 ≤ 8192 then v.toNat % 2 ^ 14 else k.mth := by
  simp only [Cluster.writeMth, bitsAt_zero, Bool.and_eq_true, decide_eq_true_eq]
  split <;> rfl

theorem Core.writeFwshare_fwshare (c : Core) (v : Word) : (c.writeFwshare v).fwshare = if v.toNat % 16 ≤ 8 then v.toNat % 16 else c.fwshare := by
  simp only [Core.writeFwshare, bitsAt_zero, Nat.reducePow]
  split <;> rfl

/-- A write of a CSR of the thread's cluster: `f` of that cluster, and all other clusters, the threads and memory stand. -/
theorem exec_clusterCsr {f : Cluster → Cluster} (hi : exec i s = .next (csrStep tid csr.toNat v (fun u => u.csrWrite tid csr.toNat v) s))
    (hw : ∀ u : State, u.csrWrite tid csr.toNat v = u.updCluster (clusterOfTile (u.tileOf tid)) f) (h : s.csrDue tid csr v) :
    ∃ t, exec i s = .next t ∧ t.cluster (clusterOfTile (s.thread tid).tile) = f (s.cluster (clusterOfTile (s.thread tid).tile)) ∧
      (∀ c, c ≠ clusterOfTile (s.thread tid).tile → t.cluster c = s.cluster c) ∧ (s.thread tid).keeps (t.thread tid) ∧
      (∀ n, n ≠ tid → t.thread n = s.thread n) ∧ t.mem = s.mem := by
  obtain ⟨hkeeps, hother⟩ := State.keeps_of_csrTaken (t := (s.csrTaken tid csr v).updCluster (clusterOfTile ((s.csrTaken tid csr v).tileOf tid)) f)
    (fun _ => rfl)
  refine ⟨_, hw (s.csrTaken tid csr v) ▸ exec_of_csrDue hi h, ?same, fun c hc => ?other, hkeeps, hother, s.csrTaken_mem tid csr v⟩
  case same => simp [State.updCluster]
  case other => rw [State.updCluster, s.csrTaken_tileOf, State.setCluster_cluster_other _ _ hc, s.csrTaken_cluster]

theorem exec_fwshareWrite (h : s.csrDue tid 0x120 v) :
    ∃ t, exec (.fwshareWrite tid v) s = .next t ∧
      (t.core (s.thread tid).core).fwshare = (if v.toNat % 16 ≤ 8 then v.toNat % 16 else (s.core (s.thread tid).core).fwshare) ∧
      t.clusters = s.clusters ∧ (∀ k, k ≠ (s.thread tid).core → t.core k = s.core k) ∧ (s.thread tid).keeps (t.thread tid) ∧
      (∀ n, n ≠ tid → t.thread n = s.thread n) ∧ t.mem = s.mem := by
  obtain ⟨hkeeps, hother⟩ := State.keeps_of_csrTaken (t := (s.csrTaken tid 0x120 v).csrWrite tid 0x120 v) (fun _ => rfl)
  have hw : (s.csrTaken tid 0x120 v).csrWrite tid 0x120 v =
      (s.csrTaken tid 0x120 v).setCore (s.thread tid).core ((s.core (s.thread tid).core).writeFwshare v) := by
    simp [State.csrWrite]
  refine ⟨_, exec_of_csrDue (i := .fwshareWrite tid v) rfl h, ?core, s.csrTaken_clusters tid 0x120 v, fun k hk => ?other, hkeeps, hother,
    s.csrTaken_mem tid 0x120 v⟩
  case core =>
    refine (congrArg (fun u : State => (u.core (s.thread tid).core).fwshare) hw).trans ?_
    simp [Core.writeFwshare_fwshare]
  case other =>
    refine (congrArg (fun u : State => u.core k) hw).trans ?_
    simp [State.setCore_core_other _ _ hk]

/-! The interleave map. -/

theorem State.writeMap_thread (s : State) (c : Nat) (f : Cluster → Cluster) (n : Nat) : (s.writeMap c f).thread n = s.thread n := by
  unfold State.writeMap
  dsimp only
  split
  · exact moveData_thread ..
  · rfl

/-- Where a map changes: the cluster's by `f`; where the map is that of cluster 0, every cluster's cached copies follow their addresses. -/
theorem State.writeMap_cluster (s : State) (c n : Nat) (f : Cluster → Cluster) :
    (s.writeMap c f).cluster n = if c = 0 then
      { (s.updCluster c f).cluster n with lru := ((s.writeMap c f).cluster n).lru, rdc := ((s.writeMap c f).cluster n).rdc }
    else (s.updCluster c f).cluster n := by
  by_cases hc : c = 0
  · simp only [State.writeMap, if_pos hc]
    exact moveData_cluster ..
  · simp only [State.writeMap, if_neg hc]

theorem State.writeMap_il (s : State) (c n : Nat) (f : Cluster → Cluster) :
    ((s.writeMap c f).cluster n).il = ((s.updCluster c f).cluster n).il ∧ ((s.writeMap c f).cluster n).ilsel = ((s.updCluster c f).cluster n).ilsel := by
  rw [State.writeMap_cluster]
  split <;> exact ⟨rfl, rfl⟩

theorem State.writeMap_mem (s : State) (c : Nat) (f : Cluster → Cluster) :
    (s.writeMap c f).mem = if c = 0 ∧ (s.cluster 0).il ≠ ((s.writeMap c f).cluster 0).il then
      writeCells [] (s.mem.map (fun e => (movedKey (s.cluster 0).il ((s.writeMap c f).cluster 0).il e.1, e.2))) else s.mem := by
  rw [(s.writeMap_il c 0 f).1]
  by_cases hc : c = 0
  · simp only [State.writeMap, hc, if_true, true_and, moveData_mem, ne_eq, ite_not]
    rfl
  · simp only [State.writeMap, hc, if_false, false_and]
    rfl

/-- A write of a CSR that is part of the map of the thread's cluster. -/
theorem exec_mapCsr {f : Cluster → Cluster} (hi : exec i s = .next (csrStep tid csr.toNat v (fun u => u.csrWrite tid csr.toNat v) s))
    (hw : ∀ u : State, u.csrWrite tid csr.toNat v = u.writeMap (clusterOfTile (u.tileOf tid)) f) (h : s.csrDue tid csr v) :
    ∃ t, exec i s = .next t ∧
      (t.cluster (clusterOfTile (s.thread tid).tile)).il = (f (s.cluster (clusterOfTile (s.thread tid).tile))).il ∧
      (t.cluster (clusterOfTile (s.thread tid).tile)).ilsel = (f (s.cluster (clusterOfTile (s.thread tid).tile))).ilsel ∧
      (∀ c, c ≠ clusterOfTile (s.thread tid).tile → t.cluster c =
        (if clusterOfTile (s.thread tid).tile = 0 then { s.cluster c with lru := (t.cluster c).lru, rdc := (t.cluster c).rdc } else s.cluster c)) ∧
      (s.thread tid).keeps (t.thread tid) ∧ (∀ n, n ≠ tid → t.thread n = s.thread n) ∧
      t.mem = (if clusterOfTile (s.thread tid).tile = 0 ∧ (s.cluster 0).il ≠ (t.cluster 0).il then
        writeCells [] (s.mem.map (fun e => (movedKey (s.cluster 0).il (t.cluster 0).il e.1, e.2))) else s.mem) := by
  have hexec := exec_of_csrDue hi h
  rw [hw, s.csrTaken_tileOf] at hexec
  generalize clusterOfTile (s.thread tid).tile = c at hexec ⊢
  have hsame : ((s.csrTaken tid csr v).updCluster c f).cluster c = f (s.cluster c) := by simp [State.updCluster]
  obtain ⟨hil, hilsel⟩ := (s.csrTaken tid csr v).writeMap_il c c f
  obtain ⟨hkeeps, hother⟩ := State.keeps_of_csrTaken ((s.csrTaken tid csr v).writeMap_thread c f)
  refine ⟨_, hexec, by rw [hil, hsame], by rw [hilsel, hsame], fun n hn => ?others, hkeeps, hother, ?mem⟩
  case others =>
    have hn : ((s.csrTaken tid csr v).updCluster c f).cluster n = s.cluster n := by
      rw [State.updCluster, State.setCluster_cluster_other _ _ hn, s.csrTaken_cluster]
    exact hn ▸ State.writeMap_cluster (s.csrTaken tid csr v) c n f
  case mem =>
    have hmem := (s.csrTaken tid csr v).writeMap_mem c f
    rwa [s.csrTaken_mem, s.csrTaken_cluster] at hmem

/-! The ILA words. -/

theorem writeIla_other (il : NMap (Word × Word)) {n k : Nat} (v : Word) (h : k ≠ n) : mget (0, 0) (writeIla il n v) k = mget (0, 0) il k := by
  unfold writeIla
  dsimp only
  split
  · exact mget_mset_other _ _ _ h
  · split <;> exact mget_mset_other _ _ _ h

theorem regionOf_invalid {w : Word × Word} (h : w.1.getLsbD 0 = false) : regionOf w = none := by
  have hbit : bitsAt w.1 0 1 ≠ 1 := by simpa [bitsAt_zero, BitVec.getLsbD, Nat.testBit_zero] using h
  exact if_neg hbit

theorem writeIla_of_none {il : NMap (Word × Word)} {n : Nat} {v : Word} (h : regionOf (v &&& ilaMask, (mget (0, 0) il n).2) = none) :
    mget (0, 0) (writeIla il n v) n = (v &&& ilaMask, (mget (0, 0) il n).2) := by
  simp only [writeIla, h, mget_mset_same]

theorem writeIla_of_some {il : NMap (Word × Word)} {n : Nat} {v : Word} {r : Region'} (h : regionOf (v &&& ilaMask, (mget (0, 0) il n).2) = some r) :
    mget (0, 0) (writeIla il n v) n =
      if (regionFits r && ((mdel il n).filterMap (fun e => regionOf e.2)).all (fun q => !r.meets q)) = true then (v &&& ilaMask, (mget (0, 0) il n).2)
      else (v &&& ilaMask &&& ~~~1 ||| 16, (mget (0, 0) il n).2) := by
  simp only [writeIla, h]
  split <;> exact mget_mset_same ..

theorem rejected_bits (w : Word) : (w &&& ~~~1 ||| 16).getLsbD 0 = false ∧ (w &&& ~~~1 ||| 16).getLsbD 4 = true := by
  constructor <;> simp

/-! The ASID table. -/

theorem State.dropTlb_tlb (s : State) (k : TlbScope) (n : Nat) :
    ((s.dropTlb k).tile n).tlb = keepTlb k (s.tile n).tlb ∧ ((s.dropTlb k).cluster n).tlb = keepTlb k (s.cluster n).tlb :=
  ⟨mget_map_field (f := fun x : Tile => { x with tlb := keepTlb k x.tlb }) (p := Tile.tlb) (g := keepTlb k) (fun _ => rfl) rfl s.tiles n,
    mget_map_field (f := fun x : Cluster => { x with tlb := keepTlb k x.tlb }) (p := Cluster.tlb) (g := keepTlb k) (fun _ => rfl) rfl s.clusters n⟩

theorem asid_ne_of_mem_keepTlb {a : BitVec 12} {l : List TlbEntry} {e : TlbEntry} (h : e ∈ keepTlb (.asid a) l) : e.asid ≠ a := by
  simpa [TlbEntry.hit] using (List.mem_filter.mp h).2

theorem State.dropTlb_asid (s : State) (a : BitVec 12) (n : Nat) :
    (∀ e ∈ ((s.dropTlb (.asid a)).tile n).tlb, e.asid ≠ a) ∧ ∀ e ∈ ((s.dropTlb (.asid a)).cluster n).tlb, e.asid ≠ a := by
  obtain ⟨htile, hcluster⟩ := s.dropTlb_tlb (.asid a) n
  rw [htile, hcluster]
  exact ⟨fun _ => asid_ne_of_mem_keepTlb, fun _ => asid_ne_of_mem_keepTlb⟩

theorem State.writePtroot_asidTab (s : State) (tid : Nat) (v : Word) :
    (s.writePtroot tid v).asidTab = mset none s.asidTab (s.thread tid).asid.toNat (some (v.toNat / 2 ^ 16 % 2 ^ 36 * 2 ^ 16)) := rfl

theorem exec_ptrootWrite_due (hf : firmwareTid tid = false) (h : s.csrDue tid 0x111 v) :
    ∃ t, exec (.ptrootWrite tid v) s = .next t ∧
      t.asidTab = mset none s.asidTab (s.thread tid).asid.toNat (some (v.toNat / 2 ^ 16 % 2 ^ 36 * 2 ^ 16)) ∧
      (∀ n, n < 64 → ∀ e ∈ (t.tile n).tlb, e.asid ≠ (s.thread tid).asid) ∧ (∀ c, c < 8 → ∀ e ∈ (t.cluster c).tlb, e.asid ≠ (s.thread tid).asid) ∧
      (s.thread tid).keeps (t.thread tid) ∧ (∀ n, n ≠ tid → t.thread n = s.thread n) ∧ t.mem = s.mem := by
  obtain ⟨hkeeps, hother⟩ := State.keeps_of_csrTaken (t := (s.csrTaken tid 0x111 v).writePtroot tid v) (fun _ => rfl)
  have hasid := s.csrTaken_asid tid 0x111 v
  refine ⟨_, exec_of_csrDue (exec_ptrootWrite hf) h, ?table, fun n _ => ?tiles, fun c _ => ?clusters, hkeeps, hother, s.csrTaken_mem tid 0x111 v⟩
  case table => exact (State.writePtroot_asidTab _ tid v).trans (by rw [hasid, s.csrTaken_asidTab])
  case tiles => exact hasid ▸ (State.dropTlb_asid _ _ n).1
  case clusters => exact hasid ▸ (State.dropTlb_asid _ _ c).2

theorem exec_ptrootWrite_root (hf : firmwareTid tid = true) (hw : s.walkPending (.asid (v.setWidth 12)) = false) :
    ∃ t, exec (.ptrootWrite tid v) s = .next t ∧
      t.asidTab = mset none s.asidTab (v.toNat % 2 ^ 12) (if v.toNat / 2 ^ 16 % 2 ^ 36 = 0 then none else some (v.toNat / 2 ^ 16 % 2 ^ 36 * 2 ^ 16)) ∧
      (∀ n, n < 64 → ∀ e ∈ (t.tile n).tlb, e.asid ≠ v.setWidth 12) ∧ (∀ c, c < 8 → ∀ e ∈ (t.cluster c).tlb, e.asid ≠ v.setWidth 12) ∧
      t.threads = s.threads ∧ t.mem = s.mem := by
  refine ⟨_, exec_ptrootWrite_firmware hf, ?_⟩
  rw [firmwareRoot, hw]
  exact ⟨congrArg (mset none s.asidTab · _) (BitVec.toNat_setWidth 12 v), fun n _ => (State.dropTlb_asid _ _ n).1, fun c _ => (State.dropTlb_asid _ _ c).2,
    rfl, rfl⟩

theorem exec_ptrootWrite_pending (hf : firmwareTid tid = true) (hw : s.walkPending (.asid (v.setWidth 12)) = true) :
    exec (.ptrootWrite tid v) s = .next s := by
  rw [exec_ptrootWrite_firmware hf, firmwareRoot, hw]
  rfl

/-! The register BAR. -/

/-- What an offset means that is neither STARTCTL's nor a doorbell's: nothing. -/
theorem exec_barRegisterWrite_ignored {off : Nat} (h0 : off ≠ 0) (hd : off < 0x80000 ∨ 0x88000 ≤ off) : exec (.barRegisterWrite off v) s = .next s := by
  show Host.Outcome.next (barRegisterWriteBody off v s) = _
  have hdoor : ¬ (0x80000 ≤ off ∧ off < 0x88000) := by omega
  simp only [barRegisterWriteBody, if_neg h0, Bool.and_eq_true, decide_eq_true_eq, hdoor, false_and, if_false]

theorem exec_barRegisterWrite_doorbell {q : Nat} (h : q < 4096) : exec (.barRegisterWrite (0x80000 + 8 * q) v) s = exec (.queueDoorbell q v) s := by
  show Host.Outcome.next (barRegisterWriteBody (0x80000 + 8 * q) v s) = .next (wakeBody q s)
  have hdoor : 0x80000 ≤ 0x80000 + 8 * q ∧ 0x80000 + 8 * q < 0x88000 ∧ (0x80000 + 8 * q) % 8 = 0 := by omega
  have hq : (0x80000 + 8 * q - 0x80000) / 8 = q := by omega
  rw [barRegisterWriteBody, if_neg (by omega), if_pos (by simpa [and_assoc] using hdoor), hq]

theorem exec_barRegisterWrite_startctl :
    exec (.barRegisterWrite 0 v) s =
      .next (if v.getLsbD 2 then s.requestStart .cold else if v.getLsbD 0 then s.requestStart (.warm (v.getLsbD 1)) else s) := rfl

end

/-- Settles O48: each register by its own lemma, each row by whether its write is due. -/
theorem registerWrites : Obligations.RegisterWrites := by
  refine ⟨fun _ _ _ => exec_frmWrite, fun _ _ _ => exec_leaseWrite, fun _ _ _ => exec_ptrootWrite_due, ?mth, ?refctl, fun _ _ _ => exec_fwshareWrite,
    ?ila, ?invalid, ?region, fun _ _ _ => exec_csrRegisterWrite_own (get := Thread.fflags) rfl (fun _ => rfl) (fun _ => rfl), ?tcause,
    fun _ _ _ => exec_csrRegisterWrite_own (get := Thread.tblock) rfl (fun _ => rfl) (fun _ => rfl),
    fun _ _ _ => exec_csrRegisterWrite_own (get := Thread.tslot) rfl (fun _ => rfl) (fun _ => rfl),
    fun _ _ _ => exec_csrRegisterWrite_own (get := Thread.taddr) rfl (fun _ => rfl) (fun _ => rfl), ?telem,
    fun _ _ _ => exec_csrRegisterWrite_own (get := Thread.tvec) rfl (fun _ => rfl) (fun _ => rfl),
    fun _ _ _ => exec_csrRegisterWrite_own (get := Thread.tsave) rfl (fun _ => rfl) (fun _ => rfl),
    fun _ _ _ => exec_csrRegisterWrite_own (get := Thread.tinfo) rfl (fun _ => rfl) (fun _ => rfl),
    fun _ _ _ => exec_csrRegisterWrite_own (get := Thread.asid) rfl (fun _ => rfl) (fun _ => rfl), ?ilsel, ?brsel, ?ilb,
    fun _ _ _ => exec_of_csrDue rfl, fun _ _ _ => exec_of_not_csrDue rfl, fun _ _ _ => exec_of_csrDue rfl, fun _ _ _ => exec_of_not_csrDue rfl,
    fun _ _ _ => exec_ptrootWrite_root, fun _ _ _ => exec_ptrootWrite_pending, fun _ _ _ hf => exec_of_csrDue (exec_ptrootWrite hf),
    fun _ _ _ hf => exec_of_not_csrDue (exec_ptrootWrite hf), fun _ _ _ => exec_of_csrDue rfl, fun _ _ _ => exec_of_not_csrDue rfl,
    fun _ _ _ => exec_of_csrDue rfl, fun _ _ _ => exec_of_not_csrDue rfl, fun _ _ _ => exec_of_csrDue rfl, fun _ _ _ => exec_of_not_csrDue rfl,
    fun _ _ _ => exec_of_csrDue rfl, fun _ _ _ => exec_of_not_csrDue rfl, fun _ _ _ _ hrow => exec_of_csrDue (exec_csrRegisterWrite hrow), ?notDue,
    fun _ off _ h => exec_barRegisterWrite_ignored (by omega) (by omega), fun _ off _ h => exec_barRegisterWrite_ignored (by omega) (by omega),
    ?cold, ?warm, ?none, fun _ _ _ => exec_barRegisterWrite_doorbell⟩
  case mth =>
    intro s tid v h
    obtain ⟨t, ht, hc, hrest⟩ := exec_clusterCsr (i := .mthWrite tid v) (f := (·.writeMth v)) rfl (fun _ => rfl) h
    exact ⟨t, ht, hc ▸ Cluster.writeMth_mth _ v, hrest⟩
  case refctl =>
    intro s tid v h
    obtain ⟨t, ht, hc, hrest⟩ := exec_clusterCsr (i := .refctlWrite tid v) (f := (·.writeRefctl v)) rfl (fun _ => rfl) h
    exact ⟨t, ht, by rw [hc]; rfl, by rw [hc]; rfl, by rw [hc]; rfl, hrest⟩
  case ila =>
    intro s tid v h
    obtain ⟨t, ht, hil, hilsel, hrest⟩ := exec_mapCsr (i := .ilaWrite tid v) (f := (·.writeIlaWord v)) rfl (fun _ => rfl) h
    exact ⟨t, ht, hil, fun n hn => by rw [hil]; exact writeIla_other _ v hn, hilsel, hrest⟩
  case invalid => exact fun il n v h => writeIla_of_none (regionOf_invalid (by rw [BitVec.getLsbD_and, h, Bool.false_and]))
  case region =>
    refine fun il n v r hr => ⟨fun hok => ?valid, fun hbad => ?rejected⟩
    case valid => rw [writeIla_of_some hr, if_pos hok]
    case rejected =>
      rw [writeIla_of_some hr, if_neg (by rw [hbad]; exact Bool.false_ne_true)]
      exact rejected_bits _
  case tcause => exact fun _ _ v => exec_csrRegisterWrite_own (get := Thread.tcause) rfl (fun _ => rfl) (fun _ => zextW_eq_and v (n := 9) (by decide))
  case telem => exact fun _ _ v => exec_csrRegisterWrite_own (get := Thread.telem) rfl (fun _ => rfl) (fun _ => zextW_eq_and v (n := 32) (by decide))
  case ilsel =>
    intro s tid v h
    obtain ⟨t, ht, hc, -, hrest⟩ := exec_clusterCsr (f := fun k => { k with ilsel := bitsAt v 0 4 }) (exec_csrRegisterWrite (csr := 0x133) rfl) (fun _ => rfl) h
    exact ⟨t, ht, by rw [hc]; exact bitsAt_zero v 4, by rw [hc], hrest⟩
  case brsel =>
    intro s tid v h
    obtain ⟨t, ht, hc, -, hrest⟩ := exec_clusterCsr (f := fun k => { k with brsel := bitsAt v 0 4 }) (exec_csrRegisterWrite (csr := 0x136) rfl) (fun _ => rfl) h
    exact ⟨t, ht, by rw [hc]; exact bitsAt_zero v 4, by rw [hc], hrest⟩
  case ilb =>
    intro s tid v h
    obtain ⟨t, ht, hil, -, -, hrest⟩ := exec_mapCsr (f := (·.writeIlb v)) (exec_csrRegisterWrite (csr := 0x135) rfl) (fun _ => rfl) h
    exact ⟨t, ht, hil, hrest⟩
  case notDue =>
    intro s tid csr v h
    cases hrow : ownRow csr.toNat with
    | true => exact exec_csrRegisterWrite_ownRow hrow
    | false => exact exec_of_not_csrDue (exec_csrRegisterWrite hrow) (h.resolve_left (by simp [hrow]))
  case cold =>
    intro s v hcold
    simp only [exec_barRegisterWrite_startctl, hcold, if_true]
    rfl
  case warm =>
    intro s v hcold hwarm
    simp only [exec_barRegisterWrite_startctl, hcold, hwarm, Bool.false_eq_true, if_false, if_true]
    cases v.getLsbD 1 <;> rfl
  case none =>
    intro s v hcold hwarm
    simp only [exec_barRegisterWrite_startctl, hcold, hwarm, Bool.false_eq_true, if_false]

end Sys2Proof.Machine
end

-- ==== Proofs: FRM ====
section
/-! SUPPORT. What a CSRR delivers of a CSR that its block's start fixes (R117), and FRM (R60, O60). -/
namespace Sys2Proof.Machine

theorem Firing.csrValue_start {x : Firing} {n : Nat} (h : csrNow n = false) : x.csrValue n = x.startValue n (x.st.csrRead x.tid n) := by
  simp only [Firing.csrValue, h, Bool.false_eq_true, if_false, Firing.startValue]
  cases x.block.csrs.find? (fun e => e.1 == n) <;> rfl

/-- A CSRR of a CSR open to user mode, of which the block takes the value at its start. -/
theorem csrrBody_start {x : Firing} (ha : Acts x) (hpriv : Raw.csr x.raw < 0x100) (hnow : csrNow (Raw.csr x.raw) = false) :
    csrrBody x = .give x.st (scalarOut (x.startValue (Raw.csr x.raw) (x.st.csrRead x.tid (Raw.csr x.raw)))) := by
  have hsplit := hnow
  simp only [csrNow, Bool.or_eq_false_iff, beq_eq_false_iff_ne] at hsplit
  obtain ⟨⟨⟨⟨⟨⟨-, -⟩, hfflags⟩, hblocks⟩, hvl⟩, hvlmax⟩, hlanes⟩ := hsplit
  rw [csrrBody, x.whole_acts _ _ ha, Firing.csrPriv, if_neg (by omega), Firing.csrValue_start hnow]
  simp only [hfflags, hblocks, hvl, hvlmax, hlanes, decide_false, Bool.or_self, Bool.false_and, Bool.false_eq_true, if_false]
  rfl

theorem completes_csrr_frm (b : BForm) (e : Ext) :
    Completes (.csrr b e 0x031) ⟨.csrr, .x b e 0x031⟩ Acts (fun x => scalarOut (x.startValue 0x031 (x.thread.frm.setWidth 64))) := by
  refine completes_give _ _ csrrBody _ _ (fun _ => rfl) fun s x hx ha => ⟨?_, .inl rfl⟩
  have hcsr : Raw.csr x.raw = 0x031 := by rw [s.firing_raw _ x hx]; rfl
  rw [csrrBody_start ha (by rw [hcsr]; decide) (by rw [hcsr]; rfl), hcsr, s.firing_thread _ x hx, s.firing_st _ x hx]
  rfl

/-- Settles O60: a write by R60's range of modes, a read by the value at the block's start. -/
theorem frmHoldsItsRoundingMode : Obligations.FrmHoldsItsRoundingMode := by
  refine ⟨?write, completes_csrr_frm, fun n => by rw [reset_thread]; rfl, fun p team tile core tid i asid alloc gen lanes floor now savea => rfl⟩
  case write =>
    intro s tid v h
    obtain ⟨t, ht, hfrm, -⟩ := exec_frmWrite h
    refine ⟨t, ht, hfrm.trans ?_⟩
    have hmode : v.toNat % 8 = (v.setWidth 3).toNat := (BitVec.toNat_setWidth 3 v).symm
    rw [hmode]
    generalize v.setWidth 3 = mode
    generalize (s.thread tid).frm = old
    revert mode old
    decide

end Sys2Proof.Machine
end

-- ==== Proofs: word 2 and literals ====
section
/-! SUPPORT. Word 2 and literals: the fields the encoder packs break no check of R88 (O53). -/
namespace Sys2Proof

theorem zero_div_of_lt {n m : Nat} (h : n < m) : zero (n / m) = 0 := by rw [Nat.div_eq_of_lt h, zero_zero]

theorem zero_div_setWidth {k n : Nat} (v : BitVec k) (h : k ≤ n) : zero ((v.setWidth n).toNat / 2 ^ k) = 0 := by
  rw [BitVec.toNat_setWidth_of_le h, zero_div_of_lt v.isLt]

theorem zero_div_encBool (b : Bool) : zero ((BitVec.ofNat 32 (encBool b)).toNat / 2) = 0 := by cases b <;> rfl

theorem ibBad_encIb {k : Nat} (hk : k ≤ 30) (n : Option (BitVec k)) : ibBad (2 ^ k) (encIb n).toNat = 0 := by
  cases n with
  | none => simp [encIb, ibBad]
  | some v =>
    have hv : v.toNat < 2 ^ 30 := v.isLt.trans_le (Nat.pow_le_pow_right (by decide) hk)
    have hib : (2147483648 + v.toNat) / 2147483648 = 1 := by omega
    have hcount : (2147483648 + v.toNat) % 2147483648 = v.toNat := by omega
    rw [encIb, toNat_ofNat_lt (by omega), ibBad, if_pos hib, hcount, zero_div_of_lt v.isLt]

/-- VSLIDE's direction at bit 30 stands outside the checked fields. -/
theorem w2Bad_vslide (n : Option (BitVec 14)) (down : Bool) :
    Opcode.w2Bad .vslide (encIb n + BitVec.ofNat 32 (1073741824 * encBool down)).toNat = 0 := by
  have hd := encBool_lt down
  rw [Laws.slide_toNat]
  cases n with
  | none =>
    have hplain : (0 + 1073741824 * encBool down) % 1073741824 + 2147483648 * ((0 + 1073741824 * encBool down) / 2147483648) = 0 := by omega
    simp only [Opcode.w2Bad, hplain]
    rfl
  | some v =>
    have hplain : (2147483648 + v.toNat + 1073741824 * encBool down) % 1073741824 +
        2147483648 * ((2147483648 + v.toNat + 1073741824 * encBool down) / 2147483648) = (encIb (some v)).toNat := by
      have := v.isLt
      rw [encIb, toNat_ofNat_lt (by omega)]
      omega
    simp only [Opcode.w2Bad, hplain]
    exact ibBad_encIb (by decide) _

theorem w2Bad_csrr (csr : BitVec 12) (h : csrAssigned csr.toNat = true) : Opcode.w2Bad .csrr (csr.setWidth 32).toNat = 0 := by
  simp only [Opcode.w2Bad, BitVec.toNat_setWidth_of_le (show 12 ≤ 32 by decide), zero_div_of_lt csr.isLt, Nat.mod_eq_of_lt csr.isLt, h, must_true, worst_zero]

theorem w2Bad_csrw (csr : BitVec 12) (h : csrWritable csr.toNat = true) : Opcode.w2Bad .csrw (csr.setWidth 32).toNat = 0 := by
  simp only [Opcode.w2Bad, BitVec.toNat_setWidth_of_le (show 12 ≤ 32 by decide), zero_div_of_lt csr.isLt, Nat.mod_eq_of_lt csr.isLt, h, must_true, worst_zero]

theorem w2Bad_wtest (test : BitVec 2) (h : (test != 3) = true) : Opcode.w2Bad .wtest (test.setWidth 32).toNat = 0 := by
  revert test
  decide

theorem w2Bad_cpset (index : BitVec 5) (h : index.toNat < 18) : Opcode.w2Bad .cpset (index.setWidth 32).toNat = 0 := by
  revert index
  decide

theorem w2Bad_plock (wr tries : Bool) : Opcode.w2Bad .plock (BitVec.ofNat 32 (encBool wr + 2 * encBool tries)).toNat = 0 := by
  revert wr tries
  decide

theorem w2Bad_bar (id : BitVec 4) (count : BitVec 6) (na : Bool) (h : count.toNat ≤ 32) :
    Opcode.w2Bad .bar (BitVec.ofNat 32 (id.toNat + 16 * count.toNat + 32768 * encBool na)).toNat = 0 := by
  have hid := id.isLt; have hna := encBool_lt na
  rw [toNat_ofNat_lt (by omega)]
  have hcount : fld (id.toNat + 16 * count.toNat + 32768 * encBool na) 4 64 = count.toNat := by simp only [fld]; norm_num only; omega
  have hgap : (id.toNat + 16 * count.toNat + 32768 * encBool na) / 65536 + fld (id.toNat + 16 * count.toNat + 32768 * encBool na) 10 32 = 0 := by
    simp only [fld]; norm_num only; omega
  simp only [Opcode.w2Bad, hcount, hgap, h, decide_true, must_true, zero_zero, worst_zero]

theorem w2Bad_cpqf (queue : BitVec 3) (mask : BitVec 8) : Opcode.w2Bad .cpqf (BitVec.ofNat 32 (queue.toNat + 256 * mask.toNat)).toNat = 0 := by
  have hq := queue.isLt; have hm := mask.isLt
  rw [toNat_ofNat_lt (by omega)]
  have hgap : (queue.toNat + 256 * mask.toNat) / 65536 + fld (queue.toNat + 256 * mask.toNat) 3 32 = 0 := by
    simp only [fld]; norm_num only; omega
  simp only [Opcode.w2Bad, hgap, zero_zero]

theorem encAcc_lt (acc : AccMode) : encAcc acc < 3 := by cases acc <;> decide

theorem w2Bad_mmul (arow : BitVec 9) (acc : AccMode) (slice : BitVec 6) (dual : Bool) :
    Opcode.w2Bad .mmul (BitVec.ofNat 32 (arow.toNat + 512 * encAcc acc + 2048 * slice.toNat + 131072 * encBool dual)).toNat = 0 := by
  have ha := arow.isLt; have hc := encAcc_lt acc; have hs := slice.isLt; have hd := encBool_lt dual
  rw [toNat_ofNat_lt (by omega)]
  have hacc : fld (arow.toNat + 512 * encAcc acc + 2048 * slice.toNat + 131072 * encBool dual) 9 4 = encAcc acc := by
    simp only [fld]; norm_num only; omega
  have hmode : (encAcc acc != 3) = true := bne_iff_ne.mpr (by omega)
  simp only [Opcode.w2Bad, hacc, hmode, zero_div_of_lt (show arow.toNat + 512 * encAcc acc + 2048 * slice.toNat + 131072 * encBool dual < 262144 by omega),
    must_true, worst_zero]

/-- ROW, NROW and POS of MRD and MWR. -/
theorem w2Bad_rows (arow : BitVec 9) (nrow : BitVec 4) (pos : BitVec 6) :
    zero ((BitVec.ofNat 32 (arow.toNat + 512 * nrow.toNat + 8192 * pos.toNat)).toNat / 524288) = 0 := by
  have ha := arow.isLt; have hn := nrow.isLt; have hp := pos.isLt
  rw [toNat_ofNat_lt (by omega), zero_div_of_lt (by omega)]

theorem w2Bad_mzero (arow : BitVec 9) (nrow : BitVec 4) : Opcode.w2Bad .mzero (BitVec.ofNat 32 (arow.toNat + 512 * nrow.toNat)).toNat = 0 := by
  have ha := arow.isLt; have hn := nrow.isLt
  rw [toNat_ofNat_lt (by omega)]
  exact zero_div_of_lt (by omega)

theorem w2Bad_mspill (u : MxUnit) : Opcode.w2Bad .mspill (BitVec.ofNat 32 (encUnit u)).toNat = 0 := by
  cases u with
  | bank b => revert b; decide
  | front => rfl
  | back => rfl

theorem w2Bad_mfill (u : MxUnit) (wi : Bool) : Opcode.w2Bad .mfill (BitVec.ofNat 32 (encUnit u + 4 * encBool wi)).toNat = 0 := by
  cases u with
  | bank b => revert b wi; decide
  | front => revert wi; decide
  | back => revert wi; decide

theorem tagOk_of_tagPlainOk {tag : BitVec 16} (h : tagPlainOk tag = true) : tagOk tag = true := (Bool.and_eq_true_iff.mp h).1

theorem tagOk_of_tagIntOk {tag : BitVec 16} (h : tagIntOk tag = true) : tagOk tag = true := tagOk_of_tagPlainOk (Bool.and_eq_true_iff.mp h).1

theorem tagOk_small {tag : BitVec 16} (h : tagOk tag = true) : tag.toNat < 8192 := by
  simp only [tagOk, Bool.and_eq_true, beq_iff_eq] at h
  omega

/-- A tag that the opcode's own check takes breaks none of R88's checks, in a word or a literal. -/
theorem tagBad_setWidth {ok : BitVec 16 → Bool} {tag : BitVec 16} {n : Nat} (hn : 16 ≤ n) (hs : tag.toNat < 8192) (h : ok tag = true) :
    tagBad ok (tag.setWidth n).toNat = 0 := by
  simp only [tagBad, BitVec.toNat_setWidth_of_le hn, zero_div_of_lt hs, Nat.mod_eq_of_lt hs, BitVec.ofNat_toNat, BitVec.setWidth_eq, h, must_true, worst_zero]

end Sys2Proof
end

-- ==== Proofs: operand forms ====
section
/-! SUPPORT. An instruction and its operand form: the form names the instruction, and its opcode admits it (O53). -/
namespace Sys2Proof

/-- The operand form of an instruction names it again. -/
theorem instr_of_rawOf {i : Instr} {r : Raw} (h : rawOf i = some r) : r.instr = some i := by
  cases i
  -- Word 2 or a literal packs fields.
  case trap => exact Laws.Encoding.trap _ _ _ h
  case csrr => exact Laws.Encoding.csrr _ _ _ _ h
  case csrw => exact Laws.Encoding.csrw _ _ _ h
  case vmulwExt => exact Laws.Encoding.vmulwExt _ _ _ _ h
  case vshlExt => exact Laws.Encoding.vshlExt _ _ _ _ h
  case vshrExt => exact Laws.Encoding.vshrExt _ _ _ _ h
  case vsraExt => exact Laws.Encoding.vsraExt _ _ _ _ h
  case vclassExt => exact Laws.Encoding.vclassExt _ _ _ _ h
  case vfill => exact Laws.Encoding.vfill _ _ _ _ _ h
  case vbcast => exact Laws.Encoding.vbcast _ _ _ _ _ h
  case vid => exact Laws.Encoding.vid _ _ _ _ h
  case vcvt => exact Laws.Encoding.vcvt _ _ _ _ h
  case vscaleExt => exact Laws.Encoding.vscaleExt _ _ _ _ h
  case vtag => exact Laws.Encoding.vtag _ _ _ _ h
  case vdotExt => exact Laws.Encoding.vdotExt _ _ _ _ h
  case vrotExt => exact Laws.Encoding.vrotExt _ _ _ _ h
  case vslideExt => exact Laws.Encoding.vslideExt _ _ _ _ _ h
  case vextExt => exact Laws.Encoding.vextExt _ _ _ _ h
  case vinsExt => exact Laws.Encoding.vinsExt _ _ _ _ h
  case vld => exact Laws.Encoding.vld _ _ _ _ h
  case vlds => exact Laws.Encoding.vlds _ _ _ _ h
  case vldx => exact Laws.Encoding.vldx _ _ _ _ h
  case vldff => exact Laws.Encoding.vldff _ _ _ _ h
  case wtestExt => exact Laws.Encoding.wtestExt _ _ _ _ h
  case barExt => exact Laws.Encoding.barExt _ _ _ _ _ _ h
  case mmul => exact Laws.Encoding.mmul _ _ _ _ _ _ h
  case mrd => exact Laws.Encoding.mrd _ _ _ _ _ _ h
  case mwr => exact Laws.Encoding.mwr _ _ _ _ _ h
  case mzero => exact Laws.Encoding.mzero _ _ _ _ h
  case mspill => exact Laws.Encoding.mspill _ _ _ h
  case mfill => exact Laws.Encoding.mfill _ _ _ _ h
  case wload => exact Laws.Encoding.wload _ _ _ h
  case wloada => exact Laws.Encoding.wloada _ _ _ h
  case wstat => exact Laws.Encoding.wstat _ _ _ _ h
  case plockExt => exact Laws.Encoding.plockExt _ _ _ _ _ h
  case pstatExt => exact Laws.Encoding.pstatExt _ _ _ _ h
  case vldp => exact Laws.Encoding.vldp _ _ _ _ h
  case cpsetExt => exact Laws.Encoding.cpsetExt _ _ _ h
  case cpqfExt => exact Laws.Encoding.cpqfExt _ _ _ _ h
  -- Every other form holds the operands as they are.
  all_goals cases h <;> rfl

theorem fits_taggedLoad {op : Opcode} {b : BForm} {m : MWord} {tag : BitVec 16} {ok : BitVec 16 → Bool} (hlens : op.lens.contains 3 = true)
    (hlayout : op.layout = .mem) (hresult : op.noResult = false) (hlit : ∀ n, op.litBad n = tagBad ok n) (hm : mwordOk op.accepts m = true)
    (hs : tag.toNat < 8192) (ht : ok tag = true) : Raw.fits ⟨op, .m b m (some (tag.setWidth 64))⟩ = true := by
  refine fits_m _ _ _ _ hlens hlayout hm (fun h => absurd h (by simp only [hresult, Bool.false_eq_true, not_false_eq_true])) fun v hv => ?_
  rw [hlit, ← Option.some.inj hv]
  exact tagBad_setWidth (by decide) hs ht

/-- What makes an instruction well formed is what its opcode asks of the fields of its words (R88). -/
theorem fits_of_rawOf {i : Instr} {r : Raw} (hw : wellFormed i = true) (h : rawOf i = some r) : r.fits = true := by
  cases i
  all_goals cases h
  -- Register reads and writes, and direct exits (R80, R81).
  case rds => exact fits_rr _ _ rfl rfl (BitVec.isLt _)
  case rdv | rdm => exact fits_rr _ _ rfl rfl (of_decide_eq_true hw)
  case wrs => exact fits_rw _ _ rfl rfl (BitVec.isLt _)
  case wrv | wrm => exact fits_rw _ _ rfl rfl (of_decide_eq_true hw)
  case br | call | yield | sysc => exact fits_j _ _ rfl rfl
  -- Word 0 alone in the B layout (R78).
  case mov | null | pcb | setvl | lclaim | add | sub | mul | mulh | mulhn | div | divn | rem | remn | and | or | xor | andn | shl | shr | sra | rotl |
    min | max | minn | maxn | clz | ctz | popc | bswap | sext | zext | bfx | bfi | sel | teq | tne | tlt | tle | tltn | tlen | tbit | sptest | spcast
    | padd | mand | mor | mxor | mnot | mpop | mfirst | wjoin | wnow | wtest | bar | mclaim | plock | plaunch | pfence | pstat | cpgo | cpstat =>
    exact fits_b _ _ rfl (.inr ⟨rfl, rfl⟩)
  case vadd | vsub | vmul | vmulw | vfma | vfms | vdiv | vsqrt | vrcp | vrsq | vexp2 | vlog2 | vmin | vmax | vabs | vneg | vand | vor | vxor | vnot |
    vshl | vshr | vsra | vceq | vcne | vclt | vcle | vcun | vclass | vsel | vscale | vsum | vrmax | vrmin | vdot | vperm | vrot | vslide | vcomp |
    vexpd | vext | vins =>
    exact fits_b _ _ rfl (.inl rfl)
  case bri | calli | halt | eret | icinv | tlbinv | wfloor | mrel | punlock | cpset | cpqf | cpabort => exact fits_p _ _ rfl rfl rfl
  -- General words 1 and 2 (R82, R86).
  case movExt | nullExt | clzExt | ctzExt | popcExt | bswapExt | sptestExt | mandExt | morExt | mxorExt | mnotExt | mpopExt | mfirstExt | wnowExt |
    plaunchExt | pfenceExt | cpgoExt | cpstatExt =>
    exact fits_x _ _ _ _ rfl rfl rfl rfl rfl
  case csrr => exact fits_x _ _ _ _ rfl rfl rfl rfl (w2Bad_csrr _ hw)
  case wtestExt => exact fits_x _ _ _ _ rfl rfl rfl rfl (w2Bad_wtest _ hw)
  case barExt => exact fits_x _ _ _ _ rfl rfl rfl rfl (w2Bad_bar _ _ _ (of_decide_eq_true hw))
  case plockExt => exact fits_x _ _ _ _ rfl rfl rfl rfl (w2Bad_plock _ _)
  case pstatExt => exact fits_x _ _ _ _ rfl rfl rfl rfl (zero_div_encBool _)
  case wfloorExt => exact fits_px _ _ _ rfl rfl rfl rfl
  case trap => exact fits_px _ _ _ rfl rfl rfl (zero_div_setWidth _ (by decide))
  case csrw => exact fits_px _ _ _ rfl rfl rfl (w2Bad_csrw _ hw)
  case cpsetExt => exact fits_px _ _ _ rfl rfl rfl (w2Bad_cpset _ (of_decide_eq_true hw))
  case cpqfExt => exact fits_px _ _ _ rfl rfl rfl (w2Bad_cpqf _ _)
  case lit | pcbExt | addImm | subImm | mulImm | mulhImm | mulhnImm | divImm | divnImm | remImm | remnImm | andImm | orImm | xorImm | andnImm | shlImm
    | shrImm | sraImm | rotlImm | minImm | maxImm | minnImm | maxnImm | sextImm | zextImm | bfxImm | bfiImm | selImm | teqImm | tneImm | tltImm |
    tleImm | tltnImm | tlenImm | tbitImm | spcastImm | paddImm | wjoinImm =>
    exact fits_imm _ _ _ ⟨rfl, rfl, rfl⟩ rfl rfl rfl
  -- Vector words 1 and 2 (R82, R136, R137).
  case vaddExt | vsubExt | vmulExt | vfmaExt | vfmsExt | vdivExt | vsqrtExt | vrcpExt | vrsqExt | vexp2Ext | vlog2Ext | vminExt | vmaxExt | vabsExt |
    vnegExt | vandExt | vorExt | vxorExt | vnotExt | vceqExt | vcneExt | vcltExt | vcleExt | vcunExt | vselExt | vsumExt | vrmaxExt | vrminExt |
    vpermExt | vcompExt | vexpdExt =>
    exact fits_v _ _ _ _ _ rfl rfl hw rfl
  case vmulwExt | vdotExt => exact fits_v _ _ _ _ _ rfl rfl hw (zero_div_encBool _)
  case vshlExt | vshrExt | vsraExt => exact fits_v _ _ _ _ _ rfl rfl hw (ibBad_encIb (k := 8) (by decide) _)
  case vrotExt | vextExt | vinsExt => exact fits_v _ _ _ _ _ rfl rfl hw (ibBad_encIb (k := 14) (by decide) _)
  case vslideExt => exact fits_v _ _ _ _ _ rfl rfl hw (w2Bad_vslide _ _)
  case vclassExt | vscaleExt => exact fits_v _ _ _ _ _ rfl rfl hw (zero_div_setWidth _ (by decide))
  case vfill b v tag l | vbcast b v tag l =>
    obtain ⟨hv, ht⟩ := Bool.and_eq_true_iff.mp hw
    refine fits_v _ _ _ _ _ ?_ rfl hv (tagBad_setWidth (by decide) (tagOk_small ht) ht)
    cases l <;> rfl
  case vcvt | vtag =>
    obtain ⟨hv, ht⟩ := Bool.and_eq_true_iff.mp hw
    exact fits_v _ _ _ _ _ rfl rfl hv (tagBad_setWidth (by decide) (tagOk_small ht) ht)
  case vid =>
    obtain ⟨hv, ht⟩ := Bool.and_eq_true_iff.mp hw
    exact fits_v _ _ _ _ _ rfl rfl hv (tagBad_setWidth (by decide) (tagOk_small (tagOk_of_tagIntOk ht)) ht)
  -- Memory words (R83, R166, R239) and result tags (R179, R262).
  case ld | vst | vsts | vstx | vsadd | vstp => exact fits_m _ _ _ _ rfl rfl hw (fun h => nomatch h) (fun _ h => nomatch h)
  case pref =>
    simp only [wellFormed, Bool.and_eq_true] at hw
    obtain ⟨⟨⟨hm, ht0⟩, ht1⟩, ht2⟩ := hw
    exact fits_m _ _ _ _ rfl rfl hm (fun _ => by simp only [noTargets, ht0, ht1, ht2, Bool.and_self]) (fun _ h => nomatch h)
  case st b m l | aadd b m l | aswap b m l | acas b m l | amin b m l | amax b m l | aand b m l | aor b m l | axor b m l | mwait b m l | claimel b m l =>
    exact fits_m _ _ _ _ (by cases l <;> rfl) rfl hw (fun h => nomatch h) (fun _ _ => rfl)
  case vld =>
    obtain ⟨hm, ht⟩ := Bool.and_eq_true_iff.mp hw
    exact fits_taggedLoad rfl rfl rfl (fun _ => rfl) hm (tagOk_small ht) ht
  case vlds | vldx | vldff =>
    obtain ⟨hm, ht⟩ := Bool.and_eq_true_iff.mp hw
    exact fits_taggedLoad rfl rfl rfl (fun _ => rfl) hm (tagOk_small (tagOk_of_tagPlainOk ht)) ht
  case vldp =>
    obtain ⟨hm, ht⟩ := Bool.and_eq_true_iff.mp hw
    exact fits_taggedLoad rfl rfl rfl (fun _ => rfl) hm (tagOk_small (tagOk_of_tagIntOk ht)) ht
  -- Matrix words (R84, R200).
  case mdecay | wcfg | wtable | wswap => exact fits_k _ _ _ _ rfl rfl (fun _ => rfl) rfl
  case wexp => exact fits_k _ _ _ _ rfl rfl (fun h => nomatch h) rfl
  case wstat => exact fits_k _ _ _ _ rfl rfl (fun h => nomatch h) (zero_div_encBool _)
  case wload => exact fits_k _ _ _ _ rfl rfl (fun _ => rfl) (zero_div_encBool _)
  case wloada => exact fits_k _ _ _ _ rfl rfl (fun _ => rfl) (zero_div_setWidth _ (by decide))
  case mmul => exact fits_k _ _ _ _ rfl rfl (fun _ => rfl) (w2Bad_mmul _ _ _ _)
  case mrd => exact fits_k _ _ _ _ rfl rfl (fun h => nomatch h) (w2Bad_rows _ _ _)
  case mwr => exact fits_k _ _ _ _ rfl rfl (fun _ => rfl) (w2Bad_rows _ _ _)
  case mzero => exact fits_k _ _ _ _ rfl rfl (fun _ => rfl) (w2Bad_mzero _ _)
  case mspill => exact fits_k _ _ _ _ rfl rfl (fun _ => rfl) (w2Bad_mspill _)
  case mfill => exact fits_k _ _ _ _ rfl rfl (fun _ => rfl) (w2Bad_mfill _ _)

end Sys2Proof
end

-- ==== Proofs: furrow words ====
section
/-! SUPPORT. Furrow words, read back field by field (R91, O53). -/
namespace Sys2Proof

theorem encFurrow_word {qop i : Nat} {s d : BitVec 10} {w : Word32} (hq : qop < 16) (hi : i < 256) (h : encFurrow qop s d i = [w]) :
    w.toNat % 16 = qop ∧ fld w.toNat 4 1024 = s.toNat ∧ fld w.toNat 14 1024 = d.toNat ∧ fld w.toNat 24 256 = i := by
  have hs := s.isLt; have hd := d.isLt
  have hw : w.toNat = qop + 16 * s.toNat + 16384 * d.toNat + 16777216 * i := by
    rw [← List.singleton_inj.mp h, toNat_ofNat_lt (by omega)]
  simp only [hw, fld]
  norm_num only
  omega

/-- PAR in the low three bits of a furrow word's last field and BIT above it. -/
theorem parBit_lt (par : BitVec 3) (bit : BitVec 5) : 8 * bit.toNat + par.toNat < 256 := by
  have := par.isLt; have := bit.isLt
  omega

theorem parBit_par (par : BitVec 3) (bit : BitVec 5) : (8 * bit.toNat + par.toNat) % 8 = par.toNat := by
  have := par.isLt
  omega

theorem parBit_bit (par : BitVec 3) (bit : BitVec 5) : (8 * bit.toNat + par.toNat) / 8 = bit.toNat := by
  have := par.isLt
  omega

/-- QSKIP's CNT with I above it, in the source field. -/
theorem skip_count_fields (cnt : BitVec 5) (inv : Bool) :
    (BitVec.ofNat 10 (cnt.toNat + 32 * encBool inv)).toNat = cnt.toNat + 32 * encBool inv ∧ cnt.toNat + 32 * encBool inv < 64 ∧
    (cnt.toNat + 32 * encBool inv) % 32 = cnt.toNat ∧ (cnt.toNat + 32 * encBool inv) / 32 = encBool inv := by
  have hcnt := cnt.isLt; have hinv := encBool_lt inv
  rw [BitVec.toNat_ofNat]
  omega

/-- The decoder of furrow words reads back each word of the encoder. -/
theorem decodeFurrow_of_encode {i : Instr} {w : Word32} (hw : wellFormed i = true) (h : rawOf i = none) (he : encode i = [w]) :
    decodeFurrow w = some i := by
  -- A block instruction has an operand form and an event no word: only furrow words meet this.
  have hword : (rawOf i, encode i) = (none, [w]) := Prod.ext h he
  cases i
  case qcopy s d | qnot s d | qshl s d | qshr s d =>
    obtain ⟨hs, hd⟩ := Bool.and_eq_true_iff.mp hw
    obtain ⟨hqop, hsrc, hdst, himm⟩ := encFurrow_word (by decide) (by decide) he
    simp [decodeFurrow, hqop, hsrc, hdst, himm, hs, hd]
  case qmaj tr =>
    obtain ⟨hqop, hsrc, hdst, himm⟩ := encFurrow_word (by decide) (tr.isLt.trans (by decide)) he
    simp [decodeFurrow, hqop, hsrc, hdst, himm, tr.isLt]
  case qset v d par bit =>
    obtain ⟨hqop, hsrc, hdst, himm⟩ := encFurrow_word (by decide) (parBit_lt par bit) he
    have hrow : rowOk d = true := hw
    cases v <;> simp only [decodeFurrow, hqop, hsrc, hdst, himm, parBit_par, parBit_bit, BitVec.ofNat_toNat, BitVec.setWidth_eq, hrow] <;> rfl
  case qvmc s d lay =>
    obtain ⟨hs, hd⟩ := Bool.and_eq_true_iff.mp hw
    obtain ⟨hqop, hsrc, hdst, himm⟩ := encFurrow_word (by decide) (lay.isLt.trans (by decide)) he
    simp [decodeFurrow, hqop, hsrc, hdst, himm, hs, hd, lay.isLt]
  case qloop n =>
    obtain ⟨hqop, hsrc, hdst, himm⟩ := encFurrow_word (by decide) n.isLt he
    have hn : n.toNat ≠ 0 := BitVec.toNat_ne.mp (bne_iff_ne.mp hw)
    simp [decodeFurrow, hqop, hsrc, hdst, himm, hn]
  case qloopPar par =>
    obtain ⟨hqop, hsrc, hdst, himm⟩ := encFurrow_word (by decide) (by decide) he
    have hpar : (par.setWidth 10).toNat = par.toNat := BitVec.toNat_setWidth_of_le (by decide)
    simp [decodeFurrow, hqop, hsrc, hdst, himm, hpar, par.isLt]
  case qskip cnt inv v par bit =>
    obtain ⟨hqop, hsrc, hdst, himm⟩ := encFurrow_word (by decide) (parBit_lt par bit) he
    obtain ⟨hcnt, hlt, hmod, hdiv⟩ := skip_count_fields cnt inv
    have hv : (BitVec.ofNat 10 (encBool v)).toNat = encBool v := by cases v <;> rfl
    simp only [decodeFurrow, hqop, hsrc.trans hcnt, hdst.trans hv, himm, parBit_par, parBit_bit, BitVec.ofNat_toNat, BitVec.setWidth_eq, hlt, hmod, hdiv,
      encBool_lt, decBool_enc, decide_true, Bool.and_self, if_true]
  case qend | qsafe | qret =>
    obtain rfl := List.singleton_inj.mp he
    rfl
  all_goals cases hword

end Sys2Proof
end

-- ==== Proofs: encodings ====
section
/-! SUPPORT. Decoding inverts encoding (O53), and words written out from the tables (O52). -/
namespace Sys2Proof

theorem encode_of_rawOf {i : Instr} {r : Raw} (h : rawOf i = some r) : encode i = encodeRaw r := by
  cases i
  all_goals cases h <;> rfl

theorem decodeInstr_of_slot {ws : List Word32} {r : Raw} {i : Instr} {n : Nat} (hs : decodeSlot ws = .ok r n) (hi : r.instr = some i) :
    decodeInstr ws = some (i, n) := by
  rw [decodeInstr, hs]
  simp only [hi, Option.map_some]

theorem decodeInstr_encode_append {i : Instr} {r : Raw} (ws : List Word32) (hw : wellFormed i = true) (h : rawOf i = some r) :
    decodeInstr (encode i ++ ws) = some (i, (encode i).length) := by
  rw [encode_of_rawOf h]
  exact decodeInstr_of_slot (decodeSlot_encode r ws (fits_of_rawOf hw h)) (instr_of_rawOf h)

theorem decodeInstr_encode {i : Instr} {r : Raw} (hw : wellFormed i = true) (h : rawOf i = some r) :
    decodeInstr (encode i) = some (i, (encode i).length) := by
  simpa only [List.append_nil] using decodeInstr_encode_append [] hw h

/-- Settles O53: a block instruction by its operand form, a furrow word by its fields. -/
theorem decodingInvertsEncoding : Obligations.DecodingInvertsEncoding := by
  refine ⟨fun i hw h => ?block, fun i w hw h he => decodeFurrow_of_encode hw h he, fun i ws hw h => ?followed⟩
  case block =>
    obtain ⟨r, hr⟩ := Option.isSome_iff_exists.mp h
    exact decodeInstr_encode hw hr
  case followed =>
    obtain ⟨r, hr⟩ := Option.isSome_iff_exists.mp h
    exact decodeInstr_encode_append ws hw hr

/-! Words written out (O52). -/

theorem decodeInstr_of_encode {i : Instr} {r : Raw} {ws : List Word32} {n : Nat} (he : encode i = ws) (hn : ws.length = n)
    (hw : wellFormed i = true) (h : rawOf i = some r) : decodeInstr ws = some (i, n) := by
  subst he hn
  exact decodeInstr_encode hw h

theorem decodeInstr_of_illegal {ws : List Word32} {tinfo : Nat} (h : decodeSlot ws = .illegal tinfo) : decodeInstr ws = none := by
  rw [decodeInstr, h]

theorem decodeInstr_of_short {ws : List Word32} (h : decodeSlot ws = .short) : decodeInstr ws = none := by
  rw [decodeInstr, h]

/-- Settles O52: each word of the tables is its instruction's encoding; each other word breaks the check of R88 named by its TINFO. -/
theorem wordsOfTheEncodingTables : Obligations.WordsOfTheEncodingTables := by
  refine ⟨?_, ?_, ?_, ?_, ?_, ?_, ?_, ?_, ?_, ?_, ?_, ?qcopy, ?qskip, ?qloop, ?qmaj, ?qop12, ?zeroWord, ?predicate, ?opcode, ?missing, ?reserved⟩
  case qcopy | qskip | qloop | qmaj => exact decodeFurrow_of_encode rfl rfl rfl
  case qop12 => rfl
  case zeroWord => exact decodeInstr_of_illegal (tinfo := 1) rfl
  case predicate => exact decodeInstr_of_illegal (tinfo := 3) rfl
  case opcode => exact decodeInstr_of_illegal (tinfo := 1) rfl
  case missing => exact decodeInstr_of_short rfl
  case reserved => exact decodeInstr_of_illegal (tinfo := 4) rfl
  all_goals exact decodeInstr_of_encode rfl rfl rfl rfl

end Sys2Proof
end

-- ==== Proofs: scalar results ====
section
/-! SUPPORT. How an instruction without an exit completes by what its body gives; the scalar results of arithmetic, bitwise operations, shifts, compares
and SEL (R48, R128, R129; O1, O2, O3). -/
namespace Sys2Proof.Machine

/-! Completion by the body. -/
section
variable {i : Instr} {r : Raw} {f g : Firing → Word}

/-- As `completes_give`, for a body whose outputs follow from the words and operands alone and take no exit. -/
theorem completes_body {body : Firing → Fired} {ok : Firing → Prop} {o : Firing → Out}
    (hb : ∀ x, x.raw = r → ok x → body x = .give x.st (o x))
    (he : ∀ s : State, exec i s = .next (runSlot r body s) := by intro; rfl) (hexit : ∀ x, (o x).exit = none := by intro; rfl) :
    Completes i r ok o :=
  completes_give i r body ok o he fun s x hx hok => ⟨hb x (s.firing_raw r x hx) hok, .inl (hexit x)⟩

theorem completes_scalar (hfg : ∀ x, f x = g x)
    (he : ∀ s : State, exec i s = .next (runSlot r (fun x => x.value (f x)) s) := by intro; rfl) :
    Completes i r Acts (fun x => scalarOut (g x)) :=
  completes_value i r f g he hfg

/-- As `completes_scalar`, where the value is known under a condition. -/
theorem completes_scalar_if {ok : Firing → Prop} (hfg : ∀ x, ok x → f x = g x)
    (he : ∀ s : State, exec i s = .next (runSlot r (fun x => x.value (f x)) s) := by intro; rfl) :
    Completes i r (fun x => Acts x ∧ ok x) (fun x => scalarOut (g x)) :=
  completes_body (fun x _ ⟨ha, hok⟩ => by rw [x.value_acts _ ha, hfg x hok]) he

theorem yields_scalar {good : Firing → Word → Prop} (hgood : ∀ x, good x (f x))
    (he : ∀ s : State, exec i s = .next (runSlot r (fun x => x.value (f x)) s) := by intro; rfl) : Yields i r Acts good :=
  yields_give i r _ Acts good he fun _ x _ ha => ⟨f x, x.value_acts _ ha, hgood x⟩
end

/-! Products, quotients and remainders (R48). -/
theorem mulhnValue_eq (a b : Word) : mulhnValue a b = BitVec.ofNat 64 (a.toNat * b.toNat / 2 ^ 64) := by
  rw [mulhnValue, high, ← BitVec.ofInt_natCast]
  norm_cast

theorem divValue_eq (a b : Word) : divValue a b = if b = 0 then BitVec.allOnes 64 else a.sdiv b := by
  have hquot : BitVec.ofInt 64 (a.toInt.tdiv b.toInt) = a.sdiv b := BitVec.eq_of_toInt_eq (by rw [BitVec.toInt_ofInt, BitVec.toInt_sdiv])
  rw [divValue, sdiv, hquot]

theorem divnValue_eq (a b : Word) : divnValue a b = if b = 0 then BitVec.allOnes 64 else a / b := by
  rw [divnValue, udiv, ← BitVec.toNat_udiv, BitVec.ofNat_toNat, BitVec.setWidth_eq]

theorem remValue_eq (a b : Word) : remValue a b = if b = 0 then a else a.srem b := by
  rw [remValue, srem, ← BitVec.toInt_srem, BitVec.ofInt_toInt]

theorem remnValue_eq (a b : Word) : remnValue a b = if b = 0 then a else a % b := by
  rw [remnValue, urem, ← BitVec.toNat_umod, BitVec.ofNat_toNat, BitVec.setWidth_eq]

/-- Settles O1: each result by the lemma on its value, the same for both forms. -/
theorem scalarArithmetic : Obligations.ScalarArithmetic :=
  ⟨fun _ => completes_scalar fun _ => rfl, fun _ _ => completes_scalar fun _ => rfl,
   fun _ => completes_scalar fun _ => rfl, fun _ _ => completes_scalar fun _ => rfl,
   fun _ => completes_scalar fun _ => rfl, fun _ _ => completes_scalar fun _ => rfl,
   fun _ => completes_scalar fun _ => rfl, fun _ _ => completes_scalar fun _ => rfl,
   fun _ => completes_scalar fun _ => mulhnValue_eq _ _, fun _ _ => completes_scalar fun _ => mulhnValue_eq _ _,
   fun _ => completes_scalar fun _ => divValue_eq _ _, fun _ _ => completes_scalar fun _ => divValue_eq _ _,
   fun _ => completes_scalar fun _ => divnValue_eq _ _, fun _ _ => completes_scalar fun _ => divnValue_eq _ _,
   fun _ => completes_scalar fun _ => remValue_eq _ _, fun _ _ => completes_scalar fun _ => remValue_eq _ _,
   fun _ => completes_scalar fun _ => remnValue_eq _ _, fun _ _ => completes_scalar fun _ => remnValue_eq _ _⟩

/-! Shifts. -/
theorem sh_eq (b : Word) : sh b = b.toNat % 64 := bitsAt_zero b 6

theorem shlValue_eq (a b : Word) : shlValue a b = a <<< (b.toNat % 64) := by rw [shlValue, sh_eq]

theorem shrValue_eq (a b : Word) : shrValue a b = a >>> (b.toNat % 64) := by rw [shrValue, sh_eq]

theorem sraValue_eq (a b : Word) : sraValue a b = a.sshiftRight (b.toNat % 64) := by rw [sraValue, sh_eq]

theorem rotlValue_eq (a b : Word) : rotlValue a b = a.rotateLeft (b.toNat % 64) := by
  rw [rotlValue, sh_eq, BitVec.rotateLeft_def, Nat.mod_mod]

/-- Settles O2: the bitwise results are the model's own, a shift's count is B modulo 64. -/
theorem scalarLogicAndShifts : Obligations.ScalarLogicAndShifts :=
  ⟨fun _ => completes_scalar fun _ => rfl, fun _ _ => completes_scalar fun _ => rfl,
   fun _ => completes_scalar fun _ => rfl, fun _ _ => completes_scalar fun _ => rfl,
   fun _ => completes_scalar fun _ => rfl, fun _ _ => completes_scalar fun _ => rfl,
   fun _ => completes_scalar fun _ => rfl, fun _ _ => completes_scalar fun _ => rfl,
   fun _ => completes_scalar fun _ => shlValue_eq _ _, fun _ _ => completes_scalar fun _ => shlValue_eq _ _,
   fun _ => completes_scalar fun _ => shrValue_eq _ _, fun _ _ => completes_scalar fun _ => shrValue_eq _ _,
   fun _ => completes_scalar fun _ => sraValue_eq _ _, fun _ _ => completes_scalar fun _ => sraValue_eq _ _,
   fun _ => completes_scalar fun _ => rotlValue_eq _ _, fun _ _ => completes_scalar fun _ => rotlValue_eq _ _⟩

/-! Minima, maxima and tests (R129). -/
/-- Where equal keys mean equal values, a choice by `<` is a choice by `≤`. -/
theorem ite_lt_eq_ite_le {α β : Type} [LinearOrder α] {a b : α} {x y : β} (h : a = b → x = y) :
    (if a < b then x else y) = if a ≤ b then x else y := by
  rcases lt_trichotomy a b with hlt | heq | hgt
  · rw [if_pos hlt, if_pos hlt.le]
  · rw [h heq, ite_self, ite_self]
  · rw [if_neg hgt.not_gt, if_neg hgt.not_ge]

theorem minValue_eq (a b : Word) : minValue a b = if a.toInt ≤ b.toInt then a else b := by
  simp only [minValue, BitVec.slt_iff_toInt_lt]
  exact ite_lt_eq_ite_le fun h => BitVec.eq_of_toInt_eq h

theorem maxValue_eq (a b : Word) : maxValue a b = if a.toInt ≤ b.toInt then b else a := by
  simp only [maxValue, BitVec.slt_iff_toInt_lt]
  exact ite_lt_eq_ite_le fun h => (BitVec.eq_of_toInt_eq h).symm

theorem minnValue_eq (a b : Word) : minnValue a b = if a.toNat ≤ b.toNat then a else b := by
  simp only [minnValue, BitVec.ult_iff_lt, BitVec.lt_def]
  exact ite_lt_eq_ite_le fun h => BitVec.eq_of_toNat_eq h

theorem maxnValue_eq (a b : Word) : maxnValue a b = if a.toNat ≤ b.toNat then b else a := by
  simp only [maxnValue, BitVec.ult_iff_lt, BitVec.lt_def]
  exact ite_lt_eq_ite_le fun h => (BitVec.eq_of_toNat_eq h).symm

theorem teqValue_eq (a b : Word) : teqValue a b = if a = b then 1 else 0 := by
  simp only [teqValue, truth, beq_iff_eq]

theorem tneValue_eq (a b : Word) : tneValue a b = if a = b then 0 else 1 := by
  simp only [tneValue, truth, bne_iff_ne, ite_not]

theorem tltValue_eq (a b : Word) : tltValue a b = if a.toInt < b.toInt then 1 else 0 := by
  simp only [tltValue, truth, BitVec.slt_iff_toInt_lt]

theorem tleValue_eq (a b : Word) : tleValue a b = if a.toInt ≤ b.toInt then 1 else 0 := by
  simp only [tleValue, truth, BitVec.sle_iff_toInt_le]

theorem tltnValue_eq (a b : Word) : tltnValue a b = if a.toNat < b.toNat then 1 else 0 := by
  simp only [tltnValue, truth, BitVec.ult_iff_lt, BitVec.lt_def]

theorem tlenValue_eq (a b : Word) : tlenValue a b = if a.toNat ≤ b.toNat then 1 else 0 := by
  simp only [tlenValue, truth, BitVec.ule_iff_le, BitVec.le_def]

theorem tbitValue_eq (a b : Word) : tbitValue a b = if a.getLsbD (b.toNat % 64) then 1 else 0 := by
  rw [tbitValue, truth, ← sh, sh_eq]

/-- Settles O3: each result by the lemma on its value; SEL's is the model's own. -/
theorem scalarComparesAndSelects : Obligations.ScalarComparesAndSelects :=
  ⟨fun _ => completes_scalar fun _ => minValue_eq _ _, fun _ _ => completes_scalar fun _ => minValue_eq _ _,
   fun _ => completes_scalar fun _ => maxValue_eq _ _, fun _ _ => completes_scalar fun _ => maxValue_eq _ _,
   fun _ => completes_scalar fun _ => minnValue_eq _ _, fun _ _ => completes_scalar fun _ => minnValue_eq _ _,
   fun _ => completes_scalar fun _ => maxnValue_eq _ _, fun _ _ => completes_scalar fun _ => maxnValue_eq _ _,
   fun _ => completes_scalar fun _ => teqValue_eq _ _, fun _ _ => completes_scalar fun _ => teqValue_eq _ _,
   fun _ => completes_scalar fun _ => tneValue_eq _ _, fun _ _ => completes_scalar fun _ => tneValue_eq _ _,
   fun _ => completes_scalar fun _ => tltValue_eq _ _, fun _ _ => completes_scalar fun _ => tltValue_eq _ _,
   fun _ => completes_scalar fun _ => tleValue_eq _ _, fun _ _ => completes_scalar fun _ => tleValue_eq _ _,
   fun _ => completes_scalar fun _ => tltnValue_eq _ _, fun _ _ => completes_scalar fun _ => tltnValue_eq _ _,
   fun _ => completes_scalar fun _ => tlenValue_eq _ _, fun _ _ => completes_scalar fun _ => tlenValue_eq _ _,
   fun _ => completes_scalar fun _ => tbitValue_eq _ _, fun _ _ => completes_scalar fun _ => tbitValue_eq _ _,
   fun _ => completes_scalar fun _ => rfl, fun _ _ => completes_scalar fun _ => rfl⟩

end Sys2Proof.Machine
end

-- ==== Proofs: bits of a word ====
section
/-! SUPPORT. Counts of bits, the bytes of a word, extensions and bit fields (R128, O4). -/
namespace Sys2Proof.Machine

/-! CLZ and CTZ. -/
/-- The scan from bit n - 1 down finds the highest bit set below n, or none. -/
theorem scanDown_cases (a : Word) : ∀ n, (scanDown a n = 64 ∧ ∀ j < n, a.getLsbD j = false) ∨
    ∃ k < n, scanDown a n = 63 - k ∧ a.getLsbD k = true ∧ ∀ j, k < j → j < n → a.getLsbD j = false
  | 0 => .inl ⟨rfl, by simp⟩
  | n + 1 => by
    cases hbit : a.getLsbD n with
    | true => exact .inr ⟨n, by omega, by simp [scanDown, hbit], hbit, by omega⟩
    | false =>
      have hstep : scanDown a (n + 1) = scanDown a n := by simp [scanDown, hbit]
      have hlast {j : Nat} (hj : j < n + 1) (h : j < n → a.getLsbD j = false) : a.getLsbD j = false := by
        rcases Nat.lt_succ_iff_lt_or_eq.mp hj with hlt | rfl
        · exact h hlt
        · exact hbit
      rw [hstep]
      rcases scanDown_cases a n with ⟨hnone, hclear⟩ | ⟨k, hk, hfound, hset, hclear⟩
      · exact .inl ⟨hnone, fun j hj => hlast hj (hclear j)⟩
      · exact .inr ⟨k, by omega, hfound, hset, fun j hkj hj => hlast hj (hclear j hkj)⟩

/-- The scan of n bits from bit k up finds the lowest bit set, or none. -/
theorem scanUp_cases (a : Word) : ∀ n k, (scanUp a n k = k + n ∧ ∀ j, k ≤ j → j < k + n → a.getLsbD j = false) ∨
    ∃ i, k ≤ i ∧ i < k + n ∧ scanUp a n k = i ∧ a.getLsbD i = true ∧ ∀ j, k ≤ j → j < i → a.getLsbD j = false
  | 0, k => .inl ⟨rfl, by omega⟩
  | n + 1, k => by
    cases hbit : a.getLsbD k with
    | true => exact .inr ⟨k, le_rfl, by omega, by simp [scanUp, hbit], hbit, by omega⟩
    | false =>
      have hstep : scanUp a (n + 1) k = scanUp a n (k + 1) := by simp [scanUp, hbit]
      have hfirst {j : Nat} (hj : k ≤ j) (h : k + 1 ≤ j → a.getLsbD j = false) : a.getLsbD j = false := by
        rcases Nat.eq_or_lt_of_le hj with rfl | hlt
        · exact hbit
        · exact h hlt
      rw [hstep]
      rcases scanUp_cases a n (k + 1) with ⟨hnone, hclear⟩ | ⟨i, hi, hin, hfound, hset, hclear⟩
      · exact .inl ⟨by omega, fun j hj hjn => hfirst hj fun h => hclear j h (by omega)⟩
      · exact .inr ⟨i, by omega, by omega, hfound, hset, fun j hj hji => hfirst hj fun h => hclear j h hji⟩

theorem eq_zero_of_getLsbD {a : Word} (h : ∀ j < 64, a.getLsbD j = false) : a = 0 :=
  BitVec.eq_of_getLsbD_eq fun j hj => by simp [h j hj]

theorem ne_zero_of_getLsbD {a : Word} {k : Nat} (h : a.getLsbD k = true) : a ≠ 0 := by
  rintro rfl
  simp at h

theorem clzValue_spec (a : Word) : if a = 0 then clzValue a = 64 else
    (clzValue a).toNat < 64 ∧ a.getLsbD (63 - (clzValue a).toNat) = true ∧ ∀ j, j < (clzValue a).toNat → a.getLsbD (63 - j) = false := by
  rcases scanDown_cases a 64 with ⟨hnone, hclear⟩ | ⟨k, hk, hfound, hset, hclear⟩
  · rw [if_pos (eq_zero_of_getLsbD hclear), clzValue, clz, hnone]
    rfl
  · have hv : (clzValue a).toNat = 63 - k := by
      rw [clzValue, clz, hfound, BitVec.toNat_ofNat, Nat.mod_eq_of_lt (by omega)]
    rw [if_neg (ne_zero_of_getLsbD hset), hv, show 63 - (63 - k) = k by omega]
    exact ⟨by omega, hset, fun j hj => hclear _ (by omega) (by omega)⟩

theorem ctzValue_spec (a : Word) : if a = 0 then ctzValue a = 64 else
    (ctzValue a).toNat < 64 ∧ a.getLsbD (ctzValue a).toNat = true ∧ ∀ j, j < (ctzValue a).toNat → a.getLsbD j = false := by
  rcases scanUp_cases a 64 0 with ⟨hnone, hclear⟩ | ⟨i, -, hi, hfound, hset, hclear⟩
  · rw [if_pos (eq_zero_of_getLsbD fun j hj => hclear j (by omega) (by omega)), ctzValue, ctz, hnone]
    rfl
  · have hv : (ctzValue a).toNat = i := by
      rw [ctzValue, ctz, hfound, BitVec.toNat_ofNat, Nat.mod_eq_of_lt (by omega)]
    rw [if_neg (ne_zero_of_getLsbD hset), hv]
    exact ⟨by omega, hset, fun j hj => hclear j (by omega) hj⟩

/-! POPC. -/
theorem countBits_eq_countP (n x : Nat) : countBits n x = (List.range n).countP (fun j => x.testBit j) := by
  induction n generalizing x with
  | zero => rfl
  | succ n ih =>
    rw [countBits, ih, List.range_succ_eq_map, List.countP_cons, List.countP_map]
    have hrest : (fun j => x.testBit j) ∘ Nat.succ = fun j => (x / 2).testBit j := funext fun j => Nat.testBit_succ x j
    rw [hrest, Nat.testBit_zero]
    rcases Nat.mod_two_eq_zero_or_one x with h | h <;> simp [h, Nat.add_comm]

theorem popcValue_eq (a : Word) : popcValue a = BitVec.ofNat 64 ((List.range 64).countP (fun j => a.getLsbD j)) := by
  rw [popcValue, countBits_eq_countP]
  rfl

/-! BSWAP. -/
theorem length_leBytes (n v : Nat) : (leBytes n v).length = n := by
  induction n generalizing v with
  | zero => rfl
  | succ n ih => rw [leBytes, List.length_cons, ih]

theorem leBytes_getD {n j : Nat} (v : Nat) (h : j < n) : ((leBytes n v).getD j 0).toNat = v / 256 ^ j % 256 := by
  induction n generalizing v j with
  | zero => omega
  | succ n ih =>
    cases j with
    | zero => simp [leBytes]
    | succ j => rw [leBytes, List.getD_cons_succ, ih _ (by omega), Nat.div_div_eq_div_mul, pow_succ']

theorem leNat_div_mod (l : List Byte) (j : Nat) : leNat l / 256 ^ j % 256 = (l.getD j 0).toNat := by
  induction l generalizing j with
  | nil => simp [leNat]
  | cons b r ih =>
    have hb := b.isLt
    cases j with
    | zero => simp only [leNat, pow_zero, Nat.div_one, List.getD_cons_zero]; omega
    | succ j =>
      have hrest : (b.toNat + 256 * leNat r) / 256 = leNat r := by omega
      rw [leNat, pow_succ', ← Nat.div_div_eq_div_mul, hrest, ih, List.getD_cons_succ]

theorem leNat_lt (l : List Byte) : leNat l < 256 ^ l.length := by
  induction l with
  | nil => simp [leNat]
  | cons b r ih =>
    have hb := b.isLt
    rw [leNat, List.length_cons, pow_succ]
    omega

theorem extractLsb'_byte_toNat (v : Word) (j : Nat) : (v.extractLsb' (8 * j) 8).toNat = v.toNat / 256 ^ j % 256 := by
  rw [BitVec.extractLsb'_toNat, Nat.shiftRight_eq_div_pow, pow_mul]
  rfl

theorem bswapValue_byte (a : Word) {j : Nat} (h : j < 8) : (bswapValue a).extractLsb' (8 * j) 8 = a.extractLsb' (8 * (7 - j)) 8 := by
  have hlen := length_leBytes 8 a.toNat
  have hlt : leNat (leBytes 8 a.toNat).reverse < 2 ^ 64 := by
    have := leNat_lt (leBytes 8 a.toNat).reverse
    rwa [List.length_reverse, hlen] at this
  apply BitVec.eq_of_toNat_eq
  rw [extractLsb'_byte_toNat, extractLsb'_byte_toNat, bswapValue, BitVec.toNat_ofNat, Nat.mod_eq_of_lt hlt, leNat_div_mod,
    List.getD_reverse _ (by omega), hlen, leBytes_getD _ (by omega)]

/-! Extensions and bit fields. -/
theorem zextW_eq (a : Word) (n : Nat) : zextW a n = (a.setWidth n).setWidth 64 := by
  apply BitVec.eq_of_toNat_eq
  have ha := a.isLt
  by_cases h : 64 ≤ n
  · have hle : 2 ^ 64 ≤ 2 ^ n := Nat.pow_le_pow_right (by omega) h
    rw [zextW, if_pos h, BitVec.toNat_setWidth, BitVec.toNat_setWidth, Nat.mod_eq_of_lt (lt_of_lt_of_le ha hle), Nat.mod_eq_of_lt ha]
  · rw [zextW, if_neg h, BitVec.toNat_ofNat, BitVec.toNat_setWidth, BitVec.toNat_setWidth]

theorem sextW_eq (a : Word) (n : Nat) : sextW a n = (a.setWidth n).signExtend 64 := by
  by_cases h0 : n = 0
  · subst h0
    rw [sextW, if_pos rfl, BitVec.of_length_zero (x := a.setWidth 0)]
    rfl
  by_cases h : 64 ≤ n
  · rw [sextW, if_neg h0, if_pos h, BitVec.signExtend_eq_setWidth_of_le _ h, ← zextW_eq, zextW, if_pos h]
  have hlt : (2 : Nat) ^ n < 2 ^ 64 := Nat.pow_lt_pow_right (by omega) (by omega)
  have hmod : a.toNat % 2 ^ n < 2 ^ n := Nat.mod_lt _ (Nat.two_pow_pos n)
  have hmsb : (a.setWidth n).msb = decide (a.toNat / 2 ^ (n - 1) % 2 = 1) := by
    rw [BitVec.msb_eq_getLsbD_last, BitVec.getLsbD_setWidth, decide_eq_true (by omega), Bool.true_and, BitVec.getLsbD,
      Nat.testBit_eq_decide_div_mod_eq]
  have hlow : ((a.setWidth n).setWidth 64).toNat = a.toNat % 2 ^ n := by
    rw [BitVec.toNat_setWidth, BitVec.toNat_setWidth, Nat.mod_eq_of_lt (by omega)]
  apply BitVec.eq_of_toNat_eq
  rw [sextW, if_neg h0, if_neg h, BitVec.toNat_signExtend, hmsb, hlow]
  by_cases hs : a.toNat / 2 ^ (n - 1) % 2 = 1
  · rw [if_pos hs, decide_eq_true hs, if_pos rfl, BitVec.toNat_ofNat, Nat.mod_eq_of_lt (by omega)]
  · rw [if_neg hs, decide_eq_false hs, if_neg Bool.false_ne_true, BitVec.toNat_ofNat, Nat.mod_eq_of_lt (by omega), Nat.add_zero]

theorem bitsAt_width (b : Word) : bitsAt b 0 7 = b.toNat % 128 := bitsAt_zero b 7

theorem bitsAt_length (b : Word) : bitsAt b 8 7 = b.toNat / 256 % 128 := rfl

theorem sextValue_eq (a b : Word) : sextValue a b = (a.setWidth (b.toNat % 128)).signExtend 64 := by
  rw [sextValue, sextW_eq, bitsAt_width]

theorem zextValue_eq (a b : Word) : zextValue a b = (a.setWidth (b.toNat % 128)).setWidth 64 := by
  rw [zextValue, zextW_eq, bitsAt_width]

theorem bfxValue_eq (a b : Word) :
    bfxValue a b = ((a >>> (b.toNat % 64)).setWidth (Nat.min (b.toNat / 256 % 128) 64)).setWidth 64 := by
  rw [bfxValue, zextW_eq, ← sh, sh_eq, bitsAt_length]

/-- BFI's mask: n ones from bit p, as far as the word reaches. -/
theorem fieldMask_bit (n p : Nat) {j : Nat} (hj : j < 64) :
    ((BitVec.ofNat 64 (2 ^ Nat.min n (64 - p) - 1) : Word) <<< p).getLsbD j = decide (p ≤ j ∧ j < p + n) := by
  change ((BitVec.ofNat 64 (2 ^ min n (64 - p) - 1) : Word) <<< p).getLsbD j = _
  rw [BitVec.getLsbD_shiftLeft, BitVec.getLsbD_ofNat, Nat.testBit_two_pow_sub_one, Bool.eq_iff_iff]
  simp only [Bool.and_eq_true, Bool.not_eq_true', decide_eq_true_eq, decide_eq_false_iff_not]
  omega

theorem bfiValue_bit (a b c : Word) {j : Nat} (hj : j < 64) : (bfiValue a b c).getLsbD j =
    if b.toNat % 64 ≤ j ∧ j < b.toNat % 64 + Nat.min (b.toNat / 256 % 128) 64 then c.getLsbD (j - b.toNat % 64) else a.getLsbD j := by
  rw [bfiValue, bfi, ← sh, sh_eq, bitsAt_length]
  simp only [BitVec.getLsbD_or, BitVec.getLsbD_and, BitVec.getLsbD_not, BitVec.getLsbD_shiftLeft, fieldMask_bit _ _ hj]
  by_cases hin : b.toNat % 64 ≤ j ∧ j < b.toNat % 64 + Nat.min (b.toNat / 256 % 128) 64
  · rw [if_pos hin, decide_eq_true hin, decide_eq_true hj, decide_eq_false (Nat.not_lt.2 hin.1)]
    simp only [Bool.not_true, Bool.not_false, Bool.and_false, Bool.false_or, Bool.and_true, Bool.true_and]
  · rw [if_neg hin, decide_eq_false hin, decide_eq_true hj]
    simp only [Bool.not_false, Bool.and_false, Bool.or_false, Bool.and_true]

/-- Settles O4: the scans, the sum of bits, the reversed bytes and the masked fields are what R128 describes. -/
theorem scalarBits : Obligations.ScalarBits :=
  ⟨fun _ => yields_scalar fun _ => clzValue_spec _, fun _ _ => yields_scalar fun _ => clzValue_spec _,
   fun _ => yields_scalar fun _ => ctzValue_spec _, fun _ _ => yields_scalar fun _ => ctzValue_spec _,
   fun _ => completes_scalar fun _ => popcValue_eq _, fun _ _ => completes_scalar fun _ => popcValue_eq _,
   fun _ => yields_scalar fun _ _ => bswapValue_byte _, fun _ _ => yields_scalar fun _ _ => bswapValue_byte _,
   fun _ => completes_scalar fun _ => sextValue_eq _ _, fun _ _ => completes_scalar fun _ => sextValue_eq _ _,
   fun _ => completes_scalar fun _ => zextValue_eq _ _, fun _ _ => completes_scalar fun _ => zextValue_eq _ _,
   fun _ => completes_scalar fun _ => bfxValue_eq _ _, fun _ _ => completes_scalar fun _ => bfxValue_eq _ _,
   fun _ => yields_scalar fun _ _ => bfiValue_bit _ _ _, fun _ _ => yields_scalar fun _ _ => bfiValue_bit _ _ _⟩

end Sys2Proof.Machine
end

-- ==== Proofs: address windows ====
section
/-! SUPPORT. Generic pointers: what one decodes to, its encoding, PADD and SPCAST (R131 to R134, O5). -/
namespace Sys2Proof.Machine

/-! Pointers. -/
theorem extractLsb'_eq_iff (a : Word) (lo n : Nat) (v : BitVec n) : a.extractLsb' lo n = v ↔ bitsAt a lo n = v.toNat := by
  rw [bitsAt_eq, BitVec.toNat_inj]

/-- What a generic pointer decodes to, by its top byte (R131). -/
theorem decodePtr_cases (a : Word) :
    (bitsAt a 56 8 = 0 ∧ decodePtr a = some ⟨.global, bitsAt a 0 56⟩) ∨
    (bitsAt a 56 8 = 0xFC ∧ bitsAt a 40 16 < 2048 ∧ decodePtr a = some ⟨.priv (bitsAt a 40 16), bitsAt a 0 40⟩) ∨
    (bitsAt a 56 8 = 0xFE ∧ bitsAt a 22 18 = 0 ∧ decodePtr a = some ⟨.scratch (bitsAt a 40 16), bitsAt a 0 22⟩) ∨
    (bitsAt a 56 8 = 0xFD ∧ (bitsAt a 51 5 = 0 ∧ bitsAt a 26 22 = 0) ∧ decodePtr a = some ⟨.shared (bitsAt a 48 3), bitsAt a 0 26⟩) ∨
    (bitsAt a 56 8 ≠ 0 ∧ ¬ (bitsAt a 56 8 = 0xFC ∧ bitsAt a 40 16 < 2048) ∧ ¬ (bitsAt a 56 8 = 0xFE ∧ bitsAt a 22 18 = 0) ∧
      ¬ (bitsAt a 56 8 = 0xFD ∧ bitsAt a 51 5 = 0 ∧ bitsAt a 26 22 = 0) ∧ decodePtr a = none) := by
  simp only [decodePtr]
  by_cases hglobal : bitsAt a 56 8 = 0
  · simp [hglobal]
  by_cases hpriv : bitsAt a 56 8 = 0xFC
  · by_cases hid : bitsAt a 40 16 < 2048 <;> simp [hpriv, hid]
  by_cases hscratch : bitsAt a 56 8 = 0xFE
  · by_cases hzero : bitsAt a 22 18 = 0 <;> simp [hscratch, hzero]
  by_cases hshared : bitsAt a 56 8 = 0xFD
  · by_cases hzero : bitsAt a 51 5 = 0 ∧ bitsAt a 26 22 = 0 <;> simp [hshared, hzero]
  simp [hglobal, hpriv, hscratch, hshared]

theorem sptestValue_eq (a : Word) : sptestValue a =
    if a.extractLsb' 56 8 = 0 then 0
    else if a.extractLsb' 56 8 = 0xFC ∧ (a.extractLsb' 40 16).toNat < 2048 then 1
    else if a.extractLsb' 56 8 = 0xFE ∧ a.extractLsb' 22 18 = 0 then 2
    else if a.extractLsb' 56 8 = 0xFD ∧ a.extractLsb' 51 5 = 0 ∧ a.extractLsb' 26 22 = 0 then 3 else 7 := by
  simp only [sptestValue, sptest, extractLsb'_eq_iff, ← bitsAt_eq, BitVec.reduceToNat, BitVec.ofNat_eq_ofNat]
  rcases decodePtr_cases a with ⟨htop, hp⟩ | ⟨htop, hf, hp⟩ | ⟨htop, hf, hp⟩ | ⟨htop, hf, hp⟩ | ⟨hglobal, hpriv, hscratch, hshared, hp⟩
  · simp [htop, hp]
  · simp [htop, hf, hp]
  · simp [htop, hf, hp]
  · simp [htop, hf, hp]
  · rw [hp, if_neg hglobal, if_neg hpriv, if_neg hscratch, if_neg hshared]

/-- A pointer's encoding: its space's first address and its offset (R131). -/
def PSpace.base : PSpace → Nat
  | .global => 0 | .priv t => 0xFC * 2 ^ 56 + t * 2 ^ 40 | .scratch i => 0xFE * 2 ^ 56 + i * 2 ^ 40 | .shared c => 0xFD * 2 ^ 56 + c * 2 ^ 48

theorem Ptr.encode_eq (p : Ptr) : p.encode = BitVec.ofNat 64 (p.space.base + p.off) := by
  obtain ⟨space, off⟩ := p
  cases space <;> simp [Ptr.encode, PSpace.base]

theorem decodePtr_encode {a : Word} {p : Ptr} (h : decodePtr a = some p) : p.encode = a := by
  have hsum : p.space.base + p.off = a.toNat := by
    have ha := a.isLt
    rcases decodePtr_cases a with ⟨htop, hp⟩ | ⟨htop, -, hp⟩ | ⟨htop, hf, hp⟩ | ⟨htop, hf, hp⟩ | ⟨-, -, -, -, hp⟩
    all_goals rw [hp] at h; cases h
    all_goals simp only [PSpace.base, bitsAt] at *; omega
  rw [Ptr.encode_eq, hsum, BitVec.ofNat_toNat, BitVec.setWidth_eq]

theorem Ptr.add_encode {p q : Ptr} {d : Int} (h : p.add d = some q) : q.encode = p.encode + BitVec.ofInt 64 d := by
  simp only [Ptr.add, Bool.and_eq_true, decide_eq_true_eq] at h
  split at h
  · next hr =>
    cases h
    obtain ⟨hpos, -⟩ := hr
    rw [Ptr.encode_eq, Ptr.encode_eq, ← BitVec.ofInt_natCast, ← BitVec.ofInt_natCast, ← BitVec.ofInt_add]
    congr 1
    push_cast
    rw [Int.toNat_of_nonneg hpos]
    ring
  · cases h

/-! PADD. -/
theorem paddBody_gives {x : Firing} {p q : Ptr} (ha : Acts x) (hp : decodePtr x.a.word = some p) (hq : p.add x.b.word.toInt = some q) :
    paddBody x = .give x.st (scalarOut (x.a.word + x.b.word)) := by
  have hsum : q.encode = x.a.word + x.b.word := by
    rw [Ptr.add_encode hq, decodePtr_encode hp, BitVec.ofInt_toInt]
  simp only [paddBody, x.whole_acts _ _ ha, hp, hq, hsum]
  rfl

theorem completes_padd {i : Instr} {r : Raw} (he : ∀ s : State, exec i s = .next (runSlot r paddBody s)) :
    Completes i r (fun x => Acts x ∧ ∃ p q, decodePtr x.a.word = some p ∧ p.add x.b.word.toInt = some q)
      (fun x => scalarOut (x.a.word + x.b.word)) :=
  completes_give i r paddBody _ _ he fun _ _ _ ⟨ha, _, _, hp, hq⟩ => ⟨paddBody_gives ha hp hq, .inl rfl⟩

/-! SPCAST. -/
section
variable {s : State} {t : Thread} {tid : Nat} {a b : Word}

theorem spcast_global (h : a.toNat < 2 ^ 56) : spcast s t tid a 0 = a := by
  have htop : bitsAt a 56 8 = 0 := by rw [bitsAt, Nat.div_eq_of_lt h, Nat.zero_mod]
  simp only [spcast, htop]
  rfl

theorem spcast_priv (h : a.toNat < 2 ^ 40) : spcast s t tid a 1 = BitVec.ofNat 64 (0xFC * 2 ^ 56 + tid * 2 ^ 40 + a.toNat) := by
  simp only [spcast, h, decide_true]
  rfl

theorem spcast_scratch (h : a.toNat < 2 ^ 22) : spcast s t tid a 2 = BitVec.ofNat 64 (0xFE * 2 ^ 56 + t.alloc.toNat * 2 ^ 40 + a.toNat) := by
  simp only [spcast, h, decide_true]
  rfl

theorem spcast_shared (h : a.toNat < 2 ^ 26) : spcast s t tid a 3 = BitVec.ofNat 64 (0xFD * 2 ^ 56 + t.tile / 8 * 2 ^ 48 + a.toNat) := by
  simp only [spcast, h, decide_true]
  rfl

theorem spcast_priv_back (h : decodePtr a = some ⟨.priv tid, (a.extractLsb' 0 40).toNat⟩) :
    spcast s t tid a 0x101 = (a.extractLsb' 0 40).setWidth 64 := by
  simp [spcast, bitsAt, sptest, h, -BitVec.extractLsb'_toNat]

theorem spcast_reserved (h : b.extractLsb' 9 55 ≠ 0) : spcast s t tid a b = BitVec.allOnes 64 := by
  have hb : bitsAt b 9 55 ≠ 0 := fun h0 => h ((extractLsb'_eq_iff b 9 55 0).2 h0)
  simp [spcast, hb]
end

/-- Settles O5: SPTEST by the top byte, PADD by the encoding of a moved pointer, SPCAST a case of B each. -/
theorem addressWindows : Obligations.AddressWindows :=
  ⟨fun _ => completes_scalar fun _ => sptestValue_eq _, fun _ _ => completes_scalar fun _ => sptestValue_eq _,
   fun _ => completes_padd fun _ => rfl, fun _ _ => completes_padd fun _ => rfl,
   fun _ => completes_scalar_if fun _ ⟨hb, ha⟩ => hb ▸ spcast_global ha,
   fun _ _ => completes_scalar_if fun _ ⟨hb, ha⟩ => hb ▸ spcast_global ha,
   fun _ => completes_scalar_if fun _ ⟨hb, ha⟩ => hb ▸ spcast_priv ha,
   fun _ _ => completes_scalar_if fun _ ⟨hb, ha⟩ => hb ▸ spcast_priv ha,
   fun _ => completes_scalar_if fun _ ⟨hb, ha⟩ => hb ▸ spcast_scratch ha,
   fun _ _ => completes_scalar_if fun _ ⟨hb, ha⟩ => hb ▸ spcast_scratch ha,
   fun _ => completes_scalar_if fun _ ⟨hb, ha⟩ => hb ▸ spcast_shared ha,
   fun _ _ => completes_scalar_if fun _ ⟨hb, ha⟩ => hb ▸ spcast_shared ha,
   fun _ => completes_scalar_if fun _ ⟨hb, ha⟩ => hb ▸ spcast_priv_back ha,
   fun _ _ => completes_scalar_if fun _ ⟨hb, ha⟩ => hb ▸ spcast_priv_back ha,
   fun _ => completes_scalar_if fun _ hb => spcast_reserved hb, fun _ _ => completes_scalar_if fun _ hb => spcast_reserved hb⟩

end Sys2Proof.Machine
end

-- ==== Proofs: registers and tokens ====
section
/-! SUPPORT. Register reads and writes as they fire, and tokens without a register (R104 to R107, R143, O6). -/
namespace Sys2Proof.Machine

section
variable {x : Firing} {n : Nat}

/-! Elements. -/
/-- A thread with lanes, whose VL is known, passes both checks (R38, R126). -/
theorem Firing.lanes_laned (h : x.laned) (go : Fired) : x.needLanes (x.vlKnown go) = go := by
  obtain ⟨hgroups, hvl⟩ := h
  rw [Firing.needLanes, if_neg hgroups, Firing.vlKnown, if_pos hvl]

theorem Token.under_all (t : Token) : t.under .all = t := by
  cases t <;> simp [Token.under, PMode.on]

theorem Firing.elems_all (h : x.p = .all) (t : Token) : x.elems t = .give x.st (Out.tok t) := by
  rw [Firing.elems, if_neg (by rw [h]; decide), h, Token.under_all]

theorem Firing.elems_given (h : x.given) (t : Token) : x.elems t = .give x.st (Out.tok (t.under x.p)) := by
  rw [Firing.elems, if_neg h.2]

/-! Reads (R104, R28). -/
theorem rdsBody_acts (hr : x.raw.reg = n) (ha : Acts x) (hs : (x.thread.sregAt x.serial n).isSome = true) :
    rdsBody x = .give x.st (scalarOut ((x.thread.sregAt x.serial n).getD 0)) := by
  obtain ⟨v, hv⟩ := Option.isSome_iff_exists.mp hs
  simp only [rdsBody, hr, hv, x.value_acts v ha, Option.getD_some]

theorem rdvBody_laned (hr : x.raw.reg = n) (hl : x.laned) (hp : x.p = .all) : rdvBody x = .give x.st (Out.tok
    ((mget VReg.start x.thread.vregs n).token ((x.thread.cellErr.filter (·.1 == n)).map (·.2)) x.vl x.thread.vlmax)) := by
  rw [rdvBody, Firing.lanes_laned hl, Firing.elems_all hp, hr]

theorem rdmBody_laned (hr : x.raw.reg = n) (hl : x.laned) (hp : x.p = .all) :
    rdmBody x = .give x.st (Out.tok (maskToken (mget 0 x.thread.mregs n) x.vl x.thread.groups)) := by
  rw [rdmBody, Firing.lanes_laned hl, Firing.elems_all hp, hr]

/-! Writes (R105, R106, R143). -/
theorem wrsBody_acts (ha : Acts x) : wrsBody x = .give x.st {} := x.whole_acts _ _ ha

theorem wrmBody_laned (hl : x.laned) : wrmBody x = .give x.st {} := Firing.lanes_laned hl _

theorem wrvBody_clean (hl : x.laned) (hc : x.a.badCells = []) : wrvBody x = .give x.st {} := by
  simp only [wrvBody, Firing.lanes_laned hl, hc, List.isEmpty_nil, if_true]

/-- No element that WRV would write comes from a cell with an error: the cells are logged as latent. -/
theorem wrvBody_latent (hl : x.laned) (hc : x.a.badCells ≠ []) (he : x.a.elemAt x.p x.a.badCells.contains = none) :
    wrvBody x = .give (x.logLatent x.st) {} := by
  have hbad : x.a.badCells.isEmpty = false := Bool.eq_false_iff.2 (mt List.isEmpty_iff.1 hc)
  simp only [wrvBody, Firing.lanes_laned hl, hbad, he, Bool.false_eq_true, if_false]

theorem Firing.logLatent_thread (s : State) (k : Nat) : (x.logLatent s).thread k = s.thread k := State.setCluster_thread ..

/-! Tokens (R107). -/
theorem movBody_scalar (ha : Acts x) (hv : ∃ v, x.a = .scalar v) : movBody x = .give x.st (Out.tok x.a) := by
  obtain ⟨v, hv⟩ := hv
  simp only [movBody, hv, x.whole_acts _ _ ha]

theorem movBody_vector (hg : x.given) (hv : ∃ t l m k, x.a = .vector t l m k) : movBody x = .give x.st (Out.tok (x.a.under x.p)) := by
  obtain ⟨t, l, m, k, hv⟩ := hv
  rw [← Firing.elems_given hg]
  simp only [movBody, hv]

theorem movBody_mask (hg : x.given) (hv : ∃ l, x.a = .mask l) : movBody x = .give x.st (Out.tok (x.a.under x.p)) := by
  obtain ⟨l, hv⟩ := hv
  rw [← Firing.elems_given hg]
  simp only [movBody, hv]

theorem nullBody_acts (ha : Acts x) : nullBody x = .give x.st (Out.tok .null) := x.whole_acts _ _ ha

/-- The immediate stands at B (R86). -/
theorem Raw.immB_imm (o : Opcode) (b : BForm) (m : Imm) : (⟨o, .imm b m⟩ : Raw).immB = some (immWord m) := by
  cases m <;> rfl

theorem litBody_acts {o : Opcode} {b : BForm} {m : Imm} (hr : x.raw = ⟨o, .imm b m⟩) (ha : Acts x) :
    litBody x = .give x.st (scalarOut (immWord m)) := by
  rw [litBody, x.value_acts _ ha, hr, Raw.immB_imm, Option.getD_some]

theorem pcbBody_acts {o : Opcode} {b : BForm} (hr : x.raw = ⟨o, .b b⟩) (ha : Acts x) :
    pcbBody x = .give x.st (scalarOut x.block.addr) := by
  have himm : x.raw.immB.getD 0 = 0#64 := by rw [hr]; rfl
  rw [pcbBody, x.value_acts _ ha, himm, BitVec.add_zero]

theorem pcbBody_imm {o : Opcode} {b : BForm} {m : Imm} (hr : x.raw = ⟨o, .imm b m⟩) (ha : Acts x) :
    pcbBody x = .give x.st (scalarOut (x.block.addr + immWord m)) := by
  rw [pcbBody, x.value_acts _ ha, hr, Raw.immB_imm, Option.getD_some]
end

/-- Settles O6: each instruction by what its body gives; a latent cell changes the log alone. -/
theorem registerAndTokenMoves : Obligations.RegisterAndTokenMoves := by
  refine ⟨?rds, ?rdv, ?rdm, ?wrs, ?wrv, ?latent, ?wrm, ?movScalar, ?movVector, ?movMask, ?movExtScalar, ?movExtVector, ?movExtMask,
    ?null, ?nullExt, ?lit, ?pcb, ?pcbExt⟩
  case rds => exact fun f => completes_body fun x hr ⟨ha, hs⟩ => rdsBody_acts (congrArg Raw.reg hr) ha hs
  case rdv => exact fun f => completes_body fun x hr ⟨hl, hp⟩ => rdvBody_laned (congrArg Raw.reg hr) hl hp
  case rdm => exact fun f => completes_body fun x hr ⟨hl, hp⟩ => rdmBody_laned (congrArg Raw.reg hr) hl hp
  case wrs => exact fun f => completes_body fun x _ ha => wrsBody_acts ha
  case wrv => exact fun f => completes_body fun x _ ⟨hl, hc⟩ => wrvBody_clean hl hc
  case latent =>
    refine fun f => completesWith_give _ _ wrvBody _ _ _ (fun _ => rfl) fun s x hx ⟨hl, hc, he⟩ => ⟨wrvBody_latent hl hc he, ?_, .inl rfl⟩
    rw [Firing.logLatent_thread, s.firing_st _ x hx]
  case wrm => exact fun f => completes_body fun x _ hl => wrmBody_laned hl
  case movScalar => exact fun b => completes_body fun x _ ⟨ha, hv⟩ => movBody_scalar ha hv
  case movExtScalar => exact fun b e => completes_body fun x _ ⟨ha, hv⟩ => movBody_scalar ha hv
  case movVector => exact fun b => completes_body fun x _ ⟨hg, hv⟩ => movBody_vector hg hv
  case movExtVector => exact fun b e => completes_body fun x _ ⟨hg, hv⟩ => movBody_vector hg hv
  case movMask => exact fun b => completes_body fun x _ ⟨hg, hv⟩ => movBody_mask hg hv
  case movExtMask => exact fun b e => completes_body fun x _ ⟨hg, hv⟩ => movBody_mask hg hv
  case null => exact fun b => completes_body fun x _ ha => nullBody_acts ha
  case nullExt => exact fun b e => completes_body fun x _ ha => nullBody_acts ha
  case lit => exact fun b m => completes_body fun x hr ha => litBody_acts hr ha
  case pcb => exact fun b => completes_body fun x hr ha => pcbBody_acts hr ha
  case pcbExt => exact fun b m => completes_body fun x hr ha => pcbBody_imm hr ha

end Sys2Proof.Machine
end

-- ==== Proofs: exits as they fire ====
section
/-! SUPPORT. Exits: the target of the words or of A, and the link (R108 to R113, O7). -/
namespace Sys2Proof.Machine

section
variable {x : Firing}

theorem Firing.leave_acts (ha : Acts x) (e : ExitKind) : x.leave e = .give x.st { exit := some e } := x.whole_acts _ _ ha

theorem Firing.indirect_acts (ha : Acts x) (e : Word → ExitKind) (hcanon : x.a.word.extractLsb' 56 8 = 0) (halign : x.a.word.extractLsb' 0 6 = 0) :
    x.indirect e = .give x.st { exit := some (e x.a.word) } := by
  rw [Firing.indirect, x.whole_acts _ _ ha, bitsAt_eq, bitsAt_eq, hcanon, halign]
  rfl

theorem Firing.direct_eq {j : JForm} (h : x.raw.form = .j j) : x.direct = x.block.addr + j.offset.signExtend 64 * 64 := by
  simp only [Firing.direct, h]

theorem completes_leave {i : Instr} {r : Raw} {f g : Firing → ExitKind} (he : ∀ s : State, exec i s = .next (runSlot r (fun x => x.leave (f x)) s))
    (hfg : ∀ x, x.raw = r → f x = g x) : Completes i r (fun x => Acts x ∧ x.block.exit = none) (fun x => { exit := some (g x) }) :=
  completes_give i r _ _ _ he fun s x hx ⟨ha, hnone⟩ => ⟨by rw [Firing.leave_acts ha, hfg x (s.firing_raw r x hx)], .inr hnone⟩

theorem completes_indirect {i : Instr} {r : Raw} {f : Firing → Word → ExitKind} (he : ∀ s : State, exec i s = .next (runSlot r (fun x => x.indirect (f x)) s)) :
    Completes i r (fun x => Acts x ∧ x.block.exit = none ∧ x.a.word.extractLsb' 56 8 = 0 ∧ x.a.word.extractLsb' 0 6 = 0)
      (fun x => { exit := some (f x x.a.word) }) :=
  completes_give i r _ _ _ he fun _ x _ ⟨ha, hnone, hcanon, halign⟩ => ⟨Firing.indirect_acts ha (f x) hcanon halign, .inr hnone⟩
end

/-- Settles O7: each body leaves its exit, in a block that has none yet. -/
theorem blockExits : Obligations.BlockExits :=
  ⟨fun _ => completes_leave (fun _ => rfl) fun _ hr => congrArg ExitKind.goto (Firing.direct_eq (by rw [hr])),
   fun _ => completes_leave (fun _ => rfl) fun x hr => congrArg (ExitKind.call · x.block.link) (Firing.direct_eq (by rw [hr])),
   fun _ => completes_leave (fun _ => rfl) fun _ hr => congrArg ExitKind.yield (Firing.direct_eq (by rw [hr])),
   fun _ => completes_leave (fun _ => rfl) fun _ hr => congrArg ExitKind.sysc (Firing.direct_eq (by rw [hr])),
   fun _ => completes_indirect (f := fun _ => .goto) fun _ => rfl,
   fun _ => completes_indirect (f := fun x a => .call a x.block.link) fun _ => rfl,
   fun _ => completes_leave (fun _ => rfl) fun _ _ => rfl⟩

end Sys2Proof.Machine
end

-- ==== Proofs: CSR reads ====
section
/-! SUPPORT. What a CSRR needs before it delivers, and what it delivers (R114, R117, R119, R384, R433, O10). -/
namespace Sys2Proof.Machine

section
variable {x : Firing}

theorem Raw.csr_of_w2 {r : Raw} {csr : BitVec 12} (h : r.w2 = csr.setWidth 32) : Raw.csr r = csr.toNat := by
  have := csr.isLt
  rw [Raw.csr, h, BitVec.toNat_setWidth]
  omega

/-- A CSR that the thread's mode may name (R114). -/
def Firing.mayName (x : Firing) (n : Nat) : Prop := n < 0x100 ∨ x.thread.supervisor = true

theorem Firing.csrPriv_mayName (h : x.mayName (Raw.csr x.raw)) (go : Fired) : x.csrPriv go = go := by
  rcases h with huser | hsup
  · rw [Firing.csrPriv, if_neg (by omega)]
  · rw [Firing.csrPriv, Firing.supervisor, if_pos hsup, ite_self]

theorem Firing.csrPriv_user (h : x.thread.supervisor = false) (hn : 0x100 ≤ Raw.csr x.raw) (go : Fired) :
    x.csrPriv go = x.failInfo cPRIV (0x1000 + Raw.csr x.raw) := by
  rw [Firing.csrPriv, if_pos hn, Firing.supervisor, h, if_neg Bool.false_ne_true]

theorem Firing.csrValue_now {n : Nat} (h : csrNow n = true) : x.csrValue n = x.st.csrRead x.tid n := if_pos h

/-- What must be known before a CSRR of CSR n delivers it: the older blocks' part of FFLAGS and BLOCKS, and VL (R117). -/
def Firing.csrKnown (x : Firing) (n : Nat) : Prop :=
  (n = 0x030 ∨ n = 0x051 → x.oldest = true) ∧ (n = 0x010 ∨ n = 0x011 ∨ n = 0x012 → x.thread.vlOut = 0)

theorem csrrBody_reads (ha : Acts x) (hp : x.mayName (Raw.csr x.raw)) (hk : x.csrKnown (Raw.csr x.raw)) :
    csrrBody x = .give x.st (scalarOut (x.csrValue (Raw.csr x.raw))) := by
  obtain ⟨hold, hvl⟩ := hk
  rw [csrrBody, x.whole_acts _ _ ha, Firing.csrPriv_mayName hp, if_neg (by simpa using hold)]
  split
  · next hn => rw [Firing.vlKnown, if_pos (hvl (by simpa [or_assoc] using hn))]; rfl
  · rfl

/-- The one lemma for CSRR: what the body gives of a CSR that the mode may name and whose value is known. -/
theorem completes_csrr {b : BForm} {e : Ext} {csr : BitVec 12} {ok : Firing → Prop} {v : Firing → Word}
    (hok : ∀ x, ok x → Acts x ∧ x.mayName csr.toNat ∧ x.csrKnown csr.toNat)
    (hv : ∀ x : Firing, x.thread = x.st.thread x.tid → x.csrValue csr.toNat = v x) :
    Completes (.csrr b e csr) ⟨.csrr, .x b e (csr.setWidth 32)⟩ ok (fun x => scalarOut (v x)) := by
  refine completes_give _ _ csrrBody _ _ (fun _ => rfl) fun s x hx h => ⟨?_, .inl rfl⟩
  obtain ⟨ha, hp, hk⟩ := hok x h
  have hcsr : Raw.csr x.raw = csr.toNat := Raw.csr_of_w2 (by rw [s.firing_raw _ x hx]; rfl)
  rw [← hcsr] at hp hk
  rw [csrrBody_reads ha hp hk, hcsr, hv x (by rw [s.firing_thread _ x hx, s.firing_st _ x hx])]

theorem Firing.with_thread (h : x.thread = x.st.thread x.tid) : { x with thread := x.st.thread x.tid } = x := by rw [← h]

theorem Firing.csrKnown_start {n : Nat} (h : csrNow n = false) : x.csrKnown n := by
  simp only [csrNow, Bool.or_eq_false_iff, beq_eq_false_iff_ne] at h
  obtain ⟨⟨⟨⟨⟨⟨-, -⟩, hfflags⟩, hblocks⟩, hvl⟩, hvlmax⟩, hlanes⟩ := h
  exact ⟨by simp [hfflags, hblocks], by simp [hvl, hvlmax, hlanes]⟩

end

/-! Completion of CSRR, by when the value is taken: `v` gives the register's value from the firing and its thread. -/
section
variable {b : BForm} {e : Ext} {csr : BitVec 12} {ok : Firing → Prop} {v : Firing → Word}
  (hv : ∀ x : Firing, x.st.csrRead x.tid csr.toNat = v { x with thread := x.st.thread x.tid })
include hv

theorem completes_csrr_start (hok : ∀ x, ok x → Acts x ∧ x.mayName csr.toNat) (hnow : csrNow csr.toNat = false) :
    Completes (.csrr b e csr) ⟨.csrr, .x b e (csr.setWidth 32)⟩ ok (fun x => scalarOut (x.startValue csr.toNat (v x))) :=
  completes_csrr (fun x h => let ⟨ha, hname⟩ := hok x h; ⟨ha, hname, Firing.csrKnown_start hnow⟩) fun x ht => by
    rw [Firing.csrValue_start hnow, hv x, Firing.with_thread ht]

theorem completes_csrr_user (huser : csr.toNat < 0x100 := by decide) (hnow : csrNow csr.toNat = false := by decide) :
    Completes (.csrr b e csr) ⟨.csrr, .x b e (csr.setWidth 32)⟩ Acts (fun x => scalarOut (x.startValue csr.toNat (v x))) :=
  completes_csrr_start hv (fun _ ha => ⟨ha, .inl huser⟩) hnow

theorem completes_csrr_supervisor (hnow : csrNow csr.toNat = false := by decide) :
    Completes (.csrr b e csr) ⟨.csrr, .x b e (csr.setWidth 32)⟩ (fun x => Acts x ∧ x.thread.supervisor = true)
      (fun x => scalarOut (x.startValue csr.toNat (v x))) :=
  completes_csrr_start hv (fun _ ⟨ha, hs⟩ => ⟨ha, .inr hs⟩) hnow

theorem completes_csrr_now (hok : ∀ x, ok x → Acts x ∧ x.csrKnown csr.toNat) (huser : csr.toNat < 0x100) (hnow : csrNow csr.toNat = true) :
    Completes (.csrr b e csr) ⟨.csrr, .x b e (csr.setWidth 32)⟩ ok (fun x => scalarOut (v x)) :=
  completes_csrr (fun x h => let ⟨ha, hknown⟩ := hok x h; ⟨ha, .inl huser, hknown⟩) fun x ht => by
    rw [Firing.csrValue_now hnow, hv x, Firing.with_thread ht]

theorem completes_csrr_vl (hother : ¬ (csr.toNat = 0x030 ∨ csr.toNat = 0x051) := by decide)
    (huser : csr.toNat < 0x100 := by decide) (hnow : csrNow csr.toNat = true := by decide) :
    Completes (.csrr b e csr) ⟨.csrr, .x b e (csr.setWidth 32)⟩ (fun x => Acts x ∧ x.thread.vlOut = 0) (fun x => scalarOut (v x)) :=
  completes_csrr_now hv (fun _ ⟨ha, hvl⟩ => ⟨ha, (absurd · hother), fun _ => hvl⟩) huser hnow

theorem completes_csrr_oldest (hother : ¬ (csr.toNat = 0x010 ∨ csr.toNat = 0x011 ∨ csr.toNat = 0x012) := by decide)
    (huser : csr.toNat < 0x100 := by decide) (hnow : csrNow csr.toNat = true := by decide) :
    Completes (.csrr b e csr) ⟨.csrr, .x b e (csr.setWidth 32)⟩ (fun x => Acts x ∧ x.oldest = true) (fun x => scalarOut (v x)) :=
  completes_csrr_now hv (fun _ ⟨ha, hold⟩ => ⟨ha, fun _ => hold, (absurd · hother)⟩) huser hnow

theorem completes_csrr_anytime
    (hother : ¬ (csr.toNat = 0x030 ∨ csr.toNat = 0x051) ∧ ¬ (csr.toNat = 0x010 ∨ csr.toNat = 0x011 ∨ csr.toNat = 0x012) := by decide)
    (huser : csr.toNat < 0x100 := by decide) (hnow : csrNow csr.toNat = true := by decide) :
    Completes (.csrr b e csr) ⟨.csrr, .x b e (csr.setWidth 32)⟩ Acts (fun x => scalarOut (v x)) :=
  completes_csrr_now hv (fun _ ha => ⟨ha, (absurd · hother.1), (absurd · hother.2)⟩) huser hnow
end

/-- Settles O10: each register as it is at the start of the block or as the CSRR fires, where the mode may name it. -/
theorem csrReads : Obligations.CsrReads := by
  refine ⟨?_, ?_, ?_, ?_, ?_, ?_, ?_, ?horizon, ?_, ?_, ?_, ?cycle, ?vl, ?vlmax, ?lanes, ?fflags, ?blocks, ?supervisor⟩
  case horizon | cycle => exact fun _ _ => completes_csrr_anytime fun _ => rfl
  case vl | vlmax | lanes => exact fun _ _ => completes_csrr_vl fun _ => rfl
  case fflags | blocks => exact fun _ _ => completes_csrr_oldest fun _ => rfl
  case supervisor => and_intros <;> exact fun _ _ => completes_csrr_supervisor fun _ => rfl
  all_goals exact fun _ _ => completes_csrr_user fun _ => rfl

end Sys2Proof.Machine
end

-- ==== Proofs: effects as they fire ====
section
/-! SUPPORT. Control instructions whose effect waits for the commit (R116, R118, R122 to R125, O11). -/
namespace Sys2Proof.Machine

section
variable {x : Firing}

theorem Firing.supervisor_of (h : x.thread.supervisor = true) (info : Nat) (go : Fired) : x.supervisor info go = go := if_pos h

theorem Firing.supervisor_user (h : x.thread.supervisor = false) (info : Nat) (go : Fired) : x.supervisor info go = x.failInfo cPRIV info :=
  if_neg (by rw [h]; decide)

theorem Firing.deferring_acts (ha : Acts x) (e : Effect) : x.deferring e = .give x.st { main := some (.deferred x.slot 0), effs := [e] } :=
  x.whole_acts _ _ ha

theorem csrwBody_acts {csr : BitVec 12} (ha : Acts x) (hcsr : Raw.csr x.raw = csr.toNat) (hp : x.mayName csr.toNat) :
    csrwBody x = .give x.st { effs := [.csrw csr x.a.word] } := by
  rw [csrwBody, x.whole_acts _ _ ha, Firing.csrPriv_mayName (hcsr ▸ hp), hcsr, BitVec.ofNat_toNat, BitVec.setWidth_eq]
  rfl

theorem eretBody_acts (ha : Acts x) (hs : x.thread.supervisor = true) : eretBody x = .give x.st { effs := [.eret] } := by
  rw [eretBody, x.whole_acts _ _ ha, Firing.supervisor_of hs]
  rfl

theorem tlbinvBody_acts (ha : Acts x) (hs : x.thread.supervisor = true) (hzero : x.b.word.extractLsb' 14 50 = 0)
    (hscope : x.b.word.extractLsb' 12 2 ≠ 3) (hcanon : x.b.word.extractLsb' 12 2 = 0 → x.a.word.extractLsb' 56 8 = 0) :
    tlbinvBody x = .give x.st { effs := [.tlbinv x.a.word x.b.word] } := by
  have hzero' := (extractLsb'_eq_iff x.b.word 14 50 0).1 hzero
  have hscope' : bitsAt x.b.word 12 2 ≠ 3 := mt (extractLsb'_eq_iff x.b.word 12 2 3).2 hscope
  have hcanon' (h : bitsAt x.b.word 12 2 = 0) : bitsAt x.a.word 56 8 = 0 :=
    (extractLsb'_eq_iff x.a.word 56 8 0).1 (hcanon ((extractLsb'_eq_iff x.b.word 12 2 0).2 h))
  rw [tlbinvBody, x.whole_acts _ _ ha, Firing.supervisor_of hs, if_neg (by simp [hzero', hscope']), if_neg (by simpa using hcanon')]
  rfl

theorem setvlBody_acts (ha : Acts x) (hw : x.b.word = 8 ∨ x.b.word = 16 ∨ x.b.word = 32 ∨ x.b.word = 64) :
    setvlBody x = .give x.st { main := some (.deferred x.slot 0), effs := [.setvl x.a.word.toNat x.b.word.toNat] } := by
  have hok : widthOk x.b.word = true := by simpa [widthOk, or_assoc] using hw
  rw [setvlBody, x.whole_acts _ _ ha, if_pos hok, Firing.deferring_acts ha]

theorem lclaimBody_acts (ha : Acts x) (hn : x.a.word.toNat ≤ 16) :
    lclaimBody x = .give x.st { main := some (.deferred x.slot 0), effs := [.lclaim x.a.word.toNat] } := by
  rw [lclaimBody, x.whole_acts _ _ ha, if_pos hn, Firing.deferring_acts ha]
end

/-- Settles O11: each body, once its checks pass, gives its one effect. -/
theorem controlEffectsAtFiring : Obligations.ControlEffectsAtFiring :=
  ⟨fun _ _ => completes_body fun _ hr ⟨ha, hp⟩ => csrwBody_acts ha (Raw.csr_of_w2 (by rw [hr]; rfl)) hp,
   fun _ => completes_body fun x _ ha => x.whole_acts _ _ ha,
   fun _ => completes_body fun _ _ ⟨ha, hs, hzero, hscope, hcanon⟩ => tlbinvBody_acts ha hs hzero hscope hcanon,
   fun _ => completes_body fun _ _ ⟨ha, hs⟩ => eretBody_acts ha hs,
   fun _ => completes_body fun _ _ ⟨ha, hw⟩ => setvlBody_acts ha hw,
   fun _ => completes_body fun _ _ ⟨ha, hn⟩ => lclaimBody_acts ha hn⟩

end Sys2Proof.Machine
end

-- ==== Proofs: traps of instructions ====
section
/-! SUPPORT. An instruction that faults in the oldest block: the trap taken, and the fatal one (R114, R386 to R389; O8, O9). -/
namespace Sys2Proof.Machine

section
variable {i : Instr} {r : Raw} {body : Firing → Fired} {s : State} {x : Firing} {f : FaultRec}

/-- A body that faults in the oldest block takes its trap at once. -/
theorem runSlot_faults (hx : s.firing r = some x) (ho : x.oldest = true) (hb : body x = .fault x.st f) :
    runSlot r body s = s.takeTrap x.tid f x.block.addr x.block.addr := by
  rw [runSlot_of_firing r body s x hx, hb, s.firing_st r x hx]
  exact s.raise_oldest r x hx ho f

theorem exec_trapsTo (he : exec i s = .next (runSlot r body s)) (hx : s.firing r = some x) (ho : x.oldest = true)
    (hf : x.thread.fatal x.block.addr = false) (hb : body x = .fault x.st f) :
    ∃ t, exec i s = .next t ∧ s.trapsTo t x.tid f.cause x.block.addr f.slot f.addr (f.elem % 2 ^ 32) f.info := by
  refine ⟨_, he, ?_⟩
  rw [runSlot_faults hx ho hb]
  exact s.takeTrap_trapsTo x.tid f _ _ (s.firing_thread r x hx ▸ hf)

theorem exec_failInfo {cause info : Nat} (he : exec i s = .next (runSlot r body s)) (hx : s.firing r = some x) (ho : x.oldest = true)
    (hf : x.thread.fatal x.block.addr = false) (hb : body x = x.failInfo cause info) :
    ∃ t, exec i s = .next t ∧ s.trapsTo t x.tid cause x.block.addr (BitVec.ofNat 64 x.slot) 0 0 (BitVec.ofNat 64 info) :=
  exec_trapsTo he hx ho hf hb

/-- A fatal trap stops its thread, with the record taken and the witness its team is to end with (R389); memory and every other thread stand. -/
theorem State.takeTrap_fatal {tid : Nat} {block faulting : Word} (h : (s.thread tid).fatal faulting = true) :
    (s.takeTrap tid f block faulting).thread tid =
      { ({ s.thread tid with flight := [], walkFaults := [] } : Thread).record f block with
        status := .stopping, dying := some (errWitness 5 (f.cause * 2 ^ 48 + block.toNat % 2 ^ 48)) } ∧
    (s.takeTrap tid f block faulting).mem = s.mem ∧ ∀ n, n ≠ tid → (s.takeTrap tid f block faulting).thread n = s.thread n := by
  have hf : (({ s.thread tid with flight := [], walkFaults := [] } : Thread).record f block).fatal faulting = true := h
  rw [State.takeTrap, State.discardFlight_same, if_pos hf]
  refine ⟨State.setThread_thread_same .., s.discardFlight_mem tid, fun n hn => ?_⟩
  rw [State.setThread_thread_other _ _ hn, State.discardFlight_other _ _ _ hn]

theorem trapBody_acts {code : BitVec 16} (ha : Acts x) (hr : x.raw.w2 = code.setWidth 32) : trapBody x = x.failInfo cTRAPI code.toNat := by
  have := code.isLt
  rw [trapBody, x.whole_acts _ _ ha, hr, BitVec.toNat_setWidth, Nat.mod_eq_of_lt (by omega), Nat.mod_eq_of_lt (by omega)]

theorem eretBody_user (ha : Acts x) (hs : x.thread.supervisor = false) : eretBody x = x.failInfo cPRIV 0x13 := by
  rw [eretBody, x.whole_acts _ _ ha, Firing.supervisor_user hs]

theorem tlbinvBody_user (ha : Acts x) (hs : x.thread.supervisor = false) : tlbinvBody x = x.failInfo cPRIV 0x17 := by
  rw [tlbinvBody, x.whole_acts _ _ ha, Firing.supervisor_user hs]

theorem csrrBody_user (ha : Acts x) (hs : x.thread.supervisor = false) (hn : 0x100 ≤ Raw.csr x.raw) :
    csrrBody x = x.failInfo cPRIV (0x1000 + Raw.csr x.raw) := by
  rw [csrrBody, x.whole_acts _ _ ha, Firing.csrPriv_user hs hn]

theorem csrwBody_user (ha : Acts x) (hs : x.thread.supervisor = false) (hn : 0x100 ≤ Raw.csr x.raw) :
    csrwBody x = x.failInfo cPRIV (0x1000 + Raw.csr x.raw) := by
  rw [csrwBody, x.whole_acts _ _ ha, Firing.csrPriv_user hs hn]
end

/-- Settles O8: the body's fault is the oldest block's, so its trap is taken at once; `takeTrap` by whether it is fatal. -/
theorem trapInstructionTraps : Obligations.TrapInstructionTraps := by
  refine ⟨fun p code s x hx ha ho hf => ?taken, fun p code s x hx ha ho hf => ?fatal⟩
  all_goals have hb : trapBody x = x.failInfo cTRAPI code.toNat := trapBody_acts ha (by rw [s.firing_raw _ x hx]; rfl)
  case taken =>
    rw [← BitVec.ofNat_toNat]
    exact exec_failInfo rfl hx ho hf hb
  case fatal =>
    rw [s.firing_thread _ x hx] at hf ⊢
    refine ⟨_, congrArg Host.Outcome.next (runSlot_faults hx ho hb), ?_⟩
    obtain ⟨hstopped, hmem, hother⟩ := State.takeTrap_fatal (f := mkFault cTRAPI x.slot code.toNat 0 0) (block := x.block.addr) hf
    rw [hstopped, ← BitVec.ofNat_toNat]
    exact ⟨rfl, rfl, rfl, rfl, rfl, rfl, rfl, rfl, rfl, hmem, hother⟩

/-- Settles O9: in user mode each body fails with PRIV, and the oldest block takes its trap. -/
theorem userModePrivilegeTraps : Obligations.UserModePrivilegeTraps := by
  refine ⟨fun b e csr s x hx ha ho hf hs hn => ?csrr, fun p csr s x hx ha ho hf hs hn => ?csrw,
    fun p s x hx ha ho hf hs => exec_failInfo rfl hx ho hf (eretBody_user ha hs),
    fun p s x hx ha ho hf hs => exec_failInfo rfl hx ho hf (tlbinvBody_user ha hs)⟩
  all_goals
    have hcsr : Raw.csr x.raw = csr.toNat := Raw.csr_of_w2 (by rw [s.firing_raw _ x hx]; rfl)
    rw [← hcsr] at hn ⊢
  case csrr => exact exec_failInfo rfl hx ho hf (csrrBody_user ha hs hn)
  case csrw => exact exec_failInfo rfl hx ho hf (csrwBody_user ha hs hn)

end Sys2Proof.Machine
end

-- ==== Proofs: vector results ====
section
/-! SUPPORT. Vector instructions whose operands pass their checks give what their functions of elements give: elementwise results, compares, shifts,
reductions, moves, and the instructions on masks (R143, R145 to R163; O12 to O18). -/
set_option Elab.async false
namespace Sys2Proof.Machine

theorem State.firing_typed {s : State} {r : Raw} {x : Firing} (h : s.firing r = some x) : x.typed = true := by
  obtain ⟨y, p, -, -, -, ht, rfl⟩ := s.firing_site r x h
  exact ht

section
variable {i : Instr} {r : Raw} {x : Firing} {ok : Nat → Bool} {o : Out}

/-- As `completes_body`, for a body that looks at the types of its tokens. -/
theorem completes_typed {body : Firing → Fired} {ok : Firing → Prop} {o : Firing → Out}
    (hb : ∀ x, x.raw = r → x.typed = true → ok x → body x = .give x.st (o x))
    (he : ∀ s : State, exec i s = .next (runSlot r body s) := by intro; rfl) (hexit : ∀ x, (o x).exit = none := by intro; rfl) :
    Completes i r ok o :=
  completes_give i r body ok o he fun s x hx hok => ⟨hb x (s.firing_raw r x hx) (State.firing_typed hx) hok, .inl (hexit x)⟩

/-! Operands that pass. -/
theorem reqA_passes {sc : Bool} (h : x.fine x.a ok sc) : (reqA x ok sc).passes x :=
  Req.passes_fine _ x ok sc h rfl rfl (by simp [reqA])

/-- An operand that must share A's format passes where it has it. -/
theorem Req.passes_agreeing {q : Req} {okA : Nat → Bool} {sc : Bool} (ha : x.fine x.a okA sc) (h : x.fine q.tok q.ok q.scaled)
    (hc : q.tok.vec.code = x.a.vec.code) : q.passes x :=
  Req.passes_fine q x _ _ h rfl rfl fun _ => .inl (by rw [x.codeOfA_fine _ _ ha, hc])

theorem reqB_passes {okA : Nat → Bool} {sc : Bool} (ha : x.fine x.a okA sc) (hb : x.fine x.b ok false) (hc : x.b.vec.code = x.a.vec.code) :
    (reqB x ok).passes x := Req.passes_agreeing (q := reqB x ok) ha hb hc

theorem reqC_passes {okA : Nat → Bool} {sc : Bool} (ha : x.fine x.a okA sc) (hb : x.fine x.c ok false) (hc : x.c.vec.code = x.a.vec.code) :
    (reqC x ok).passes x := Req.passes_agreeing (q := reqC x ok) ha hb hc

/-- With one fine operand A. -/
theorem Firing.vector_gives1 {q : Req} {n : Out} (ht : x.typed = true) (h : x.vec1Ok ok) (hq : q.tok = x.a) (hok : q.ok = ok) (hs : q.scaled = false)
    (ha : q.agree = false) : x.vector [q] [] n (.give x.st o) = .give x.st o := by
  obtain ⟨hl, hg, hfa⟩ := h
  have hpass : q.passes x := Req.passes_fine q x ok false (hq ▸ hfa) hok hs (by simp [ha])
  exact x.vector_go _ _ _ _ _ hl hg ht (by simpa using hpass) (by simp)

/-! Elementwise results. -/
theorem vec1_gives (ht : x.typed = true) (h : x.vec1Ok ok) (f : Fmt → Word → Word × Flags) :
    vec1 x ok f = .give x.st (x.vecOut (plainTag x.a.vec.code) (x.map1 (f x.a.vec.fmt))) :=
  Firing.vector_gives1 ht h rfl rfl rfl rfl

theorem Firing.vector_gives2 {n : Out} (ht : x.typed = true) (h : x.vec2Ok ok) :
    x.vector [reqA x ok false, reqB x ok] [] n (.give x.st o) = .give x.st o := by
  obtain ⟨⟨hl, hg, ha⟩, hb, hcode⟩ := h
  exact x.vector_go _ _ _ _ _ hl hg ht (by simpa using ⟨reqA_passes ha, reqB_passes ha hb hcode⟩) (by simp)

theorem vec2_gives (ht : x.typed = true) (h : x.vec2Ok ok) (f : Fmt → Word → Word → Word × Flags) :
    vec2 x ok f = .give x.st (x.vecOut (plainTag x.a.vec.code) (x.map2 (f x.a.vec.fmt))) :=
  Firing.vector_gives2 ht h

theorem vec3_gives (ht : x.typed = true) (h : x.vec3Ok ok) (f : Fmt → Word → Word → Word → Word × Flags) :
    vec3 x ok f = .give x.st (x.vecOut (plainTag x.a.vec.code) (x.map3 (f x.a.vec.fmt))) := by
  obtain ⟨⟨⟨hl, hg, ha⟩, hb, hcode⟩, hc, hcode'⟩ := h
  exact x.vector_go _ _ _ _ _ hl hg ht (by simpa using ⟨reqA_passes ha, reqB_passes ha hb hcode, reqC_passes ha hc hcode'⟩) (by simp)

theorem completes_vec1 (f : Firing → Fmt → Word → Word × Flags) {g : Firing → Word → Word × Flags}
    (he : ∀ s : State, exec i s = .next (runSlot r (fun x => vec1 x ok (f x)) s) := by intro; rfl)
    (hfg : ∀ x, f x x.a.vec.fmt = g x := by intro; rfl) : Completes i r (Firing.vec1Ok ok) (Firing.out1 g) :=
  completes_typed (fun x _ ht h => by rw [vec1_gives ht h, hfg, Firing.out1]) he

theorem completes_vec2 (f : Firing → Fmt → Word → Word → Word × Flags)
    (he : ∀ s : State, exec i s = .next (runSlot r (fun x => vec2 x ok (f x)) s) := by intro; rfl) :
    Completes i r (Firing.vec2Ok ok) (Firing.out2 fun x => f x x.a.vec.fmt) :=
  completes_typed (fun _ _ ht h => vec2_gives ht h _) he

theorem completes_vec3 (f : Firing → Fmt → Word → Word → Word → Word × Flags)
    (he : ∀ s : State, exec i s = .next (runSlot r (fun x => vec3 x ok (f x)) s) := by intro; rfl) :
    Completes i r (Firing.vec3Ok ok) (Firing.out3 fun x => f x x.a.vec.fmt) :=
  completes_typed (fun _ _ ht h => vec3_gives ht h _) he
end

/-- Settles O12: both forms of each instruction have one body, elementwise on its operands. -/
theorem vectorArithmetic : Obligations.VectorArithmetic :=
  ⟨fun _ => completes_vec2 fun x => addEl x.sat x.rm, fun _ _ => completes_vec2 fun x => addEl x.sat x.rm,
   fun _ => completes_vec2 fun x => subEl x.sat x.rm, fun _ _ => completes_vec2 fun x => subEl x.sat x.rm,
   fun _ => completes_vec2 fun x => mulEl x.sat x.rm, fun _ _ => completes_vec2 fun x => mulEl x.sat x.rm,
   fun _ => completes_vec2 fun x => divEl x.sat x.rm, fun _ _ => completes_vec2 fun x => divEl x.sat x.rm,
   fun _ => completes_vec2 fun _ => minEl false, fun _ _ => completes_vec2 fun _ => minEl false,
   fun _ => completes_vec2 fun _ => minEl true, fun _ _ => completes_vec2 fun _ => minEl true,
   fun _ => completes_vec3 fun x => fmaEl x.sat x.rm, fun _ _ => completes_vec3 fun x => fmaEl x.sat x.rm,
   fun _ => completes_vec3 fun x => fmsEl x.sat x.rm, fun _ _ => completes_vec3 fun x => fmsEl x.sat x.rm,
   fun _ => completes_vec2 fun _ _ a b => (a &&& b, 0), fun _ _ => completes_vec2 fun _ _ a b => (a &&& b, 0),
   fun _ => completes_vec2 fun _ _ a b => (a ||| b, 0), fun _ _ => completes_vec2 fun _ _ a b => (a ||| b, 0),
   fun _ => completes_vec2 fun _ _ a b => (a ^^^ b, 0), fun _ _ => completes_vec2 fun _ _ a b => (a ^^^ b, 0)⟩

/-! Functions of one operand. -/
/-- As `zextW_eq_and`, for every width. -/
theorem zextW_eq_mask (w : Word) (n : Nat) : zextW w n = w &&& BitVec.ofNat 64 (2 ^ n - 1) := by
  rw [zextW_eq]
  ext k hk
  simp [hk, ← BitVec.getLsbD_eq_getElem, BitVec.getLsbD_ofNat, Nat.testBit_two_pow_sub_one, Bool.and_comm]

/-- Settles O13: both forms of each instruction have one body; VNOT keeps the bits below its format's width. -/
theorem vectorUnary : Obligations.VectorUnary :=
  ⟨fun _ => completes_vec1 fun x g a => toW (fSqrt g x.rm (dec g a)), fun _ _ => completes_vec1 fun x g a => toW (fSqrt g x.rm (dec g a)),
   fun _ => completes_vec1 fun x g a => toW (fRcp g x.rm (dec g a)), fun _ _ => completes_vec1 fun x g a => toW (fRcp g x.rm (dec g a)),
   fun _ => completes_vec1 fun x g a => toW (fRsq g x.rm (dec g a)), fun _ _ => completes_vec1 fun x g a => toW (fRsq g x.rm (dec g a)),
   fun _ => completes_vec1 fun x g a => toW (fExp2 g x.rm (dec g a)), fun _ _ => completes_vec1 fun x g a => toW (fExp2 g x.rm (dec g a)),
   fun _ => completes_vec1 fun x g a => toW (fLog2 g x.rm (dec g a)), fun _ _ => completes_vec1 fun x g a => toW (fLog2 g x.rm (dec g a)),
   fun _ => completes_vec1 fun x => absEl x.sat, fun _ _ => completes_vec1 fun x => absEl x.sat,
   fun _ => completes_vec1 fun x => negEl x.sat, fun _ _ => completes_vec1 fun x => negEl x.sat,
   fun _ => completes_vec1 (fun _ f a => (zextW (~~~a) f.width, 0)) (hfg := fun _ => funext fun _ => by rw [zextW_eq_mask]),
   fun _ _ => completes_vec1 (fun _ f a => (zextW (~~~a) f.width, 0)) (hfg := fun _ => funext fun _ => by rw [zextW_eq_mask])⟩

end Sys2Proof.Machine
end

-- ==== Proofs: vector compares ====
section
/-! SUPPORT. Compares, classes, and selection by a mask (R150 to R152; O14). -/
set_option Elab.async false
namespace Sys2Proof.Machine

section
variable {i : Instr} {r : Raw} {x : Firing}

theorem cmp2_gives (ht : x.typed = true) (h : x.vec2Ok isArith) (f : Fmt → Word → Word → Bool × Flags) :
    cmp2 x f = .give x.st (x.maskOut ((List.range x.vl).map fun e => if x.p.on e then
      (match x.a.vec.at e, x.b.vec.at e with | some a, some b => some (f x.a.vec.fmt a b) | _, _ => none) else none)) :=
  Firing.vector_gives2 ht h

/-- A compare with a test on the order of the two elements. -/
theorem completes_compare (test : Int → Bool) {test' : Int → Bool} (nanIs ordered : Bool) (htest : ∀ n, test n = test' n := by intro; rfl)
    (he : ∀ s : State, exec i s = .next (runSlot r (fun x => cmp2 x (cmpEl test nanIs ordered)) s) := by intro; rfl) :
    Completes i r (Firing.vec2Ok isArith) fun x => x.maskOut ((List.range x.vl).map fun e => if x.p.on e then
      (match x.a.vec.at e, x.b.vec.at e with | some a, some b => some (cmpEl test' nanIs ordered x.a.vec.fmt a b) | _, _ => none) else none) := by
  obtain rfl := funext htest
  exact completes_typed (fun _ _ ht h => cmp2_gives ht h _) he

theorem bne_zero_eq_decide (n : Int) : (n != 0) = decide (n ≠ 0) := (decide_not (p := n = 0)).symm

theorem vclassBody_gives (ht : x.typed = true) (h : x.vec1Ok isFloat) : vclassBody x = .give x.st (x.maskOut ((List.range x.vl).map fun e =>
    if x.p.on e then (x.a.vec.at e).map (fun a => (x.raw.w2.getLsbD (classOf x.a.vec.fmt a), 0)) else none)) :=
  Firing.vector_gives1 ht h rfl rfl rfl rfl

theorem vselBody_gives (ht : x.typed = true) (h : x.vec2Ok isAny) : vselBody x = .give x.st (x.vecOut (plainTag x.a.vec.code)
    ((List.range x.vl).map fun e => if x.p.on e then
      (match x.a.vec.at e, x.b.vec.at e, maskAt x.c e with | some a, some b, some c => some (if c then a else b, 0) | _, _, _ => none) else none)) :=
  Firing.vector_gives2 ht h

/-- The word of a class mask holds its ten bits. -/
theorem getLsbD_setWidth_class (k : BitVec 10) (n : Nat) : (k.setWidth 32).getLsbD n = k.getLsbD n := by
  rw [BitVec.getLsbD_setWidth, Bool.and_eq_right_iff_imp]
  intro h
  have := BitVec.lt_of_getLsbD h
  simp; omega
end

/-- Settles O14: each compare by its test, VCLASS by the bits of its word, which has none in the form without one. -/
theorem vectorComparesAndSelect : Obligations.VectorComparesAndSelect := by
  refine ⟨?_, ?_, ?_, ?_, ?_, ?_, ?_, ?_, ?_, ?_, ?vclass, ?vclassExt, ?vsel, ?vselExt⟩
  case vclass =>
    refine fun b => completes_typed (body := vclassBody) fun x hr ht h => ?_
    have hword : x.raw.w2 = 0#32 := by rw [hr]; rfl
    simp only [vclassBody_gives ht h, hword, BitVec.getLsbD_zero]
  case vclassExt =>
    refine fun b v k => completes_typed (body := vclassBody) fun x hr ht h => ?_
    have hword : x.raw.w2 = k.setWidth 32 := by rw [hr]; rfl
    simp only [vclassBody_gives ht h, hword, getLsbD_setWidth_class]
  case vsel => exact fun b => completes_typed fun x _ ht h => vselBody_gives ht h
  case vselExt => exact fun b v => completes_typed fun x _ ht h => vselBody_gives ht h
  · exact fun _ => completes_compare (· == 0) false false
  · exact fun _ _ => completes_compare (· == 0) false false
  · exact fun _ => completes_compare (· != 0) true false bne_zero_eq_decide
  · exact fun _ _ => completes_compare (· != 0) true false bne_zero_eq_decide
  · exact fun _ => completes_compare (· < 0) false true
  · exact fun _ _ => completes_compare (· < 0) false true
  · exact fun _ => completes_compare (· ≤ 0) false true
  · exact fun _ _ => completes_compare (· ≤ 0) false true
  · exact fun _ => completes_compare (fun _ => false) true false
  · exact fun _ _ => completes_compare (fun _ => false) true false

end Sys2Proof.Machine
end

-- ==== Proofs: vector shifts and constants ====
section
/-! SUPPORT. Shifts, widening products, and vectors of a tag's format formed from a scalar or the indices (R146, R149, R153, R154; O15). -/
set_option Elab.async false
namespace Sys2Proof.Machine

section
variable {i : Instr} {r : Raw} {x : Firing}

/-! Shifts. -/
/-- What a shift asks of its operands: A fine, B a scalar count or fine and of A's format. -/
def Firing.shiftOk (x : Firing) : Prop :=
  x.vec1Ok isInt ∧ ((∃ n, x.b = .scalar n) ∨ (x.fine x.b isInt false ∧ x.b.vec.code = x.a.vec.code))

theorem shiftBody_gives (ht : x.typed = true) (h : x.shiftOk) (f : Fmt → Word → Nat → Word × Flags) :
    shiftBody x f = .give x.st (x.vecOut (plainTag x.a.vec.code) ((List.range x.vl).map fun e => if x.p.on e then
      (match x.a.vec.at e, x.count e with | some a, some n => some (f x.a.vec.fmt a n) | _, _ => none) else none)) := by
  obtain ⟨⟨hl, hg, ha⟩, hb⟩ := h
  have hcount : (reqB x isInt).passes x := by
    rcases hb with ⟨n, hn⟩ | ⟨hb, hcode⟩
    · exact Req.passes_scalar _ x (by simp [Req.isVec, reqB, hn])
    · exact reqB_passes ha hb hcode
  exact x.vector_go _ _ _ _ _ hl hg ht (by simpa using ⟨reqA_passes ha, hcount⟩) (by simp)

theorem completes_shift (f : Firing → Fmt → Word → Nat → Word × Flags)
    (he : ∀ s : State, exec i s = .next (runSlot r (fun x => shiftBody x (f x)) s) := by intro; rfl) :
    Completes i r Firing.shiftOk fun x => x.vecOut (plainTag x.a.vec.code) ((List.range x.vl).map fun e => if x.p.on e then
      (match x.a.vec.at e, x.count e with | some a, some n => some (f x x.a.vec.fmt a n) | _, _ => none) else none) :=
  completes_typed (fun _ _ ht h => shiftBody_gives ht h _) he

/-! Widening products. -/
/-- The format of double width has the code that names it. -/
theorem fmtOf_wideCode_code (c : Nat) : (fmtOf (wideCode c)).code = wideCode c := by
  unfold wideCode
  split <;> rfl

theorem vmulwBody_gives {odd : Bool} (hw : x.raw.w2 = BitVec.ofNat 32 (encBool odd)) (ht : x.typed = true)
    (h : x.vec2Ok mulwOk) (hc : x.vl ≤ capacity x.thread.vlmax (fmtOf (wideCode x.a.vec.code)).width) :
    vmulwBody x = .give x.st (x.vecOut (plainTag (wideCode x.a.vec.code)) ((List.range x.vl).map fun e => if x.p.on e then
      (match x.a.vec.at (2 * e + encBool odd), x.b.vec.at (2 * e + encBool odd) with
       | some a, some b => some (mulwEl x.rm x.a.vec.fmt (fmtOf (wideCode x.a.vec.code)) a b) | _, _ => none) else none)) := by
  obtain ⟨⟨hl, hg, ha⟩, hb, hcode⟩ := h
  have hodd : (if (BitVec.ofNat 32 (encBool odd)).getLsbD 0 then 1 else 0) = encBool odd := by cases odd <;> rfl
  simp only [vmulwBody, x.codeOfA_fine _ _ ha, hw, hodd, Option.getD_some, fmtOf_wideCode_code]
  refine (x.vector_go _ _ _ _ _ hl hg ht ?passes (by simpa using hc)).trans
    (congrArg (fun l => Fired.give x.st (x.vecOut _ l)) (List.map_congr_left fun e _ => ?_))
  case passes =>
    simp only [List.mem_cons, List.not_mem_nil, or_false, forall_eq_or_imp, forall_eq]
    exact ⟨Req.passes_fine _ x mulwOk false ha rfl rfl (by simp), Req.passes_agreeing ha hb hcode⟩
  cases x.p.on e <;> cases x.a.vec.at (2 * e + encBool odd) <;> cases x.b.vec.at (2 * e + encBool odd) <;> rfl

/-! Vectors formed from nothing but indices. -/
theorem Firing.tagField_of_word {tag : BitVec 16} (hw : x.raw.w2 = tag.setWidth 32) : x.tagField = tag := by
  rw [Firing.tagField, hw]
  exact BitVec.setWidth_setWidth_of_le tag (by decide)

theorem Firing.build_gives {tag : BitVec 16} (hw : x.raw.w2 = tag.setWidth 32) (ht : x.typed = true)
    (h : x.laned ∧ x.given ∧ x.vl ≤ capacity x.thread.vlmax (fmtOf (tagFmt tag)).width) (f : Fmt → Nat → Word) :
    x.build f = .give x.st (x.vecOut tag ((List.range x.vl).map fun e => if x.p.on e then some (f (fmtOf (tagFmt tag)) e, 0) else none)) := by
  obtain ⟨hl, hg, hc⟩ := h
  rw [Firing.build, Firing.tagField_of_word hw]
  exact x.vector_go _ _ _ _ _ hl hg ht (by simp) (by simpa using hc)
end

/-- Settles O15: shifts by what `count` reads at B, VMULW by bit 0 of its word, the constants by the format of their tag. -/
theorem vectorShiftsAndConstants : Obligations.VectorShiftsAndConstants := by
  refine ⟨fun _ => completes_shift fun x => shlEl x.sat, fun _ _ _ => completes_shift fun x => shlEl x.sat,
    fun _ => completes_shift fun _ => shrEl, fun _ _ _ => completes_shift fun _ => shrEl,
    fun _ => completes_shift fun _ => sraEl, fun _ _ _ => completes_shift fun _ => sraEl, ?vmulw, ?vmulwExt, ?vfill, ?vbcast, ?vid⟩
  case vmulw => exact fun b => completes_typed fun x hr ht ⟨h, hc⟩ => vmulwBody_gives (odd := false) (by rw [hr]; rfl) ht h hc
  case vmulwExt => exact fun b v odd => completes_typed fun x hr ht ⟨h, hc⟩ => vmulwBody_gives (by rw [hr]; rfl) ht h hc
  case vfill => exact fun b v tag l => completes_typed fun x hr ht h => Firing.build_gives (by rw [hr]; rfl) ht h _
  case vbcast => exact fun b v tag l => completes_typed fun x hr ht h => Firing.build_gives (by rw [hr]; rfl) ht h _
  case vid => exact fun b v tag => completes_typed fun x hr ht h => Firing.build_gives (by rw [hr]; rfl) ht h _

end Sys2Proof.Machine
end

-- ==== Proofs: conversions and reductions ====
section
/-! SUPPORT. Conversion, retagging and rescaling, reductions to a scalar, and the dot product on the grid (R155 to R159; O16). -/
set_option Elab.async false
namespace Sys2Proof.Machine

section
variable {i : Instr} {r : Raw} {x : Firing} {ok : Nat → Bool} {o : Out}

/-! Conversions. -/
/-- With one operand A that may carry a scale. -/
theorem Firing.vector_givesScaled {q : Req} {ws : List Nat} {n : Out} (ht : x.typed = true) (hl : x.laned) (hg : x.given) (ha : x.fine x.a ok true)
    (hw : ∀ w ∈ ws, x.vl ≤ capacity x.thread.vlmax w) (hq : q.tok = x.a := by rfl) (hok : q.ok = ok := by rfl) (hs : q.scaled = true := by rfl)
    (hag : q.agree = false := by rfl) : x.vector [q] ws n (.give x.st o) = .give x.st o := by
  have hpass : q.passes x := Req.passes_fine q x ok true (hq ▸ ha) hok hs (by simp [hag])
  exact x.vector_go _ _ _ _ _ hl hg ht (by simpa using hpass) hw

/-- What a conversion into the format of a tag asks: A fine, under any scale its format has, and room for the result. -/
def Firing.convertOk (tag : BitVec 16) (x : Firing) : Prop :=
  x.laned ∧ x.given ∧ x.fine x.a isAny true ∧ x.vl ≤ capacity x.thread.vlmax (fmtOf (tagFmt tag)).width

theorem vcvtBody_gives {tag : BitVec 16} (hw : x.raw.w2 = tag.setWidth 32) (ht : x.typed = true) (h : x.convertOk tag) :
    vcvtBody x = .give x.st (x.vecOut tag
      (x.map1 fun a => toW (convert x.a.vec.fmt x.a.vec.scale (fmtOf (tagFmt tag)) (tagScale tag) x.rm x.sat a.toNat))) := by
  obtain ⟨hl, hg, ha, hc⟩ := h
  rw [vcvtBody, Firing.tagField_of_word hw]
  exact Firing.vector_givesScaled ht hl hg ha (by simpa using hc)

theorem vtagBody_gives {tag : BitVec 16} (hw : x.raw.w2 = tag.setWidth 32) (ht : x.typed = true) (h : x.convertOk tag) :
    vtagBody x = .give x.st (x.retagged tag) := by
  obtain ⟨hl, hg, ha, hc⟩ := h
  rw [vtagBody, Firing.tagField_of_word hw]
  exact Firing.vector_givesScaled ht hl hg ha (by simpa using hc)

theorem vscaleBody_gives {k : Nat} (hk : x.raw.w2.toNat % 256 = k) (ht : x.typed = true) (h : x.laned ∧ x.given ∧ x.fine x.a isScaled true) :
    vscaleBody x = .give x.st (x.vecOut (mkTag x.a.vec.code k) (x.map1 fun a => (a, 0))) := by
  obtain ⟨hl, hg, ha⟩ := h
  rw [vscaleBody, hk]
  exact Firing.vector_givesScaled ht hl hg ha (by simp)

/-! Reductions. -/
/-- The root of the tree over the elements present, with its flags (R69). -/
def Firing.treeOf (x : Firing) (op : Fmt → Word → Word → Word × Flags) (empty : Nat) : Nat × Flags :=
  reduceTree x.a.vec.fmt (fun a b => ((op x.a.vec.fmt (BitVec.ofNat 64 a) (BitVec.ofNat 64 b)).1.toNat,
    (op x.a.vec.fmt (BitVec.ofNat 64 a) (BitVec.ofNat 64 b)).2)) x.present empty

theorem completes_reduce (op : Firing → Fmt → Word → Word → Word × Flags) (empty : Fmt → Nat)
    (he : ∀ s : State, exec i s = .next (runSlot r (fun x => x.reduce (op x) empty) s) := by intro; rfl) :
    Completes i r (Firing.vec1Ok isArith) fun x => x.sout
      (.scalar (elemScalar x.a.vec.fmt (BitVec.ofNat 64 (x.treeOf (op x) (empty x.a.vec.fmt)).1))) (x.treeOf (op x) (empty x.a.vec.fmt)).2 (x.vl - 1) :=
  completes_typed (fun _ _ ht h => Firing.vector_gives1 ht h rfl rfl rfl rfl) he

/-! The dot product. -/
/-- What a dot product asks of A and B: weights under any scale, BF16. -/
def Firing.dotOk (x : Firing) : Prop := x.laned ∧ x.given ∧ x.fine x.a isScaled true ∧ x.fine x.b isWeight false

/-- ACC of its word says whether VDOT takes C. -/
theorem takesC_vdot (b : BForm) (v : VWord) (acc : Bool) :
    (Raw.takes ⟨.vdot, .v b v (BitVec.ofNat 32 (encBool acc)) none⟩).any (fun e => e.1 == .c) = acc := by
  cases acc <;> simp [Raw.takes, Raw.ib, Raw.w2, Opcode.wants, wVVV, encBool]

/-- A BF16 operand has room for VL elements of 16 bits. -/
theorem Firing.dotOk_room (h : x.dotOk) : x.vl ≤ capacity x.thread.vlmax 16 := by
  obtain ⟨-, -, -, tag, e, m, -, -, hcode, -, -, hc⟩ := h
  rwa [show tagFmt tag = 11 by simpa [isWeight] using hcode] at hc

theorem vdotBody_gives (hacc : x.raw.takes.any (fun e => e.1 == .c) = false) (ht : x.typed = true) (h : x.dotOk) :
    vdotBody x = .give x.st (x.vecOut (plainTag 13) ((List.range x.vl).map fun g =>
      if (x.vl + 127) / 128 ≤ g then none else some (toW (gridDot ⟨x.pairs g, none, []⟩)))) := by
  obtain ⟨hl, hg, ha, hb⟩ := id h
  simp only [vdotBody, hacc, Bool.false_eq_true, if_false]
  refine x.vector_go _ _ _ _ _ hl hg ht ?_ (by simpa using Firing.dotOk_room h)
  simp only [List.append_nil, List.mem_cons, List.not_mem_nil, or_false, forall_eq_or_imp, forall_eq]
  exact ⟨Req.passes_fine _ x isScaled true ha rfl rfl (by simp), Req.passes_fine _ x isWeight false hb rfl rfl (by simp)⟩

theorem vdotBody_givesAcc (hacc : x.raw.takes.any (fun e => e.1 == .c) = true) (ht : x.typed = true) (h : x.dotOk) (hc : x.fine x.c isFp32 false) :
    vdotBody x = .give x.st (x.vecOut (plainTag 13) ((List.range x.vl).map fun g =>
      if (x.vl + 127) / 128 ≤ g then none
      else (x.c.vec.at g).map fun c => toW (gridDot ⟨x.pairs g, some (decodeFloat fp32 c.toNat), [decodeFloat fp32 c.toNat]⟩))) := by
  obtain ⟨hl, hg, ha, hb⟩ := id h
  simp only [vdotBody, hacc, if_true]
  refine x.vector_go _ _ _ _ _ hl hg ht ?_ (by simpa using Firing.dotOk_room h)
  simp only [List.cons_append, List.nil_append, List.mem_cons, List.not_mem_nil, or_false, forall_eq_or_imp, forall_eq]
  exact ⟨Req.passes_fine _ x isScaled true ha rfl rfl (by simp), Req.passes_fine _ x isWeight false hb rfl rfl (by simp),
    Req.passes_fine _ x isFp32 false hc rfl rfl (by simp)⟩
end

/-- Settles O16: conversions by the tag of their word, reductions by the tree, VDOT by whether its word takes C. -/
theorem vectorConversionsAndReductions : Obligations.VectorConversionsAndReductions := by
  refine ⟨?vcvt, ?vtag, ?vscale, ?vscaleExt, fun _ => completes_reduce (fun x => addEl x.sat x.rm) fun _ => 0, fun _ _ => completes_reduce (fun x => addEl x.sat x.rm) fun _ => 0,
    fun _ => completes_reduce (fun _ => minEl true) rmaxEmpty, fun _ _ => completes_reduce (fun _ => minEl true) rmaxEmpty,
    fun _ => completes_reduce (fun _ => minEl false) rminEmpty, fun _ _ => completes_reduce (fun _ => minEl false) rminEmpty, ?vdot, ?vdotExt, ?vdotAcc⟩
  case vcvt => exact fun b v tag => completes_typed fun x hr ht h => vcvtBody_gives (by rw [hr]; rfl) ht h
  case vtag => exact fun b v tag => completes_typed fun x hr ht h => vtagBody_gives (by rw [hr]; rfl) ht h
  case vscale => exact fun b => completes_typed fun x hr ht h => vscaleBody_gives (by rw [hr]; rfl) ht h
  case vscaleExt =>
    refine fun b v n => completes_typed fun x hr ht h => vscaleBody_gives ?_ ht h
    have hword : x.raw.w2 = n.setWidth 32 := by rw [hr]; rfl
    rw [hword, BitVec.toNat_setWidth]
    omega
  case vdot => exact fun b => completes_typed fun x hr ht h => vdotBody_gives (by rw [hr]; rfl) ht h
  case vdotExt => exact fun b v => completes_typed fun x hr ht h => vdotBody_gives (hr ▸ takesC_vdot b v false) ht h
  case vdotAcc => exact fun b v => completes_typed fun x hr ht ⟨hl, hg, ha, hb, hc⟩ => vdotBody_givesAcc (hr ▸ takesC_vdot b v true) ht ⟨hl, hg, ha, hb⟩ hc

end Sys2Proof.Machine
end

-- ==== Proofs: moved elements and masks ====
section
/-! SUPPORT. Instructions that move elements, single elements, and the instructions on masks (R161 to R163; O17, O18). -/
set_option Elab.async false
namespace Sys2Proof.Machine

section
variable {i : Instr} {r : Raw} {x : Firing}

/-! Moves. -/
theorem Firing.move_gives {reqs : List Req} (ht : x.typed = true) (h : x.vec1Ok isAny) (hr : ∀ q ∈ reqs, q.passes x)
    (src : Nat → Option (Option Nat)) : x.move reqs [] src = .give x.st (x.moved src) := by
  obtain ⟨hl, hg, ha⟩ := h
  refine x.vector_go _ _ _ _ _ hl hg ht ?_ (by simp)
  simp only [List.mem_cons, forall_eq_or_imp]
  exact ⟨Req.passes_fine _ x isAny false ha rfl rfl (by simp), hr⟩

theorem completes_move (src : Firing → Nat → Option (Option Nat))
    (he : ∀ s : State, exec i s = .next (runSlot r (fun x => x.move [] [] (src x)) s) := by intro; rfl) :
    Completes i r (Firing.vec1Ok isAny) fun x => x.moved (src x) :=
  completes_typed (fun _ _ ht h => Firing.move_gives ht h (by simp) _) he

theorem vpermBody_gives (ht : x.typed = true) (h : x.vec1Ok isAny ∧ x.fine x.b isIndex false) :
    vpermBody x = .give x.st (x.moved fun e => (x.b.vec.at e).map fun i => if i.toNat < x.vl then some i.toNat else none) := by
  refine Firing.move_gives ht h.1 ?_ _
  simpa using Req.passes_fine _ x isIndex false h.2 rfl rfl (by simp)

theorem vslideBody_gives {down : Bool} (hd : x.raw.w2.getLsbD 30 = down) (ht : x.typed = true) (h : x.vec1Ok isAny) :
    vslideBody x = .give x.st (x.moved fun e => if down then (if e + x.b.word.toNat < x.vl then some (some (e + x.b.word.toNat)) else none)
      else if x.b.word.toNat ≤ e then some (some (e - x.b.word.toNat)) else none) := by
  rw [vslideBody, hd]
  exact Firing.move_gives ht h (by simp) _

/-! Single elements. -/
theorem vextBody_gives (ht : x.typed = true) (h : x.vec1Ok isArith ∧ x.b.word.toNat < x.vl) :
    vextBody x = .give x.st (x.sout (if x.p.on x.b.word.toNat then
      (match x.a.vec.at x.b.word.toNat with | some a => .scalar (elemScalar x.a.vec.fmt a) | none => .null) else .null) 0 (x.vl - 1)) := by
  obtain ⟨hok, hlt⟩ := h
  rw [vextBody, if_neg (by omega)]
  exact Firing.vector_gives1 ht hok rfl rfl rfl rfl

/-- What the words supply in place of B stands there as the instruction fires. -/
theorem State.firing_immB {s : State} {v : Word} (hx : s.firing r = some x) (hv : r.immB = some v) : x.b = .scalar v := by
  obtain ⟨y, p, hy, -, -, -, rfl⟩ := s.firing_site r x hx
  unfold State.site at hy
  split at hy
  · simp only at hy
    split at hy
    · cases hy
    · split at hy
      · cases hy
      · cases hy
        simp only [hv]
  · cases hy

/-- No operand an instruction takes is null where none is wholly null. -/
theorem Firing.tok_ne_null {o : Opnd} {w : Want} (hg : x.given) (ho : (o, w) ∈ x.raw.takes) : x.tok o ≠ .null := by
  obtain ⟨hnull, -⟩ := hg
  simp only [Firing.anyNull, List.any_eq_false, beq_iff_eq] at hnull
  exact hnull _ ho

/-- VINS takes its index as a token or from its word: it is there either way. -/
theorem vins_index_ne_null {s : State} (b : BForm) (v : VWord) (n : Option (BitVec 14)) (hx : s.firing ⟨.vins, .v b v (encIb n) none⟩ = some x)
    (hg : x.given) : x.b ≠ .null := by
  cases n with
  | none =>
    refine Firing.tok_ne_null (o := .b) (w := .scalar) hg ?_
    rw [s.firing_raw _ x hx]
    simp [Raw.takes, Raw.ib, Raw.w2, Opcode.wants, encIb]
  | some n =>
    have himm : ∃ w, (⟨.vins, .v b v (encIb (some n)) none⟩ : Raw).immB = some w := by
      have hmsb : (encIb (some n)).msb = true := by
        have := n.isLt
        simp [encIb, BitVec.msb_eq_decide]
        omega
      simp [Raw.immB, Raw.ib, Raw.w2, hmsb]
    obtain ⟨w, hw⟩ := himm
    simp [State.firing_immB hx hw]

theorem Firing.vectorIf_eq_vector {nulled : Bool} (hg : x.given) (hn : nulled = false) (reqs : List Req) (ws : List Nat) (n : Out) (go : Fired) :
    x.vectorIf nulled reqs ws n go = x.vector reqs ws n go := by
  obtain ⟨hnull, hp⟩ := hg
  rw [Firing.vector, hn, hnull, decide_eq_false hp, Bool.or_false]

theorem vinsBody_gives (ht : x.typed = true) (h : x.vec1Ok isArith ∧ x.b.word.toNat < x.vl) (hb : x.b ≠ .null) :
    vinsBody x = .give x.st (x.vecOut (plainTag x.a.vec.code) ((List.range x.vl).map fun e => if !x.p.on e then none
      else if e = x.b.word.toNat then (match x.c with | .scalar c => some (zextW c x.a.vec.fmt.width, 0) | _ => none)
      else (x.a.vec.at e).map fun a => (a, 0))) := by
  obtain ⟨⟨hl, hg, ha⟩, hlt⟩ := h
  have hA : x.a ≠ .null := by
    obtain ⟨tag, e, m, hv, -⟩ := ha
    simp [hv]
  rw [vinsBody, Firing.vectorIf_eq_vector hg (by simp [hA, hb, hg.2]), if_neg (by omega)]
  exact Firing.vector_gives1 ht ⟨hl, hg, ha⟩ rfl rfl rfl rfl

/-! Masks. -/
theorem Firing.masks_gives (h : x.laned ∧ x.given) (go : Fired) : x.masks go = go := by
  obtain ⟨hl, hnull, hp⟩ := h
  rw [Firing.masks, Firing.lanes_laned hl, if_neg (by simp [hnull, hp])]

theorem completes_mask2 (f : Bool → Bool → Bool) (he : ∀ s : State, exec i s = .next (runSlot r (fun x => mask2 x f) s) := by intro; rfl) :
    Completes i r (fun x => x.laned ∧ x.given) fun x => Out.tok (.mask ((List.range x.vl).map fun e => if x.p.on e then
      (match maskAt x.a e, maskAt x.b e with | some a, some b => some (f a b) | _, _ => none) else none)) :=
  completes_body (fun _ _ h => Firing.masks_gives h _) he

theorem mnotBody_gives (h : x.laned ∧ x.given) : mnotBody x = .give x.st (Out.tok (.mask ((List.range x.vl).map fun e =>
    if x.p.on e then (maskAt x.a e).map (fun a => !a) else none))) := Firing.masks_gives h _

theorem mpopBody_gives (h : x.laned ∧ x.given) : mpopBody x = .give x.st (scalarOut (BitVec.ofNat 64
    ((List.range x.vl).countP (fun e => x.p.on e && maskAt x.a e == some true)))) := by
  rw [mpopBody, Firing.masks_gives h, List.countP_eq_length_filter]
  rfl

/-- The first of the set bits that P selects is the lowest. -/
theorem head_ones (x : Firing) : (List.range x.vl).find? (fun e => x.p.on e && maskAt x.a e == some true) = x.ones.head? :=
  List.head?_filter.symm

theorem mfirstBody_gives (h : x.laned ∧ x.given) : mfirstBody x = .give x.st (scalarOut
    (match (List.range x.vl).find? (fun e => x.p.on e && maskAt x.a e == some true) with
     | some e => BitVec.ofNat 64 e | none => BitVec.allOnes 64)) := by
  rw [mfirstBody, Firing.masks_gives h, head_ones]
  cases x.ones <;> rfl
end

/-- Settles O17: moves by the source of each element, VEXT and VINS by the element B names. -/
theorem vectorMoves : Obligations.VectorMoves := by
  refine ⟨?vperm, ?vpermExt, fun _ => completes_move _, fun _ _ _ => completes_move _, ?vslide, ?vslideExt,
    fun _ => completes_move _, fun _ _ => completes_move _, fun _ => completes_move _, fun _ _ => completes_move _, ?vext, ?vextExt, ?vins, ?vinsExt⟩
  case vperm => exact fun b => completes_typed fun x _ ht h => vpermBody_gives ht h
  case vpermExt => exact fun b v => completes_typed fun x _ ht h => vpermBody_gives ht h
  case vslide => exact fun b => completes_typed fun x hr ht h => vslideBody_gives (down := false) (by rw [hr]; exact BitVec.getLsbD_zero) ht h
  case vslideExt => exact fun b v n down => completes_typed fun x hr ht h => vslideBody_gives (by rw [hr]; exact Laws.bitOf_slide n down) ht h
  case vext => exact fun b => completes_typed fun x _ ht h => vextBody_gives ht h
  case vextExt => exact fun b v n => completes_typed fun x _ ht h => vextBody_gives ht h
  case vins =>
    refine fun b => completes_typed fun x hr ht h => vinsBody_gives ht h (Firing.tok_ne_null (o := .b) (w := .scalar) h.1.2.1 ?_)
    rw [hr]
    simp [Raw.takes, Opcode.wants]
  case vinsExt =>
    exact fun b v n => completes_give _ _ vinsBody _ _ (fun _ => rfl) fun s x hx h =>
      ⟨vinsBody_gives (State.firing_typed hx) h (vins_index_ne_null b v n hx h.1.2.1), .inl rfl⟩

/-- Settles O18: mask logic bit by bit, MPOP by the number of the set bits that P selects, MFIRST by the first of them. -/
theorem maskInstructions : Obligations.MaskInstructions :=
  ⟨fun _ => completes_mask2 (fun a b => a && b), fun _ _ => completes_mask2 (fun a b => a && b),
   fun _ => completes_mask2 (fun a b => a || b), fun _ _ => completes_mask2 (fun a b => a || b),
   fun _ => completes_mask2 (fun a b => a != b), fun _ _ => completes_mask2 (fun a b => a != b),
   fun _ => completes_body fun _ _ h => mnotBody_gives h, fun _ _ => completes_body fun _ _ h => mnotBody_gives h,
   fun _ => completes_body fun _ _ h => mpopBody_gives h, fun _ _ => completes_body fun _ _ h => mpopBody_gives h,
   fun _ => completes_body fun _ _ h => mfirstBody_gives h, fun _ _ => completes_body fun _ _ h => mfirstBody_gives h⟩

end Sys2Proof.Machine
end

-- ==== Proofs: what homes change ====
section
/-! SUPPORT. Serving a line at its home changes lines, clocks, clusters, banks, error marks and counters, and nothing else (R281, R282, R289, R290,
R292, R428; O35). -/
set_option Elab.async false
namespace Sys2Proof.Machine

/-- From `s` to `t` only what homes keep of their lines has changed: threads, memory, tiles and the requests under way stand. -/
def State.homesOnly (s t : State) : Prop :=
  t = { s with lines := t.lines, clocks := t.clocks, clusters := t.clusters, banks := t.banks, err := t.err, counters := t.counters,
               counterErr := t.counterErr }

section
variable {s t u : State}

theorem State.homesOnly_refl (s : State) : s.homesOnly s := rfl

theorem State.homesOnly_trans (h : s.homesOnly t) (k : t.homesOnly u) : s.homesOnly u := by
  unfold State.homesOnly at *
  refine k.trans ?_
  rw [h]

theorem State.homesOnly.threads (h : s.homesOnly t) : t.threads = s.threads := (congrArg State.threads h :)
theorem State.homesOnly.mem (h : s.homesOnly t) : t.mem = s.mem := (congrArg State.mem h :)
theorem State.homesOnly.loads (h : s.homesOnly t) : t.loads = s.loads := (congrArg State.loads h :)
theorem State.homesOnly.tiles (h : s.homesOnly t) : t.tiles = s.tiles := (congrArg State.tiles h :)
theorem State.homesOnly.thread (h : s.homesOnly t) (n : Nat) : t.thread n = s.thread n := congrArg (mget Thread.absent · n) h.threads
theorem State.homesOnly.tile (h : s.homesOnly t) (n : Nat) : t.tile n = s.tile n := congrArg (mget Tile.start · n) h.tiles

theorem State.homesOnly_ite {c : Prop} [Decidable c] (h : s.homesOnly t) (k : s.homesOnly u) : s.homesOnly (if c then t else u) := by
  split
  · exact h
  · exact k
end

/-! Clocks, logs and counters. -/
theorem State.homesOnly_setCluster (s : State) (n : Nat) (c : Cluster) : s.homesOnly (s.setCluster n c) := rfl
theorem State.homesOnly_setLine (s : State) (l : Nat) (x : LineT) : s.homesOnly (s.setLine l x) := rfl
theorem State.homesOnly_raiseClockTo (s : State) (h : Nat) (t : Time) : s.homesOnly (s.raiseClockTo h t) := rfl

theorem State.homesOnly_packetTo (s : State) (tile h : Nat) : s.homesOnly (s.packetTo tile h) :=
  State.homesOnly_ite (State.homesOnly_refl s) (s.homesOnly_raiseClockTo _ _)

theorem State.homesOnly_alert (s : State) (bank row : Nat) : s.homesOnly (s.alert bank row) :=
  State.homesOnly_ite (State.homesOnly_refl s) rfl

theorem State.homesOnly_count (s : State) (bank row : Nat) : s.homesOnly (s.count bank row) :=
  State.homesOnly_ite (State.homesOnly_trans (t := s.setCounter bank row _) rfl (State.homesOnly_alert _ _ _)) rfl

theorem State.homesOnly_activate (s : State) (bank row : Nat) : s.homesOnly (s.activate bank row) := by
  unfold State.activate
  split
  · exact s.homesOnly_count _ _
  · exact State.homesOnly_trans (t := (s.logCode bank row).setCode bank row .ok) rfl (State.homesOnly_count _ _ _)
  · exact State.homesOnly_trans (t := ((s.logCode bank row).setCode bank row .ok).setCounter bank row _) rfl (State.homesOnly_alert _ _ _)

theorem State.homesOnly_activateLine (s : State) (l : Nat) : s.homesOnly (s.activateLine l) := by
  unfold State.activateLine
  split
  · exact s.homesOnly_activate _ _
  · exact s.homesOnly_refl

theorem State.homesOnly_askDram (s : State) (l : Nat) (what : DramWhat) : s.homesOnly (s.askDram l what) := by
  unfold State.askDram
  split
  · exact s.homesOnly_refl
  · exact State.homesOnly_ite s.homesOnly_refl rfl

theorem State.homesOnly_writeBack (s : State) (l : Nat) : s.homesOnly (s.writeBack l) :=
  State.homesOnly_ite (s.homesOnly_askDram _ _) (s.homesOnly_activateLine _)

theorem State.homesOnly_logLine (s : State) (cls line : Nat) : s.homesOnly (s.logLine cls line) := by
  unfold State.logLine
  split
  · rfl
  · exact s.homesOnly_refl

/-! Lines that leave a slice. -/
theorem State.homesOnly_sliceError (s : State) (c l : Nat) (dirty : Bool) : s.homesOnly (s.sliceError c l dirty) :=
  State.homesOnly_ite (State.homesOnly_trans (t := (s.logRecord c 5 0 0 0 (l * 128) 0).setErr l .poisoned) rfl (State.homesOnly_logLine _ _ _)) rfl

theorem State.homesOnly_evictLines (c : Nat) : ∀ (l : List Nat) (s : State), s.homesOnly (s.evictLines c l) := by
  intro l
  induction l with
  | nil => exact State.homesOnly_refl
  | cons k r ih =>
    intro s
    unfold State.evictLines
    refine State.homesOnly_ite ?_ (ih s)
    refine State.homesOnly_trans ?_ (ih _)
    have hgone : s.homesOnly (((s.setCluster c { s.cluster c with mts := serialMax (s.cluster c).mts (s.line k).rts }).raiseClockTo c
        (serialMax (s.cluster c).mts (s.line k).rts)).setLine k LineT.none) :=
      State.homesOnly_trans (State.homesOnly_trans (s.homesOnly_setCluster _ _) (State.homesOnly_raiseClockTo _ _ _)) (State.homesOnly_setLine _ _ _)
    have hbad := State.homesOnly_ite (c := (s.line k).bad = true) (State.homesOnly_trans hgone (State.homesOnly_sliceError _ c k (s.line k).dirty)) hgone
    exact State.homesOnly_ite (State.homesOnly_trans hbad (State.homesOnly_writeBack _ _)) hbad

theorem State.homesOnly_evict (s : State) (c sb : Nat) : s.homesOnly (s.evict c sb) :=
  State.homesOnly_trans (State.homesOnly_evictLines c _ s) rfl

theorem State.homesOnly_dropLine (s : State) (c l : Nat) : s.homesOnly (s.dropLine c l) :=
  State.homesOnly_trans (State.homesOnly_evictLines c [l] s) (State.homesOnly_ite (State.homesOnly_refl _) rfl)

/-! Lines that come into a slice. -/
theorem State.homesOnly_touch (s : State) (c sb : Nat) : s.homesOnly (s.touch c sb) := by
  unfold State.touch
  refine State.homesOnly_trans (State.homesOnly_ite ?_ s.homesOnly_refl) rfl
  split
  · exact s.homesOnly_evict _ _
  · exact s.homesOnly_refl

theorem State.homesOnly_fitSegs (c keep : Nat) : ∀ (n : Nat) (s : State), s.homesOnly (s.fitSegs c keep n) := by
  intro n
  induction n with
  | zero => exact State.homesOnly_refl
  | succ n ih =>
    intro s
    unfold State.fitSegs
    refine State.homesOnly_ite s.homesOnly_refl ?_
    split
    · exact State.homesOnly_trans (s.homesOnly_evict _ _) (ih _)
    · exact s.homesOnly_refl

theorem State.homesOnly_fillLine (s : State) (c l : Nat) (compress : Bool) : s.homesOnly (s.fillLine c l compress) := by
  have htouch := s.homesOnly_touch c (superblock l)
  exact State.homesOnly_ite htouch (State.homesOnly_trans htouch (State.homesOnly_trans
    (t := (s.touch c (superblock l)).setLine l _) rfl (State.homesOnly_fitSegs _ _ _ _)))

/-! Lines served. -/
theorem State.homesOnly_scrubSram (s : State) (l : Nat) : s.homesOnly (s.scrubSram l) := by
  unfold State.scrubSram
  split
  · rfl
  · rfl
  · exact s.homesOnly_refl

theorem State.homesOnly_scrubHeld (s : State) (h l : Nat) : s.homesOnly (s.scrubHeld h l) :=
  State.homesOnly_ite (State.homesOnly_ite (s.homesOnly_dropLine _ _) s.homesOnly_refl) (s.homesOnly_scrubSram _)

theorem State.homesOnly_serveLoad (s : State) (h l : Nat) (b : Time) (lease : Option Nat) (nocache compress : Bool) :
    s.homesOnly (s.serveLoad h l b lease nocache compress).st := by
  cases hs : isSlice h with
  | false =>
    simp only [State.serveLoad, hs, Bool.false_eq_true, if_false]
    exact s.homesOnly_raiseClockTo _ _
  | true =>
    cases nocache with
    | true =>
      simp only [State.serveLoad, hs, if_true]
      exact State.homesOnly_trans (s.homesOnly_dropLine h l)
        (State.homesOnly_trans (State.homesOnly_setCluster _ _ _) (State.homesOnly_raiseClockTo _ _ _))
    | false =>
      simp only [State.serveLoad, hs, if_true, Bool.false_eq_true, if_false]
      exact State.homesOnly_trans (s.homesOnly_fillLine h l compress)
        (State.homesOnly_trans (State.homesOnly_setLine _ _ _) (State.homesOnly_raiseClockTo _ _ _))

/-! Errors that a home finds before it serves. -/
/-- Of an error of a line in SRAM, only a correctable one goes. -/
theorem State.errOf_scrubSram (s : State) (l k : Nat) {m : ErrMark} (hm : m = .poisoned ∨ m = .uncorrectable) :
    (s.scrubSram l).errOf k = m ↔ s.errOf k = m := by
  unfold State.scrubSram
  split
  next bits hbits =>
    by_cases hk : k = l
    · subst hk
      have hgone : ((s.setErr k .ok).logRecord (homeCluster ((homeOf s (k * 128)).getD 0)) 4 0 (logSram (k * 128)) 0 0 0).errOf k = .ok := by
        simp [State.logRecord, State.errOf, State.setErr, State.setCluster, mget_mset_same]
      rw [hgone, hbits]
      rcases hm with rfl | rfl <;> simp
    · have hstays : ((s.setErr l .ok).logRecord (homeCluster ((homeOf s (l * 128)).getD 0)) 4 0 (logSram (l * 128)) 0 0 0).errOf k = s.errOf k := by
        simp [State.logRecord, State.errOf, State.setErr, State.setCluster, mget_mset_other _ _ _ hk]
      rw [hstays]
  · rfl
  · rfl

theorem readError_scrubSram (s : State) (l key n : Nat) : readError (s.scrubSram l) key n = readError s key n := by
  simp only [readError, List.contains_eq_mem, List.mem_cons, List.not_mem_nil, or_false, eq_comm (a := ErrMark.poisoned),
    eq_comm (a := ErrMark.uncorrectable), s.errOf_scrubSram l _ (.inl rfl), s.errOf_scrubSram l _ (.inr rfl)]

section
variable {s : State} {h l : Nat}

/-- A slice with no error in its copy has nothing to scrub. -/
theorem State.scrubHeld_of_slice (hs : isSlice h = true) (hb : (s.line l).bad = false) : s.scrubHeld h l = s := by
  simp [State.scrubHeld, hs, hb]

theorem State.loadMeetsError_scrubHeld (hb : (s.line l).bad = false) (q : LoadReq) : (s.scrubHeld h l).loadMeetsError q = s.loadMeetsError q := by
  cases hs : isSlice h with
  | true => rw [State.scrubHeld_of_slice hs hb]
  | false => simp [State.scrubHeld, hs, State.loadMeetsError, readError_scrubSram]

theorem State.needsDram_scrubHeld (hb : (s.line l).bad = false) (k : Nat) (r : Route) : (s.scrubHeld h l).needsDram h k r = s.needsDram h k r := by
  cases hs : isSlice h with
  | true => rw [State.scrubHeld_of_slice hs hb]
  | false => simp [State.needsDram, hs]
end

end Sys2Proof.Machine
end

-- ==== Proofs: loads delivered ====
section
/-! SUPPORT. How the bytes of its line reach a load that is the only one on its way: its value goes to its target, and nothing changes but its
thread's block (R165, R26, R302, R308; O35). -/
set_option Elab.async false
namespace Sys2Proof.Machine

/-! What a delivery leaves. -/
/-- From `s` to `t` the blocks of thread `tid` have become `l`; its other parts, every other thread, memory, the loads on their way and the L1s stand. -/
def State.flightOnly (s t : State) (tid : Nat) (l : List BlockExec) : Prop :=
  t.thread tid = { s.thread tid with flight := l } ∧ (∀ n, n ≠ tid → t.thread n = s.thread n) ∧ t.mem = s.mem ∧ t.loads = s.loads ∧
  ∀ n, (t.tile n).l1 = (s.tile n).l1

section
variable {s t u : State} {tid slot : Nat} {b : BlockExec} {l m : List BlockExec} {tr : TargetRef}

theorem State.flightOnly_trans (h : s.flightOnly t tid l) (k : t.flightOnly u tid m) : s.flightOnly u tid m := by
  obtain ⟨hsame, hother, hmem, hloads, hl1⟩ := h
  obtain ⟨hsame', hother', hmem', hloads', hl1'⟩ := k
  exact ⟨by rw [hsame', hsame], fun n hn => by rw [hother' n hn, hother n hn], by rw [hmem', hmem], by rw [hloads', hloads], fun n => by rw [hl1', hl1]⟩

theorem State.flightOnly.flight (h : s.flightOnly t tid l) : (t.thread tid).flight = l := by rw [h.1]

theorem State.flightOnly.keeps (h : s.flightOnly t tid l) : (s.thread tid).keeps (t.thread tid) := by
  rw [h.1]
  exact Thread.keeps_refl (s.thread tid)

theorem State.flightOnly_raiseHorizon (s : State) (tid tile : Nat) (w : Time) : s.flightOnly (s.raiseHorizon tile w) tid (s.thread tid).flight := by
  refine ⟨rfl, fun _ _ => rfl, rfl, rfl, fun n => ?_⟩
  by_cases hn : n = tile
  · subst hn
    simp [State.raiseHorizon]
  · rw [State.raiseHorizon, State.setTile_tile_other _ _ hn]

theorem Thread.block_single {t : Thread} (hf : t.flight = [b]) : t.block b.serial = some b := by
  simp [Thread.block, hf]

theorem Thread.older_single {t : Thread} (hf : t.flight = [b]) : t.older b.serial = [] := by
  simp [Thread.older, hf]

/-- An update of the only block in flight. -/
theorem State.flightOnly_updBlock (hf : (s.thread tid).flight = [b]) (f : BlockExec → BlockExec) :
    s.flightOnly (s.updBlock tid b.serial f) tid [f b] := by
  refine ⟨?_, fun n hn => s.updBlock_other _ _ _ hn, rfl, rfl, fun _ => rfl⟩
  rw [State.updBlock_thread, Thread.updBlock, hf, List.map_cons, if_pos rfl, List.map_nil]

/-! A token on its way to a block. -/
theorem State.deliver1_single {k : Token} (hf : (s.thread tid).flight = [b]) (hfree : b.tok tr.slot.toNat tr.opnd = none) :
    s.flightOnly (s.deliver1 tid b.serial tr k) tid [{ b with toks := b.toks ++ [⟨tr.slot.toNat, tr.opnd, k⟩], stuck := [] }] := by
  simp only [State.deliver1, Thread.block_single hf, hfree, Option.isSome_none, Bool.false_eq_true, if_false]
  exact State.flightOnly_updBlock hf _

/-- The instruction of the block's slot has one target, which is free. -/
def BlockExec.oneTarget (b : BlockExec) (slot : Nat) (tr : TargetRef) : Prop :=
  (∃ r, b.raw slot = some r ∧ r.targets = [some tr, none, none]) ∧ b.tok tr.slot.toNat tr.opnd = none

/-- The block after a result has come: its slot no longer waits, its target has the token. -/
def BlockExec.received (b : BlockExec) (slot : Nat) (tr : TargetRef) (k : Token) : BlockExec :=
  { b with awaiting := b.awaiting.filter (· != slot), toks := b.toks ++ [⟨tr.slot.toNat, tr.opnd, k⟩], stuck := [] }

theorem BlockExec.received_awaiting (b : BlockExec) (slot : Nat) (tr : TargetRef) (k : Token) : slot ∉ (b.received slot tr k).awaiting := by
  simp [BlockExec.received]

theorem BlockExec.received_tok (hfree : b.tok tr.slot.toNat tr.opnd = none) (k : Token) :
    (b.received slot tr k).tok tr.slot.toNat tr.opnd = some k := by
  simp only [BlockExec.tok, Option.map_eq_none_iff] at hfree
  simp [BlockExec.received, BlockExec.tok, List.find?_append, hfree]

theorem State.arrive_single (hf : (s.thread tid).flight = [b]) (ht : b.oneTarget slot tr) (k : Token) :
    s.flightOnly (s.arrive tid b.serial slot (some k) none) tid [b.received slot tr k] := by
  obtain ⟨⟨r, hr, htargets⟩, hfree⟩ := ht
  have hsends : r.sends (some k) none = [(tr, k)] := by simp [Raw.sends, htargets]
  have hidle := State.flightOnly_updBlock hf fun b => { b with awaiting := b.awaiting.filter (· != slot) }
  simp only [State.arrive, Thread.block_single hf, hr, State.deliver, hsends, List.foldl_cons, List.foldl_nil]
  exact State.flightOnly_trans hidle (State.deliver1_single hidle.flight hfree)

/-! Versions taken. -/
/-- The thread's only block and its committed blocks have returned no version of a line. -/
def State.firstRead (s : State) (tid : Nat) (b : BlockExec) : Prop :=
  (s.thread tid).flight = [b] ∧ b.reads = [] ∧ (s.thread tid).seen = []

/-- Such a read is not overtaken (R308). -/
theorem State.readsBehind_first (h : s.firstRead tid b) (lsid : Nat) (reads : List (Nat × Nat × Time)) :
    s.readsBehind tid b.serial lsid reads = false := by
  obtain ⟨hf, hreads, hseen⟩ := h
  simp [State.readsBehind, Thread.older_single hf, Thread.block_single hf, hreads, hseen]

theorem State.noteReads_first (h : s.firstRead tid b) (hl : s.loads = []) (lsid : Nat) (reads : List (Nat × Nat × Time)) :
    s.flightOnly (s.noteReads tid b.serial lsid reads).1 tid [{ b with reads := reads }] ∧ (s.noteReads tid b.serial lsid reads).2 = true := by
  obtain ⟨hf, hreads, -⟩ := h
  have hlate : (s.thread tid).flight.dropWhile (fun k => k.serial != b.serial) = [b] := by simp [hf]
  have hpassed : passed reads (b.reads.filter (fun r => decide (lsid < r.1) && decide (r.1 < 32))) = false := by simp [passed, hreads]
  simp only [State.noteReads, hlate, hpassed, Thread.older_single hf]
  refine ⟨⟨?_, fun n hn => ?_, rfl, ?_, fun _ => rfl⟩, rfl⟩
  · simp [hreads, State.dropLoads_thread]
  · rw [State.setThread_thread_other _ _ hn]; rfl
  · simp [State.dropLoads, hl]

theorem State.noteReads_arrive (h : s.firstRead tid b) (hl : s.loads = []) (ht : b.oneTarget slot tr) (lsid : Nat)
    (reads : List (Nat × Nat × Time)) (k : Token) :
    s.flightOnly (if (s.noteReads tid b.serial lsid reads).2 then (s.noteReads tid b.serial lsid reads).1.arrive tid b.serial slot (some k) none
      else (s.noteReads tid b.serial lsid reads).1) tid [BlockExec.received { b with reads := reads } slot tr k] := by
  obtain ⟨hnoted, htrue⟩ := State.noteReads_first h hl lsid reads
  rw [if_pos htrue]
  exact State.flightOnly_trans hnoted (State.arrive_single (b := { b with reads := reads }) hnoted.flight ht k)

/-- All of a load has come: its token goes to its target, HORIZON takes the read time (R26, R302). -/
theorem State.deliverParts_first {form : LoadForm} {parts : List LoadPart} (h : s.firstRead tid b) (hl : s.loads = []) (ht : b.oneTarget slot tr)
    (halt : (form.tokens parts).2 = none) (lsid : Nat) :
    s.flightOnly (s.deliverParts tid b.serial slot lsid form parts) tid
      [BlockExec.received { b with reads := partReads lsid parts } slot tr (form.tokens parts).1] := by
  rw [State.deliverParts, State.readsBehind_first h, if_neg (by decide), halt]
  cases partsTime parts with
  | none => exact State.noteReads_arrive h hl ht _ _ _
  | some w =>
    exact State.flightOnly_trans (s.flightOnly_raiseHorizon tid (s.tileOf tid) w)
      (State.noteReads_arrive (s := s.raiseHorizon (s.tileOf tid) w) h hl ht _ _ _)

/-! The line's bytes. -/
/-- No load is on its way. -/
def State.unloaded (s : State) : State := { s with loads := [] }

theorem State.unloaded_updLoad (s : State) (id : Nat) (f : LoadReq → LoadReq) : (s.updLoad id f).unloaded = s.unloaded := rfl

/-- The load of one part stands whole, with no other on its way. -/
theorem State.settleLoad_single {q : LoadReq} {p : LoadPart} (hq : s.loads = [q]) (hp : q.parts = [p]) (hgot : p.got.isSome = true)
    (h : s.firstRead q.tid b) (hs : b.serial = q.serial) (hw : q.slot ∈ b.awaiting) :
    s.settleLoad q.tid q.serial q.slot =
      s.unloaded.deliverParts q.tid b.serial q.slot ((b.raw q.slot).map lsidNo |>.getD 0) q.form [p] := by
  have hof : q.of q.tid q.serial q.slot = true := by simp [LoadReq.of]
  have hblock : (s.thread q.tid).block q.serial = some b := hs ▸ Thread.block_single h.1
  have hsort : sortOn (fun p : LoadPart => p.elem) [p] = [p] := rfl
  simp [State.settleLoad, State.unloaded, hq, hof, hp, hgot, hblock, hw, hsort, hs]
end

end Sys2Proof.Machine
end

-- ==== Proofs: loads served ====
section
/-! SUPPORT. A load at its home, in the RDC and at the L1: what answers it, and what its delivery gives (R165, R177, R191, R281, R284, R286; O35). -/
set_option Elab.async false
namespace Sys2Proof.Machine

/-! Bytes of a line. -/
theorem readBytes_drop (m : Memory) (n : Nat) : ∀ a k, (readBytes m k (a + n)).drop a = readBytes m (k + a) n := by
  intro a
  induction a with
  | zero => intro k; rw [Nat.zero_add, List.drop_zero, Nat.add_zero]
  | succ a ih =>
    intro k
    rw [Nat.add_right_comm, readBytes, List.drop_succ_cons, ih (k + 1), Nat.add_right_comm, Nat.add_assoc]

theorem readBytes_take (m : Memory) (j : Nat) : ∀ n k, (readBytes m k (n + j)).take n = readBytes m k n := by
  intro n
  induction n with
  | zero => intro k; rw [List.take_zero, readBytes]
  | succ n ih =>
    intro k
    rw [Nat.add_right_comm, readBytes, List.take_succ_cons, ih (k + 1), readBytes]

/-- The bytes of a location within its line. -/
theorem readBytes_inLine (m : Memory) {k n : Nat} (h : k % 128 + n ≤ 128) :
    ((readBytes m (lineOf k * 128) 128).drop (k % 128)).take n = readBytes m k n := by
  have hlen : 128 = k % 128 + (n + (128 - k % 128 - n)) := by omega
  have hkey : lineOf k * 128 + k % 128 = k := by rw [lineOf]; omega
  rw [congrArg (readBytes m (lineOf k * 128)) hlen, readBytes_drop, readBytes_take, hkey]

theorem overlay_nil (l : List Byte) : overlay l [] = l := by
  simp [overlay]

/-! A load's value. -/
/-- What a part of a load makes of its line's bytes (R165). -/
def LoadPart.valueIn (p : LoadPart) (data : List Byte) (sx : Bool) : Word :=
  let w := BitVec.ofNat 64 (leNat ((data.drop (p.key % 128)).take p.size))
  if sx then sextW w (8 * p.size) else zextW w (8 * p.size)

theorem LoadPart.valueIn_line {p : LoadPart} (h : p.key % 128 + p.size ≤ 128) (m : Memory) (sx : Bool) :
    p.valueIn (readBytes m (lineOf p.key * 128) 128) sx = loadValue m p.key p.size sx := by
  simp only [LoadPart.valueIn, readBytes_inLine m h, loadValue, readNat]

/-- The form delivers a scalar of n bytes and no witness: a load's, or an MWAIT's. -/
def LoadForm.delivers (f : LoadForm) (n : Nat) (sx : Bool) : Prop := f = .scalar n sx false ∨ ∃ limit, f = .wait n sx false limit

theorem LoadForm.tokens_take {f : LoadForm} {p : LoadPart} {sx : Bool} (hf : f.delivers p.size sx) (hp : p.fwd = []) (data : List Byte) (w : Option Time) :
    f.tokens [p.take data w] = (.scalar (p.valueIn data sx), none) := by
  have hword : partWord (p.take data w) = BitVec.ofNat 64 (leNat ((data.drop (p.key % 128)).take p.size)) := by
    simp [partWord, LoadPart.take, hp, overlay_nil]
  rcases hf with rfl | ⟨limit, rfl⟩ <;> simp [LoadForm.tokens, scalarOf, hword, LoadPart.valueIn]

/-! Requests on their way. -/
/-- `y` is the load `x`, but for where it stands and what is on its way to it. -/
def LoadReq.reroutes (x y : LoadReq) : Prop := y = { x with stage := y.stage, answer := y.answer, toRdc := y.toRdc }

theorem LoadReq.overtaken_reroutes (x : LoadReq) (l : Nat) (w : Time) : x.reroutes (x.overtaken l w) := by
  unfold LoadReq.overtaken
  split
  · split <;> rfl
  · rfl

section
variable {s u : State} {l q : LoadReq} {p : LoadPart} {b : BlockExec} {tr : TargetRef} {sx : Bool} {id : Nat}

theorem State.dropOlderAt_single (h : s.loads = [l]) (tile k : Nat) (w : Time) :
    ∃ q, (s.dropOlderAt tile k w).loads = [q] ∧ l.reroutes q := by
  simp only [State.dropOlderAt, State.setCluster_loads, State.setTile_loads, h, List.map_cons, List.map_nil]
  refine ⟨_, rfl, ?_⟩
  split
  · exact l.overtaken_reroutes k w
  · split <;> rfl

theorem State.findLoad_id (h : s.findLoad id = some l) : l.id = id := by
  simpa using List.find?_some h

theorem State.findLoad_updLoad {f : LoadReq → LoadReq} (hf : ∀ x, (f x).id = x.id) (h : s.findLoad id = some l) :
    (s.updLoad id f).findLoad id = some (f l) := by
  have hid := State.findLoad_id h
  simp only [State.findLoad, State.updLoad, List.find?_map] at h ⊢
  have hsame : ((fun x : LoadReq => x.id == id) ∘ fun x => if x.id = id then f x else x) = fun x => x.id == id := by
    funext x
    by_cases hx : x.id = id <;> simp [hx, hf]
  rw [hsame, h, Option.map_some, if_pos hid]

/-- The line's bytes reach the only load on its way. -/
theorem State.takeLine_single (hu : u.loads = [q]) (hq : l.reroutes q) (hp : l.parts = [p]) (h : u.firstRead l.tid b) (hs : b.serial = l.serial)
    (hw : l.slot ∈ b.awaiting) (ht : b.oneTarget l.slot tr) (hf : l.form.delivers p.size sx) (hfwd : p.fwd = []) (data : List Byte) (w : Option Time) :
    u.unloaded.flightOnly (u.takeLine l data w) l.tid
      [BlockExec.received { b with reads := partReads ((b.raw l.slot).map lsidNo |>.getD 0) [p.take data w] } l.slot tr (.scalar (p.valueIn data sx))] := by
  obtain ⟨st, an, rd, rfl⟩ : ∃ st an rd, q = { l with stage := st, answer := an, toRdc := rd } := ⟨_, _, _, hq⟩
  have htokens := LoadForm.tokens_take hf hfwd data w
  have hsettle := State.settleLoad_single (s := u.updLoad l.id fun l => { l with stage := .arrived, answer := none, parts := l.parts.map (fun p => p.take data w) })
    (q := { l with stage := .arrived, answer := none, parts := [p.take data w], toRdc := rd }) (p := p.take data w) (b := b)
    (by simp [State.updLoad, hu, hp]) rfl rfl h hs hw
  rw [State.takeLine, hsettle, State.unloaded_updLoad]
  have hdeliver := State.deliverParts_first (s := u.unloaded) (tid := l.tid) (form := l.form) (parts := [p.take data w]) h rfl ht
    (congrArg Prod.snd htokens) ((b.raw l.slot).map lsidNo |>.getD 0)
  rw [htokens] at hdeliver
  exact hdeliver

/-- Where the only load on its way takes its line's bytes, its value is at its target. -/
theorem State.awaits_takeLine (ha : s.awaits l p b tr) (hthreads : u.threads = s.threads) (hmem : u.mem = s.mem)
    (hu : ∃ q, u.loads = [q] ∧ l.reroutes q) (hf : l.form.delivers p.size sx) (data : List Byte) (w : Option Time) :
    s.loaded (u.takeLine l data w) l tr (p.valueIn data sx) ∧ ∀ n, ((u.takeLine l data w).tile n).l1 = (u.tile n).l1 := by
  obtain ⟨-, hparts, -, -, hfwd, -, hflight, hserial, hwaits, hreads, hseen, htarget, hfree⟩ := ha
  obtain ⟨q, hq, hre⟩ := hu
  have hthread : ∀ n, u.thread n = s.thread n := fun n => congrArg (mget Thread.absent · n) hthreads
  have hfirst : u.firstRead l.tid b := by
    rw [State.firstRead, hthread]
    exact ⟨hflight, hreads, hseen⟩
  have hdone := State.takeLine_single hq hre hparts hfirst hserial hwaits ⟨htarget, hfree⟩ hf hfwd data w
  obtain ⟨-, hother, hm, hloads, hl1⟩ := id hdone
  exact ⟨⟨⟨_, hdone.flight, BlockExec.received_awaiting _ l.slot tr _, BlockExec.received_tok (slot := l.slot) hfree _⟩, hloads, hm.trans hmem, hthread l.tid ▸ hdone.keeps,
    fun n hn => (hother n hn).trans (hthread n)⟩, hl1⟩

/-! Served at the home. -/
theorem State.packetBack_frame (s : State) (tile h : Nat) :
    (s.packetBack tile h).threads = s.threads ∧ (s.packetBack tile h).mem = s.mem ∧ (s.packetBack tile h).loads = s.loads := by
  unfold State.packetBack
  split <;> exact ⟨rfl, rfl, rfl⟩

/-- What serving a load at its home leaves as it was. -/
theorem State.homesOnly_served (hu : s.homesOnly u) (tile h k : Nat) (bound : Time) (lease : Option Nat) (nocache compress : Bool) :
    s.homesOnly ((u.packetTo tile h).serveLoad h k bound lease nocache compress).st :=
  State.homesOnly_trans (State.homesOnly_trans hu (u.homesOnly_packetTo _ _)) (State.homesOnly_serveLoad ..)

/-- A version of its line as memory has it reaches the only load on its way. -/
theorem State.awaits_version {v : State} (ha : s.awaits l p b tr) (hv : s.homesOnly v) (hf : l.form.delivers p.size sx) (tile h : Nat) (w : Time) :
    s.loaded (((v.dropOlderAt tile l.line w).packetBack tile h).takeLine l (readBytes s.mem (l.line * 128) 128) (some w)) l tr
      (loadValue s.mem p.key p.size sx) := by
  obtain ⟨hloads, hparts, -, hin, -⟩ := id ha
  have hline : l.line = lineOf p.key := by simp [LoadReq.line, LoadReq.key, hparts]
  obtain ⟨hthreads, hmem, hback⟩ := (v.dropOlderAt tile l.line w).packetBack_frame tile h
  have hone := State.dropOlderAt_single (hv.loads.trans hloads) tile l.line w
  rw [← hback] at hone
  rw [← LoadPart.valueIn_line hin, ← hline]
  exact (State.awaits_takeLine ha (hthreads.trans hv.threads) (hmem.trans hv.mem) hone hf _ _).1

/-- Served at its home without a lease, the only load on its way delivers the newest bytes. -/
theorem State.awaits_serveNow (ha : s.awaits l p b tr) (hu : s.homesOnly u) (hf : l.form.delivers p.size sx) (h : Nat) :
    s.loaded (u.serveNow l h) l tr (loadValue s.mem p.key p.size sx) := by
  rw [State.serveNow, hu.mem]
  exact State.awaits_version ha (State.homesOnly_served hu ..) hf _ h _

/-- Served at its home with a lease, a load's answer is the line as memory has it, on its way to the L1 or the RDC. -/
theorem State.serveRenewal_answers (hu : s.homesOnly u) (hfind : s.findLoad id = some l) (h : Nat) :
    ∃ q c, (u.serveRenewal l h).findLoad id = some q ∧ q.answer = some c ∧ c.line = l.line ∧ c.data = readBytes s.mem (l.line * 128) 128 ∧
      q.parts = l.parts ∧ (q.stage = .toL1 ∨ q.stage = .toRdc) ∧ (u.serveRenewal l h).mem = s.mem ∧ (u.serveRenewal l h).threads = s.threads := by
  set v := (u.packetTo (u.tileOf l.tid) h).serveLoad h l.line l.bound (some (u.thread l.tid).lease.toNat) false l.compress with hv
  have hserved : s.homesOnly v.st := hv ▸ State.homesOnly_served hu ..
  obtain ⟨hthreads, hmem, hloads⟩ := v.st.packetBack_frame (u.tileOf l.tid) h
  have hfind' : (v.st.packetBack (u.tileOf l.tid) h).findLoad id = some l := by
    rw [State.findLoad, hloads, hserved.loads]
    exact hfind
  obtain rfl := State.findLoad_id hfind
  refine ⟨_, _, State.findLoad_updLoad (fun _ => rfl) hfind', rfl, rfl, ?_, rfl, ?_, hmem.trans hserved.mem, hthreads.trans hserved.threads⟩
  · rw [← hu.mem]
  · simp only
    split
    · exact .inl rfl
    · exact .inr rfl

/-- Nothing holds the load back at home `h`, where it is to be served now. -/
structure State.Serves (s : State) (l : LoadReq) (h : Nat) : Prop where
  turn : s.lineTurn l = true
  home : l.home = some h
  near : l.route ≠ .host ∧ l.route ≠ .peer
  bound : s.underCeiling l.bound = true
  version : s.underCeiling (s.wts h l.line) = true
  gate : s.gate (some (s.party l.tid)) l.key false = none
  copy : (s.line l.line).bad = false
  readable : s.loadMeetsError l = false
  stage : l.stage = .atHome ∨ l.stage = .dramDone
  dram : s.needsDram h l.line l.route = false ∨ l.stage = .dramDone

theorem homeLoadBody_serves {h n : Nat} {rw' : Bool} (hfind : s.findLoad id = some l) (hs : s.Serves l h) (hform : l.form = .scalar n sx rw') :
    homeLoadBody id s = if l.ofL1 then (s.scrubHeld h l.line).serveRenewal l h else (s.scrubHeld h l.line).serveNow l h := by
  obtain ⟨hturn, hhome, ⟨hhost, hpeer⟩, hbound, hversion, hgate, hcopy, hread, hstage, hdram⟩ := hs
  have hhere : ((l.stage != .atHome && l.stage != .dramDone) || !s.lineTurn l) = false := by
    rcases hstage with h | h <;> simp [h, hturn]
  have hready : (l.stage = .atHome && (s.scrubHeld h l.line).needsDram h l.line l.route) = false := by
    rw [State.needsDram_scrubHeld hcopy]
    rcases hdram with h | h <;> simp [h]
  simp [homeLoadBody, hfind, hhere, hhome, hhost, hpeer, hbound, hversion, hgate, State.loadMeetsError_scrubHeld hcopy, hread, hready, hform]
end

end Sys2Proof.Machine
end

-- ==== Proofs: loads renewed ====
section
/-! SUPPORT. Answers on their way through the RDC and the L1, and the wake of an MWAIT (R191, R284, R286; O35). -/
set_option Elab.async false
namespace Sys2Proof.Machine

theorem serialGt_self (a : Time) : serialGt a a = false := by simp [serialGt, serialLe]

/-! Copies. -/
theorem findCopy_some {k : Nat} {cs : List Copy} {y : Copy} (h : findCopy k cs = some y) : y ∈ cs ∧ y.line = k :=
  ⟨List.mem_of_find?_eq_some h, by simpa using List.find?_some h⟩

/-- A copy is the newest of its line where no other of the line is newer. -/
theorem freshest_of {c : Copy} {cs : List Copy} (h : ∀ y ∈ cs, y.line = c.line → serialLe y.wts c.wts = true) : freshest c cs = true := by
  unfold freshest
  cases hfound : findCopy c.line cs with
  | none => rfl
  | some y => exact h y (findCopy_some hfound).1 (findCopy_some hfound).2

theorem mem_putCopy (sets ways : Nat) (c : Copy) (cs : List Copy) : c ∈ putCopy sets ways c cs := by simp [putCopy]

section
variable {s : State} {l : LoadReq} {c x : Copy} {p : LoadPart} {b : BlockExec} {tr : TargetRef} {sx : Bool} {id : Nat}

/-! The RDC. -/
/-- The RDC has nothing of a line to drop where its copy is good (R286). -/
theorem State.dropBadRdc_good {n k : Nat} (h : ∀ x, findCopy k (s.cluster n).rdc = some x → x.bad = false) : s.dropBadRdc n k = s := by
  simp only [State.dropBadRdc]
  split
  next x hx => rw [h x hx]; rfl
  next => rfl

/-- An answer on its way to the RDC is kept there. -/
theorem State.keepRdc_installs (hto : l.toRdc = true) (hstores : s.storing x.line (fun n => clusterOfTile n == l.via s) = false)
    (hnew : ∀ y ∈ (s.cluster (l.via s)).rdc, y.line = x.line → serialLe y.wts x.wts = true) :
    s.keepRdc l x = s.setCluster (l.via s) { s.cluster (l.via s) with rdc := putRdc x (s.cluster (l.via s)).rdc } := by
  simp [State.keepRdc, hto, hstores, freshest_of hnew]

/-- A request at the RDC that has its turn goes on. -/
theorem State.rdcTurn (hstage : l.stage = .toRdc) (hturn : s.lineTurn l = true) : (l.stage != .toRdc || !s.lineTurn l) = false := by
  simp [hstage, hturn]

/-- RDC_RENEWAL of a request whose bound the RDC's copy covers. -/
theorem rdcRenewalBody_hit (hfind : s.findLoad id = some l) (hstage : l.stage = .toRdc) (hturn : s.lineTurn l = true) (hanswer : l.answer = none)
    (hcopy : findCopy l.line (s.cluster (l.via s)).rdc = some x) (hgood : x.bad = false) (hlease : serialLe l.bound x.rts = true) :
    rdcRenewalBody id s = (s.setCluster (l.via s) { s.cluster (l.via s) with rdc := dropCopy x.line (s.cluster (l.via s)).rdc ++ [x] }).updLoad id
      (fun l => { l with answer := some x, stage := .toL1 }) := by
  have hdrops : s.dropBadRdc (l.via s) l.line = s :=
    State.dropBadRdc_good fun y hy => Option.some.inj (hcopy.symm.trans hy) ▸ hgood
  simp only [rdcRenewalBody, hfind, State.rdcTurn hstage hturn, Bool.false_eq_true, if_false, hdrops, hanswer, hcopy, Option.filter_some, hlease, if_true]

/-- RDC_RENEWAL of a request that no copy of the RDC serves. -/
theorem rdcRenewalBody_miss (hfind : s.findLoad id = some l) (hstage : l.stage = .toRdc) (hturn : s.lineTurn l = true) (hanswer : l.answer = none)
    (hcopies : ∀ x, findCopy l.line (s.cluster (l.via s)).rdc = some x → x.bad = false ∧ serialLe l.bound x.rts = false) :
    rdcRenewalBody id s = s.updLoad id (fun l => { l with stage := .atHome }) := by
  have hdrops : s.dropBadRdc (l.via s) l.line = s := State.dropBadRdc_good fun y hy => (hcopies y hy).1
  have hnone : (findCopy l.line (s.cluster (l.via s)).rdc).filter (fun x => serialLe l.bound x.rts) = none :=
    Option.filter_eq_none_iff.mpr fun y hy => by simp [(hcopies y hy).2]
  simp only [rdcRenewalBody, hfind, State.rdcTurn hstage hturn, Bool.false_eq_true, if_false, hdrops, hanswer, hnone]

/-- RDC_RENEWAL of a request on its way back. -/
theorem rdcRenewalBody_answer (hfind : s.findLoad id = some l) (hstage : l.stage = .toRdc) (hturn : s.lineTurn l = true) (hanswer : l.answer = some x)
    (hgood : ∀ y, findCopy l.line (s.cluster (l.via s)).rdc = some y → y.bad = false) :
    rdcRenewalBody id s = (s.updLoad id (fun l => { l with stage := .toL1 })).keepRdc l x := by
  simp only [rdcRenewalBody, hfind, State.rdcTurn hstage hturn, Bool.false_eq_true, if_false, State.dropBadRdc_good hgood, hanswer]

/-! The L1. -/
theorem LoadReq.overtaken_self (h : l.answer = some c) (k : Nat) : l.overtaken k c.wts = l := by
  simp [LoadReq.overtaken, h, serialGt_self]

/-- A load's answer does not overtake the load itself. -/
theorem State.dropOlderAt_answer (hloads : s.loads = [l]) (h : l.answer = some c) : (s.dropOlderAt (s.tileOf l.tid) c.line c.wts).loads = [l] := by
  simp [State.dropOlderAt, hloads, LoadReq.overtaken_self h, State.tileOf]

theorem State.dropOlderAt_l1 (s : State) (tile k : Nat) (w : Time) : ((s.dropOlderAt tile k w).tile tile).l1 = dropOlder k w (s.tile tile).l1 :=
  congrArg Tile.l1 (s.setTile_tile_same tile _)

theorem State.keepL1_frame (s : State) (l : LoadReq) (c : Copy) :
    (s.keepL1 l c).threads = s.threads ∧ (s.keepL1 l c).mem = s.mem ∧ (s.keepL1 l c).loads = s.loads := by
  simp only [State.keepL1]
  split <;> exact ⟨rfl, rfl, rfl⟩

theorem State.dropOlderAt_frame (s : State) (tile k : Nat) (w : Time) :
    (s.dropOlderAt tile k w).threads = s.threads ∧ (s.dropOlderAt tile k w).mem = s.mem := by
  simp [State.dropOlderAt]

theorem State.dropOlderAt_tileOf (s : State) (tile k : Nat) (w : Time) (tid : Nat) : (s.dropOlderAt tile k w).tileOf tid = s.tileOf tid :=
  congrArg (fun m => (mget Thread.absent m tid).tile) (s.dropOlderAt_frame tile k w).1

theorem State.dropOlderAt_storing (s : State) (tile k : Nat) (w : Time) (line : Nat) (f : Nat → Bool) :
    (s.dropOlderAt tile k w).storing line f = s.storing line f := by
  simp [State.storing, State.dropOlderAt]

/-- A load's answer is kept in the L1. -/
theorem State.keepL1_installs (hto : l.toL1 = true) (hstores : s.storing c.line (· == s.tileOf l.tid) = false)
    (hnew : ∀ y ∈ (s.tile (s.tileOf l.tid)).l1, y.line = c.line → serialLe y.wts c.wts = true) :
    c ∈ ((s.keepL1 l c).tile (s.tileOf l.tid)).l1 := by
  simp [State.keepL1, hto, hstores, freshest_of hnew, putL1, mem_putCopy]

/-- No request is merged with a load that is the only one. -/
theorem State.merged_toL1 (hloads : s.loads = [l]) (hstage : l.stage = .toL1) (tile k : Nat) : s.merged tile k = [] := by
  simp [State.merged, hloads, hstage]

/-- L1_RENEWAL of the only load on its way keeps the copy and delivers. -/
theorem l1RenewalBody_loads (hfind : s.findLoad id = some l) (hstage : l.stage = .toL1) (hanswer : l.answer = some c)
    (ha : s.awaits l p b tr) (hf : l.form.delivers p.size sx) (hto : l.toL1 = true) (hstores : s.storing c.line (· == s.tileOf l.tid) = false)
    (hnew : ∀ y ∈ (s.tile (s.tileOf l.tid)).l1, y.line = c.line → serialLe y.wts c.wts = true) :
    c ∈ ((l1RenewalBody id s).tile (s.tileOf l.tid)).l1 ∧ s.loaded (l1RenewalBody id s) l tr (p.valueIn c.data sx) := by
  obtain ⟨hthreads, hmem, hloads⟩ := (s.dropOlderAt (s.tileOf l.tid) c.line c.wts).keepL1_frame l c
  obtain ⟨hthreads', hmem'⟩ := s.dropOlderAt_frame (s.tileOf l.tid) c.line c.wts
  have hone := hloads.trans (State.dropOlderAt_answer ha.1 hanswer)
  have hbody : l1RenewalBody id s = ((s.dropOlderAt (s.tileOf l.tid) c.line c.wts).keepL1 l c).takeLine l c.data (some c.wts) := by
    simp only [l1RenewalBody, hfind, hstage, hanswer, hto, if_true, State.merged_toL1 hone hstage, List.foldl_nil]
  obtain ⟨hloaded, hl1⟩ := State.awaits_takeLine ha (hthreads.trans hthreads') (hmem.trans hmem') ⟨l, hone, rfl⟩ hf c.data (some c.wts)
  have hcopy := State.keepL1_installs (s := s.dropOlderAt (s.tileOf l.tid) c.line c.wts) (l := l) (c := c) hto
  simp only [State.dropOlderAt_tileOf, State.dropOlderAt_storing, State.dropOlderAt_l1] at hcopy
  rw [hbody, hl1]
  exact ⟨hcopy hstores fun y hy => hnew y (List.mem_of_mem_filter hy), hloaded⟩

/-! An armed MWAIT. -/
/-- Woken where nothing holds it back, an MWAIT delivers the newest bytes. -/
theorem State.wake_loads {h lim : Nat} (hnear : l.route ≠ .peer) (hhome : l.home = some h) (hgate : s.gate (some (s.party l.tid)) l.key false = none)
    (hread : s.loadMeetsError l = false) (hform : l.form = .wait p.size sx false lim) (ha : s.awaits l p b tr) :
    s.loaded (s.wake l) l tr (loadValue s.mem p.key p.size sx) := by
  have hwake : s.wake l = s.serveNow l h := by simp [State.wake, hnear, hhome, hgate, hread]
  rw [hwake]
  exact State.awaits_serveNow ha s.homesOnly_refl (.inr ⟨lim, hform⟩) h
end

end Sys2Proof.Machine
end

-- ==== Proofs: loads at their homes ====
section
/-! SUPPORT. What a load gets at its home and on its way back (R165, R177, R191, R281, R284, R286; O35). -/
set_option Elab.async false
namespace Sys2Proof.Machine

theorem LoadReq.ofL1_cached {l : LoadReq} (hroute : l.route = .cached) (hfresh : l.fresh = false) : l.ofL1 = true := by
  simp [LoadReq.ofL1, hroute, hfresh]

theorem LoadReq.ofL1_fresh {l : LoadReq} (h : l.fresh = true) : l.ofL1 = false := by simp [LoadReq.ofL1, h]

theorem State.lineTurn_fresh (s : State) {l : LoadReq} (h : l.fresh = true) : s.lineTurn l = true := by
  simp [State.lineTurn, LoadReq.ofL1_fresh h]

/-- Settles O35: each event's body, where nothing holds the load back, ends in its answer's way on or in its bytes' delivery to the block that waits. -/
theorem loadsAreServed : Obligations.LoadsAreServed := by
  refine ⟨?cached, ?fresh, ?l1, ?rdcHit, ?rdcMiss, ?rdcAnswer, ?wake, ?expiry⟩
  case cached =>
    intro s id l h n sx rw' hfind hturn hhome hbound hversion hgate hcopy hread hstage hdram hform hroute hfresh
    have hserves : s.Serves l h := ⟨hturn, hhome, by simp [hroute], hbound, hversion, hgate, hcopy, hread, hstage, hdram⟩
    have hbody := homeLoadBody_serves hfind hserves hform
    rw [if_pos (LoadReq.ofL1_cached hroute hfresh)] at hbody
    obtain ⟨q, c, hanswers⟩ := State.serveRenewal_answers (s.homesOnly_scrubHeld h l.line) hfind h
    exact ⟨_, q, c, congrArg Host.Outcome.next hbody, hanswers⟩
  case fresh =>
    intro s id l h p b tr sx hfind hhome hbound hversion hgate hcopy hread hstage hform hfresh hhost hpeer ha
    have hserves : s.Serves l h :=
      ⟨s.lineTurn_fresh hfresh, hhome, ⟨hhost, hpeer⟩, hbound, hversion, hgate, hcopy, hread, .inr hstage, .inr hstage⟩
    have hbody := homeLoadBody_serves hfind hserves hform
    rw [if_neg (by simp [LoadReq.ofL1_fresh hfresh])] at hbody
    exact ⟨_, congrArg Host.Outcome.next hbody, State.awaits_serveNow ha (s.homesOnly_scrubHeld h l.line) (.inl hform) h⟩
  case l1 =>
    intro s id l c p b tr sx hfind hstage hanswer hform ha hto hstores hnew
    exact ⟨_, rfl, l1RenewalBody_loads hfind hstage hanswer ha (.inl hform) hto hstores hnew⟩
  case rdcHit =>
    intro s id l x hfind hstage hturn hanswer hcopy hgood hlease
    exact ⟨_, _, congrArg Host.Outcome.next (rdcRenewalBody_hit hfind hstage hturn hanswer hcopy hgood hlease),
      State.findLoad_updLoad (fun _ => rfl) hfind, rfl, rfl, rfl, rfl⟩
  case rdcMiss =>
    intro s id l hfind hstage hturn hanswer hcopies
    exact ⟨_, _, congrArg Host.Outcome.next (rdcRenewalBody_miss hfind hstage hturn hanswer hcopies),
      State.findLoad_updLoad (fun _ => rfl) hfind, hanswer, rfl, rfl, rfl⟩
  case rdcAnswer =>
    intro s id l x hfind hstage hturn hanswer hto hstores hcopies
    have hbody := rdcRenewalBody_answer hfind hstage hturn hanswer fun y hy => (hcopies y (findCopy_some hy).1).1
    rw [State.keepRdc_installs (s := s.updLoad id _) hto hstores fun y hy => (hcopies y hy).2] at hbody
    refine ⟨_, _, congrArg Host.Outcome.next hbody, State.findLoad_updLoad (fun _ => rfl) hfind, hanswer, rfl, ?_, rfl, rfl⟩
    exact (congrArg Cluster.rdc (State.setCluster_cluster_same _ (l.via s) _)).symm ▸ mem_putCopy ..
  case wake =>
    intro s id l h p b tr sx lim hfind hnear hhome hgate hread hwoken hform ha
    have hbody : mwaitWakeBody id s = s.wake l := by simp [mwaitWakeBody, hfind, hwoken]
    exact ⟨_, congrArg Host.Outcome.next hbody, State.wake_loads hnear hhome hgate hread hform ha⟩
  case expiry =>
    intro s id l h p b tr sx lim hfind hnear hhome hgate hread hstage hform ha
    have hbody : mwaitExpiryBody id s = s.wake l := by simp [mwaitExpiryBody, hfind, hnear, hstage]
    exact ⟨_, congrArg Host.Outcome.next hbody, State.wake_loads hnear hhome hgate hread hform ha⟩

end Sys2Proof.Machine
end

-- ==== Proofs: witness instructions ====
section
/-! SUPPORT. The join of witnesses, and the witness instructions and BAR as they fire (R187 to R190, R192, R297, R299; O24, O25). -/
set_option Elab.async false
namespace Sys2Proof.Machine

/-! The join (R187). -/
section
variable {h : Time} {a b e : Word}

theorem wKind_satisfied : wKind satisfied = 2 := by decide

theorem contributesJoin_satisfied (h : Time) : contributesJoin h satisfied = none := by simp [contributesJoin, wKind_satisfied]

/-- A time that is neither expired nor implausible takes part in a join. -/
theorem contributesJoin_time (hk : wKind a = 0) (he : expired h a = false) (hi : implausible h a = false) : contributesJoin h a = some (wTime a) := by
  simp [contributesJoin, hk, he, hi]

theorem joinWitness_error_left (he : wKind e = 1) (hb : wKind b ≠ 1) : joinWitness h e b = e := by simp [joinWitness, he, hb]

theorem joinWitness_error_right (ha : wKind a ≠ 1) (he : wKind e = 1) : joinWitness h a e = e := by simp [joinWitness, ha, he]

section
variable {t u : Time} (ha : wKind a ≠ 1) (hb : wKind b ≠ 1)
include ha hb

theorem joinWitness_timeless_left (hA : contributesJoin h a = none) : joinWitness h a b = b := by simp [joinWitness, ha, hb, hA]

theorem joinWitness_timeless_right (hA : contributesJoin h a = some t) (hB : contributesJoin h b = none) : joinWitness h a b = a := by
  simp [joinWitness, ha, hb, hA, hB]

theorem joinWitness_times (hA : contributesJoin h a = some t) (hB : contributesJoin h b = some u) :
    joinWitness h a b = if serialLe t u then b else a := by
  simp [joinWitness, ha, hb, hA, hB]
end
end

/-- Settles O25: each case by what the two witnesses contribute to the join. -/
theorem joinIsTheLaterTime : Obligations.JoinIsTheLaterTime := by
  intro h a b ha hb hea hia heb hib
  have hA : contributesJoin h a = some (wTime a) := contributesJoin_time ha hea hia
  have hB : contributesJoin h b = some (wTime b) := contributesJoin_time hb heb hib
  have hS : contributesJoin h satisfied = none := contributesJoin_satisfied h
  have ha1 : wKind a ≠ 1 := by simp [ha]
  have hb1 : wKind b ≠ 1 := by simp [hb]
  have hs1 : wKind satisfied ≠ 1 := by simp [wKind_satisfied]
  exact ⟨joinWitness_times ha1 hb1 hA hB, joinWitness_timeless_left hs1 hb1 hS, joinWitness_timeless_right ha1 hs1 hA hS,
    fun e he => ⟨joinWitness_error_left he hb1, joinWitness_error_right ha1 he⟩⟩

/-! The instructions as they fire. -/
section
variable {x : Firing}

theorem wjoinBody_acts (ha : Acts x) (hA : wKind x.a.word ≠ 3) (hB : wKind x.b.word ≠ 3) :
    wjoinBody x = .give x.st (scalarOut (joinWitness (x.st.tile x.thread.tile).horizon x.a.word x.b.word)) := by
  rw [wjoinBody, x.whole_acts _ _ ha, if_neg hA, if_neg hB]
  rfl

theorem wfloorBody_acts (ha : Acts x) (hw : x.badWitness 0 x.a.word = none) :
    wfloorBody x = .give x.st { effs := match contributes (x.st.tile x.thread.tile).horizon x.a.word with | some t => [.wfloor t] | none => [] } := by
  rw [wfloorBody, x.whole_acts _ _ ha, hw]
  simp only [Firing.timeOf, Firing.tile]
  cases contributes (x.st.tile x.thread.tile).horizon x.a.word <;> rfl

/-- WTEST with the test its word names. -/
theorem wtestBody_acts {m : Nat} (hm : x.raw.w2.toNat % 4 = m) (ha : Acts x) (hA : wKind x.a.word ≠ 3) :
    wtestBody x = .give x.st (scalarOut (if wtestOf m (if m = 1 then x.thread.floor else (x.st.tile x.thread.tile).horizon)
      (x.st.tile x.thread.tile).horizon x.a.word then 1 else 0)) := by
  subst hm
  rw [wtestBody, x.whole_acts _ _ ha, if_neg hA]
  rfl

theorem wtestOf_zero (ref h : Time) (w : Word) : wtestOf 0 ref h w = decide (wKind w = 1) := by simp [wtestOf, beq_eq_decide]

/-- BAR arrives at the barrier its word names, with A or, under NA, the satisfied witness. -/
theorem barBody_acts (ha : Acts x) (hw : barNa x = true ∨ x.badWitness 0 x.a.word = none) :
    barBody x = .give x.st { main := some (.deferred x.slot 0), effs := [.bar (barId x) (barCount x) (if barNa x then satisfied else x.a.word)] } := by
  rw [barBody, x.whole_acts _ _ ha]
  cases hna : barNa x with
  | true => exact Firing.deferring_acts ha _
  | false =>
    have hw' : x.badWitness 0 x.a.word = none := hw.resolve_left (by simp [hna])
    rw [hw']
    exact Firing.deferring_acts ha _
end

/-! BAR's word (R192). -/
section
variable {x : Firing} {id : BitVec 4} {count : BitVec 6} {na : Bool}

theorem barWord_toNat (id : BitVec 4) (count : BitVec 6) (na : Bool) :
    (BitVec.ofNat 32 (id.toNat + 16 * count.toNat + 32768 * encBool na)).toNat = id.toNat + 16 * count.toNat + 32768 * encBool na := by
  have hid := id.isLt
  have hcount := count.isLt
  have hna : encBool na ≤ 1 := by cases na <;> decide
  rw [BitVec.toNat_ofNat, Nat.mod_eq_of_lt (by omega)]

variable (hw : x.raw.w2 = BitVec.ofNat 32 (id.toNat + 16 * count.toNat + 32768 * encBool na))
include hw

theorem barId_of_word : barId x = id.toNat := by
  have hid := id.isLt
  rw [barId, hw, barWord_toNat]
  omega

theorem barCount_of_word : barCount x = if count = 0 then 32 else count.toNat := by
  have hid := id.isLt
  have hcount := count.isLt
  have hfield : x.raw.w2.toNat / 16 % 64 = count.toNat := by rw [hw, barWord_toNat]; omega
  have hzero : count.toNat = 0 ↔ count = 0 := BitVec.toNat_inj (x := count) (y := 0)
  simp only [barCount, hfield, hzero]

theorem barNa_of_word : barNa x = na := by
  have hid := id.isLt
  have hcount := count.isLt
  have hfield : (id.toNat + 16 * count.toNat + 32768 * encBool na) / 2 ^ 15 = encBool na := by omega
  rw [barNa, hw, BitVec.getLsbD, barWord_toNat, Nat.testBit_eq_decide_div_mod_eq, hfield]
  cases na <;> rfl
end

/-- Settles O24: each body, once its witnesses pass, gives its result or its effect; the forms of an instruction have one body. -/
theorem witnessInstructions : Obligations.WitnessInstructions := by
  refine ⟨fun _ => completes_body fun x _ ⟨ha, hA, hB⟩ => wjoinBody_acts ha hA hB,
    fun _ _ => completes_body fun x _ ⟨ha, hA, hB⟩ => wjoinBody_acts ha hA hB,
    fun _ => completes_body fun x _ ⟨ha, hw⟩ => wfloorBody_acts ha hw,
    fun _ => completes_body fun x _ ⟨ha, hw⟩ => wfloorBody_acts ha hw,
    fun _ => completes_scalar fun _ => rfl, fun _ _ => completes_scalar fun _ => rfl,
    fun _ => completes_body fun x hr ⟨ha, hA⟩ => ?wtest, fun _ _ m => completes_body fun x hr ⟨ha, hA⟩ => ?wtestExt,
    fun _ => completes_body fun x hr ⟨ha, hw⟩ => ?bar, fun _ _ id count na => completes_body fun x hr ⟨ha, hw⟩ => ?barExt⟩
  case wtest =>
    rw [wtestBody_acts (m := 0) (by rw [hr]; rfl) ha hA]
    simp [wtestOf_zero]
  case wtestExt =>
    have hm : x.raw.w2.toNat % 4 = m.toNat := by
      have hlt := m.isLt
      have hw2 : x.raw.w2 = m.setWidth 32 := by rw [hr]; rfl
      rw [hw2, BitVec.toNat_setWidth]
      omega
    have hone : m.toNat = 1 ↔ m = 1 := BitVec.toNat_inj (x := m) (y := 1)
    rw [wtestBody_acts hm ha hA]
    simp only [hone]
  case bar =>
    have hword : x.raw.w2 = BitVec.ofNat 32 ((0 : BitVec 4).toNat + 16 * (0 : BitVec 6).toNat + 32768 * encBool false) := by rw [hr]; rfl
    rw [barBody_acts ha (.inr hw), barId_of_word hword, barCount_of_word hword, barNa_of_word hword]
    rfl
  case barExt =>
    have hword : x.raw.w2 = BitVec.ofNat 32 (id.toNat + 16 * count.toNat + 32768 * encBool na) := by rw [hr]; rfl
    rw [barBody_acts ha (by rwa [barNa_of_word hword]), barId_of_word hword, barCount_of_word hword, barNa_of_word hword]
    rfl

end Sys2Proof.Machine
end

-- ==== Proofs: accesses of stores and atomics ====
section
/-! SUPPORT. The checks that memory instructions share, passed and failed, and what stores, scatters, atomics and CLAIMEL leave to the commit
(R168, R169, R174, R175, R178, R182, R183, R185, R186, R194; O22, O23). -/
set_option Elab.async false
namespace Sys2Proof.Machine

section
variable {x : Firing} {s : State}

/-! The checks, passed. -/
/-- C under WI, where it passes, bounds what follows. -/
theorem Firing.underC_ok (h : x.wOk) (go : Option Time → Fired) : x.underC go = go x.wTime := by
  unfold Firing.underC Firing.wTime
  by_cases hwi : x.raw.mword.wi = true
  · simp only [hwi, if_true, h hwi]
  · simp only [hwi, if_false, Bool.false_eq_true]

theorem Firing.swept_ok {l : List Access} {oks : List (Nat × Loc)} (h : sweep l = ⟨oks, [], none⟩) (go : List (Nat × Loc) → Fired) :
    x.swept l go = go oks := by
  simp [Firing.swept, h]

theorem sweep_ok {a : Access} {e : Nat} {l : Loc} (h : a = .ok e l) : sweep [a] = ⟨[(e, l)], [], none⟩ := by
  rw [h]
  rfl

theorem sweep_bad {a : Access} {f : FaultRec} (h : a = .bad f) : sweep [a] = ⟨[], [], some f⟩ := by
  rw [h]
  rfl

/-- A vector instruction's checks either end it, whatever its body, or leave it to its body. -/
theorem Firing.vector_cases (reqs : List Req) (widths : List Nat) (n : Out) :
    (∃ f, ∀ go, x.vector reqs widths n go = f) ∨ ∀ go, x.vector reqs widths n go = go.onto (x.latent reqs) := by
  unfold Firing.vector Firing.vectorIf Firing.needLanes Firing.vlKnown
  dsimp only
  split
  · exact .inl ⟨_, fun _ => rfl⟩
  split
  swap
  · exact .inl ⟨_, fun _ => rfl⟩
  split
  · exact .inl ⟨_, fun _ => rfl⟩
  split
  · exact .inl ⟨_, fun _ => rfl⟩
  split
  · exact .inl ⟨_, fun _ => rfl⟩
  · exact .inr fun _ => rfl

/-- As `vector_go`, for every end of the body. -/
theorem Firing.vector_passes {reqs : List Req} {widths : List Nat} {n : Out} (hl : x.laned) (hg : x.given) (ht : x.typed = true)
    (hr : ∀ r ∈ reqs, r.passes x) (hw : ∀ w ∈ widths, x.vl ≤ capacity x.thread.vlmax w) (go : Fired) : x.vector reqs widths n go = go := by
  have hgo (s : State) (o : Out) : x.vector reqs widths n (.give s o) = .give s o := x.vector_go _ _ _ _ _ hl hg ht hr hw
  rcases x.vector_cases reqs widths n with ⟨f, hf⟩ | honto
  · have hout : Fired.give x.st {} = .give x.st { flags := 1 } := by rw [← hgo x.st {}, ← hgo x.st { flags := 1 }, hf, hf]
    simp at hout
  · have hlatent (s : State) : x.latent reqs s = s := by simpa [honto, Fired.onto] using hgo s {}
    rw [honto, Fired.onto_self hlatent]

/-! The fields of a memory word. -/
section
variable {o : Opcode} {b : BForm} {m : MWord} {k : Option Word} (hr : x.raw = ⟨o, .m b m k⟩)
include hr

theorem Firing.mword_of : x.raw.mword = m := by rw [hr]; rfl
theorem Firing.lsid_of : lsidNo x.raw = m.lsid.toNat := by rw [hr]; rfl
theorem Firing.szBytes_of : szBytes x = 2 ^ m.sz.toNat := by rw [szBytes, Firing.mword_of hr]
end

/-! Stores (R178, R182, R183). -/
theorem stBody_passes {l : Loc} (ha : Acts x) (hw : x.wOk) (hacc : x.access .write true (szBytes x) (szBytes x) 0 x.base = .ok 0 l) :
    stBody x = x.promise (.store (lsidNo x.raw) [⟨0, l.key, leBytes (szBytes x) x.b.word.toNat, l.route, l.compress⟩] x.wTime) := by
  rw [stBody, x.whole_acts _ _ ha, Firing.underC_ok hw]
  exact Firing.swept_ok (sweep_ok hacc) _

/-- What a scatter asks of a vector operand: the elements it stores or the indices it stores them at. -/
def Firing.storeReq (x : Firing) (idx : Nat) (tok : Token) (ok : Nat → Bool) (scaled : Bool) : Req :=
  { idx := idx, tok := tok, ok := ok, scaled := scaled, used := x.active }

theorem Firing.storeReq_passes {tok : Token} {ok : Nat → Bool} {scaled : Bool} (h : x.fine tok ok scaled) (idx : Nat) :
    (x.storeReq idx tok ok scaled).passes x :=
  Req.passes_fine (x.storeReq idx tok ok scaled) x ok scaled h rfl rfl (by simp [Firing.storeReq])

/-- What VST, VSTS and VSTX ask of their vector operands. -/
def vstReqs (x : Firing) : List Req :=
  x.storeReq 1 x.b isAny (x.raw.op = .vst) :: (if x.raw.op = .vstx then [x.storeReq 2 x.c isInt false] else [])

/-- Elements at one address are settled under VSTX without ORD alone. -/
theorem vstBody_passes {oks : List (Nat × Loc)} (ht : x.typed = true) (hl : x.laned) (hg : x.given) (hw : x.wOk)
    (hreqs : ∀ q ∈ vstReqs x, q.passes x) (hst : x.storesAt .write true oks) :
    vstBody x = if x.raw.op = .vstx && !x.raw.mword.ord then
        .give x.st.tick.2 { main := some (.deferred x.slot 0),
                            effs := [.store (lsidNo x.raw) (settle (fun k => Config.scatterWinner (x.st.tick.1 + k)) (oks.map x.storeEl)) x.wTime] }
      else x.promise (.store (lsidNo x.raw) (oks.map x.storeEl) x.wTime) := by
  obtain ⟨hsome, hsweep⟩ := hst
  refine (Firing.vector_passes (reqs := vstReqs x) (widths := []) hl hg ht hreqs (by simp) _).trans ?_
  rw [Firing.underC_ok hw, if_neg (by simpa using hsome), Firing.swept_ok hsweep]
  rfl

/-! VSADD (R185). -/
/-- The elements of one address go as one addend, their sum. -/
theorem vsaddBody_passes {oks : List (Nat × Loc)} (ht : x.typed = true) (hl : x.laned) (hg : x.given) (hb : x.fine x.b vsaddOk false)
    (hc : x.fine x.c isInt false) (hst : x.storesAt .rmw false oks) :
    vsaddBody x = .give x.st
      { main := some (.deferred x.slot 0),
        effs := [.adds (lsidNo x.raw) ((lastOf (fun (a : Nat × Loc) => a.2.key) oks).map fun a =>
          ⟨x.b.vec.code, 0, a.2.key, (x.addsAt oks a.2.key).1, a.2.route, a.2.compress⟩)],
        flags := (lastOf (fun (a : Nat × Loc) => a.2.key) oks).foldl (fun f a => f ||| (x.addsAt oks a.2.key).2) 0 } := by
  obtain ⟨hsome, hsweep⟩ := hst
  have hreqs : ∀ q ∈ [x.storeReq 1 x.b vsaddOk false, x.storeReq 2 x.c isInt false], q.passes x := by
    simpa using ⟨Firing.storeReq_passes hb 1, Firing.storeReq_passes hc 2⟩
  refine (Firing.vector_passes (widths := []) hl hg ht hreqs (by simp) _).trans ?_
  rw [if_neg (by simpa using hsome), Firing.swept_ok hsweep]
  simp only [List.map_map, List.foldl_map]
  rfl

/-! Atomics and CLAIMEL (R186, R194). -/
theorem Firing.atomic_passes {l : Loc} (ha : Acts x) (hw : x.wOk) (hacc : x.access .rmw false (szBytes x) (szBytes x) 0 x.base = .ok 0 l) (op : AtomicOp) :
    x.atomic op = x.promises (.atomic (lsidNo x.raw) op l.key (szBytes x) x.b.word x.c.word x.raw.mword.sx x.wTime l.route l.compress) := by
  rw [Firing.atomic, x.whole_acts _ _ ha, Firing.underC_ok hw]
  exact Firing.swept_ok (sweep_ok hacc) _

theorem claimelBody_passes {l : Loc} (ha : Acts x) (hacc : x.access .rmw false 16 16 0 x.base = .ok 0 l) :
    claimelBody x = x.promises (.claimel (lsidNo x.raw) l.key (8 * szBytes x) x.b.word l.route l.compress) := by
  rw [claimelBody, x.whole_acts _ _ ha]
  exact Firing.swept_ok (sweep_ok hacc) _

/-! The checks, failed (R169). -/
theorem Firing.access_fault {kind : AccKind} {p : Ptr} {n align cause info : Nat} (h : checkPtr x.st x.who kind false p n align = .fault cause info)
    (host : Bool) (e : Nat) : x.access kind host n align e (.inside p) = .bad (mkFault cause x.slot info p.encode.toNat e) := by
  simp [Firing.access, Firing.check, h]

theorem checkPtr_misaligned {p : Ptr} {align : Nat} (h : p.off % align ≠ 0) (w : Who) (kind : AccKind) (walkNow : Bool) (n : Nat) :
    checkPtr s w kind walkNow p n align = .fault cALIGN 0 := if_pos h

theorem checkPtr_global {a align : Nat} (h : a % align = 0) (w : Who) (kind : AccKind) (n : Nat) :
    checkPtr s w kind false ⟨.global, a⟩ n align = checkVa s w kind a := if_neg (by simpa using h)

/-- A page without R is not read, one without W not written. -/
theorem checkLeaf_unpermitted {w : Who} {pa : Nat} {e : Word} (hroute : (paRoute s (clusterOfTile w.tile) pa).isSome = true)
    (hu : w.supervisor = true ∨ bitsAt e 5 1 = 1) :
    (bitsAt e 2 1 = 0 → checkLeaf s w .read pa e = .fault cPERM 0) ∧ (bitsAt e 3 1 = 0 → checkLeaf s w .write pa e = .fault cPERM 1) := by
  obtain ⟨r, hroute⟩ := Option.isSome_iff_exists.1 hroute
  have hmode : ¬(!w.supervisor && !decide (bitsAt e 5 1 = 1)) = true := by rcases hu with h | h <;> simp [h]
  refine ⟨fun hr => ?_, fun hr => ?_⟩ <;> simp [checkLeaf, hroute, hmode, hr]

/-- A page that the tile's translations do not permit an access to. -/
theorem Firing.access_leaf {kind : AccKind} {a align cause info : Nat} {t : TlbEntry} (ha : a % align = 0)
    (hhit : x.st.tlbHit x.tile x.thread.asid a = some t) (hleaf : checkLeaf x.st x.who kind (t.pa' a) t.attrs = .fault cause info) (host : Bool) (n e : Nat) :
    x.access kind host n align e (.inside ⟨.global, a⟩) = .bad (mkFault cause x.slot info (Ptr.encode ⟨.global, a⟩).toNat e) := by
  refine Firing.access_fault ?_ host e
  rw [checkPtr_global ha, checkVa]
  simp only [Firing.who] at hleaf ⊢
  rw [hhit]
  exact hleaf

theorem stBody_bad {f : FaultRec} (ha : Acts x) (hw : x.wOk) (hacc : x.access .write true (szBytes x) (szBytes x) 0 x.base = .bad f)
    (hf : f.cause ≠ cUNCORR) : stBody x = .fault x.st f := by
  rw [stBody, x.whole_acts _ _ ha, Firing.underC_ok hw]
  simp [Firing.swept, sweep_bad hacc, hf]

/-- A fault's record at a word. -/
theorem mkFault_word (cause slot info : Nat) (a : Word) (elem : Nat) :
    mkFault cause slot info a.toNat elem = ⟨cause, slotW slot, a, elem, BitVec.ofNat 64 info⟩ := by
  simp [mkFault]
end

/-- The one lemma for the atomics: each has the body of its operation. -/
theorem completes_atomic {i : Instr} {o : Opcode} {b : BForm} {m : MWord} {k : Option Word} {l : Loc} (op : AtomicOp)
    (he : ∀ s : State, exec i s = .next (runSlot ⟨o, .m b m k⟩ (fun x => x.atomic op) s) := by intro; rfl) :
    Completes i ⟨o, .m b m k⟩ (fun x => Acts x ∧ x.wOk ∧ x.access .rmw false (2 ^ m.sz.toNat) (2 ^ m.sz.toNat) 0 x.base = .ok 0 l) (fun x =>
      { main := some (.deferred x.slot 0), alt := if m.rw then some (.deferred x.slot 1) else none,
        effs := [.atomic m.lsid.toNat op l.key (2 ^ m.sz.toNat) x.b.word x.c.word m.sx x.wTime l.route l.compress] }) := by
  refine completes_body (fun x hr ⟨ha, hw, hacc⟩ => ?_) he
  rw [← Firing.szBytes_of hr] at hacc
  rw [Firing.atomic_passes ha hw hacc, Firing.promises, Firing.mword_of hr, Firing.lsid_of hr, Firing.szBytes_of hr]

/-- Settles O23: each atomic is the one body with its operation, CLAIMEL its own; past the checks both promise. -/
theorem atomicsLeaveTheirOperation : Obligations.AtomicsLeaveTheirOperation := by
  refine ⟨fun _ _ _ _ => completes_atomic .add, fun _ _ _ _ => completes_atomic .swap, fun _ _ _ _ => completes_atomic .cas,
    fun _ _ _ _ => completes_atomic .min, fun _ _ _ _ => completes_atomic .max, fun _ _ _ _ => completes_atomic .and,
    fun _ _ _ _ => completes_atomic .or, fun _ _ _ _ => completes_atomic .xor,
    fun _ _ _ _ => completes_body fun x hr ⟨ha, hacc⟩ => ?_⟩
  rw [claimelBody_passes ha hacc, Firing.promises, Firing.mword_of hr, Firing.lsid_of hr, Firing.szBytes_of hr]

/-! Stores that complete, and that trap. -/
section
variable {b : BForm} {m : MWord} {k : Option Word} {s : State} {x : Firing}

theorem completes_vst {i : Instr} {o : Opcode} {ok : Firing → Prop} {oks : List (Nat × Loc)} (ho : o ≠ .vstx ∨ m.ord = true)
    (hok : ∀ x, x.raw = ⟨o, .m b m none⟩ → ok x → x.laned ∧ x.given ∧ x.wOk ∧ (∀ q ∈ vstReqs x, q.passes x) ∧ x.storesAt .write true oks)
    (he : ∀ s : State, exec i s = .next (runSlot ⟨o, .m b m none⟩ vstBody s) := by intro; rfl) :
    Completes i ⟨o, .m b m none⟩ ok (fun x =>
      { main := some (.deferred x.slot 0), effs := [.store m.lsid.toNat (oks.map x.storeEl) x.wTime] }) := by
  refine completes_typed (fun x hr ht hx => ?_) he
  obtain ⟨hl, hg, hw, hreqs, hst⟩ := hok x hr hx
  have hkeeps : ¬(x.raw.op = .vstx && !x.raw.mword.ord) = true := by
    rcases ho with h | h <;> simp [Firing.mword_of hr, h, congrArg Raw.op hr]
  rw [vstBody_passes ht hl hg hw hreqs hst, if_neg hkeeps, Firing.promise, Firing.lsid_of hr]

/-- A ST whose access fails takes the access's fault. -/
theorem exec_st_bad {f : FaultRec} (hx : s.firing ⟨.st, .m b m k⟩ = some x) (ha : Acts x) (ht : x.mayTrap) (hw : x.wOk)
    (hacc : x.access .write true (2 ^ m.sz.toNat) (2 ^ m.sz.toNat) 0 x.base = .bad f) (hf : f.cause ≠ cUNCORR) :
    ∃ t, exec (.st b m k) s = .next t ∧ s.trapsTo t x.tid f.cause x.block.addr f.slot f.addr (f.elem % 2 ^ 32) f.info := by
  rw [← Firing.szBytes_of (s.firing_raw _ x hx)] at hacc
  exact exec_trapsTo rfl hx ht.1 ht.2 (stBody_bad ha hw hacc hf)
end

/-- Settles O22: a store past its checks leaves its write; a ST whose access fails takes its fault, ALIGN and PERM among them. -/
theorem storesLeaveTheirWrite : Obligations.StoresLeaveTheirWrite := by
  refine ⟨fun b m k l => completes_body fun x hr ⟨ha, hw, hacc⟩ => ?st,
    fun b m oks => completes_vst (.inl (by decide)) fun x hr ⟨hl, hg, hw, hb, hst⟩ => ⟨hl, hg, hw, ?vst, hst⟩,
    fun b m oks => completes_vst (.inl (by decide)) fun x hr ⟨hl, hg, hw, hb, hst⟩ => ⟨hl, hg, hw, ?vsts, hst⟩,
    fun b m oks hord => completes_vst (.inr hord) fun x hr ⟨hl, hg, hw, hb, hc, hst⟩ => ⟨hl, hg, hw, ?vstx, hst⟩,
    fun b m oks hord => completesWith_give _ _ vstBody _ _ _ (fun _ => rfl) fun s x hx ⟨hl, hg, hw, hb, hc, hst⟩ => ⟨?free, ?thread, .inl rfl⟩,
    fun b m oks => completes_typed fun x hr ht ⟨hl, hg, hb, hc, hst⟩ => ?vsadd,
    fun b m k s x p hx ha ht hw hbase halign => ?align, fun b m k s x a e hx ha ht hw hbase halign hhit hroute hmode hbit => ?perm,
    fun b m k s x f hx ha ht hw hacc hf => exec_st_bad hx ha ht hw hacc hf⟩
  case st =>
    rw [← Firing.szBytes_of hr] at hacc ⊢
    rw [stBody_passes ha hw hacc, Firing.promise, Firing.lsid_of hr]
  case vst =>
    have hop : x.raw.op = .vst := congrArg Raw.op hr
    simpa [vstReqs, hop] using Firing.storeReq_passes hb 1
  case vsts =>
    have hop : x.raw.op = .vsts := congrArg Raw.op hr
    simpa [vstReqs, hop] using Firing.storeReq_passes hb 1
  case vstx =>
    have hop : x.raw.op = .vstx := congrArg Raw.op hr
    simpa [vstReqs, hop] using ⟨Firing.storeReq_passes hb 1, Firing.storeReq_passes hc 2⟩
  case free =>
    have hr := s.firing_raw _ x hx
    have hop : x.raw.op = .vstx := congrArg Raw.op hr
    have hreqs : ∀ q ∈ vstReqs x, q.passes x := by
      simpa [vstReqs, hop] using ⟨Firing.storeReq_passes hb 1, Firing.storeReq_passes hc 2⟩
    rw [vstBody_passes (State.firing_typed hx) hl hg hw hreqs hst, if_pos (by simp [hop, Firing.mword_of hr, hord]), Firing.lsid_of hr]
  case thread =>
    rw [s.firing_st _ x hx]
    rfl
  case vsadd => rw [vsaddBody_passes ht hl hg hb hc hst, Firing.lsid_of hr]
  case align =>
    have hacc := Firing.access_fault (checkPtr_misaligned (s := x.st) halign x.who .write false (2 ^ m.sz.toNat)) true 0
    rw [← hbase, mkFault_word] at hacc
    exact exec_st_bad hx ha ht hw hacc (show cALIGN ≠ cUNCORR by decide)
  case perm =>
    obtain rfl := s.firing_st _ x hx
    have hacc := Firing.access_leaf halign hhit ((checkLeaf_unpermitted (w := x.who) hroute hmode).2 hbit) true (2 ^ m.sz.toNat) 0
    rw [← hbase, mkFault_word] at hacc
    exact exec_st_bad hx ha ht hw hacc (show cPERM ≠ cUNCORR by decide)

end Sys2Proof.Machine
end

-- ==== Proofs: loads as they fire ====
section
/-! SUPPORT. Loads, MWAIT and PREF as they fire: the requests they send, and where a load traps (R169 to R181, R191, R195, R431; O21). -/
set_option Elab.async false
namespace Sys2Proof.Machine

/-! What sending a load's requests leaves (R173, R283). -/
/-- Threads and focus stand. -/
def State.sameThreads (s t : State) : Prop := t.threads = s.threads ∧ t.focus = s.focus

section
variable {s t u : State} {x : Firing}

theorem State.sameThreads_trans (h : s.sameThreads t) (k : t.sameThreads u) : s.sameThreads u := ⟨k.1.trans h.1, k.2.trans h.2⟩

theorem State.sameThreads_usePage (s : State) (tile : Nat) (asid : BitVec 12) (va : Nat) : s.sameThreads (s.usePage tile asid va) := by
  unfold State.usePage
  dsimp only
  split
  · exact ⟨rfl, rfl⟩
  · split <;> exact ⟨rfl, rfl⟩

theorem State.sameThreads_dropBadL1 (s : State) (tile line : Nat) : s.sameThreads (s.dropBadL1 tile line) := by
  unfold State.dropBadL1
  dsimp only
  split
  · split <;> exact ⟨rfl, rfl⟩
  · exact ⟨rfl, rfl⟩

/-- The translation that a part of a load has used, and the copy in L1 that it takes, each in a step of its own (R283, R287, R381). -/
def Firing.usesPage (x : Firing) (s : State) (p : LoadPart) : State :=
  match (decodePtr p.va).bind Ptr.va with | some va => s.usePage x.tile x.thread.asid va | none => s
def Firing.dropsBad (x : Firing) (s : State) (p : LoadPart) : State := if p.route = .cached then s.dropBadL1 x.tile (lineOf p.key) else s
def Firing.refreshes (x : Firing) (s : State) (p : LoadPart) : State :=
  match (p.got.bind (·.2)), findCopy (lineOf p.key) (s.tile x.tile).l1 with
  | some _, some c => s.setTile x.tile { s.tile x.tile with l1 := dropCopy c.line (s.tile x.tile).l1 ++ [c] }
  | _, _ => s

theorem Firing.uses_eq (x : Firing) (parts : List LoadPart) :
    x.uses parts = parts.foldl (fun s p => x.refreshes (x.dropsBad (x.usesPage s p) p) p) x.st := rfl

theorem Firing.sameThreads_usesPage (x : Firing) (s : State) (p : LoadPart) : s.sameThreads (x.usesPage s p) := by
  unfold Firing.usesPage
  split
  · exact s.sameThreads_usePage _ _ _
  · exact ⟨rfl, rfl⟩

theorem Firing.sameThreads_dropsBad (x : Firing) (s : State) (p : LoadPart) : s.sameThreads (x.dropsBad s p) := by
  unfold Firing.dropsBad
  split
  · exact s.sameThreads_dropBadL1 _ _
  · exact ⟨rfl, rfl⟩

theorem Firing.sameThreads_refreshes (x : Firing) (s : State) (p : LoadPart) : s.sameThreads (x.refreshes s p) := by
  unfold Firing.refreshes
  split <;> exact ⟨rfl, rfl⟩

theorem Firing.sameThreads_uses (x : Firing) (parts : List LoadPart) : x.st.sameThreads (x.uses parts) := by
  rw [Firing.uses_eq]
  exact List.foldlRecOn parts _ ⟨rfl, rfl⟩ fun s hs p _ => State.sameThreads_trans hs (State.sameThreads_trans (x.sameThreads_usesPage s p)
    (State.sameThreads_trans (x.sameThreads_dropsBad _ p) (x.sameThreads_refreshes _ p)))

/-- The request for the parts of one line. -/
def Firing.queueLoad (x : Firing) (form : LoadForm) (b : Time) (fresh : Bool) (s : State) (ps : List LoadPart) : State :=
  let r := s.tick
  let key := match ps with | p :: _ => p.key | [] => 0
  let c := clusterOfTile x.tile
  { r.2 with loads := r.2.loads ++ [{ id := r.1, tid := x.tid, serial := x.serial, slot := x.slot, form := form, parts := ps, bound := b, fresh := fresh,
                                      stage := x.firstStage fresh ps, answer := none, armedAt := none, home := homeOf s key,
                                      toL1 := !s.storing (lineOf key) (· == x.tile),
                                      toRdc := !s.storing (lineOf key) (fun t => clusterOfTile t == c) }] }

theorem Firing.queueLoads_eq (x : Firing) (form : LoadForm) (b : Time) (fresh : Bool) (parts : List LoadPart) :
    x.queueLoads form b fresh parts = (groupParts parts).foldl (x.queueLoad form b fresh) (x.uses parts) := rfl

theorem Firing.sameThreads_queueLoads (x : Firing) (form : LoadForm) (b : Time) (fresh : Bool) (parts : List LoadPart) :
    x.st.sameThreads (x.queueLoads form b fresh parts) := by
  rw [Firing.queueLoads_eq]
  exact List.foldlRecOn _ _ (x.sameThreads_uses parts) fun s hs ps _ => State.sameThreads_trans hs ⟨rfl, rfl⟩

/-- The first part of a load is in the first of its requests. -/
theorem groupParts_cons (p : LoadPart) (r : List LoadPart) : ∃ q g, groupParts (p :: r) = (p :: q) :: g := by
  unfold groupParts
  dsimp only
  split
  · exact ⟨_, _, rfl⟩
  · exact ⟨_, _, rfl⟩

/-- A request of the firing's slot with this part is on its way. -/
def Firing.asked (x : Firing) (p : LoadPart) (s : State) : Prop := ∃ l ∈ s.loads, l.of x.tid x.serial x.slot = true ∧ p ∈ l.parts

theorem Firing.asked_queueLoads (x : Firing) (form : LoadForm) (b : Time) (fresh : Bool) (p : LoadPart) (r : List LoadPart) :
    x.asked p (x.queueLoads form b fresh (p :: r)) := by
  obtain ⟨q, g, hg⟩ := groupParts_cons p r
  have hfirst : x.asked p (x.queueLoad form b fresh (x.uses (p :: r)) (p :: q)) :=
    ⟨_, List.mem_append_right _ (List.mem_singleton_self _), by simp [LoadReq.of], List.mem_cons_self ..⟩
  rw [Firing.queueLoads_eq, hg, List.foldl_cons]
  exact List.foldlRecOn (motive := x.asked p) g _ hfirst fun s ⟨l, hl, hof⟩ _ _ => ⟨l, List.mem_append_left _ hl, hof⟩

/-! Delivery at once (R26). -/
theorem Firing.settleLoad_asked {p : LoadPart} (h : x.asked p s) (hgot : p.got = none) : s.settleLoad x.tid x.serial x.slot = s := by
  obtain ⟨l, hl, hof, hp⟩ := h
  have hopen : ((s.loads.filter (fun l => l.of x.tid x.serial x.slot)).flatMap (·.parts)).all (fun p => p.got.isSome) = false := by
    rw [List.all_eq_false]
    exact ⟨p, List.mem_flatMap.2 ⟨l, List.mem_filter.2 ⟨hl, hof⟩, hp⟩, by simp [hgot]⟩
  simp [State.settleLoad, hopen]

theorem State.settleLoad_idle {tid serial slot : Nat} (h : (s.thread tid).flight = []) :
    ∃ l, s.settleLoad tid serial slot = { s with loads := l } := by
  unfold State.settleLoad
  dsimp only
  rw [Thread.block_of_flight_nil h]
  split
  · exact ⟨s.loads, rfl⟩
  · split
    next hb => cases hb
    next => exact ⟨_, rfl⟩

/-- A load none of whose parts has come waits. -/
theorem runLoad_later {r : Raw} {body : Firing → Fired} {form : LoadForm} {b : Time} {fresh : Bool} {parts : List LoadPart} (hx : s.firing r = some x)
    (hb : body x = .later (x.queueLoads form b fresh parts)) (hsome : parts ≠ []) (hgot : ∀ p ∈ parts, p.got = none) :
    runLoad r body s = x.waits (x.queueLoads form b fresh parts) := by
  obtain ⟨hfocus, hst, -⟩ := s.firing_some r x hx
  obtain ⟨p, q, rfl⟩ := List.exists_cons_of_ne_nil hsome
  have hrun : runSlot r body s = x.waits (x.queueLoads form b fresh (p :: q)) := by
    rw [runSlot_of_firing r body s x hx, hb]
    rfl
  have hfocus' : (x.waits (x.queueLoads form b fresh (p :: q))).focus = .slot x.tid x.serial x.slot := by
    rw [← hfocus, ← hst]
    exact (x.sameThreads_queueLoads form b fresh (p :: q)).2
  have hsettle := Firing.settleLoad_asked (s := x.waits (x.queueLoads form b fresh (p :: q))) (x.asked_queueLoads form b fresh p q)
    (hgot p (List.mem_cons_self ..))
  simp only [runLoad, hrun, hfocus', hsettle, ite_self]

/-! The parts a load asks for (R170, R171, R173). -/
section
variable {fresh forwards : Bool} {n : Nat} {oks : List (Nat × Loc)}

/-- The bytes that stores of the thread forward to a load. -/
def Firing.loadCells (x : Firing) (fresh forwards : Bool) : List Host.Cell :=
  if forwards then x.block.storesBelow (lsidNo x.raw) x.st.mem (if fresh then [] else x.olderCells) else []

theorem Firing.ordered_unheld (h : x.unheld fresh forwards n oks) (go : List Host.Cell → Fired) :
    x.ordered fresh forwards n oks go = go (x.loadCells fresh forwards) := by
  obtain ⟨hold, hheld, hown, holder, -⟩ := h
  have hnear : (oks.any (fun a => a.2.route = .nocache || a.2.route = .host) && !x.oldest) = false := by
    cases ho : x.oldest with
    | true => simp
    | false => simpa using fun i l hl => not_or.1 fun hr => by simpa [ho] using hold (i, l) hl hr
  have hlower : (if forwards then x.heldBy (oks.map (fun a => (a.2.key, n))) x.lower else .no) = .no := by
    cases forwards with
    | true => exact hheld rfl
    | false => rfl
  simp only [Firing.ordered, hnear, hlower, hown, holder, Bool.or_self, Bool.false_eq_true, if_false]
  rfl

theorem forwarded_nil (key n : Nat) : forwarded [] key n = [] := by simp [forwarded, lastCell]

/-- Such a load takes no byte from a store or the L1. -/
theorem Firing.part_unheld (h : x.unheld fresh forwards n oks) {a : Nat × Loc} (ha : a ∈ oks) :
    x.part x.ldBound fresh (x.loadCells fresh forwards) n a = { x.partAt n a.2 with elem := a.1 } := by
  obtain ⟨-, -, -, -, hparts⟩ := h
  obtain ⟨hn, hmiss, hfwd⟩ := hparts a ha
  have hnone : forwarded (x.loadCells fresh forwards) a.2.key n = [] := by
    cases forwards with
    | true => exact hfwd rfl
    | false => exact forwarded_nil _ _
  have hopen : ((0 : Nat) == n) = false := by simpa using hn.ne
  simp [Firing.part, Firing.partAt, LoadPart.full, hnone, hopen, hmiss]

/-- The parts that a load sends. -/
def Firing.partsOf (x : Firing) (n : Nat) (oks : List (Nat × Loc)) : List LoadPart := oks.map fun a => { x.partAt n a.2 with elem := a.1 }

theorem Firing.parts_unheld (h : x.unheld fresh forwards n oks) :
    oks.map (x.part x.ldBound fresh (x.loadCells fresh forwards) n) = x.partsOf n oks :=
  List.map_congr_left fun _ ha => Firing.part_unheld h ha

/-! The checks of a load (R169). -/
section
variable {ff : Bool} {form : Option Nat → LoadForm} {accs : List Access} {f : FaultRec}

theorem Firing.load_sends (hsweep : sweep accs = ⟨oks, [], none⟩) (hsome : oks ≠ []) (h : x.unheld fresh forwards n oks)
    (hread : x.unreadable (x.partsOf n oks) = none) :
    x.load ff form x.ldBound fresh forwards n accs =
      .later (x.queueLoads (form (if ff then some x.vl else none)) x.ldBound fresh (x.partsOf n oks)) := by
  simp [Firing.load, hsweep, Firing.ordered_unheld h, Firing.parts_unheld h, hread, Firing.send, hsome]

theorem Firing.load_bad (hsweep : sweep accs = ⟨[], [], some f⟩) (b : Time) : x.load ff form b fresh forwards n accs = .fault x.st f := by
  simp [Firing.load, hsweep]

theorem Firing.load_unreadable (hsweep : sweep accs = ⟨oks, [], none⟩) (h : x.unheld fresh forwards n oks)
    (hread : x.unreadable (x.partsOf n oks) = some f) :
    x.load false form x.ldBound fresh forwards n accs = .fault (if f.cause = cUNCORR then x.st.poisonAt x.who f.addr else x.st) f := by
  simp [Firing.load, hsweep, Firing.ordered_unheld h, Firing.parts_unheld h, hread, Firing.failsAt]
end
end

/-! The bodies. -/
theorem ldBody_checked (ha : Acts x) (hw : x.wOk) :
    ldBody x = x.load false (fun _ => .scalar (szBytes x) x.raw.mword.sx x.raw.mword.rw) x.ldBound x.raw.mword.fr true (szBytes x)
      [x.access .read true (szBytes x) (szBytes x) 0 x.base] := by
  rw [ldBody, x.whole_acts _ _ ha, Firing.underC_ok hw]
  rfl

theorem mwaitBody_checked (ha : Acts x) (hw : x.wOk) :
    mwaitBody x = x.load false (fun _ => .wait (szBytes x) x.raw.mword.sx x.raw.mword.rw (Nat.min x.b.word.toNat (2 ^ 32 - 1))) x.ldBound true false
      (szBytes x) [x.access .read false (szBytes x) (szBytes x) 0 x.base] := by
  rw [mwaitBody, x.whole_acts _ _ ha, Firing.underC_ok hw]
  rfl

/-- PREF of a line that the L1 lacks asks for its first byte (R195). -/
theorem prefBody_asks {p : Ptr} {l : Loc} (ha : Acts x) (hbase : x.base = .inside p) (h : x.prefAt p l) :
    prefBody x = .give (x.queueLoads (.scalar 1 false false) x.thread.floor false [⟨0, l.key, 1, p.encode, [], .cached, l.compress, none⟩]) {} := by
  obtain ⟨hcheck, hroute, hread, hmiss, hroom, hown⟩ := h
  have hroom' : ¬64 ≤ (x.st.loads.filter (fun r => x.st.tileOf r.tid == x.tile)).length := Nat.not_le.2 hroom
  rw [prefBody, x.whole_acts _ _ ha]
  simp [hbase, hcheck, hroute, hread, hmiss, hroom', hown]

/-- A vector load whose operands and elements pass sends the parts of its elements. -/
theorem Firing.vectorLoad_sends {reqs : List Req} {addrs : List (Nat × EAddr)} {oks : List (Nat × Loc)} {tag : BitVec 16} (ht : x.typed = true)
    (hl : x.laned) (hg : x.given) (hreqs : ∀ q ∈ reqs, q.passes x) (htag : (x.raw.lit.getD 0).setWidth 16 = tag)
    (hroom : x.vl ≤ capacity x.thread.vlmax (tagWidth tag)) (hw : x.wOk) (h : x.sweepsAt addrs (tagWidth tag / 8) x.raw.mword.fr oks) (ff : Bool) :
    x.vector reqs [x.loadWidth] x.nulls (x.vload ff addrs) =
      .later (x.queueLoads (if ff then .vector tag x.vl false (some x.vl) else .vector tag x.vl x.raw.mword.rw none) x.ldBound x.raw.mword.fr
        (x.partsOf (tagWidth tag / 8) oks)) := by
  obtain ⟨hsome, hsweep, hread, hfree⟩ := h
  rw [Firing.vector_passes hl hg ht hreqs (fun w hw' => by rw [List.mem_singleton.1 hw', Firing.loadWidth, htag]; exact hroom), Firing.vload, Firing.underC_ok hw]
  simp only [htag]
  refine (Firing.load_sends hsweep hsome hfree hread).trans ?_
  cases ff <;> rfl
end

/-! A load that faults. -/
section
variable {s t u : State} {x : Firing} {r : Raw} {body : Firing → Fired} {f : FaultRec}

theorem State.takeTrap_frame (s : State) (tid : Nat) (f : FaultRec) (block faulting : Word) :
    (s.takeTrap tid f block faulting).focus = s.focus ∧ (s.takeTrap tid f block faulting).err = s.err := by
  unfold State.takeTrap
  dsimp only
  split <;> exact ⟨rfl, rfl⟩

/-- Where a load in the oldest block faults, its thread takes the trap, and nothing of the load is delivered. -/
theorem runLoad_faults (hx : s.firing r = some x) (ht : x.mayTrap) (hb : body x = .fault u f) (hu : s.sameThreads u) (hm : u.mem = s.mem) :
    s.trapsTo (runLoad r body s) x.tid f.cause x.block.addr f.slot f.addr (f.elem % 2 ^ 32) f.info ∧ (runLoad r body s).err = u.err := by
  obtain ⟨hfocus, -, hthread, -⟩ := s.firing_some r x hx
  obtain ⟨fl, hfl, hserial⟩ := s.firing_oldest r x hx ht.1
  obtain ⟨hthreads, hfocus'⟩ := hu
  have hsame (n : Nat) : u.thread n = s.thread n := congrArg (mget Thread.absent · n) hthreads
  have hrun : runSlot r body s = u.takeTrap x.tid f x.block.addr x.block.addr := by
    rw [runSlot_of_firing r body s x hx, hb, Fired.run, ← hserial]
    exact State.raise_head (by rw [hsame, hfl]) f
  obtain ⟨htfocus, hterr⟩ := u.takeTrap_frame x.tid f x.block.addr x.block.addr
  have htrap := u.takeTrap_trapsTo x.tid f x.block.addr x.block.addr (by rw [hsame, ← hthread]; exact ht.2)
  obtain ⟨l, hsettle⟩ := State.settleLoad_idle (serial := x.serial) (slot := x.slot) htrap.1
  simp only [State.trapsTo, hsame, hm] at htrap
  rw [hfocus', hfocus] at htfocus
  simp only [runLoad, hrun, htfocus, hsettle]
  split <;> exact ⟨htrap, hterr⟩

theorem exec_load_faults {i : Instr} (he : exec i s = .next (runLoad r body s)) (hx : s.firing r = some x)
    (ht : x.mayTrap) (hb : body x = .fault s f) : ∃ t, exec i s = .next t ∧
      s.trapsTo t x.tid f.cause x.block.addr f.slot f.addr (f.elem % 2 ^ 32) f.info :=
  ⟨_, he, (runLoad_faults hx ht hb ⟨rfl, rfl⟩ rfl).1⟩

/-! A line that a load cannot read (R431). -/
theorem State.logLine_frame (s : State) (cls line : Nat) : s.sameThreads (s.logLine cls line) ∧ (s.logLine cls line).mem = s.mem ∧
    ∀ k, (s.logLine cls line).errOf k = s.errOf k := by
  unfold State.logLine
  split <;> exact ⟨⟨rfl, rfl⟩, rfl, fun _ => rfl⟩
end


/-! The parts that a load asks for have not come. -/
section
variable {s : State} {x : Firing} {n : Nat} {oks : List (Nat × Loc)} {l : Loc} {c : Nat}

theorem Firing.partsOf_got : ∀ p ∈ x.partsOf n oks, p.got = none := by
  intro p hp
  obtain ⟨a, -, rfl⟩ := List.mem_map.1 hp
  rfl

theorem Firing.partsOf_one : x.partsOf n [(0, l)] = [x.partAt n l] := rfl

theorem Firing.partsOf_ne_nil (h : oks ≠ []) : x.partsOf n oks ≠ [] := by simpa [Firing.partsOf] using h

/-- A scalar load at a line of the device's memory that cannot be read. -/
theorem Firing.unreadable_scalar (hhost : l.route ≠ .host) (hpeer : l.route ≠ .peer) (hbad : readError x.st l.key n = some c) :
    x.unreadable (x.partsOf n [(0, l)]) = some ⟨c, slotW x.slot, l.va, 0, 0⟩ := by
  simp [Firing.unreadable, Firing.partsOf, Firing.partAt, hhost, hpeer, hbad, mkFault_word]

/-- The line that a load has met uncorrectable is poisoned at its home (R431). -/
theorem State.poisonLine_marks {k : Nat} (herr : s.errOf k = .uncorrectable) (hplace : (s.place (k * 128)).isSome = true) :
    s.sameThreads (s.poisonLine k) ∧ (s.poisonLine k).mem = s.mem ∧ (s.poisonLine k).errOf k = .poisoned := by
  rw [State.poisonLine, if_pos (by simp [herr, hplace])]
  obtain ⟨hthreads, hmem, herrs⟩ := State.logLine_frame (s.setErr k .poisoned) 2 k
  obtain ⟨hthreads', hmem', herrs'⟩ := State.logLine_frame ((s.setErr k .poisoned).logLine 2 k) 3 k
  exact ⟨State.sameThreads_trans ⟨rfl, rfl⟩ (State.sameThreads_trans hthreads hthreads'), hmem'.trans hmem,
    by rw [herrs', herrs, State.setErr_errOf_same]⟩

theorem State.poisonAt_eq {w : Who} {a : Word} {p : Ptr} {l : Loc} (hp : decodePtr a = some p) (hl : checkPtr s w .read true p 1 1 = .ok l) :
    s.poisonAt w a = s.poisonLine (lineOf l.key) := by
  simp only [State.poisonAt, hp, hl]
end

/-! Each load's requests. -/
section
variable {s : State} {x : Firing} {b : BForm} {m : MWord} {k : Option Word}

theorem Firing.litTag_of {o : Opcode} {tag : BitVec 16} (hr : x.raw = ⟨o, .m b m (some (tag.setWidth 64))⟩) :
    (x.raw.lit.getD 0).setWidth 16 = tag := by
  rw [hr]
  simp [Raw.lit]

theorem Firing.loadWidth_of {o : Opcode} {tag : BitVec 16} (hr : x.raw = ⟨o, .m b m (some (tag.setWidth 64))⟩) : x.loadWidth = tagWidth tag := by
  rw [Firing.loadWidth, Firing.litTag_of hr]

/-- The one lemma for the vector loads: what differs is where the elements lie. -/
theorem exec_vectorLoad {i : Instr} {o : Opcode} {tag : BitVec 16} {body : Firing → Fired} {reqs : List Req} {addrs : List (Nat × EAddr)}
    {oks : List (Nat × Loc)} {ff : Bool} (he : exec i s = .next (runLoad ⟨o, .m b m (some (tag.setWidth 64))⟩ body s))
    (hx : s.firing ⟨o, .m b m (some (tag.setWidth 64))⟩ = some x) (hbody : body x = x.vector reqs [x.loadWidth] x.nulls (x.vload ff addrs))
    (hl : x.laned) (hg : x.given) (hreqs : ∀ q ∈ reqs, q.passes x) (hroom : x.vl ≤ capacity x.thread.vlmax (tagWidth tag)) (hw : x.wOk)
    (h : x.sweepsAt addrs (tagWidth tag / 8) m.fr oks) :
    exec i s = .next (x.waits (x.queueLoads (if ff then .vector tag x.vl false (some x.vl) else .vector tag x.vl m.rw none) x.ldBound m.fr
      (x.partsOf (tagWidth tag / 8) oks))) := by
  have hr := s.firing_raw _ x hx
  rw [← Firing.mword_of hr] at h ⊢
  rw [he, runLoad_later hx (hbody.trans (Firing.vectorLoad_sends (State.firing_typed hx) hl hg hreqs (Firing.litTag_of hr) hroom hw h ff))
    (Firing.partsOf_ne_nil h.1) Firing.partsOf_got]

theorem exec_ld {l : Loc} (hx : s.firing ⟨.ld, .m b m none⟩ = some x) (ha : Acts x) (hw : x.wOk) (h : x.readsAt true m.fr true (2 ^ m.sz.toNat) l) :
    exec (.ld b m) s = .next (x.waits (x.queueLoads (.scalar (2 ^ m.sz.toNat) m.sx m.rw) x.ldBound m.fr [x.partAt (2 ^ m.sz.toNat) l])) := by
  obtain ⟨hacc, hread, hfree⟩ := h
  have hr := s.firing_raw _ x hx
  have hbody := ldBody_checked ha hw
  rw [Firing.szBytes_of hr, Firing.mword_of hr, Firing.load_sends (sweep_ok hacc) (List.cons_ne_nil _ _) hfree hread, Firing.partsOf_one] at hbody
  exact congrArg Host.Outcome.next (runLoad_later hx hbody (List.cons_ne_nil _ _) (by simp [Firing.partAt]))

theorem exec_mwait {l : Loc} (hx : s.firing ⟨.mwait, .m b m k⟩ = some x) (ha : Acts x) (hw : x.wOk)
    (h : x.readsAt false true false (2 ^ m.sz.toNat) l) :
    exec (.mwait b m k) s = .next (x.waits (x.queueLoads (.wait (2 ^ m.sz.toNat) m.sx m.rw (Nat.min x.b.word.toNat (2 ^ 32 - 1))) x.ldBound true
      [x.partAt (2 ^ m.sz.toNat) l])) := by
  obtain ⟨hacc, hread, hfree⟩ := h
  have hr := s.firing_raw _ x hx
  have hbody := mwaitBody_checked ha hw
  rw [Firing.szBytes_of hr, Firing.mword_of hr, Firing.load_sends (sweep_ok hacc) (List.cons_ne_nil _ _) hfree hread, Firing.partsOf_one] at hbody
  exact congrArg Host.Outcome.next (runLoad_later hx hbody (List.cons_ne_nil _ _) (by simp [Firing.partAt]))
end

/-! Each load's traps. -/
section
variable {s : State} {x : Firing} {b : BForm} {m : MWord} {f : FaultRec}

theorem Firing.underC_bad (hwi : x.raw.mword.wi = true) (hbad : x.badWitness 2 x.c.word = some f) (go : Option Time → Fired) :
    x.underC go = .fault x.st f := by
  simp [Firing.underC, hwi, hbad]

/-- A LD whose witness cannot be waited for takes the witness's fault. -/
theorem exec_ld_witness (hx : s.firing ⟨.ld, .m b m none⟩ = some x) (ha : Acts x) (ht : x.mayTrap) (hwi : m.wi = true)
    (hbad : x.badWitness 2 x.c.word = some f) :
    ∃ t, exec (.ld b m) s = .next t ∧ s.trapsTo t x.tid f.cause x.block.addr f.slot f.addr (f.elem % 2 ^ 32) f.info := by
  have hwi' : x.raw.mword.wi = true := by rwa [Firing.mword_of (s.firing_raw _ x hx)]
  refine exec_load_faults rfl hx ht ?_
  rw [ldBody, x.whole_acts _ _ ha, Firing.underC_bad hwi' hbad, s.firing_st _ x hx]

/-- A LD whose access fails takes the access's fault. -/
theorem exec_ld_bad (hx : s.firing ⟨.ld, .m b m none⟩ = some x) (ha : Acts x) (ht : x.mayTrap) (hw : x.wOk)
    (hacc : x.access .read true (2 ^ m.sz.toNat) (2 ^ m.sz.toNat) 0 x.base = .bad f) :
    ∃ t, exec (.ld b m) s = .next t ∧ s.trapsTo t x.tid f.cause x.block.addr f.slot f.addr (f.elem % 2 ^ 32) f.info := by
  rw [← Firing.szBytes_of (s.firing_raw _ x hx)] at hacc
  refine exec_load_faults rfl hx ht ?_
  rw [ldBody_checked ha hw, Firing.load_bad (sweep_bad hacc), s.firing_st _ x hx]

/-- A LD of bytes that cannot be read takes their fault; an uncorrectable line is poisoned on the way. -/
theorem exec_ld_unreadable {l : Loc} {c : Nat} {u : State} (hx : s.firing ⟨.ld, .m b m none⟩ = some x) (ha : Acts x) (ht : x.mayTrap) (hw : x.wOk)
    (hacc : x.access .read true (2 ^ m.sz.toNat) (2 ^ m.sz.toNat) 0 x.base = .ok 0 l) (hfree : x.unheld m.fr true (2 ^ m.sz.toNat) [(0, l)])
    (hhost : l.route ≠ .host) (hpeer : l.route ≠ .peer) (hbad : readError s l.key (2 ^ m.sz.toNat) = some c)
    (hu : (if c = cUNCORR then s.poisonAt x.who l.va else s) = u) (hthreads : s.sameThreads u) (hmem : u.mem = s.mem) :
    ∃ t, exec (.ld b m) s = .next t ∧ s.trapsTo t x.tid c x.block.addr (slotW x.slot) l.va 0 0 ∧ t.err = u.err := by
  have hr := s.firing_raw _ x hx
  have hst := s.firing_st _ x hx
  have hbody := ldBody_checked ha hw
  rw [Firing.szBytes_of hr, Firing.mword_of hr,
    Firing.load_unreadable (sweep_ok hacc) hfree (Firing.unreadable_scalar hhost hpeer (by rwa [hst])), hst] at hbody
  subst hu
  exact ⟨_, rfl, runLoad_faults hx ht hbody hthreads hmem⟩

/-- A page whose translation is not kept, and whose walk came to nothing. -/
theorem Firing.access_unwalked {a align c : Nat} (ha : a % align = 0) (hmiss : x.st.tlbHit x.tile x.thread.asid a = none)
    (hwalk : x.thread.walked a = some c) (hc : c ≠ walkedOk) (kind : AccKind) (host : Bool) (n e : Nat) :
    x.access kind host n align e (.inside ⟨.global, a⟩) = .bad (mkFault cXLATE x.slot c (Ptr.encode ⟨.global, a⟩).toNat e) := by
  have hcheck : checkPtr x.st x.who kind false ⟨.global, a⟩ n align = .miss a := by
    rw [checkPtr_global ha, checkVa]
    simp only [Firing.who, hmiss]
  simp [Firing.access, Firing.check, hcheck, hwalk, hc]
end

/-- Settles O21: each load sends the parts of its accesses, one lemma for the scalar and one for the vector loads; each trap is a check that fails. -/
theorem loadsSendTheirRequests : Obligations.LoadsSendTheirRequests := by
  refine ⟨fun b m s x l => exec_ld, fun b m k s x l => exec_mwait,
    fun b m tag s x oks hx hl hg hroom hw h => ?vld,
    fun b m tag s x oks hx hl hg hroom hw h => ?vlds,
    fun b m tag s x oks hx hl hg hb hroom hw h => ?vldx,
    fun b m tag s x oks hx hl hg hroom hw h => ?vldff,
    fun b m p l => completesWith_give _ _ prefBody _ _ _ (fun _ => rfl) fun s x hx ⟨ha, hbase, h⟩ => ⟨prefBody_asks ha hbase h, ?pref, .inl rfl⟩,
    fun b m s x hx ha ht hwi hkind => ?werr, fun b m s x hx ha ht hwi hkind => ?wresv,
    fun b m s x i w hx ha ht hw hbase => ?outside, fun b m s x p hx ha ht hw hbase halign => ?align,
    fun b m s x a c hx ha ht hw hbase halign hmiss hwalk hc => ?xlate,
    fun b m s x a e hx ha ht hw hbase halign hhit hroute hmode hbit => ?perm,
    fun b m s x l hx ha ht hw hacc hfree hhost hpeer herr => ?poison,
    fun b m s x l p l' hx ha ht hw hacc hfree hhost hpeer herr hline hp hl' hkey hplace => ?uncorr,
    fun b m tag s x f hx ht hl hg hroom hw hsweep => ?fault⟩
  case vld =>
    have hr := s.firing_raw _ x hx
    refine exec_vectorLoad (ff := false) (reqs := []) rfl hx ?_ hl hg (by simp) hroom hw h
    simp only [vldBody, Firing.loadWidth_of hr, congrArg Raw.op hr]
    rfl
  case vlds =>
    have hr := s.firing_raw _ x hx
    refine exec_vectorLoad (ff := m.ff) (reqs := []) rfl hx ?_ hl hg (by simp) hroom hw h
    simp only [vldsBody, Firing.mword_of hr]
  case vldx =>
    have hr := s.firing_raw _ x hx
    refine exec_vectorLoad (ff := m.ff) (reqs := [{ idx := 1, tok := x.b, ok := isInt, used := x.p.on }]) rfl hx ?_ hl hg ?_ hroom hw h
    · simp only [vldxBody, Firing.loadWidth_of hr, Firing.mword_of hr]
    · rintro q hq
      rw [List.mem_singleton.1 hq]
      exact Req.passes_fine _ x isInt false hb rfl rfl (by simp)
  case vldff =>
    have hr := s.firing_raw _ x hx
    refine exec_vectorLoad (ff := true) (reqs := []) rfl hx ?_ hl hg (by simp) hroom hw h
    simp only [vldBody, Firing.loadWidth_of hr, congrArg Raw.op hr]
    rfl
  case pref =>
    obtain ⟨hthreads, -⟩ := x.sameThreads_queueLoads (.scalar 1 false false) x.thread.floor false
      [⟨0, l.key, 1, p.encode, [], .cached, l.compress, none⟩]
    rw [s.firing_st _ x hx] at hthreads
    exact congrArg (mget Thread.absent · x.tid) hthreads
  case werr =>
    have hbad : x.badWitness 2 x.c.word = some ⟨cWERR, slotW x.slot, x.c.word, 0, BitVec.ofNat 64 (bitsAt x.c.word 56 6)⟩ := by
      simp [Firing.badWitness, hkind, mkFault_word]
    exact exec_ld_witness hx ha ht hwi hbad
  case wresv =>
    have hbad : x.badWitness 2 x.c.word = some ⟨cWRESV, slotW x.slot, 0, 0, 2⟩ := by simp [Firing.badWitness, hkind, mkFault]
    exact exec_ld_witness hx ha ht hwi hbad
  case outside =>
    have hacc : x.access .read true (2 ^ m.sz.toNat) (2 ^ m.sz.toNat) 0 x.base = .bad ⟨cNONCANON, slotW x.slot, w, 0, BitVec.ofNat 64 i⟩ := by
      rw [hbase, ← mkFault_word]
      rfl
    exact exec_ld_bad hx ha ht hw hacc
  case align =>
    have hacc := Firing.access_fault (checkPtr_misaligned (s := x.st) halign x.who .read false (2 ^ m.sz.toNat)) true 0
    rw [← hbase, mkFault_word] at hacc
    exact exec_ld_bad hx ha ht hw hacc
  case xlate =>
    obtain rfl := s.firing_st _ x hx
    have hacc := Firing.access_unwalked halign hmiss hwalk hc .read true (2 ^ m.sz.toNat) 0
    rw [← hbase, mkFault_word] at hacc
    exact exec_ld_bad hx ha ht hw hacc
  case perm =>
    obtain rfl := s.firing_st _ x hx
    have hacc := Firing.access_leaf halign hhit ((checkLeaf_unpermitted (w := x.who) hroute hmode).1 hbit) true (2 ^ m.sz.toNat) 0
    rw [← hbase, mkFault_word] at hacc
    exact exec_ld_bad hx ha ht hw hacc
  case poison =>
    have hbad : readError s l.key (2 ^ m.sz.toNat) = some cPOISON := by simp [readError, herr]
    obtain ⟨t, ht, htrap, -⟩ := exec_ld_unreadable hx ha ht hw hacc hfree hhost hpeer hbad (if_neg (by decide)) ⟨rfl, rfl⟩ rfl
    exact ⟨t, ht, htrap⟩
  case uncorr =>
    have hbad : readError s l.key (2 ^ m.sz.toNat) = some cUNCORR := by simp [readError, hline, herr]
    obtain ⟨hthreads, hmem, hmark⟩ := State.poisonLine_marks herr hplace
    have hu : (if cUNCORR = cUNCORR then s.poisonAt x.who l.va else s) = s.poisonLine (lineOf l.key) := by
      rw [if_pos rfl, State.poisonAt_eq hp hl', hkey]
    obtain ⟨t, ht, htrap, herrs⟩ := exec_ld_unreadable hx ha ht hw hacc hfree hhost hpeer hbad hu hthreads hmem
    exact ⟨t, ht, htrap, (congrArg (mget ErrMark.ok · _) herrs).trans hmark⟩
  case fault =>
    have hr := s.firing_raw _ x hx
    have hwidth := Firing.loadWidth_of hr
    refine exec_load_faults rfl hx ht ?_
    rw [vldBody, Firing.vector_passes hl hg (State.firing_typed hx) (by simp)
      (fun w hw' => by rw [List.mem_singleton.1 hw', hwidth]; exact hroom), Firing.vload, Firing.underC_ok hw]
    simp only [Firing.litTag_of hr, hwidth, List.map_map]
    exact (Firing.load_bad hsweep _).trans (by rw [s.firing_st _ x hx])

end Sys2Proof.Machine
end

-- ==== Proofs: an addend across two lines ====
section
/-! SUPPORT. VSADD's update of an element whose bytes lie in two lines writes those of the first line alone (R185; O36). -/
set_option Elab.async false
namespace Sys2Proof.Machine

/-- Four bytes of ones to be added at the last two bytes of a line of tile 0's scratchpad and the first two of the next: an address that VSADD's own
check of alignment (R169) keeps from being sent, but that O36's clause on VSADD does not leave out. -/
def crossingAddend : FoldEl := ⟨3, 0, scratchKey 0 126, 0x01010101, .cached, false⟩
/-- The request that carries it, at the scratchpad's home. -/
def crossingStore : StoreReq :=
  { id := 0, tid := none, who := none, team := 0, tile := 0, gid := none, kind := .folds [crossingAddend], route := .cached, compress := false,
    w := none, floor := none, dram := false, spill := false, copy := none, home := some 8 }
/-- The request is the only one on its way. -/
def crossingState : State := { State.reset with ceiling := 2 ^ 17, stores := [crossingStore] }

theorem crossingStore_turn : crossingState.turnOf crossingStore = true := by decide +kernel

theorem crossingStore_readable :
    ∀ l ∈ crossingStore.lines, (crossingState.line l).bad = false ∧ crossingState.lineBad (l * 128) = false := by decide +kernel

theorem crossingStore_unheld : crossingState.storeWaits crossingStore 8 = none := by decide +kernel

theorem crossingStore_underCeiling :
    crossingState.underCeiling ((crossingState.packetTo 0 8).storeTime 8 (lineOf crossingAddend.key) none none) = true := by decide +kernel

/-- The byte that memory has at the second line's start after a row. -/
def secondLineByte (r : Host.Outcome State Fault Refusal) : Byte :=
  match r with
  | .next t => readByte t.mem (scratchKey 0 128)
  | _ => 0

theorem crossingStore_performed : secondLineByte (exec (.homeStore 0) crossingState) = 0 := by decide +kernel

theorem crossingAddend_cells :
    readByte (writeCells crossingState.mem (cellsOf crossingAddend.key (leBytes (foldBytes crossingAddend.fmt)
      (addEl false .rne (fmtOf crossingAddend.fmt) (BitVec.ofNat 64 (readNat crossingState.mem crossingAddend.key (foldBytes crossingAddend.fmt)))
        crossingAddend.val).1.toNat))) (scratchKey 0 128) = 1 := by decide +kernel

/-- Refutes O36: the clause on VSADD leaves the element's key free, and of an element across two lines only the bytes in the first are written. -/
theorem not_storesAtomicsAndClaimsArePerformed : ¬ Obligations.StoresAtomicsAndClaimsArePerformed := by
  rintro ⟨-, -, hfolds, -⟩
  obtain ⟨t, hexec, ⟨-, hmem⟩, -⟩ := hfolds crossingState 0 crossingStore 8 crossingAddend rfl crossingStore_turn rfl rfl crossingStore_readable
    crossingStore_unheld rfl rfl (by decide) (by decide) crossingStore_underCeiling
  have hbyte : readByte t.mem (scratchKey 0 128) = 0 := by
    rw [← crossingStore_performed, hexec]
    rfl
  rw [hmem, crossingAddend_cells] at hbyte
  exact absurd hbyte (by decide)

end Sys2Proof.Machine
end

-- ==== Proofs: ranges read ====
section
/-! SUPPORT. Homes that serve a range leave threads and memory as they were, and a firing that has read one leaves in its block what it would without,
beside the versions it took (R241, R281, R283, R308; O26, O27, O33). -/
set_option Elab.async false
namespace Sys2Proof.Machine

/-- From `s` to `t` every thread and the memory stand. -/
def State.servesOnly (s t : State) : Prop := t.threads = s.threads ∧ t.mem = s.mem

section
variable {s t u : State}

theorem State.servesOnly_refl (s : State) : s.servesOnly s := ⟨rfl, rfl⟩

theorem State.servesOnly_trans (h : s.servesOnly t) (k : t.servesOnly u) : s.servesOnly u := ⟨k.1.trans h.1, k.2.trans h.2⟩

theorem State.homesOnly.servesOnly (h : s.homesOnly t) : s.servesOnly t := ⟨h.threads, h.mem⟩

theorem State.servesOnly_ite {c : Prop} [Decidable c] (h : s.servesOnly t) (k : s.servesOnly u) : s.servesOnly (if c then t else u) := by
  split
  · exact h
  · exact k

theorem State.servesOnly_foldl {α : Type} {f : State → α → State} (h : ∀ (t : State) a, t.servesOnly (f t a)) (l : List α) (s : State) :
    s.servesOnly (l.foldl f s) :=
  List.foldlRecOn l f s.servesOnly_refl fun _ ht a _ => State.servesOnly_trans ht (h _ a)
end

/-! Lines. -/
theorem State.servesOnly_openLine (s : State) (l : Nat) : s.servesOnly (s.openLine l) :=
  State.servesOnly_ite ⟨rfl, rfl⟩ (s.homesOnly_activateLine l).servesOnly

theorem State.servesOnly_correctLine (s : State) (l : Nat) : s.servesOnly (s.correctLine l) := by
  unfold State.correctLine
  split
  · exact ((s.setErr l .ok).homesOnly_logLine 1 l).servesOnly
  · exact s.servesOnly_refl

theorem State.servesOnly_meetAt (s : State) (w : Who) (cause : Nat) (a : Word) : s.servesOnly (s.meetAt w cause a) := by
  unfold State.meetAt State.meetBad
  refine State.servesOnly_ite s.servesOnly_refl ?_
  split
  · split
    · exact State.servesOnly_ite (s.homesOnly_logLine _ _).servesOnly s.servesOnly_refl
    · exact s.servesOnly_refl
  · exact s.servesOnly_refl

theorem State.servesOnly_usePage (s : State) (tile : Nat) (asid : BitVec 12) (va : Nat) : s.servesOnly (s.usePage tile asid va) :=
  State.servesOnly_ite ⟨rfl, rfl⟩ (State.servesOnly_ite ⟨rfl, rfl⟩ s.servesOnly_refl)

/-- The home as it is ready to serve a line: it has the packet's time, and DRAM's bytes where it did not hold the line. -/
def State.readied (s : State) (tile h l : Nat) (route : Route) : State :=
  let u := (s.packetTo tile h).scrubHeld h l
  if u.needsDram h l route then (u.openLine l).correctLine l else u

theorem State.servesOnly_readied (s : State) (tile h l : Nat) (route : Route) : s.servesOnly (s.readied tile h l route) := by
  have hscrubbed : s.servesOnly ((s.packetTo tile h).scrubHeld h l) :=
    (State.homesOnly_trans (s.homesOnly_packetTo tile h) (State.homesOnly_scrubHeld _ h l)).servesOnly
  exact State.servesOnly_ite
    (State.servesOnly_trans hscrubbed (State.servesOnly_trans (State.servesOnly_openLine _ l) (State.servesOnly_correctLine _ l))) hscrubbed

/-- A line served at its home and brought to the tile. -/
theorem State.servesOnly_served (s : State) (tile h l : Nat) (route : Route) (b : Time) (lease : Option Nat) (nocache compress : Bool) (w : Time) :
    s.servesOnly ((((s.readied tile h l route).serveLoad h l b lease nocache compress).st.dropOlderAt tile l w).packetBack tile h) := by
  have hload := (State.homesOnly_serveLoad (s.readied tile h l route) h l b lease nocache compress).servesOnly
  have hdrop := ((s.readied tile h l route).serveLoad h l b lease nocache compress).st.dropOlderAt_frame tile l w
  obtain ⟨hthreads, hmem, -⟩ :=
    (((s.readied tile h l route).serveLoad h l b lease nocache compress).st.dropOlderAt tile l w).packetBack_frame tile h
  exact State.servesOnly_trans (s.servesOnly_readied tile h l route) (State.servesOnly_trans hload (State.servesOnly_trans hdrop ⟨hthreads, hmem⟩))

theorem servesOnly_serveLines (tile : Nat) (b : Time) (route : Route) (compress : Bool) : ∀ (l : List Nat) (s : State) (w : Option Time),
    s.servesOnly (serveLines s tile b route compress l w).1 := by
  intro l
  induction l with
  | nil => intro s w; exact s.servesOnly_refl
  | cons k r ih =>
    intro s w
    unfold serveLines
    split
    next h _ => exact State.servesOnly_trans (s.servesOnly_served tile h k route b none (route == .nocache) compress _) (ih _ _)
    next => exact ih s w

/-! Ranges. -/
theorem State.servesOnly_touchRange (s : State) (w : Who) (a : Word) (n : Nat) (b : Time) : s.servesOnly (s.touchRange w a n b).1 := by
  unfold State.touchRange
  split
  · exact s.servesOnly_refl
  · refine State.servesOnly_trans (List.foldlRecOn (motive := fun r : State × Option Time => s.servesOnly r.1) _ _ s.servesOnly_refl ?_) ⟨rfl, rfl⟩
    intro r hr c _
    have hpage : s.servesOnly (match c.1.va with | some va => r.1.usePage w.tile w.asid va | none => r.1) := by
      split
      · exact State.servesOnly_trans hr (State.servesOnly_usePage _ _ _ _)
      · exact hr
    dsimp only
    split
    · split
      · exact State.servesOnly_trans hpage ⟨rfl, rfl⟩
      · exact State.servesOnly_trans hpage (servesOnly_serveLines ..)
    · exact hpage

theorem State.servesOnly_loadLine (s : State) (tile lease : Nat) (b : Time) (l : Loc) : s.servesOnly (s.loadLine tile lease b l).1 := by
  unfold State.loadLine
  dsimp only
  split
  · exact ⟨rfl, rfl⟩
  · split
    · exact s.servesOnly_refl
    next h _ =>
      have hserved := s.servesOnly_served tile h (lineOf l.key) l.route b (if l.route = .cached then some lease else none) (nocacheRoute l.route)
        l.compress
      exact State.servesOnly_ite (State.servesOnly_trans (hserved _) ⟨rfl, rfl⟩) (hserved _)

/-! The block of a firing that reads. -/
/-- In `s` the firing's block stands with the tokens it fires on. -/
def Firing.stands (x : Firing) (s : State) : Prop := ∃ b, (s.thread x.tid).block x.serial = some b ∧ b.toks = x.block.toks

section
variable {s t : State} {x : Firing}

theorem State.firing_stands {r : Raw} (h : s.firing r = some x) : x.stands x.st := by
  obtain ⟨-, hst, hthread, hblock, -⟩ := s.firing_some r x h
  exact ⟨x.block, by rw [hst, ← hthread]; exact hblock, rfl⟩

theorem Firing.stands_serves (h : x.stands s) (k : s.servesOnly t) : x.stands t := by
  obtain ⟨b, hb, htoks⟩ := h
  have hthread : t.thread x.tid = s.thread x.tid := congrArg (mget Thread.absent · x.tid) k.1
  exact ⟨b, by rw [hthread, hb], htoks⟩

theorem Firing.stands_updBlock (h : x.stands s) {f : BlockExec → BlockExec} (hserial : ∀ b, (f b).serial = b.serial)
    (htoks : ∀ b, (f b).toks = b.toks) : x.stands (s.updBlock x.tid x.serial f) := by
  obtain ⟨b, hb, hsame⟩ := h
  exact ⟨f b, by rw [State.updBlock_thread, Thread.updBlock_block _ _ _ hserial, hb]; rfl, (htoks b).trans hsame⟩

theorem Firing.stands_readAt (h : x.stands s) (a : Word) (n : Nat) (b : Time) : x.stands (x.readAt s a n b) :=
  Firing.stands_updBlock (Firing.stands_serves h (s.servesOnly_touchRange x.who a n b)) (fun _ => rfl) fun _ => rfl

theorem Firing.stands_loadAt (h : x.stands s) (a : Word) (n : Nat) (b : Time) : x.stands (x.loadAt s a n b) := by
  refine List.foldlRecOn (motive := x.stands) _ _ h fun u hu e _ => ?_
  have hline := Firing.stands_serves hu (u.servesOnly_loadLine x.tile x.thread.lease.toNat b e.1)
  dsimp only
  split
  · exact Firing.stands_serves hu ⟨rfl, rfl⟩
  · split
    · exact Firing.stands_updBlock hline (fun _ => rfl) fun _ => rfl
    · exact hline

/-- As `finish_eq_done`, where what the firing has read is noted in its block. -/
theorem State.finish_of_stands {o : Out} (h : x.stands s) (hc : x.clear = true) (he : o.exit = none) : s.finish x o = x.done s o := by
  obtain ⟨b, hb, htoks⟩ := h
  have hclear : Firing.clear { x with block := b } = true := by
    rw [← hc]
    simp only [Firing.clear, BlockExec.tok, htoks]
  have hfinish : s.finish x o = s.finish { x with block := b } o := by simp [State.finish, he]
  exact hfinish.trans (s.finish_eq_done { x with block := b } o hb hclear (.inl he))
end

/-- As `completes_typed`, where firing serves lines and notes what it reads. -/
theorem completesWith_stands {i : Instr} {r : Raw} {body : Firing → Fired} {ok : Firing → Prop} {t : Firing → State} {o : Firing → Out}
    (hb : ∀ x, x.raw = r → x.typed = true → ok x → body x = .give (t x) (o x)) (ht : ∀ x : Firing, x.stands x.st → x.stands (t x))
    (he : ∀ s : State, exec i s = .next (runSlot r body s) := by intro; rfl) (hexit : ∀ x, (o x).exit = none := by intro; rfl) :
    CompletesWith i r ok t o := by
  intro s x hx hc hok
  rw [he, runSlot_of_firing r body s x hx, hb x (s.firing_raw r x hx) (State.firing_typed hx) hok]
  exact congrArg Host.Outcome.next (State.finish_of_stands (ht x (State.firing_stands hx)) hc (hexit x))

end Sys2Proof.Machine
end

-- ==== Proofs: claims and fills ====
section
/-! SUPPORT. The claim's grant, the acceptance of a load of weights and its end (R196, R197, R212, R213, R228, R229; O33). -/
set_option Elab.async false
namespace Sys2Proof.Machine

/-! The grant (R197). -/
section
variable {s : State} {tile tid g : Nat} {rest : List (Nat × Nat)}

/-- The head of the queue takes a free claim. -/
theorem matrixClaimGrantBody_free (hfree : (s.tile tile).claimant = none) (hq : (s.tile tile).claimQ = (tid, g) :: rest) (htid : tid < 8192)
    (hawaited : s.claimAwaited tile = false) : matrixClaimGrantBody tile s = (s.takeClaim tile tid).claimed tile tid := by
  simp [matrixClaimGrantBody, hfree, hq, hawaited, htid]

theorem State.takeClaim_tile (s : State) (tile tid : Nat) :
    (s.takeClaim tile tid).tile tile = { s.tile tile with claimant := some tid, mx := MxState.grant, claimSince := s.cycle } :=
  State.setTile_tile_same ..

/-- A thread that stands once in the queue leaves it with the others in order. -/
theorem claimQ_without (hrest : rest.any (·.1 == tid) = false) : ((tid, g) :: rest).filter (·.1 != tid) = rest := by
  rw [List.filter_cons_of_neg (by simp), List.filter_eq_self]
  intro e he
  simpa using List.any_eq_false.1 hrest e he

/-- Of the waiting results only that of its one request is written. -/
theorem claimQ_asks (hrest : rest.any (·.1 == tid) = false) (n : Nat) : ((tid, g) :: rest).any (fun e => e.1 == tid && e.2 == n) = (n == g) := by
  have hnone : rest.any (fun e => e.1 == tid && e.2 == n) = false := by
    rw [List.any_eq_false]
    intro e he
    simp [List.any_eq_false.1 hrest e he]
  rw [List.any_cons, hnone, beq_self_eq_true, Bool.true_and, Bool.or_false, Bool.beq_comm]
end

/-! Acceptance (R212, R213, R229). -/
section
variable {s : State} {tid n : Nat} {b : BlockExec} {f : Fill} {e : MxEffect} {rest : List (Nat × MxEffect)}

/-- From `s` to `t` the tile's matrix state has become `m`; memory, requests and every other tile stand. -/
def State.mxOnly (s t : State) (tile : Nat) (m : MxState) : Prop :=
  (t.tile tile).mx = m ∧ t.mem = s.mem ∧ t.stores = s.stores ∧ ∀ k, k ≠ tile → t.tile k = s.tile k

/-- The first load of weights of a block about to commit is accepted where no other is under way. -/
theorem State.acceptFill_first {wla : Bool} (hwla : f.wla = wla) (hb : s.commitHead tid = some b) (he : e = .wload f ∨ e = .wloada f)
    (hes : b.mxEffects = (n, e) :: rest) (hst : (s.tile (s.tileOf tid)).mx.backSt ≠ .filling) :
    s.mxOnly (s.acceptFill tid wla) (s.tileOf tid) (((s.tile (s.tileOf tid)).mx.apply e).accept f) := by
  subst hwla
  unfold State.acceptFill
  rcases he with rfl | rfl
  all_goals
    simp only [hb, hes, isFill, List.takeWhile_cons, Bool.not_true, Bool.false_eq_true, if_false, List.length_nil, List.drop_zero, hst,
      ne_eq, not_true_eq_false, decide_false, Bool.or_self, List.foldl_nil, State.applyMx]
    refine ⟨?_, rfl, rfl, fun k hk => ?_⟩
    · exact (congrArg Tile.mx (State.setTile_tile_same ..)).trans (congrArg (fun t : Tile => t.mx.accept f) (State.setTile_tile_same ..))
    · exact (State.setTile_tile_other _ _ hk).trans (State.setTile_tile_other _ _ hk)
end

/-! The end of a fill (R228). -/
section
variable {s : State} {tile : Nat} {f : Fill} {m : MxState} {touched : List (Word × Nat)} {expands : Bool}

/-- What a tile's fill reads with. -/
def State.fillReader (s : State) (tile : Nat) (f : Fill) : Reader :=
  ⟨s, { who := ⟨tile, f.asid, f.supervisor⟩, owner := (s.tile tile).claimant.map s.party, bound := f.bound, cells := [] }⟩

/-- The device once the fill's lines are served and the fault that it may have met is logged. -/
def State.fillServed (s : State) (tile : Nat) (f : Fill) (m : MxState) (touched : List (Word × Nat)) : State :=
  let w : Who := ⟨tile, f.asid, f.supervisor⟩
  let u := touched.foldl (fun s e => (s.touchRange w e.1 e.2 f.bound).1) s
  match m.failRec with
  | some r => u.meetAt w r.cause r.addr
  | none => u

theorem State.servesOnly_fillServed (s : State) (tile : Nat) (f : Fill) (m : MxState) (touched : List (Word × Nat)) :
    s.servesOnly (s.fillServed tile f m touched) := by
  have hread : s.servesOnly (touched.foldl (fun s e => (s.touchRange ⟨tile, f.asid, f.supervisor⟩ e.1 e.2 f.bound).1) s) :=
    State.servesOnly_foldl (fun t e => t.servesOnly_touchRange _ e.1 e.2 f.bound) touched s
  unfold State.fillServed
  dsimp only
  split
  · exact State.servesOnly_trans hread (State.servesOnly_meetAt _ _ _ _)
  · exact hread

/-- The state with the cycles for which an expander that came to columns has stalled. -/
def MxState.expanded (m : MxState) (expands : Bool) (n : Nat) : MxState :=
  if !expands then m else { m with stall := Nat.min (2 ^ 32 - 1) (m.stall + n) }

theorem MxState.expanded_false (m : MxState) (n : Nat) : m.expanded false n = m := rfl

/-- A fill that can run leaves the state that it ends with, its stall raised by a free value where its expander came to columns. -/
theorem fillEndBody_ends (hf : (s.tile tile).mx.fill = some f) (hst : (s.tile tile).mx.backSt = .filling)
    (hbound : f.wla = true ∨ s.underCeiling f.bound = true)
    (hrun : runFill (s.fillReader tile f) f s.fresh (s.tile tile).mx = .ended m touched expands) :
    ∃ n, ((fillEndBody tile s).tile tile).mx = m.expanded expands n ∧ s.servesOnly (fillEndBody tile s) := by
  have hgo : ((s.tile tile).mx.backSt ≠ .filling || (!f.wla && !s.underCeiling f.bound)) = false := by
    rcases hbound with h | h <;> simp [hst, h]
  unfold State.fillReader at hrun
  obtain ⟨u, hu⟩ : ∃ u, u = s.fillServed tile f m touched := ⟨_, rfl⟩
  have hbody : fillEndBody tile s = u.tick.2.setTile tile { u.tick.2.tile tile with mx := m.expanded expands (Config.fillStall u.tick.1) } := by
    simp only [fillEndBody, hf, hgo, hrun, Bool.false_eq_true, if_false, hu]
    rfl
  refine ⟨Config.fillStall u.tick.1, ?_, ?_⟩
  · rw [hbody, State.setTile_tile_same]
  · rw [hbody]
    exact State.servesOnly_trans (hu ▸ s.servesOnly_fillServed tile f m touched) ⟨rfl, rfl⟩

/-- A WLOADA's fill ends at once, idle with the whole plane (R213). -/
theorem runFill_wloada (h : f.wla = true) (rd : Reader) (seed : Nat) (m : MxState) :
    runFill rd f seed m = .ended (MxState.endsIdle { m with back := putCells [] (f.plane.zipIdx.map (fun e => (e.2, e.1))) } 128) [] false :=
  if_pos h
end

/-! A plane of rounded accumulators (R213). -/
/-- Weights put in order from cell `k` on: the cells they do not reach stand. -/
theorem mget_putCells_zipIdx (l : List (BitVec 16)) : ∀ (p : NMap (BitVec 16)) (k i : Nat),
    mget 0 (putCells p ((l.zipIdx k).map (fun e => (e.2, e.1)))) i = (if k ≤ i then l[i - k]? else none).getD (mget 0 p i) := by
  induction l with
  | nil => intro p k i; simp [putCells]
  | cons a r ih =>
    intro p k i
    have hstep : putCells p (((a :: r).zipIdx k).map (fun e => (e.2, e.1))) =
        putCells (mset 0 p k a) ((r.zipIdx (k + 1)).map (fun e => (e.2, e.1))) := rfl
    rw [hstep, ih]
    rcases Nat.lt_trichotomy i k with hlt | rfl | hgt
    · rw [if_neg (by omega), if_neg (by omega), mget_mset_other _ _ _ (by omega)]
    · rw [if_neg (by omega), if_pos le_rfl, mget_mset_same, Nat.sub_self]
      rfl
    · rw [if_pos (by omega), if_pos hgt.le, mget_mset_other _ _ _ (by omega), show i - k = i - (k + 1) + 1 by omega, List.getElem?_cons_succ]

/-- Rows of equal length, one after another. -/
theorem getElem?_flatMap_rows {α : Type} {w c : Nat} (hc : c < w) : ∀ (n k : Nat) (g : Nat → Nat → α), k < n →
    ((List.range n).flatMap (fun k => (List.range w).map (g k)))[k * w + c]? = some (g k c) := by
  intro n
  induction n with
  | zero => intro k g hk; omega
  | succ n ih =>
    intro k g hk
    rw [List.range_succ_eq_map, List.flatMap_cons, List.flatMap_map]
    cases k with
    | zero => rw [List.getElem?_append_left (by simpa using hc)]; simp [hc]
    | succ k =>
      have hindex : (k + 1) * w + c = w + (k * w + c) := by rw [Nat.succ_mul]; omega
      rw [List.getElem?_append_right (by simp [hindex]), List.length_map, List.length_range, hindex, Nat.add_sub_cancel_left]
      exact ih k (fun k => g (k + 1)) (by omega)

theorem planeAt_roundPlane (m : MxState) (row : Nat) {k c : Nat} (hk : k < 128) (hc : c < 256) :
    planeAt (putCells [] ((roundPlane m row).zipIdx.map (fun e => (e.2, e.1)))) k c =
      (convert fp32 127 bf16 127 .rne false (accAt m.acc (row + k) c)).1 % 2 ^ 16 := by
  have hcell := getElem?_flatMap_rows hc 128 k
    (fun k c => BitVec.ofNat 16 (convert fp32 127 bf16 127 .rne false (accAt m.acc (row + k) c)).1) hk
  rw [planeAt, mget_putCells_zipIdx, if_pos (Nat.zero_le _), Nat.sub_zero, roundPlane, hcell]
  exact BitVec.toNat_ofNat _ _

/-- Settles O33: the grant by the head of the queue, acceptance by one lemma for both loads, the end of a fill by what `runFill` leaves; WLOADA's
plane stands cell by cell in the rounded accumulators. -/
theorem claimsAndWeightFills : Obligations.ClaimsAndWeightFills := by
  refine ⟨fun s tile tid g rest hfree hq htid hawaited hrest => ?grant,
    fun s tid b n f rest hb hes hwla hst => ?wload, fun s tid b n f rest hb hes hwla hst => ?wloada,
    fun s tile f m touched expands hf hst hbound hrun => ?ends, fun s tile f hf hst hwla hplane => ?plane⟩
  case grant =>
    refine ⟨_, congrArg Host.Outcome.next (matrixClaimGrantBody_free hfree hq htid hawaited), ?_⟩
    rw [State.claimed_tile_same, State.takeClaim_tile]
    refine ⟨rfl, rfl, by rw [hq]; exact claimQ_without hrest, ?_, rfl, rfl, fun n hn => ?_⟩
    · simp only [State.claimed, State.takeClaim_tile, hq, claimQ_asks hrest, beq_iff_eq]
      rfl
    · rw [State.claimed_tile_other _ _ hn]
      exact State.setTile_tile_other _ _ hn
  case wload =>
    obtain ⟨hmx, hrest⟩ := State.acceptFill_first hwla hb (.inl rfl) hes hst
    exact ⟨_, rfl, hmx.trans (by simp [MxState.apply, MxState.accept, hwla]), hrest⟩
  case wloada =>
    obtain ⟨hmx, hrest⟩ := State.acceptFill_first hwla hb (.inr rfl) hes hst
    exact ⟨_, rfl, hmx.trans (by simp [MxState.apply, MxState.accept, hwla]), hrest⟩
  case ends =>
    obtain ⟨n, hmx, hthreads, hmem⟩ := fillEndBody_ends hf hst (.inr hbound) hrun
    exact ⟨_, rfl, fun he => by rw [hmx, he]; rfl, fun he => ⟨n, by rw [hmx, he]; rfl⟩, hmem, hthreads⟩
  case plane =>
    obtain ⟨n, hmx, -⟩ := fillEndBody_ends hf hst (.inl hwla) (runFill_wloada hwla _ _ _)
    refine ⟨fillEndBody tile s, rfl, ?_⟩
    rw [hmx, hplane, MxState.expanded_false]
    dsimp only [MxState.endsIdle]
    exact ⟨rfl, rfl, rfl, rfl, rfl, rfl, fun k c hk hc => planeAt_roundPlane _ f.arow hk hc⟩

end Sys2Proof.Machine
end

-- ==== Proofs: matrix instructions ====
section
/-! SUPPORT. What instructions of the matrix unit share, passed under the claim, and the instructions of the matrix array as they fire (R197, R198, R201
to R210; O26). -/
set_option Elab.async false
namespace Sys2Proof.Machine

/-! The checks, passed. -/
section
variable {x : Firing}

theorem Firing.matrix_claims (h : x.claims) (go : Fired) : x.matrix go = go := by
  obtain ⟨hout, hclaim, hwaits⟩ := h
  simp [Firing.matrix, hout, hclaim, hwaits]

theorem Firing.matrix_whole (h : x.claims) (ha : Acts x) (n : Out) (go : Fired) : x.matrix (x.whole n go) = go := by
  rw [Firing.matrix_claims h, x.whole_acts _ _ ha]

theorem Firing.needLanes_laned (h : x.laned) (go : Fired) : x.needLanes go = go := if_neg h.1

/-- The ranges of R206. -/
theorem Firing.rowRange_passes {vec : Bool} (hvec : vec = true → 256 * (Raw.posn x.raw + Raw.nrow x.raw) ≤ capacity x.thread.vlmax 32)
    (hrow : Raw.arow x.raw + Raw.nrow x.raw ≤ 512) (go : Fired) : x.rowRange vec go = go := by
  have hroom : ¬(vec && decide (capacity x.thread.vlmax 32 < 256 * (Raw.posn x.raw + Raw.nrow x.raw))) = true := by
    cases vec with
    | false => simp
    | true => simpa using hvec rfl
  rw [Firing.rowRange, if_neg hroom, if_neg (by omega)]

theorem Firing.reads_gives {a : Word} {n : Nat} {b : Time} {l : List Byte} (h : x.readsGive a n b l) (go : List Byte → Fired) :
    x.reads a n b go = go l := by
  obtain ⟨hheld, hlower, hpeek⟩ := h
  simp [Firing.reads, hheld, hlower, hpeek]
end

/-! The fields of a matrix word (R79, R200, R203, R206). -/
section
variable {x : Firing} {o : Opcode} {k : KForm} {t : KRes} {w : Word32} (hr : x.raw = ⟨o, .k k t w⟩)
include hr

theorem Firing.msid_of : msidNo x.raw = k.msid.toNat := by rw [hr]; rfl
theorem Firing.w2_of : x.raw.w2 = w := by rw [hr]; rfl
end

section
variable {r : Raw}

theorem Raw.rows_of {arow : BitVec 9} {nrow : BitVec 4} {pos : BitVec 6}
    (h : r.w2 = BitVec.ofNat 32 (arow.toNat + 512 * nrow.toNat + 8192 * pos.toNat)) :
    Raw.arow r = arow.toNat ∧ Raw.nrow r = nrow.toNat + 1 ∧ Raw.posn r = pos.toNat := by
  have ha := arow.isLt
  have hn := nrow.isLt
  have hp := pos.isLt
  simp only [Raw.arow, Raw.nrow, Raw.posn, h, toNat_ofNat_lt (show arow.toNat + 512 * nrow.toNat + 8192 * pos.toNat < 4294967296 by omega)]
  omega

theorem accOf_encAcc (m : AccMode) : accOf (encAcc m) = m := by cases m <;> rfl

theorem getLsbD_ofNat (n i : Nat) (hn : n < 4294967296) : (BitVec.ofNat 32 n).getLsbD i = n.testBit i := by
  rw [BitVec.getLsbD, toNat_ofNat_lt hn]

theorem Raw.mmul_of {arow : BitVec 9} {acc : AccMode} {slice : BitVec 6} {dual : Bool}
    (h : r.w2 = BitVec.ofNat 32 (arow.toNat + 512 * encAcc acc + 2048 * slice.toNat + 131072 * encBool dual)) :
    Raw.arow r = arow.toNat ∧ mmulAcc r = acc ∧ mmulSlice r = slice.toNat ∧ mmulDual r = dual := by
  have ha := arow.isLt
  have hc := encAcc_lt acc
  have hs := slice.isLt
  have hd := encBool_lt dual
  have hlt : arow.toNat + 512 * encAcc acc + 2048 * slice.toNat + 131072 * encBool dual < 4294967296 := by omega
  refine ⟨?_, ?_, ?_, ?_⟩
  · rw [Raw.arow, h, toNat_ofNat_lt hlt]
    omega
  · rw [mmulAcc, h, toNat_ofNat_lt hlt, show (arow.toNat + 512 * encAcc acc + 2048 * slice.toNat + 131072 * encBool dual) / 512 % 4 = encAcc acc by omega,
      accOf_encAcc]
  · rw [mmulSlice, h, toNat_ofNat_lt hlt]
    omega
  · have hbit : (arow.toNat + 512 * encAcc acc + 2048 * slice.toNat + 131072 * encBool dual) / 2 ^ 17 = encBool dual := by omega
    rw [mmulDual, h, getLsbD_ofNat _ _ hlt, Nat.testBit_eq_decide_div_mod_eq, hbit]
    cases dual <;> rfl

theorem Raw.unit_of {u : MxUnit} (h : r.w2 = BitVec.ofNat 32 (encUnit u)) : mxUnit r = u := by
  rw [mxUnit, h]
  clear h
  cases u with
  | bank b => revert b; decide
  | front => rfl
  | back => rfl

theorem Raw.fill_of {u : MxUnit} {wi : Bool} (h : r.w2 = BitVec.ofNat 32 (encUnit u + 4 * encBool wi)) : mxUnit r = u ∧ mfillWi r = wi := by
  rw [mxUnit, mfillWi, h]
  clear h
  cases u with
  | bank b => revert b wi; decide
  | front => revert wi; decide
  | back => revert wi; decide
end

/-! Accumulators (R203 to R208). -/
section
variable {x : Firing}

theorem mmulBody_claims {arow : BitVec 9} {acc : AccMode} {slice : BitVec 6} {dual : Bool}
    (hw : x.raw.w2 = BitVec.ofNat 32 (arow.toNat + 512 * encAcc acc + 2048 * slice.toNat + 131072 * encBool dual)) (ht : x.typed = true)
    (hc : x.claims) (hl : x.laned) (hg : x.given) (ha : x.fine x.a (fun c => if dual then isEight c else isScaled c) true)
    (hroom : 128 * slice.toNat + (if dual then 256 else 128) ≤ capacity x.thread.vlmax x.a.vec.fmt.width)
    (hrow : ¬(dual = true ∧ arow.toNat = 511)) :
    mmulBody x =
      let r0 := mmulRow x.view x.a.vec x.p.on acc (128 * slice.toNat) arow.toNat
      let r1 := if dual then mmulRow x.view x.a.vec x.p.on acc (128 * slice.toNat + 128) (arow.toNat + 1) else ([], 0)
      .give x.st { effs := [.mx (msidNo x.raw) (.cells (r0.1 ++ r1.1))], flags := r0.2 ||| r1.2 } := by
  obtain ⟨harow, hacc, hslice, hdual⟩ := Raw.mmul_of hw
  rw [mmulBody, Firing.matrix_claims hc]
  simp only [harow, hacc, hslice, hdual]
  refine (Firing.vector_passes hl hg ht ?_ (by simp) _).trans ?_
  · intro q hq
    rw [List.mem_singleton.1 hq]
    exact Req.passes_fine _ x _ true ha rfl rfl (by simp)
  · rw [if_neg (by omega), if_neg (by simpa using hrow)]

theorem mrdBody_claims {arow : BitVec 9} {nrow : BitVec 4} {pos : BitVec 6}
    (hw : x.raw.w2 = BitVec.ofNat 32 (arow.toNat + 512 * nrow.toNat + 8192 * pos.toNat)) (ht : x.typed = true) (hc : x.claims) (hl : x.laned)
    (hg : x.given) (hroom : 256 * (pos.toNat + nrow.toNat + 1) ≤ capacity x.thread.vlmax 32) (hrow : arow.toNat + nrow.toNat ≤ 511)
    (hvl : x.vl ≤ capacity x.thread.vlmax 32) :
    mrdBody x = .give x.st (Out.tok (.vector (plainTag 13) ((List.range x.vl).map fun e =>
      if 256 * pos.toNat ≤ e ∧ e < 256 * pos.toNat + 256 * (nrow.toNat + 1) ∧ x.p.on e = true
      then some (BitVec.ofNat 64 (accAt x.view.acc (arow.toNat + (e - 256 * pos.toNat) / 256) ((e - 256 * pos.toNat) % 256))) else none) [] [])) := by
  obtain ⟨harow, hnrow, hpos⟩ := Raw.rows_of hw
  rw [mrdBody, Firing.matrix_claims hc, Firing.needLanes_laned hl, Firing.rowRange_passes (by omega) (by omega)]
  refine (Firing.vector_passes hl hg ht (by simp) (by simpa using hvl) _).trans ?_
  simp only [harow, hnrow, hpos, Bool.and_eq_true, decide_eq_true_eq, and_assoc]

theorem mwrBody_claims {arow : BitVec 9} {nrow : BitVec 4} {pos : BitVec 6}
    (hw : x.raw.w2 = BitVec.ofNat 32 (arow.toNat + 512 * nrow.toNat + 8192 * pos.toNat)) (ht : x.typed = true) (hc : x.claims) (hl : x.laned)
    (hg : x.given) (hroom : 256 * (pos.toNat + nrow.toNat + 1) ≤ capacity x.thread.vlmax 32) (hrow : arow.toNat + nrow.toNat ≤ 511)
    (ha : x.fine x.a mwrOk false) :
    mwrBody x = x.mxEffect (.cells ((List.range x.vl).filterMap fun e =>
      if 256 * pos.toNat ≤ e ∧ e < 256 * pos.toNat + 256 * (nrow.toNat + 1) ∧ x.p.on e = true
      then (x.a.vec.at e).map fun a =>
        (arow.toNat * 256 + (e - 256 * pos.toNat), BitVec.ofNat 32 (convert x.a.vec.fmt 127 fp32 127 .rne false a.toNat).1) else none)) := by
  obtain ⟨harow, hnrow, hpos⟩ := Raw.rows_of hw
  rw [mwrBody, Firing.matrix_claims hc, Firing.needLanes_laned hl, Firing.rowRange_passes (by omega) (by omega)]
  refine (Firing.vector_passes hl hg ht ?_ (by simp) _).trans ?_
  · intro q hq
    rw [List.mem_singleton.1 hq]
    exact Req.passes_fine _ x mwrOk false ha rfl rfl (by simp)
  · simp only [harow, hnrow, hpos, Bool.and_eq_true, decide_eq_true_eq, and_assoc]

theorem mzeroBody_claims {arow : BitVec 9} {nrow : BitVec 4} (hw : x.raw.w2 = BitVec.ofNat 32 (arow.toNat + 512 * nrow.toNat)) (hc : x.claims)
    (ha : Acts x) (hrow : arow.toNat + nrow.toNat ≤ 511) : mzeroBody x = x.mxEffect (.zeroRows arow.toNat (nrow.toNat + 1)) := by
  obtain ⟨harow, hnrow, -⟩ := Raw.rows_of (pos := 0) hw
  rw [mzeroBody, Firing.matrix_whole hc ha, Firing.rowRange_passes (by simp) (by omega), harow, hnrow]

/-! Units (R209, R210). -/
theorem mspillBody_claims {oks : List (Nat × Loc)} (hc : x.claims) (ha : Acts x)
    (hsweep : sweep (x.unitAccess .write (unitLines (mxUnit x.raw))) = ⟨oks, [], none⟩) :
    mspillBody x = x.mxEffect (.spill (oks.zipIdx.map fun e => ⟨e.2, e.1.2.key, x.view.unitLine (mxUnit x.raw) e.2, e.1.2.route, e.1.2.compress⟩)
      (mxUnit x.raw == .back)) := by
  rw [mspillBody, Firing.matrix_whole hc ha]
  exact Firing.swept_ok hsweep _

theorem mfillBody_claims {u : MxUnit} {wi : Bool} {oks : List (Nat × Loc)} {bytes : List Byte} (hu : mxUnit x.raw = u) (hwi : mfillWi x.raw = wi)
    (hc : x.claims) (ha : Acts x) (hwit : wi = true → x.badWitness 1 x.b.word = none) (hback : ¬(u = .back ∧ x.view.backSt = .filling))
    (hsweep : sweep (x.unitAccess .read (unitLines u)) = ⟨oks, [], none⟩)
    (hread : x.readsGive x.a.word (128 * unitLines u) (x.bound (if wi then x.timeOf x.b.word else none)) bytes) :
    mfillBody x = (x.mxEffect (unitLoad u bytes)).served x x.a.word (128 * unitLines u) (x.bound (if wi then x.timeOf x.b.word else none)) := by
  have hpass : (if wi = true then x.badWitness 1 x.b.word else none) = none := by
    split
    next h => exact hwit h
    next => rfl
  rw [mfillBody, Firing.matrix_whole hc ha]
  simp only [hu, hwi, hpass]
  rw [if_neg (by simpa using hback), Firing.swept_ok hsweep, Firing.reads_gives hread]
end

/-- Settles O26: under the claim each instruction passes to its own effect; MFILL serves the unit's lines as it fires. -/
theorem matrixInstructions : Obligations.MatrixInstructions := by
  refine ⟨fun b => completes_body fun x _ ha => x.whole_acts _ _ ha, fun p => completes_body fun x _ ha => x.whole_acts _ _ ha,
    fun k arow acc slice dual => completes_typed (body := mmulBody) fun x hr ht ⟨hc, hl, hg, ha, hroom, hrow⟩ => ?mmul,
    fun k b arow nrow pos => completes_typed fun x hr ht ⟨hc, hl, hg, hroom, hrow, hvl⟩ =>
      mrdBody_claims (Firing.w2_of hr) ht hc hl hg hroom hrow hvl,
    fun k arow nrow pos => completes_typed fun x hr ht ⟨hc, hl, hg, hroom, hrow, ha⟩ => ?mwr,
    fun k arow nrow => completes_body fun x hr ⟨hc, ha, hrow⟩ => ?mzero,
    fun k => completes_body fun x hr ⟨hc, ha⟩ => ?mdecay,
    fun k u oks => completes_body (body := mspillBody) fun x hr ⟨hc, ha, hsweep⟩ => ?mspill,
    fun k u wi oks bytes => completesWith_stands (body := mfillBody) (fun x hr ht ⟨hc, ha, hwit, hback, hsweep, hread⟩ => ?mfill)
      fun x hx => Firing.stands_readAt hx _ _ _⟩
  case mmul =>
    rw [mmulBody_claims (Firing.w2_of hr) ht hc hl hg ha hroom hrow, Firing.msid_of hr]
    cases dual with
    | false => simp
    | true => rfl
  case mwr =>
    rw [mwrBody_claims (Firing.w2_of hr) ht hc hl hg hroom hrow ha, Firing.mxEffect, Firing.msid_of hr]
    rfl
  case mzero =>
    rw [mzeroBody_claims (Firing.w2_of hr) hc ha hrow, Firing.mxEffect, Firing.msid_of hr]
    rfl
  case mdecay =>
    rw [mdecayBody, Firing.matrix_whole hc ha, Firing.mxEffect, Firing.msid_of hr]
    rfl
  case mspill =>
    have hu : mxUnit x.raw = u := Raw.unit_of (Firing.w2_of hr)
    rw [← hu] at hsweep
    rw [mspillBody_claims hc ha hsweep, hu, Firing.mxEffect, Firing.msid_of hr]
    rfl
  case mfill =>
    obtain ⟨hu, hwi⟩ := Raw.fill_of (Firing.w2_of hr)
    rw [mfillBody_claims hu hwi hc ha hwit hback hsweep hread, Firing.mxEffect, Firing.msid_of hr]
    rfl

end Sys2Proof.Machine
end

-- ==== Proofs: weight instructions ====
section
/-! SUPPORT. The instructions of the weight path as they fire (R212 to R221, R226, R229, R236, R349; O27). -/
set_option Elab.async false
namespace Sys2Proof.Machine

section
variable {x : Firing}

/-! Pointers and scalar operands. -/
theorem Firing.streamPtr_aligned {a : Word} {align : Nat} (hglobal : a.extractLsb' 56 8 = 0) (halign : a.toNat % align = 0) (go : Fired) :
    x.streamPtr a align go = go := by
  have hbits : bitsAt a 56 8 = 0 := by rw [bitsAt_eq, hglobal]; rfl
  simp [Firing.streamPtr, hbits, halign]

/-- C of an instruction that takes it as a scalar, and acts. -/
theorem Firing.c_scalar (ht : x.typed = true) (ha : Acts x) (hc : (Opnd.c, Want.scalar) ∈ x.raw.takes) : x.c = .scalar x.c.word := by
  have hfits : x.c.fits .scalar = true := List.all_eq_true.1 ht _ hc
  have hsome : x.anyNull = false := by
    unfold Acts Firing.acts at ha
    simpa using (Bool.and_eq_true_iff.1 ha).1
  have hnull : x.tok .c ≠ .null := by simpa using List.any_eq_false.1 hsome _ hc
  cases hx : x.c with
  | scalar w => rfl
  | null => exact absurd hx hnull
  | _ => simp [hx, Token.fits] at hfits

/-! Configuration and table (R216, R218). -/
theorem wcfgBody_claims (hc : x.claims) (ha : Acts x) (hglobal : x.b.word.extractLsb' 56 8 = 0) (halign : x.b.word.toNat % 16 = 0)
    (hcfg : cfgBad x.a.word = false) : wcfgBody x = x.mxEffect (.config (x.a.word.setWidth 16) x.b.word) := by
  rw [wcfgBody, Firing.matrix_whole hc ha, Firing.streamPtr_aligned hglobal halign, if_neg (by simp [hcfg])]

theorem wtableBody_claims {l : List Byte} (hc : x.claims) (ha : Acts x) (hl : x.structGives x.a.word 64 64 l)
    (hsum : (wordsOf 2 l).foldl (· + ·) 0 = 4096) :
    wtableBody x = (x.mxEffect (.table (wordsOf 2 l))).served x x.a.word 64 x.thread.floor := by
  obtain ⟨hglobal, halign, hread⟩ := hl
  rw [wtableBody, Firing.matrix_whole hc ha, Firing.streamPtr_aligned hglobal halign]
  exact (Firing.reads_gives hread _).trans (if_neg (by simpa using hsum))

/-! Loads of weights, the exchange and the status (R212 to R214, R229). -/
theorem wloadBody_claims (hc : x.claims) (ha : Acts x) (hwit : x.badWitness 2 x.c.word = none) (hglobal : x.a.word.extractLsb' 56 8 = 0)
    (halign : x.a.word.toNat % streamAlign x.view.cfg = 0) (htab : tableBad x.view.cfg x.view.ftab = 0) (hscalar : x.c = .scalar x.c.word) :
    wloadBody x = x.mxEffect (.wload ⟨x.a.word, x.view.cfg, x.view.ftab.getD [], x.view.fp, x.raw.w2.getLsbD 0, x.bound (x.timeOf x.c.word),
      x.thread.asid, x.thread.supervisor, false, 0, [], x.c.word, none⟩) := by
  rw [wloadBody, Firing.matrix_whole hc ha]
  simp only [hwit]
  rw [Firing.streamPtr_aligned hglobal halign, if_neg (by simp [htab]), hscalar]
  rfl

theorem wloadaBody_claims {arow : BitVec 9} (hw : x.raw.w2 = arow.setWidth 32) (hc : x.claims) (ha : Acts x) (hrow : arow.toNat ≤ 384) :
    wloadaBody x = x.mxEffect (.wloada ⟨0, 0, [], 0, false, 0, x.thread.asid, x.thread.supervisor, true, arow.toNat,
      roundPlane x.view arow.toNat, satisfied, none⟩) := by
  have harow : Raw.arow x.raw = arow.toNat := by
    have := arow.isLt
    rw [Raw.arow, hw, BitVec.toNat_setWidth]
    omega
  rw [wloadaBody, Firing.matrix_whole hc ha]
  simp only [harow]
  exact if_neg (by omega)

theorem wswapBody_claims (hc : x.claims) (ha : Acts x) (hbelow : x.loadBelow = false) (hidle : x.view.backSt = .idle) :
    wswapBody x = x.mxEffect .swap := by
  rw [wswapBody, Firing.matrix_whole hc ha]
  simp [hbelow, hidle]

theorem getLsbD_encBool (b : Bool) : (BitVec.ofNat 32 (encBool b)).getLsbD 0 = b := by cases b <;> rfl

theorem wstatBody_claims {wait : Bool} (hw : x.raw.w2 = BitVec.ofNat 32 (encBool wait)) (hc : x.claims) (ha : Acts x)
    (hready : wait = true → x.view.backSt ≠ .filling) : wstatBody x = .give x.st (scalarOut x.view.wstat) := by
  rw [wstatBody, Firing.matrix_whole hc ha, hw, getLsbD_encBool, if_neg (by simpa using hready)]
  rfl

/-! Expansion (R236). -/
/-- The checks of a WEXP before it reads its stream. -/
def Firing.mayExpand (x : Firing) : Prop :=
  (x.a.word.extractLsb' 56 8 = 0 ∧ x.a.word.toNat % (if cfgWfmt x.view.cfg = 2 then 8 else if cfgWfmt x.view.cfg = 1 then 4 else 1) = 0) ∧
  cfgWfmt x.view.cfg ≠ 0 ∧ cfgSp x.view.cfg = false ∧ tableBad x.view.cfg x.view.ftab = 0 ∧ x.view.backSt ≠ .filling

theorem wexpBody_expands {codes : List Nat × Nat} {es : List (List Byte)} (ht : x.typed = true) (hc : x.claims) (hl : x.laned) (hg : x.given)
    (hsome : 0 < x.vl) (hroom : x.vl ≤ capacity x.thread.vlmax 16) (h : x.expands codes es) :
    wexpBody x = .give (x.loadAt (x.loadAt x.st.tick.2 x.a.word codes.2 x.thread.floor) x.view.fp
        (((x.vl + 127) / 128) * entrySize x.view.cfg) x.thread.floor)
      { main := some (.vector (plainTag 11) (codes.1.zipIdx.map fun q => if x.p.on q.2
          then some (BitVec.ofNat 64 (codeWeight x.view.cfg (es[q.2 / 128]?.getD []) (q.2 % 128) q.1)) else none) [] []),
        effs := [.mx (msidNo x.raw) (.fp (addW x.view.fp (((x.vl + 127) / 128) * entrySize x.view.cfg))),
                 .mx (msidNo x.raw) (x.stallEffect (x.expandStall x.streamReader codes.2 ((x.vl + 127) / 128)))] } := by
  obtain ⟨⟨hglobal, halign⟩, ⟨hfmt, hsp, htab, hback⟩, hceiling, hheld, hheld', hcodes, hes⟩ := h
  rw [wexpBody, Firing.matrix_claims hc, Firing.needLanes_laned hl]
  refine (Firing.vector_passes hl hg ht (by simp) (by simpa using hroom) _).trans ?_
  rw [Firing.streamPtr_aligned hglobal halign, if_neg (by simp [hfmt, hsp]), if_neg (by simp [htab]), if_neg hback, if_neg hsome.ne',
    if_neg (by simp [hceiling])]
  simp only [hcodes, hes, hheld, hheld', Bool.or_self, Bool.false_eq_true, if_false]

theorem wexpBody_empty (ht : x.typed = true) (hc : x.claims) (hl : x.laned) (hg : x.given) (hnone : x.vl = 0) (h : x.mayExpand) :
    wexpBody x = .give x.st { main := some (.vector (plainTag 11) [] [] []), effs := [.mx (msidNo x.raw) (.fp x.view.fp)] } := by
  obtain ⟨⟨hglobal, halign⟩, hfmt, hsp, htab, hback⟩ := h
  rw [wexpBody, Firing.matrix_claims hc, Firing.needLanes_laned hl]
  refine (Firing.vector_passes hl hg ht (by simp) (by simp [hnone]) _).trans ?_
  rw [Firing.streamPtr_aligned hglobal halign, if_neg (by simp [hfmt, hsp]), if_neg (by simp [htab]), if_neg hback, if_pos hnone]
end

/-- Settles O27: under the claim each instruction passes to its own effect; WTABLE serves its table's line and WEXP its stream's and entries' lines as
they fire. -/
theorem weightInstructions : Obligations.WeightInstructions := by
  refine ⟨fun k => completes_body fun x hr ⟨hc, ha, hglobal, halign, hcfg⟩ => ?wcfg,
    fun k l => completesWith_stands (body := wtableBody) (fun x hr _ ⟨hc, ha, hl, hsum⟩ => ?wtable) fun x hx => Firing.stands_readAt hx _ _ _,
    fun k ff => completes_typed (body := wloadBody) fun x hr ht ⟨hc, ha, hwit, hglobal, halign, htab⟩ => ?wload,
    fun k arow => completes_body (body := wloadaBody) fun x hr ⟨hc, ha, hrow⟩ => ?wloada,
    fun k => completes_body (body := wswapBody) fun x hr ⟨hc, ha, hbelow, hidle⟩ => ?wswap,
    fun k b wait => completes_body fun x hr ⟨hc, ha, hready⟩ => wstatBody_claims (Firing.w2_of hr) hc ha hready,
    fun k b codes es => completesWith_stands (body := wexpBody) (fun x hr ht ⟨hc, hl, hg, hsome, hroom, h⟩ => ?wexp)
      fun x hx => Firing.stands_loadAt (Firing.stands_loadAt (Firing.stands_serves (t := x.st.tick.2) hx ⟨rfl, rfl⟩) _ _ _) _ _ _,
    fun k b => completes_typed (body := wexpBody) fun x hr ht ⟨hc, hl, hg, hnone, hglobal, halign, h⟩ => ?none⟩
  case wcfg =>
    rw [wcfgBody_claims hc ha hglobal halign hcfg, Firing.mxEffect, Firing.msid_of hr]
    rfl
  case wtable =>
    rw [wtableBody_claims hc ha hl hsum, Firing.mxEffect, Firing.msid_of hr]
    rfl
  case wload =>
    have htakes : (Opnd.c, Want.scalar) ∈ x.raw.takes := by rw [hr]; exact .tail _ (.head _)
    rw [wloadBody_claims hc ha hwit hglobal halign htab (Firing.c_scalar ht ha htakes), Firing.mxEffect, Firing.msid_of hr, Firing.w2_of hr,
      getLsbD_encBool]
    rfl
  case wloada =>
    rw [wloadaBody_claims (Firing.w2_of hr) hc ha hrow, Firing.mxEffect, Firing.msid_of hr]
    rfl
  case wswap =>
    rw [wswapBody_claims hc ha hbelow hidle, Firing.mxEffect, Firing.msid_of hr]
    rfl
  case wexp => rw [wexpBody_expands ht hc hl hg hsome hroom h, Firing.msid_of hr]
  case none => rw [wexpBody_empty ht hc hl hg hnone ⟨⟨hglobal, halign⟩, h⟩, Firing.msid_of hr]

end Sys2Proof.Machine
end

-- ==== Proofs: copy instructions ====
section
/-! SUPPORT. The copy instructions as they fire (R264 to R266, R269, R271, R272; O30). -/
set_option Elab.async false
namespace Sys2Proof.Machine

section
variable {x : Firing}

/-- CPSET's register is named by the low bits of word 2. -/
theorem cpsetBody_acts {i : Nat} (hi : x.raw.w2.toNat % 32 = i) (ha : Acts x) : cpsetBody x = .give x.st { effs := [.cpset i x.a.word] } := by
  subst hi
  exact x.whole_acts _ _ ha

/-- A CPGO whose shadow registers are decided and pass R266. -/
theorem cpgoBody_acts (ha : Acts x) (hset : x.cpsetOpen = false) (hview : Shadow.fault x.shadowView = none) :
    cpgoBody x = .give x.st { main := some (.deferred x.slot 0), effs := [.cpgo x.shadowView] } := by
  rw [cpgoBody, x.whole_acts _ _ ha, if_neg (by simp [hset]), hview]
  exact Firing.deferring_acts ha _

/-- CPQF's queue and mask are fields of word 2. -/
theorem cpqfBody_acts {q : BitVec 3} {m : BitVec 8} (hw : x.raw.w2 = BitVec.ofNat 32 (q.toNat + 256 * m.toNat)) (ha : Acts x) :
    cpqfBody x = .give x.st { effs := [.cpqf q.toNat m] } := by
  have hq := q.isLt
  have hm := m.isLt
  have hword : x.raw.w2.toNat = q.toNat + 256 * m.toNat := by rw [hw, toNat_ofNat_lt (by omega)]
  have hqueue : x.raw.w2.toNat % 8 = q.toNat := by omega
  have hmask : x.raw.w2.toNat / 256 = m.toNat := by omega
  rw [cpqfBody, Firing.effect, x.whole_acts _ _ ha, hqueue, hmask, BitVec.ofNat_toNat, BitVec.setWidth_eq]
  rfl

theorem cpstatBody_acts (ha : Acts x) (hid : x.st.idBad x.a.word = false) :
    cpstatBody x = .give x.st (scalarOut (x.st.copyStatus x.a.word)) := by
  rw [cpstatBody, x.whole_acts _ _ ha, if_neg (by simp [hid])]
  rfl

theorem cpabortBody_acts (ha : Acts x) (hid : x.st.idBad x.a.word = false) : cpabortBody x = .give x.st { effs := [.cpabort x.a.word] } := by
  rw [cpabortBody, x.whole_acts _ _ ha, if_neg (by simp [hid])]
  rfl
end

/-- Settles O30: each body, once its checks pass, gives its one effect or result; the forms of an instruction have one body. -/
theorem copyInstructions : Obligations.CopyInstructions := by
  refine ⟨fun _ => completes_body fun x hr ha => cpsetBody_acts (by rw [hr]; rfl) ha, fun _ i => completes_body fun x hr ha => ?cpset,
    fun _ => completes_body fun _ _ ⟨ha, hset, hview⟩ => cpgoBody_acts ha hset hview,
    fun _ _ => completes_body fun _ _ ⟨ha, hset, hview⟩ => cpgoBody_acts ha hset hview,
    fun _ => completes_body fun x hr ha => cpqfBody_acts (q := 0) (m := 0) (by rw [hr]; rfl) ha,
    fun _ _ _ => completes_body fun x hr ha => cpqfBody_acts (by rw [hr]; rfl) ha,
    fun _ => completes_body fun _ _ ⟨ha, hid⟩ => cpstatBody_acts ha hid, fun _ _ => completes_body fun _ _ ⟨ha, hid⟩ => cpstatBody_acts ha hid,
    fun _ => completes_body fun _ _ ⟨ha, hid⟩ => cpabortBody_acts ha hid⟩
  case cpset =>
    have hi := i.isLt
    have hw : x.raw.w2 = i.setWidth 32 := by rw [hr]; rfl
    exact cpsetBody_acts (by rw [hw, BitVec.toNat_setWidth]; omega) ha

end Sys2Proof.Machine
end

-- ==== Proofs: row locks and launches as they fire ====
section
/-! SUPPORT. Structures read at their pointers, rows that translate and are locked, and PLOCK, PUNLOCK, PLAUNCH, PFENCE and PSTAT as they fire (R241, R243,
R244, R246 to R249, R251, R252, R254, R316; O28). -/
set_option Elab.async false
namespace Sys2Proof.Machine

/-! Structures (R241, R315). -/
section
variable {x : Firing}

/-- As `reads_gives`, where a fault would name a pointer of its own. -/
theorem Firing.reads_gives_at {a : Word} {n : Nat} {b : Time} {l : List Byte} (h : x.readsGive a n b l) (go : List Byte → Fired) (p : Option Word) :
    x.reads a n b go p = go l := by
  obtain ⟨hheld, hlower, hpeek⟩ := h
  simp [Firing.reads, hheld, hlower, hpeek]

theorem Firing.structAt_gives {a : Word} {align n : Nat} {l : List Byte} (h : x.structGives a align n l) (go : List Byte → Fired) :
    x.structAt a align n go = (go l).served x a n x.thread.floor := by
  obtain ⟨hglobal, halign, hread⟩ := h
  rw [Firing.structAt, Firing.streamPtr_aligned hglobal halign]
  exact Firing.reads_gives_at hread _ _

theorem Firing.descAt_gives {a : Word} {l : List Byte} {r : Region'} (h : x.descGives a l r) (go : Desc → Region' → Fired) :
    x.descAt a go = (go (descOf l) r).served x a 64 x.thread.floor := by
  obtain ⟨hstruct, hreserved, hregion⟩ := h
  rw [Firing.descAt, Firing.structAt_gives hstruct, if_neg (by simp [hreserved]), hregion]

/-! Rows (R248, R261, R316). -/
theorem Firing.rowsOk_passes {d : Desc} {r : Region'} {rows : List ((Nat × Nat) × RowUse)}
    (hheld : rows.any (fun e => x.st.rowWalkHeld x.who (d.va r e.1.1 e.1.2)) = false)
    (hfault : rows.findSome? (fun e => x.rowFault d r e.2 e.1) = none) (go : Fired) : x.rowsOk d r rows go = go := by
  rw [Firing.rowsOk, if_neg (by simp [hheld]), hfault]

/-- Rows that are all touched in one way. -/
theorem Firing.rowsOk_use {d : Desc} {r : Region'} {pairs : List (Nat × Nat)} {use : RowUse}
    (hheld : pairs.any (fun e => x.st.rowWalkHeld x.who (d.va r e.1 e.2)) = false)
    (hfault : pairs.findSome? (fun e => x.rowFault d r use e) = none) (go : Fired) : x.rowsOk d r (pairs.map (fun e => (e, use))) go = go :=
  Firing.rowsOk_passes (by rw [List.any_map]; exact hheld) (by rw [List.findSome?_map]; exact hfault) go

theorem Firing.locksOk_passes {d : Desc} {addr : Word} {writes reads : List (Nat × Nat)}
    (hwrites : ∀ e ∈ writes, x.st.holdsRow d.cluster x.party (d.sub e.1) e.2 true = true)
    (hreads : ∀ e ∈ reads, x.st.holdsRow d.cluster x.party (d.sub e.1) e.2 false = true) (go : Fired) : x.locksOk d addr writes reads go = go := by
  have hw : writes.find? (fun e => !x.st.holdsRow d.cluster x.party (d.sub e.1) e.2 true) = none :=
    List.find?_eq_none.2 fun e he => by simp [hwrites e he]
  have hr : reads.find? (fun e => !x.st.holdsRow d.cluster x.party (d.sub e.1) e.2 false) = none :=
    List.find?_eq_none.2 fun e he => by simp [hreads e he]
  rw [Firing.locksOk, hw, hr]

/-! PLOCK and PUNLOCK (R243, R244, R246). -/
/-- A range that passes R243, and whose rows translate, is left to what is done with it. -/
theorem Firing.lockRange_gives {l : List Byte} {r : Region'} {use : RowUse} (h : x.lockGives l r use) (go : Desc → Region' → Fired) :
    x.lockRange go = (go (descOf l) r).served x x.a.word 64 x.thread.floor := by
  obtain ⟨hdesc, hrange, -, -⟩ := h
  rw [Firing.lockRange, Firing.descAt_gives hdesc, hrange]

theorem Firing.rowsOk_lock {l : List Byte} {r : Region'} {use : RowUse} (h : x.lockGives l r use) (go : Fired) :
    x.rowsOk (descOf l) r ((rangePairs x.b.word).map (fun e => (e, use))) go = go := by
  obtain ⟨-, -, hheld, hfault⟩ := h
  exact Firing.rowsOk_use hheld hfault go

theorem plockBody_gives {l : List Byte} {r : Region'} {wr tries : Bool} (hwr : plockWr x = wr) (htries : plockTry x = tries) (ha : Acts x)
    (h : x.lockGives l r (if wr then .write else .read)) (hpending : x.st.lockPending x.party = false)
    (hroom : x.st.rangesHeld x.party + x.locksInBlock < 16) :
    plockBody x = .give (x.readAt x.st x.a.word 64 x.thread.floor)
      { main := some (.deferred x.slot 0), effs := [.plock (rangeRuns (descOf l) r x.b.word) wr tries (descOf l).cluster x.a.word x.b.word] } := by
  subst hwr htries
  rw [plockBody, x.whole_acts _ _ ha, if_neg (by simp [hpending]), Firing.lockRange_gives h, if_neg (by omega), Firing.rowsOk_lock h,
    Firing.deferring_acts ha]
  rfl

theorem punlockBody_gives {l : List Byte} {r : Region'} (ha : Acts x) (h : x.lockGives l r .bare) :
    punlockBody x = .give (x.readAt x.st x.a.word 64 x.thread.floor) { effs := [.punlock (rangeRuns (descOf l) r x.b.word)] } := by
  rw [punlockBody, x.whole_acts _ _ ha, Firing.lockRange_gives h, Firing.rowsOk_lock h, Firing.effect, x.whole_acts _ _ ha]
  rfl

/-- PLOCK's mode and TRY are the low bits of word 2. -/
theorem plockFlags_of {wr tries : Bool} (hw : x.raw.w2 = BitVec.ofNat 32 (encBool wr + 2 * encBool tries)) : plockWr x = wr ∧ plockTry x = tries := by
  rw [plockWr, plockTry, hw]
  clear hw
  revert wr tries
  decide

/-! PLAUNCH (R247, R248, R254). -/
/-- An image is read 64 bytes at a time: each read asks for more until the n-th, which completes the image. What the reads leave is what the homes leave
that serve the n-th, and then those before it. -/
theorem Firing.imageAt_gives {a : Word} {pars : List Word32} {go : List Word32 → QWalk → Fired} {n : Nat} {ws : List Word32} {w : QWalk} {s : State} {o : Out}
    (himage : ∀ k, 1 ≤ k → k ≤ n → ∃ l, x.structGives a 64 (64 * k) l ∧
      (if k = n then ws = wordsFrom (16 * n) l ∧ checkImage ws pars = .done w ∧ worstOffence w.offences = none
       else checkImage (wordsFrom (16 * k) l) pars = .more))
    (hgo : go ws w = .give s o) : ∀ (j k fuel : Nat), k + j = n → 1 ≤ k → j < fuel →
    ∃ u, x.imageAt a pars go fuel k = .give u o ∧ x.imageRead u a x.thread.floor (k - 1) = x.imageRead s a x.thread.floor n := by
  intro j
  induction j with
  | zero =>
    intro k fuel hn hk hfuel
    obtain rfl : k = n := hn
    obtain ⟨fuel, rfl⟩ := Nat.exists_eq_add_of_lt hfuel
    obtain ⟨l, hl, hlast⟩ := himage k hk le_rfl
    obtain ⟨hws, hdone, hclean⟩ := (if_pos rfl).mp hlast
    obtain ⟨k, rfl⟩ := Nat.exists_eq_add_of_le' hk
    refine ⟨x.readAt s a (64 * (k + 1)) x.thread.floor, ?_, rfl⟩
    rw [Nat.zero_add, Firing.imageAt, Firing.structAt_gives hl]
    simp only [← hws, hdone, hclean, hgo]
    rfl
  | succ j ih =>
    intro k fuel hn hk hfuel
    obtain ⟨fuel, rfl⟩ : ∃ f, fuel = f + 1 := ⟨fuel - 1, by omega⟩
    obtain ⟨l, hl, hmore⟩ := himage k hk (by omega)
    obtain ⟨u, hu, hread⟩ := ih (k + 1) fuel (by omega) (by omega) (by omega)
    obtain ⟨k, rfl⟩ := Nat.exists_eq_add_of_le' hk
    refine ⟨x.readAt u a (64 * (k + 1)) x.thread.floor, ?_, hread⟩
    have hnext : checkImage (wordsFrom (16 * (k + 1)) l) pars = .more := (if_neg (by omega)).mp hmore
    rw [Firing.imageAt, Firing.structAt_gives hl]
    simp only [hnext, hu]
    rfl

/-- A whole image, within the 32 reads that it may take. -/
theorem Firing.imageAt_whole {a : Word} {pars : List Word32} {go : List Word32 → QWalk → Fired} {n : Nat} {ws : List Word32} {w : QWalk} {s : State} {o : Out}
    (himage : 1 ≤ n ∧ n ≤ 32 ∧ ∀ k, 1 ≤ k → k ≤ n → ∃ l, x.structGives a 64 (64 * k) l ∧
      (if k = n then ws = wordsFrom (16 * n) l ∧ checkImage ws pars = .done w ∧ worstOffence w.offences = none
       else checkImage (wordsFrom (16 * k) l) pars = .more))
    (hgo : go ws w = .give s o) : x.imageAt a pars go 32 1 = .give (x.imageRead s a x.thread.floor n) o := by
  obtain ⟨hone, hmax, himage⟩ := himage
  obtain ⟨u, hu, hread⟩ := Firing.imageAt_gives himage hgo (n - 1) 1 32 (by omega) le_rfl (by omega)
  rw [hu, ← hread]
  rfl

theorem plaunchBody_gives {bl dl : List Byte} {r : Region'} {n : Nat} {ws : List Word32} {w : QWalk} (ha : Acts x) (h : x.launchGives bl dl r n ws w) :
    plaunchBody x = .give (x.readAt (x.readAt (x.readAt (x.imageRead x.st x.a.word x.thread.floor n) (bindingOf bl).desc 64 x.thread.floor)
        x.b.word 64 x.thread.floor) x.a.word 64 x.thread.floor)
      { main := some (.deferred x.slot 0), effs := [.plaunch (x.launchOf bl dl r ws w)] } := by
  obtain ⟨hpending, ⟨l, hl⟩, hbinding, hbad, hdesc, hsize, himage, hreach, hheld, hfault, hwrites, hreads⟩ := h
  have hwalks : ((launchWrites bl w).map (fun e => (e, RowUse.write)) ++ (launchReads bl w).map (fun e => (e, RowUse.read))).any
      (fun e => x.st.rowWalkHeld x.who ((descOf dl).va r e.1.1 e.1.2)) = false := by
    simpa [List.any_append, List.any_map, Function.comp_def] using hheld
  rw [plaunchBody, x.whole_acts _ _ ha, if_neg (by simp [hpending]), Firing.structAt_gives hl, Firing.structAt_gives hbinding]
  dsimp only
  rw [if_neg (by simp [hbad]), Firing.descAt_gives hdesc, if_neg (by omega)]
  rw [Firing.imageAt_whole (s := x.st) (o := { main := some (.deferred x.slot 0), effs := [.plaunch (x.launchOf bl dl r ws w)] }) himage ?go]
  case go =>
    rw [if_neg (by simp [hreach])]
    refine (Firing.rowsOk_passes hwalks hfault _).trans ?_
    exact (Firing.locksOk_passes hwrites hreads _).trans (Firing.deferring_acts ha _)
  rfl

/-! PFENCE and PSTAT (R249, R251, R252). -/
theorem pfenceBody_done {o : FieldOp} {w : Word} (ha : Acts x) (hhandle : handleFault x x.a.word = none) (hop : x.st.opOf x.a.word = some o)
    (hdone : o.state = .done) (hw : o.witness = some w) : pfenceBody x = .give (x.st.raiseHorizonW x.tile w) (scalarOut w) := by
  rw [pfenceBody, x.whole_acts _ _ ha]
  simp only [hhandle, hop, hdone, hw]
  rfl

theorem pfenceBody_gone (ha : Acts x) (hhandle : handleFault x x.a.word = none) (hop : x.st.opOf x.a.word = none) :
    pfenceBody x = .give (x.st.raiseHorizonW x.tile (optWitness (x.st.cluster (handleCluster x.a.word)).planeHorizon))
      (scalarOut (optWitness (x.st.cluster (handleCluster x.a.word)).planeHorizon)) := by
  rw [pfenceBody, x.whole_acts _ _ ha]
  simp only [hhandle, hop]
  rfl

theorem pstatBody_op (hw : x.raw.w2 = BitVec.ofNat 32 (encBool false)) (ha : Acts x) (hhandle : handleFault x x.a.word = none) :
    pstatBody x = .give x.st (scalarOut (opStatus (x.st.opOf x.a.word))) := by
  rw [pstatBody, x.whole_acts _ _ ha, hw, getLsbD_encBool, if_neg Bool.false_ne_true, hhandle]
  rfl

theorem pstatBody_bank {l : Loc} {p : Place} (hw : x.raw.w2 = BitVec.ofNat 32 (encBool true)) (ha : Acts x) (hglobal : x.a.word.extractLsb' 56 8 = 0)
    (hacc : x.access .read true 1 1 0 (.inside ⟨.global, x.a.word.toNat⟩) = .ok 0 l) (hplace : x.st.place l.key = some p) :
    pstatBody x = .give x.st (scalarOut (x.st.bankStatus p)) := by
  have hbits : bitsAt x.a.word 56 8 = 0 := (extractLsb'_eq_iff x.a.word 56 8 0).1 hglobal
  rw [pstatBody, x.whole_acts _ _ ha, hw, getLsbD_encBool, if_pos rfl, pstatBank, if_neg (by simp [hbits]), Firing.swept_ok (sweep_ok hacc)]
  simp only [hplace]
  rfl
end

/-! What the reads leave of the firing's block. -/
section
variable {s t : State} {x : Firing}

theorem Firing.stands_raiseHorizonW (h : x.stands s) (tile : Nat) (w : Word) : x.stands (s.raiseHorizonW tile w) := by
  unfold State.raiseHorizonW
  split
  · exact Firing.stands_serves h ⟨rfl, rfl⟩
  · exact h

theorem Firing.stands_imageRead (a : Word) (b : Time) : ∀ (n : Nat) (s : State), x.stands s → x.stands (x.imageRead s a b n) := by
  intro n
  induction n with
  | zero => exact fun _ h => h
  | succ n ih => exact fun s h => ih _ (Firing.stands_readAt h _ _ _)

/-- After a launch's reads: its image, its binding and its descriptor. -/
theorem Firing.stands_launch (h : x.stands s) (n : Nat) (desc : Word) (b : Time) :
    x.stands (x.readAt (x.readAt (x.readAt (x.imageRead s x.a.word b n) desc 64 b) x.b.word 64 b) x.a.word 64 b) :=
  Firing.stands_readAt (Firing.stands_readAt (Firing.stands_readAt (Firing.stands_imageRead _ _ n _ h) _ _ _) _ _ _) _ _ _
end

/-- Settles O28: each structure is read where it stands, the rows translate and are locked, and the body leaves its one effect or result. -/
theorem planeLocksAndLaunches : Obligations.PlaneLocksAndLaunches := by
  refine ⟨fun b l r => completesWith_stands (body := plockBody) (fun x hr _ ⟨ha, h, hpending, hroom⟩ => ?plock) fun x hx => Firing.stands_readAt hx _ _ _,
    fun b e wr tries l r => completesWith_stands (body := plockBody) (fun x hr _ ⟨ha, h, hpending, hroom⟩ => ?plockExt) fun x hx => Firing.stands_readAt hx _ _ _,
    fun p l r => completesWith_stands (fun x _ _ ⟨ha, h⟩ => punlockBody_gives ha h) fun x hx => Firing.stands_readAt hx _ _ _,
    fun b bl dl r n ws w => completesWith_stands (fun x _ _ ⟨ha, h⟩ => plaunchBody_gives ha h) fun x hx => Firing.stands_launch hx _ _ _,
    fun b e bl dl r n ws w => completesWith_stands (fun x _ _ ⟨ha, h⟩ => plaunchBody_gives ha h) fun x hx => Firing.stands_launch hx _ _ _,
    fun b o w => completesWith_stands (fun x _ _ ⟨ha, hhandle, hop, hdone, hw⟩ => pfenceBody_done ha hhandle hop hdone hw)
      fun x hx => Firing.stands_raiseHorizonW hx _ _,
    fun b => completesWith_stands (fun x _ _ ⟨ha, hhandle, hop⟩ => pfenceBody_gone ha hhandle hop) fun x hx => Firing.stands_raiseHorizonW hx _ _,
    fun b e o w => completesWith_stands (fun x _ _ ⟨ha, hhandle, hop, hdone, hw⟩ => pfenceBody_done ha hhandle hop hdone hw)
      fun x hx => Firing.stands_raiseHorizonW hx _ _,
    fun b e => completesWith_stands (fun x _ _ ⟨ha, hhandle, hop⟩ => pfenceBody_gone ha hhandle hop) fun x hx => Firing.stands_raiseHorizonW hx _ _,
    fun b => completes_body fun x hr ⟨ha, hhandle⟩ => pstatBody_op (by rw [hr]; rfl) ha hhandle,
    fun b e => completes_body fun x hr ⟨ha, hhandle⟩ => pstatBody_op (by rw [hr]; rfl) ha hhandle,
    fun b e l p => completes_body fun x hr ⟨ha, hglobal, hacc, hplace⟩ => pstatBody_bank (by rw [hr]; rfl) ha hglobal hacc hplace⟩
  case plock =>
    obtain ⟨hwr, htries⟩ := plockFlags_of (x := x) (wr := false) (tries := false) (by rw [hr]; rfl)
    exact plockBody_gives hwr htries ha h hpending hroom
  case plockExt =>
    obtain ⟨hwr, htries⟩ := plockFlags_of (x := x) (wr := wr) (tries := tries) (by rw [hr]; rfl)
    exact plockBody_gives hwr htries ha h hpending hroom

end Sys2Proof.Machine
end

-- ==== Proofs: the plane port as it fires ====
section
/-! SUPPORT. VLDP and VSTP past the checks of a plane reference (R170, R172, R261 to R263, R316; O29). -/
set_option Elab.async false
namespace Sys2Proof.Machine

section
variable {s t : State} {x : Firing}

/-! The reference (R261, R315, R316). -/
/-- The set that a plane reference names holds its elements, and its format theirs: the checks of R261 whose TINFO are 2, 3, 4 and 5. -/
theorem Firing.planeRef_gives {f : Fmt} {write : Bool} {live : List Nat} {p : Ptr} {rl dl : List Byte} {r : Region'}
    (h : x.planeGives f write live p rl dl r) (go : Word → PlaneRef → Desc → Region' → List (Nat × Nat) → Fired) :
    x.planeRef f write live go = ((go p.encode (refOf rl) (descOf dl) r (planePairs (refOf rl) x.vl live)).served x (refOf rl).desc 64 x.thread.floor).served
      x p.encode 16 x.thread.floor := by
  obtain ⟨hbase, href, hreserved, hlegal, hdesc, hfits, hheld, hfault, hlocks⟩ := h
  have hsize : ¬(decide (x.vl ≠ 0) && decide ((descOf dl).size * 8192 < (refOf rl).first + x.vl)) = true := by
    simpa using fun hvl => (hfits hvl).1
  have hwindow : ¬(decide (x.vl ≠ 0) && !(descOf dl).inWindow (refOf rl).row (refOf rl).width) = true := by
    simpa using fun hvl => (hfits hvl).2.1
  have hformat : ¬(decide (x.vl ≠ 0) && (decide (f.width < (refOf rl).width) || ((refOf rl).tern && !f.signed))) = true := by
    simpa using fun hvl => (hfits hvl).2.2
  have hrows (go : Fired) : x.rowsOk (descOf dl) r ((planePairs (refOf rl) x.vl live).map (fun e => (e, if write then RowUse.write else RowUse.read)))
      (x.locksOk (descOf dl) p.encode (if write then planePairs (refOf rl) x.vl live else []) (if write then [] else planePairs (refOf rl) x.vl live) go) = go := by
    refine (Firing.rowsOk_use hheld hfault _).trans (Firing.locksOk_passes ?_ ?_ go)
    · cases write with
      | false => simp
      | true => exact hlocks
    · cases write with
      | false => exact hlocks
      | true => simp
  rw [Firing.planeRef, hbase]
  dsimp only
  rw [Firing.structAt_gives href, if_neg (by simp [hreserved]), Firing.descAt_gives hdesc, if_neg hsize, if_neg hwindow, if_neg (by simp [hlegal]),
    if_neg hformat]
  exact congrArg (fun k : Fired => (k.served x _ 64 _).served x _ 16 _) (hrows _)

/-! VLDP (R262). -/
theorem vldpBody_gives {b : BForm} {m : MWord} {tag : BitVec 16} {p : Ptr} {rl dl : List Byte} {r : Region'}
    (hr : x.raw = ⟨.vldp, .m b m (some (tag.setWidth 64))⟩) (ht : x.typed = true) (hl : x.laned) (hg : x.given)
    (hroom : x.vl ≤ capacity x.thread.vlmax (tagWidth tag)) (hw : x.wOk) (hp : x.planeGives (fmtOf (tagFmt tag)) false x.accessed p rl dl r)
    (hrows : x.rowsReadable (refOf rl) (descOf dl) r) :
    vldpBody x = .give (x.readAt (x.readAt (x.afterRows (refOf rl) (descOf dl) r) (refOf rl).desc 64 x.thread.floor) p.encode 16 x.thread.floor)
      { main := some (.vector tag ((List.range x.vl).map (fun e => if x.p.on e then some (planeElem (descOf dl) (refOf rl) (fmtOf (tagFmt tag))
          (x.rowsRead (refOf rl) (descOf dl) r).2.1 ((refOf rl).first + e)) else none)) [] []),
        alt := if m.rw then some (.scalar (optWitness (x.rowsRead (refOf rl) (descOf dl) r).2.2)) else none } := by
  obtain ⟨herror, hceiling, hbelow, hown, holder, hlocked, hgate⟩ := hrows
  have htag : (x.raw.lit.getD 0).setWidth 16 = tag := by
    have hlit : x.raw.lit = some (tag.setWidth 64) := by rw [hr]; rfl
    rw [hlit]
    simp
  have hrw : x.raw.mword.rw = m.rw := by rw [Firing.mword_of hr]
  have hceiling' : x.st.underCeiling (x.bound x.wTime) = true := hceiling
  have hgate' : ({ x.st with loads := x.st.loads.filter (fun l => !l.of x.tid x.serial x.slot) } : State).engineGate (some x.party) false .cached
      (((planePairs (refOf rl) x.vl x.accessed).flatMap (fun e => linesOf (x.rowKey (descOf dl) r e) 1024)).map (· * 128)) = none := hgate
  rw [vldpBody]
  dsimp only
  refine (Firing.vector_passes hl hg ht (by simp) (by rw [Firing.loadWidth, htag]; simpa using hroom) _).trans ?_
  rw [Firing.underC_ok hw, htag, Firing.planeRef_gives hp]
  simp only [herror, hbelow, hceiling', hown, holder, hlocked, hgate', hrw, Bool.not_true, Bool.or_self, Bool.false_eq_true, if_false]
  rfl

/-! VSTP (R263). -/
theorem vstpBody_gives {p : Ptr} {rl dl : List Byte} {r : Region'} (ht : x.typed = true) (hl : x.laned) (hg : x.given) (hw : x.wOk)
    (hb : x.fine x.b isInt false) (hsome : (List.range x.vl).filter x.active ≠ [])
    (hp : x.planeGives x.b.vec.fmt true ((List.range x.vl).filter x.active) p rl dl r) :
    vstpBody x = .give (x.readAt (x.readAt x.st (refOf rl).desc 64 x.thread.floor) p.encode 16 x.thread.floor)
      { main := some (.deferred x.slot 0),
        effs := [.planes (lsidNo x.raw) ((planePairs (refOf rl) x.vl ((List.range x.vl).filter x.active)).map
          (x.rowWrite (refOf rl) (descOf dl) r ((List.range x.vl).filter x.active))) x.wTime] } := by
  refine (Firing.vector_passes (reqs := [x.storeReq 1 x.b isInt false]) (widths := []) hl hg ht
    (by simpa using Firing.storeReq_passes hb 1) (by simp) _).trans ?_
  rw [Firing.underC_ok hw]
  dsimp only
  rw [Firing.planeRef_gives hp, if_neg (by simpa using hsome)]
  rfl
end

/-! What the reads leave of the firing's block. -/
section
variable {s : State} {x : Firing}

/-- What is gathered beside the device does not matter. -/
theorem State.servesOnly_gathered {α : Type} {y : State × Option Time} (h : s.servesOnly y.1) (r : α) :
    s.servesOnly ((y.1, r, y.2) : State × α × Option Time).1 := h

/-- Rows are read at their homes, which leave the block as it was. -/
theorem Firing.servesOnly_readRows (x : Firing) (d : Desc) (r : Region') (b : Time) (pairs : List (Nat × Nat)) :
    x.st.servesOnly (x.readRows d r b pairs).1 := by
  unfold Firing.readRows
  refine List.foldlRecOn (motive := fun y : State × List (Nat × Nat × BitVec 8192) × Option Time => x.st.servesOnly y.1) _ _ x.st.servesOnly_refl ?_
  intro y hy e _
  exact State.servesOnly_gathered (State.servesOnly_trans hy (servesOnly_serveLines ..)) _

theorem Firing.stands_afterRows (h : x.stands x.st) (q : PlaneRef) (d : Desc) (r : Region') : x.stands (x.afterRows q d r) := by
  have hcleared : x.st.servesOnly x.cleared := ⟨rfl, rfl⟩
  have hread : x.stands (x.rowsRead q d r).1 :=
    Firing.stands_serves h (State.servesOnly_trans hcleared (Firing.servesOnly_readRows { x with st := x.cleared } d r _ _))
  refine Firing.stands_updBlock ?_ (fun _ => rfl) fun _ => rfl
  split
  · exact Firing.stands_serves hread ⟨rfl, rfl⟩
  · exact hread
end

/-- Settles O29: past the checks of its reference, VLDP gives the elements of the rows that it reads, VSTP leaves its rows' lanes and bits. -/
theorem planePortInstructions : Obligations.PlanePortInstructions := by
  refine ⟨fun b m tag p rl dl r => completesWith_stands
      (fun x hr ht ⟨hl, hg, hroom, hw, hp, hrows⟩ => vldpBody_gives hr ht hl hg hroom hw hp hrows)
      fun x hx => Firing.stands_readAt (Firing.stands_readAt (Firing.stands_afterRows hx _ _ _) _ _ _) _ _ _,
    fun b m p rl dl r => completesWith_stands (body := vstpBody) (fun x hr ht ⟨hl, hg, hw, hb, hsome, hp⟩ => ?vstp)
      fun x hx => Firing.stands_readAt (Firing.stands_readAt hx _ _ _) _ _ _⟩
  case vstp => rw [vstpBody_gives ht hl hg hw hb hsome hp, Firing.lsid_of hr]

end Sys2Proof.Machine
end

-- ==== Proofs: what homes leave of clusters and tiles ====
section
/-! SUPPORT. Serving lines at their homes leaves each cluster's maps, locks and ops, and each tile's copy queues (R249, R281, R285, R290, R292, R294, R308,
R428, R435; O38, O39, O41). -/
set_option Elab.async false
namespace Sys2Proof.Machine

/-! Clusters. -/
/-- Nothing of a cluster changes but what its slice and its RDC hold, and its log. -/
def Cluster.keeps (k m : Cluster) : Prop :=
  m = { k with mts := m.mts, lru := m.lru, rdc := m.rdc, log := m.log, logged := m.logged, dropped := m.dropped }
/-- So of every cluster. -/
def State.keepsClusters (s t : State) : Prop := ∀ n, (s.cluster n).keeps (t.cluster n)

section
variable {k m p : Cluster} {s t u : State}

theorem Cluster.keeps_refl (k : Cluster) : k.keeps k := rfl
theorem Cluster.keeps_trans (h : k.keeps m) (g : m.keeps p) : k.keeps p := by
  unfold Cluster.keeps at *
  refine g.trans ?_
  rw [h]

theorem Cluster.keeps.ops (h : k.keeps m) : m.ops = k.ops := (congrArg Cluster.ops h :)
theorem Cluster.keeps.locks (h : k.keeps m) : m.locks = k.locks := (congrArg Cluster.locks h :)
theorem Cluster.keeps.lockReqs (h : k.keeps m) : m.lockReqs = k.lockReqs := (congrArg Cluster.lockReqs h :)
theorem Cluster.keeps.il (h : k.keeps m) : m.il = k.il := (congrArg Cluster.il h :)
theorem Cluster.keeps.remap (h : k.keeps m) : m.remap = k.remap := (congrArg Cluster.remap h :)

theorem Cluster.keeps_addRecord (k : Cluster) (r : List Word) : k.keeps (k.addRecord r) := by
  unfold Cluster.addRecord
  split <;> rfl

theorem State.keepsClusters_refl (s : State) : s.keepsClusters s := fun n => (s.cluster n).keeps_refl
theorem State.keepsClusters_trans (h : s.keepsClusters t) (g : t.keepsClusters u) : s.keepsClusters u := fun n => Cluster.keeps_trans (h n) (g n)
theorem State.keepsClusters_of_eq (h : t.clusters = s.clusters) : s.keepsClusters t := fun n => by
  rw [show t.cluster n = s.cluster n from congrArg (mget Cluster.start · n) h]
  exact Cluster.keeps_refl _
theorem State.keepsClusters_setCluster {n : Nat} {c : Cluster} (h : (s.cluster n).keeps c) : s.keepsClusters (s.setCluster n c) := fun j => by
  by_cases hj : j = n
  · subst hj
    rwa [State.setCluster_cluster_same]
  · rw [State.setCluster_cluster_other _ _ hj]
    exact Cluster.keeps_refl _
theorem State.keepsClusters_ite {c : Prop} [Decidable c] (h : s.keepsClusters t) (g : s.keepsClusters u) : s.keepsClusters (if c then t else u) := by
  split
  · exact h
  · exact g
end

/-! Clocks, counters, logs and requests. -/
theorem State.keepsClusters_raiseClockTo (s : State) (h : Nat) (t : Time) : s.keepsClusters (s.raiseClockTo h t) := State.keepsClusters_of_eq rfl
theorem State.keepsClusters_setLine (s : State) (l : Nat) (x : LineT) : s.keepsClusters (s.setLine l x) := State.keepsClusters_of_eq rfl

theorem State.keepsClusters_logRecord (s : State) (c cls action unit whereW addr info : Nat) :
    s.keepsClusters (s.logRecord c cls action unit whereW addr info) := State.keepsClusters_setCluster (Cluster.keeps_addRecord _ _)

theorem State.keepsClusters_alert (s : State) (bank row : Nat) : s.keepsClusters (s.alert bank row) :=
  State.keepsClusters_ite s.keepsClusters_refl (State.keepsClusters_of_eq rfl)

theorem State.keepsClusters_count (s : State) (bank row : Nat) : s.keepsClusters (s.count bank row) :=
  State.keepsClusters_ite (State.keepsClusters_trans (t := s.setCounter bank row _) (State.keepsClusters_of_eq rfl) (State.keepsClusters_alert _ _ _))
    (State.keepsClusters_of_eq rfl)

theorem State.keepsClusters_activate (s : State) (bank row : Nat) : s.keepsClusters (s.activate bank row) := by
  have hlogged : s.keepsClusters ((s.logCode bank row).setCode bank row .ok) :=
    State.keepsClusters_trans (s.keepsClusters_logRecord _ _ _ _ _ _ _) (State.keepsClusters_of_eq rfl)
  unfold State.activate
  split
  · exact s.keepsClusters_count _ _
  · exact State.keepsClusters_trans hlogged (State.keepsClusters_count _ _ _)
  · exact State.keepsClusters_trans hlogged (State.keepsClusters_trans
      (t := ((s.logCode bank row).setCode bank row .ok).setCounter bank row (s.cluster (clusterOfBank bank)).mth) (State.keepsClusters_of_eq rfl)
      (State.keepsClusters_alert _ _ _))

theorem State.keepsClusters_activateLine (s : State) (l : Nat) : s.keepsClusters (s.activateLine l) := by
  unfold State.activateLine
  split
  · exact s.keepsClusters_activate _ _
  · exact s.keepsClusters_refl

theorem State.keepsClusters_askDram (s : State) (l : Nat) (what : DramWhat) : s.keepsClusters (s.askDram l what) := by
  unfold State.askDram
  split
  · exact s.keepsClusters_refl
  · exact State.keepsClusters_ite s.keepsClusters_refl (State.keepsClusters_of_eq rfl)

theorem State.keepsClusters_writeBack (s : State) (l : Nat) : s.keepsClusters (s.writeBack l) :=
  State.keepsClusters_ite (s.keepsClusters_askDram _ _) (s.keepsClusters_activateLine _)

theorem State.keepsClusters_logLine (s : State) (cls line : Nat) : s.keepsClusters (s.logLine cls line) := by
  unfold State.logLine
  split
  · exact s.keepsClusters_logRecord _ _ _ _ _ _ _
  · exact s.keepsClusters_refl

/-! Lines that leave a slice, or come into it. -/
theorem State.keepsClusters_sliceError (s : State) (c l : Nat) (dirty : Bool) : s.keepsClusters (s.sliceError c l dirty) := by
  have hlogged := s.keepsClusters_logRecord c 5 0 0 0 (l * 128) 0
  exact State.keepsClusters_ite (State.keepsClusters_trans hlogged (State.keepsClusters_trans
    (t := (s.logRecord c 5 0 0 0 (l * 128) 0).setErr l .poisoned) (State.keepsClusters_of_eq rfl) (State.keepsClusters_logLine _ _ _))) hlogged

theorem State.keepsClusters_evictLines (c : Nat) : ∀ (l : List Nat) (s : State), s.keepsClusters (s.evictLines c l) := by
  intro l
  induction l with
  | nil => exact State.keepsClusters_refl
  | cons k r ih =>
    intro s
    unfold State.evictLines
    refine State.keepsClusters_ite ?_ (ih s)
    refine State.keepsClusters_trans ?_ (ih _)
    have hgone : s.keepsClusters (((s.setCluster c { s.cluster c with mts := serialMax (s.cluster c).mts (s.line k).rts }).raiseClockTo c
        (serialMax (s.cluster c).mts (s.line k).rts)).setLine k LineT.none) :=
      State.keepsClusters_trans (State.keepsClusters_trans (State.keepsClusters_setCluster (by exact rfl)) (State.keepsClusters_raiseClockTo _ _ _))
        (State.keepsClusters_setLine _ _ _)
    have hbad := State.keepsClusters_ite (c := (s.line k).bad = true)
      (State.keepsClusters_trans hgone (State.keepsClusters_sliceError _ c k (s.line k).dirty)) hgone
    exact State.keepsClusters_ite (State.keepsClusters_trans hbad (State.keepsClusters_writeBack _ _)) hbad

theorem State.keepsClusters_evict (s : State) (c sb : Nat) : s.keepsClusters (s.evict c sb) :=
  State.keepsClusters_trans (State.keepsClusters_evictLines c _ s) (State.keepsClusters_setCluster (by exact rfl))

theorem State.keepsClusters_dropLine (s : State) (c l : Nat) : s.keepsClusters (s.dropLine c l) :=
  State.keepsClusters_trans (State.keepsClusters_evictLines c [l] s)
    (State.keepsClusters_ite (State.keepsClusters_refl _) (State.keepsClusters_setCluster (by exact rfl)))

theorem State.keepsClusters_touch (s : State) (c sb : Nat) : s.keepsClusters (s.touch c sb) := by
  unfold State.touch
  refine State.keepsClusters_trans (State.keepsClusters_ite ?_ s.keepsClusters_refl) (State.keepsClusters_setCluster (by exact rfl))
  split
  · exact s.keepsClusters_evict _ _
  · exact s.keepsClusters_refl

theorem State.keepsClusters_fitSegs (c keep : Nat) : ∀ (n : Nat) (s : State), s.keepsClusters (s.fitSegs c keep n) := by
  intro n
  induction n with
  | zero => exact State.keepsClusters_refl
  | succ n ih =>
    intro s
    unfold State.fitSegs
    refine State.keepsClusters_ite s.keepsClusters_refl ?_
    split
    · exact State.keepsClusters_trans (s.keepsClusters_evict _ _) (ih _)
    · exact s.keepsClusters_refl

theorem State.keepsClusters_fillLine (s : State) (c l : Nat) (compress : Bool) : s.keepsClusters (s.fillLine c l compress) := by
  have htouch := s.keepsClusters_touch c (superblock l)
  exact State.keepsClusters_ite htouch (State.keepsClusters_trans htouch (State.keepsClusters_trans
    (State.keepsClusters_setLine _ _ _) (State.keepsClusters_fitSegs _ _ _ _)))

/-! Lines served. -/
theorem State.keepsClusters_scrubSram (s : State) (l : Nat) : s.keepsClusters (s.scrubSram l) := by
  unfold State.scrubSram
  split
  · exact State.keepsClusters_trans (t := s.setErr l .ok) (State.keepsClusters_of_eq rfl) (State.keepsClusters_logRecord _ _ _ _ _ _ _ _)
  · exact s.keepsClusters_logRecord _ _ _ _ _ _ _
  · exact s.keepsClusters_refl

theorem State.keepsClusters_scrubHeld (s : State) (h l : Nat) : s.keepsClusters (s.scrubHeld h l) :=
  State.keepsClusters_ite (State.keepsClusters_ite (s.keepsClusters_dropLine _ _) s.keepsClusters_refl) (s.keepsClusters_scrubSram _)

theorem State.keepsClusters_serveLoad (s : State) (h l : Nat) (b : Time) (lease : Option Nat) (nocache compress : Bool) :
    s.keepsClusters (s.serveLoad h l b lease nocache compress).st := by
  cases hs : isSlice h with
  | false =>
    simp only [State.serveLoad, hs, Bool.false_eq_true, if_false]
    exact s.keepsClusters_raiseClockTo _ _
  | true =>
    cases nocache with
    | true =>
      simp only [State.serveLoad, hs, if_true]
      exact State.keepsClusters_trans (s.keepsClusters_dropLine h l)
        (State.keepsClusters_trans (State.keepsClusters_setCluster (by exact rfl)) (State.keepsClusters_raiseClockTo _ _ _))
    | false =>
      simp only [State.serveLoad, hs, if_true, Bool.false_eq_true, if_false]
      exact State.keepsClusters_trans (s.keepsClusters_fillLine h l compress)
        (State.keepsClusters_trans (State.keepsClusters_setLine _ _ _) (State.keepsClusters_raiseClockTo _ _ _))

/-! Homes that serve. -/
/-- From `s` to `t` homes have served accesses: their lines, banks and logs have changed, the copies in L1 and RDC, and what waits on these; each cluster's
maps, locks and ops stand, and each tile's copy queues. -/
structure State.homesServe (s t : State) : Prop where
  rest : t = { s with agenda := t.agenda, lines := t.lines, clocks := t.clocks, clusters := t.clusters, banks := t.banks, err := t.err, counters := t.counters,
                      counterErr := t.counterErr, opened := t.opened, tiles := t.tiles, loads := t.loads, farLines := t.farLines, walkEnds := t.walkEnds,
                      hostQ := t.hostQ }
  clusters : s.keepsClusters t
  queues : ∀ n, (t.tile n).queues = (s.tile n).queues

section
variable {s t u : State}

theorem State.homesServe_refl (s : State) : s.homesServe s := ⟨rfl, s.keepsClusters_refl, fun _ => rfl⟩

theorem State.homesServe_trans (h : s.homesServe t) (k : t.homesServe u) : s.homesServe u := by
  obtain ⟨hrest, hclusters, hqueues⟩ := h
  obtain ⟨krest, kclusters, kqueues⟩ := k
  refine ⟨?_, State.keepsClusters_trans hclusters kclusters, fun n => (kqueues n).trans (hqueues n)⟩
  refine krest.trans ?_
  rw [hrest]

theorem State.homesServe_ite {c : Prop} [Decidable c] (h : s.homesServe t) (k : s.homesServe u) : s.homesServe (if c then t else u) := by
  split
  · exact h
  · exact k

theorem State.homesServe_foldl {α : Type} {f : State → α → State} (h : ∀ (t : State) a, t.homesServe (f t a)) (l : List α) (s : State) :
    s.homesServe (l.foldl f s) :=
  List.foldlRecOn l f s.homesServe_refl fun _ ht a _ => State.homesServe_trans ht (h _ a)

theorem State.homesOnly.serve (h : s.homesOnly t) (k : s.keepsClusters t) : s.homesServe t :=
  ⟨h.trans (by rw [h]), k, fun n => congrArg Tile.queues (h.tile n)⟩

theorem State.homesServe.threads (h : s.homesServe t) : t.threads = s.threads := (congrArg State.threads h.rest :)
theorem State.homesServe.thread (h : s.homesServe t) (n : Nat) : t.thread n = s.thread n := congrArg (mget Thread.absent · n) h.threads
theorem State.homesServe.mem (h : s.homesServe t) : t.mem = s.mem := (congrArg State.mem h.rest :)
theorem State.homesServe.stores (h : s.homesServe t) : t.stores = s.stores := (congrArg State.stores h.rest :)
theorem State.homesServe.trains (h : s.homesServe t) : t.trains = s.trains := (congrArg State.trains h.rest :)
theorem State.homesServe.groups (h : s.homesServe t) : t.groups = s.groups := (congrArg State.groups h.rest :)
theorem State.homesServe.saved (h : s.homesServe t) : t.saved = s.saved := (congrArg State.saved h.rest :)
theorem State.homesServe.specials (h : s.homesServe t) : t.specials = s.specials := (congrArg State.specials h.rest :)
theorem State.homesServe.stale (h : s.homesServe t) : t.stale = s.stale := (congrArg State.stale h.rest :)
theorem State.homesServe.peers (h : s.homesServe t) : t.peers = s.peers := (congrArg State.peers h.rest :)
theorem State.homesServe.cisterns (h : s.homesServe t) : t.cisterns = s.cisterns := (congrArg State.cisterns h.rest :)
theorem State.homesServe.copyQueue (h : s.homesServe t) (tile q : Nat) : t.copyQueue tile q = s.copyQueue tile q :=
  congrArg (mget CopyQueue.empty · q) (h.queues tile)
end

theorem State.homesServe_activate (s : State) (bank row : Nat) : s.homesServe (s.activate bank row) :=
  (s.homesOnly_activate bank row).serve (s.keepsClusters_activate bank row)

theorem State.homesServe_logLine (s : State) (cls line : Nat) : s.homesServe (s.logLine cls line) :=
  (s.homesOnly_logLine cls line).serve (s.keepsClusters_logLine cls line)

theorem State.homesServe_dropLine (s : State) (c l : Nat) : s.homesServe (s.dropLine c l) :=
  (s.homesOnly_dropLine c l).serve (s.keepsClusters_dropLine c l)

theorem State.homesServe_scrubHeld (s : State) (h l : Nat) : s.homesServe (s.scrubHeld h l) :=
  (s.homesOnly_scrubHeld h l).serve (s.keepsClusters_scrubHeld h l)

theorem State.homesServe_writeBack (s : State) (l : Nat) : s.homesServe (s.writeBack l) :=
  (s.homesOnly_writeBack l).serve (s.keepsClusters_writeBack l)

theorem State.homesServe_fitSegs (s : State) (c keep n : Nat) : s.homesServe (s.fitSegs c keep n) :=
  (State.homesOnly_fitSegs c keep n s).serve (State.keepsClusters_fitSegs c keep n s)

theorem State.homesServe_openLine (s : State) (l : Nat) : s.homesServe (s.openLine l) :=
  State.homesServe_ite ⟨rfl, State.keepsClusters_of_eq rfl, fun _ => rfl⟩ ((s.homesOnly_activateLine l).serve (s.keepsClusters_activateLine l))

theorem State.homesServe_setErr (s : State) (l : Nat) (m : ErrMark) : s.homesServe (s.setErr l m) := ⟨rfl, State.keepsClusters_of_eq rfl, fun _ => rfl⟩

theorem State.homesServe_correctLine (s : State) (l : Nat) : s.homesServe (s.correctLine l) := by
  unfold State.correctLine
  split
  · exact State.homesServe_trans (s.homesServe_setErr l .ok) (State.homesServe_logLine _ _ _)
  · exact s.homesServe_refl

theorem State.homesServe_meetBad (s : State) (l : Nat) : s.homesServe (s.meetBad l) := State.homesServe_ite (s.homesServe_logLine _ _) s.homesServe_refl

/-! Tiles: their horizons and their L1s (R285, R302, R308). -/
theorem State.queues_setTile {s : State} {n : Nat} {x : Tile} (h : x.queues = (s.tile n).queues) (j : Nat) :
    ((s.setTile n x).tile j).queues = (s.tile j).queues := by
  by_cases hj : j = n
  · subst hj
    rw [State.setTile_tile_same, h]
  · rw [State.setTile_tile_other _ _ hj]

theorem State.homesServe_setTile {s : State} {n : Nat} {x : Tile} (h : x.queues = (s.tile n).queues) : s.homesServe (s.setTile n x) :=
  ⟨rfl, State.keepsClusters_of_eq rfl, State.queues_setTile h⟩

theorem State.homesServe_setCluster {s : State} {n : Nat} {c : Cluster} (h : (s.cluster n).keeps c) : s.homesServe (s.setCluster n c) :=
  (s.homesOnly_setCluster n c).serve (State.keepsClusters_setCluster h)

theorem State.homesServe_loads (s : State) (l : List LoadReq) : s.homesServe { s with loads := l } := ⟨rfl, State.keepsClusters_of_eq rfl, fun _ => rfl⟩

theorem State.homesServe_packetBack (s : State) (tile h : Nat) : s.homesServe (s.packetBack tile h) :=
  State.homesServe_ite s.homesServe_refl (State.homesServe_setTile (by exact rfl))

theorem State.homesServe_dropOlderAt (s : State) (tile l : Nat) (w : Time) : s.homesServe (s.dropOlderAt tile l w) :=
  State.homesServe_trans (State.homesServe_setTile (by exact rfl)) (State.homesServe_trans (State.homesServe_setCluster (by exact rfl)) (State.homesServe_loads _ _))

theorem State.homesServe_storeDrops (s : State) (tile l : Nat) : s.homesServe (s.storeDrops tile l) :=
  State.homesServe_trans (State.homesServe_setTile (by exact rfl)) (State.homesServe_trans (State.homesServe_setCluster (by exact rfl)) (State.homesServe_loads _ _))

/-! Lines served for an engine, and lines written. -/
theorem State.homesServe_readied (s : State) (tile h l : Nat) (route : Route) : s.homesServe (s.readied tile h l route) := by
  have hpacket : s.homesServe (s.packetTo tile h) := (s.homesOnly_packetTo tile h).serve
    (State.keepsClusters_ite s.keepsClusters_refl (State.keepsClusters_of_eq rfl))
  have hscrubbed : s.homesServe ((s.packetTo tile h).scrubHeld h l) := State.homesServe_trans hpacket (State.homesServe_scrubHeld _ h l)
  exact State.homesServe_ite (State.homesServe_trans hscrubbed (State.homesServe_trans (State.homesServe_openLine _ l) (State.homesServe_correctLine _ l)))
    hscrubbed

theorem State.homesServe_served (s : State) (tile h l : Nat) (route : Route) (b : Time) (lease : Option Nat) (nocache compress : Bool) (w : Time) :
    s.homesServe ((((s.readied tile h l route).serveLoad h l b lease nocache compress).st.dropOlderAt tile l w).packetBack tile h) := by
  have hready := s.homesServe_readied tile h l route
  generalize s.readied tile h l route = u at hready ⊢
  have hload := (u.homesOnly_serveLoad h l b lease nocache compress).serve (u.keepsClusters_serveLoad h l b lease nocache compress)
  generalize (u.serveLoad h l b lease nocache compress).st = v at hload ⊢
  exact State.homesServe_trans (State.homesServe_trans hready hload)
    (State.homesServe_trans (v.homesServe_dropOlderAt tile l w) (State.homesServe_packetBack _ tile h))

theorem homesServe_serveLines (tile : Nat) (b : Time) (route : Route) (compress : Bool) : ∀ (l : List Nat) (s : State) (w : Option Time),
    s.homesServe (serveLines s tile b route compress l w).1 := by
  intro l
  induction l with
  | nil => intro s w; exact s.homesServe_refl
  | cons k r ih =>
    intro s w
    unfold serveLines
    split
    next h _ => exact State.homesServe_trans (s.homesServe_served tile h k route b none (route == .nocache) compress _) (ih _ _)
    next => exact ih s w

/-- What is served does not depend on the memory that stands beside it. -/
theorem State.homesServe_mem {s t : State} (h : s.homesServe t) (m : Memory) : ({ s with mem := m } : State).homesServe { t with mem := m } := by
  obtain ⟨hrest, hclusters, hqueues⟩ := h
  refine ⟨?_, hclusters, hqueues⟩
  exact (congrArg (fun t : State => ({ t with mem := m } : State)) hrest :)

/-- A write at a home leaves its cells in memory. -/
theorem State.homesServe_perform (s : State) (h l : Nat) (cells : List Host.Cell) (t : Time) (nocache compress : Bool) :
    ({ s with mem := writeCells s.mem cells } : State).homesServe (s.perform h l cells t nocache compress) := by
  have hfill : s.homesServe (if isSlice h then (if nocache then s.dropLine h l else s.fillLine h l compress) else s) :=
    State.homesServe_ite (State.homesServe_ite (s.homesServe_dropLine h l) ((s.homesOnly_fillLine h l compress).serve (s.keepsClusters_fillLine h l compress)))
      s.homesServe_refl
  unfold State.perform
  dsimp only
  rw [hfill.mem]
  refine State.homesServe_trans (State.homesServe_mem hfill (writeCells s.mem cells)) ?_
  generalize (if isSlice h then (if nocache then s.dropLine h l else s.fillLine h l compress) else s) = u
  refine State.homesServe_trans (State.homesServe_ite (State.homesServe_ite (State.homesServe_setCluster (by exact rfl)) ?_) ?_) ⟨rfl, State.keepsClusters_of_eq rfl, fun _ => rfl⟩
  · refine State.homesServe_trans (t := State.setLine _ l _) ⟨rfl, State.keepsClusters_of_eq rfl, fun _ => rfl⟩ (State.homesServe_fitSegs _ _ _ _)
  · exact ⟨rfl, State.keepsClusters_of_eq rfl, fun _ => rfl⟩

end Sys2Proof.Machine
end

-- ==== Proofs: rows and ops ====
section
/-! SUPPORT. What furrow words do to the rows of a subarray, and where they leave their op (R247, R250, R255, R321, R327; O39, O59). -/
set_option Elab.async false
namespace Sys2Proof.Machine

/-! Numbers in memory (R6). -/
theorem leNat_leBytes (n v : Nat) : leNat (leBytes n v) = v % 256 ^ n := by
  induction n generalizing v with
  | zero => simp [leBytes, leNat, Nat.mod_one]
  | succ n ih => rw [leBytes, leNat, ih, BitVec.toNat_ofNat, Nat.mod_mod, pow_succ', Nat.mod_mul]

theorem readNat_writeBytes_leBytes (m : Memory) (k n v : Nat) : readNat (writeBytes m k (leBytes n v)) k n = v % 256 ^ n := by
  have hread := readBytes_writeBytes (leBytes n v) m k
  rw [length_leBytes] at hread
  rw [readNat, hread, leNat_leBytes]

theorem ofNat_readNat_leBytes {w n : Nat} (hw : w = 8 * n) (m : Memory) (k : Nat) (v : BitVec w) :
    BitVec.ofNat w (readNat (writeBytes m k (leBytes n v.toNat)) k n) = v := by
  subst hw
  rw [readNat_writeBytes_leBytes, show 256 = 2 ^ 8 from rfl, ← pow_mul, Nat.mod_eq_of_lt v.isLt, BitVec.ofNat_toNat, BitVec.setWidth_eq]

theorem readBytes_congr {m p : Memory} : ∀ (n k : Nat), (∀ j, k ≤ j → j < k + n → readByte m j = readByte p j) → readBytes m k n = readBytes p k n
  | 0, _, _ => rfl
  | n + 1, k, h => by
    rw [readBytes, readBytes, h k le_rfl (by omega), readBytes_congr n (k + 1) fun j hj hn => h j (by omega) (by omega)]

/-- Setting many keys of a sparse map to one value. -/
theorem mget_foldl_mset {α ι : Type} [DecidableEq α] (d : α) (key : ι → Nat) (v : α) (l : List ι) (m : NMap α) (j : Nat) :
    mget d (l.foldl (fun m i => mset d m (key i) v) m) j = if j ∈ l.map key then v else mget d m j := by
  induction l generalizing m with
  | nil => rfl
  | cons i r ih =>
    rw [List.foldl_cons, ih, List.map_cons]
    by_cases hj : j = key i
    · simp [hj, mget_mset_same]
    · simp [hj, mget_mset_other]

/-! Ops. -/
theorem State.findOp_seq {s : State} {c seq : Nat} {o : FieldOp} (h : s.findOp c seq = some o) : o.seq = seq := by
  simpa using List.find?_some h

theorem State.findOp_updOp {s : State} {c seq : Nat} {o : FieldOp} {f : FieldOp → FieldOp} (h : s.findOp c seq = some o)
    (hf : ∀ p, p.seq = seq → (f p).seq = seq) : (s.updOp c seq f).findOp c seq = some (f o) := by
  have hseq : ((fun p : FieldOp => p.seq == seq) ∘ fun p => if p.seq = seq then f p else p) = fun p => p.seq == seq := by
    funext p
    by_cases hp : p.seq = seq
    · simp [hp, hf]
    · simp [hp]
  unfold State.findOp at h ⊢
  rw [State.updOp, State.setCluster_cluster_same, List.find?_map, hseq, h, Option.map_some, if_pos (State.findOp_seq h)]

theorem State.keepsClusters.findOp {s t : State} (h : s.keepsClusters t) (c seq : Nat) : t.findOp c seq = s.findOp c seq := by
  unfold State.findOp
  rw [(h c).ops]

/-! What a word reads and writes rows by. -/
/-- The rows stand: memory and its marks, the special rows and their owners; and the threads. -/
structure State.rowsStand (s t : State) : Prop where
  mem : t.mem = s.mem
  err : t.err = s.err
  specials : t.specials = s.specials
  keepOwner : t.keepOwner = s.keepOwner
  threads : t.threads = s.threads

theorem State.rowsStand_refl (s : State) : s.rowsStand s := ⟨rfl, rfl, rfl, rfl, rfl⟩
theorem State.rowsStand_trans {s t u : State} (h : s.rowsStand t) (k : t.rowsStand u) : s.rowsStand u :=
  ⟨k.mem.trans h.mem, k.err.trans h.err, k.specials.trans h.specials, k.keepOwner.trans h.keepOwner, k.threads.trans h.threads⟩
theorem State.rowsStand_ite {c : Prop} [Decidable c] {s t u : State} (h : s.rowsStand t) (k : s.rowsStand u) : s.rowsStand (if c then t else u) := by
  split
  · exact h
  · exact k
theorem State.rowsStand_foldl {α : Type} {f : State → α → State} (h : ∀ (t : State) a, t.rowsStand (f t a)) (l : List α) (s : State) :
    s.rowsStand (l.foldl f s) :=
  List.foldlRecOn l f s.rowsStand_refl fun _ ht a _ => State.rowsStand_trans ht (h _ a)

theorem State.rowsStand_alert (s : State) (bank row : Nat) : s.rowsStand (s.alert bank row) := State.rowsStand_ite s.rowsStand_refl ⟨rfl, rfl, rfl, rfl, rfl⟩

theorem State.rowsStand_count (s : State) (bank row : Nat) : s.rowsStand (s.count bank row) :=
  State.rowsStand_ite (State.rowsStand_trans (t := s.setCounter bank row _) ⟨rfl, rfl, rfl, rfl, rfl⟩ (State.rowsStand_alert _ _ _)) ⟨rfl, rfl, rfl, rfl, rfl⟩

theorem State.rowsStand_activate (s : State) (bank row : Nat) : s.rowsStand (s.activate bank row) := by
  have hlogged : s.rowsStand ((s.logCode bank row).setCode bank row .ok) := ⟨rfl, rfl, rfl, rfl, rfl⟩
  unfold State.activate
  split
  · exact s.rowsStand_count _ _
  · exact State.rowsStand_trans hlogged (State.rowsStand_count _ _ _)
  · exact State.rowsStand_trans hlogged (State.rowsStand_trans
      (t := ((s.logCode bank row).setCode bank row .ok).setCounter bank row (s.cluster (clusterOfBank bank)).mth) ⟨rfl, rfl, rfl, rfl, rfl⟩
      (State.rowsStand_alert _ _ _))

theorem State.rowsStand_countRows (s : State) (o : FieldOp) (e : Nat × Nat) (l : List (BitVec 10)) : s.rowsStand (s.countRows o e l) :=
  State.rowsStand_foldl (fun t _ => t.rowsStand_activate _ _) _ s
theorem State.keepsClusters_countRows (s : State) (o : FieldOp) (e : Nat × Nat) (l : List (BitVec 10)) : s.keepsClusters (s.countRows o e l) :=
  List.foldlRecOn _ _ s.keepsClusters_refl fun t ht _ _ => State.keepsClusters_trans ht (t.keepsClusters_activate _ _)

theorem State.rowsStand_setBank (s : State) (n : Nat) (b : Bank) : s.rowsStand (s.setBank n b) := ⟨rfl, rfl, rfl, rfl, rfl⟩
theorem State.rowsStand_setCluster (s : State) (n : Nat) (c : Cluster) : s.rowsStand (s.setCluster n c) := ⟨rfl, rfl, rfl, rfl, rfl⟩
theorem State.rowsStand_updOp (s : State) (c seq : Nat) (f : FieldOp → FieldOp) : s.rowsStand (s.updOp c seq f) := s.rowsStand_setCluster _ _
theorem State.rowsStand_stepped (s : State) (banks : List Nat) : s.rowsStand (s.stepped banks) := State.rowsStand_foldl (fun t _ => t.rowsStand_setBank _ _) _ s
theorem State.keepsClusters_stepped (s : State) (banks : List Nat) : s.keepsClusters (s.stepped banks) :=
  List.foldlRecOn _ _ s.keepsClusters_refl fun _ ht _ _ => State.keepsClusters_trans ht (State.keepsClusters_of_eq rfl)

/-! Rows read and written. -/
theorem State.sensed_of_ok {s : State} {pa : Nat} (h : ∀ i, i < 8 → s.errOf (pa / 128 + i) = .ok) :
    s.sensed pa = BitVec.ofNat 8192 (readNat s.mem pa 1024) := by
  unfold State.sensed
  refine List.foldlRecOn (motive := fun v => v = BitVec.ofNat 8192 (readNat s.mem pa 1024)) _ _ rfl fun v hv i hi => ?_
  rw [h i (List.mem_range.mp hi)]
  exact hv

theorem State.rowsStand.furrowRow {s t : State} (h : s.rowsStand t) (o : FieldOp) (e : Nat × Nat) (x : BitVec 10) :
    t.furrowRow o e x = s.furrowRow o e x := by
  obtain ⟨hmem, herr, hspecials, -, -⟩ := h
  unfold State.furrowRow State.sensed State.errOf
  rw [hmem, herr, hspecials]

section
variable (s : State) (o : FieldOp) (e : Nat × Nat) (d : BitVec 10) (v : BitVec 8192)

theorem State.threads_setFurrowRow : (s.setFurrowRow o e d v).threads = s.threads := by
  unfold State.setFurrowRow
  split
  · split <;> rfl
  · rfl

theorem State.keepsClusters_setFurrowRow : s.keepsClusters (s.setFurrowRow o e d v) := by
  unfold State.setFurrowRow
  split
  · exact State.keepsClusters_ite (State.keepsClusters_of_eq rfl) s.keepsClusters_refl
  · exact State.keepsClusters_of_eq rfl

theorem State.setFurrowRow_special {c : Nat} (h : rowOp d.toNat = .special c) (hc : c < 10) :
    s.setFurrowRow o e d v = { s with specials := mset 0 s.specials (e.1 * 16 + c) v } := by
  unfold State.setFurrowRow
  rw [h]
  exact if_pos hc

/-- The marks of a written row are good, and no good mark is lost. -/
theorem State.errOf_setFurrowRow_data {k off : Nat} {l : Bool} (h : rowOp d.toNat = .data k l off) (j : Nat) :
    (s.setFurrowRow o e d v).errOf j = if j ∈ (List.range 8).map ((e.2 + o.dataRow k l off * 1024) / 128 + ·) then .ok else s.errOf j := by
  unfold State.setFurrowRow
  rw [h]
  exact mget_foldl_mset _ _ _ _ _ _

theorem State.mem_setFurrowRow_data {k off : Nat} {l : Bool} (h : rowOp d.toNat = .data k l off) :
    (s.setFurrowRow o e d v).mem = writeBytes s.mem (e.2 + o.dataRow k l off * 1024) (leBytes 1024 v.toNat) := by
  unfold State.setFurrowRow
  rw [h]

theorem State.specials_setFurrowRow_data {k off : Nat} {l : Bool} (h : rowOp d.toNat = .data k l off) : (s.setFurrowRow o e d v).specials = s.specials := by
  unfold State.setFurrowRow
  rw [h]

theorem State.furrowRow_special {c : Nat} (h : rowOp d.toNat = .special c) (hc : c < 10) : s.furrowRow o e d = mget 0 s.specials (e.1 * 16 + c) := by
  unfold State.furrowRow
  rw [h]
  exact (if_neg (by unfold rowZ; omega)).trans (if_neg (by unfold rowO; omega))

theorem State.furrowRow_data {k off : Nat} {l : Bool} (h : rowOp d.toNat = .data k l off) : s.furrowRow o e d = s.sensed (e.2 + o.dataRow k l off * 1024) := by
  unfold State.furrowRow
  rw [h]

/-- A written row is read back. -/
theorem State.furrowRow_setFurrowRow_same (hd : writableRow d) : (s.setFurrowRow o e d v).furrowRow o e d = v := by
  cases h : rowOp d.toNat with
  | special c =>
    rw [State.furrowRow_special _ _ _ _ h (hd c h), State.setFurrowRow_special _ _ _ _ _ h (hd c h)]
    exact mget_mset_same _ _ _ _
  | data k l off =>
    rw [State.furrowRow_data _ _ _ _ h, State.sensed_of_ok, State.mem_setFurrowRow_data _ _ _ _ _ h]
    · exact ofNat_readNat_leBytes (w := 8192) (n := 1024) rfl _ _ v
    · intro i hi
      rw [State.errOf_setFurrowRow_data _ _ _ _ _ h, if_pos (List.mem_map.mpr ⟨i, List.mem_range.mpr hi, rfl⟩)]

/-- A written row is the only one that changes. -/
theorem State.onlyRow_setFurrowRow (hd : writableRow d) : s.onlyRow (s.setFurrowRow o e d v) o e d := by
  unfold State.onlyRow
  cases h : rowOp d.toNat with
  | special c =>
    rw [State.setFurrowRow_special _ _ _ _ _ h (hd c h)]
    exact ⟨rfl, fun k hk => mget_mset_other _ _ _ hk⟩
  | data k l off =>
    refine ⟨State.specials_setFurrowRow_data _ _ _ _ _ h, fun j hj => ?_⟩
    rw [State.mem_setFurrowRow_data _ _ _ _ _ h]
    exact readByte_writeBytes_other _ _ _ _ (by rwa [length_leBytes])

/-- A row written in one subarray leaves that row of another, whose bytes lie apart, as a row of good cells. -/
theorem State.furrowRow_setFurrowRow_other {p : Nat × Nat} (w : BitVec 8192) (hd : writableRow d) (hsub : p.1 ≠ e.1)
    (hdata : e.2 + 1024 ≤ p.2 ∨ p.2 + 1024 ≤ e.2) (t : State) (ht : (s.setFurrowRow o e d v).rowsStand t) :
    (t.setFurrowRow o p d w).furrowRow o e d = v := by
  have hsame := s.furrowRow_setFurrowRow_same o e d v hd
  cases h : rowOp d.toNat with
  | special c =>
    have hc := hd c h
    rw [State.furrowRow_special _ _ _ _ h hc, State.setFurrowRow_special _ _ _ _ _ h hc]
    rw [← ht.furrowRow, State.furrowRow_special _ _ _ _ h hc] at hsame
    rw [← hsame]
    have hc16 : c < 16 := by omega
    exact mget_mset_other _ _ _ (by omega)
  | data k l off =>
    have hmark : ∀ i, i < 8 → t.errOf ((e.2 + o.dataRow k l off * 1024) / 128 + i) = .ok := fun i hi => by
      rw [State.errOf, ht.err, ← State.errOf, State.errOf_setFurrowRow_data _ _ _ _ _ h, if_pos (List.mem_map.mpr ⟨i, List.mem_range.mpr hi, rfl⟩)]
    rw [← ht.furrowRow, State.furrowRow_data _ _ _ _ h, State.sensed_of_ok hmark] at hsame
    rw [State.furrowRow_data _ _ _ _ h, State.sensed_of_ok, State.mem_setFurrowRow_data _ _ _ _ _ h]
    · refine Eq.trans ?_ hsame
      refine congrArg (fun l => BitVec.ofNat 8192 (leNat l)) (readBytes_congr _ _ fun j hj hn => ?_)
      exact readByte_writeBytes_other _ _ _ _ (by rw [length_leBytes]; omega)
    · intro i hi
      rw [State.errOf_setFurrowRow_data _ _ _ _ _ h, hmark i hi, ite_self]
end

theorem State.onlyRow_rowsStand {s t u : State} {o : FieldOp} {e : Nat × Nat} {d : BitVec 10} (h : s.onlyRow t o e d) (k : t.rowsStand u) :
    s.onlyRow u o e d := by
  unfold State.onlyRow at *
  rw [k.mem, k.specials]
  exact h

theorem State.rowsStand_onlyRow {s t u : State} {o : FieldOp} {e : Nat × Nat} {d : BitVec 10} (h : s.rowsStand t) (k : t.onlyRow u o e d) :
    s.onlyRow u o e d := by
  unfold State.onlyRow at *
  rw [h.mem, h.specials] at k
  exact k

/-- Two rows written one after the other are the only two that change. -/
theorem State.onlyRows_pair {s t u : State} {o : FieldOp} {e p : Nat × Nat} {d : BitVec 10} (h : s.onlyRow t o e d) (k : t.onlyRow u o p d) :
    s.onlyRows u o [e, p] d := by
  unfold State.onlyRow at h k
  unfold State.onlyRows
  cases hr : rowOp d.toNat with
  | special c =>
    rw [hr] at h k
    obtain ⟨hmem, hrows⟩ := h
    obtain ⟨kmem, krows⟩ := k
    exact ⟨kmem.trans hmem, fun j hj => (krows j (hj p (by simp))).trans (hrows j (hj e (by simp)))⟩
  | data n l off =>
    rw [hr] at h k
    obtain ⟨hspecials, hbytes⟩ := h
    obtain ⟨kspecials, kbytes⟩ := k
    exact ⟨kspecials.trans hspecials, fun j hj => (kbytes j (hj p (by simp))).trans (hbytes j (hj e (by simp)))⟩

/-! A word that runs (R255). -/
/-- Where an op stands after a word of n steps. -/
def FieldOp.stepped (n : Nat) (o : FieldOp) : FieldOp := { o with steps := o.steps + n, safe := if n = 0 then o.safe else false }

theorem runFurrow_eq {s : State} {c : Nat} {o : FieldOp} (n : Nat) (rows : FieldOp → State → State) (next : FieldOp → FieldOp)
    (hfocus : s.focus = .op c o.seq) (hop : s.findOp c o.seq = some o) (hrun : o.state = .running) :
    runFurrow n rows next s = (if n = 0 then rows o s else (rows o s).stepped o.banks).updOp c o.seq (fun p => (next p).stepped n) := by
  unfold runFurrow
  simp only [hfocus, hop, hrun]
  rfl

theorem runFurrow_runs {s : State} {c : Nat} {o : FieldOp} (n : Nat) (rows : FieldOp → State → State) (next : FieldOp → FieldOp)
    (hfocus : s.focus = .op c o.seq) (hop : s.findOp c o.seq = some o) (hrun : o.state = .running) (hrows : s.keepsClusters (rows o s))
    (hnext : ∀ p, (next p).seq = p.seq) :
    (rows o s).rowsStand (runFurrow n rows next s) ∧ (runFurrow n rows next s).findOp c o.seq = some ((next o).stepped n) := by
  have hbanks := State.rowsStand_ite (c := n = 0) (State.rowsStand_refl (rows o s)) (State.rowsStand_stepped (rows o s) o.banks)
  have hclusters := State.keepsClusters_ite (c := n = 0) hrows (State.keepsClusters_trans hrows (State.keepsClusters_stepped _ o.banks))
  rw [runFurrow_eq n rows next hfocus hop hrun]
  exact ⟨State.rowsStand_trans hbanks (State.rowsStand_updOp _ _ _ _),
    State.findOp_updOp (f := fun o => (next o).stepped n) ((hclusters.findOp c o.seq).trans hop) fun p hp => (hnext p).trans hp⟩

/-! Refreshes of an op's banks (R324). -/
theorem State.rowsStand_setCounter (s : State) (bank row n : Nat) : s.rowsStand (s.setCounter bank row n) := ⟨rfl, rfl, rfl, rfl, rfl⟩

theorem State.rowsStand_refreshBank (s : State) (b : Nat) : s.rowsStand (s.refreshBank b) := by
  refine State.rowsStand_trans (State.rowsStand_ite ?_ s.rowsStand_refl) (State.rowsStand_setBank _ b _)
  exact State.rowsStand_foldl (fun t a => t.rowsStand_setCounter b (a * 512 + (s.bank b).rp) 0) (List.range 32) s

theorem State.keepsClusters_refreshBank (s : State) (b : Nat) : s.keepsClusters (s.refreshBank b) := by
  refine State.keepsClusters_trans (State.keepsClusters_ite ?_ s.keepsClusters_refl) (State.keepsClusters_of_eq rfl)
  exact List.foldlRecOn _ _ s.keepsClusters_refl fun _ ht _ _ => State.keepsClusters_trans ht (State.keepsClusters_of_eq rfl)

theorem State.debt_refreshBank_same (s : State) (b : Nat) : ((s.refreshBank b).bank b).debt = (s.bank b).debt - 1 := by
  rw [State.refreshBank, State.setBank_bank_same]

theorem State.bank_refreshBank_other (s : State) {b n : Nat} (h : n ≠ b) : (s.refreshBank b).bank n = s.bank n := by
  rw [State.refreshBank, State.setBank_bank_other _ _ h]
  split
  · exact List.foldlRecOn (motive := fun t : State => t.bank n = s.bank n) _ _ rfl fun _ ht _ _ => ht
  · rfl

theorem State.debt_refreshBank_le (s : State) (b n : Nat) : ((s.refreshBank b).bank n).debt ≤ (s.bank n).debt := by
  by_cases h : n = b
  · subst h
    rw [State.debt_refreshBank_same]
    exact Nat.sub_le _ _
  · rw [State.bank_refreshBank_other _ h]

theorem State.debt_refreshBanks_le (l : List Nat) (s : State) (n : Nat) : ((l.foldl State.refreshBank s).bank n).debt ≤ (s.bank n).debt :=
  List.foldlRecOn (motive := fun t : State => (t.bank n).debt ≤ (s.bank n).debt) _ _ le_rfl fun t ht b _ => (t.debt_refreshBank_le b n).trans ht

/-- A round of refreshes takes at least one off each bank's debt. -/
theorem State.debt_refreshBanks_lt (l : List Nat) {n : Nat} (h : n ∈ l) (s : State) :
    ((l.foldl State.refreshBank s).bank n).debt ≤ (s.bank n).debt - 1 := by
  induction l generalizing s with
  | nil => cases h
  | cons b r ih =>
    rcases List.mem_cons.mp h with rfl | hr
    · exact (State.debt_refreshBanks_le r _ n).trans (s.debt_refreshBank_same n).le
    · exact (ih hr _).trans (Nat.sub_le_sub_right (s.debt_refreshBank_le b n) 1)

theorem State.debt_timesRefresh_le {l : List Nat} {b : Nat} (h : b ∈ l) (n : Nat) (s : State) :
    ((State.timesRefresh n l s).bank b).debt ≤ (s.bank b).debt - n := by
  induction n generalizing s with
  | zero => exact le_rfl
  | succ n ih =>
    have hround := State.debt_refreshBanks_lt l h s
    have hrest := ih (l.foldl State.refreshBank s)
    rw [State.timesRefresh]
    omega

theorem foldl_max_le {α : Type} (f : α → Nat) (l : List α) (n : Nat) :
    n ≤ l.foldl (fun a b => Nat.max a (f b)) n ∧ ∀ x ∈ l, f x ≤ l.foldl (fun a b => Nat.max a (f b)) n := by
  induction l generalizing n with
  | nil => exact ⟨le_rfl, fun _ h => by cases h⟩
  | cons b r ih =>
    obtain ⟨hstart, hall⟩ := ih (Nat.max n (f b))
    exact ⟨(Nat.le_max_left _ _).trans hstart, List.forall_mem_cons.mpr ⟨(Nat.le_max_right _ _).trans hstart, hall⟩⟩

/-- An op's refreshes pay the debt of each of its banks. -/
theorem State.debt_refreshOp (s : State) {o : FieldOp} {b : Nat} (h : b ∈ o.banks) : ((s.refreshOp o).bank b).debt = 0 := by
  have hpaid := State.debt_timesRefresh_le h (o.banks.foldl (fun a b => Nat.max a (s.bank b).debt) 0) s
  have hmost := (foldl_max_le (fun b => (s.bank b).debt) o.banks 0).2 b h
  exact Nat.le_zero.mp (hpaid.trans (Nat.sub_eq_zero_of_le hmost).le)

theorem State.timesRefresh_stand (l : List Nat) (n : Nat) (s : State) :
    s.rowsStand (State.timesRefresh n l s) ∧ s.keepsClusters (State.timesRefresh n l s) := by
  induction n generalizing s with
  | zero => exact ⟨s.rowsStand_refl, s.keepsClusters_refl⟩
  | succ n ih =>
    obtain ⟨hrows, hclusters⟩ := ih (l.foldl State.refreshBank s)
    exact ⟨State.rowsStand_trans (State.rowsStand_foldl State.rowsStand_refreshBank l s) hrows,
      State.keepsClusters_trans (List.foldlRecOn _ _ s.keepsClusters_refl fun t ht b _ => State.keepsClusters_trans ht (t.keepsClusters_refreshBank b)) hclusters⟩

theorem State.rowsStand_refreshOp (s : State) (o : FieldOp) : s.rowsStand (s.refreshOp o) := (State.timesRefresh_stand _ _ s).1
theorem State.keepsClusters_refreshOp (s : State) (o : FieldOp) : s.keepsClusters (s.refreshOp o) := (State.timesRefresh_stand _ _ s).2

/-! The first step of a pass (R247, R321). -/
/-- KEEP applies to a subarray. -/
@[reducible] def State.keptSub (s : State) (o : FieldOp) (sub : Nat) : Prop := o.launch.keep = true ∧ mget 0 s.keepOwner sub = o.owner + 1

theorem State.clearSub_kept {s : State} {o : FieldOp} {sub : Nat} (h : s.keptSub o sub) : (s.clearSub o sub).specials = s.specials := by
  unfold State.clearSub
  simp [h.1, h.2]

theorem State.clearSub_cleared {s : State} {o : FieldOp} {sub : Nat} (h : ¬ s.keptSub o sub) :
    (s.clearSub o sub).specials = (List.range 10).foldl (fun m k => mset 0 m (sub * 16 + k) 0) s.specials := by
  have hkept : (o.launch.keep && mget 0 s.keepOwner sub == o.owner + 1) = false := by
    rw [Bool.eq_false_iff]
    simpa [State.keptSub] using h
  unfold State.clearSub
  simp [hkept]

theorem State.clearSub_keepOwner (s : State) (o : FieldOp) (sub : Nat) : (s.clearSub o sub).keepOwner = mset 0 s.keepOwner sub (o.owner + 1) := by
  unfold State.clearSub
  dsimp only
  split <;> rfl

/-- The first steps of a pass in the subarrays of `l`. -/
def State.clearSubs (s : State) (o : FieldOp) (l : List (Nat × Nat)) : State := l.foldl (fun s e => s.clearSub o e.1) s

theorem State.clearSubs_rest (s : State) (o : FieldOp) (l : List (Nat × Nat)) :
    s.clearSubs o l = { s with specials := (s.clearSubs o l).specials, keepOwner := (s.clearSubs o l).keepOwner } := by
  refine List.foldlRecOn (motive := fun t : State => t = { s with specials := t.specials, keepOwner := t.keepOwner }) l _ rfl fun t ht e _ => ?_
  have hsub : t.clearSub o e.1 = { t with specials := (t.clearSub o e.1).specials, keepOwner := (t.clearSub o e.1).keepOwner } := by
    unfold State.clearSub
    dsimp only
    split <;> rfl
  generalize t.clearSub o e.1 = u at hsub ⊢
  rw [hsub, ht]

theorem State.keptSub_clearSub (s : State) (o : FieldOp) (a b : Nat) :
    (s.clearSub o a).keptSub o b ↔ o.launch.keep = true ∧ (b = a ∨ mget 0 s.keepOwner b = o.owner + 1) := by
  rw [State.keptSub, State.clearSub_keepOwner]
  by_cases h : b = a
  · simp [h, mget_mset_same]
  · simp [h, mget_mset_other]

/-- Each of B0 to N1 is zero after the first step, unless KEEP applies. -/
theorem State.clearSub_row (s : State) (o : FieldOp) (a b : Nat) {k : Nat} (hk : k < 10) :
    mget 0 (s.clearSub o a).specials (b * 16 + k) = if b = a ∧ ¬ s.keptSub o b then 0 else mget 0 s.specials (b * 16 + k) := by
  by_cases hkept : s.keptSub o a
  · rw [State.clearSub_kept hkept, if_neg]
    rintro ⟨rfl, h⟩
    exact h hkept
  · rw [State.clearSub_cleared hkept, mget_foldl_mset]
    by_cases h : b = a
    · subst h
      simp [hkept, hk]
    · have hrow : b * 16 + k ∉ (List.range 10).map (a * 16 + ·) := by
        simp only [List.mem_map, List.mem_range, not_exists, not_and]
        intro j hj
        omega
      rw [if_neg hrow, if_neg fun hb => h hb.1]

theorem State.clearSub_other (s : State) (o : FieldOp) (a : Nat) {j : Nat} (h : ∀ k, k < 10 → j ≠ a * 16 + k) :
    mget 0 (s.clearSub o a).specials j = mget 0 s.specials j := by
  by_cases hkept : s.keptSub o a
  · rw [State.clearSub_kept hkept]
  · rw [State.clearSub_cleared hkept, mget_foldl_mset, if_neg]
    simp only [List.mem_map, List.mem_range, not_exists, not_and]
    exact fun k hk hj => h k hk hj.symm

theorem State.clearSubs_row (o : FieldOp) (l : List (Nat × Nat)) (s : State) (b : Nat) {k : Nat} (hk : k < 10) :
    mget 0 (s.clearSubs o l).specials (b * 16 + k) = if b ∈ l.map Prod.fst ∧ ¬ s.keptSub o b then 0 else mget 0 s.specials (b * 16 + k) := by
  induction l generalizing s with
  | nil => simp [State.clearSubs]
  | cons e r ih =>
    have hstep := ih (s.clearSub o e.1)
    rw [show s.clearSubs o (e :: r) = (s.clearSub o e.1).clearSubs o r from rfl, hstep, State.clearSub_row _ _ _ _ hk]
    simp only [State.keptSub_clearSub, List.map_cons, List.mem_cons]
    by_cases hb : b = e.1
    · by_cases hkept : s.keptSub o b
      · rw [if_neg fun h => h.2 ⟨hkept.1, .inl hb⟩, if_neg fun h => h.2 hkept, if_neg fun h => h.2 hkept]
      · rw [if_pos (c := b = e.1 ∧ _) ⟨hb, hkept⟩, ite_self, if_pos ⟨.inl hb, hkept⟩]
    · simp only [hb, false_or, false_and, if_false]

theorem State.clearSubs_other (s : State) (o : FieldOp) (l : List (Nat × Nat)) {j : Nat} (h : ∀ x ∈ l, ∀ k, k < 10 → j ≠ x.1 * 16 + k) :
    mget 0 (s.clearSubs o l).specials j = mget 0 s.specials j :=
  List.foldlRecOn (motive := fun t : State => mget 0 t.specials j = mget 0 s.specials j) l _ rfl fun t ht e he => (t.clearSub_other o e.1 (h e he)).trans ht

/-- An op at the first word of a pass, one step gone. -/
def FieldOp.passBegun (o : FieldOp) : FieldOp := { o with steps := o.steps + 1, pc := 0, loops := [], safe := true }

theorem State.beginPass_runs {s : State} {c seq : Nat} {o : FieldOp} (h : s.findOp c seq = some o) :
    (s.clearSubs o o.passSubs).rowsStand (s.beginPass c seq) ∧ (s.beginPass c seq).findOp c seq = some o.passBegun := by
  have hcleared : s.keepsClusters (s.clearSubs o o.passSubs) := by
    rw [State.clearSubs_rest]
    exact State.keepsClusters_of_eq rfl
  have hop := ((State.keepsClusters_trans hcleared (State.keepsClusters_stepped _ o.banks)).findOp c seq).trans h
  have hbegun : s.beginPass c seq = (((s.clearSubs o o.passSubs).stepped o.banks).updOp c seq FieldOp.passBegun).refreshOp o := by
    unfold State.beginPass
    rw [h]
    rfl
  rw [hbegun]
  refine ⟨State.rowsStand_trans (State.rowsStand_stepped _ _) (State.rowsStand_trans (State.rowsStand_updOp _ _ _ _) (State.rowsStand_refreshOp _ _)), ?_⟩
  exact ((State.keepsClusters_refreshOp _ o).findOp c seq).trans (State.findOp_updOp hop fun _ h => h)

/-- What the first step of a pass leaves in the special rows and beside them. -/
theorem State.beginPass_rows {s t : State} {c seq : Nat} {o : FieldOp} (ht : t.rowsStand s) (h : s.findOp c seq = some o) :
    (∀ x ∈ o.passSubs, ∀ k, k < 10 → mget 0 (s.beginPass c seq).specials (x.1 * 16 + k) =
      (if o.launch.keep = true ∧ mget 0 t.keepOwner x.1 = o.owner + 1 then mget 0 t.specials (x.1 * 16 + k) else 0)) ∧
    (∀ j, (∀ x ∈ o.passSubs, ∀ k, k < 10 → j ≠ x.1 * 16 + k) → mget 0 (s.beginPass c seq).specials j = mget 0 t.specials j) ∧
    (s.beginPass c seq).mem = t.mem ∧ (s.beginPass c seq).threads = t.threads := by
  have hbegun := (State.beginPass_runs h).1
  have hrest := s.clearSubs_rest o o.passSubs
  refine ⟨fun x hx k hk => ?_, fun j hj => ?_, ?_, ?_⟩
  · rw [hbegun.specials, State.clearSubs_row o o.passSubs s x.1 hk, ← ht.keepOwner, ← ht.specials]
    by_cases hkept : o.launch.keep = true ∧ mget 0 s.keepOwner x.1 = o.owner + 1
    · rw [if_neg fun h => h.2 hkept, if_pos hkept]
    · rw [if_pos ⟨List.mem_map_of_mem hx, hkept⟩, if_neg hkept]
  · rw [hbegun.specials, State.clearSubs_other _ _ _ hj, ht.specials]
  · rw [hbegun.mem, hrest]
    exact ht.mem
  · rw [hbegun.threads, hrest]
    exact ht.threads

end Sys2Proof.Machine
end

-- ==== Proofs: furrow words that run ====
section
/-! SUPPORT and the proofs of O39 and O59: each furrow word on the rows of its pass, and where its op stands after it (R250, R255, R256, R321, R324). -/
set_option Elab.async false
namespace Sys2Proof.Machine
open Host

/-! Where the op stands. -/
/-- A word that leads from `o` to `next o` leaves the op standing there. -/
theorem State.opStands_of {t : State} {c n pc : Nat} {o p : FieldOp} {loops : List (Nat × Nat × Nat)} (h : t.findOp c o.seq = some (p.stepped n))
    (hp : p = { o with pc := pc, loops := loops }) (hrun : o.state = .running) : t.opStands c o n pc loops := by
  subst hp
  exact ⟨_, h, hrun, rfl, rfl, rfl, rfl, rfl, rfl⟩

section
variable {s : State} {c : Nat} {o : FieldOp} {e : Nat × Nat}

/-- A word that writes row `d` of the one subarray of the pass, then counts activations. -/
theorem State.opRuns.writes (h : s.opRuns c o e) {d : BitVec 10} (hd : writableRow d) (n : Nat) (v : FieldOp → State → Nat × Nat → BitVec 8192)
    (l : List (BitVec 10)) {t : State}
    (ht : t = runFurrow n (fun o st => o.passSubs.foldl (fun st e => (st.setFurrowRow o e d (v o st e)).countRows o e l) st) FieldOp.advance s) :
    t.furrowRow o e d = v o s e ∧ s.onlyRow t o e d ∧ t.opStands c o n (o.pc + 1) o.loops ∧ t.threads = s.threads := by
  obtain ⟨hfocus, hop, hrun, hsubs⟩ := h
  subst ht
  have hcounted := (s.setFurrowRow o e d (v o s e)).rowsStand_countRows o e l
  have hclusters := State.keepsClusters_trans (s.keepsClusters_setFurrowRow o e d (v o s e)) (State.keepsClusters_countRows _ o e l)
  obtain ⟨hrows, hstands⟩ := runFurrow_runs n (fun o st => o.passSubs.foldl (fun st e => (st.setFurrowRow o e d (v o st e)).countRows o e l) st)
    FieldOp.advance hfocus hop hrun (by rw [hsubs]; exact hclusters) fun _ => rfl
  rw [hsubs] at hrows
  have hwritten := State.rowsStand_trans hcounted hrows
  exact ⟨(hwritten.furrowRow o e d).trans (s.furrowRow_setFurrowRow_same o e d _ hd),
    State.onlyRow_rowsStand (s.onlyRow_setFurrowRow o e d _ hd) hwritten, State.opStands_of hstands rfl hrun,
    hwritten.threads.trans (s.threads_setFurrowRow o e d _)⟩

theorem State.opRuns.rowWord (h : s.opRuns c o e) {d : BitVec 10} (hd : writableRow d) (n : Nat) (x : BitVec 10) (f : BitVec 8192 → BitVec 8192) :
    (rowWord n x d f s).furrowRow o e d = f (s.furrowRow o e x) ∧ s.onlyRow (rowWord n x d f s) o e d ∧
      (rowWord n x d f s).opStands c o n (o.pc + 1) o.loops ∧ (rowWord n x d f s).threads = s.threads :=
  h.writes hd n (fun o st e => f (st.furrowRow o e x)) [x, d] rfl

/-- A word without steps that only moves the op. -/
theorem State.opRuns.moves (h : s.opRuns c o e) (next : FieldOp → FieldOp) (hnext : ∀ p, (next p).seq = p.seq) {pc : Nat}
    {loops : List (Nat × Nat × Nat)} (ho : next o = { o with pc := pc, loops := loops }) :
    (runFurrow 0 (fun _ s => s) next s).opStands c o 0 pc loops ∧ (runFurrow 0 (fun _ s => s) next s).mem = s.mem ∧
      (runFurrow 0 (fun _ s => s) next s).specials = s.specials ∧ (runFurrow 0 (fun _ s => s) next s).threads = s.threads := by
  obtain ⟨hfocus, hop, hrun, -⟩ := h
  obtain ⟨hrows, hstands⟩ := runFurrow_runs 0 (fun _ s => s) next hfocus hop hrun s.keepsClusters_refl hnext
  exact ⟨State.opStands_of hstands ho hrun, hrows.mem, hrows.specials, hrows.threads⟩
end

/-! Loops. -/
theorem FieldOp.seq_loop (n : Nat) (o : FieldOp) : (o.loop n).seq = o.seq := by
  unfold FieldOp.loop
  split <;> rfl

theorem FieldOp.loop_enters {n : Nat} (h : n ≠ 0) (o : FieldOp) : o.loop n = { o with pc := o.pc + 1, loops := (o.pc + 1, n, 0) :: o.loops } := if_neg h

theorem FieldOp.loop_passes {n k : Nat} {o : FieldOp} (h : n = 0) (hk : qEndOf o.launch.words 512 (o.pc + 1) 0 = some k) : o.loop n = { o with pc := k } := by
  unfold FieldOp.loop
  rw [if_pos h, hk]
  rfl

theorem FieldOp.seq_endLoop (o : FieldOp) : o.endLoop.seq = o.seq := by
  unfold FieldOp.endLoop
  split
  · split <;> rfl
  · rfl

theorem FieldOp.endLoop_of {o : FieldOp} {start n l : Nat} {rest : List (Nat × Nat × Nat)} (h : o.loops = (start, n, l) :: rest) :
    o.endLoop = if l + 1 < n then { o with pc := start, loops := (start, n, l + 1) :: rest } else { o with pc := o.pc + 1, loops := rest } := by
  unfold FieldOp.endLoop
  rw [h]

/-! Majorities (R256). -/
/-- The majority of a triple's rows in a subarray. -/
def State.tripleMajority (s : State) (tr : BitVec 2) (sub : Nat) : BitVec 8192 :=
  majority (mget 0 s.specials (sub * 16 + (triple tr)[0]?.getD 0)) (mget 0 s.specials (sub * 16 + (triple tr)[1]?.getD 0))
    (mget 0 s.specials (sub * 16 + (triple tr)[2]?.getD 0))
/-- Each row of the triple holds `m`. -/
def State.tripleHolds (s : State) (tr : BitVec 2) (sub : Nat) (m : BitVec 8192) : Prop := ∀ k ∈ triple tr, mget 0 s.specials (sub * 16 + k) = m

theorem triple_cases (tr : BitVec 2) : (tr = 0 ∨ tr = 1) ∨ tr = 2 ∨ tr = 3 := by
  have h : ∀ tr : BitVec 2, (tr = 0 ∨ tr = 1) ∨ tr = 2 ∨ tr = 3 := by decide
  exact h tr

theorem triple_lt {tr : BitVec 2} {k : Nat} (h : k ∈ triple tr) : k < 8 := by
  rcases triple_cases tr with (rfl | rfl) | rfl | rfl <;> simp [triple] at h <;> omega

theorem triple_getD_mem (tr : BitVec 2) {i : Nat} (h : i < 3) : (triple tr)[i]?.getD 0 ∈ triple tr := by
  have hall : ∀ tr : BitVec 2, ∀ i, i < 3 → (triple tr)[i]?.getD 0 ∈ triple tr := by decide
  exact hall tr i h

theorem majority_self (a : BitVec 8192) : majority a a a = a := by
  simp [majority]

theorem getLsbD_majority (a b c : BitVec 8192) (i : Nat) :
    (majority a b c).getLsbD i = decide (2 ≤ (a.getLsbD i).toNat + (b.getLsbD i).toNat + (c.getLsbD i).toNat) := by
  rw [majority, BitVec.getLsbD_or, BitVec.getLsbD_or, BitVec.getLsbD_and, BitVec.getLsbD_and, BitVec.getLsbD_and]
  cases a.getLsbD i <;> cases b.getLsbD i <;> cases c.getLsbD i <;> rfl

theorem State.specials_majTriple (s : State) (tr : BitVec 2) (sub j : Nat) :
    mget 0 (s.majTriple tr sub).specials j = if j ∈ (triple tr).map (sub * 16 + ·) then s.tripleMajority tr sub else mget 0 s.specials j :=
  mget_foldl_mset _ _ _ _ _ _

theorem State.tripleHolds_majTriple_same (s : State) (tr : BitVec 2) (sub : Nat) : (s.majTriple tr sub).tripleHolds tr sub (s.tripleMajority tr sub) :=
  fun k hk => by rw [State.specials_majTriple, if_pos (List.mem_map.mpr ⟨k, hk, rfl⟩)]

theorem State.specials_majTriple_other (s : State) (tr : BitVec 2) {a b k : Nat} (h : b ≠ a) (hk : k ∈ triple tr) :
    mget 0 (s.majTriple tr a).specials (b * 16 + k) = mget 0 s.specials (b * 16 + k) := by
  rw [State.specials_majTriple, if_neg]
  rintro hj
  obtain ⟨j, hj, hjk⟩ := List.mem_map.mp hj
  have := triple_lt hj
  have := triple_lt hk
  omega

theorem State.tripleMajority_majTriple_other (s : State) (tr : BitVec 2) {a b : Nat} (h : b ≠ a) :
    (s.majTriple tr a).tripleMajority tr b = s.tripleMajority tr b := by
  unfold State.tripleMajority
  rw [s.specials_majTriple_other tr h (triple_getD_mem tr (i := 0) (by omega)), s.specials_majTriple_other tr h (triple_getD_mem tr (i := 1) (by omega)),
    s.specials_majTriple_other tr h (triple_getD_mem tr (i := 2) (by omega))]

/-- Three rows that hold the same stay so. -/
theorem State.tripleHolds.majTriple {s : State} {tr : BitVec 2} {b : Nat} {m : BitVec 8192} (h : s.tripleHolds tr b m) (a : Nat) :
    (s.majTriple tr a).tripleHolds tr b m := by
  by_cases hab : b = a
  · subst hab
    have hm : s.tripleMajority tr b = m := by
      unfold State.tripleMajority
      rw [h _ (triple_getD_mem tr (i := 0) (by omega)), h _ (triple_getD_mem tr (i := 1) (by omega)), h _ (triple_getD_mem tr (i := 2) (by omega)), majority_self]
    exact hm ▸ s.tripleHolds_majTriple_same tr b
  · exact fun k hk => (s.specials_majTriple_other tr hab hk).trans (h k hk)

/-- QMAJ in the subarrays of `l`. -/
def State.majTriples (s : State) (tr : BitVec 2) (l : List (Nat × Nat)) : State := l.foldl (fun st e => st.majTriple tr e.1) s

/-- After QMAJ in the subarrays of `l`, the triple of each holds its majority. -/
theorem State.tripleHolds_majTriples (tr : BitVec 2) {e : Nat × Nat} (l : List (Nat × Nat)) (he : e ∈ l) (s : State) :
    (s.majTriples tr l).tripleHolds tr e.1 (s.tripleMajority tr e.1) := by
  induction l generalizing s with
  | nil => cases he
  | cons p r ih =>
    by_cases hp : e.1 = p.1
    · rw [hp]
      exact List.foldlRecOn (motive := fun t : State => t.tripleHolds tr p.1 (s.tripleMajority tr p.1)) r _ (s.tripleHolds_majTriple_same tr p.1)
        fun _ ht q _ => ht.majTriple q.1
    · have hr : e ∈ r := (List.mem_cons.mp he).resolve_left fun h => hp (congrArg Prod.fst h)
      have hrest := ih hr (s.majTriple tr p.1)
      rwa [s.tripleMajority_majTriple_other tr hp] at hrest

theorem State.keepsClusters_majTriples (tr : BitVec 2) (l : List (Nat × Nat)) (s : State) : s.keepsClusters (s.majTriples tr l) :=
  List.foldlRecOn l _ s.keepsClusters_refl fun _ ht _ _ => State.keepsClusters_trans ht (State.keepsClusters_of_eq rfl)

theorem State.qmaj_runs {s : State} {c : Nat} {o : FieldOp} (tr : BitVec 2) (hfocus : s.focus = .op c o.seq) (hop : s.findOp c o.seq = some o)
    (hrun : o.state = .running) :
    (s.majTriples tr o.passSubs).rowsStand (qmajBody tr s) ∧ (qmajBody tr s).findOp c o.seq = some (o.advance.stepped 1) :=
  runFurrow_runs 1 (fun o st => st.majTriples tr o.passSubs) FieldOp.advance hfocus hop hrun (State.keepsClusters_majTriples tr o.passSubs s) fun _ => rfl

theorem State.opRuns.qmaj {s : State} {c : Nat} {o : FieldOp} {e : Nat × Nat} (h : s.opRuns c o e) (tr : BitVec 2) :
    (qmajBody tr s).mem = s.mem ∧ (qmajBody tr s).opStands c o 1 (o.pc + 1) o.loops ∧ (qmajBody tr s).tripleHolds tr e.1 (s.tripleMajority tr e.1) ∧
      ∀ k, (∀ j ∈ triple tr, k ≠ e.1 * 16 + j) → mget 0 (qmajBody tr s).specials k = mget 0 s.specials k := by
  obtain ⟨hfocus, hop, hrun, hsubs⟩ := h
  obtain ⟨hrows, hstands⟩ := State.qmaj_runs tr hfocus hop hrun
  rw [hsubs] at hrows
  refine ⟨hrows.mem, State.opStands_of hstands rfl hrun, fun k hk => ?_, fun k hk => ?_⟩
  · rw [hrows.specials]
    exact s.tripleHolds_majTriple_same tr e.1 k hk
  · rw [hrows.specials]
    refine (s.specials_majTriple tr e.1 k).trans (if_neg fun hmem => ?_)
    obtain ⟨j, hj, hjk⟩ := List.mem_map.mp hmem
    exact hk j hj hjk.symm

/-- Settles O59: the rows of the triple hold the majority of the former rows, in each subarray of the pass, and a majority's bits are counted. -/
theorem majorityOfATriple : Obligations.MajorityOfATriple := by
  unfold Obligations.MajorityOfATriple
  intro s c o tr e k hfocus hop hrun he hk
  obtain ⟨hrows, -⟩ := State.qmaj_runs tr hfocus hop hrun
  have hholds := State.tripleHolds_majTriples tr o.passSubs he s
  refine ⟨_, rfl, fun i _ => ?_⟩
  have hrow : k ∈ triple tr → mget 0 (qmajBody tr s).specials (e.1 * 16 + k) = s.tripleMajority tr e.1 := fun h => by rw [hrows.specials, hholds k h]
  rcases triple_cases tr with (rfl | rfl) | rfl | rfl <;>
  · rw [hrow (by simpa [triple] using hk)]
    exact getLsbD_majority _ _ _ i

/-! QVMC (R255, R328). -/
/-- Row x of a source, put into its row d, its activation counted. -/
def State.vmcSource (s : State) (o : FieldOp) (e : Nat × Nat) (x d : BitVec 10) : State :=
  (s.setFurrowRow o e d (s.furrowRow o e x)).countRows o e [x]
/-- Row x of a source, put into row d of the source and of each of its partners. -/
def State.vmcTo (s : State) (o : FieldOp) (e : Nat × Nat) (x d : BitVec 10) (partners : List (Nat × Nat)) : State :=
  partners.foldl (fun st p => (st.setFurrowRow o p d (s.furrowRow o e x)).countRows o p [d]) (s.vmcSource o e x d)
/-- QVMC's rows. -/
def State.vmcRows (x d : BitVec 10) (lay : BitVec 4) (o : FieldOp) (s : State) : State :=
  (o.passSubs.filter fun e => dieOf e.1 == lay.toNat).foldl (fun st e => st.vmcTo o e x d (o.passSubs.filter fun p => dieOf p.1 != lay.toNat && sameVia p.1 e.1)) s

section
variable {s : State} {c : Nat} {o : FieldOp} {e q : Nat × Nat} {x d : BitVec 10} {lay : BitVec 4}

/-- Of two subarrays, one on the named die, that one is the source and the other its partner where they share a via. -/
theorem State.vmcRows_pair (hsubs : o.passSubs = [e, q]) (he : dieOf e.1 = lay.toNat) (hq : dieOf q.1 ≠ lay.toNat) :
    State.vmcRows x d lay o s = s.vmcTo o e x d (if sameVia q.1 e.1 then [q] else []) := by
  unfold State.vmcRows
  cases hvia : sameVia q.1 e.1 <;> simp [hsubs, he, hq, hvia]

theorem State.rowsStand_vmcSource : (s.setFurrowRow o e d (s.furrowRow o e x)).rowsStand (s.vmcSource o e x d) := State.rowsStand_countRows _ _ _ _

theorem State.keepsClusters_vmcTo (l : List (Nat × Nat)) : s.keepsClusters (s.vmcTo o e x d l) := by
  have hwrite : ∀ (t : State) p v (r : List (BitVec 10)), t.keepsClusters ((t.setFurrowRow o p d v).countRows o p r) := fun t p v r =>
    State.keepsClusters_trans (t.keepsClusters_setFurrowRow o p d v) (State.keepsClusters_countRows _ o p r)
  exact List.foldlRecOn l _ (hwrite s e _ [x]) fun t ht p _ => State.keepsClusters_trans ht (hwrite t p _ [d])

theorem State.qvmc_runs (hfocus : s.focus = .op c o.seq) (hop : s.findOp c o.seq = some o) (hrun : o.state = .running)
    (hsubs : o.passSubs = [e, q]) (he : dieOf e.1 = lay.toNat) (hq : dieOf q.1 ≠ lay.toNat) :
    (s.vmcTo o e x d (if sameVia q.1 e.1 then [q] else [])).rowsStand (qvmcBody x d lay s) ∧
      (qvmcBody x d lay s).opStands c o 3 (o.pc + 1) o.loops := by
  have hpair := State.vmcRows_pair (s := s) (x := x) (d := d) hsubs he hq
  obtain ⟨hrows, hstands⟩ := runFurrow_runs 3 (State.vmcRows x d lay) FieldOp.advance hfocus hop hrun
    (hpair ▸ State.keepsClusters_vmcTo _) fun _ => rfl
  rw [hpair] at hrows
  exact ⟨hrows, State.opStands_of hstands rfl hrun⟩

theorem State.qvmc_pair (hfocus : s.focus = .op c o.seq) (hop : s.findOp c o.seq = some o) (hrun : o.state = .running)
    (hsubs : o.passSubs = [e, q]) (hd : writableRow d) (he : dieOf e.1 = lay.toNat) (hq : dieOf q.1 ≠ lay.toNat) (hvia : sameVia q.1 e.1 = true)
    (hapart : e.2 + 1024 ≤ q.2 ∨ q.2 + 1024 ≤ e.2) :
    (qvmcBody x d lay s).furrowRow o e d = s.furrowRow o e x ∧ (qvmcBody x d lay s).furrowRow o q d = s.furrowRow o e x ∧
      s.onlyRows (qvmcBody x d lay s) o [e, q] d ∧ (qvmcBody x d lay s).opStands c o 3 (o.pc + 1) o.loops ∧ (qvmcBody x d lay s).threads = s.threads := by
  obtain ⟨hrows, hstands⟩ := State.qvmc_runs (x := x) (d := d) hfocus hop hrun hsubs he hq
  rw [hvia, if_pos rfl] at hrows
  have hsource := State.rowsStand_vmcSource (s := s) (o := o) (e := e) (x := x) (d := d)
  have hwritten := State.rowsStand_trans (State.rowsStand_countRows ((s.vmcSource o e x d).setFurrowRow o q d (s.furrowRow o e x)) o q [d]) hrows
  have hsub : q.1 ≠ e.1 := fun h => hq (h ▸ he)
  have hfirst := State.onlyRow_rowsStand (s.onlyRow_setFurrowRow o e d (s.furrowRow o e x) hd) hsource
  have hsecond := State.onlyRow_rowsStand ((s.vmcSource o e x d).onlyRow_setFurrowRow o q d (s.furrowRow o e x) hd) hwritten
  refine ⟨?_, ?_, State.onlyRows_pair hfirst hsecond, hstands, ?_⟩
  · rw [hwritten.furrowRow]
    exact s.furrowRow_setFurrowRow_other o e d _ _ hd hsub hapart _ hsource
  · rw [hwritten.furrowRow]
    exact State.furrowRow_setFurrowRow_same _ _ _ _ _ hd
  · rw [hwritten.threads, State.threads_setFurrowRow, hsource.threads, State.threads_setFurrowRow]

theorem State.qvmc_alone (hfocus : s.focus = .op c o.seq) (hop : s.findOp c o.seq = some o) (hrun : o.state = .running)
    (hsubs : o.passSubs = [e, q]) (hd : writableRow d) (he : dieOf e.1 = lay.toNat) (hq : dieOf q.1 ≠ lay.toNat) (hvia : sameVia q.1 e.1 = false) :
    (qvmcBody x d lay s).furrowRow o e d = s.furrowRow o e x ∧ s.onlyRow (qvmcBody x d lay s) o e d ∧
      (qvmcBody x d lay s).opStands c o 3 (o.pc + 1) o.loops ∧ (qvmcBody x d lay s).threads = s.threads := by
  obtain ⟨hrows, hstands⟩ := State.qvmc_runs (x := x) (d := d) hfocus hop hrun hsubs he hq
  rw [hvia] at hrows
  have hwritten := State.rowsStand_trans (State.rowsStand_vmcSource (s := s) (o := o) (e := e) (x := x) (d := d)) hrows
  refine ⟨?_, State.onlyRow_rowsStand (s.onlyRow_setFurrowRow o e d _ hd) hwritten, hstands, ?_⟩
  · rw [hwritten.furrowRow]
    exact State.furrowRow_setFurrowRow_same _ _ _ _ _ hd
  · rw [hwritten.threads, State.threads_setFurrowRow]
end

/-! QSAFE and QRET (R250, R321, R324). -/
section
variable {s : State} {c : Nat} {o : FieldOp} {e : Nat × Nat}

theorem State.opRuns.qsafe (h : s.opRuns c o e) :
    ∃ p, (qsafeBody s).findOp c o.seq = some p ∧ p.pc = o.pc + 1 ∧ p.safe = true ∧ p.steps = o.steps ∧ p.state = .running ∧
      (∀ b ∈ o.banks, ((qsafeBody s).bank b).debt = 0) ∧ (qsafeBody s).mem = s.mem ∧ (qsafeBody s).specials = s.specials ∧
      (qsafeBody s).threads = s.threads := by
  obtain ⟨hfocus, hop, hrun, -⟩ := h
  obtain ⟨hrows, hstands⟩ := runFurrow_runs 0 (fun o s => s.refreshOp o) (fun o => { o.advance with safe := true }) hfocus hop hrun
    (s.keepsClusters_refreshOp o) fun _ => rfl
  have hstand := State.rowsStand_trans (s.rowsStand_refreshOp o) hrows
  have hpaid : ∀ b ∈ o.banks, ((qsafeBody s).bank b).debt = 0 := fun b hb => by
    rw [qsafeBody, runFurrow_eq 0 _ _ hfocus hop hrun, if_pos rfl]
    exact s.debt_refreshOp hb
  exact ⟨_, hstands, rfl, rfl, rfl, hrun, hpaid, hstand.mem, hstand.specials, hstand.threads⟩

theorem State.opRuns.running (h : s.opRuns c o e) : o.state = .running := by
  obtain ⟨-, -, hrun, -⟩ := h
  exact hrun

theorem State.opRuns.findOp_refreshOp (h : s.opRuns c o e) : (s.refreshOp o).findOp c o.seq = some o := by
  obtain ⟨-, hop, -, -⟩ := h
  exact ((s.keepsClusters_refreshOp o).findOp c o.seq).trans hop

theorem qretBody_eq (h : s.opRuns c o e) : qretBody s = (if o.pass + 1 < o.passes then
    ((s.refreshOp o).updOp c o.seq fun o => { o with pass := o.pass + 1 }).beginPass c o.seq
    else (s.refreshOp o).updOp c o.seq fun o => { o with state := .encoding, pc := 0, loops := [], safe := true }) := by
  obtain ⟨hfocus, hop, hrun, -⟩ := h
  unfold qretBody
  simp only [hfocus, hop, hrun]
  rfl

theorem State.opRuns.qret_last (h : s.opRuns c o e) (hpass : o.passes ≤ o.pass + 1) :
    ∃ p, (qretBody s).findOp c o.seq = some p ∧ p.state = .encoding ∧ p.safe = true ∧ p.pass = o.pass ∧ (qretBody s).mem = s.mem ∧
      (qretBody s).specials = s.specials ∧ (qretBody s).threads = s.threads := by
  have hop := h.findOp_refreshOp
  have hstand := State.rowsStand_trans (s.rowsStand_refreshOp o)
    (State.rowsStand_updOp _ c o.seq fun o => { o with state := .encoding, pc := 0, loops := [], safe := true })
  rw [qretBody_eq h, if_neg (Nat.not_lt.mpr hpass)]
  exact ⟨_, State.findOp_updOp hop fun _ h => h, rfl, rfl, rfl, hstand.mem, hstand.specials, hstand.threads⟩

theorem State.opRuns.qret_next (h : s.opRuns c o e) (hpass : o.pass + 1 < o.passes) :
    ∃ p, (qretBody s).findOp c o.seq = some p ∧ p.state = .running ∧ p.pass = o.pass + 1 ∧ p.pc = 0 ∧ p.loops = [] ∧ p.safe = true ∧
      p.steps = o.steps + 1 ∧
      (∀ x ∈ o.subsOf (o.pass + 1), ∀ k, k < 10 → mget 0 (qretBody s).specials (x.1 * 16 + k) =
        (if o.launch.keep = true ∧ mget 0 s.keepOwner x.1 = o.owner + 1 then mget 0 s.specials (x.1 * 16 + k) else 0)) ∧
      (∀ j, (∀ x ∈ o.subsOf (o.pass + 1), ∀ k, k < 10 → j ≠ x.1 * 16 + k) → mget 0 (qretBody s).specials j = mget 0 s.specials j) ∧
      (qretBody s).mem = s.mem ∧ (qretBody s).threads = s.threads := by
  have hop := h.findOp_refreshOp
  have hnext := State.findOp_updOp (f := fun o => { o with pass := o.pass + 1 }) hop fun _ h => h
  have hstand := State.rowsStand_trans (s.rowsStand_refreshOp o) (State.rowsStand_updOp _ c o.seq fun o => { o with pass := o.pass + 1 })
  rw [qretBody_eq h, if_pos hpass]
  exact ⟨_, (State.beginPass_runs hnext).2, h.running, rfl, rfl, rfl, rfl, rfl, State.beginPass_rows hstand hnext⟩
end

/-- Settles O39: a word that writes one row by what it writes there, QMAJ by its majority, QVMC by its source and partner, loops and skips by where the op
goes, QSAFE by the debts paid, QRET by the pass begun. -/
theorem furrowWords : Obligations.FurrowWords := by
  unfold Obligations.FurrowWords
  refine ⟨fun s c o e x d h hd => ⟨_, rfl, h.rowWord hd 1 x id⟩, fun s c o e x d h hd => ⟨_, rfl, h.rowWord hd 1 x (fun v => ~~~v)⟩,
    fun s c o e x d h hd => ⟨_, rfl, h.rowWord hd 2 x (fun v => v <<< 1)⟩, fun s c o e x d h hd => ⟨_, rfl, h.rowWord hd 2 x (fun v => v >>> 1)⟩,
    fun s c o e i d par bit h hd => ⟨_, rfl, h.writes hd 1 (fun o _ _ => if o.parBit par.toNat bit.toNat i then BitVec.allOnes 8192 else 0) [d] rfl⟩,
    fun s c o e tr h => ⟨_, rfl, h.qmaj tr⟩,
    fun s c o e q x d lay hfocus hop hrun hsubs hd he hq hvia hapart => ⟨_, rfl, State.qvmc_pair hfocus hop hrun hsubs hd he hq hvia hapart⟩,
    fun s c o e q x d lay hfocus hop hrun hsubs hd he hq hvia => ⟨_, rfl, State.qvmc_alone hfocus hop hrun hsubs hd he hq hvia⟩,
    ?qloopEnters, ?qloopPasses, ?qloopParEnters, ?qloopParPasses, ?qendBack, ?qendOn, ?qskip, fun s c o e h => ?qsafe,
    fun s c o e h hpass => ?qretLast, fun s c o e h hpass => ?qretNext⟩
  case qloopEnters => exact fun s c o e n h hn => ⟨_, rfl, h.moves (FieldOp.loop n.toNat) (FieldOp.seq_loop n.toNat) (FieldOp.loop_enters hn o)⟩
  case qloopPasses => exact fun s c o e n k h hn hk => ⟨_, rfl, h.moves (FieldOp.loop n.toNat) (FieldOp.seq_loop n.toNat) (FieldOp.loop_passes hn hk)⟩
  case qloopParEnters =>
    exact fun s c o e par h hn => ⟨_, rfl, h.moves (fun o => o.loop (o.par par.toNat).toNat) (fun p => FieldOp.seq_loop _ p) (FieldOp.loop_enters hn o)⟩
  case qloopParPasses =>
    exact fun s c o e par k h hn hk => ⟨_, rfl, h.moves (fun o => o.loop (o.par par.toNat).toNat) (fun p => FieldOp.seq_loop _ p) (FieldOp.loop_passes hn hk)⟩
  case qendBack =>
    intro s c o e start n l rest h hloops hl
    exact ⟨_, rfl, h.moves FieldOp.endLoop FieldOp.seq_endLoop ((FieldOp.endLoop_of hloops).trans (if_pos hl))⟩
  case qendOn =>
    intro s c o e start n l rest h hloops hl
    exact ⟨_, rfl, h.moves FieldOp.endLoop FieldOp.seq_endLoop ((FieldOp.endLoop_of hloops).trans (if_neg (Nat.not_lt.mpr hl)))⟩
  case qskip =>
    intro s c o e cnt i v par bit h
    refine ⟨_, rfl, h.moves (fun o => if o.parBit par.toNat bit.toNat i = v then { o with pc := o.pc + cnt.toNat + 2 } else o.advance) (fun p => ?_) ?_⟩
    · split <;> rfl
    · split <;> rfl
  case qsafe =>
    obtain ⟨p, hp⟩ := h.qsafe
    exact ⟨_, p, rfl, hp⟩
  case qretLast =>
    obtain ⟨p, hp⟩ := h.qret_last hpass
    exact ⟨_, p, rfl, hp⟩
  case qretNext =>
    obtain ⟨p, hp⟩ := h.qret_next hpass
    exact ⟨_, p, rfl, hp⟩

end Sys2Proof.Machine
end

-- ==== Proofs: row locks and plane ops ====
section
/-! SUPPORT and the proof of O38: lock requests granted, refused and answered (R244), the start of an op and the end of its encode pass (R250, R251, R320,
R321). -/
set_option Elab.async false
namespace Sys2Proof.Machine
open Host

/-! Lock requests (R244). -/
theorem State.lockReq_id {s : State} {id c : Nat} {q : LockReq} (h : s.lockReq id = some (c, q)) : q.id = id := by
  obtain ⟨k, -, hk⟩ := List.exists_of_findSome?_eq_some h
  obtain ⟨r, hr, hrq⟩ := Option.map_eq_some_iff.mp hk
  obtain ⟨-, rfl⟩ := Prod.mk.inj hrq
  simpa using List.find?_some hr

section
variable {s : State} {id c : Nat} {q : LockReq}

theorem plockGrantBody_conflict (h : s.lockReq id = some (c, q)) {p : Nat} (hp : (s.cluster c).conflict q.lock = some p) :
    plockGrantBody id s = if q.tries then s.lockEnds c q (ownerWitness (partyTid p)) else s := by
  unfold State.lockReq at h
  unfold plockGrantBody
  simp only [h, hp]

/-- Where a request is granted, its rows are read, and it ends by what that read has met. -/
theorem plockGrantBody_grants (h : s.lockReq id = some (c, q)) (hm : s.mayGrant c q = true) :
    plockGrantBody id s = (match (s.scrubRows c q.lock).badRow q.lock with
      | some a => (q.lock.lines.foldl State.meetBad (s.scrubRows c q.lock)).lockEnds c q (errWitness 3 a)
      | none => (s.scrubRows c q.lock).grantLock c q) := by
  unfold State.mayGrant at hm
  simp only [Bool.and_eq_true, Bool.not_eq_true', Option.isNone_iff_eq_none, decide_eq_true_eq] at hm
  obtain ⟨⟨⟨⟨⟨⟨⟨hconflict, hearlier⟩, hfull⟩, hroom⟩, harrived⟩, hunripe⟩, hsnoop⟩, hrows⟩ := hm
  unfold State.lockReq at h
  unfold plockGrantBody
  simp only [h, hconflict, hearlier, decide_eq_false (Nat.not_le.mpr hfull), harrived, hunripe, hsnoop, hrows, Bool.or_false, Bool.false_eq_true, if_false]
  refine (if_neg ?_).trans rfl
  cases hl : q.launch with
  | none => simp
  | some e => simpa [hl] using hroom
end

/-! How a request ends. -/
/-- The request leaves its home; clusters, memory and threads stand otherwise, and groups but for the answer. -/
structure State.reqEnds (s t : State) (c : Nat) (q : LockReq) (a : Answer) : Prop where
  clusters : t.clusters = (s.dropLockReq c q.id).clusters
  groups : t.groups = (s.answer q.gid a).groups
  mem : t.mem = s.mem
  threads : t.threads = s.threads
  saved : t.saved = s.saved

theorem State.reqEnds_answer (s : State) (c : Nat) (q : LockReq) (a : Answer) : s.reqEnds ((s.dropLockReq c q.id).answer q.gid a) c q a := by
  constructor <;>
  · unfold State.answer
    cases q.gid <;> rfl

theorem State.reqEnds.raiseHorizonW {s t : State} {c : Nat} {q : LockReq} {a : Answer} (h : s.reqEnds t c q a) (tile : Nat) (w : Word) :
    s.reqEnds (t.raiseHorizonW tile w) c q a := by
  unfold State.raiseHorizonW
  obtain ⟨hclusters, hgroups, hmem, hthreads, hsaved⟩ := h
  split <;> exact ⟨hclusters, hgroups, hmem, hthreads, hsaved⟩

/-- A thread's request, and a packet's that ends in no error, ends by its answer. -/
theorem State.reqEnds_lockEnds (s : State) (c : Nat) (q : LockReq) (w : Word) (h : isThreadParty q.lock.owner = true ∨ wKind w ≠ 1) :
    s.reqEnds (s.lockEnds c q w) c q ⟨none, some w, none⟩ := by
  have hanswer := s.reqEnds_answer c q ⟨none, some w, none⟩
  unfold State.lockEnds
  cases howner : isThreadParty q.lock.owner with
  | true =>
    simp only [if_true]
    split
    · exact hanswer.raiseHorizonW _ _
    · exact hanswer
  | false =>
    have hw : wKind w ≠ 1 := h.resolve_left (by simp [howner])
    simp only [Bool.false_eq_true, if_false, if_pos hw]
    exact hanswer

section
variable {s t : State} {c : Nat} {q : LockReq} {a : Answer}

theorem State.reqEnds.locks (h : s.reqEnds t c q a) : (t.cluster c).locks = (s.cluster c).locks := by
  rw [State.cluster, h.clusters, ← State.cluster, State.dropLockReq, State.setCluster_cluster_same]

theorem State.reqEnds.gone (h : s.reqEnds t c q a) : ∀ r ∈ (t.cluster c).lockReqs, r.id ≠ q.id := by
  rw [State.cluster, h.clusters, ← State.cluster, State.dropLockReq, State.setCluster_cluster_same]
  intro r hr
  simpa using (List.mem_filter.mp hr).2

theorem State.reqEnds.answered (h : s.reqEnds t c q a) {gid : Nat} (hg : q.gid = some gid) :
    t.groups = s.groups.map (fun g => if g.gid = gid then g.take a else g) := by
  rw [h.groups, hg]
  rfl
end

theorem State.endures_of_eq {s t : State} (hthreads : t.threads = s.threads) (hsaved : t.saved = s.saved) (p : Nat) : t.endures p = s.endures p := by
  unfold State.endures State.present State.party State.thread
  rw [hthreads, hsaved]

theorem wKind_optWitness (t : Option Time) : wKind (optWitness t) ≠ 1 := by
  cases t with
  | none => exact by decide
  | some t =>
    have ht := t.isLt
    have hkind : wKind (timeWitness t) = t.toNat / 2 ^ 62 % 2 ^ 2 := by
      rw [wKind, timeWitness, bitsAt, BitVec.toNat_setWidth, Nat.mod_eq_of_lt (a := t.toNat) (by omega)]
    rw [optWitness, hkind, Nat.div_eq_of_lt ht]
    decide

/-! Grants. -/
theorem State.homesServe_setLine (s : State) (l : Nat) (x : LineT) : s.homesServe (s.setLine l x) := ⟨rfl, s.keepsClusters_setLine l x, fun _ => rfl⟩

theorem State.homesServe_flushLine (s : State) (c : Nat) (wr : Bool) (l : Nat) : s.homesServe (s.flushLine c wr l) := by
  have hscrubbed := s.homesServe_scrubHeld c l
  have hwritten : ∀ u : State, u.homesServe (if (u.line l).held && (u.line l).dirty then (u.setLine l { u.line l with dirty := false }).writeBack l else u) :=
    fun u => State.homesServe_ite (State.homesServe_trans (u.homesServe_setLine l _) (State.homesServe_writeBack _ l)) u.homesServe_refl
  have hcorrected := State.homesServe_trans (State.homesServe_trans hscrubbed (hwritten _)) (State.homesServe_correctLine _ l)
  exact State.homesServe_ite (State.homesServe_trans hcorrected (State.homesServe_dropLine _ c l)) hcorrected

theorem State.homesServe_scrubRows (s : State) (c : Nat) (l : Lock) : s.homesServe (s.scrubRows c l) :=
  State.homesServe_trans (State.homesServe_foldl (fun t k => t.homesServe_flushLine c l.write k) l.lines s)
    (State.homesServe_foldl (fun t k => t.homesServe_openLine k) l.heads _)

/-- The lock is taken, and its request ended. -/
def State.lockTaken (s : State) (c : Nat) (q : LockReq) : State :=
  (s.setCluster c { s.cluster c with locks := (s.cluster c).locks ++ [q.lock] }).lockEnds c q
    (optWitness (joinTimes (q.lock.lines.map fun l => some (s.wts c l))))

theorem State.grantLock_eq {s : State} {c : Nat} {q : LockReq} (h : (s.lockTaken c q).endures q.lock.owner = true) :
    s.grantLock c q = (match q.launch with | some (l, p) => (s.lockTaken c q).acceptLaunch q.lock.owner l (some p) | none => s.lockTaken c q) := by
  have hstays : (if (s.lockTaken c q).endures q.lock.owner then s.lockTaken c q else (s.lockTaken c q).releaseAll q.lock.owner) = s.lockTaken c q := if_pos h
  unfold State.grantLock
  cases q.launch with
  | none => exact hstays
  | some e => exact congrArg (fun s : State => s.acceptLaunch q.lock.owner e.1 (some e.2)) hstays

theorem State.endures_lockTaken (s : State) (c : Nat) (q : LockReq) : (s.lockTaken c q).endures q.lock.owner = s.endures q.lock.owner := by
  have hends := (s.setCluster c { s.cluster c with locks := (s.cluster c).locks ++ [q.lock] }).reqEnds_lockEnds c q
    (optWitness (joinTimes (q.lock.lines.map fun l => some (s.wts c l)))) (.inr (wKind_optWitness _))
  exact State.endures_of_eq hends.threads hends.saved _

/-- What taking a lock leaves and changes. -/
theorem State.lockTaken_leaves (s : State) (c : Nat) (q : LockReq) :
    ((s.lockTaken c q).cluster c).locks = (s.cluster c).locks ++ [q.lock] ∧ (∀ r ∈ ((s.lockTaken c q).cluster c).lockReqs, r.id ≠ q.id) ∧
      (∀ gid, q.gid = some gid → (s.lockTaken c q).groups = s.groups.map (fun g => if g.gid = gid then
        g.take ⟨none, some (optWitness (joinTimes (q.lock.lines.map fun l => some (s.wts c l)))), none⟩ else g)) ∧
      (s.lockTaken c q).mem = s.mem ∧ (s.lockTaken c q).threads = s.threads := by
  have hends := (s.setCluster c { s.cluster c with locks := (s.cluster c).locks ++ [q.lock] }).reqEnds_lockEnds c q
    (optWitness (joinTimes (q.lock.lines.map fun l => some (s.wts c l)))) (.inr (wKind_optWitness _))
  exact ⟨hends.locks.trans (by rw [State.setCluster_cluster_same]), hends.gone, fun _ hg => hends.answered hg, hends.mem, hends.threads⟩

theorem State.acceptLaunch_leaves (s : State) (owner : Nat) (l : Launch) (p : Option (Nat × Nat)) (c : Nat) :
    ((s.acceptLaunch owner l p).cluster c).locks = (s.cluster c).locks ∧ ((s.acceptLaunch owner l p).cluster c).lockReqs = (s.cluster c).lockReqs := by
  unfold State.acceptLaunch
  by_cases h : c = l.cluster
  · subst h
    rw [State.setCluster_cluster_same]
    exact ⟨rfl, rfl⟩
  · rw [State.setCluster_cluster_other _ _ h]
    exact ⟨rfl, rfl⟩

theorem State.acceptLaunch_queues (s : State) (owner : Nat) (l : Launch) (p : Option (Nat × Nat)) :
    ∃ o ∈ ((s.acceptLaunch owner l p).cluster l.cluster).ops, o.state = .queued ∧ o.launch = l ∧ o.owner = owner ∧ o.packet = p := by
  rw [State.acceptLaunch, State.setCluster_cluster_same]
  exact ⟨_, List.mem_append_right _ (List.mem_singleton_self _), rfl, rfl, rfl, rfl⟩

section
variable {s : State} {id c : Nat} {q : LockReq}

theorem State.plock_granted (h : s.lockReq id = some (c, q)) (hm : s.mayGrant c q = true) (hgood : (s.scrubRows c q.lock).badRow q.lock = none)
    (hends : s.endures q.lock.owner = true) :
    plockGrantBody id s = (match q.launch with
      | some (l, p) => ((s.scrubRows c q.lock).lockTaken c q).acceptLaunch q.lock.owner l (some p)
      | none => (s.scrubRows c q.lock).lockTaken c q) := by
  have hserved := s.homesServe_scrubRows c q.lock
  have hstays : ((s.scrubRows c q.lock).lockTaken c q).endures q.lock.owner = true := by
    rw [State.endures_lockTaken, State.endures_of_eq hserved.threads hserved.saved, hends]
  rw [plockGrantBody_grants h hm, hgood]
  exact State.grantLock_eq hstays
end

/-! The encode pass (R250). -/
/-- Each cluster's ops, memory and threads stand. -/
structure State.opsStand (s t : State) : Prop where
  clusters : s.keepsClusters t
  mem : t.mem = s.mem
  threads : t.threads = s.threads

theorem State.opsStand_trans {s t u : State} (h : s.opsStand t) (k : t.opsStand u) : s.opsStand u :=
  ⟨State.keepsClusters_trans h.clusters k.clusters, k.mem.trans h.mem, k.threads.trans h.threads⟩

theorem State.opsStand_foldl {α : Type} {f : State → α → State} (h : ∀ (t : State) a, t.opsStand (f t a)) (l : List α) (s : State) :
    s.opsStand (l.foldl f s) :=
  List.foldlRecOn l f ⟨s.keepsClusters_refl, rfl, rfl⟩ fun _ ht a _ => State.opsStand_trans ht (h _ a)

/-- Lines of a row performed with no new byte. -/
theorem State.homesServe_performs (c : Nat) (t : Time) (l : List Nat) (s : State) : s.homesServe (l.foldl (fun s l => s.perform c l [] t true false) s) :=
  State.homesServe_foldl (fun u l => u.homesServe_perform c l [] t true false) l s

theorem State.opsStand_encodeRow (s : State) (c : Nat) (t : Time) (e : Nat × Nat) (row : Nat) : s.opsStand (s.encodeRow c t e row) := by
  have hserved := State.homesServe_trans (State.homesServe_performs c t (linesOf (e.2 + row * 1024) 1024) s)
    (State.homesServe_activate _ (e.1 / 32) (e.1 % 32 * 512 + row))
  exact ⟨hserved.clusters, hserved.mem, hserved.threads⟩

theorem State.stale_encodeRow (s : State) (c : Nat) (t : Time) (e : Nat × Nat) (row : Nat) :
    (s.encodeRow c t e row).stale = mset false s.stale (e.1 * 512 + row) false := by
  have hserved := State.homesServe_trans (State.homesServe_performs c t (linesOf (e.2 + row * 1024) 1024) s)
    (State.homesServe_activate _ (e.1 / 32) (e.1 % 32 * 512 + row))
  exact congrArg (fun m => mset false m (e.1 * 512 + row) false) hserved.stale

theorem State.stale_encodeRows (c : Nat) (l : List (((Nat × Nat) × Nat) × Time)) (s : State) :
    (l.foldl (fun s x => s.encodeRow c x.2 x.1.1 x.1.2) s).stale = l.foldl (fun m x => mset false m (x.1.1.1 * 512 + x.1.2) false) s.stale := by
  induction l generalizing s with
  | nil => rfl
  | cons x r ih => rw [List.foldl_cons, ih, State.stale_encodeRow, List.foldl_cons]

/-- The op as its next row groups leave it. -/
def FieldOp.encodedBy (o : FieldOp) (times : List Time) : FieldOp :=
  { o with encoded := o.encoded + 1, safe := true, encTime := joinTimes (o.encTime :: times.map some) }
/-- The row groups as they are encoded, at given times. -/
def State.rowsEncoded (s : State) (c : Nat) (o : FieldOp) (times : List Time) : State :=
  (((o.encodeNext.zip times).foldl (fun s x => s.encodeRow c x.2 x.1.1 x.1.2) s).stepped o.banks).updOp c o.seq fun _ => o.encodedBy times

theorem State.encodeRows_eq {s : State} {c : Nat} {o : FieldOp} (h : (s.encodeTimes c o).all s.underCeiling = true) :
    s.encodeRows c o o.encodeNext = if (o.encodedBy (s.encodeTimes c o)).encodeDone then
      (s.rowsEncoded c o (s.encodeTimes c o)).finishOp c (o.encodedBy (s.encodeTimes c o)) else s.rowsEncoded c o (s.encodeTimes c o) := by
  unfold State.encodeTimes at h ⊢
  unfold State.encodeRows
  simp only [h, Bool.not_true, Bool.false_eq_true, if_false]
  rfl

theorem State.opsStand_stepped (s : State) (banks : List Nat) : s.opsStand (s.stepped banks) :=
  ⟨s.keepsClusters_stepped banks, (s.rowsStand_stepped banks).mem, (s.rowsStand_stepped banks).threads⟩

/-- The row groups are written and no longer check-stale, and the op goes on to the next. -/
theorem State.rowsEncoded_leaves {s : State} {c : Nat} {o : FieldOp} (h : s.findOp c o.seq = some o) (times : List Time)
    (hlen : times.length = o.encodeNext.length) :
    (s.rowsEncoded c o times).mem = s.mem ∧ (s.rowsEncoded c o times).threads = s.threads ∧
      (s.rowsEncoded c o times).findOp c o.seq = some (o.encodedBy times) ∧
      ∀ x ∈ o.encodeNext, mget false (s.rowsEncoded c o times).stale (x.1.1 * 512 + x.2) = false := by
  have hrows := State.opsStand_foldl (fun t (x : ((Nat × Nat) × Nat) × Time) => t.opsStand_encodeRow c x.2 x.1.1 x.1.2) (o.encodeNext.zip times) s
  have hstale := State.stale_encodeRows c (o.encodeNext.zip times) s
  have hfst : (o.encodeNext.zip times).map Prod.fst = o.encodeNext := List.map_fst_zip hlen.ge
  unfold State.rowsEncoded
  generalize (o.encodeNext.zip times).foldl (fun s x => s.encodeRow c x.2 x.1.1 x.1.2) s = t at hrows hstale ⊢
  have hstepped := State.opsStand_trans hrows (t.opsStand_stepped o.banks)
  refine ⟨hstepped.mem, hstepped.threads, State.findOp_updOp ((hstepped.clusters.findOp c o.seq).trans h) fun _ _ => rfl, fun x hx => ?_⟩
  have hbanks : (t.stepped o.banks).stale = t.stale := List.foldlRecOn (motive := fun u : State => u.stale = t.stale) _ _ rfl fun _ hu _ _ => hu
  show mget false (t.stepped o.banks).stale _ = false
  rw [hbanks, hstale, mget_foldl_mset false (fun x : ((Nat × Nat) × Nat) × Time => x.1.1.1 * 512 + x.1.2), if_pos]
  rw [← hfst] at hx
  obtain ⟨y, hy, rfl⟩ := List.mem_map.mp hx
  exact List.mem_map_of_mem hy

/-! The end of an op (R250, R251). -/
/-- The op is done, and the rows that waited for it to leave its owner's locks have left. -/
def State.opEnded (s : State) (c : Nat) (o : FieldOp) (w : Word) (abandoned : Bool) : State :=
  let u := s.updOp c o.seq fun p => { p with state := .done, witness := some w, abandoned := abandoned }
  u.setCluster c ((u.cluster c).settleLocks o.owner)
/-- The packet of an op has its effect. -/
def State.packetEnded (s : State) (c : Nat) (packet : Option (Nat × Nat)) (w : Word) : State :=
  match packet with
  | some p => (s.setCluster c ((s.cluster c).dropPacket p.1 p.2)).packetDone p.1 p.2
      (if wKind w = 0 then some (wTime w) else none) (if wKind w = 1 then some w else none)
  | none => s
/-- The op's region is charged its steps. -/
def State.opCharged (s : State) (o : FieldOp) : State :=
  { s with agenda := s.agenda ++ [Instr.budgetCharge (s.teamAsid (teamOfParty o.owner) o.launch.asid) o.launch.region 2 o.steps] }

theorem State.endOp_eq (s : State) (c : Nat) (o : FieldOp) (w : Word) (abandoned : Bool) :
    s.endOp c o w abandoned = (((s.opEnded c o w abandoned).packetEnded c o.packet w).opCharged o).setCluster c
      ((((s.opEnded c o w abandoned).packetEnded c o.packet w).opCharged o).cluster c).retain := rfl

theorem State.packetEnded_leaves (s : State) (c : Nat) (p : Option (Nat × Nat)) (w : Word) :
    (s.packetEnded c p w).mem = s.mem ∧ (s.packetEnded c p w).threads = s.threads ∧ (s.packetEnded c p w).stale = s.stale := by
  cases p <;> exact ⟨rfl, rfl, rfl⟩

theorem State.endOp_leaves (s : State) (c : Nat) (o : FieldOp) (w : Word) (abandoned : Bool) :
    (s.endOp c o w abandoned).mem = s.mem ∧ (s.endOp c o w abandoned).threads = s.threads ∧ (s.endOp c o w abandoned).stale = s.stale := by
  rw [State.endOp_eq]
  exact (s.opEnded c o w abandoned).packetEnded_leaves c o.packet w

theorem State.finishOp_leaves (s : State) (c : Nat) (o : FieldOp) :
    (s.finishOp c o).mem = s.mem ∧ (s.finishOp c o).threads = s.threads ∧ (s.finishOp c o).stale = s.stale := s.endOp_leaves c o _ false

/-- No more than 4,096 ops, all are retained. -/
theorem Cluster.ops_retain {k : Cluster} (h : k.ops.length ≤ 4096) : k.retain.ops = k.ops := by
  have hgone : (k.ops.filter (fun o => o.state == .done)).length - 4096 = 0 :=
    Nat.sub_eq_zero_of_le ((List.length_filter_le _ _).trans h)
  unfold Cluster.retain
  simp [hgone]

theorem State.findOp_setCluster {s : State} {c : Nat} {k : Cluster} (h : k.ops = (s.cluster c).ops) (seq : Nat) :
    (s.setCluster c k).findOp c seq = s.findOp c seq := by
  rw [State.findOp, State.setCluster_cluster_same, h, State.findOp]

theorem Cluster.ops_settleLocks (k : Cluster) (owner : Nat) : (k.settleLocks owner).ops = k.ops := rfl

theorem State.findOp_endOp {s : State} {c : Nat} {o : FieldOp} (h : s.findOp c o.seq = some o) (hpacket : o.packet = none)
    (hlen : (s.cluster c).ops.length ≤ 4096) (w : Word) (abandoned : Bool) :
    (s.endOp c o w abandoned).findOp c o.seq = some { o with state := .done, witness := some w, abandoned := abandoned } := by
  have hdone := State.findOp_updOp (f := fun p => { p with state := .done, witness := some w, abandoned := abandoned }) h fun _ h => h
  have hended : (s.opEnded c o w abandoned).findOp c o.seq = some { o with state := .done, witness := some w, abandoned := abandoned } :=
    (State.findOp_setCluster (Cluster.ops_settleLocks _ _) _).trans hdone
  have hops : ((s.opEnded c o w abandoned).cluster c).ops.length = (s.cluster c).ops.length := by
    rw [State.opEnded, State.setCluster_cluster_same, State.updOp, State.setCluster_cluster_same]
    exact List.length_map _
  have hnone : (s.opEnded c o w abandoned).packetEnded c o.packet w = s.opEnded c o w abandoned := by rw [hpacket]; rfl
  rw [State.endOp_eq, hnone]
  exact (State.findOp_setCluster (Cluster.ops_retain (hops.trans_le hlen)) _).trans hended

section
variable {s : State} {c : Nat} {o : FieldOp}

theorem encodePassEndBody_rows (hop : s.findOp c o.seq = some o) (hstate : o.state = .encoding) (hmore : o.encodeDone = false)
    (hsnoop : s.snoopWait (o.encodeNext.flatMap (fun x => linesOf (x.1.2 + x.2 * 1024) 1024)) true = none)
    (htimes : (s.encodeTimes c o).all s.underCeiling = true) :
    encodePassEndBody c o.seq s = if (o.encodedBy (s.encodeTimes c o)).encodeDone then
      (s.rowsEncoded c o (s.encodeTimes c o)).finishOp c (o.encodedBy (s.encodeTimes c o)) else s.rowsEncoded c o (s.encodeTimes c o) := by
  unfold encodePassEndBody
  simp only [hop, hstate, hmore, hsnoop, bne_self_eq_false, Bool.false_eq_true, if_false]
  exact State.encodeRows_eq htimes

theorem encodePassEndBody_done (hop : s.findOp c o.seq = some o) (hstate : o.state = .encoding) (hdone : o.encodeDone = true) :
    encodePassEndBody c o.seq s = s.finishOp c o := by
  unfold encodePassEndBody
  simp only [hop, hstate, hdone, bne_self_eq_false, Bool.false_eq_true, if_false, if_true]

theorem State.encodes (hop : s.findOp c o.seq = some o) (hstate : o.state = .encoding) (hmore : o.encodeDone = false)
    (hsnoop : s.snoopWait (o.encodeNext.flatMap (fun x => linesOf (x.1.2 + x.2 * 1024) 1024)) true = none)
    (htimes : (s.encodeTimes c o).all s.underCeiling = true) :
    (∀ x ∈ o.encodeNext, mget false (encodePassEndBody c o.seq s).stale (x.1.1 * 512 + x.2) = false) ∧
      (({ o with encoded := o.encoded + 1 } : FieldOp).encodeDone = false →
        (encodePassEndBody c o.seq s).findOp c o.seq = some (o.encodedBy (s.encodeTimes c o))) ∧
      (encodePassEndBody c o.seq s).mem = s.mem ∧ (encodePassEndBody c o.seq s).threads = s.threads := by
  have hlen : (s.encodeTimes c o).length = o.encodeNext.length := List.length_map _
  obtain ⟨hmem, hthreads, hfound, hstale⟩ := State.rowsEncoded_leaves hop (s.encodeTimes c o) hlen
  rw [encodePassEndBody_rows hop hstate hmore hsnoop htimes]
  split
  next hlast =>
    obtain ⟨hmem', hthreads', hstale'⟩ := (s.rowsEncoded c o (s.encodeTimes c o)).finishOp_leaves c (o.encodedBy (s.encodeTimes c o))
    refine ⟨fun x hx => ?_, fun hlater => ?_, hmem'.trans hmem, hthreads'.trans hthreads⟩
    · rw [hstale', hstale x hx]
    · exact absurd hlast (Bool.eq_false_iff.mp hlater)
  next => exact ⟨hstale, fun _ => hfound, hmem, hthreads⟩

/-! The start of an op (R320, R321). -/
theorem fieldOpStartBody_starts (hop : s.findOp c o.seq = some o) (hmay : (s.cluster c).mayStart o = true) :
    fieldOpStartBody c o.seq s = (s.updOp c o.seq fun o => { o with state := .running }).beginPass c o.seq := by
  unfold fieldOpStartBody
  simp only [hop, hmay, if_true]
end

/-- Settles O38: a request by what its grant, its refusal and its answer leave; a start by the first step of the pass; an encode pass by the rows it
performs and the op it ends. -/
theorem rowLocksAndPlaneOps : Obligations.RowLocksAndPlaneOps := by
  unfold Obligations.RowLocksAndPlaneOps
  refine ⟨fun s id c q gid h hm hgood hg hlaunch _ hends => ?granted, fun s id c q gid a h hm hbad hg _ howner => ?bad,
    fun s id c q gid p h hp hg htries howner => ?tried, fun s id c q p h hp htries => ?waits,
    fun s id c q l p h hm hgood _ hlaunch howner => ?packet, fun s c o hop hmay => ?starts,
    fun s c o hop hstate hmore hsnoop htimes => ⟨_, rfl, State.encodes hop hstate hmore hsnoop htimes⟩, fun s c o hop hstate hdone hpacket hlen => ?ends⟩
  case granted =>
    have hserved := s.homesServe_scrubRows c q.lock
    obtain ⟨hlocks, hgone, hgroups, hmem, hthreads⟩ := (s.scrubRows c q.lock).lockTaken_leaves c q
    have hbody := State.plock_granted h hm hgood hends
    rw [hlaunch] at hbody
    refine ⟨_, congrArg Outcome.next hbody, ?_, State.lockReq_id h ▸ hgone, ?_, hmem.trans hserved.mem, hthreads.trans hserved.threads⟩
    · rw [hlocks, (hserved.clusters c).locks]
    · rw [hgroups gid hg, hserved.groups]
  case bad =>
    have hserved := State.homesServe_trans (s.homesServe_scrubRows c q.lock)
      (State.homesServe_foldl State.homesServe_meetBad q.lock.lines (s.scrubRows c q.lock))
    have hanswer := (q.lock.lines.foldl State.meetBad (s.scrubRows c q.lock)).reqEnds_lockEnds c q (errWitness 3 a) (.inl howner)
    have hbody := plockGrantBody_grants h hm
    rw [hbad] at hbody
    refine ⟨_, congrArg Outcome.next hbody, ?_, State.lockReq_id h ▸ hanswer.gone, ?_, hanswer.mem.trans hserved.mem, hanswer.threads.trans hserved.threads⟩
    · rw [hanswer.locks, (hserved.clusters c).locks]
    · rw [hanswer.answered hg, hserved.groups]
  case tried =>
    have hanswer := s.reqEnds_lockEnds c q (ownerWitness (partyTid p)) (.inl howner)
    exact ⟨_, congrArg Outcome.next ((plockGrantBody_conflict h hp).trans (if_pos htries)), hanswer.locks, State.lockReq_id h ▸ hanswer.gone,
      hanswer.answered hg, hanswer.mem, hanswer.threads⟩
  case waits =>
    exact congrArg Outcome.next ((plockGrantBody_conflict h hp).trans (if_neg (by simp [htries])))
  case packet =>
    have hserved := s.homesServe_scrubRows c q.lock
    obtain ⟨hlocks, hgone, -, hmem, hthreads⟩ := (s.scrubRows c q.lock).lockTaken_leaves c q
    obtain ⟨hlocks', hreqs'⟩ := ((s.scrubRows c q.lock).lockTaken c q).acceptLaunch_leaves q.lock.owner l (some p) c
    have hbody := State.plock_granted h hm hgood (by simp [State.endures, howner])
    rw [hlaunch] at hbody
    refine ⟨_, congrArg Outcome.next hbody, ?_, ?_, State.acceptLaunch_queues _ _ l _, hmem.trans hserved.mem, hthreads.trans hserved.threads⟩
    · rw [hlocks', hlocks]
      exact List.mem_append_right _ (List.mem_singleton_self _)
    · rw [hreqs']
      exact State.lockReq_id h ▸ hgone
  case starts =>
    have hrunning := State.findOp_updOp (f := fun o => { o with state := .running }) hop fun _ h => h
    obtain ⟨hrows, -, hmem, hthreads⟩ := State.beginPass_rows (s.rowsStand_updOp c o.seq fun o => { o with state := .running }) hrunning
    exact ⟨_, _, congrArg Outcome.next (fieldOpStartBody_starts hop hmay), (State.beginPass_runs hrunning).2, rfl, rfl, rfl, rfl, rfl, rfl, rfl, hrows, hmem,
      hthreads⟩
  case ends =>
    obtain ⟨hmem, hthreads, hstale⟩ := s.finishOp_leaves c o
    exact ⟨_, _, congrArg Outcome.next (encodePassEndBody_done hop hstate hdone), State.findOp_endOp hop hpacket hlen _ false, rfl, rfl, rfl, hmem, hstale,
      hthreads⟩

end Sys2Proof.Machine
end

-- ==== Proofs: what a copy strip sends ====
section
/-! SUPPORT. The requests and trains of a copy strip: line by line the cells and folds of its elements, in order (R267, R268, R336; O41). -/
set_option Elab.async false
namespace Sys2Proof.Machine

/-! Where an element goes depends on maps that homes keep (R294, R295, R336). -/
theorem remapPlace_congr {k m : Cluster} (h : k.keeps m) (p : Place) : remapPlace m p = remapPlace k p := by
  unfold remapPlace
  rw [h.remap]

theorem State.keepsClusters.place {s t : State} (h : s.keepsClusters t) (key : Nat) : t.place key = s.place key := by
  have hmap : ∀ n p, remapPlace (t.cluster n) p = remapPlace (s.cluster n) p := fun n p => remapPlace_congr (h n) p
  unfold State.place State.placeBy
  simp only [hmap, (h 0).il]

/-- From `s` to `t` these requests and trains have left; clusters' maps, tiles' copy queues, memory and threads stand. -/
structure State.sends (s t : State) (reqs : List StoreReq) (trains : List Train) : Prop where
  clusters : s.keepsClusters t
  queues : ∀ n, (t.tile n).queues = (s.tile n).queues
  mem : t.mem = s.mem
  threads : t.threads = s.threads
  peers : t.peers = s.peers
  cisterns : t.cisterns = s.cisterns
  stores : t.stores = s.stores ++ reqs
  trains : t.trains = s.trains ++ trains

section
variable {s t u : State} {r p : List StoreReq} {a b : List Train}

theorem State.sends_refl (s : State) : s.sends s [] [] :=
  ⟨s.keepsClusters_refl, fun _ => rfl, rfl, rfl, rfl, rfl, (List.append_nil _).symm, (List.append_nil _).symm⟩

theorem State.sends_trans (h : s.sends t r a) (k : t.sends u p b) : s.sends u (r ++ p) (a ++ b) :=
  ⟨State.keepsClusters_trans h.clusters k.clusters, fun n => (k.queues n).trans (h.queues n), k.mem.trans h.mem, k.threads.trans h.threads,
    k.peers.trans h.peers, k.cisterns.trans h.cisterns, by rw [k.stores, h.stores, List.append_assoc], by rw [k.trains, h.trains, List.append_assoc]⟩

theorem State.homesServe.sends (h : s.homesServe t) : s.sends t [] [] :=
  ⟨h.clusters, h.queues, h.mem, h.threads, h.peers, h.cisterns, h.stores.trans (List.append_nil _).symm, h.trains.trans (List.append_nil _).symm⟩

theorem State.sends.homeOf (h : s.sends t r a) (key : Nat) : homeOf t key = homeOf s key := by
  unfold Machine.homeOf
  rw [h.clusters.place]

theorem State.sends.trainDest (h : s.sends t r a) (tile key : Nat) (route : Route) : t.trainDest tile key route = s.trainDest tile key route := by
  unfold State.trainDest State.peerOf
  rw [h.homeOf, h.peers]

theorem State.sends.cisternTag (h : s.sends t r a) (key : Nat) : t.cisternTag key = s.cisternTag key := by
  unfold State.cisternTag State.cisternAt
  rw [h.cisterns]

theorem State.sends.copyQueue (h : s.sends t r a) (tile q : Nat) : t.copyQueue tile q = s.copyQueue tile q :=
  congrArg (mget CopyQueue.empty · q) (h.queues tile)
end

/-! Elements grouped by line (R304). -/
theorem filter_flatten_groupEls {α : Type} {same : α → α → Bool} {key : α → Nat}
    (hsame : ∀ a b, same a b = (lineOf (key a) == lineOf (key b))) (n : Nat) :
    ∀ (fuel : Nat) (l : List α), l.length ≤ fuel →
      (groupEls same fuel l).flatten.filter (fun x => lineOf (key x) == n) = l.filter (fun x => lineOf (key x) == n)
  | 0, l, h => by
    obtain rfl := List.length_eq_zero_iff.mp (Nat.le_zero.mp h)
    rfl
  | fuel + 1, [], _ => rfl
  | fuel + 1, a :: r, h => by
    have hrest := filter_flatten_groupEls hsame n fuel (r.filter fun b => !same a b)
      ((List.length_filter_le _ _).trans (Nat.le_of_succ_le_succ h))
    rw [groupEls, List.flatten_cons, List.filter_append, hrest, List.filter_filter]
    by_cases ha : lineOf (key a) = n
    · have hmine : ∀ x, same a x = (lineOf (key x) == n) := fun x => by rw [hsame, ha, Bool.beq_comm]
      simp [hmine, ha]
    · have hnone : ∀ x, (lineOf (key x) == n && same a x) = false := fun x => by
        rw [hsame, Bool.and_eq_false_imp, beq_iff_eq]
        exact fun hx => beq_false_of_ne (hx ▸ ha)
      have hother : ∀ x, (lineOf (key x) == n && !same a x) = (lineOf (key x) == n) := fun x => by
        cases hx : lineOf (key x) == n with
        | false => rfl
        | true => simpa [hx] using hnone x
      simp [ha, hnone, hother]

/-! Cells of an element within a line. -/
theorem mem_cellsOf {c : Host.Cell} : ∀ {k : Nat} {l : List Byte}, c ∈ cellsOf k l → k ≤ c.1 ∧ c.1 < k + l.length
  | _, [], h => by cases h
  | k, b :: l, h => by
    rw [List.length_cons]
    rcases List.mem_cons.mp h with rfl | hr
    · exact ⟨le_rfl, by dsimp only; omega⟩
    · obtain ⟨hle, hlt⟩ := mem_cellsOf hr
      omega

theorem filter_cellsOf {k : Nat} {l : List Byte} (h : k % 128 + l.length ≤ 128) (n : Nat) :
    (cellsOf k l).filter (fun c => lineOf c.1 == n) = if lineOf k == n then cellsOf k l else [] := by
  have hline : ∀ c ∈ cellsOf k l, lineOf c.1 = lineOf k := fun c hc => by
    obtain ⟨hle, hlt⟩ := mem_cellsOf hc
    unfold lineOf
    omega
  split
  next hk => exact List.filter_eq_self.mpr fun c hc => by rw [hline c hc, hk]
  next hk => exact List.filter_eq_nil_iff.mpr fun c hc => by rw [hline c hc]; exact hk

/-- Of elements that each lie in a line, the cells in a line are those of the elements in it. -/
theorem filter_elCells (n : Nat) (l : List StoreEl) (h : ∀ x ∈ l, x.key % 128 + x.bytes.length ≤ 128) :
    (elCells l).filter (fun c => lineOf c.1 == n) = elCells (l.filter fun x => lineOf x.key == n) := by
  induction l with
  | nil => rfl
  | cons x r ih =>
    obtain ⟨hx, hr⟩ := List.forall_mem_cons.mp h
    rw [show elCells (x :: r) = cellsOf x.key x.bytes ++ elCells r from rfl, List.filter_append, filter_cellsOf hx, ih hr, List.filter_cons]
    split <;> rfl

/-! Requests (R336). -/
section
variable {s t : State} {tile queue : Nat} {e : CopyEntry} {b : Time}

/-- A request of a copy that is to be timed above `b`. -/
def State.copyRequest (s : State) (tile queue : Nat) (e : CopyEntry) (b : Time) (kind : ReqKind) (route : Route) (compress : Bool) : StoreReq :=
  { id := s.fresh, tid := none, who := some (ownerParty e.owner), team := 0, tile := tile, gid := none, kind := kind, route := route,
    compress := compress, w := some b, floor := some b, dram := false, spill := false, copy := some (tile, queue), home := homeOf s kind.key }

theorem State.copyRequest_copies (kind : ReqKind) (route : Route) (compress : Bool) :
    (s.copyRequest tile queue e b kind route compress).copies tile queue b := ⟨rfl, rfl, rfl, rfl⟩

theorem State.sends_copyStore (s : State) (kind : ReqKind) (route : Route) (compress : Bool) :
    s.sends (s.copyStore tile queue e (some b) b kind route compress) [s.copyRequest tile queue e b kind route compress] [] := by
  have hrequest : s.sends { s.tick.2 with stores := s.tick.2.stores ++ [s.copyRequest tile queue e b kind route compress] }
      [s.copyRequest tile queue e b kind route compress] [] :=
    ⟨State.keepsClusters_of_eq rfl, fun _ => rfl, rfl, rfl, rfl, rfl, rfl, (List.append_nil _).symm⟩
  have hdrops := (State.homesServe_foldl (fun t l => t.homesServe_storeDrops tile l) (s.copyRequest tile queue e b kind route compress).lines
    { s.tick.2 with stores := s.tick.2.stores ++ [s.copyRequest tile queue e b kind route compress] }).sends
  exact State.sends_trans hrequest hdrops

/-- A request for each group of elements. -/
theorem State.sends_copyStores {α : Type} (f : α → ReqKind) (route : α → Route) (compress : α → Bool) (l : List α) (s : State) :
    ∃ new, s.sends (l.foldl (fun s g => s.copyStore tile queue e (some b) b (f g) (route g) (compress g)) s) new [] ∧
      new.map (·.kind) = l.map f ∧ ∀ q ∈ new, q.copies tile queue b := by
  induction l generalizing s with
  | nil => exact ⟨[], s.sends_refl, rfl, fun _ h => by cases h⟩
  | cons g r ih =>
    obtain ⟨new, hsends, hkinds, hcopies⟩ := ih (s.copyStore tile queue e (some b) b (f g) (route g) (compress g))
    refine ⟨_, State.sends_trans (s.sends_copyStore (f g) (route g) (compress g)) hsends, ?_, ?_⟩
    · rw [List.singleton_append, List.map_cons, hkinds]
      rfl
    · exact List.forall_mem_cons.mpr ⟨State.copyRequest_copies _ _ _, hcopies⟩

/-- Elements all of whose destinations lie in the tile's own cluster. -/
theorem filter_near {α : Type} {far : α → Option Nat} {l : List α} (h : ∀ x ∈ l, far x = none) :
    l.filter (fun x => !(far x).isSome) = l ∧ l.filter (fun x => (far x).isSome) = [] := by
  refine ⟨List.filter_eq_self.mpr fun x hx => by rw [h x hx]; rfl, List.filter_eq_nil_iff.mpr fun x hx => by rw [h x hx]; exact Bool.false_ne_true⟩

theorem State.copyWrites_near {els : List StoreEl} (h : ∀ x ∈ els, s.trainDest tile x.key x.route = none) :
    s.copyWrites tile queue e b els = (groupEls sameGroup els.length els).foldl (fun s g =>
      s.copyStore tile queue e (some b) b (.write (elCells g)) (routeOf (g.map (·.route))) (g.any (·.compress))) s := by
  obtain ⟨hnear, hfar⟩ := filter_near (far := fun x : StoreEl => s.trainDest tile x.key x.route) h
  unfold State.copyWrites
  simp only [hnear, hfar, List.map_nil, State.launchTrains_nil]

theorem State.copyFolds_near {els : List FoldEl} (h : ∀ x ∈ els, s.trainDest tile x.key x.route = none) :
    s.copyFolds tile queue e b els = (groupEls sameFold els.length els).foldl (fun s g =>
      s.copyStore tile queue e (some b) b (.folds g) (routeOf (g.map (·.route))) (g.any (·.compress))) s := by
  obtain ⟨hnear, hfar⟩ := filter_near (far := fun x : FoldEl => s.trainDest tile x.key x.route) h
  unfold State.copyFolds
  simp only [hnear, hfar, List.map_nil, State.launchTrains_nil]

/-- The kind of each request is that of its group. -/
theorem kind_mem_of_map {α : Type} {new : List StoreReq} {f : α → ReqKind} {l : List α} (h : new.map (·.kind) = l.map f) {q : StoreReq} (hq : q ∈ new) :
    ∃ g, f g = q.kind := by
  have hkind : q.kind ∈ new.map (·.kind) := List.mem_map_of_mem hq
  rw [h] at hkind
  obtain ⟨g, -, hg⟩ := List.mem_map.mp hkind
  exact ⟨g, hg⟩

theorem flatMap_kinds {α β : Type} {new : List StoreReq} {f : α → ReqKind} {l : List α} (h : new.map (·.kind) = l.map f) (v : ReqKind → List β) :
    new.flatMap (fun q => v q.kind) = l.flatMap fun g => v (f g) := by
  rw [← List.flatMap_map (f := fun q : StoreReq => q.kind) (g := v), h, List.flatMap_map]

theorem State.sends_copyWrites {els : List StoreEl} (h : ∀ x ∈ els, s.trainDest tile x.key x.route = none)
    (hfit : ∀ x ∈ els, x.key % 128 + x.bytes.length ≤ 128) :
    ∃ new, s.sends (s.copyWrites tile queue e b els) new [] ∧ (∀ q ∈ new, q.copies tile queue b ∧ q.kind = .write q.kind.cells) ∧
      ∀ n, (new.flatMap (fun q => q.kind.cells)).filter (fun c => lineOf c.1 == n) = (elCells els).filter (fun c => lineOf c.1 == n) := by
  rw [State.copyWrites_near h]
  obtain ⟨new, hsends, hkinds, hcopies⟩ := State.sends_copyStores (tile := tile) (queue := queue) (e := e) (b := b) (fun g => .write (elCells g))
    (fun g => routeOf (g.map (·.route))) (fun g => g.any (·.compress)) (groupEls sameGroup els.length els) s
  refine ⟨new, hsends, fun q hq => ⟨hcopies q hq, ?_⟩, fun n => ?_⟩
  · obtain ⟨g, hg⟩ := kind_mem_of_map hkinds hq
    rw [← hg]
    rfl
  · have hcells : new.flatMap (fun q => q.kind.cells) = elCells (groupEls sameGroup els.length els).flatten := by
      rw [flatMap_kinds hkinds, elCells, List.flatten_eq_flatMap, List.flatMap_assoc]
      rfl
    have hgroups := filter_flatten_groupEls (same := sameGroup) (key := StoreEl.key) (fun _ _ => rfl)
    have hall : ∀ x ∈ (groupEls sameGroup els.length els).flatten, x ∈ els := fun x hx => by
      have hmem := List.mem_filter (p := fun y : StoreEl => lineOf y.key == lineOf x.key) |>.mpr ⟨hx, beq_self_eq_true _⟩
      rw [hgroups _ _ _ le_rfl] at hmem
      exact (List.mem_filter.mp hmem).1
    rw [hcells, filter_elCells n _ fun x hx => hfit x (hall x hx), filter_elCells n _ hfit, hgroups n _ _ le_rfl]

theorem State.sends_copyFolds {els : List FoldEl} (h : ∀ x ∈ els, s.trainDest tile x.key x.route = none) :
    ∃ new, s.sends (s.copyFolds tile queue e b els) new [] ∧ (∀ q ∈ new, q.copies tile queue b ∧ q.kind = .folds q.kind.folded) ∧
      ∀ n, (new.flatMap (fun q => q.kind.folded)).filter (fun f => lineOf f.key == n) = els.filter (fun f => lineOf f.key == n) := by
  rw [State.copyFolds_near h]
  obtain ⟨new, hsends, hkinds, hcopies⟩ := State.sends_copyStores (tile := tile) (queue := queue) (e := e) (b := b) (fun g => .folds g)
    (fun g => routeOf (g.map (·.route))) (fun g => g.any (·.compress)) (groupEls sameFold els.length els) s
  refine ⟨new, hsends, fun q hq => ⟨hcopies q hq, ?_⟩, fun n => ?_⟩
  · obtain ⟨g, hg⟩ := kind_mem_of_map hkinds hq
    rw [← hg]
    rfl
  · have hgroups := filter_flatten_groupEls (same := sameFold) (key := FoldEl.key) (fun _ _ => rfl) n els.length els le_rfl
    rw [flatMap_kinds hkinds, ← hgroups, List.flatten_eq_flatMap]
    rfl

/-- One fold leaves as one request. -/
theorem State.sends_copyFold {x : FoldEl} (h : s.trainDest tile x.key x.route = none) :
    ∃ q, s.sends (s.copyFolds tile queue e b [x]) [q] [] ∧ q.copies tile queue b ∧ q.kind = .folds [x] := by
  rw [State.copyFolds_near (List.forall_mem_singleton.mpr h)]
  exact ⟨_, s.sends_copyStore (.folds [x]) _ _, State.copyRequest_copies _ _ _, rfl⟩

/-- Folds of which none goes to the host leave as folds alone. -/
theorem State.copyUpdates_device {els : List FoldEl} (h : ∀ x ∈ els, x.route ≠ .host) (host : Memory) :
    s.copyUpdates tile queue e b host els = s.copyFolds tile queue e b els := by
  have hdevice : els.filter (fun x => x.route != .host) = els := List.filter_eq_self.mpr fun x hx => by simpa using h x hx
  have hhost : els.filter (fun x => x.route == .host) = [] := List.filter_eq_nil_iff.mpr fun x hx => by simpa using h x hx
  unfold State.copyUpdates
  rw [hdevice, hhost]
  exact State.copyWrites_near fun _ h => by cases h

/-! Trains (R336). -/
theorem eraseDups_replicate (d : Nat) (n : Nat) : (List.replicate (n + 1) d).eraseDups = [d] := by
  rw [List.replicate_succ, List.eraseDups_cons]
  simp

theorem State.trainDests_one {els : List TrainEl} {d : Nat} (hne : els ≠ []) (h : ∀ x ∈ els, s.trainDest tile x.key x.route = some d) :
    s.trainDests tile els = [d] := by
  have hall : els.filterMap (fun e => s.trainDest tile e.key e.route) = List.replicate els.length d := by
    rw [List.filterMap_congr (g := fun _ => some d) h, List.filterMap_eq_map', List.map_const']
  obtain ⟨n, hn⟩ := Nat.exists_eq_succ_of_ne_zero fun h => hne (List.length_eq_zero_iff.mp h)
  rw [State.trainDests, hall, hn, eraseDups_replicate]

/-- Elements that all go to one cluster leave as one train. -/
theorem State.sends_launchTrains {v : Train} {els : List TrainEl} {d : Nat} (hne : els ≠ []) (hd : d < 8)
    (h : ∀ x ∈ els, s.trainDest v.tile x.key x.route = some d) (ord : Bool) :
    ∃ u, s.sends (s.launchTrains v ord els) [] [u] ∧
      u = { v with id := u.id, no := u.no, dest := d, els := els.map fun x => { x with tag := s.cisternTag x.key } } := by
  have hmine : els.filter (fun x => s.trainDest v.tile x.key x.route == some d) = els := List.filter_eq_self.mpr fun x hx => by rw [h x hx]; exact beq_self_eq_true _
  have hlaunch : s.launchTrains v ord els = s.launchTrain { v with dest := d, els := els } ord := by
    rw [State.launchTrains, State.trainDests_one hne h, List.foldl_cons, List.foldl_nil, hmine]
  rw [hlaunch, State.launchTrain, if_neg (by simpa using hne)]
  simp only [hd, if_true]
  refine ⟨_, ⟨State.keepsClusters_of_eq rfl, State.queues_setTile (by exact rfl), rfl, rfl, rfl, rfl, (List.append_nil _).symm, rfl⟩, rfl⟩

/-- Elements whose destinations all lie in one other cluster leave as one train. -/
theorem State.sends_copyWrites_far {els : List StoreEl} {d : Nat} (hne : els ≠ []) (hd : d < 8) (h : ∀ x ∈ els, s.trainDest tile x.key x.route = some d) :
    ∃ u, s.sends (s.copyWrites tile queue e b els) [] [u] ∧
      u = { trainOf 1 tile 0 e.asid (some b) (some b) none (some (ownerParty e.owner)) (some (tile, queue)) e.strip with
        id := u.id, no := u.no, dest := d, els := els.map fun x => ⟨x.key, x.bytes, none, x.route, x.compress, s.cisternTag x.key⟩ } := by
  have hnear : els.filter (fun x => !(s.trainDest tile x.key x.route).isSome) = [] := List.filter_eq_nil_iff.mpr fun x hx => by rw [h x hx]; exact Bool.false_ne_true
  have hfar : els.filter (fun x => (s.trainDest tile x.key x.route).isSome) = els := List.filter_eq_self.mpr fun x hx => by rw [h x hx]; rfl
  obtain ⟨u, hsends, hu⟩ := State.sends_launchTrains (s := s)
    (v := trainOf 1 tile 0 e.asid (some b) (some b) none (some (ownerParty e.owner)) (some (tile, queue)) e.strip) (els := els.map trainElOf)
    (by simpa using hne) hd (List.forall_mem_map.mpr h) true
  have hwrites : s.copyWrites tile queue e b els = s.launchTrains
      (trainOf 1 tile 0 e.asid (some b) (some b) none (some (ownerParty e.owner)) (some (tile, queue)) e.strip) true (els.map trainElOf) := by
    obtain ⟨n, hn⟩ := Nat.exists_eq_succ_of_ne_zero fun h => hne (List.length_eq_zero_iff.mp h)
    unfold State.copyWrites
    simp only [hnear, hfar, hn, groupEls, List.foldl_nil]
  rw [List.map_map] at hu
  exact ⟨u, hwrites ▸ hsends, hu⟩
end

end Sys2Proof.Machine
end

-- ==== Proofs: copy strips, stamps and fences ====
section
/-! SUPPORT and the proof of O41: a strip that begins, one that stops, its end, the stamp of its transfer and the fence behind it (R267 to R270, R329, R330,
R333, R334). -/
set_option Elab.async false
namespace Sys2Proof.Machine
open Host

section
variable {s t u : State} {tile queue : Nat} {e : CopyEntry} {rest : List CopyEntry} {b : Time} {l : List (Loc × Loc)}

/-! The first entry of a queue. -/
theorem State.updEntry_entries (h : s.copyHead tile queue e rest) (f : CopyEntry → CopyEntry) :
    ((s.updEntry tile queue e.seq false f).copyQueue tile queue).entries = f e :: rest := by
  obtain ⟨hentries, hfence, hrest⟩ := h
  have hothers : rest.map (fun x => if x.seq = e.seq && x.fence.isSome = false then f x else x) = rest :=
    (List.map_congr_left fun x hx => if_neg (by simp [hrest x hx])).trans (List.map_id' rest)
  rw [State.updEntry, State.setCopyQueue_same]
  dsimp only
  rw [hentries, List.map_cons, hothers]
  simp [hfence]

theorem State.copyHead_of_entries (h : s.copyHead tile queue e rest) {x : CopyEntry} (hx : (t.copyQueue tile queue).entries = x :: rest) (hseq : x.seq = e.seq)
    (hfence : x.fence = e.fence) : t.copyHead tile queue x rest := by
  obtain ⟨-, hnone, hrest⟩ := h
  exact ⟨hx, hfence.trans hnone, hseq ▸ hrest⟩

/-! The elements of a strip that passes its checks. -/
theorem State.stripReads.near (h : s.stripReads tile queue e b l) : ∀ y ∈ l, isFarLoc y.1 = false := by
  obtain ⟨-, -, -, hels⟩ := h
  exact fun y hy => (hels y hy).1
theorem State.stripReads.device (h : s.stripReads tile queue e b l) : ∀ y ∈ l, y.2.route ≠ .host := by
  obtain ⟨-, -, -, hels⟩ := h
  exact fun y hy => (hels y hy).2.1
theorem State.stripReads.inLine (h : s.stripReads tile queue e b l) : ∀ y ∈ l, y.2.key % 128 + Shadow.esz e.view ≤ 128 := by
  obtain ⟨-, -, -, hels⟩ := h
  exact fun y hy => (hels y hy).2.2

/-- None of a strip's destinations lies with the host. -/
theorem State.stripReads.foldedHost (h : s.stripReads tile queue e b l) : foldedHost e l = [] := by
  unfold Machine.foldedHost
  split
  · rfl
  · rw [List.filter_eq_nil_iff]
    intro y hy
    obtain ⟨z, hz, rfl⟩ := List.mem_map.mp hy
    simpa using h.device z hz

/-! The plan of a strip (R329, R333). -/
theorem State.tagsStand (htags : e.begun = true → e.tags = s.tagsOf e.view) (hfrees : s.freesUnder (s.tagsOf e.view) = false) :
    (e.begun && (e.tags ≠ s.tagsOf e.view || s.freesUnder e.tags)) = false := by
  cases hbegun : e.begun with
  | false => rfl
  | true => simp [htags hbegun, hfrees]

theorem State.stripPlan_goes (h : s.copyHead tile queue e rest) (hdue : s.stripDue tile queue e b) (hreads : s.stripReads tile queue e b l) :
    s.stripPlan tile queue = .goes b l := by
  have hhost := hreads.foldedHost
  obtain ⟨hentries, hfence, -⟩ := h
  obtain ⟨⟨hflight, hstamping, habort, hfail, hstrip, -, hheld, hstops, hb, hceiling⟩, htags, hfrees⟩ := hdue
  obtain ⟨hcheck, -, hwait, -⟩ := hreads
  have hstay := State.tagsStand htags hfrees
  subst hb
  unfold State.stripPlan
  simp only [hentries, hfence, hflight, hstamping, habort, hfail, hheld, hstops, hceiling, hstay, hfrees, hcheck, hhost, List.append_nil, hwait,
    Option.isSome_none, decide_eq_false (Nat.not_le.mpr hstrip), Bool.or_false, Bool.not_true, Bool.false_eq_true, if_false]

theorem copyStripBody_goes (h : s.copyHead tile queue e rest) (hdue : s.stripDue tile queue e b) (hreads : s.stripReads tile queue e b l) :
    copyStripBody tile queue s = s.beginStrip tile queue e b l := by
  have hplan := State.stripPlan_goes h hdue hreads
  obtain ⟨hentries, -, -⟩ := h
  obtain ⟨⟨-, -, -, -, -, hslots, -⟩, -⟩ := hdue
  obtain ⟨-, hfirst, -⟩ := hreads
  unfold copyStripBody
  simp only [hentries, hplan, hfirst, if_neg (Nat.not_le.mpr hslots), Bool.false_eq_true, if_false]

/-! A strip that begins (R330). -/
/-- The entry as its strip begins. -/
def CopyEntry.begins (e : CopyEntry) (b : Time) (tags : List (Nat × Nat)) : CopyEntry :=
  { e with begun := true, bound := some b, waitFor := none, tags := tags, inFlight := true }
/-- The state in which a strip's values leave: its entry begun, its sources served. -/
def State.stripServed (s : State) (tile queue : Nat) (e : CopyEntry) (b : Time) (l : List (Loc × Loc)) : State :=
  ((s.updEntry tile queue e.seq false fun x => x.begins b (if e.begun then e.tags else s.tagsOf e.view)).serveSources tile b
    (l.map (·.1) ++ foldedHost e l)).walksUsed tile e.asid
/-- The bytes of the lines of the host that the strip folds into. -/
def State.hostFolded (s : State) (tile : Nat) (e : CopyEntry) (b : Time) (l : List (Loc × Loc)) : Memory :=
  (foldedHost e l).foldl (fun m y => writeBytes m y.key (s.elBytes ⟨tile, e.asid, e.supervisor⟩ b y (Shadow.esz e.view))) []
/-- What a strip does with the bytes it has read. -/
def State.stripDone (s : State) (tile queue : Nat) (e : CopyEntry) (b : Time) (l : List (Loc × Loc)) : State × List Word :=
  (s.stripServed tile queue e b l).stripWork tile queue e b l ((l.map (·.1)).map fun x => s.elBytes ⟨tile, e.asid, e.supervisor⟩ b x (Shadow.esz e.view))
    (s.hostFolded tile e b l)

theorem State.beginStrip_eq (s : State) (tile queue : Nat) (e : CopyEntry) (b : Time) (l : List (Loc × Loc)) : ∃ agenda, s.beginStrip tile queue e b l =
    { (s.stripDone tile queue e b l).1.updEntry tile queue e.seq false (fun x => { x with partials := (s.stripDone tile queue e b l).2 }) with agenda := agenda } :=
  ⟨_, rfl⟩

theorem State.homesServe_dropFar (s : State) (l : List Nat) : s.homesServe (s.dropFar l) := ⟨rfl, State.keepsClusters_of_eq rfl, fun _ => rfl⟩
theorem State.homesServe_walksUsed (s : State) (tile : Nat) (asid : BitVec 12) : s.homesServe (s.walksUsed tile asid) :=
  ⟨rfl, State.keepsClusters_of_eq rfl, fun _ => rfl⟩

theorem State.homesServe_serveSources (s : State) (tile : Nat) (b : Time) (l : List Loc) : s.homesServe (s.serveSources tile b l) := by
  have hlines := State.homesServe_foldl (f := fun s (x : Nat × Route × Bool) => (serveLines s tile b x.2.1 x.2.2 [x.1] none).1)
    fun t x => homesServe_serveLines tile b x.2.1 x.2.2 [x.1] t none
  exact State.homesServe_trans (hlines _ s) (State.homesServe_dropFar _ _)

theorem State.stripServed_sends (s : State) (tile queue : Nat) (e : CopyEntry) (b : Time) (l : List (Loc × Loc)) :
    (s.updEntry tile queue e.seq false fun x => x.begins b (if e.begun then e.tags else s.tagsOf e.view)).sends (s.stripServed tile queue e b l) [] [] :=
  (State.homesServe_trans (State.homesServe_serveSources _ tile b (l.map (·.1) ++ foldedHost e l)) (State.homesServe_walksUsed _ tile e.asid)).sends

theorem State.trainDest_updEntry (seq : Nat) (fence : Bool) (f : CopyEntry → CopyEntry) (tl key : Nat) (route : Route) :
    (s.updEntry tile queue seq fence f).trainDest tl key route = s.trainDest tl key route := rfl

theorem State.trainDest_stripServed (key : Nat) (route : Route) : (s.stripServed tile queue e b l).trainDest tile key route = s.trainDest tile key route :=
  ((s.stripServed_sends tile queue e b l).trainDest tile key route).trans (State.trainDest_updEntry _ _ _ _ _ _)

theorem State.cisternTag_stripServed (key : Nat) : (s.stripServed tile queue e b l).cisternTag key = s.cisternTag key :=
  (s.stripServed_sends tile queue e b l).cisternTag key

/-- What a strip leaves where its values have left as these requests and trains. -/
theorem State.beginStrip_leaves (h : s.copyHead tile queue e rest) {r : List StoreReq} {a : List Train} {ps : List Word}
    (hdone : s.stripDone tile queue e b l = (u, ps)) (hsends : (s.stripServed tile queue e b l).sends u r a) :
    (s.beginStrip tile queue e b l).stores = s.stores ++ r ∧ (s.beginStrip tile queue e b l).trains = s.trains ++ a ∧
      (∃ x, ((s.beginStrip tile queue e b l).copyQueue tile queue).entries = x :: rest ∧ e.goesOn x b ∧ x.partials = ps) ∧
      (s.beginStrip tile queue e b l).mem = s.mem ∧ (s.beginStrip tile queue e b l).threads = s.threads := by
  obtain ⟨agenda, heq⟩ := s.beginStrip_eq tile queue e b l
  have hall := State.sends_trans (s.stripServed_sends tile queue e b l) hsends
  have hhead := State.updEntry_entries h fun x => x.begins b (if e.begun then e.tags else s.tagsOf e.view)
  rw [← hall.copyQueue] at hhead
  have hlast := State.updEntry_entries (State.copyHead_of_entries h hhead rfl rfl) fun x => { x with partials := ps }
  rw [heq, hdone]
  exact ⟨hall.stores, hall.trains, ⟨_, hlast, ⟨rfl, rfl, rfl, rfl, rfl⟩, rfl⟩, hall.mem, hall.threads⟩

/-! The values of a strip. -/
theorem State.elBytes_near {x : Loc} (h : isFarLoc x = false) (w : Who) (n : Nat) : s.elBytes w b x n = readBytes s.mem x.key n := by
  have hroute : (decide (x.route = .host) || decide (x.route = .peer)) = false := h
  unfold State.elBytes
  simp only [hroute, Bool.false_eq_true, if_false]

theorem State.stripBytes (h : ∀ y ∈ l, isFarLoc y.1 = false) (w : Who) (n : Nat) :
    (l.map (·.1)).map (fun x => s.elBytes w b x n) = l.map fun y => readBytes s.mem y.1.key n := by
  rw [List.map_map]
  exact List.map_congr_left fun y hy => State.elBytes_near (h y hy) w n

theorem State.stripWords (h : ∀ y ∈ l, isFarLoc y.1 = false) (w : Who) :
    ((l.map (·.1)).map (fun x => s.elBytes w b x (Shadow.esz e.view))).map bytesWord = l.map (s.elVal e) := by
  rw [State.stripBytes h, List.map_map]
  rfl

/-- The elements of a copy, with the bytes read. -/
def State.stripEls (s : State) (e : CopyEntry) (l : List (Loc × Loc)) : List StoreEl :=
  l.map fun y => ⟨0, y.2.key, readBytes s.mem y.1.key (Shadow.esz e.view), y.2.route, y.2.compress⟩
/-- The elements of an element fold, with the values read. -/
def State.stripFolds (s : State) (e : CopyEntry) (l : List (Loc × Loc)) : List FoldEl :=
  l.map fun y => ⟨Shadow.ffmt e.view, Shadow.fop e.view, y.2.key, s.elVal e y, y.2.route, y.2.compress⟩

theorem State.stripDone_copy (h : ∀ y ∈ l, isFarLoc y.1 = false) (hfold : Shadow.fold e.view = 0) :
    s.stripDone tile queue e b l = ((s.stripServed tile queue e b l).copyWrites tile queue e b (s.stripEls e l), []) := by
  unfold State.stripDone State.stripWork State.stripEls
  rw [State.stripBytes h]
  simp only [hfold, ← List.map_prod_left_eq_zip, List.map_map]
  rfl

theorem State.stripDone_fold (h : ∀ y ∈ l, isFarLoc y.1 = false) (hfold : Shadow.fold e.view = 1 ∨ Shadow.fold e.view = 2) :
    s.stripDone tile queue e b l = ((s.stripServed tile queue e b l).copyUpdates tile queue e b (s.hostFolded tile e b l) (s.stripFolds e l), []) := by
  unfold State.stripDone State.stripWork State.stripFolds
  rw [State.stripWords h]
  rcases hfold with hfold | hfold <;>
  · simp only [hfold, ← List.map_prod_left_eq_zip, List.map_map]
    rfl

theorem State.stripDone_partial (h : ∀ y ∈ l, isFarLoc y.1 = false) (hfold : Shadow.fold e.view = 3 ∨ Shadow.fold e.view = 4)
    (hmore : e.strip + 1 < Shadow.strips e.view) :
    s.stripDone tile queue e b l = (s.stripServed tile queue e b l,
      if Shadow.fold e.view = 3 then foldRun (Shadow.ffmt e.view) (Shadow.fop e.view) e.partials (l.map (s.elVal e))
      else e.partials ++ foldRun (Shadow.ffmt e.view) (Shadow.fop e.view) [] (l.map (s.elVal e))) := by
  unfold State.stripDone State.stripWork
  rw [State.stripWords h]
  rcases hfold with hfold | hfold <;>
  · simp only [hfold, decide_eq_false (Nat.not_le.mpr hmore)]
    rfl

theorem State.stripDone_last {x d : Loc} {p : Word} (h : ∀ y ∈ (x, d) :: l, isFarLoc y.1 = false) (hfold : Shadow.fold e.view = 3)
    (hlast : e.strip + 1 = Shadow.strips e.view)
    (hp : foldRun (Shadow.ffmt e.view) (Shadow.fop e.view) e.partials (((x, d) :: l).map (s.elVal e)) = [p]) :
    s.stripDone tile queue e b ((x, d) :: l) = (({ s.stripServed tile queue e b ((x, d) :: l) with
      fresh := (s.stripServed tile queue e b ((x, d) :: l)).fresh + 2 } : State).copyUpdates tile queue e b (s.hostFolded tile e b ((x, d) :: l))
      [⟨Shadow.ffmt e.view, Shadow.fop e.view, d.key, p, d.route, d.compress⟩], [p]) := by
  unfold State.stripDone State.stripWork
  rw [State.stripWords h]
  simp only [hfold, if_true, hp, decide_eq_true hlast.ge]
  rfl

/-! A strip that stops. -/
theorem copyStripBody_stops {w : Word} (h : s.copyHead tile queue e rest) (hnext : s.stripNext tile queue e b) (hplan : s.stripPlan tile queue = .stops b w) :
    ∃ x, ((copyStripBody tile queue s).copyQueue tile queue).entries = x :: rest ∧ x.failWit = some w ∧ x.inFlight = false ∧
      (copyStripBody tile queue s).stores = s.stores ∧ (copyStripBody tile queue s).mem = s.mem ∧ (copyStripBody tile queue s).threads = s.threads := by
  obtain ⟨hflight, -, -, -, -, hslots, -⟩ := hnext
  have hmet : s.homesServe (if wKind w = 1 && bitsAt w 56 6 = 3 then s.meetBad (lineOf (bitsAt w 0 56)) else s) :=
    State.homesServe_ite (s.homesServe_meetBad _) s.homesServe_refl
  have hentries := (congrArg CopyQueue.entries (hmet.copyQueue tile queue)).trans h.1
  have hbody : copyStripBody tile queue s = (if wKind w = 1 && bitsAt w 56 6 = 3 then s.meetBad (lineOf (bitsAt w 0 56)) else s).updEntry tile queue e.seq false
      (fun x => { x with begun := true, bound := some b, waitFor := none, tags := if e.begun then e.tags else s.tagsOf e.view, failWit := some w }) := by
    unfold copyStripBody
    simp only [h.1, hplan, if_neg (Nat.not_le.mpr hslots)]
  rw [hbody]
  exact ⟨_, State.updEntry_entries (State.copyHead_of_entries h hentries rfl rfl) _, rfl, hflight, hmet.stores, hmet.mem, hmet.threads⟩

theorem State.stripPlan_ownerStops (h : s.copyHead tile queue e rest) (hnext : s.stripNext tile queue e b) (hbegun : e.begun = true)
    (hchanged : e.tags ≠ s.tagsOf e.view ∨ s.freesUnder e.tags = true) : s.stripPlan tile queue = .stops b (errWitness 1 e.strip) := by
  obtain ⟨hentries, hfence, -⟩ := h
  obtain ⟨hflight, hstamping, habort, hfail, hstrip, -, hheld, hstops, hb, hceiling⟩ := hnext
  subst hb
  unfold State.stripPlan
  simp only [hentries, hfence, hflight, hstamping, habort, hfail, hheld, hstops, hceiling, hbegun, Option.isSome_none,
    decide_eq_false (Nat.not_le.mpr hstrip), Bool.or_false, Bool.not_true, Bool.false_eq_true, if_false]
  exact if_pos (by simpa using hchanged)

theorem State.stripPlan_fails {f : Word} (h : s.copyHead tile queue e rest) (hdue : s.stripDue tile queue e b)
    (hcheck : checkStrip s ⟨tile, e.asid, e.supervisor⟩ b e.view e.strip (Shadow.stripEls e.view e.strip) = .error (.fails f)) :
    s.stripPlan tile queue = .stops b f := by
  obtain ⟨hentries, hfence, -⟩ := h
  obtain ⟨⟨hflight, hstamping, habort, hfail, hstrip, -, hheld, hstops, hb, hceiling⟩, htags, hfrees⟩ := hdue
  have hstay := State.tagsStand htags hfrees
  subst hb
  unfold State.stripPlan
  simp only [hentries, hfence, hflight, hstamping, habort, hfail, hheld, hstops, hceiling, hstay, hfrees, hcheck,
    Option.isSome_none, decide_eq_false (Nat.not_le.mpr hstrip), Bool.or_false, Bool.not_true, Bool.false_eq_true, if_false]

/-! The end of a strip (R329, R333). -/
theorem State.settleFrees_leaves (s : State) : s.settleFrees.tiles = s.tiles ∧ s.settleFrees.mem = s.mem ∧ s.settleFrees.threads = s.threads := by
  refine List.foldlRecOn (motive := fun t : State => t.tiles = s.tiles ∧ t.mem = s.mem ∧ t.threads = s.threads) _ _ ⟨rfl, rfl, rfl⟩ fun t ht id _ => ?_
  unfold State.freeAlloc
  split <;> exact ht

theorem copyStripEndBody_ends (h : s.copyHead tile queue e rest) (hflight : e.inFlight = true) (hstamping : e.stamping = none)
    (hopen : s.copyOpen tile queue = false) :
    ((copyStripEndBody tile queue s).copyQueue tile queue).entries = { e with inFlight := false, strip := e.strip + 1 } :: rest ∧
      (copyStripEndBody tile queue s).mem = s.mem ∧ (copyStripEndBody tile queue s).threads = s.threads := by
  have hentries := State.updEntry_entries h fun x => { x with inFlight := false, strip := x.strip + 1 }
  have hbody : copyStripEndBody tile queue s =
      ((s.updEntry tile queue e.seq false fun x => { x with inFlight := false, strip := x.strip + 1 }).waitsNow tile queue).settleFrees := by
    unfold copyStripEndBody
    simp only [h.1, hflight, hstamping, hopen, Option.isSome_none, Bool.not_true, Bool.or_false, Bool.false_eq_true, if_false]
  rw [hbody]
  generalize hu : s.updEntry tile queue e.seq false (fun x => { x with inFlight := false, strip := x.strip + 1 }) = u at hentries ⊢
  obtain ⟨htiles, hmem, hthreads⟩ := (u.waitsNow tile queue).settleFrees_leaves
  have hqueue : (u.waitsNow tile queue).settleFrees.copyQueue tile queue = { u.copyQueue tile queue with since := u.cycle } := by
    rw [State.copyQueue, State.tile, htiles]
    exact u.setCopyQueue_same tile queue _
  subst hu
  exact ⟨by rw [hqueue]; exact hentries, hmem, hthreads⟩

/-! Stamps (R270, R334). -/
/-- A queue keeps a status more. -/
def State.copyKept (s : State) (tile queue : Nat) (st : CopyStatus) : State := s.setCopyQueue tile queue ((s.copyQueue tile queue).keep st)

theorem State.copyKept_entries (s : State) (home tile queue : Nat) (st : CopyStatus) :
    ((s.copyKept home queue st).copyQueue tile queue).entries = (s.copyQueue tile queue).entries := by
  by_cases h : tile = home
  · subst h
    rw [State.copyKept, State.setCopyQueue_same]
    rfl
  · rw [State.copyQueue, State.copyKept, State.setCopyQueue_tile_other _ _ _ h, State.copyQueue]

theorem State.endCopy_leaves (h : s.copyHead tile queue e rest) {p : Nat} (howner : e.owner = .thread p) (w : Word) (written : Bool) :
    ((s.endCopy tile queue e w written).copyQueue tile queue).entries = rest ∧ (s.endCopy tile queue e w written).mem = s.mem ∧
      (s.endCopy tile queue e w written).threads = s.threads := by
  obtain ⟨hentries, hfence, hrest⟩ := h
  have hleft : (s.copyQueue tile queue).entries.filter (fun x => x.seq != e.seq || x.fence.isSome) = rest := by
    rw [hentries, List.filter_cons, if_neg (by simp [hfence])]
    exact List.filter_eq_self.mpr fun x hx => by simp [hrest x hx]
  have hend : ∃ q st far, s.endCopy tile queue e w written = { (s.setCopyQueue tile queue q).copyKept (e.origin tile).1 queue st with farLines := far } ∧
      q.entries = (s.copyQueue tile queue).entries.filter (fun x => x.seq != e.seq || x.fence.isSome) := by
    unfold State.endCopy
    rw [howner]
    exact ⟨_, _, _, rfl, rfl⟩
  obtain ⟨q, st, far, hend, hq⟩ := hend
  have hkept := (s.setCopyQueue tile queue q).copyKept_entries (e.origin tile).1 tile queue st
  rw [State.setCopyQueue_same, hq, hleft] at hkept
  rw [hend]
  exact ⟨hkept, rfl, rfl⟩

theorem stampDue_over (h : Shadow.strips e.view ≤ e.strip ∨ e.failWit.isSome = true ∨ e.abort.isSome = true) :
    (e.failWit.isNone && e.abort.isNone && decide (e.strip < Shadow.strips e.view)) = false := by
  rcases h with h | h | h
  · simp [Nat.not_lt.mpr h]
  · simp [← Option.not_isSome, h]
  · simp [← Option.not_isSome, h]

theorem copyStampWriteBody_unstamped (h : s.copyHead tile queue e rest) (hdue : s.stampDue e) (hstamp : Shadow.stamp e.view = 0) :
    copyStampWriteBody tile queue s = s.endCopy tile queue e e.stampValue false := by
  obtain ⟨hentries, hfence, -⟩ := h
  obtain ⟨hstamping, hflight, hends, hheld, hstops⟩ := hdue
  unfold copyStampWriteBody
  simp only [hentries, hfence, hstamping, hflight, stampDue_over hends, hheld, hstops, hstamp, Option.isSome_none, Bool.or_false, Bool.false_eq_true, if_false,
    if_true]

theorem copyStampWriteBody_puts {x : Loc} (h : s.copyHead tile queue e rest) (hdue : s.stampDue e) (hstamp : Shadow.stamp e.view ≠ 0)
    (htags : e.begun = true → e.tags.getLast? = (s.tagsOf e.view).getLast?)
    (hcheck : checkEl s ⟨tile, e.asid, e.supervisor⟩ .write e.strip 8 (decodePtr (Shadow.stamp e.view), Shadow.stamp e.view) = .ok x) :
    copyStampWriteBody tile queue s = s.putStamp tile queue e e.stampValue x := by
  obtain ⟨hentries, hfence, -⟩ := h
  obtain ⟨hstamping, hflight, hends, hheld, hstops⟩ := hdue
  have hstay : (e.begun && decide (e.tags.getLast? ≠ (s.tagsOf e.view).getLast?)) = false := by
    cases hbegun : e.begun with
    | false => rfl
    | true => simp [htags hbegun]
  unfold copyStampWriteBody
  simp only [hentries, hfence, hstamping, hflight, stampDue_over hends, hheld, hstops, hstay, hcheck, if_neg hstamp, Option.isSome_none, Bool.or_false,
    Bool.false_eq_true, if_false]

/-- The time a stamp's witness stands for. -/
def stampTimeOf (w : Word) : Option Time := if wKind w = 0 then some (wTime w) else none

theorem State.putStamp_stores {x : Loc} {w : Word} {home : Nat} (hnear : s.trainDest tile x.key x.route = none) (hroute : x.route ≠ .host)
    (hgate : s.engineGate (some (ownerParty e.owner)) true x.route [x.key] = none) (hgood : s.lineBad x.key = false) (hhome : homeOf s x.key = some home)
    (hceiling : s.underCeiling (s.storeTime home (lineOf x.key) (stampTimeOf w) (e.bound.getD e.floor) (nocacheRoute x.route)) = true) :
    ∃ u, s.homesServe u ∧ s.putStamp tile queue e w x =
      (u.perform home (lineOf x.key) (cellsOf x.key (leBytes 8 w.toNat))
        (s.storeTime home (lineOf x.key) (stampTimeOf w) (e.bound.getD e.floor) (nocacheRoute x.route))
        (nocacheRoute x.route) x.compress).endCopy tile queue e w true := by
  refine ⟨if s.needsDram home (lineOf x.key) x.route then (s.openLine (lineOf x.key)).correctLine (lineOf x.key) else s,
    State.homesServe_ite (State.homesServe_trans (s.homesServe_openLine _) (State.homesServe_correctLine _ _)) s.homesServe_refl, ?_⟩
  unfold stampTimeOf at hceiling ⊢
  unfold State.putStamp State.storeAt
  simp only [hnear, hroute, hgate, hgood, hhome, hceiling, Option.isSome_none, Bool.not_true, Bool.false_eq_true, if_false]

theorem State.stampPut {p home : Nat} {x : Loc} (h : s.copyHead tile queue e rest) (howner : e.owner = .thread p)
    (hnear : s.trainDest tile x.key x.route = none) (hroute : x.route ≠ .host)
    (hgate : s.engineGate (some p) true x.route [x.key] = none) (hgood : s.lineBad x.key = false) (hhome : homeOf s x.key = some home) (w : Word)
    (hceiling : s.underCeiling (s.storeTime home (lineOf x.key) (stampTimeOf w) (e.bound.getD e.floor) (nocacheRoute x.route)) = true) :
    ((s.putStamp tile queue e w x).copyQueue tile queue).entries = rest ∧
      s.mem.writes (s.putStamp tile queue e w x).mem (cellsOf x.key (leBytes 8 w.toNat)) ∧ (s.putStamp tile queue e w x).threads = s.threads := by
  obtain ⟨u, hu, hput⟩ := State.putStamp_stores (tile := tile) (queue := queue) (e := e) hnear hroute (by rw [howner]; exact hgate) hgood hhome hceiling
  have hperformed := u.homesServe_perform home (lineOf x.key) (cellsOf x.key (leBytes 8 w.toNat))
    (s.storeTime home (lineOf x.key) (stampTimeOf w) (e.bound.getD e.floor) (nocacheRoute x.route)) (nocacheRoute x.route) x.compress
  rw [hput]
  generalize u.perform home (lineOf x.key) (cellsOf x.key (leBytes 8 w.toNat))
    (s.storeTime home (lineOf x.key) (stampTimeOf w) (e.bound.getD e.floor) (nocacheRoute x.route)) (nocacheRoute x.route) x.compress = v at hperformed ⊢
  have hqueue : v.copyQueue tile queue = s.copyQueue tile queue := (hperformed.copyQueue tile queue).trans (hu.copyQueue tile queue)
  have hhead : v.copyHead tile queue e rest := State.copyHead_of_entries h ((congrArg CopyQueue.entries hqueue).trans h.1) rfl rfl
  obtain ⟨hentries, hmem, hthreads⟩ := State.endCopy_leaves hhead howner w true
  have hwritten : (v.endCopy tile queue e w true).mem = writeCells s.mem (cellsOf x.key (leBytes 8 w.toNat)) :=
    hmem.trans (hperformed.mem.trans (congrArg (writeCells · _) hu.mem))
  exact ⟨hentries, ⟨fun k hk => by rw [hwritten, readByte_writeCells_other _ _ _ hk], hwritten⟩, hthreads.trans (hperformed.threads.trans hu.threads)⟩

/-! Fences (R269). -/
theorem copyFenceReleaseBody_releases (hentries : (s.copyQueue tile queue).entries = e :: rest) (hfence : e.fence.isSome = true) (hheld : s.entryHeld e = false)
    (hwatch : ∀ x ∈ e.watch, x.2 ≠ e.seq → s.watchOpen (e.origin tile).1 x = false) :
    ((copyFenceReleaseBody tile queue s).copyQueue tile queue).entries = rest ∧ (copyFenceReleaseBody tile queue s).mem = s.mem ∧
      (copyFenceReleaseBody tile queue s).threads = s.threads := by
  have hnone : e.fence.isNone = false := by simpa using hfence
  have hended : (e.watch.filter (fun x => x.2 != e.seq)).any (s.watchOpen (e.origin tile).1) = false := by
    rw [List.any_eq_false]
    intro x hx
    obtain ⟨hx, hne⟩ := List.mem_filter.mp hx
    rw [hwatch x hx (by simpa using hne)]
    exact Bool.false_ne_true
  unfold copyFenceReleaseBody
  simp only [hentries, hnone, hended, hheld, Bool.or_false, Bool.false_eq_true, if_false]
  exact ⟨by rw [State.setCopyQueue_same], rfl, rfl⟩

/-! Strips that begin, by what they do (R268). -/
theorem State.sends_fresh (s : State) (n : Nat) : s.sends { s with fresh := n } [] [] :=
  ⟨State.keepsClusters_of_eq rfl, fun _ => rfl, rfl, rfl, rfl, rfl, (List.append_nil _).symm, (List.append_nil _).symm⟩

theorem length_readBytes (m : Memory) (n : Nat) : ∀ k, (readBytes m k n).length = n := by
  induction n with
  | zero => exact fun _ => rfl
  | succ n ih => exact fun k => congrArg (· + 1) (ih (k + 1))

theorem State.copyStrip_copies (h : s.copyHead tile queue e rest) (hdue : s.stripDue tile queue e b) (hreads : s.stripReads tile queue e b l)
    (hfold : Shadow.fold e.view = 0) (hnear : ∀ y ∈ l, s.trainDest tile y.2.key y.2.route = none) :
    ∃ t new x, exec (.copyStrip tile queue) s = .next t ∧ t.stores = s.stores ++ new ∧
      (∀ q ∈ new, q.copies tile queue b ∧ q.kind = .write q.kind.cells) ∧
      (∀ n, (new.flatMap (fun q => q.kind.cells)).filter (fun c => lineOf c.1 == n) = (elCells (s.stripEls e l)).filter (fun c => lineOf c.1 == n)) ∧
      (t.copyQueue tile queue).entries = x :: rest ∧ e.goesOn x b ∧ t.mem = s.mem ∧ t.threads = s.threads := by
  have hfit : ∀ x ∈ s.stripEls e l, x.key % 128 + x.bytes.length ≤ 128 := List.forall_mem_map.mpr fun y hy => by
    rw [length_readBytes]
    exact hreads.inLine y hy
  obtain ⟨new, hsends, hcopies, hcells⟩ := State.sends_copyWrites (s := s.stripServed tile queue e b l) (tile := tile) (queue := queue) (e := e) (b := b)
    (List.forall_mem_map.mpr fun y hy => (State.trainDest_stripServed _ _).trans (hnear y hy)) hfit
  obtain ⟨hstores, -, ⟨x, hentries, hgoes, -⟩, hmem, hthreads⟩ :=
    State.beginStrip_leaves h (State.stripDone_copy hreads.near hfold) hsends
  exact ⟨_, new, x, congrArg Outcome.next (copyStripBody_goes h hdue hreads), hstores, hcopies, hcells, hentries, hgoes, hmem, hthreads⟩

theorem State.copyStrip_trains {d : Nat} (h : s.copyHead tile queue e rest) (hdue : s.stripDue tile queue e b) (hreads : s.stripReads tile queue e b l)
    (hfold : Shadow.fold e.view = 0) (hne : l ≠ []) (hd : d < 8) (hfar : ∀ y ∈ l, s.trainDest tile y.2.key y.2.route = some d) :
    ∃ t u x, exec (.copyStrip tile queue) s = .next t ∧ t.stores = s.stores ∧ t.trains = s.trains ++ [u] ∧ u.dest = d ∧ u.kind = 1 ∧ u.w = some b ∧
      u.floor = some b ∧ u.copy = some (tile, queue) ∧ u.strip = e.strip ∧
      u.els = l.map (fun y => ⟨y.2.key, readBytes s.mem y.1.key (Shadow.esz e.view), none, y.2.route, y.2.compress, s.cisternTag y.2.key⟩) ∧
      (t.copyQueue tile queue).entries = x :: rest ∧ e.goesOn x b ∧ t.mem = s.mem ∧ t.threads = s.threads := by
  have hdests : ∀ x ∈ s.stripEls e l, (s.stripServed tile queue e b l).trainDest tile x.key x.route = some d :=
    List.forall_mem_map.mpr fun y hy => (State.trainDest_stripServed _ _).trans (hfar y hy)
  obtain ⟨u, hsends, hu⟩ := State.sends_copyWrites_far (queue := queue) (e := e) (b := b) (by simpa [State.stripEls] using hne) hd hdests
  obtain ⟨hstores, htrains, ⟨x, hentries, hgoes, -⟩, hmem, hthreads⟩ :=
    State.beginStrip_leaves h (State.stripDone_copy hreads.near hfold) hsends
  have hlist : u.els = l.map (fun y => ⟨y.2.key, readBytes s.mem y.1.key (Shadow.esz e.view), none, y.2.route, y.2.compress, s.cisternTag y.2.key⟩) := by
    rw [hu]
    simp only [State.stripEls, List.map_map]
    exact List.map_congr_left fun y _ => congrArg (TrainEl.mk _ _ _ _ _) (State.cisternTag_stripServed y.2.key)
  rw [hu] at htrains
  refine ⟨_, u, x, congrArg Outcome.next (copyStripBody_goes h hdue hreads), hstores.trans (List.append_nil _), by rw [htrains, ← hu],
    ?_, ?_, ?_, ?_, ?_, ?_, hlist, hentries, hgoes, hmem, hthreads⟩ <;> rw [hu] <;> rfl

theorem State.copyStrip_folds (h : s.copyHead tile queue e rest) (hdue : s.stripDue tile queue e b) (hreads : s.stripReads tile queue e b l)
    (hfold : Shadow.fold e.view = 1 ∨ Shadow.fold e.view = 2) (hnear : ∀ y ∈ l, s.trainDest tile y.2.key y.2.route = none) :
    ∃ t new x, exec (.copyStrip tile queue) s = .next t ∧ t.stores = s.stores ++ new ∧
      (∀ q ∈ new, q.copies tile queue b ∧ q.kind = .folds q.kind.folded) ∧
      (∀ n, (new.flatMap (fun q => q.kind.folded)).filter (fun f => lineOf f.key == n) = (s.stripFolds e l).filter (fun f => lineOf f.key == n)) ∧
      (t.copyQueue tile queue).entries = x :: rest ∧ e.goesOn x b ∧ t.mem = s.mem ∧ t.threads = s.threads := by
  obtain ⟨new, hsends, hcopies, hfolds⟩ := State.sends_copyFolds (s := s.stripServed tile queue e b l) (tile := tile) (queue := queue) (e := e) (b := b)
    (els := s.stripFolds e l) (List.forall_mem_map.mpr fun y hy => (State.trainDest_stripServed _ _).trans (hnear y hy))
  have hdevice : ∀ x ∈ s.stripFolds e l, x.route ≠ .host := List.forall_mem_map.mpr hreads.device
  rw [← State.copyUpdates_device hdevice (s.hostFolded tile e b l)] at hsends
  obtain ⟨hstores, -, ⟨x, hentries, hgoes, -⟩, hmem, hthreads⟩ :=
    State.beginStrip_leaves h (State.stripDone_fold hreads.near hfold) hsends
  exact ⟨_, new, x, congrArg Outcome.next (copyStripBody_goes h hdue hreads), hstores, hcopies, hfolds, hentries, hgoes, hmem, hthreads⟩

theorem State.copyStrip_keepsPartials (h : s.copyHead tile queue e rest) (hdue : s.stripDue tile queue e b) (hreads : s.stripReads tile queue e b l)
    (hfold : Shadow.fold e.view = 3 ∨ Shadow.fold e.view = 4) (hmore : e.strip + 1 < Shadow.strips e.view) :
    ∃ t x, exec (.copyStrip tile queue) s = .next t ∧ t.stores = s.stores ∧ t.trains = s.trains ∧
      (t.copyQueue tile queue).entries = x :: rest ∧ e.goesOn x b ∧
      x.partials = (if Shadow.fold e.view = 3 then foldRun (Shadow.ffmt e.view) (Shadow.fop e.view) e.partials (l.map (s.elVal e))
        else e.partials ++ foldRun (Shadow.ffmt e.view) (Shadow.fop e.view) [] (l.map (s.elVal e))) ∧ t.mem = s.mem ∧ t.threads = s.threads := by
  obtain ⟨hstores, htrains, ⟨x, hentries, hgoes, hpartials⟩, hmem, hthreads⟩ :=
    State.beginStrip_leaves h (State.stripDone_partial hreads.near hfold hmore) (State.sends_refl _)
  exact ⟨_, x, congrArg Outcome.next (copyStripBody_goes h hdue hreads), hstores.trans (List.append_nil _), htrains.trans (List.append_nil _), hentries, hgoes,
    hpartials, hmem, hthreads⟩

theorem State.copyStrip_sendsFold {a d : Loc} {p : Word} (h : s.copyHead tile queue e rest) (hdue : s.stripDue tile queue e b)
    (hreads : s.stripReads tile queue e b ((a, d) :: l)) (hfold : Shadow.fold e.view = 3) (hlast : e.strip + 1 = Shadow.strips e.view)
    (hp : foldRun (Shadow.ffmt e.view) (Shadow.fop e.view) e.partials (((a, d) :: l).map (s.elVal e)) = [p])
    (hnear : s.trainDest tile d.key d.route = none) :
    ∃ t q x, exec (.copyStrip tile queue) s = .next t ∧ t.stores = s.stores ++ [q] ∧ q.copies tile queue b ∧
      q.kind = .folds [⟨Shadow.ffmt e.view, Shadow.fop e.view, d.key, p, d.route, d.compress⟩] ∧
      (t.copyQueue tile queue).entries = x :: rest ∧ e.goesOn x b ∧ t.mem = s.mem ∧ t.threads = s.threads := by
  have hdone := State.stripDone_last (tile := tile) (queue := queue) (b := b) hreads.near hfold hlast hp
  have hfresh := (s.stripServed tile queue e b ((a, d) :: l)).sends_fresh ((s.stripServed tile queue e b ((a, d) :: l)).fresh + 2)
  obtain ⟨q, hsends, hcopies, hkind⟩ := State.sends_copyFold (tile := tile) (queue := queue) (e := e) (b := b)
    (x := ⟨Shadow.ffmt e.view, Shadow.fop e.view, d.key, p, d.route, d.compress⟩)
    ((hfresh.trainDest tile d.key d.route).trans ((State.trainDest_stripServed _ _).trans hnear))
  rw [State.copyUpdates_device (List.forall_mem_singleton.mpr (hreads.device _ List.mem_cons_self))] at hdone
  obtain ⟨hstores, -, ⟨x, hentries, hgoes, -⟩, hmem, hthreads⟩ := State.beginStrip_leaves h hdone (State.sends_trans hfresh hsends)
  exact ⟨_, q, x, congrArg Outcome.next (copyStripBody_goes h hdue hreads), hstores, hcopies, hkind, hentries, hgoes, hmem, hthreads⟩

/-- Settles O41: a strip by what its values become, a stop by its witness, an end by the next strip, a stamp by its write, a fence by the entries it lets on. -/
theorem copyStripsStampsAndFences : Obligations.CopyStripsStampsAndFences := by
  unfold Obligations.CopyStripsStampsAndFences
  refine ⟨fun s tile queue e rest b l h hdue hreads hfold hnear => ?copies,
    fun s tile queue e rest b l d h hdue hreads hfold hne hd hfar => State.copyStrip_trains h hdue hreads hfold hne hd hfar,
    fun s tile queue e rest b l h hdue hreads hfold hnear => State.copyStrip_folds h hdue hreads hfold hnear,
    fun s tile queue e rest b l h hdue hreads hfold hmore => State.copyStrip_keepsPartials h hdue hreads hfold hmore,
    fun s tile queue e rest b a d l p h hdue hreads hfold hlast hp hnear => State.copyStrip_sendsFold h hdue hreads hfold hlast hp hnear,
    fun s tile queue e rest b h hnext hbegun hchanged => ?ownerStops, fun s tile queue e rest b f h hdue hcheck => ?fails,
    fun s tile queue e rest h hflight hstamping hopen => ⟨_, rfl, copyStripEndBody_ends h hflight hstamping hopen⟩,
    fun s tile queue e rest p h hdue howner hstamp => ?unstamped,
    fun s tile queue e rest p x home h hdue howner hstamp htags hcheck hnear hroute hgate hgood hhome hceiling => ?stamped,
    fun s tile queue e rest hentries hfence hheld hwatch => ⟨_, rfl, copyFenceReleaseBody_releases hentries hfence hheld hwatch⟩⟩
  case copies =>
    have hcells : elCells (s.stripEls e l) = l.flatMap (fun y => cellsOf y.2.key (readBytes s.mem y.1.key (Shadow.esz e.view))) := List.flatMap_map ..
    exact hcells ▸ State.copyStrip_copies h hdue hreads hfold hnear
  case ownerStops =>
    obtain ⟨x, hstopped⟩ := copyStripBody_stops h hnext (State.stripPlan_ownerStops h hnext hbegun hchanged)
    exact ⟨_, x, rfl, hstopped⟩
  case fails =>
    obtain ⟨x, hstopped⟩ := copyStripBody_stops h hdue.1 (State.stripPlan_fails h hdue hcheck)
    exact ⟨_, x, rfl, hstopped⟩
  case unstamped =>
    exact ⟨_, congrArg Outcome.next (copyStampWriteBody_unstamped h hdue hstamp), State.endCopy_leaves h howner _ _⟩
  case stamped =>
    exact ⟨_, congrArg Outcome.next (copyStampWriteBody_puts h hdue hstamp htags hcheck), State.stampPut h howner hnear hroute hgate hgood hhome _ hceiling⟩
end

end Sys2Proof.Machine
end
